-- ==== Sys2Proof/Word.lean ====
section
/-! DEFINITION. The word types of the part: bytes, the two IEEE formats as bit patterns (R42),
and the two carriers of sparse data: a table keyed by natural numbers and a byte memory. -/

namespace Sys2Proof

/-- One byte. -/
abbrev Byte := BitVec 8

/-- An F32 bit pattern (R42). -/
abbrev F32 := BitVec 32

/-- An HB16 bit pattern (R42). -/
abbrev HB16 := BitVec 16

/-- A numeric status word (R64). -/
abbrev Nsw := BitVec 16

/-- A sparse table: pairs of key and value, keys rising, no value equal to the table's default. -/
abbrev Tab (α : Type) := List (Nat × α)

/-- A byte memory in the same canonical form. -/
abbrev Mem := List (Nat × Byte)

end Sys2Proof
end

