-- ==== Sys2Proof/Syntax.lean ====
section
/-! DEFINITION. The commands of the block: one constructor for each row of the opcode table, and their operand types. -/

namespace Sys2Proof

/-- The access path of a dictionary write (R408): the mailbox of a function, the rack ring with or without an
authenticated frame, or the monitor. -/
inductive Path where
  | mailbox (fn : Nat)
  | ring (auth : Bool)
  | monitor
  deriving DecidableEq, Repr

/-- What the draws of one descriptor are declared for (R68, R69, R209, R210): stream of a conversion without gradient
class, layer, logical element index of the tile's first element, and index distance of two rows. -/
structure DrawDecl where
  stream : Nat
  layer : Nat
  base : Nat
  row : Nat
  deriving DecidableEq, Repr

/-- What a mesh packet asks for or carries (R24, R27, R28). -/
inductive MeshKind where
  | read (addr len id : Nat)
  | write (addr id : Nat) (data : List Byte)
  | response (id : Nat)
  | ack (id : Nat)
  | manage
  deriving DecidableEq, Repr

/-- A mesh packet at its point of delivery (R24, R25): source and destination rods, partition number of its header,
virtual channel, payload length, sideband sequence number, rod cycle of injection. -/
structure MeshPacket where
  src : Nat
  dst : Nat
  part : Nat
  vc : Nat
  len : Nat
  seq : Nat
  sent : Nat
  kind : MeshKind
  deriving DecidableEq, Repr

/-- Whose write or request an outstanding packet is (R27, R28). -/
inductive Writer where
  | mover (rod seq : Nat)
  | fetch (rod : Nat)
  | stager (part id row off len : Nat)
  | tally (n seq rod : Nat)
  | carry (bkt : Nat)
  | edge (landing : Nat)
  | transit (cls : Nat)
  deriving DecidableEq, Repr

/-- What a chain's reads find (R89, R119): nothing, corrected words, an uncorrectable operand-cache word read for an active
element, one read for inactive elements alone, an uncorrectable accumulator word. -/
inductive ChainErr where
  | none
  | corrected
  | opc
  | opcIdle
  | acc
  deriving DecidableEq, Repr

/-- What the error correction of a word finds (R145, R147). -/
inductive Ecc where
  | ok
  | corrected
  | uncorr
  deriving DecidableEq, Repr

/-- What a lower-deck read of a 64 B unit meets beside good data (R146): a transfer corrected by link ECC, a corrected unit,
an unreadable unit. -/
inductive LdEcc where
  | link
  | corrected
  | uncorr
  deriving DecidableEq, Repr

/-- The end of a read-out (R84, R89): rod, and what its reads of the accumulators find. -/
structure ReadEnd where
  rod : Nat
  ecc : Ecc
  deriving DecidableEq, Repr

/-- The zero-fill of an extent (R138): physical extent, and, where no object asks for it, the partition for which it begins (log
entry 63). -/
structure FillEnd where
  ext : Nat
  owner : Nat
  begins : Bool
  deriving DecidableEq, Repr

/-- A stage starting (R144, R146): partition, and what its lower-deck reads meet, by physical address. -/
structure StageGo where
  part : Nat
  finds : List (Nat × LdEcc)
  deriving DecidableEq, Repr

/-- A read of the numerics state (R196): the step, and whether GUARDED alone is asked for. -/
structure NumQuery where
  step : Nat
  guardedOnly : Bool
  deriving DecidableEq, Repr

/-- A rod program's push to the carry unit (R244, R265): the descriptor, and whether the rod then waits for it. -/
structure CarryPush where
  desc : BitVec 512
  hold : Bool
  deriving DecidableEq, Repr

/-- One requester's access to a slice (R124): offset, bytes to write or none for a read, and what its read finds. -/
structure SliceReq where
  off : Nat
  len : Nat
  data : Option (List Byte)
  ecc : Ecc
  deriving DecidableEq, Repr

/-- A PUBLISH call (R163, R164): record number, parts, and the fields it carries: token count, loss mask, step, first token
index, first position, END_OF_STEP, FEAT, and the caller's status word. -/
structure PublishCall where
  seq : Nat
  parts : Nat
  tokens : Nat
  mask : Nat
  step : Nat
  token0 : Nat
  position : Nat
  eos : Bool
  feat : Bool
  nsw : Nsw
  deriving DecidableEq, Repr

/-- A loss-kernel call of a student (R172 to R178): record number; the student's final hidden state for each token and its
vocabulary projection, row for row of the vocabulary, in HB16 with their tensor scales; the teacher's projection in BD4:
codes, block scales and tensor scale; for each feature entry and token the projected features; what the draws of the logit
gradient and of each feature gradient are declared for. -/
structure KernelCall where
  seq : Nat
  hS : List (List HB16)
  tsH : F32
  wS : List (List HB16)
  tsW : F32
  wT : List (List Nat)
  sbT : List (List Nat)
  tsT : F32
  feat : List (List (List F32))
  draw : DrawDecl
  fdraw : List DrawDecl
  deriving DecidableEq, Repr

/-- A segment unit on its way (R250): direction, tag, step parity, epoch, sender rank, segment, its maximum, block scales
and codes. -/
structure SegUnit where
  down : Bool
  tag : Nat
  parity : Nat
  epoch : Nat
  sender : Nat
  index : Nat
  amax : F32
  sbs : List Nat
  codes : List Nat
  deriving DecidableEq, Repr

/-- A segment unit as it arrives (R250, R264), and the optical link by which it came; 64 or above for none. -/
structure SegArrival where
  unit : SegUnit
  link : Nat
  deriving DecidableEq, Repr

/-- A bucket header as it arrives (R257, R264), and its link. -/
structure HdrArrival where
  hdr : BitVec 512
  link : Nat
  deriving DecidableEq, Repr

/-- A chunk's data as it arrives (R266), and its link. -/
structure ChunkArrival where
  data : List Byte
  link : Nat
  deriving DecidableEq, Repr

/-- The sender of a mirror copy (R268): its node identifier and its partition. -/
structure MirrorClient where
  node : Nat
  part : Nat
  deriving DecidableEq, Repr

/-- A checkpoint image of a partition (R269): its step and the stroke of its capture, step header, regions (address and
length) and their bytes by address. -/
structure MirrorImage where
  step : Nat
  stroke : Nat
  hdr : List Byte
  regions : List (Nat × Nat)
  bytes : Mem
  deriving DecidableEq, Repr

/-- The latest mirror as its host sends it to an EXPORT command, and whether a write to host memory receives an abort (R272, R392). -/
structure ExportCopy where
  image : MirrorImage
  abort : Bool
  deriving DecidableEq, Repr

def MirrorImage.blank : MirrorImage := { step := 0, stroke := 0, hdr := [], regions := [], bytes := [] }

/-- A flit as it arrives on an optical link (R280): its 256 bytes, and the flit slots gone by since the link's latest flit
command, in which IDLE flits came that told nothing new (R288). -/
structure Flit where
  gap : Nat
  bytes : List Byte
  deriving DecidableEq, Repr

/-- The partner's PROOF (R287): its signature, and its share as it encrypted it. -/
structure ProofMsg where
  sig : List Byte
  share : List Byte
  deriving DecidableEq, Repr

/-- One destination of a route advertisement (R294). -/
structure RouteAdv where
  node : Nat
  cost : Nat
  hops : Nat
  deriving DecidableEq, Repr

/-- A row handed to a jetton unit (R319): the row's upper-deck address, request, position of the token it is for, teacher
row or draft row, whether a draft token is to be tested, and which, and the teacher's hidden state behind the row, which
stream-form harvest captures (R186). -/
structure JettonReq where
  addr : Nat
  req : Nat
  pos : Nat
  teacher : Bool
  test : Bool
  draftToken : Nat
  hidden : List HB16
  deriving DecidableEq, Repr

/-- Values of the mailbox registers when GO is written (R385). -/
structure MbRegs where
  cmd : BitVec 64
  offset : BitVec 64
  addr : BitVec 64
  vector : BitVec 32
  deriving DecidableEq, Repr

/-- A read of 8 bytes of a function's BAR, or of its MSI-X BAR, at an offset (R383). -/
structure BarRead where
  msix : Bool
  off : Nat
  deriving DecidableEq, Repr

/-- Accesses of the host to a function's BAR beside its queues, doorbells and mailbox (R383, R384): what is written to CQ_FUNC_CTRL, if
anything, and to CQ_FUNC_STATUS, and the offsets read after that. -/
structure FuncWrite where
  value : Option (BitVec 32)
  status : BitVec 32
  reads : List BarRead
  deriving DecidableEq, Repr

/-- A write of an entry of a function's MSI-X table (R383, R395): vector, mask bit, message address and data. -/
structure MsixWrite where
  vector : Nat
  masked : Bool
  addr : BitVec 64
  data : BitVec 32
  deriving DecidableEq, Repr

/-- How host software sets up the window (R397): a write of CQ_WIN_EXTENTS, or the base and the commit bit of the HDM decoder of the
physical function. -/
inductive WinSetup where
  | extents (n : Nat)
  | decoder (base : Nat) (commit : Bool)
  deriving DecidableEq, Repr

/-- A queue whose command writes host memory, and whether a write receives a completer abort (R392). -/
structure QueueAbort where
  q : Nat
  abort : Bool
  deriving DecidableEq, Repr

/-- What the program image of a RUN declares (R391, R392, R447): length in bytes, its level entry for FILTIA, rods it
names. -/
structure ProgInfo where
  len : Nat
  level : Option (BitVec 64)
  rods : List Nat
  deriving DecidableEq, Repr

/-- A host access to a 64 B line of the memory window (R397, R398): host address, write data or none, and what the lower-deck
reads of a block fill that it causes meet (R146). -/
structure WinReq where
  addr : Nat
  write : Option (List Byte)
  finds : List (Nat × LdEcc)
  deriving DecidableEq, Repr

/-- The access as the window buffer takes it (R398): offset, host address, write data or none, and what the lower-deck
reads of a block fill that it causes meet (R146). -/
structure WinAccess where
  off : Nat
  addr : Nat
  write : Option (List Byte)
  finds : List (Nat × LdEcc)
  deriving DecidableEq, Repr

/-- The SPDM requests that a DOE mailbox answers (R442), and any other. -/
inductive SpdmKind where
  | getVersion
  | getCapabilities
  | negotiateAlgorithms
  | getDigests
  | getCertificate
  | challenge
  | getMeasurements
  | keyExchange
  | finish
  | other
  deriving DecidableEq, Repr

/-- An SPDM request (R442): its kind, the measurement block it asks for, and whether what it offers or proves is acceptable. -/
structure SpdmReq where
  kind : SpdmKind
  block : Nat
  ok : Bool
  deriving DecidableEq, Repr

/-- What the LOGIN row carries: a line LOGIN with its passphrase; or characters that arrive on the monitor line as they are, which hold
any of the monitor's commands (R426 to R429). -/
inductive MonInput where
  | phrase (p : List Byte)
  | chars (c : List Byte)
  deriving DecidableEq, Repr


/-- The commands (opcode_table.json). `path` is the access path of a dictionary command, `fn` a host function, `q` a queue,
`rod` a rod number, `part` or `p` a partition, `n` a pairing, `l` an optical link. -/
inductive Instr where
  /-- MESH_PACKET_DELIVERY (R340): A mesh packet reaches its point of delivery and is checked against the owning partition before the destination acts on it. -/
  | meshPacketDelivery (pkt : MeshPacket)
  /-- VC0_REQUEST_TIMEOUT (R27): A VC0 request has had no response for 65,536 cycles, so the command ends with MESH_LOST and a deferred record is written. -/
  | vc0RequestTimeout (id : Nat)
  /-- VC2_ACKNOWLEDGEMENT (R28): A VC1 acknowledgement of a VC2 upper-deck write reaches its writer. -/
  | vc2Acknowledgement (id : Nat)
  /-- VC2_ACK_TIMEOUT (R28): A VC2 write has no acknowledgement after 65,536 cycles, so the writer treats it as lost and settles it by writer kind. -/
  | vc2AckTimeout (id : Nat)
  /-- FLIT_ERROR (R32): An uncorrectable flit error arrives on a link into a router, and a fourth one within 1,000 strokes fully fences the rod. -/
  | flitError (rod : Nat)
  /-- ROUTER_SELF_CHECK_FAIL (R32): A router fails its self-check and the rod is fully fenced. -/
  | routerSelfCheckFail (rod : Nat)
  /-- CONTROL_CORE_WATCHDOG (R32): A control-core watchdog expires, and a third expiry within 1,000 strokes core-fences the rod. -/
  | controlCoreWatchdog (rod : Nat)
  /-- FENCE_REQUEST (R35): A write of FENCE_REQUEST asks for a core or full fence of a rod, which is accepted, merged or refused. -/
  | fenceRequest (path : Path) (value : BitVec 32)
  /-- ROUTE_TABLES_COMPUTED (R38): Firmware finishes the new route tables and the route epoch begins by holding injection on VC0 to VC2. -/
  | routeTablesComputed (tables : List (Nat × Nat))
  /-- ROUTE_EPOCH_DRAIN_END (R38): The mesh drain of a route epoch ends and routers start loading their tables. -/
  | routeEpochDrainEnd
  /-- ROUTE_EPOCH_END (R38): Tables are loaded, injection resumes, the rod enters FULL_FENCED and ROUTE_EPOCH increments. -/
  | routeEpochEnd
  /-- CORE_FENCE_COMPLETE (R38): The fenced rod's command has ended, so the rod passes from FENCING to CORE_FENCED. -/
  | coreFenceComplete (rod : Nat)
  /-- MATMUL (R78): A MATMUL descriptor is accepted into the array queue and checked. -/
  | matmul (rod : Nat) (desc : BitVec 512) (draw : DrawDecl)
  /-- READOUT (R78): A READOUT descriptor is accepted and reads out a bank as it stands. -/
  | readout (rod : Nat) (desc : BitVec 512) (draw : DrawDecl)
  /-- CLEAR (R78): A CLEAR descriptor sets a bank to +0 and clears its status word. -/
  | clear (rod : Nat) (desc : BitVec 512)
  /-- MATMUL_STREAM_START (R87): A queued MATMUL begins streaming once it has waited 24 cycles and no bank wait applies. -/
  | matmulStreamStart (rod : Nat) (ecc : Ecc)
  /-- BANK_COMPLETE (R86): A MATMUL's drain ends and its bank is complete. -/
  | bankComplete (rod : Nat) (ecc : Ecc)
  /-- READOUT_END (R84): A read-out finishes writing its converted tile and the matrix descriptor completes. -/
  | readoutEnd (fin : ReadEnd)
  /-- CHAIN (R100): A CHAIN descriptor of up to eight element-wise stages is accepted into the vector queue and checked. -/
  | chain (rod : Nat) (desc : BitVec 1536) (draw : DrawDecl)
  /-- PERMUTE (R109): A PERMUTE descriptor is accepted and gathers source elements by index. -/
  | permute (rod : Nat) (desc : BitVec 1536)
  /-- SHUFFLE (R109): A SHUFFLE descriptor is accepted and reverses, rotates, broadcasts or transposes. -/
  | shuffle (rod : Nat) (desc : BitVec 1536)
  /-- PACK (R109): A PACK descriptor is accepted and interleaves two sources. -/
  | pack (rod : Nat) (desc : BitVec 1536)
  /-- UNPACK (R109): An UNPACK descriptor is accepted and de-interleaves one source. -/
  | unpack (rod : Nat) (desc : BitVec 1536)
  /-- COMPRESS (R110): A COMPRESS descriptor is accepted and packs the active elements with their count. -/
  | compress (rod : Nat) (desc : BitVec 1536)
  /-- EXPAND (R110): An EXPAND descriptor is accepted and scatters source elements to active positions. -/
  | expand (rod : Nat) (desc : BitVec 1536)
  /-- TLOAD (R104): A TLOAD descriptor is accepted and loads a look-up table. -/
  | tload (rod : Nat) (desc : BitVec 1536)
  /-- FILL (R113): A FILL is accepted into the deck mover queue to copy upper-deck bytes into the operand cache. -/
  | fill (rod : Nat) (desc : BitVec 1536)
  /-- SPILL (R113): A SPILL is accepted into the deck mover queue to copy operand-cache bytes to the upper deck. -/
  | spill (rod : Nat) (desc : BitVec 1536)
  /-- CHAIN_START (R116): A queued vector operation starts once the previous one has completed and its bank and ordering waits are clear. -/
  | chainStart (rod : Nat) (err : ChainErr)
  /-- CHAIN_COMPLETE (R116): A vector operation completes, and its status word and scalar results become visible. -/
  | chainComplete (rod : Nat)
  /-- DECK_MOVE_COMPLETE (R113): A FILL or SPILL finishes moving its bytes. -/
  | deckMoveComplete (rod : Nat)
  /-- SLICE_ACCESS (R124): A slice grants an access to a deck port, mesh or reckoner request under its four-cycle pattern. -/
  | sliceAccess (rod : Nat) (deckPort mesh reckoner : Option SliceReq)
  /-- ROW_SPARE_COPY_END (R145): A row is copied to a spare row and remapped, and waiting accesses resume. -/
  | rowSpareCopyEnd (rod row : Nat)
  /-- LD_PACKAGE_FAIL (R146): A lower-deck package stops responding or fails too often, is marked failed, and a fatal-device record is written. -/
  | ldPackageFail (pkg : Nat) (stopped : Bool)
  /-- PATROL_SCRUB (R148): A background scrub reads a word, rewrites it if corrected and records it if uncorrectable. -/
  | patrolScrub (lower : Bool) (addr : Nat) (ecc : Ecc)
  /-- SLICE_ZEROING_END (R131): Zeroing of a slice for a new owner ends. -/
  | sliceZeroingEnd (rod : Nat)
  /-- EXTENT_ZERO_FILL_END (R138): Zero-filling of a lower-deck extent ends and the extent passes to its new owner. -/
  | extentZeroFillEnd (done : FillEnd)
  /-- STAGE_PUSH (R142): A rod program pushes a stage descriptor into its partition's stage queue, waiting while the queue is full. -/
  | stagePush (rod : Nat) (desc : BitVec 512)
  /-- STAGE_START (R144): A queued stage starts and its rows are checked before any byte moves. -/
  | stageStart (go : StageGo)
  /-- STAGE_END (R142): A stage ends with every unit visible, and its fence counter increments in queue order. -/
  | stageEnd (part id : Nat)
  /-- STAGE_FENCE_WAIT (R142): A rod program waits on a stage fence value. -/
  | stageFenceWait (rod fence value : Nat)
  /-- FORM (R154): TY_CONTROL FORM checks a FREE pairing, grants ring and shared slices, and makes the pairing ACTIVE. -/
  | form (path : Path) (n : Nat)
  /-- CLOSE (R157): TY_CONTROL CLOSE moves a pairing to CLOSING, ending waits, voiding slots and removing grants, or is held during MOVING. -/
  | close (path : Path) (n : Nat)
  /-- REBALANCE_TO_STUDENT (R182): A request to move a teacher frame to a student partition is accepted as pending or refused. -/
  | rebalanceToStudent (path : Path) (n frame part : Nat)
  /-- REBALANCE_TO_TEACHER (R182): A request to move a student frame to the teacher partition is accepted as pending or refused. -/
  | rebalanceToTeacher (path : Path) (n frame part : Nat)
  /-- ATTACH (R157): TY_CONTROL ATTACH checks a partition and holds it pending as a new student. -/
  | attach (path : Path) (n part : Nat)
  /-- DETACH (R180): TY_CONTROL DETACH removes a student or a pending attach from a pairing. -/
  | detach (path : Path) (n part : Nat)
  /-- ACQUIRE (R163): A teacher reserves the next sequence number, or waits for its slot, or is refused. -/
  | acquire (rod : Nat)
  /-- ACQUIRE_SLOT_FREE (R166): The slot a waiting ACQUIRE needs becomes fully released and the ACQUIRE returns. -/
  | acquireSlotFree (n : Nat)
  /-- PUBLISH (R164): A teacher PUBLISH call contributes its fields and status word to a reserved record. -/
  | publish (rod : Nat) (call : PublishCall)
  /-- PUBLISH_HEADER_WRITE (R164): Once the callers' earlier writes are visible, the part writes the record header and publishes the record. -/
  | publishHeaderWrite (n seq : Nat)
  /-- WAIT (R169): A student WAIT returns READY, SKIP or VOID for a published record, waits, or ends with a range status. -/
  | wait (rod seq : Nat)
  /-- WAIT_RECORD_PUBLISHED (R169): The record a waiting WAIT names is published and the WAIT returns. -/
  | waitRecordPublished (rod : Nat)
  /-- RELEASE (R169): A student RELEASE contributes to ending its hold, and an END_OF_STEP release latches TY_LOSS. -/
  | release (rod seq parts : Nat)
  /-- LOSS_KERNEL (R172): The student calls the loss kernel on a READY record to compute KL, gradients and the feature loss. -/
  | lossKernel (rod : Nat) (call : KernelCall)
  /-- TY_STALL (R177): An ACQUIRE or WAIT reaches TY_STALL_STROKES unmet and a deferred record is written. -/
  | tyStall (rod : Nat)
  /-- TY_TIMEOUT (R177): An ACQUIRE or WAIT reaches TY_ABORT_STROKES and its command ends. -/
  | tyTimeout (rod : Nat)
  /-- REBAL_MOVING (R182): All records up to the boundary are released and no command runs, so the frame leaves the donor and zeroing begins. -/
  | rebalMoving (n : Nat)
  /-- REBAL_MOVE_COMPLETE (R182): Zeroing ends, the frame enters the recipient and the pairing becomes ACTIVE again. -/
  | rebalMoveComplete (n : Nat)
  /-- TY_REBAL_ABANDONED (R183): A move not reaching MOVING within TY_REBAL_LIMIT strokes is abandoned. -/
  | tyRebalAbandoned (n : Nat)
  /-- PAIRING_FREE (R157): Every tally operation of a CLOSING pairing has ended and it becomes FREE. -/
  | pairingFree (n : Nat)
  /-- TY_HV_ENABLE (R192): A write of TY_HV_ENABLE checks the harvest region, computes TY_HV_RSIZE and resets the head. -/
  | tyHvEnable (path : Path) (part value : Nat)
  /-- HARVEST_RECORD_COPY (R188): Stagers copy a harvest record to the lower-deck region and advance TY_HV_HEAD, wrapping or stopping. -/
  | harvestRecordCopy (part : Nat)
  /-- START_RUN (R195): NUM_CONTROL START_RUN makes the partition RUNNING and fixes the first loss scale. -/
  | startRun (path : Path) (part : Nat)
  /-- END_RUN (R195): NUM_CONTROL END_RUN makes the partition IDLE and writes back the run step and loss scale. -/
  | endRun (path : Path) (part : Nat)
  /-- NUMERICS_STATE_READ (R196): A rod program reads the loss scale and guard bit of a step, waiting if that state is not yet fixed. -/
  | numericsStateRead (rod : Nat) (ask : NumQuery)
  /-- NUMERICS_STATE_WAIT_END (R196): A waiting numerics-state read returns once the step's state is fixed, or ends when the partition goes IDLE. -/
  | numericsStateWaitEnd (rod : Nat)
  /-- SLOT_TS_QUERY (R208): A rod program asks for the TS a slot supplied to its current command. -/
  | slotTsQuery (rod slot : Nat)
  /-- PHASE_MARK (R214): A rod program sets its phase mark to FORWARD or BACKWARD. -/
  | phaseMark (rod : Nat) (backward : Bool)
  /-- UPDATE_PUSH (R220): A rod program pushes an update descriptor, which is checked and queued, or waits while the queue is full. -/
  | updatePush (rod : Nat) (desc : BitVec 512)
  /-- PASS_START (R221): A pass at the head of its reckoner's order runs, waits, or completes as skipped or out of range, depending on the verdict. -/
  | passStart (reck : Nat)
  /-- PASS_END (R236): A pass ends, and the update phase of its step may end. -/
  | passEnd (reck : Nat)
  /-- TENSOR_UPDATE_COMPLETE (R223): The last part of a tensor update writes the weight scale word and records the slot. -/
  | tensorUpdateComplete (part slot : Nat)
  /-- ROOT_JOB_START (R235): A queued root job starts on the free systolic block. -/
  | rootJobStart (reck : Nat)
  /-- ROOT_JOB_END (R231): A root job ends, either writing the inactive root buffers or failing with a fallback record. -/
  | rootJobEnd (reck fb : Nat)
  /-- ROOT_QUERY (R232): A rod program asks whether roots are in force for a step, waiting for a pending job. -/
  | rootQuery (rod fb step : Nat)
  /-- RK_GROUPS_WRITE (R226): A write of a parameter-group entry is checked, held during an update phase or applied. -/
  | rkGroupsWrite (path : Path) (part k : Nat) (entry : BitVec 512)
  /-- GROUP_FORM (R243): CY_GROUP_CONTROL FORM checks a reduction group and starts its handshake, or makes a one-member group READY. -/
  | groupForm (path : Path) (part g : Nat)
  /-- GROUP_LEAVE (R243): CY_GROUP_CONTROL LEAVE returns a group to IDLE unless a bucket is open. -/
  | groupLeave (path : Path) (part g : Nat)
  /-- HANDSHAKE_UP (R243): A child's handshake digest, epoch and mismatch bit reach a member on the way up the tree. -/
  | handshakeUp (part g child : Nat) (digest : BitVec 256) (epoch : Nat) (mismatch : Bool)
  /-- HANDSHAKE_RESULT (R243): The handshake result reaches a member, making the group READY or returning it to IDLE. -/
  | handshakeResult (part g epoch : Nat) (matched : Bool)
  /-- CY_FORM_TIMEOUT (R243): A forming member has no result within CY_FORM_STROKES and returns to IDLE. -/
  | cyFormTimeout (part g : Nat)
  /-- REDUCE (R245): A REDUCE bucket descriptor is pushed, checked and opened. -/
  | reduce (rod : Nat) (push : CarryPush)
  /-- ALL_TO_ALL (R266): An ALL_TO_ALL descriptor is pushed and sends its chunks to every rank. -/
  | allToAll (rod : Nat) (push : CarryPush)
  /-- ALL_GATHER (R267): An ALL_GATHER descriptor is pushed and sends its chunk to every member. -/
  | allGather (rod : Nat) (push : CarryPush)
  /-- CLOSE_STEP (R259): A CLOSE_STEP descriptor is pushed for a step and group. -/
  | closeStep (rod : Nat) (push : CarryPush)
  /-- CARRY_TILE (R247): A read-out tile reaches the carry unit and is encoded as a bucket segment. -/
  | carryTile
  /-- LAYER_SOURCE_READ (R248): A layer-path bucket reads its source once its pushing command completes or its CARRY is accepted. -/
  | layerSourceRead (bkt : Nat)
  /-- SEGMENT_UNIT (R250): A segment unit from a child or parent lands, or is discarded. -/
  | segmentUnit (part g : Nat) (arr : SegArrival)
  /-- SEGMENT_COMBINE (R255): A member combines a segment in fixed order, then encodes it and sends it up or down. -/
  | segmentCombine (bkt seg : Nat)
  /-- BUCKET_HEADER (R257): A bucket header arrives after a sender's last unit or with the final sum. -/
  | bucketHeader (part g : Nat) (arr : HdrArrival)
  /-- BUCKET_COMPLETE (R256): The final sum is decoded into DST and the bucket completes. -/
  | bucketComplete (bkt : Nat)
  /-- CHUNK_LANDED (R266): An all-to-all or all-gather chunk from a rank lands in the receive buffer. -/
  | chunkLanded (part g tag parity sender epoch : Nat) (arr : ChunkArrival)
  /-- BUCKET_TIMEOUT (R263): An expected unit or header is missing after CY_TIMEOUT_STROKES, so the bucket fails and the group breaks. -/
  | bucketTimeout (bkt : Nat)
  /-- VERDICT_EXCHANGE_START (R259): All buckets of the step in the group are done, so CLOSE_STEP starts its verdict exchange or completes. -/
  | verdictExchangeStart (part g : Nat)
  /-- VERDICT_EXCHANGE_UP (R259): A child's status OR and bucket counts reach a member on the way up. -/
  | verdictExchangeUp (part g : Nat) (arr : HdrArrival)
  /-- VERDICT_RESULT (R260): The verdict reaches a member, deciding whether the step is applied or skipped. -/
  | verdictResult (part g : Nat) (hdr : BitVec 512) (link : Nat)
  /-- MIRROR_ENABLE (R269): CY_MIRROR_CONTROL ENABLE turns on scheduled checkpoint copies. -/
  | mirrorEnable (path : Path) (part : Nat)
  /-- MIRROR_DISABLE (R269): CY_MIRROR_CONTROL DISABLE turns off checkpoint copies. -/
  | mirrorDisable (path : Path) (part : Nat)
  /-- MIRROR_RESTORE (R271): CY_MIRROR_CONTROL RESTORE reads the latest mirror into a spare partition. -/
  | mirrorRestore (path : Path) (part : Nat)
  /-- MIRROR_EXPORT (R272): CY_MIRROR_CONTROL EXPORT sends the latest mirror to another part. -/
  | mirrorExport (path : Path) (part : Nat)
  /-- MIRROR_COPY_END (R269): Every region of a copy has been read and the waiting reckoner passes resume. -/
  | mirrorCopyEnd (part : Nat) (ok : Bool)
  /-- MIRROR_COMMIT (R270): The mirror host finishes writing a generation, matches its digest and sets VALID. -/
  | mirrorCommit (k : Nat) (client : MirrorClient) (copy : MirrorImage) (digest : BitVec 256)
  /-- MIRROR_RESTORE_END (R271): The restore's digest is checked and the regions and step header are written back, or CY_RESTORE_FAILED is recorded. -/
  | mirrorRestoreEnd (part : Nat) (copy : MirrorImage) (digest : BitVec 256)
  /-- LIGHT_DETECTED (R286): Light holds on every lane of a link for 10 ms, so the link enters LIGHT and then TRAINING. -/
  | lightDetected (l : Nat)
  /-- LIGHT_LOST (R286): Light is lost on a lane for 1 ms and the link enters ABSENT. -/
  | lightLost (l : Nat)
  /-- TRAINING_HOLD_END (R286): A training retry hold ends and a LIGHT link starts training. -/
  | trainingHoldEnd (l : Nat)
  /-- TRAINING_COMPLETE (R286): Lock, deskew and INIT complete, the interface levels are checked, and the link starts authenticating. -/
  | trainingComplete (l lanes : Nat) (bamen : BitVec 64)
  /-- TRAINING_TIMEOUT (R286): Training is not complete within 500 ms and the link returns to LIGHT. -/
  | trainingTimeout (l : Nat)
  /-- HELLO (R287): A partner's HELLO with node identifier, fabric, encryption setting and nonce is received. -/
  | hello (l node fabric : Nat) (enc : Bool) (nonce : BitVec 256)
  /-- CERT (R287): A partner's certificate chain is received and checked. -/
  | cert (l : Nat) (device issuers : List Byte)
  /-- PROOF (R287): A partner's signature and key share are received and verified. -/
  | proof (l : Nat) (msg : ProofMsg)
  /-- CONFIRM (R287): A partner's CONFIRM verifies under the new keys, and the link may become ACTIVE. -/
  | confirm (l : Nat) (msg : List Byte)
  /-- AUTH_TIMEOUT (R286): Authentication has not completed within 2 s and the link returns to LIGHT or is quarantined. -/
  | authTimeout (l : Nat)
  /-- FLIT_RECEIVE (R281): A flit is received and checked for CRC, tag, sequence and credit. -/
  | flitReceive (l : Nat) (f : Flit)
  /-- RETRY_REQ (R281): A RETRY_REQ flit is received, and the sender resends from the named SEQ. -/
  | retryReq (l : Nat) (ack : Nat)
  /-- IDLE_ACK_TIMER (R281): An idle link sends a flit with a current ACK after 1 µs. -/
  | idleAckTimer (l : Nat)
  /-- ACK_TIMEOUT (R290): Outstanding flits have had no ACK progress for 1 ms and the link retrains. -/
  | ackTimeout (l : Nat)
  /-- CREDIT_STALL (R290): Queued DATA waits longer than OP_STALL_US without credit, and a stall episode is counted. -/
  | creditStall (l : Nat)
  /-- LANE_LOCK_LOSS (R290): A lane loses lock or exceeds the FEC error rate, so the link narrows and degrades. -/
  | laneLockLoss (l working : Nat)
  /-- BAMEN_MESSAGE (R283): A whole DATA message arrives and either lands for its unit or is queued for forwarding. -/
  | bamenMessage (l hops : Nat) (hdr : BitVec 256) (data : List Byte)
  /-- TRANSIT_SEND (R284): A message in a transit buffer is forwarded with HOPS decreased once credit allows. -/
  | transitSend (port hop : Nat)
  /-- ROUTE_ADVERTISEMENT (R294): A partner's route advertisement is received and accepted into the route table. -/
  | routeAdvertisement (l : Nat) (adv : List RouteAdv)
  /-- ROUTE_ADVERT_TIMER (R294): Every 100 strokes, each link advertises the whole route table. -/
  | routeAdvertTimer
  /-- ROUTE_EXPIRY (R294): A route entry that has not been re-advertised for 400 strokes is removed. -/
  | routeExpiry (node l : Nat)
  /-- DEGRADED_RECOVERY (R291): A full-width DEGRADED link spends 10,000 strokes without reaching a threshold and returns to ACTIVE. -/
  | degradedRecovery (l : Nat)
  /-- QUARANTINE_HOLD_END (R292): A quarantine hold ends and the link returns to LIGHT. -/
  | quarantineHoldEnd (l : Nat)
  /-- KEY_EPOCH_SWITCH (R288): After 2^31 flit slots both ends derive the next link key and increment the epoch. -/
  | keyEpochSwitch (l : Nat)
  /-- LINK_ENABLE (R293): OP_LINK_CONTROL ENABLE enables a link, or is held pending during its shut-down. -/
  | linkEnable (path : Path) (l : Nat)
  /-- LINK_DISABLE (R293): OP_LINK_CONTROL DISABLE shuts a link down. -/
  | linkDisable (path : Path) (l : Nat)
  /-- LINK_RETRAIN (R293): OP_LINK_CONTROL RETRAIN moves an ACTIVE or DEGRADED link to TRAINING. -/
  | linkRetrain (path : Path) (l : Nat)
  /-- LINK_RELEASE (R292): OP_LINK_CONTROL RELEASE ends a quarantine hold and clears the doubling count. -/
  | linkRelease (path : Path) (l : Nat)
  /-- LINK_SHUTDOWN_END (R456): A disabled link is ABSENT with its transmitters dark and its shut-down ends. -/
  | linkShutdownEnd (l : Nat)
  /-- SLOT_ALIGNMENT_LOSS (R288): A link loses flit-slot alignment and is forced back to TRAINING with a new authentication. -/
  | slotAlignmentLoss (l : Nat)
  /-- FLOW_HOLD_EXPIRY (R295): A flow whose route changed has held its new messages for 1 ms, so they are released onto the new link. -/
  | flowHoldExpiry (flow : Nat)
  /-- SV_START (R300): SV_CONTROL START checks and starts the server and zeroes its tables. -/
  | svStart (path : Path)
  /-- SV_STOP (R302): SV_CONTROL STOP aborts every request at the next boundary and stops the server. -/
  | svStop (path : Path)
  /-- SV_DRAIN (R302): SV_CONTROL DRAIN refuses new submissions and lets running requests finish. -/
  | svDrain (path : Path)
  /-- SV_SUBMIT (R305): The SV_SUBMIT host command checks a request entry and queues it under its account. -/
  | svSubmit (fn q : Nat)
  /-- SV_CANCEL (R326): The SV_CANCEL host command sets CANCEL on a request and fixes its cancel step. -/
  | svCancel (fn q : Nat)
  /-- SERVING_BOUNDARY (R311): Delivery of the previous step has ended, so a boundary completes demotions and handles leaving, growth, admission and demotion. -/
  | servingBoundary
  /-- DEMOTION_COPY_END (R309): The copy of a hot page into its cold slot ends, or fails with DECK_UNCORR. -/
  | demotionCopyEnd (d : Nat)
  /-- DRAFT_PHASE (R315): The draft phase runs its rounds and samples draft tokens for each drafting request. -/
  | draftPhase
  /-- VERIFY_PHASE (R316): The teacher verifies the drafts and prefill chunks, and accepted and resampled tokens are emitted. -/
  | verifyPhase
  /-- DELIVERY (R322): Emitted tokens are written as token records to their channels and budgets are charged. -/
  | delivery
  /-- JETTON_ROW (R319): A serving program hands a row to a jetton unit, which samples, tests acceptance or takes the argmax. -/
  | jettonRow (rod : Nat) (row : JettonReq)
  /-- JETTON_ROW_DONE (R319): A jetton unit finishes its work on a row, writes the emitted token into the token area and returns it to the serving program. -/
  | jettonRowDone (die : Nat)
  /-- RING_CHANGE (R325): A write of SV_CH_BASE or SV_CH_ENTRIES while the server runs is held pending until the old ring is consumed. -/
  | ringChange (path : Path) (c : Nat) (base entries : Option Nat)
  /-- CQ_CH_TAIL (R396): A channel tail doorbell advances SV_CH_TAIL, or is ignored with DB_ERR. -/
  | cqChTail (fn c value : Nat)
  /-- PT_CREATE (R337): PT_CONTROL CREATE assigns frames, tables and keys and begins zeroing. -/
  | ptCreate (path : Path) (p : Nat)
  /-- PT_DESTROY (R338): PT_CONTROL DESTROY ends the resident command and makes the partition QUIESCING for destruction. -/
  | ptDestroy (path : Path) (p : Nat)
  /-- PT_ADD (R474): PT_CONTROL ADD marks frames as zeroing while they join the partition. -/
  | ptAdd (path : Path) (p : Nat)
  /-- PT_REMOVE (R338): PT_CONTROL REMOVE makes the partition QUIESCING until its command ends. -/
  | ptRemove (path : Path) (p : Nat)
  /-- CREATE_ZEROING_END (R337): Zeroing of a new partition ends and it becomes ACTIVE. -/
  | createZeroingEnd (p : Nat)
  /-- ADD_ZEROING_END (R474): Zeroing of added frames ends and they join the partition in one action. -/
  | addZeroingEnd (p : Nat)
  /-- QUIESCE_END (R338): No command of a QUIESCING partition runs, so REMOVE frees the frames or DESTROY frees the partition. -/
  | quiesceEnd (p : Nat)
  /-- REMOVE_ZEROING_END (R338): Zeroing of the frames freed by REMOVE or DESTROY ends, so the frames become free and the partition becomes ACTIVE or NONE. -/
  | removeZeroingEnd (p : Nat)
  /-- CTX_ENABLE (R343): PT_CTX_CONTROL ENABLE enables a context. -/
  | ctxEnable (path : Path) (p c : Nat)
  /-- CTX_DISABLE (R343): PT_CTX_CONTROL DISABLE stops serving a context's queues, or discards its saved state. -/
  | ctxDisable (path : Path) (p c : Nat)
  /-- CTX_YIELD (R343): PT_CTX_CONTROL YIELD requests a soft yield at the next command boundary. -/
  | ctxYield (path : Path) (p c : Nat)
  /-- CTX_EVICT (R343): PT_CTX_CONTROL EVICT requests an immediate hard switch. -/
  | ctxEvict (path : Path) (p c : Nat)
  /-- SLICE_EXPIRY (R344): The resident context's slice expires and a scheduling decision is taken. -/
  | sliceExpiry (p : Nat)
  /-- YIELD_GRACE_EXPIRY (R345): No command boundary arrives within PT_YIELD_GRACE_US after a slice expiry, so a hard switch begins. -/
  | yieldGraceExpiry (p : Nat)
  /-- WAIT_SWITCH_TIMEOUT (R347): A command has waited PT_WAIT_SWITCH_US while a lower-V context is READY, so a hard switch is triggered. -/
  | waitSwitchTimeout (p : Nat)
  /-- HARD_SWITCH_SAVE (R348): Once the rods' running engine work has ended, rod state is saved and the incoming context's state is restored. -/
  | hardSwitchSave (p : Nat)
  /-- HARD_SWITCH_END (R348): The last rod has switched and the outgoing context becomes SWITCHED_OUT. -/
  | hardSwitchEnd (p : Nat)
  /-- II_WINDOW_END (R352): An interference window ends, the index is written, and a record is written if it exceeds PT_II_WARN. -/
  | iiWindowEnd (p : Nat) (routers grants : List (Nat × Nat)) (twice : Nat)
  /-- RING_FRAME (R421): A whole ring frame arrives, is checked, served and forwarded with the part's response slot. -/
  | ringFrame (bytes : List Byte)
  /-- HOLDOVER_ENTRY (R357): No valid frame arrives for 1.5 P, so a local stroke begins and the timebase enters HOLDOVER. -/
  | holdoverEntry
  /-- HOLDOVER_STROKE (R357): P passes in HOLDOVER and the next local stroke begins. -/
  | holdoverStroke
  /-- FIRST_WAIT_EXPIRY (R357): ST_FIRST_WAIT_MS passes with no frame, so stroke 0 begins in HOLDOVER. -/
  | firstWaitExpiry
  /-- REJOIN_TIMEOUT (R357): No valid frame arrives for 1.5 P in REJOIN, so local strokes resume. -/
  | rejoinTimeout
  /-- POWER_SAMPLE (R371): A 10 µs input-power sample updates the governor limit. -/
  | powerSample (mw : Nat)
  /-- GOVERNOR_REPEAT (R371): While the 10 ms average stays above 6,400 W, the governor lowers its limit again every 1 ms. -/
  | governorRepeat
  /-- VOLTAGE_SAMPLE (R372): An input voltage average below 40.0 V sets the supply limit to level 0. -/
  | voltageSample (mv : Nat)
  /-- UNDERVOLT_RELEASE (R372): Input held at 41.0 V or above for 10 ms releases the supply limit. -/
  | undervoltRelease
  /-- SUPPLY_SHUTDOWN (R372): Input under- or overvoltage shuts the regulators down and the part goes dark. -/
  | supplyShutdown
  /-- THERMAL_SAMPLE (R373): A 100 µs junction sample sets the thermal limit or causes a thermal trip. -/
  | thermalSample (dieTenths : List Nat)
  /-- THROTTLE_STEP (R373): The thermal limit falls every 1 ms while hot, or rises every 10 ms while cool. -/
  | throttleStep
  /-- HOST_LINK_TRAINED (R380): The host link settles at a rate and width and may offer CXL.io only. -/
  | hostLinkTrained (rate width : Nat)
  /-- HOST_LINK_DOWN (R380): The CXL host link goes down, and CQ_LINK_STATE becomes DOWN with CQ_LINK_RATE 0. -/
  | hostLinkDown
  /-- CQ_SQ_TAIL (R388): A submission-queue tail doorbell is written, or ignored with DB_ERR. -/
  | cqSqTail (fn q : Nat) (value : BitVec 32)
  /-- CQ_CQ_HEAD (R388): A completion-queue head doorbell releases entries, or is ignored. -/
  | cqCqHead (fn q : Nat) (value : BitVec 32)
  /-- CQ_FUNC_CTRL (R384): A write of EN enables a function's queues, or stops fetching and begins its shut-down. -/
  | cqFuncCtrl (fn : Nat) (wr : FuncWrite)
  /-- FUNC_SHUTDOWN_END (R456): Every accepted command of a disabled function has completed and its shut-down ends. -/
  | funcShutdownEnd (fn : Nat)
  /-- MAILBOX_READ (R385): Mailbox GO with OP READ reads an object into the host buffer. -/
  | mailboxRead (fn : Nat) (regs : MbRegs)
  /-- MAILBOX_WRITE (R385): Mailbox GO with OP WRITE writes an object from the host buffer. -/
  | mailboxWrite (fn : Nat) (regs : MbRegs) (data : List Byte)
  /-- SQ_CONFIG_WRITE (R387): A write of a submission-queue entry is checked and enables, changes or disables the queue. -/
  | sqConfigWrite (fn q : Nat) (entry : BitVec 256)
  /-- CQ_CONFIG_WRITE (R387): A write of a completion-queue entry is checked and enables, changes or disables the queue. -/
  | cqConfigWrite (fn q : Nat) (entry : BitVec 256)
  /-- SQ_DRAIN_END (R387): The last accepted command of a disabled submission queue completes and ACTIVE clears. -/
  | sqDrainEnd (fn q : Nat)
  /-- COMMAND_FETCH (R389): A host command arrives from its submission queue while a completion entry is free. -/
  | commandFetch (fn q : Nat) (cmd : BitVec 1024)
  /-- RUN (R391): A RUN command is dispatched by its context, debited from the ledger and started on the rods. -/
  | run (fn q : Nat) (prog : ProgInfo)
  /-- RUN_COMPLETE (R391): Every rod of a RUN has ended and its completion is written. -/
  | runComplete (p : Nat)
  /-- DMA_IN (R391): A DMA_IN command copies host memory into the upper deck. -/
  | dmaIn (fn q : Nat) (data : List Byte)
  /-- DMA_OUT (R391): A DMA_OUT command copies upper-deck data to host memory. -/
  | dmaOut (fn q : Nat)
  /-- DMA_COMPLETE (R391): A DMA moves its last byte and its completion is written. -/
  | dmaComplete (id : Nat) (hostAbort : Bool)
  /-- STAGE (R391): A STAGE host command submits a stage descriptor and completes when the stage ends. -/
  | stage (fn q : Nat)
  /-- UPDATE (R391): An UPDATE host command pushes an update descriptor and completes when the pass completes. -/
  | update (fn q : Nat)
  /-- CARRY (R391): A CARRY host command pushes a bucket descriptor and completes when its operation or verdict does. -/
  | carry (fn q : Nat)
  /-- SLOT_READ (R391): A SLOT_READ command copies slots to the host and clears their RC fields. -/
  | slotRead (fn : Nat) (qa : QueueAbort)
  /-- SLOT_WRITE (R391): A SLOT_WRITE command checks and writes slots in ascending order. -/
  | slotWrite (fn q : Nat) (data : List Byte)
  /-- EXPORT (R391): An EXPORT host command writes the latest mirror into host memory. -/
  | exportMirror (fn q : Nat) (copy : ExportCopy)
  /-- COAL_TIMEOUT (R395): COAL_US passes after the first unsignalled completion and the vector is signalled. -/
  | coalTimeout (fn q : Nat)
  /-- WINDOW_ACCESS (R398): A host CXL.mem access to the window hits the window buffer or starts a block fill. -/
  | windowAccess (acc : WinReq)
  /-- WINDOW_BLOCK_FILL (R398): A window buffer block fill ends and the waiting access completes. -/
  | windowBlockFill
  /-- WINDOW_WRITEBACK (R398): A dirty block is written back 10 ms after its first write. -/
  | windowWriteback (block : Nat)
  /-- CQ_WIN_EXTENTS (R397): A write of CQ_WIN_EXTENTS allocates and zero-fills window extents, or is refused. -/
  | cqWinExtents (path : Path) (win : WinSetup)
  /-- WINDOW_OPEN (R397): The window's zero-fill ends and the window opens. -/
  | windowOpen
  /-- FUNCTION_LEVEL_RESET (R400): A PCIe function-level reset stops fetching and ends the function's commands. -/
  | functionLevelReset (fn : Nat)
  /-- FLR_REGISTERS_RESET (R400): At 1 ms the function's registers, queues, mailbox and MSI-X table return to reset values. -/
  | flrRegistersReset (fn : Nat)
  /-- FLR_END (R400): At 100 ms the function answers configuration requests again. -/
  | flrEnd (fn : Nat)
  /-- SPDM_REQUEST (R442): An SPDM request on a DOE mailbox is answered. -/
  | spdmRequest (fn : Nat) (req : SpdmReq)
  /-- MSIX_VECTOR_UNMASK (R395): Host software unmasks an MSI-X vector whose pending bit is set, and the part sends the held interrupt. -/
  | msixVectorUnmask (fn : Nat) (w : MsixWrite)
  /-- CQ_CH_SHADOW (R396): A write of CQ_CH_SHADOW sets the channel head shadow address, or is refused with CFG_ERR when it is not a multiple of 256. -/
  | cqChShadow (fn : Nat) (value : BitVec 64)
  /-- VF_ENABLE (R382): An SR-IOV VF Enable or NumVFs write gives partitions their virtual functions and queues, and is ignored before compute-ready or in restricted mode. -/
  | vfEnable (numVfs : Nat) (enable : Bool)
  /-- OBJECT_WRITE (R404): A write of a dictionary object that has no row of its own is checked and applied. -/
  | objectWrite (path : Path) (idx sub off : Nat) (data : List Byte)
  /-- RWP_COMMIT (R405): A persistent object write is committed to both flash copies. -/
  | rwpCommit
  /-- DEFAULTS (R405): DICT_CONTROL DEFAULTS returns every RWP object to its default at the next reset. -/
  | defaults (path : Path)
  /-- RING_READ (R418): A ring READ request returns object bytes. -/
  | ringRead
  /-- RING_WRITE (R418): A ring WRITE request writes a small object whole. -/
  | ringWrite
  /-- RING_STAGE (R418): A ring STAGE request writes data into the stage buffer. -/
  | ringStage
  /-- RING_COMMIT (R418): A ring COMMIT request writes stage-buffer bytes into an object as one access. -/
  | ringCommit
  /-- RING_SNAP (R418): A ring SNAP request copies object bytes into the snap buffer atomically. -/
  | ringSnap
  /-- RING_PEEK (R418): A ring PEEK request returns snap-buffer bytes. -/
  | ringPeek
  /-- RING_KEY (R420): A write of RING_KEY sets the ring key and resets RING_SEQ_FLOOR. -/
  | ringKey (path : Path) (key : List Byte)
  /-- MON_HELP (R428): Monitor HELP lists the commands. -/
  | monHelp
  /-- MON_INFO (R428): Monitor INFO prints the identity and state summary. -/
  | monInfo
  /-- LOGIN (R427): Monitor LOGIN raises the session to operator level, or counts a failure. -/
  | login (input : MonInput)
  /-- LOGOUT (R427): Monitor LOGOUT returns the session to observer level. -/
  | logout
  /-- CHALLENGE (R427): Monitor CHALLENGE returns a fresh vendor nonce. -/
  | challenge
  /-- VENDOR (R427): Monitor VENDOR verifies a signed challenge, raises the session to vendor level and extends register 7. -/
  | vendor (lines : List (List Byte))
  /-- MON_READ (R428): Monitor READ prints an object value. -/
  | monRead (idx sub off len : Nat)
  /-- MON_WRITE (R428): Monitor WRITE writes an object value. -/
  | monWrite (idx sub off : Nat) (data : List Byte)
  /-- MON_LOG (R428): Monitor LOG prints the newest error records. -/
  | monLog (n : Nat)
  /-- WATCH_ON (R428): Monitor WATCH ON prints new error records as they are written. -/
  | watchOn
  /-- WATCH_OFF (R428): Monitor WATCH OFF stops printing error records. -/
  | watchOff
  /-- MON_RESET (R428): Monitor RESET requests a reset of a named kind. -/
  | monReset (kind inst : Nat)
  /-- MONITOR_BREAK (R429): The monitor line is held dark for 250 ms, resetting the baud rate, session level and buffers. -/
  | monitorBreak
  /-- MON_IDLE_TIMEOUT (R427): MON_IDLE_S passes without input and the session returns to observer level. -/
  | monIdleTimeout
  /-- LOGIN_LOCK_END (R427): The 60 s login lockout ends. -/
  | loginLockEnd
  /-- CHALLENGE_EXPIRY (R427): A vendor challenge nonce lapses 60 s after it was issued. -/
  | challengeExpiry
  /-- POWER_GOOD (R438): Power-good starts the boot ROM, which chooses the preferred bank. -/
  | powerGood
  /-- SEC_FIRMWARE_START (R438): The security-core firmware is verified, measured and started. -/
  | secFirmwareStart
  /-- MGMT_COMPLEX_START (R438): The identity key is unwrapped and the management firmware is verified and started. -/
  | mgmtComplexStart (identityOk : Bool)
  /-- MGMT_READY (R438): The management firmware is ready, the dictionary is reachable, and the ring bypass is released. -/
  | mgmtReady
  /-- IMAGES_VERIFIED (R438): Images 0x03 to 0x05 are verified and levels checked, possibly entering restricted mode. -/
  | imagesVerified
  /-- COMPUTE_READY (R438): Training, self-test, zeroing and key draws finish, compute becomes ready and TRIES is confirmed. -/
  | computeReady (selfTestFails pkgFails : List Nat)
  /-- WRITE_IMAGE (R451): FW_CONTROL WRITE_IMAGE checks a staged image and begins writing it into a bank slot. -/
  | writeImage (path : Path) (image bank : Nat)
  /-- WRITE_IMAGE_END (R451): The flash write ends, the slot is read back, and the bank state is set. -/
  | writeImageEnd (flashOk : Bool)
  /-- SELECT_BANK (R452): FW_CONTROL SELECT_BANK makes a bank preferred from the next reset. -/
  | selectBank (path : Path) (bank : Nat)
  /-- COMMIT_SVN (R453): FW_CONTROL COMMIT_SVN burns the minimum security versions. -/
  | commitSvn (path : Path)
  /-- ATT_REPORT (R441): A read of ATT_REPORT returns a report signed at that read. -/
  | attReport (path : Path)
  /-- COLD_RESET (R469): RST_CONTROL COLD turns the regulators off and on, losing every volatile state. -/
  | coldReset (path : Path)
  /-- DEVICE_RESET (R469): RST_CONTROL DEVICE holds every block for 10 ms and reboots, keeping ERR_RING. -/
  | deviceReset (path : Path)
  /-- DEVICE_RESET_HOLD_END (R469): The 10 ms hold of a device reset ends and the boot sequence runs from its start. -/
  | deviceResetHoldEnd
  /-- PARTITION_RESET (R471): RST_CONTROL PARTITION makes a partition RESETTING and ends its commands, stages, buckets and passes. -/
  | partitionReset (path : Path) (p : Nat)
  /-- PARTITION_RESET_KEYS (R471): At 1 ms a new key is drawn and the system area, numerics, masks and tables are reset. -/
  | partitionResetKeys (p : Nat)
  /-- PARTITION_RESET_END (R471): Caches and slices are zeroed, and the partition becomes ACTIVE with its fatal bit cleared. -/
  | partitionResetEnd (p : Nat)
  /-- FUNCTION_RESET (R469): RST_CONTROL FUNCTION performs a function-level reset of a named function. -/
  | functionReset (path : Path) (fn : Nat)
  /-- PORT_RESET (R469): RST_CONTROL PORT resets an optical port and applies its split, or resets the host port. -/
  | portReset (path : Path) (port : Nat)
  /-- MGMT_WATCHDOG (R469): The management watchdog sees no heartbeat for 2 s and causes a cold reset. -/
  | mgmtWatchdog
  deriving DecidableEq, Repr

end Sys2Proof
end

