-- ==== Sys2Proof/Decode.lean ====
section
/-! DEFINITION. No row of the opcode table carries bits, so no word spells a command. -/

namespace Sys2Proof

/-- The command a word spells by the table's bits: none, since the table gives no row any bits (log entry 1). -/
def decodeTableWord (_nbits _w : Nat) : Option Instr := none

end Sys2Proof
end

