-- ==== Sys2Proof/Config.lean ====
section
/-! DEFINITION. What an implementation fixes, and the free values: constants without a body, so that no proof can use
a value of them. -/

namespace Sys2Proof.Config

/-- Fresh values of 64 bits, one for each count of `State.draws` (log entry 3). -/
opaque freeValue : Nat → BitVec 64

/-- Fresh keys, nonces and key shares of 256 bits, by the same count (log entry 3). -/
opaque freeKey : Nat → BitVec 256

/-- Which of the results within the bounds of R121 the vector engine's base-2 exponential gives (log entry 6). -/
opaque exp2 : F32 → F32

/-- The same for its base-2 logarithm (R121, log entry 6). -/
opaque log2 : F32 → F32

/-- The same for its reciprocal (R121, log entry 6). -/
opaque rcp : F32 → F32

/-- The same for its reciprocal square root (R121, log entry 6). -/
opaque rsqrt : F32 → F32

/-- Which of the results within 1 u the schedule engine's fixed F64 algorithm gives (R227, log entry 6): the group's
constants, `t`, and which of lr, c1 and c2. -/
opaque schedPick : BitVec 512 → Nat → Nat → Nat

/-- How an F32 sum `a + Σ x y` inside a root job is formed, whose order and roundings the spec does not give (R231, log entry 7):
of a sum of `n` terms with `k` left, the two terms that are added next, and whether a product joins unrounded. -/
opaque rootMerge : Nat → Nat → Nat × Nat × Bool

/-- Which factor's damping a factor block reports where the two differ (R230, R233, log entry 7): true for R. -/
opaque dampOfR : Bool

/-- Byte of a lower-deck address read under a later key than it was written with (R139): key generation, address
(log entry 8). -/
opaque garbage : Nat → Nat → Byte

/-- Serial number, stepping, DER public key of the device identity key and its certificate chain, set at production (R406, R278,
R443, log entry 14). -/
opaque serial : Nat → Byte
opaque stepping : Byte
opaque identityKey : List Byte
opaque certs : Nat → Byte

/-- The secret of the die's physically unclonable function, and the identity area of each flash device: the wrapped identity key, the
PUF helper data and the certificate chain (R433, R443, R444, log entry 14). -/
opaque pufSecret : List Byte
opaque identityArea : Nat → Nat → Byte

/-- SHA-256 of the boot ROM (R440, log entry 14). -/
opaque romDigest : BitVec 256

/-- The keys that the boot ROM holds: the Holtust root public key, the image-signing keys 0 to 3 and the vendor debug key (R432,
log entry 19). -/
opaque rootKey : List Byte
opaque imageKey : Nat → List Byte
opaque vendorKey : List Byte

/-- RSASSA-PSS verification with SHA-256: key, signed bytes, signature (R287, R427, R434, log entry 19). -/
opaque pssVerify : List Byte → List Byte → List Byte → Bool

/-- A certificate chain verifies up to a root key; the DER public key that its device certificate carries (R287, log entry 19). -/
opaque chainOk : List Byte → List Byte → Bool
opaque chainKey : List Byte → List Byte

/-- RSAES-OAEP with SHA-256: encryption to a key (its random seed by draw number), and decryption by the identity key (R287, log
entry 19). -/
opaque oaepSeal : Nat → List Byte → List Byte → List Byte
opaque oaepOpen : List Byte → Option (List Byte)

/-- The info string of a link key's direction, from a sender to a receiver, and how HKDF forms the key of the next epoch from the
current key and the new epoch number, neither of which the spec gives (R287, R288, log entry 173). -/
opaque linkInfo : Nat → Nat → List Byte
opaque epochInfo : Nat → List Byte

/-- Byte of a signature of the identity key: draw number (its salt), signed bytes, place (R441, log entry 19). -/
opaque attSign : Nat → List Byte → Nat → Byte

/-- Bytes 4 to 31 of the FW_IMAGES entry of an erased slot, which the spec does not give (R458, log entry 19). -/
opaque erasedEntry : Nat → Byte

/-- What an unused next-hop place of an OP_ROUTES entry reads as, which the spec does not give (R297, log entry 19). -/
opaque unusedHop : Nat → Byte

/-- Spare rows of each slice (R122, R145, log entry 14). -/
opaque spareRows : Nat

end Sys2Proof.Config
end

