-- ==== Sys2Proof/Machine/Codes.lean ====
section
/-! DEFINITION. Status codes (R460) and record codes (R463). -/

namespace Sys2Proof.Machine

/-! Engines and decks -/

abbrev stDESC_INVALID : Nat := 0x0001
abbrev stFORMAT_INVALID : Nat := 0x0002
abbrev stSCALE_INVALID : Nat := 0x0003
abbrev stSLOT_INVALID : Nat := 0x0004
abbrev stDECK_RANGE : Nat := 0x0005
abbrev stLD_RANGE : Nat := 0x0006
abbrev stDECK_UNCORR : Nat := 0x0007
abbrev stOPC_UNCORR : Nat := 0x0008
abbrev stACC_UNCORR : Nat := 0x0009
abbrev stIDX_RANGE : Nat := 0x000A
abbrev stMESH_LOST : Nat := 0x000B
abbrev stROD_FENCED : Nat := 0x000C
abbrev stSEQ_LIMIT : Nat := 0x000D

/-! Tally -/

abbrev stTY_NOT_BOUND : Nat := 0x0020
abbrev stTY_ORDER : Nat := 0x0021
abbrev stTY_WOULD_DEADLOCK : Nat := 0x0022
abbrev stTY_SEQ_RANGE : Nat := 0x0023
abbrev stTY_TIMEOUT : Nat := 0x0024
abbrev stTY_DETACHED : Nat := 0x0025
abbrev stTY_TEACHER_LOST : Nat := 0x0026
abbrev stTY_BUSY : Nat := 0x0027
abbrev stTY_TENANT : Nat := 0x0028
abbrev stTY_CONFIG : Nat := 0x0029
abbrev stREBAL_REFUSED : Nat := 0x002A

/-! Numerics and reckoner -/

abbrev stNUM_BUSY : Nat := 0x0030
abbrev stNUM_STEP_RANGE : Nat := 0x0031
abbrev stRK_PLACEMENT : Nat := 0x0032
abbrev stRK_ORDER : Nat := 0x0033
abbrev stRK_STEP_RANGE : Nat := 0x0034
abbrev stRK_SKIPPED : Nat := 0x0035

/-! Carry unit -/

abbrev stCY_NO_GROUP : Nat := 0x0040
abbrev stCY_TABLE_FULL : Nat := 0x0041
abbrev stCY_TAG_BUSY : Nat := 0x0042
abbrev stCY_ORDER : Nat := 0x0043
abbrev stCY_NO_BUCKET : Nat := 0x0044
abbrev stCY_SEGMENT : Nat := 0x0045
abbrev stCY_BUSY : Nat := 0x0046
abbrev stCY_CONFIG : Nat := 0x0047

/-! Serving -/

abbrev stSV_STOPPED : Nat := 0x0050
abbrev stSV_ENTRY_BUSY : Nat := 0x0051
abbrev stSV_PARAM : Nat := 0x0052
abbrev stSV_ACCOUNT : Nat := 0x0053
abbrev stSV_STALE : Nat := 0x0054
abbrev stSV_BUSY : Nat := 0x0055
abbrev stSV_CONFIG : Nat := 0x0056

/-! Partitions and rods -/

abbrev stPT_CONFIG : Nat := 0x0060
abbrev stPT_BUSY : Nat := 0x0061
abbrev stPT_TENANT : Nat := 0x0062
abbrev stPT_FRAMES : Nat := 0x0063
abbrev stPT_DESTROYED : Nat := 0x0064
abbrev stPT_ROD_RANGE : Nat := 0x0065
abbrev stPT_CTX_DISABLED : Nat := 0x0066
abbrev stPART_RESET : Nat := 0x0067
abbrev stFENCE_REFUSED : Nat := 0x0068

/-! Host port -/

abbrev stCMD_INVALID : Nat := 0x0070
abbrev stCMD_PARTITION : Nat := 0x0071
abbrev stCMD_DENIED : Nat := 0x0072
abbrev stHOST_ABORT : Nat := 0x0073
abbrev stFUNC_RESET : Nat := 0x0074
abbrev stCQ_BUSY : Nat := 0x0075
abbrev stCQ_CONFIG : Nat := 0x0076

/-! Dictionary paths -/

abbrev stMB_PARAM : Nat := 0x0080
abbrev stMB_DENIED : Nat := 0x0081
abbrev stRING_PARAM : Nat := 0x0082
abbrev stRING_DENIED : Nat := 0x0083

/-! Firmware -/

abbrev stFW_NOT_READY : Nat := 0x0090
abbrev stFW_RESTRICTED : Nat := 0x0091
abbrev stFW_BUSY : Nat := 0x0092
abbrev stFW_SIGNATURE : Nat := 0x0093
abbrev stFW_SVN : Nat := 0x0094
abbrev stFW_SIZE : Nat := 0x0095
abbrev stFW_FLASH : Nat := 0x0096
abbrev stFW_BANK : Nat := 0x0097
abbrev stFW_LEVEL : Nat := 0x0098
abbrev stFW_PROG_LEVEL : Nat := 0x0099
abbrev stFW_NO_IDENTITY : Nat := 0x009A

/-! Device -/

abbrev stDEVICE_FATAL : Nat := 0x00A0

/-! Rods -/

abbrev rcFENCE_AUTO : Nat := 0x8000
abbrev rcFENCE_MAP_CONFLICT : Nat := 0x8001

/-! Decks -/

abbrev rcDK_SPARES_OUT : Nat := 0x8010
abbrev rcDK_PKG_FAILED : Nat := 0x8011

/-! Training -/

abbrev rcTY_STALL : Nat := 0x8020
abbrev rcTY_REBAL_ABANDONED : Nat := 0x8021
abbrev rcTY_REBAL_NONE : Nat := 0x8022
abbrev rcTY_REBAL_ADVICE : Nat := 0x8023
abbrev rcNUM_FLOOR : Nat := 0x8024
abbrev rcUW_HIGH : Nat := 0x8025
abbrev rcRK_GRAD_NONFINITE : Nat := 0x8026
abbrev rcRK_ROOT_FALLBACK : Nat := 0x8027

/-! Carry unit -/

abbrev rcCY_GROUP_MISMATCH : Nat := 0x8030
abbrev rcCY_FORM_TIMEOUT : Nat := 0x8031
abbrev rcCY_GROUP_LOST : Nat := 0x8032
abbrev rcCY_MIRROR_FAILED : Nat := 0x8033
abbrev rcCY_RESTORE_FAILED : Nat := 0x8034

/-! Optical ports -/

abbrev rcOP_LEVEL_MISMATCH : Nat := 0x8040
abbrev rcOP_LOOPBACK : Nat := 0x8041
abbrev rcOP_DEGRADED : Nat := 0x8042
abbrev rcOP_QUARANTINE : Nat := 0x8043
abbrev rcOP_ROUTE_FULL : Nat := 0x8044

/-! Serving and partitions -/

abbrev rcSV_LOST : Nat := 0x8050
abbrev rcPT_ISOLATION : Nat := 0x8051
abbrev rcPT_INTERFERENCE : Nat := 0x8052

/-! Strokes, power and heat -/

abbrev rcST_TIMEBASE_CONFLICT : Nat := 0x8060
abbrev rcPW_UNDERVOLT : Nat := 0x8061
abbrev rcPW_TJ_LIMIT : Nat := 0x8062
abbrev rcPW_THROTTLE : Nat := 0x8063
abbrev rcPW_THERMAL_TRIP : Nat := 0x8064

/-! Host, dictionary, firmware -/

abbrev rcCQ_LINK_DEGRADED : Nat := 0x8070
abbrev rcDICT_RESTORE : Nat := 0x8071
abbrev rcRING_SLOT_CONFLICT : Nat := 0x8072
abbrev rcFN_PENDING_REFUSED : Nat := 0x8073
abbrev rcMGMT_WATCHDOG : Nat := 0x8074

end Sys2Proof.Machine
end

