-- ==== Sys2Proof/Machine/Tab.lean ====
section
/-! DEFINITION. Reading and writing the sparse tables and byte memories of the state. -/

namespace Sys2Proof.Machine

/-- The ASCII bytes of a text. -/
def asciiBytes (t : String) : List Byte := t.toList.map (fun c => BitVec.ofNat 8 c.toNat)

/-- Value at key `k`; `d` where the table lists nothing. -/
def tget {α : Type} (d : α) : Tab α → Nat → α
  | [], _ => d
  | (k, v) :: t, j => if j = k then v else tget d t j

/-- Remove key `j`. -/
def terase {α : Type} : Tab α → Nat → Tab α
  | [], _ => []
  | (k, v) :: t, j => if j = k then terase t j else (k, v) :: terase t j

/-- Put `v` at key `j`, keys staying in rising order. -/
def tins {α : Type} : Tab α → Nat → α → Tab α
  | [], j, v => [(j, v)]
  | (k, w) :: t, j, v =>
    if j < k then (j, v) :: (k, w) :: t
    else if j = k then (j, v) :: t
    else (k, w) :: tins t j v

/-- Write key `j` in canonical form: a value equal to the default is not listed. -/
def tset {α : Type} [DecidableEq α] (d : α) (t : Tab α) (j : Nat) (v : α) : Tab α :=
  if v = d then terase t j else tins t j v

/-- Every listed value changed. -/
def tmap {α : Type} [DecidableEq α] (d : α) (f : α → α) (t : Tab α) : Tab α := t.foldl (fun u q => tset d u q.1 (f q.2)) []

/-- The canonical form: keys strictly rising, no default listed. -/
def twf {α : Type} [DecidableEq α] (d : α) : Tab α → Bool
  | [] => true
  | [(_, v)] => decide (v ≠ d)
  | (k, v) :: (k', v') :: t => decide (v ≠ d) && decide (k < k') && twf d ((k', v') :: t)

/-- The canonical form of a byte memory whose unlisted bytes are 0. -/
def Memory.wf (m : Mem) : Bool := twf 0 m

/-- Drop every entry whose key lies in `[a, a + n)`. -/
def tclear {α : Type} (t : Tab α) (a n : Nat) : Tab α :=
  t.filter (fun p => p.1 < a || a + n ≤ p.1)

/-- Byte at address `a` of a memory whose unlisted bytes are 0. -/
def mget (m : Mem) (a : Nat) : Byte := tget 0 m a

/-- `n` bytes from address `a`. -/
def mread (m : Mem) (a : Nat) : Nat → List Byte
  | 0 => []
  | n + 1 => mget m a :: mread m (a + 1) n

/-- Write the bytes `bs` from address `a`. -/
def mwrite (m : Mem) (a : Nat) : List Byte → Mem
  | [] => m
  | b :: bs => mwrite (tset 0 m a b) (a + 1) bs

/-- The listed bytes of `[a, a + n)`, moved to start at `b` (for copies of large spans). -/
def mspan (m : Mem) (a n b : Nat) : Mem :=
  (m.filter (fun p => a ≤ p.1 && p.1 < a + n)).map (fun p => (p.1 - a + b, p.2))

/-- Replace `[b, b + n)` of `m` by the listed bytes of `x`, which lie inside it. -/
def mput (m : Mem) (b n : Nat) (x : Mem) : Mem :=
  x.foldl (fun acc p => tset 0 acc p.1 p.2) (tclear m b n)

/-- Little-endian number of a list of bytes (R9). -/
def leNat : List Byte → Nat
  | [] => 0
  | b :: bs => b.toNat + 256 * leNat bs

/-- `n` bytes of a number, little-endian (R9). -/
def leBytes : Nat → Nat → List Byte
  | 0, _ => []
  | n + 1, v => BitVec.ofNat 8 v :: leBytes n (v / 256)

/-- Bits `[hi:lo]` of a word as a number. -/
def bits {w : Nat} (x : BitVec w) (hi lo : Nat) : Nat := (x.toNat >>> lo) % 2 ^ (hi + 1 - lo)

/-- Bit `n` of a word. -/
def bit {w : Nat} (x : BitVec w) (n : Nat) : Bool := x.toNat.testBit n

/-- Bits `[lo + n - 1 : lo]` of a number. -/
def nbits (x lo n : Nat) : Nat := (x >>> lo) % 2 ^ n

/-- `[0, 1, …, n - 1]`. -/
def upto : Nat → List Nat
  | 0 => []
  | n + 1 => upto n ++ [n]

/-- Saturating increment by `k` of a counter of `w` bits. -/
def satAdd (w a k : Nat) : Nat := min (a + k) (2 ^ w - 1)

/-- The numbers of the set bits of `x` below `n`. -/
def setBits (x n : Nat) : List Nat := (upto n).filter (fun i => x.testBit i)

/-- The number whose set bits are the members of a list. -/
def maskOf (l : List Nat) : Nat := l.foldl (fun a i => a ||| 2 ^ i) 0

/-- Read a table of `n` numbers of `w` bytes as one little-endian image of bytes, byte `i`. -/
def tabByte (t : Tab Nat) (d w i : Nat) : Byte := BitVec.ofNat 8 (tget d t (i / w) >>> (8 * (i % w)))

end Sys2Proof.Machine
end

