-- ==== Sys2Proof/Machine/Keys.lean ====
section
/-! DEFINITION. Keys of the dictionary objects, index × 256 + subindex (R402), under the names of their tables. -/

namespace Sys2Proof.Machine

/-- VENDOR (R406) -/
abbrev kVENDOR : Nat := 0x100001
/-- PART_NUMBER (R406) -/
abbrev kPART_NUMBER : Nat := 0x100002
/-- SERIAL (R406) -/
abbrev kSERIAL : Nat := 0x100003
/-- STEPPING (R406) -/
abbrev kSTEPPING : Nat := 0x100004
/-- DICT_OBJECTS (R406) -/
abbrev kDICT_OBJECTS : Nat := 0x100005
/-- DICT_DIRECTORY (R406) -/
abbrev kDICT_DIRECTORY : Nat := 0x100100
/-- DICT_CONTROL (R406) -/
abbrev kDICT_CONTROL : Nat := 0x100201
/-- DICT_PERSIST_PENDING (R406) -/
abbrev kDICT_PERSIST_PENDING : Nat := 0x100202
/-- FW_STATE (R458) -/
abbrev kFW_STATE : Nat := 0x110001
/-- FW_RESTRICT_CAUSE (R458) -/
abbrev kFW_RESTRICT_CAUSE : Nat := 0x110002
/-- FW_CONTROL (R458) -/
abbrev kFW_CONTROL : Nat := 0x110003
/-- FW_OP_STATUS (R458) -/
abbrev kFW_OP_STATUS : Nat := 0x110004
/-- FW_PREFERRED (R458) -/
abbrev kFW_PREFERRED : Nat := 0x110005
/-- FW_FALLBACK (R458) -/
abbrev kFW_FALLBACK : Nat := 0x110006
/-- FW_TRIES (R458) -/
abbrev kFW_TRIES : Nat := 0x110007
/-- FW_UPDATE_DATA (R458) -/
abbrev kFW_UPDATE_DATA : Nat := 0x110100
/-- FW_IMAGES (R458) -/
abbrev kFW_IMAGES : Nat := 0x110200
/-- FW_LEVELS (R458) -/
abbrev kFW_LEVELS : Nat := 0x110300
/-- FW_MIN_SVN (R458) -/
abbrev kFW_MIN_SVN : Nat := 0x110400
/-- FN_PENDING (R458) -/
abbrev kFN_PENDING : Nat := 0x118000
/-- FN_PENDING_COUNT (R458) -/
abbrev kFN_PENDING_COUNT : Nat := 0x118101
/-- ATT_NONCE (R459) -/
abbrev kATT_NONCE : Nat := 0x120001
/-- ATT_DEBUG (R459) -/
abbrev kATT_DEBUG : Nat := 0x120002
/-- ATT_REPORT (R459) -/
abbrev kATT_REPORT : Nat := 0x120100
/-- ATT_REGS (R459) -/
abbrev kATT_REGS : Nat := 0x120200
/-- ATT_CERTS (R459) -/
abbrev kATT_CERTS : Nat := 0x120300
/-- MON_BAUD (R430) -/
abbrev kMON_BAUD : Nat := 0x124001
/-- MON_PASS_HASH (R430) -/
abbrev kMON_PASS_HASH : Nat := 0x124002
/-- MON_IDLE_S (R430) -/
abbrev kMON_IDLE_S : Nat := 0x124003
/-- MON_LEVEL (R430) -/
abbrev kMON_LEVEL : Nat := 0x124004
/-- MON_FAILS (R430) -/
abbrev kMON_FAILS : Nat := 0x124005
/-- PW_VIN_MV (R375) -/
abbrev kPW_VIN_MV : Nat := 0x200001
/-- PW_POWER_W (R375) -/
abbrev kPW_POWER_W : Nat := 0x200002
/-- PW_TJ (R375) -/
abbrev kPW_TJ : Nat := 0x200003
/-- PW_LEVEL (R375) -/
abbrev kPW_LEVEL : Nat := 0x200004
/-- PW_LEVEL_CAUSE (R375) -/
abbrev kPW_LEVEL_CAUSE : Nat := 0x200005
/-- PW_LEVEL_MAX (R375) -/
abbrev kPW_LEVEL_MAX : Nat := 0x200006
/-- PW_LEVEL_FLOOR (R375) -/
abbrev kPW_LEVEL_FLOOR : Nat := 0x200007
/-- PW_POLICY (R375) -/
abbrev kPW_POLICY : Nat := 0x200008
/-- PW_BASE_W (R375) -/
abbrev kPW_BASE_W : Nat := 0x200009
/-- PW_THROTTLE_COUNT (R375) -/
abbrev kPW_THROTTLE_COUNT : Nat := 0x20000A
/-- PW_TJ_DIE (R375) -/
abbrev kPW_TJ_DIE : Nat := 0x200100
/-- PW_LEVEL_TABLE (R375) -/
abbrev kPW_LEVEL_TABLE : Nat := 0x200200
/-- PW_CLOCK_PLAN (R375) -/
abbrev kPW_CLOCK_PLAN : Nat := 0x200300
/-- ST_STATE (R376) -/
abbrev kST_STATE : Nat := 0x240001
/-- ST_NUMBER (R376) -/
abbrev kST_NUMBER : Nat := 0x240002
/-- ST_PERIOD_US (R376) -/
abbrev kST_PERIOD_US : Nat := 0x240003
/-- ST_HOLDOVER_W (R376) -/
abbrev kST_HOLDOVER_W : Nat := 0x240004
/-- ST_CARRY_UJ (R376) -/
abbrev kST_CARRY_UJ : Nat := 0x240005
/-- ST_BALANCE_MJ (R376) -/
abbrev kST_BALANCE_MJ : Nat := 0x240006
/-- ST_QUEUE (R376) -/
abbrev kST_QUEUE : Nat := 0x240007
/-- ST_HOLDOVER_STROKES (R376) -/
abbrev kST_HOLDOVER_STROKES : Nat := 0x240008
/-- ST_SKIPPED (R376) -/
abbrev kST_SKIPPED : Nat := 0x240009
/-- ST_STALE (R376) -/
abbrev kST_STALE : Nat := 0x24000A
/-- ST_GRANT_CLAMPED (R376) -/
abbrev kST_GRANT_CLAMPED : Nat := 0x24000B
/-- ST_REJOIN_MAX (R376) -/
abbrev kST_REJOIN_MAX : Nat := 0x24000C
/-- ST_FIRST_WAIT_MS (R376) -/
abbrev kST_FIRST_WAIT_MS : Nat := 0x24000D
/-- ST_LEDGER_HEAD (R376) -/
abbrev kST_LEDGER_HEAD : Nat := 0x24000E
/-- ST_LEDGER (R376) -/
abbrev kST_LEDGER : Nat := 0x240100
/-- RING_ID (R425) -/
abbrev kRING_ID : Nat := 0x241001
/-- RING_SLOT (R425) -/
abbrev kRING_SLOT : Nat := 0x241002
/-- RING_POS (R425) -/
abbrev kRING_POS : Nat := 0x241003
/-- RING_KEY (R425) -/
abbrev kRING_KEY : Nat := 0x241004
/-- RING_AUTH (R425) -/
abbrev kRING_AUTH : Nat := 0x241005
/-- RING_SEQ_FLOOR (R425) -/
abbrev kRING_SEQ_FLOOR : Nat := 0x241006
/-- RING_FRAMES (R425) -/
abbrev kRING_FRAMES : Nat := 0x241007
/-- RING_FCS_ERRORS (R425) -/
abbrev kRING_FCS_ERRORS : Nat := 0x241008
/-- RING_TAG_FAILS (R425) -/
abbrev kRING_TAG_FAILS : Nat := 0x241009
/-- RING_OVERRUNS (R425) -/
abbrev kRING_OVERRUNS : Nat := 0x24100A
/-- RING_CONFLICTS (R425) -/
abbrev kRING_CONFLICTS : Nat := 0x24100B
/-- RING_FOREIGN (R425) -/
abbrev kRING_FOREIGN : Nat := 0x24100C
/-- ROD_COUNT (R39) -/
abbrev kROD_COUNT : Nat := 0x300001
/-- FRAME_COUNT (R39) -/
abbrev kFRAME_COUNT : Nat := 0x300002
/-- ROD_STATE (R39) -/
abbrev kROD_STATE : Nat := 0x300100
/-- FENCE_REQUEST (R39) -/
abbrev kFENCE_REQUEST : Nat := 0x300201
/-- FENCED_COUNT (R39) -/
abbrev kFENCED_COUNT : Nat := 0x300301
/-- ROUTE_EPOCH (R39) -/
abbrev kROUTE_EPOCH : Nat := 0x300302
/-- FENCE_MAP (R39) -/
abbrev kFENCE_MAP : Nat := 0x300400
/-- FRAME_ROD_MASK (R39) -/
abbrev kFRAME_ROD_MASK : Nat := 0x300500
/-- ROD_DISCARDS (R39) -/
abbrev kROD_DISCARDS : Nat := 0x300600
/-- DK_UD_BYTES (R149) -/
abbrev kDK_UD_BYTES : Nat := 0x340001
/-- DK_SLICE_BYTES (R149) -/
abbrev kDK_SLICE_BYTES : Nat := 0x340002
/-- DK_LD_BYTES (R149) -/
abbrev kDK_LD_BYTES : Nat := 0x340003
/-- DK_LD_OWNER (R149) -/
abbrev kDK_LD_OWNER : Nat := 0x340100
/-- DK_SCRUB_UD_HOURS (R149) -/
abbrev kDK_SCRUB_UD_HOURS : Nat := 0x340201
/-- DK_SCRUB_LD_HOURS (R149) -/
abbrev kDK_SCRUB_LD_HOURS : Nat := 0x340202
/-- DK_PKG_STATE (R149) -/
abbrev kDK_PKG_STATE : Nat := 0x340300
/-- DK_SPARE_LEFT (R149) -/
abbrev kDK_SPARE_LEFT : Nat := 0x340400
/-- DK_SLICE_TABLE (R149), one of 16 -/
abbrev kDK_SLICE_TABLE (i : Nat) : Nat := 0x341000 + 256 * i
/-- DK_EXTENT_TABLE (R149), one of 16 -/
abbrev kDK_EXTENT_TABLE (i : Nat) : Nat := 0x343000 + 256 * i
/-- DK_STAGE_FENCE (R149), one of 16 -/
abbrev kDK_STAGE_FENCE (i : Nat) : Nat := 0x344000 + 256 * i
/-- OP_NODE_ID (R297) -/
abbrev kOP_NODE_ID : Nat := 0x380001
/-- OP_FABRIC_ID (R297) -/
abbrev kOP_FABRIC_ID : Nat := 0x380002
/-- OP_ALLOW_EN (R297) -/
abbrev kOP_ALLOW_EN : Nat := 0x380003
/-- OP_ALLOW (R297) -/
abbrev kOP_ALLOW : Nat := 0x380004
/-- OP_DENY (R297) -/
abbrev kOP_DENY : Nat := 0x380005
/-- OP_RETRY_DEGRADE (R297) -/
abbrev kOP_RETRY_DEGRADE : Nat := 0x380006
/-- OP_STALL_US (R297) -/
abbrev kOP_STALL_US : Nat := 0x380007
/-- OP_DISCARD_LIMIT (R297) -/
abbrev kOP_DISCARD_LIMIT : Nat := 0x380008
/-- OP_RATE_LIMIT (R297) -/
abbrev kOP_RATE_LIMIT : Nat := 0x380009
/-- OP_QUAR_STROKES (R297) -/
abbrev kOP_QUAR_STROKES : Nat := 0x38000A
/-- OP_ROUTE_COUNT (R297) -/
abbrev kOP_ROUTE_COUNT : Nat := 0x38000B
/-- OP_PORT_SPLIT (R297) -/
abbrev kOP_PORT_SPLIT : Nat := 0x380100
/-- OP_ROUTES (R297) -/
abbrev kOP_ROUTES : Nat := 0x380200
/-- OP_LINK_STATE (R298), one of 64 -/
abbrev kOP_LINK_STATE (i : Nat) : Nat := 0x381001 + 256 * i
/-- OP_LINK_CONTROL (R298), one of 64 -/
abbrev kOP_LINK_CONTROL (i : Nat) : Nat := 0x381002 + 256 * i
/-- OP_LINK_ENABLE (R298), one of 64 -/
abbrev kOP_LINK_ENABLE (i : Nat) : Nat := 0x381003 + 256 * i
/-- OP_LINK_ENC (R298), one of 64 -/
abbrev kOP_LINK_ENC (i : Nat) : Nat := 0x381004 + 256 * i
/-- OP_PEER_NODE (R298), one of 64 -/
abbrev kOP_PEER_NODE (i : Nat) : Nat := 0x381005 + 256 * i
/-- OP_LINK_LANES (R298), one of 64 -/
abbrev kOP_LINK_LANES (i : Nat) : Nat := 0x381006 + 256 * i
/-- OP_LINK_CAUSE (R298), one of 64 -/
abbrev kOP_LINK_CAUSE (i : Nat) : Nat := 0x381007 + 256 * i
/-- OP_LINK_COUNTERS (R298), one of 64 -/
abbrev kOP_LINK_COUNTERS (i : Nat) : Nat := 0x381008 + 256 * i
/-- OP_QUAR_REMAIN (R298), one of 64 -/
abbrev kOP_QUAR_REMAIN (i : Nat) : Nat := 0x381009 + 256 * i
/-- OP_KEY_EPOCH (R298), one of 64 -/
abbrev kOP_KEY_EPOCH (i : Nat) : Nat := 0x38100A + 256 * i
/-- CQ_LINK_RATE (R401) -/
abbrev kCQ_LINK_RATE : Nat := 0x3C0001
/-- CQ_LINK_WIDTH (R401) -/
abbrev kCQ_LINK_WIDTH : Nat := 0x3C0002
/-- CQ_LINK_STATE (R401) -/
abbrev kCQ_LINK_STATE : Nat := 0x3C0003
/-- CQ_VF_COUNT (R401) -/
abbrev kCQ_VF_COUNT : Nat := 0x3C0004
/-- CQ_WIN_EXTENTS (R401) -/
abbrev kCQ_WIN_EXTENTS : Nat := 0x3C0005
/-- CQ_WIN_STATE (R401) -/
abbrev kCQ_WIN_STATE : Nat := 0x3C0006
/-- CQ_DB_ERRORS (R401) -/
abbrev kCQ_DB_ERRORS : Nat := 0x3C0007
/-- CQ_WIN_HITS (R401) -/
abbrev kCQ_WIN_HITS : Nat := 0x3C0008
/-- CQ_WIN_MISSES (R401) -/
abbrev kCQ_WIN_MISSES : Nat := 0x3C0009
/-- PT_MAX (R353) -/
abbrev kPT_MAX : Nat := 0x400001
/-- PT_CTX_MAX (R353) -/
abbrev kPT_CTX_MAX : Nat := 0x400002
/-- PT_FRAME_OWNER (R353) -/
abbrev kPT_FRAME_OWNER : Nat := 0x400003
/-- PT_STATE (R353), one of 16 -/
abbrev kPT_STATE (i : Nat) : Nat := 0x401001 + 256 * i
/-- PT_CONTROL (R353), one of 16 -/
abbrev kPT_CONTROL (i : Nat) : Nat := 0x401002 + 256 * i
/-- PT_FRAME_ARG (R353), one of 16 -/
abbrev kPT_FRAME_ARG (i : Nat) : Nat := 0x401003 + 256 * i
/-- PT_FRAMES (R353), one of 16 -/
abbrev kPT_FRAMES (i : Nat) : Nat := 0x401004 + 256 * i
/-- PT_TENANT (R353), one of 16 -/
abbrev kPT_TENANT (i : Nat) : Nat := 0x401005 + 256 * i
/-- PT_LD_SHARE (R353), one of 16 -/
abbrev kPT_LD_SHARE (i : Nat) : Nat := 0x401006 + 256 * i
/-- PT_SLICE_US (R353), one of 16 -/
abbrev kPT_SLICE_US (i : Nat) : Nat := 0x401007 + 256 * i
/-- PT_YIELD_GRACE_US (R353), one of 16 -/
abbrev kPT_YIELD_GRACE_US (i : Nat) : Nat := 0x401008 + 256 * i
/-- PT_WAIT_SWITCH_US (R353), one of 16 -/
abbrev kPT_WAIT_SWITCH_US (i : Nat) : Nat := 0x401009 + 256 * i
/-- PT_RESIDENT (R353), one of 16 -/
abbrev kPT_RESIDENT (i : Nat) : Nat := 0x40100A + 256 * i
/-- PT_SWITCH_NS (R353), one of 16 -/
abbrev kPT_SWITCH_NS (i : Nat) : Nat := 0x40100B + 256 * i
/-- PT_ISOLATION_DROPS (R353), one of 16 -/
abbrev kPT_ISOLATION_DROPS (i : Nat) : Nat := 0x40100C + 256 * i
/-- PT_II (R353), one of 16 -/
abbrev kPT_II (i : Nat) : Nat := 0x40100D + 256 * i
/-- PT_II_SOURCE (R353), one of 16 -/
abbrev kPT_II_SOURCE (i : Nat) : Nat := 0x40100E + 256 * i
/-- PT_II_WINDOW (R353), one of 16 -/
abbrev kPT_II_WINDOW (i : Nat) : Nat := 0x40100F + 256 * i
/-- PT_II_WARN (R353), one of 16 -/
abbrev kPT_II_WARN (i : Nat) : Nat := 0x401010 + 256 * i
/-- PT_CTX_STATE (R353), one of 128 -/
abbrev kPT_CTX_STATE (i : Nat) : Nat := 0x410001 + 256 * i
/-- PT_CTX_CONTROL (R353), one of 128 -/
abbrev kPT_CTX_CONTROL (i : Nat) : Nat := 0x410002 + 256 * i
/-- PT_CTX_SHARE (R353), one of 128 -/
abbrev kPT_CTX_SHARE (i : Nat) : Nat := 0x410003 + 256 * i
/-- PT_CTX_SAVE (R353), one of 128 -/
abbrev kPT_CTX_SAVE (i : Nat) : Nat := 0x410004 + 256 * i
/-- PT_CTX_VTIME (R353), one of 128 -/
abbrev kPT_CTX_VTIME (i : Nat) : Nat := 0x410005 + 256 * i
/-- PT_CTX_ACCOUNT (R353), one of 128 -/
abbrev kPT_CTX_ACCOUNT (i : Nat) : Nat := 0x410006 + 256 * i
/-- SV_CONTROL (R330) -/
abbrev kSV_CONTROL : Nat := 0x440001
/-- SV_STATE (R330) -/
abbrev kSV_STATE : Nat := 0x440002
/-- SV_TEACHER (R330) -/
abbrev kSV_TEACHER : Nat := 0x440003
/-- SV_DRAFT (R330) -/
abbrev kSV_DRAFT : Nat := 0x440004
/-- SV_VOCAB (R330) -/
abbrev kSV_VOCAB : Nat := 0x440005
/-- SV_RUN_MAX (R330) -/
abbrev kSV_RUN_MAX : Nat := 0x440006
/-- SV_STEP_TOKENS (R330) -/
abbrev kSV_STEP_TOKENS : Nat := 0x440007
/-- SV_CHUNK (R330) -/
abbrev kSV_CHUNK : Nat := 0x440008
/-- SV_PAGES (R330) -/
abbrev kSV_PAGES : Nat := 0x440009
/-- SV_HOT_PAGES (R330) -/
abbrev kSV_HOT_PAGES : Nat := 0x44000A
/-- SV_T_PAGE_BYTES (R330) -/
abbrev kSV_T_PAGE_BYTES : Nat := 0x44000B
/-- SV_D_PAGE_BYTES (R330) -/
abbrev kSV_D_PAGE_BYTES : Nat := 0x44000C
/-- SV_T_HOT_BASE (R330) -/
abbrev kSV_T_HOT_BASE : Nat := 0x44000D
/-- SV_D_HOT_BASE (R330) -/
abbrev kSV_D_HOT_BASE : Nat := 0x44000E
/-- SV_T_COLD_BASE (R330) -/
abbrev kSV_T_COLD_BASE : Nat := 0x44000F
/-- SV_D_COLD_BASE (R330) -/
abbrev kSV_D_COLD_BASE : Nat := 0x440010
/-- SV_HOT_RESERVE (R330) -/
abbrev kSV_HOT_RESERVE : Nat := 0x440011
/-- SV_HOT_TAIL (R330) -/
abbrev kSV_HOT_TAIL : Nat := 0x440012
/-- SV_DEMOTE_MAX (R330) -/
abbrev kSV_DEMOTE_MAX : Nat := 0x440013
/-- SV_TABLE_BASE (R330) -/
abbrev kSV_TABLE_BASE : Nat := 0x440014
/-- SV_STEP (R330) -/
abbrev kSV_STEP : Nat := 0x440015
/-- SV_RUNNING (R330) -/
abbrev kSV_RUNNING : Nat := 0x440016
/-- SV_QUEUED (R330) -/
abbrev kSV_QUEUED : Nat := 0x440017
/-- SV_FREE_HOT (R330) -/
abbrev kSV_FREE_HOT : Nat := 0x440018
/-- SV_FREE_COLD (R330) -/
abbrev kSV_FREE_COLD : Nat := 0x440019
/-- SV_PAUSES (R330) -/
abbrev kSV_PAUSES : Nat := 0x44001A
/-- SV_REFUSALS (R330) -/
abbrev kSV_REFUSALS : Nat := 0x44001B
/-- SV_DRAFTED (R330) -/
abbrev kSV_DRAFTED : Nat := 0x44001C
/-- SV_ACCEPTED (R330) -/
abbrev kSV_ACCEPTED : Nat := 0x44001D
/-- SV_DRAFT_OFFS (R330) -/
abbrev kSV_DRAFT_OFFS : Nat := 0x44001E
/-- SV_REQ_TABLE (R330) -/
abbrev kSV_REQ_TABLE : Nat := 0x440100
/-- SV_PAGE_TABLE (R330) -/
abbrev kSV_PAGE_TABLE : Nat := 0x440200
/-- JT_ROWS (R330) -/
abbrev kJT_ROWS : Nat := 0x440300
/-- JT_BUSY_CYCLES (R330) -/
abbrev kJT_BUSY_CYCLES : Nat := 0x440400
/-- SV_ACCT_WEIGHT (R331) -/
abbrev kSV_ACCT_WEIGHT : Nat := 0x441000
/-- SV_ACCT_REFILL (R331) -/
abbrev kSV_ACCT_REFILL : Nat := 0x441100
/-- SV_ACCT_CAP (R331) -/
abbrev kSV_ACCT_CAP : Nat := 0x441200
/-- SV_ACCT_BUDGET (R331) -/
abbrev kSV_ACCT_BUDGET : Nat := 0x441300
/-- SV_CH_BASE (R332), one of 24 -/
abbrev kSV_CH_BASE (i : Nat) : Nat := 0x442001 + 256 * i
/-- SV_CH_ENTRIES (R332), one of 24 -/
abbrev kSV_CH_ENTRIES (i : Nat) : Nat := 0x442002 + 256 * i
/-- SV_CH_HEAD (R332), one of 24 -/
abbrev kSV_CH_HEAD (i : Nat) : Nat := 0x442003 + 256 * i
/-- SV_CH_TAIL (R332), one of 24 -/
abbrev kSV_CH_TAIL (i : Nat) : Nat := 0x442004 + 256 * i
/-- SV_CH_VECTOR (R332), one of 24 -/
abbrev kSV_CH_VECTOR (i : Nat) : Nat := 0x442005 + 256 * i
/-- SV_CH_STALLS (R332), one of 24 -/
abbrev kSV_CH_STALLS (i : Nat) : Nat := 0x442006 + 256 * i
/-- TY_PAIRING_MAX (R191) -/
abbrev kTY_PAIRING_MAX : Nat := 0x480001
/-- TY_GROUP_MAX (R191) -/
abbrev kTY_GROUP_MAX : Nat := 0x480002
/-- TY_VOCAB_MAX (R191) -/
abbrev kTY_VOCAB_MAX : Nat := 0x480003
/-- SEQ_LIMIT (R216) -/
abbrev kSEQ_LIMIT : Nat := 0x480004
/-- RK_GROUP_MAX (R240) -/
abbrev kRK_GROUP_MAX : Nat := 0x480005
/-- RK_FACTOR_MAX (R240) -/
abbrev kRK_FACTOR_MAX : Nat := 0x480006
/-- RK_QUEUE_MAX (R240) -/
abbrev kRK_QUEUE_MAX : Nat := 0x480007
/-- CY_TABLE_MAX (R273) -/
abbrev kCY_TABLE_MAX : Nat := 0x480008
/-- CY_GROUP_MAX (R273) -/
abbrev kCY_GROUP_MAX : Nat := 0x480009
/-- TY_STATE (R191), one of 8 -/
abbrev kTY_STATE (i : Nat) : Nat := 0x481001 + 256 * i
/-- TY_CONTROL (R191), one of 8 -/
abbrev kTY_CONTROL (i : Nat) : Nat := 0x481002 + 256 * i
/-- TY_TEACHER (R191), one of 8 -/
abbrev kTY_TEACHER (i : Nat) : Nat := 0x481003 + 256 * i
/-- TY_STUDENTS (R191), one of 8 -/
abbrev kTY_STUDENTS (i : Nat) : Nat := 0x481004 + 256 * i
/-- TY_MODE (R191), one of 8 -/
abbrev kTY_MODE (i : Nat) : Nat := 0x481005 + 256 * i
/-- TY_VOCAB (R191), one of 8 -/
abbrev kTY_VOCAB (i : Nat) : Nat := 0x481006 + 256 * i
/-- TY_HIDDEN (R191), one of 8 -/
abbrev kTY_HIDDEN (i : Nat) : Nat := 0x481007 + 256 * i
/-- TY_TEMP (R191), one of 8 -/
abbrev kTY_TEMP (i : Nat) : Nat := 0x481008 + 256 * i
/-- TY_WEIGHT (R191), one of 8 -/
abbrev kTY_WEIGHT (i : Nat) : Nat := 0x481009 + 256 * i
/-- TY_STEP_TOKENS (R191), one of 8 -/
abbrev kTY_STEP_TOKENS (i : Nat) : Nat := 0x48100A + 256 * i
/-- TY_GROUP (R191), one of 8 -/
abbrev kTY_GROUP (i : Nat) : Nat := 0x48100B + 256 * i
/-- TY_NREC (R191), one of 8 -/
abbrev kTY_NREC (i : Nat) : Nat := 0x48100C + 256 * i
/-- TY_LEAD (R191), one of 8 -/
abbrev kTY_LEAD (i : Nat) : Nat := 0x48100D + 256 * i
/-- TY_RING (R191), one of 8 -/
abbrev kTY_RING (i : Nat) : Nat := 0x48100E + 256 * i
/-- TY_RING_OFFSET (R191), one of 8 -/
abbrev kTY_RING_OFFSET (i : Nat) : Nat := 0x48100F + 256 * i
/-- TY_SHARED (R191), one of 8 -/
abbrev kTY_SHARED (i : Nat) : Nat := 0x481010 + 256 * i
/-- TY_FEATURES (R191), one of 8 -/
abbrev kTY_FEATURES (i : Nat) : Nat := 0x481011 + 256 * i
/-- TY_LOGP_FLOOR (R191), one of 8 -/
abbrev kTY_LOGP_FLOOR (i : Nat) : Nat := 0x481012 + 256 * i
/-- TY_HT_SLOT (R191), one of 8 -/
abbrev kTY_HT_SLOT (i : Nat) : Nat := 0x481013 + 256 * i
/-- TY_STALL_STROKES (R191), one of 8 -/
abbrev kTY_STALL_STROKES (i : Nat) : Nat := 0x481014 + 256 * i
/-- TY_ABORT_STROKES (R191), one of 8 -/
abbrev kTY_ABORT_STROKES (i : Nat) : Nat := 0x481015 + 256 * i
/-- TY_REBAL_MODE (R191), one of 8 -/
abbrev kTY_REBAL_MODE (i : Nat) : Nat := 0x481016 + 256 * i
/-- TY_REBAL_WINDOW (R191), one of 8 -/
abbrev kTY_REBAL_WINDOW (i : Nat) : Nat := 0x481017 + 256 * i
/-- TY_REBAL_THRESH (R191), one of 8 -/
abbrev kTY_REBAL_THRESH (i : Nat) : Nat := 0x481018 + 256 * i
/-- TY_REBAL_LIMIT (R191), one of 8 -/
abbrev kTY_REBAL_LIMIT (i : Nat) : Nat := 0x481019 + 256 * i
/-- TY_RSIZE (R191), one of 8 -/
abbrev kTY_RSIZE (i : Nat) : Nat := 0x48101A + 256 * i
/-- TY_SEQ_PUBLISHED (R191), one of 8 -/
abbrev kTY_SEQ_PUBLISHED (i : Nat) : Nat := 0x48101B + 256 * i
/-- TY_SEQ_RELEASED (R191), one of 8 -/
abbrev kTY_SEQ_RELEASED (i : Nat) : Nat := 0x48101C + 256 * i
/-- TY_GRANT_MAP (R191), one of 8 -/
abbrev kTY_GRANT_MAP (i : Nat) : Nat := 0x48101D + 256 * i
/-- TY_STEP_STATS (R191), one of 8 -/
abbrev kTY_STEP_STATS (i : Nat) : Nat := 0x48101E + 256 * i
/-- TY_LOSS (R191), one of 8 -/
abbrev kTY_LOSS (i : Nat) : Nat := 0x48101F + 256 * i
/-- TY_VOID (R191), one of 8 -/
abbrev kTY_VOID (i : Nat) : Nat := 0x481020 + 256 * i
/-- TY_DROPPED (R191), one of 8 -/
abbrev kTY_DROPPED (i : Nat) : Nat := 0x481021 + 256 * i
/-- TY_BAD_RECORDS (R191), one of 8 -/
abbrev kTY_BAD_RECORDS (i : Nat) : Nat := 0x481022 + 256 * i
/-- TY_AUTO_RELEASE (R191), one of 8 -/
abbrev kTY_AUTO_RELEASE (i : Nat) : Nat := 0x481023 + 256 * i
/-- TY_REBAL_COUNT (R191), one of 8 -/
abbrev kTY_REBAL_COUNT (i : Nat) : Nat := 0x481024 + 256 * i
/-- TY_HV_ENABLE (R192), one of 16 -/
abbrev kTY_HV_ENABLE (i : Nat) : Nat := 0x482001 + 256 * i
/-- TY_HV_FORM (R192), one of 16 -/
abbrev kTY_HV_FORM (i : Nat) : Nat := 0x482002 + 256 * i
/-- TY_HV_BASE (R192), one of 16 -/
abbrev kTY_HV_BASE (i : Nat) : Nat := 0x482003 + 256 * i
/-- TY_HV_BYTES (R192), one of 16 -/
abbrev kTY_HV_BYTES (i : Nat) : Nat := 0x482004 + 256 * i
/-- TY_HV_FULL (R192), one of 16 -/
abbrev kTY_HV_FULL (i : Nat) : Nat := 0x482005 + 256 * i
/-- TY_HV_ACCOUNTS (R192), one of 16 -/
abbrev kTY_HV_ACCOUNTS (i : Nat) : Nat := 0x482006 + 256 * i
/-- TY_HV_TEMP (R192), one of 16 -/
abbrev kTY_HV_TEMP (i : Nat) : Nat := 0x482007 + 256 * i
/-- TY_HV_HEAD (R192), one of 16 -/
abbrev kTY_HV_HEAD (i : Nat) : Nat := 0x482008 + 256 * i
/-- TY_HV_RECORDS (R192), one of 16 -/
abbrev kTY_HV_RECORDS (i : Nat) : Nat := 0x482009 + 256 * i
/-- TY_HV_DROPPED (R192), one of 16 -/
abbrev kTY_HV_DROPPED (i : Nat) : Nat := 0x48200A + 256 * i
/-- TY_HV_BUF (R192), one of 16 -/
abbrev kTY_HV_BUF (i : Nat) : Nat := 0x48200B + 256 * i
/-- TY_HV_BUF_BYTES (R192), one of 16 -/
abbrev kTY_HV_BUF_BYTES (i : Nat) : Nat := 0x48200C + 256 * i
/-- TY_HV_WRAPS (R192), one of 16 -/
abbrev kTY_HV_WRAPS (i : Nat) : Nat := 0x48200D + 256 * i
/-- TY_HV_HIDDEN (R192), one of 16 -/
abbrev kTY_HV_HIDDEN (i : Nat) : Nat := 0x48200E + 256 * i
/-- TY_HV_LOGP_FLOOR (R192), one of 16 -/
abbrev kTY_HV_LOGP_FLOOR (i : Nat) : Nat := 0x48200F + 256 * i
/-- TY_HV_RSIZE (R192), one of 16 -/
abbrev kTY_HV_RSIZE (i : Nat) : Nat := 0x482010 + 256 * i
/-- NUM_CONTROL (R216), one of 16 -/
abbrev kNUM_CONTROL (i : Nat) : Nat := 0x484001 + 256 * i
/-- RUN_STATE (R216), one of 16 -/
abbrev kRUN_STATE (i : Nat) : Nat := 0x484002 + 256 * i
/-- RUN_STEP (R216), one of 16 -/
abbrev kRUN_STEP (i : Nat) : Nat := 0x484003 + 256 * i
/-- RUN_SEED (R216), one of 16 -/
abbrev kRUN_SEED (i : Nat) : Nat := 0x484004 + 256 * i
/-- LOSS_SCALE (R216), one of 16 -/
abbrev kLOSS_SCALE (i : Nat) : Nat := 0x484005 + 256 * i
/-- LOSS_SCALE_MIN (R216), one of 16 -/
abbrev kLOSS_SCALE_MIN (i : Nat) : Nat := 0x484006 + 256 * i
/-- LOSS_SCALE_MAX (R216), one of 16 -/
abbrev kLOSS_SCALE_MAX (i : Nat) : Nat := 0x484007 + 256 * i
/-- GROW_STEPS (R216), one of 16 -/
abbrev kGROW_STEPS (i : Nat) : Nat := 0x484008 + 256 * i
/-- GOOD_STEP_COUNT (R216), one of 16 -/
abbrev kGOOD_STEP_COUNT (i : Nat) : Nat := 0x484009 + 256 * i
/-- SKIPPED_STEPS (R216), one of 16 -/
abbrev kSKIPPED_STEPS (i : Nat) : Nat := 0x48400A + 256 * i
/-- FLOOR_SKIPS (R216), one of 16 -/
abbrev kFLOOR_SKIPS (i : Nat) : Nat := 0x48400B + 256 * i
/-- GUARD_STEPS (R216), one of 16 -/
abbrev kGUARD_STEPS (i : Nat) : Nat := 0x48400C + 256 * i
/-- GUARD_TEST (R216), one of 16 -/
abbrev kGUARD_TEST (i : Nat) : Nat := 0x48400D + 256 * i
/-- GUARD_REMAIN (R216), one of 16 -/
abbrev kGUARD_REMAIN (i : Nat) : Nat := 0x48400E + 256 * i
/-- UW_WARN (R216), one of 16 -/
abbrev kUW_WARN (i : Nat) : Nat := 0x48400F + 256 * i
/-- UW_STEP (R216), one of 16 -/
abbrev kUW_STEP (i : Nat) : Nat := 0x484010 + 256 * i
/-- UW_TABLE (R216), one of 16 -/
abbrev kUW_TABLE (i : Nat) : Nat := 0x484011 + 256 * i
/-- PHASE_HEAD (R216), one of 16 -/
abbrev kPHASE_HEAD (i : Nat) : Nat := 0x484012 + 256 * i
/-- PHASE_RING (R216), one of 16 -/
abbrev kPHASE_RING (i : Nat) : Nat := 0x484013 + 256 * i
/-- RK_QUEUE_FILL (R240), one of 16 -/
abbrev kRK_QUEUE_FILL (i : Nat) : Nat := 0x486001 + 256 * i
/-- RK_PASSES (R240), one of 16 -/
abbrev kRK_PASSES (i : Nat) : Nat := 0x486002 + 256 * i
/-- RK_SKIPPED_PASSES (R240), one of 16 -/
abbrev kRK_SKIPPED_PASSES (i : Nat) : Nat := 0x486003 + 256 * i
/-- RK_ROOT_JOBS (R240), one of 16 -/
abbrev kRK_ROOT_JOBS (i : Nat) : Nat := 0x486004 + 256 * i
/-- RK_ROOT_RETRIES (R240), one of 16 -/
abbrev kRK_ROOT_RETRIES (i : Nat) : Nat := 0x486005 + 256 * i
/-- RK_ROOT_FALLBACKS (R240), one of 16 -/
abbrev kRK_ROOT_FALLBACKS (i : Nat) : Nat := 0x486006 + 256 * i
/-- RK_GRAD_NONFINITE (R240), one of 16 -/
abbrev kRK_GRAD_NONFINITE (i : Nat) : Nat := 0x486007 + 256 * i
/-- RK_STEP_STATUS (R240), one of 16 -/
abbrev kRK_STEP_STATUS (i : Nat) : Nat := 0x486008 + 256 * i
/-- RK_LAST_ERROR (R240), one of 16 -/
abbrev kRK_LAST_ERROR (i : Nat) : Nat := 0x486009 + 256 * i
/-- RK_GROUPS (R240), one of 16 -/
abbrev kRK_GROUPS (i : Nat) : Nat := 0x487000 + 256 * i
/-- CY_GROUP_STATE (R273), one of 64 -/
abbrev kCY_GROUP_STATE (i : Nat) : Nat := 0x488001 + 256 * i
/-- CY_GROUP_CONTROL (R273), one of 64 -/
abbrev kCY_GROUP_CONTROL (i : Nat) : Nat := 0x488002 + 256 * i
/-- CY_GROUP_ID (R273), one of 64 -/
abbrev kCY_GROUP_ID (i : Nat) : Nat := 0x488003 + 256 * i
/-- CY_GROUP_SIZE (R273), one of 64 -/
abbrev kCY_GROUP_SIZE (i : Nat) : Nat := 0x488004 + 256 * i
/-- CY_GROUP_RANK (R273), one of 64 -/
abbrev kCY_GROUP_RANK (i : Nat) : Nat := 0x488005 + 256 * i
/-- CY_FANIN (R273), one of 64 -/
abbrev kCY_FANIN (i : Nat) : Nat := 0x488006 + 256 * i
/-- CY_HEADROOM (R273), one of 64 -/
abbrev kCY_HEADROOM (i : Nat) : Nat := 0x488007 + 256 * i
/-- CY_MEMBERS (R273), one of 64 -/
abbrev kCY_MEMBERS (i : Nat) : Nat := 0x488008 + 256 * i
/-- CY_EPOCH (R273), one of 64 -/
abbrev kCY_EPOCH (i : Nat) : Nat := 0x488009 + 256 * i
/-- CY_TIMEOUT_STROKES (R273), one of 64 -/
abbrev kCY_TIMEOUT_STROKES (i : Nat) : Nat := 0x48800A + 256 * i
/-- CY_FORM_STROKES (R273), one of 64 -/
abbrev kCY_FORM_STROKES (i : Nat) : Nat := 0x48800B + 256 * i
/-- CY_VERDICT (R274), one of 16 -/
abbrev kCY_VERDICT (i : Nat) : Nat := 0x48C001 + 256 * i
/-- CY_VERDICT_STEP (R274), one of 16 -/
abbrev kCY_VERDICT_STEP (i : Nat) : Nat := 0x48C002 + 256 * i
/-- CY_OPEN (R274), one of 16 -/
abbrev kCY_OPEN (i : Nat) : Nat := 0x48C003 + 256 * i
/-- CY_CLIPS (R274), one of 16 -/
abbrev kCY_CLIPS (i : Nat) : Nat := 0x48C004 + 256 * i
/-- CY_VANISHED (R274), one of 16 -/
abbrev kCY_VANISHED (i : Nat) : Nat := 0x48C005 + 256 * i
/-- CY_DISCARDS (R274), one of 16 -/
abbrev kCY_DISCARDS (i : Nat) : Nat := 0x48C006 + 256 * i
/-- CY_POISONED (R274), one of 16 -/
abbrev kCY_POISONED (i : Nat) : Nat := 0x48C007 + 256 * i
/-- CY_VERDICT_GROUP (R274), one of 16 -/
abbrev kCY_VERDICT_GROUP (i : Nat) : Nat := 0x48C008 + 256 * i
/-- CY_MIRROR_CONTROL (R274), one of 16 -/
abbrev kCY_MIRROR_CONTROL (i : Nat) : Nat := 0x48D001 + 256 * i
/-- CY_MIRROR_PEER (R274), one of 16 -/
abbrev kCY_MIRROR_PEER (i : Nat) : Nat := 0x48D002 + 256 * i
/-- CY_MIRROR_ALLOT (R274), one of 16 -/
abbrev kCY_MIRROR_ALLOT (i : Nat) : Nat := 0x48D003 + 256 * i
/-- CY_MIRROR_REGIONS (R274), one of 16 -/
abbrev kCY_MIRROR_REGIONS (i : Nat) : Nat := 0x48D004 + 256 * i
/-- CY_MIRROR_NEXT (R274), one of 16 -/
abbrev kCY_MIRROR_NEXT (i : Nat) : Nat := 0x48D005 + 256 * i
/-- CY_MIRROR_EVERY (R274), one of 16 -/
abbrev kCY_MIRROR_EVERY (i : Nat) : Nat := 0x48D006 + 256 * i
/-- CY_MIRROR_LAST (R274), one of 16 -/
abbrev kCY_MIRROR_LAST (i : Nat) : Nat := 0x48D007 + 256 * i
/-- CY_EXPORT_TARGET (R274), one of 16 -/
abbrev kCY_EXPORT_TARGET (i : Nat) : Nat := 0x48D008 + 256 * i
/-- CY_ALLOT_EXTENTS (R274), one of 8 -/
abbrev kCY_ALLOT_EXTENTS (i : Nat) : Nat := 0x48E001 + 256 * i
/-- CY_ALLOT_CLIENT (R274), one of 8 -/
abbrev kCY_ALLOT_CLIENT (i : Nat) : Nat := 0x48E002 + 256 * i
/-- CY_ALLOT_PART (R274), one of 8 -/
abbrev kCY_ALLOT_PART (i : Nat) : Nat := 0x48E003 + 256 * i
/-- CY_ALLOT_SLOTS (R274), one of 8 -/
abbrev kCY_ALLOT_SLOTS (i : Nat) : Nat := 0x48E004 + 256 * i
/-- CY_ALLOT_HEADERS (R274), one of 8 -/
abbrev kCY_ALLOT_HEADERS (i : Nat) : Nat := 0x48E005 + 256 * i
/-- ERR_SEQ (R473) -/
abbrev kERR_SEQ : Nat := 0x500001
/-- ERR_VECTOR (R473) -/
abbrev kERR_VECTOR : Nat := 0x500002
/-- ERR_SIGNAL_CLASS (R473) -/
abbrev kERR_SIGNAL_CLASS : Nat := 0x500003
/-- ERR_FATAL_PARTS (R473) -/
abbrev kERR_FATAL_PARTS : Nat := 0x500004
/-- ERR_FATAL_DEVICE (R473) -/
abbrev kERR_FATAL_DEVICE : Nat := 0x500005
/-- ERR_RESET_CAUSE (R473) -/
abbrev kERR_RESET_CAUSE : Nat := 0x500006
/-- ERR_RING (R473) -/
abbrev kERR_RING : Nat := 0x500100
/-- ERR_PERSIST (R473) -/
abbrev kERR_PERSIST : Nat := 0x500200
/-- RST_CONTROL (R473) -/
abbrev kRST_CONTROL : Nat := 0x500301

/-- The index family of an object (R406): consecutive indices with one subindex, type code, access code, size in bytes
and default. -/
structure DirRow where
  base : Nat
  count : Nat
  sub : Nat
  ty : Nat
  acc : Nat
  size : Nat
  dflt : Nat
  deriving DecidableEq, Repr

def dir1000 : List DirRow := [
  ⟨0x1000, 1, 0x01, 8, 4, 16, 0x0⟩,
  ⟨0x1000, 1, 0x02, 8, 4, 16, 0x0⟩,
  ⟨0x1000, 1, 0x03, 8, 4, 32, 0x0⟩,
  ⟨0x1000, 1, 0x04, 1, 4, 1, 0x0⟩,
  ⟨0x1000, 1, 0x05, 3, 4, 4, 0xFC1⟩,
  ⟨0x1001, 1, 0x00, 9, 1, 48396, 0x0⟩,
  ⟨0x1002, 1, 0x01, 3, 3, 4, 0x0⟩,
  ⟨0x1002, 1, 0x02, 2, 1, 2, 0x0⟩]

def dir1100 : List DirRow := [
  ⟨0x1100, 1, 0x01, 1, 1, 1, 0x0⟩,
  ⟨0x1100, 1, 0x02, 3, 1, 4, 0x0⟩,
  ⟨0x1100, 1, 0x03, 3, 3, 4, 0x0⟩,
  ⟨0x1100, 1, 0x04, 3, 1, 4, 0x0⟩,
  ⟨0x1100, 1, 0x05, 1, 1, 1, 0x0⟩,
  ⟨0x1100, 1, 0x06, 1, 1, 1, 0x0⟩,
  ⟨0x1100, 1, 0x07, 1, 1, 1, 0xFF⟩,
  ⟨0x1101, 1, 0x00, 9, 3, 33554432, 0x0⟩,
  ⟨0x1102, 1, 0x00, 9, 1, 320, 0x0⟩,
  ⟨0x1103, 1, 0x00, 9, 1, 768, 0x0⟩,
  ⟨0x1104, 1, 0x00, 9, 1, 20, 0x0⟩,
  ⟨0x1180, 1, 0x00, 9, 1, 512, 0x0⟩,
  ⟨0x1181, 1, 0x01, 2, 1, 2, 0x0⟩]

def dir1200 : List DirRow := [
  ⟨0x1200, 1, 0x01, 9, 2, 32, 0x0⟩,
  ⟨0x1200, 1, 0x02, 7, 1, 1, 0x0⟩,
  ⟨0x1201, 1, 0x00, 9, 1, 1024, 0x0⟩,
  ⟨0x1202, 1, 0x00, 9, 1, 256, 0x0⟩,
  ⟨0x1203, 1, 0x00, 9, 1, 8192, 0x0⟩,
  ⟨0x1240, 1, 0x01, 3, 5, 4, 0x1C200⟩,
  ⟨0x1240, 1, 0x02, 9, 3, 32, 0x0⟩,
  ⟨0x1240, 1, 0x03, 3, 5, 4, 0x258⟩,
  ⟨0x1240, 1, 0x04, 1, 1, 1, 0x0⟩,
  ⟨0x1240, 1, 0x05, 3, 6, 4, 0x0⟩]

def dir2000 : List DirRow := [
  ⟨0x2000, 1, 0x01, 3, 1, 4, 0x0⟩,
  ⟨0x2000, 1, 0x02, 3, 1, 4, 0x0⟩,
  ⟨0x2000, 1, 0x03, 6, 1, 4, 0x0⟩,
  ⟨0x2000, 1, 0x04, 1, 1, 1, 0x0⟩,
  ⟨0x2000, 1, 0x05, 1, 1, 1, 0x0⟩,
  ⟨0x2000, 1, 0x06, 1, 5, 1, 0x18⟩,
  ⟨0x2000, 1, 0x07, 1, 5, 1, 0x0⟩,
  ⟨0x2000, 1, 0x08, 1, 5, 1, 0x0⟩,
  ⟨0x2000, 1, 0x09, 2, 5, 2, 0x4B0⟩,
  ⟨0x2000, 1, 0x0A, 3, 6, 4, 0x0⟩,
  ⟨0x2001, 1, 0x00, 9, 1, 64, 0x0⟩,
  ⟨0x2002, 1, 0x00, 9, 4, 100, 0x0⟩,
  ⟨0x2003, 1, 0x00, 9, 2, 256, 0x0⟩]

def dir2400 : List DirRow := [
  ⟨0x2400, 1, 0x01, 1, 1, 1, 0x0⟩,
  ⟨0x2400, 1, 0x02, 4, 1, 8, 0x0⟩,
  ⟨0x2400, 1, 0x03, 3, 5, 4, 0x3E8⟩,
  ⟨0x2400, 1, 0x04, 2, 5, 2, 0x1900⟩,
  ⟨0x2400, 1, 0x05, 3, 5, 4, 0x30D400⟩,
  ⟨0x2400, 1, 0x06, 5, 1, 4, 0x0⟩,
  ⟨0x2400, 1, 0x07, 2, 1, 2, 0x0⟩,
  ⟨0x2400, 1, 0x08, 4, 1, 8, 0x0⟩,
  ⟨0x2400, 1, 0x09, 4, 6, 8, 0x0⟩,
  ⟨0x2400, 1, 0x0A, 3, 6, 4, 0x0⟩,
  ⟨0x2400, 1, 0x0B, 3, 6, 4, 0x0⟩,
  ⟨0x2400, 1, 0x0C, 3, 5, 4, 0x3E8⟩,
  ⟨0x2400, 1, 0x0D, 3, 5, 4, 0x1388⟩,
  ⟨0x2400, 1, 0x0E, 2, 1, 2, 0x0⟩,
  ⟨0x2401, 1, 0x00, 9, 1, 8192, 0x0⟩,
  ⟨0x2410, 1, 0x01, 2, 5, 2, 0x0⟩,
  ⟨0x2410, 1, 0x02, 1, 5, 1, 0xFF⟩,
  ⟨0x2410, 1, 0x03, 1, 1, 1, 0xFF⟩,
  ⟨0x2410, 1, 0x04, 9, 3, 32, 0x0⟩,
  ⟨0x2410, 1, 0x05, 7, 1, 1, 0x0⟩,
  ⟨0x2410, 1, 0x06, 3, 1, 4, 0x0⟩,
  ⟨0x2410, 1, 0x07, 4, 1, 8, 0x0⟩,
  ⟨0x2410, 1, 0x08, 3, 6, 4, 0x0⟩,
  ⟨0x2410, 1, 0x09, 3, 6, 4, 0x0⟩,
  ⟨0x2410, 1, 0x0A, 3, 6, 4, 0x0⟩,
  ⟨0x2410, 1, 0x0B, 3, 6, 4, 0x0⟩,
  ⟨0x2410, 1, 0x0C, 3, 6, 4, 0x0⟩]

def dir3000 : List DirRow := [
  ⟨0x3000, 1, 0x01, 2, 4, 2, 0x240⟩,
  ⟨0x3000, 1, 0x02, 2, 4, 2, 0x40⟩,
  ⟨0x3001, 1, 0x00, 9, 1, 576, 0x0⟩,
  ⟨0x3002, 1, 0x01, 3, 3, 4, 0x0⟩,
  ⟨0x3003, 1, 0x01, 2, 1, 2, 0x0⟩,
  ⟨0x3003, 1, 0x02, 3, 1, 4, 0x0⟩,
  ⟨0x3004, 1, 0x00, 9, 5, 144, 0x0⟩,
  ⟨0x3005, 1, 0x00, 9, 1, 128, 0x0⟩,
  ⟨0x3006, 1, 0x00, 9, 1, 2304, 0x0⟩]

def dir3400 : List DirRow := [
  ⟨0x3400, 1, 0x01, 4, 4, 8, 0x4000000000⟩,
  ⟨0x3400, 1, 0x02, 3, 4, 4, 0x1C700000⟩,
  ⟨0x3400, 1, 0x03, 4, 4, 8, 0x10000000000⟩,
  ⟨0x3401, 1, 0x00, 9, 1, 1024, 0x0⟩,
  ⟨0x3402, 1, 0x01, 1, 5, 1, 0x4⟩,
  ⟨0x3402, 1, 0x02, 1, 5, 1, 0x18⟩,
  ⟨0x3403, 1, 0x00, 9, 1, 32, 0x0⟩,
  ⟨0x3404, 1, 0x00, 9, 1, 1152, 0x0⟩,
  ⟨0x3410, 16, 0x00, 9, 1, 1152, 0x0⟩,
  ⟨0x3430, 16, 0x00, 9, 1, 2048, 0x0⟩,
  ⟨0x3440, 16, 0x00, 9, 1, 320, 0x0⟩]

def dir3800 : List DirRow := [
  ⟨0x3800, 1, 0x01, 4, 1, 8, 0x0⟩,
  ⟨0x3800, 1, 0x02, 4, 5, 8, 0x0⟩,
  ⟨0x3800, 1, 0x03, 7, 5, 1, 0x0⟩,
  ⟨0x3800, 1, 0x04, 9, 5, 2048, 0x0⟩,
  ⟨0x3800, 1, 0x05, 9, 5, 2048, 0x0⟩,
  ⟨0x3800, 1, 0x06, 3, 5, 4, 0x3E8⟩,
  ⟨0x3800, 1, 0x07, 3, 5, 4, 0xC8⟩,
  ⟨0x3800, 1, 0x08, 3, 5, 4, 0x1000⟩,
  ⟨0x3800, 1, 0x09, 1, 5, 1, 0xA⟩,
  ⟨0x3800, 1, 0x0A, 3, 5, 4, 0xEA60⟩,
  ⟨0x3800, 1, 0x0B, 2, 1, 2, 0x0⟩,
  ⟨0x3801, 1, 0x00, 9, 5, 16, 0x0⟩,
  ⟨0x3802, 1, 0x00, 9, 1, 393216, 0x0⟩,
  ⟨0x3810, 64, 0x01, 1, 1, 1, 0x0⟩,
  ⟨0x3810, 64, 0x02, 3, 3, 4, 0x0⟩,
  ⟨0x3810, 64, 0x03, 7, 5, 1, 0x1⟩,
  ⟨0x3810, 64, 0x04, 1, 5, 1, 0x0⟩,
  ⟨0x3810, 64, 0x05, 4, 1, 8, 0x0⟩,
  ⟨0x3810, 64, 0x06, 1, 1, 1, 0x0⟩,
  ⟨0x3810, 64, 0x07, 1, 1, 1, 0x0⟩,
  ⟨0x3810, 64, 0x08, 9, 1, 136, 0x0⟩,
  ⟨0x3810, 64, 0x09, 3, 1, 4, 0x0⟩,
  ⟨0x3810, 64, 0x0A, 3, 1, 4, 0x0⟩]

def dir3C00 : List DirRow := [
  ⟨0x3C00, 1, 0x01, 1, 1, 1, 0x0⟩,
  ⟨0x3C00, 1, 0x02, 1, 1, 1, 0x0⟩,
  ⟨0x3C00, 1, 0x03, 1, 1, 1, 0x0⟩,
  ⟨0x3C00, 1, 0x04, 1, 1, 1, 0x0⟩,
  ⟨0x3C00, 1, 0x05, 2, 2, 2, 0x0⟩,
  ⟨0x3C00, 1, 0x06, 1, 1, 1, 0x0⟩,
  ⟨0x3C00, 1, 0x07, 3, 6, 4, 0x0⟩,
  ⟨0x3C00, 1, 0x08, 4, 1, 8, 0x0⟩,
  ⟨0x3C00, 1, 0x09, 4, 1, 8, 0x0⟩]

def dir4000 : List DirRow := [
  ⟨0x4000, 1, 0x01, 1, 4, 1, 0x10⟩,
  ⟨0x4000, 1, 0x02, 1, 4, 1, 0x8⟩,
  ⟨0x4000, 1, 0x03, 9, 1, 64, 0x0⟩,
  ⟨0x4010, 16, 0x01, 1, 1, 1, 0x0⟩,
  ⟨0x4010, 16, 0x02, 3, 3, 4, 0x0⟩,
  ⟨0x4010, 16, 0x03, 4, 2, 8, 0x0⟩,
  ⟨0x4010, 16, 0x04, 4, 1, 8, 0x0⟩,
  ⟨0x4010, 16, 0x05, 3, 2, 4, 0x0⟩,
  ⟨0x4010, 16, 0x06, 2, 2, 2, 0x1⟩,
  ⟨0x4010, 16, 0x07, 3, 2, 4, 0x3E8⟩,
  ⟨0x4010, 16, 0x08, 3, 2, 4, 0x1F4⟩,
  ⟨0x4010, 16, 0x09, 3, 2, 4, 0x32⟩,
  ⟨0x4010, 16, 0x0A, 1, 1, 1, 0xFF⟩,
  ⟨0x4010, 16, 0x0B, 4, 1, 8, 0x0⟩,
  ⟨0x4010, 16, 0x0C, 3, 6, 4, 0x0⟩,
  ⟨0x4010, 16, 0x0D, 6, 1, 4, 0x0⟩,
  ⟨0x4010, 16, 0x0E, 1, 1, 1, 0xFF⟩,
  ⟨0x4010, 16, 0x0F, 3, 2, 4, 0x3E8⟩,
  ⟨0x4010, 16, 0x10, 6, 2, 4, 0x0⟩]

def dir4100 : List DirRow := [
  ⟨0x4100, 128, 0x01, 1, 1, 1, 0x0⟩,
  ⟨0x4100, 128, 0x02, 3, 3, 4, 0x0⟩,
  ⟨0x4100, 128, 0x03, 2, 2, 2, 0x1⟩,
  ⟨0x4100, 128, 0x04, 3, 2, 4, 0xFFFFFFFF⟩,
  ⟨0x4100, 128, 0x05, 4, 1, 8, 0x0⟩,
  ⟨0x4100, 128, 0x06, 9, 1, 64, 0x0⟩]

def dir4400 : List DirRow := [
  ⟨0x4400, 1, 0x01, 3, 3, 4, 0x0⟩,
  ⟨0x4400, 1, 0x02, 1, 1, 1, 0x0⟩,
  ⟨0x4400, 1, 0x03, 1, 2, 1, 0x0⟩,
  ⟨0x4400, 1, 0x04, 1, 2, 1, 0xFF⟩,
  ⟨0x4400, 1, 0x05, 3, 2, 4, 0x0⟩,
  ⟨0x4400, 1, 0x06, 2, 2, 2, 0x800⟩,
  ⟨0x4400, 1, 0x07, 3, 2, 4, 0x8000⟩,
  ⟨0x4400, 1, 0x08, 2, 2, 2, 0x200⟩,
  ⟨0x4400, 1, 0x09, 3, 2, 4, 0x0⟩,
  ⟨0x4400, 1, 0x0A, 3, 2, 4, 0x0⟩,
  ⟨0x4400, 1, 0x0B, 3, 2, 4, 0x0⟩,
  ⟨0x4400, 1, 0x0C, 3, 2, 4, 0x0⟩,
  ⟨0x4400, 1, 0x0D, 4, 2, 8, 0x0⟩,
  ⟨0x4400, 1, 0x0E, 4, 2, 8, 0x0⟩,
  ⟨0x4400, 1, 0x0F, 4, 2, 8, 0x0⟩,
  ⟨0x4400, 1, 0x10, 4, 2, 8, 0x0⟩,
  ⟨0x4400, 1, 0x11, 3, 2, 4, 0x400⟩,
  ⟨0x4400, 1, 0x12, 2, 2, 2, 0x4⟩,
  ⟨0x4400, 1, 0x13, 3, 2, 4, 0x1000⟩,
  ⟨0x4400, 1, 0x14, 4, 2, 8, 0x0⟩,
  ⟨0x4400, 1, 0x15, 4, 1, 8, 0x0⟩,
  ⟨0x4400, 1, 0x16, 2, 1, 2, 0x0⟩,
  ⟨0x4400, 1, 0x17, 3, 1, 4, 0x0⟩,
  ⟨0x4400, 1, 0x18, 3, 1, 4, 0x0⟩,
  ⟨0x4400, 1, 0x19, 3, 1, 4, 0x0⟩,
  ⟨0x4400, 1, 0x1A, 3, 6, 4, 0x0⟩,
  ⟨0x4400, 1, 0x1B, 3, 6, 4, 0x0⟩,
  ⟨0x4400, 1, 0x1C, 4, 6, 8, 0x0⟩,
  ⟨0x4400, 1, 0x1D, 4, 6, 8, 0x0⟩,
  ⟨0x4400, 1, 0x1E, 3, 6, 4, 0x0⟩,
  ⟨0x4401, 1, 0x00, 9, 1, 4194304, 0x0⟩,
  ⟨0x4402, 1, 0x00, 9, 1, 33554432, 0x0⟩,
  ⟨0x4403, 1, 0x00, 9, 1, 128, 0x0⟩,
  ⟨0x4404, 1, 0x00, 9, 1, 128, 0x0⟩,
  ⟨0x4410, 1, 0x00, 9, 2, 8192, 0x0⟩,
  ⟨0x4411, 1, 0x00, 9, 2, 16384, 0x0⟩,
  ⟨0x4412, 1, 0x00, 9, 2, 16384, 0x0⟩,
  ⟨0x4413, 1, 0x00, 9, 1, 16384, 0x0⟩,
  ⟨0x4420, 24, 0x01, 4, 2, 8, 0x0⟩,
  ⟨0x4420, 24, 0x02, 3, 2, 4, 0x0⟩,
  ⟨0x4420, 24, 0x03, 3, 1, 4, 0x0⟩,
  ⟨0x4420, 24, 0x04, 3, 2, 4, 0x0⟩,
  ⟨0x4420, 24, 0x05, 2, 2, 2, 0x0⟩,
  ⟨0x4420, 24, 0x06, 3, 6, 4, 0x0⟩]

def dir4800 : List DirRow := [
  ⟨0x4800, 1, 0x01, 1, 4, 1, 0x8⟩,
  ⟨0x4800, 1, 0x02, 2, 4, 2, 0x400⟩,
  ⟨0x4800, 1, 0x03, 3, 4, 4, 0x80000⟩,
  ⟨0x4800, 1, 0x04, 3, 4, 4, 0x20000⟩,
  ⟨0x4800, 1, 0x05, 2, 4, 2, 0x100⟩,
  ⟨0x4800, 1, 0x06, 2, 4, 2, 0x1000⟩,
  ⟨0x4800, 1, 0x07, 2, 4, 2, 0x1000⟩,
  ⟨0x4800, 1, 0x08, 2, 4, 2, 0x100⟩,
  ⟨0x4800, 1, 0x09, 2, 4, 2, 0x2000⟩]

def dir4810 : List DirRow := [
  ⟨0x4810, 8, 0x01, 1, 1, 1, 0x0⟩,
  ⟨0x4810, 8, 0x02, 3, 3, 4, 0x0⟩,
  ⟨0x4810, 8, 0x03, 1, 2, 1, 0x0⟩,
  ⟨0x4810, 8, 0x04, 2, 2, 2, 0x0⟩,
  ⟨0x4810, 8, 0x05, 1, 2, 1, 0x1⟩,
  ⟨0x4810, 8, 0x06, 3, 2, 4, 0x0⟩,
  ⟨0x4810, 8, 0x07, 2, 2, 2, 0x0⟩,
  ⟨0x4810, 8, 0x08, 6, 2, 4, 0x3F800000⟩,
  ⟨0x4810, 8, 0x09, 6, 2, 4, 0x3F800000⟩,
  ⟨0x4810, 8, 0x0A, 3, 2, 4, 0x0⟩,
  ⟨0x4810, 8, 0x0B, 2, 2, 2, 0x40⟩,
  ⟨0x4810, 8, 0x0C, 2, 2, 2, 0x40⟩,
  ⟨0x4810, 8, 0x0D, 2, 2, 2, 0x4⟩,
  ⟨0x4810, 8, 0x0E, 9, 2, 32, 0x0⟩,
  ⟨0x4810, 8, 0x0F, 3, 2, 4, 0x0⟩,
  ⟨0x4810, 8, 0x10, 9, 2, 32, 0x0⟩,
  ⟨0x4810, 8, 0x11, 9, 2, 64, 0x0⟩,
  ⟨0x4810, 8, 0x12, 6, 2, 4, 0xC2000000⟩,
  ⟨0x4810, 8, 0x13, 2, 2, 2, 0x0⟩,
  ⟨0x4810, 8, 0x14, 3, 2, 4, 0x3E8⟩,
  ⟨0x4810, 8, 0x15, 3, 2, 4, 0xEA60⟩,
  ⟨0x4810, 8, 0x16, 1, 2, 1, 0x0⟩,
  ⟨0x4810, 8, 0x17, 2, 2, 2, 0x10⟩,
  ⟨0x4810, 8, 0x18, 6, 2, 4, 0x3D4CCCCD⟩,
  ⟨0x4810, 8, 0x19, 3, 2, 4, 0x64⟩,
  ⟨0x4810, 8, 0x1A, 3, 1, 4, 0x0⟩,
  ⟨0x4810, 8, 0x1B, 3, 1, 4, 0x0⟩,
  ⟨0x4810, 8, 0x1C, 3, 1, 4, 0x0⟩,
  ⟨0x4810, 8, 0x1D, 9, 1, 256, 0x0⟩,
  ⟨0x4810, 8, 0x1E, 9, 1, 64, 0x0⟩,
  ⟨0x4810, 8, 0x1F, 9, 1, 32, 0x0⟩,
  ⟨0x4810, 8, 0x20, 3, 6, 4, 0x0⟩,
  ⟨0x4810, 8, 0x21, 3, 6, 4, 0x0⟩,
  ⟨0x4810, 8, 0x22, 3, 6, 4, 0x0⟩,
  ⟨0x4810, 8, 0x23, 3, 6, 4, 0x0⟩,
  ⟨0x4810, 8, 0x24, 3, 1, 4, 0x0⟩]

def dir4820 : List DirRow := [
  ⟨0x4820, 16, 0x01, 7, 2, 1, 0x0⟩,
  ⟨0x4820, 16, 0x02, 1, 2, 1, 0x1⟩,
  ⟨0x4820, 16, 0x03, 4, 2, 8, 0x0⟩,
  ⟨0x4820, 16, 0x04, 4, 2, 8, 0x0⟩,
  ⟨0x4820, 16, 0x05, 1, 2, 1, 0x0⟩,
  ⟨0x4820, 16, 0x06, 9, 2, 512, 0x0⟩,
  ⟨0x4820, 16, 0x07, 6, 2, 4, 0x3F800000⟩,
  ⟨0x4820, 16, 0x08, 4, 1, 8, 0x0⟩,
  ⟨0x4820, 16, 0x09, 4, 1, 8, 0x0⟩,
  ⟨0x4820, 16, 0x0A, 4, 6, 8, 0x0⟩,
  ⟨0x4820, 16, 0x0B, 4, 2, 8, 0x0⟩,
  ⟨0x4820, 16, 0x0C, 3, 2, 4, 0x0⟩,
  ⟨0x4820, 16, 0x0D, 3, 1, 4, 0x0⟩,
  ⟨0x4820, 16, 0x0E, 2, 2, 2, 0x0⟩,
  ⟨0x4820, 16, 0x0F, 6, 2, 4, 0xC2000000⟩,
  ⟨0x4820, 16, 0x10, 3, 1, 4, 0x0⟩]

def dir4840 : List DirRow := [
  ⟨0x4840, 16, 0x01, 3, 3, 4, 0x0⟩,
  ⟨0x4840, 16, 0x02, 1, 1, 1, 0x0⟩,
  ⟨0x4840, 16, 0x03, 4, 2, 8, 0x0⟩,
  ⟨0x4840, 16, 0x04, 4, 2, 8, 0x0⟩,
  ⟨0x4840, 16, 0x05, 6, 2, 4, 0x47800000⟩,
  ⟨0x4840, 16, 0x06, 6, 2, 4, 0x3F800000⟩,
  ⟨0x4840, 16, 0x07, 6, 2, 4, 0x4B800000⟩,
  ⟨0x4840, 16, 0x08, 2, 2, 2, 0x7D0⟩,
  ⟨0x4840, 16, 0x09, 2, 1, 2, 0x0⟩,
  ⟨0x4840, 16, 0x0A, 3, 6, 4, 0x0⟩,
  ⟨0x4840, 16, 0x0B, 2, 2, 2, 0x10⟩,
  ⟨0x4840, 16, 0x0C, 2, 2, 2, 0x1F4⟩,
  ⟨0x4840, 16, 0x0D, 7, 2, 1, 0x0⟩,
  ⟨0x4840, 16, 0x0E, 2, 1, 2, 0x0⟩,
  ⟨0x4840, 16, 0x0F, 6, 2, 4, 0x0⟩,
  ⟨0x4840, 16, 0x10, 4, 1, 8, 0x0⟩,
  ⟨0x4840, 16, 0x11, 9, 1, 16384, 0x0⟩,
  ⟨0x4840, 16, 0x12, 2, 1, 2, 0x0⟩,
  ⟨0x4840, 16, 0x13, 9, 1, 16384, 0x0⟩]

def dir4860 : List DirRow := [
  ⟨0x4860, 16, 0x01, 2, 1, 2, 0x0⟩,
  ⟨0x4860, 16, 0x02, 4, 1, 8, 0x0⟩,
  ⟨0x4860, 16, 0x03, 3, 6, 4, 0x0⟩,
  ⟨0x4860, 16, 0x04, 3, 1, 4, 0x0⟩,
  ⟨0x4860, 16, 0x05, 3, 6, 4, 0x0⟩,
  ⟨0x4860, 16, 0x06, 3, 6, 4, 0x0⟩,
  ⟨0x4860, 16, 0x07, 4, 6, 8, 0x0⟩,
  ⟨0x4860, 16, 0x08, 3, 1, 4, 0x0⟩,
  ⟨0x4860, 16, 0x09, 9, 1, 16, 0x0⟩]

def dir4870 : List DirRow := [
  ⟨0x4870, 16, 0x00, 9, 2, 16384, 0x0⟩]

def dir4880 : List DirRow := [
  ⟨0x4880, 64, 0x01, 1, 1, 1, 0x0⟩,
  ⟨0x4880, 64, 0x02, 3, 3, 4, 0x0⟩,
  ⟨0x4880, 64, 0x03, 4, 2, 8, 0x0⟩,
  ⟨0x4880, 64, 0x04, 2, 2, 2, 0x1⟩,
  ⟨0x4880, 64, 0x05, 2, 2, 2, 0x0⟩,
  ⟨0x4880, 64, 0x06, 1, 2, 1, 0x4⟩,
  ⟨0x4880, 64, 0x07, 1, 2, 1, 0x4⟩,
  ⟨0x4880, 64, 0x08, 9, 2, 131072, 0x0⟩,
  ⟨0x4880, 64, 0x09, 3, 1, 4, 0x0⟩,
  ⟨0x4880, 64, 0x0A, 3, 2, 4, 0x7D0⟩,
  ⟨0x4880, 64, 0x0B, 3, 2, 4, 0x2710⟩]

def dir48C0 : List DirRow := [
  ⟨0x48C0, 16, 0x01, 2, 1, 2, 0x0⟩,
  ⟨0x48C0, 16, 0x02, 4, 1, 8, 0x0⟩,
  ⟨0x48C0, 16, 0x03, 2, 1, 2, 0x0⟩,
  ⟨0x48C0, 16, 0x04, 4, 6, 8, 0x0⟩,
  ⟨0x48C0, 16, 0x05, 4, 6, 8, 0x0⟩,
  ⟨0x48C0, 16, 0x06, 3, 6, 4, 0x0⟩,
  ⟨0x48C0, 16, 0x07, 3, 6, 4, 0x0⟩,
  ⟨0x48C0, 16, 0x08, 1, 2, 1, 0x0⟩]

def dir48D0 : List DirRow := [
  ⟨0x48D0, 16, 0x01, 3, 3, 4, 0x0⟩,
  ⟨0x48D0, 16, 0x02, 4, 2, 8, 0x0⟩,
  ⟨0x48D0, 16, 0x03, 1, 2, 1, 0x0⟩,
  ⟨0x48D0, 16, 0x04, 9, 2, 1024, 0x0⟩,
  ⟨0x48D0, 16, 0x05, 4, 2, 8, 0x0⟩,
  ⟨0x48D0, 16, 0x06, 3, 2, 4, 0x927C0⟩,
  ⟨0x48D0, 16, 0x07, 4, 1, 8, 0x0⟩,
  ⟨0x48D0, 16, 0x08, 9, 2, 16, 0x0⟩]

def dir48E0 : List DirRow := [
  ⟨0x48E0, 8, 0x01, 1, 2, 1, 0x0⟩,
  ⟨0x48E0, 8, 0x02, 4, 2, 8, 0x0⟩,
  ⟨0x48E0, 8, 0x03, 1, 2, 1, 0x0⟩,
  ⟨0x48E0, 8, 0x04, 1, 2, 1, 0x2⟩,
  ⟨0x48E0, 8, 0x05, 9, 1, 128, 0x0⟩]

def dir5000 : List DirRow := [
  ⟨0x5000, 1, 0x01, 4, 1, 8, 0x0⟩,
  ⟨0x5000, 1, 0x02, 2, 2, 2, 0xFFFF⟩,
  ⟨0x5000, 1, 0x03, 1, 5, 1, 0x2⟩,
  ⟨0x5000, 1, 0x04, 2, 1, 2, 0x0⟩,
  ⟨0x5000, 1, 0x05, 7, 1, 1, 0x0⟩,
  ⟨0x5000, 1, 0x06, 1, 1, 1, 0x0⟩,
  ⟨0x5001, 1, 0x00, 9, 1, 262144, 0x0⟩,
  ⟨0x5002, 1, 0x00, 9, 1, 1024, 0x0⟩,
  ⟨0x5003, 1, 0x01, 3, 3, 4, 0x0⟩]

/-- Every object of the dictionary, by family, in rising index (R406). -/
def directory : List DirRow :=
  dir1000 ++ dir1100 ++ dir1200 ++ dir2000 ++ dir2400 ++ dir3000 ++ dir3400 ++ dir3800 ++ dir3C00 ++ dir4000 ++ dir4100 ++ dir4400 ++ dir4800 ++ dir4810 ++ dir4820 ++ dir4840 ++ dir4860 ++ dir4870 ++ dir4880 ++ dir48C0 ++ dir48D0 ++ dir48E0 ++ dir5000

/-- The family rows whose default is not 0. -/
def dirDefaults : List DirRow := [
  ⟨0x1000, 1, 0x05, 3, 4, 4, 0xFC1⟩,
  ⟨0x1100, 1, 0x07, 1, 1, 1, 0xFF⟩,
  ⟨0x1240, 1, 0x01, 3, 5, 4, 0x1C200⟩,
  ⟨0x1240, 1, 0x03, 3, 5, 4, 0x258⟩,
  ⟨0x2000, 1, 0x06, 1, 5, 1, 0x18⟩,
  ⟨0x2000, 1, 0x09, 2, 5, 2, 0x4B0⟩,
  ⟨0x2400, 1, 0x03, 3, 5, 4, 0x3E8⟩,
  ⟨0x2400, 1, 0x04, 2, 5, 2, 0x1900⟩,
  ⟨0x2400, 1, 0x05, 3, 5, 4, 0x30D400⟩,
  ⟨0x2400, 1, 0x0C, 3, 5, 4, 0x3E8⟩,
  ⟨0x2400, 1, 0x0D, 3, 5, 4, 0x1388⟩,
  ⟨0x2410, 1, 0x02, 1, 5, 1, 0xFF⟩,
  ⟨0x2410, 1, 0x03, 1, 1, 1, 0xFF⟩,
  ⟨0x3000, 1, 0x01, 2, 4, 2, 0x240⟩,
  ⟨0x3000, 1, 0x02, 2, 4, 2, 0x40⟩,
  ⟨0x3400, 1, 0x01, 4, 4, 8, 0x4000000000⟩,
  ⟨0x3400, 1, 0x02, 3, 4, 4, 0x1C700000⟩,
  ⟨0x3400, 1, 0x03, 4, 4, 8, 0x10000000000⟩,
  ⟨0x3402, 1, 0x01, 1, 5, 1, 0x4⟩,
  ⟨0x3402, 1, 0x02, 1, 5, 1, 0x18⟩,
  ⟨0x3800, 1, 0x06, 3, 5, 4, 0x3E8⟩,
  ⟨0x3800, 1, 0x07, 3, 5, 4, 0xC8⟩,
  ⟨0x3800, 1, 0x08, 3, 5, 4, 0x1000⟩,
  ⟨0x3800, 1, 0x09, 1, 5, 1, 0xA⟩,
  ⟨0x3800, 1, 0x0A, 3, 5, 4, 0xEA60⟩,
  ⟨0x3810, 64, 0x03, 7, 5, 1, 0x1⟩,
  ⟨0x4000, 1, 0x01, 1, 4, 1, 0x10⟩,
  ⟨0x4000, 1, 0x02, 1, 4, 1, 0x8⟩,
  ⟨0x4010, 16, 0x06, 2, 2, 2, 0x1⟩,
  ⟨0x4010, 16, 0x07, 3, 2, 4, 0x3E8⟩,
  ⟨0x4010, 16, 0x08, 3, 2, 4, 0x1F4⟩,
  ⟨0x4010, 16, 0x09, 3, 2, 4, 0x32⟩,
  ⟨0x4010, 16, 0x0A, 1, 1, 1, 0xFF⟩,
  ⟨0x4010, 16, 0x0E, 1, 1, 1, 0xFF⟩,
  ⟨0x4010, 16, 0x0F, 3, 2, 4, 0x3E8⟩,
  ⟨0x4100, 128, 0x03, 2, 2, 2, 0x1⟩,
  ⟨0x4100, 128, 0x04, 3, 2, 4, 0xFFFFFFFF⟩,
  ⟨0x4400, 1, 0x04, 1, 2, 1, 0xFF⟩,
  ⟨0x4400, 1, 0x06, 2, 2, 2, 0x800⟩,
  ⟨0x4400, 1, 0x07, 3, 2, 4, 0x8000⟩,
  ⟨0x4400, 1, 0x08, 2, 2, 2, 0x200⟩,
  ⟨0x4400, 1, 0x11, 3, 2, 4, 0x400⟩,
  ⟨0x4400, 1, 0x12, 2, 2, 2, 0x4⟩,
  ⟨0x4400, 1, 0x13, 3, 2, 4, 0x1000⟩,
  ⟨0x4800, 1, 0x01, 1, 4, 1, 0x8⟩,
  ⟨0x4800, 1, 0x02, 2, 4, 2, 0x400⟩,
  ⟨0x4800, 1, 0x03, 3, 4, 4, 0x80000⟩,
  ⟨0x4800, 1, 0x04, 3, 4, 4, 0x20000⟩,
  ⟨0x4800, 1, 0x05, 2, 4, 2, 0x100⟩,
  ⟨0x4800, 1, 0x06, 2, 4, 2, 0x1000⟩,
  ⟨0x4800, 1, 0x07, 2, 4, 2, 0x1000⟩,
  ⟨0x4800, 1, 0x08, 2, 4, 2, 0x100⟩,
  ⟨0x4800, 1, 0x09, 2, 4, 2, 0x2000⟩,
  ⟨0x4810, 8, 0x05, 1, 2, 1, 0x1⟩,
  ⟨0x4810, 8, 0x08, 6, 2, 4, 0x3F800000⟩,
  ⟨0x4810, 8, 0x09, 6, 2, 4, 0x3F800000⟩,
  ⟨0x4810, 8, 0x0B, 2, 2, 2, 0x40⟩,
  ⟨0x4810, 8, 0x0C, 2, 2, 2, 0x40⟩,
  ⟨0x4810, 8, 0x0D, 2, 2, 2, 0x4⟩,
  ⟨0x4810, 8, 0x12, 6, 2, 4, 0xC2000000⟩,
  ⟨0x4810, 8, 0x14, 3, 2, 4, 0x3E8⟩,
  ⟨0x4810, 8, 0x15, 3, 2, 4, 0xEA60⟩,
  ⟨0x4810, 8, 0x17, 2, 2, 2, 0x10⟩,
  ⟨0x4810, 8, 0x18, 6, 2, 4, 0x3D4CCCCD⟩,
  ⟨0x4810, 8, 0x19, 3, 2, 4, 0x64⟩,
  ⟨0x4820, 16, 0x02, 1, 2, 1, 0x1⟩,
  ⟨0x4820, 16, 0x07, 6, 2, 4, 0x3F800000⟩,
  ⟨0x4820, 16, 0x0F, 6, 2, 4, 0xC2000000⟩,
  ⟨0x4840, 16, 0x05, 6, 2, 4, 0x47800000⟩,
  ⟨0x4840, 16, 0x06, 6, 2, 4, 0x3F800000⟩,
  ⟨0x4840, 16, 0x07, 6, 2, 4, 0x4B800000⟩,
  ⟨0x4840, 16, 0x08, 2, 2, 2, 0x7D0⟩,
  ⟨0x4840, 16, 0x0B, 2, 2, 2, 0x10⟩,
  ⟨0x4840, 16, 0x0C, 2, 2, 2, 0x1F4⟩,
  ⟨0x4880, 64, 0x04, 2, 2, 2, 0x1⟩,
  ⟨0x4880, 64, 0x06, 1, 2, 1, 0x4⟩,
  ⟨0x4880, 64, 0x07, 1, 2, 1, 0x4⟩,
  ⟨0x4880, 64, 0x0A, 3, 2, 4, 0x7D0⟩,
  ⟨0x4880, 64, 0x0B, 3, 2, 4, 0x2710⟩,
  ⟨0x48D0, 16, 0x06, 3, 2, 4, 0x927C0⟩,
  ⟨0x48E0, 8, 0x04, 1, 2, 1, 0x2⟩,
  ⟨0x5000, 1, 0x02, 2, 2, 2, 0xFFFF⟩,
  ⟨0x5000, 1, 0x03, 1, 5, 1, 0x2⟩]

/-- Does a family row hold the key? -/
def DirRow.holds (r : DirRow) (key : Nat) : Bool :=
  r.sub == key % 256 && decide (r.base ≤ key / 256) && decide (key / 256 < r.base + r.count)

/-- The row of a key, if the object exists. -/
def dirFind (key : Nat) : Option DirRow := directory.find? (fun r => r.holds key)

/-- The default of a scalar object. -/
def objDefault (key : Nat) : Nat :=
  match dirDefaults.find? (fun r => r.holds key) with
  | some r => r.dflt
  | none => 0

end Sys2Proof.Machine
end

