-- ==== Sys2Proof/Machine/Crypto.lean ====
section
/-! DEFINITION. SHA-256, HMAC and HKDF over it, AES-256-GCM and the two CRCs, as R280, R287, R288, R405, R420, R427, R434, R436
and R440 name them. The algorithms and their constants are the published ones (PRESUMED, log entry 5). -/

namespace Sys2Proof.Machine

/-- Round constants. -/
def shaK : List Nat :=
  [0x428A2F98, 0x71374491, 0xB5C0FBCF, 0xE9B5DBA5, 0x3956C25B, 0x59F111F1, 0x923F82A4, 0xAB1C5ED5] ++
  [0xD807AA98, 0x12835B01, 0x243185BE, 0x550C7DC3, 0x72BE5D74, 0x80DEB1FE, 0x9BDC06A7, 0xC19BF174] ++
  [0xE49B69C1, 0xEFBE4786, 0x0FC19DC6, 0x240CA1CC, 0x2DE92C6F, 0x4A7484AA, 0x5CB0A9DC, 0x76F988DA] ++
  [0x983E5152, 0xA831C66D, 0xB00327C8, 0xBF597FC7, 0xC6E00BF3, 0xD5A79147, 0x06CA6351, 0x14292967] ++
  [0x27B70A85, 0x2E1B2138, 0x4D2C6DFC, 0x53380D13, 0x650A7354, 0x766A0ABB, 0x81C2C92E, 0x92722C85] ++
  [0xA2BFE8A1, 0xA81A664B, 0xC24B8B70, 0xC76C51A3, 0xD192E819, 0xD6990624, 0xF40E3585, 0x106AA070] ++
  [0x19A4C116, 0x1E376C08, 0x2748774C, 0x34B0BCB5, 0x391C0CB3, 0x4ED8AA4A, 0x5B9CCA4F, 0x682E6FF3] ++
  [0x748F82EE, 0x78A5636F, 0x84C87814, 0x8CC70208, 0x90BEFFFA, 0xA4506CEB, 0xBEF9A3F7, 0xC67178F2]

/-- Initial hash value. -/
def shaH0 : List Nat :=
  [0x6A09E667, 0xBB67AE85, 0x3C6EF372, 0xA54FF53A, 0x510E527F, 0x9B05688C, 0x1F83D9AB, 0x5BE0CD19]

def rotr (n x : Nat) : Nat := (x >>> n) ||| ((x <<< (32 - n)) % 2 ^ 32)

/-- Message schedule: `k` further words behind the window `w` (oldest first, 16 words). -/
def shaSched : Nat → List Nat → List Nat
  | 0, _ => []
  | k + 1, w =>
    let g (i : Nat) : Nat := (w[i]?).getD 0
    let s0 := rotr 7 (g 1) ^^^ rotr 18 (g 1) ^^^ (g 1 >>> 3)
    let s1 := rotr 17 (g 14) ^^^ rotr 19 (g 14) ^^^ (g 14 >>> 10)
    let x := (g 0 + s0 + g 9 + s1) % 2 ^ 32
    g 0 :: shaSched k (w.drop 1 ++ [x])

/-- The eight working words. -/
structure ShaW where
  a : Nat
  b : Nat
  c : Nat
  d : Nat
  e : Nat
  f : Nat
  g : Nat
  h : Nat
  deriving DecidableEq, Repr

def shaRound (v : ShaW) (kw : Nat × Nat) : ShaW :=
  let s1 := rotr 6 v.e ^^^ rotr 11 v.e ^^^ rotr 25 v.e
  let ch := (v.e &&& v.f) ^^^ ((2 ^ 32 - 1 - v.e) &&& v.g)
  let t1 := v.h + s1 + ch + kw.1 + kw.2
  let s0 := rotr 2 v.a ^^^ rotr 13 v.a ^^^ rotr 22 v.a
  let mj := (v.a &&& v.b) ^^^ (v.a &&& v.c) ^^^ (v.b &&& v.c)
  { a := (t1 + s0 + mj) % 2 ^ 32, b := v.a, c := v.b, d := v.c
    e := (v.d + t1) % 2 ^ 32, f := v.e, g := v.f, h := v.g }

def ShaW.ofList (l : List Nat) : ShaW :=
  let g (i : Nat) : Nat := (l[i]?).getD 0
  { a := g 0, b := g 1, c := g 2, d := g 3, e := g 4, f := g 5, g := g 6, h := g 7 }

def ShaW.toList (v : ShaW) : List Nat := [v.a, v.b, v.c, v.d, v.e, v.f, v.g, v.h]

def shaBlock (h : List Nat) (block : List Nat) : List Nat :=
  let v := (List.zip shaK (shaSched 64 block)).foldl shaRound (ShaW.ofList h)
  List.zipWith (fun a b => (a + b) % 2 ^ 32) h v.toList

/-- Big-endian words of a byte list whose length is a multiple of 4. -/
def beWords : List Byte → List Nat
  | a :: b :: c :: d :: t =>
    (((a.toNat * 256 + b.toNat) * 256 + c.toNat) * 256 + d.toNat) :: beWords t
  | _ => []

/-- The first `n` bytes of a number, most significant first. -/
def beBytes (n v : Nat) : List Byte := (leBytes n v).reverse

def shaBlocks : Nat → List Nat → List Nat → List Nat
  | 0, h, _ => h
  | k + 1, h, ws => shaBlocks k (shaBlock h (ws.take 16)) (ws.drop 16)

/-- SHA-256 of a byte string, 32 bytes. -/
def sha256 (m : List Byte) : List Byte :=
  let z := (119 - m.length % 64) % 64
  let p := m ++ [0x80] ++ List.replicate z 0 ++ beBytes 8 (8 * m.length)
  let h := shaBlocks (p.length / 64) shaH0 (beWords p)
  h.flatMap (fun w => beBytes 4 w)

/-- HMAC-SHA-256 for a key of at most 64 bytes. -/
def hmac256 (key m : List Byte) : List Byte :=
  let k := key ++ List.replicate (64 - key.length) 0
  let inner := sha256 (k.map (· ^^^ 0x36) ++ m)
  sha256 (k.map (· ^^^ 0x5C) ++ inner)

/-- HKDF-SHA-256 with 32 bytes of output, for a salt of at most 64 bytes. -/
def hkdf256 (salt ikm info : List Byte) : List Byte := hmac256 (hmac256 salt ikm) (info ++ [1])

/-! CRC-32 and CRC-32C: reflected, initial value and final inversion all ones. -/

def crcBits (poly : Nat) : Nat → Nat → Nat
  | 0, c => c
  | n + 1, c => crcBits poly n (if c % 2 = 1 then (c / 2) ^^^ poly else c / 2)

def crcWith (poly : Nat) (m : List Byte) : Nat :=
  (m.foldl (fun c b => crcBits poly 8 (c ^^^ b.toNat)) 0xFFFFFFFF) ^^^ 0xFFFFFFFF

/-- CRC-32C (R280, R405, R436). -/
def crc32c (m : List Byte) : Nat := crcWith 0x82F63B78 m

/-- CRC-32, the FCS of a ring frame (R416). -/
def crc32 (m : List Byte) : Nat := crcWith 0xEDB88320 m

/-! AES-256-GCM with a 96-bit nonce (R288). -/

/-- Product in the field of AES. -/
def aesMul (a b : Byte) : Byte :=
  ((upto 8).foldl (fun (x : Byte × Byte) i =>
    (if b.getLsbD i then x.1 ^^^ x.2 else x.1, (x.2 <<< 1) ^^^ (if x.2.msb then 0x1B else 0))) ((0 : Byte), a)).1

/-- The S-box: the inverse, then the affine map. -/
def aesSub (b : Byte) : Byte :=
  let sq (x : Byte) : Byte := aesMul x x
  let p := (upto 7).foldl (fun (x : Byte × Byte) _ => let q := sq x.2; (aesMul x.1 q, q)) ((1 : Byte), b)
  let i := p.1
  i ^^^ i.rotateLeft 1 ^^^ i.rotateLeft 2 ^^^ i.rotateLeft 3 ^^^ i.rotateLeft 4 ^^^ 0x63

def xorBytes (a b : List Byte) : List Byte := List.zipWith (· ^^^ ·) a b

/-- The 60 words of the key schedule, latest first. -/
def aesSched (key : List Byte) : List (List Byte) :=
  (upto 52).foldl (fun (ws : List (List Byte)) i =>
    let t := ws.headD []
    let t := if i % 8 = 0 then
        let r := (t.drop 1 ++ t.take 1).map aesSub
        xorBytes r [(upto (i / 8)).foldl (fun x _ => aesMul x 2) (1 : Byte), 0, 0, 0]
      else if i % 8 = 4 then t.map aesSub else t
    xorBytes (ws.getD 7 []) t :: ws) ((upto 8).map (fun i => (key.drop (28 - 4 * i)).take 4))

/-- One block under a key. -/
def aesBlock (key block : List Byte) : List Byte :=
  let ks := (aesSched key).reverse
  let rk (r : Nat) : List Byte := ((ks.drop (4 * r)).take 4).flatten
  let shift (s : List Byte) : List Byte := (upto 16).map (fun i => s.getD ((i + 4 * (i % 4)) % 16) 0)
  let mix (s : List Byte) : List Byte := (upto 16).map (fun i =>
    let g (k : Nat) : Byte := s.getD (i / 4 * 4 + (i + k) % 4) 0
    aesMul 2 (g 0) ^^^ aesMul 3 (g 1) ^^^ g 2 ^^^ g 3)
  let s := (upto 13).foldl (fun s r => xorBytes (mix (shift (s.map aesSub))) (rk (r + 1))) (xorBytes block (rk 0))
  xorBytes (shift (s.map aesSub)) (rk 14)

/-- Product of GHASH's field; bit 127 of a number is the first bit of a block. -/
def ghashMul (x y : BitVec 128) : BitVec 128 :=
  ((upto 128).foldl (fun (a : BitVec 128 × BitVec 128) i =>
    (if x.getMsbD i then a.1 ^^^ a.2 else a.1,
      (a.2 >>> 1) ^^^ (if a.2.getLsbD 0 then BitVec.ofNat 128 (0xE1 * 2 ^ 120) else 0))) (0, y)).1

/-- Cut into blocks of 16 bytes, the last filled with zeros. -/
def blocks16 (m : List Byte) : List (List Byte) :=
  (upto ((m.length + 15) / 16)).map (fun i =>
    let b := (m.drop (16 * i)).take 16
    b ++ List.replicate (16 - b.length) 0)

def beNat (m : List Byte) : Nat := leNat m.reverse

def ghash (h : List Byte) (bs : List (List Byte)) : List Byte :=
  beBytes 16 (bs.foldl (fun (a : BitVec 128) b =>
    ghashMul (a ^^^ BitVec.ofNat 128 (beNat b)) (BitVec.ofNat 128 (beNat h))) 0).toNat

/-- Counter-mode encryption and decryption of a message under a key and a 12-byte nonce. -/
def gcmCrypt (key nonce m : List Byte) : List Byte :=
  ((blocks16 m).zipIdx.flatMap (fun b => xorBytes b.1 (aesBlock key (nonce ++ beBytes 4 (b.2 + 2))))).take m.length

/-- The 96-bit tag of a ciphertext (or clear payload) and its additional authenticated data. -/
def gcmTag (key nonce aad c : List Byte) : List Byte :=
  let h := aesBlock key (List.replicate 16 0)
  let g := ghash h (blocks16 aad ++ blocks16 c ++ [beBytes 8 (8 * aad.length) ++ beBytes 8 (8 * c.length)])
  (xorBytes g (aesBlock key (nonce ++ beBytes 4 1))).take 12

/-! The device identity. -/

/-- The chain of the device identity key (R443), as ATT_CERTS holds it. -/
def identityChain : List Byte := (upto 8192).map Config.certs

/-- The node identifier that a public key gives (R278). -/
def keyNode (key : List Byte) : Nat := leNat ((sha256 key).take 8)

/-- The part's own node identifier (R278). -/
@[irreducible] def ownNode : Nat := keyNode Config.identityKey % 2 ^ 64

theorem ownNode_lt : ownNode < 2 ^ 64 := by
  unfold ownNode
  exact Nat.mod_lt _ (by decide)

end Sys2Proof.Machine
end

