-- ==== Sys2Proof/Machine/Numeric.lean ====
section
/-! DEFINITION. Exact arithmetic behind the number formats of R42: values as signed magnitudes held by
their fourth power, roundings of R54, and the IEEE operations of R57 to R60. -/

namespace Sys2Proof.Machine

/-- Integer square root, one base-4 digit for each unit of fuel. -/
def isqrtF : Nat → Nat → Nat
  | 0, _ => 0
  | f + 1, n =>
    let r := 2 * isqrtF f (n / 4)
    if (r + 1) * (r + 1) ≤ n then r + 1 else r

/-- Integer square root. -/
def isqrt (n : Nat) : Nat := if n = 0 then 0 else isqrtF (Nat.log2 n / 2 + 1) n

/-- Integer fourth root. -/
def iroot4 (n : Nat) : Nat := isqrt (isqrt n)

/-- A non-negative real `v` with `v ^ 4 = n / d` (`d` positive); block factors of R46 are exact here. -/
structure Mag where
  n : Nat
  d : Nat
  deriving DecidableEq, Repr

/-- Power of two as a fraction. -/
def pow2 (e : Int) : Nat × Nat := if 0 ≤ e then (2 ^ e.toNat, 1) else (1, 2 ^ (-e).toNat)

/-- The magnitude `m * 2 ^ e`. -/
def Mag.dyadic (m : Nat) (e : Int) : Mag :=
  let p := pow2 (4 * e)
  { n := m ^ 4 * p.1, d := p.2 }

/-- Product of two magnitudes. -/
def Mag.mul (a b : Mag) : Mag := { n := a.n * b.n, d := a.d * b.d }

/-- Quotient of two magnitudes, the second not zero. -/
def Mag.div (a b : Mag) : Mag := { n := a.n * b.d, d := a.d * b.n }

/-- Is the magnitude zero? -/
def Mag.isZero (a : Mag) : Bool := a.n == 0

/-- `a < b`. -/
def Mag.lt (a b : Mag) : Bool := decide (a.n * b.d < b.n * a.d)

/-- `a ≤ b`. -/
def Mag.le (a b : Mag) : Bool := decide (a.n * b.d ≤ b.n * a.d)

/-- `2 ^ (k / 4)`: the block factor of R46. -/
def Mag.quarter (k : Int) : Mag :=
  let p := pow2 k
  { n := p.1, d := p.2 }

/-- `floor (v * 2 ^ s)`, and whether it is exact. -/
def Mag.floor (a : Mag) (s : Int) : Nat × Bool :=
  let p := pow2 (4 * s)
  let q := a.n * p.1
  let e := a.d * p.2
  let r := iroot4 (q / e)
  (r, decide (r ^ 4 * e = q))

/-- The exponent `e` with `2 ^ e ≤ v < 2 ^ (e + 1)`, for a non-zero magnitude. -/
def Mag.expo (a : Mag) : Int :=
  let g : Int := (Nat.log2 a.n : Int) - (Nat.log2 a.d : Int)
  -- v ^ 4 lies in (2 ^ (g - 1), 2 ^ (g + 1)); try the quarter's floor and mend by one
  let e0 := (g + 1).fdiv 4
  if Mag.le (Mag.dyadic 1 e0) a then e0 else e0 - 1

/-- Rounding modes: nearest even, stochastic with a 16-bit draw (R54), towards zero, and up in magnitude
(only for internal bounds). -/
inductive Rnd where
  | rne
  | sr (u : Nat)
  | rtz
  deriving DecidableEq, Repr

/-- Round `v * 2 ^ s` to an integer. -/
def Mag.round (a : Mag) (s : Int) (r : Rnd) : Nat :=
  match r with
  | .rtz => (a.floor s).1
  | .rne =>
    let (t, ex) := a.floor (s + 1)
    if t % 2 = 0 then t / 2
    else if ex && (t / 2) % 2 = 0 then t / 2 else t / 2 + 1
  | .sr u =>
    let (t, ex) := a.floor s
    if ex then t
    else
      let f := (a.floor (s + 16)).1 - t * 65536
      if u < f then t + 1 else t

/-- A decoded IEEE value: a NaN (signalling or not), an infinity, or `± m * 2 ^ e`. -/
inductive FVal where
  | nan (signalling : Bool)
  | inf (neg : Bool)
  | fin (neg : Bool) (m : Nat) (e : Int)
  deriving DecidableEq, Repr

/-- Exponent and fraction widths of a binary format (R42). -/
structure Fmt where
  eb : Nat
  mb : Nat
  deriving DecidableEq, Repr

def fmt32 : Fmt := { eb := 8, mb := 23 }
def fmt16 : Fmt := { eb := 5, mb := 10 }

/-- Exponent bias (R42). -/
def Fmt.bias (f : Fmt) : Nat := 2 ^ (f.eb - 1) - 1

/-- Exponent of the smallest subnormal. -/
def Fmt.tiny (f : Fmt) : Int := 1 - (f.bias : Int) - (f.mb : Int)

/-- Decode a bit pattern. -/
def Fmt.decode (f : Fmt) (x : Nat) : FVal :=
  let neg := x.testBit (f.eb + f.mb)
  let e := nbits x f.mb f.eb
  let m := nbits x 0 f.mb
  if e = 2 ^ f.eb - 1 then
    if m = 0 then .inf neg else .nan (!(m.testBit (f.mb - 1)))
  else if e = 0 then .fin neg m f.tiny
  else .fin neg (m + 2 ^ f.mb) ((e : Int) - 1 + f.tiny)

def Fmt.signBit (f : Fmt) (neg : Bool) : Nat := if neg then 2 ^ (f.eb + f.mb) else 0
def Fmt.infBits (f : Fmt) (neg : Bool) : Nat := f.signBit neg + (2 ^ f.eb - 1) * 2 ^ f.mb
/-- The canonical quiet NaN (R57). -/
def Fmt.nanBits (f : Fmt) : Nat := (2 ^ f.eb - 1) * 2 ^ f.mb + 2 ^ (f.mb - 1)
/-- The largest finite value of a sign. -/
def Fmt.maxBits (f : Fmt) (neg : Bool) : Nat := f.infBits neg - 1
/-- The largest finite magnitude. -/
def Fmt.maxMag (f : Fmt) : Mag :=
  Mag.dyadic (2 ^ (f.mb + 1) - 1) ((2 ^ f.eb : Nat) - 3 + f.tiny)

/-- Round a magnitude into the format: its bits without sign, or none on overflow (R54, R58). -/
def Fmt.roundMag (f : Fmt) (a : Mag) (r : Rnd) : Option Nat :=
  if a.isZero then some 0
  else
    let ovf := match r with | .sr _ => Mag.lt f.maxMag a | _ => false
    if ovf then none
    else
      let e := max (a.expo - (f.mb : Int)) f.tiny
      let m := a.round (-e) r
      -- adding the integer significand to the exponent base carries a round-up into the exponent
      let k := (e - f.tiny).toNat
      let b := if m < 2 ^ f.mb then m else k * 2 ^ f.mb + m
      if b < (2 ^ f.eb - 1) * 2 ^ f.mb then some b
      else match r with
        | .rtz => some (f.maxBits false)
        | _ => none

/-- Bits of the numeric status word (R64). -/
def nsInvalid : Nsw := 0x0001
def nsNonfiniteIn : Nsw := 0x0002
def nsNonfiniteOut : Nsw := 0x0004
def nsOverflowSat : Nsw := 0x0008
def nsScaleOvf : Nsw := 0x0010
def nsScaleUnf : Nsw := 0x0020
def nsVanish : Nsw := 0x0040
def nsBdSat : Nsw := 0x0080
def nsEmptyRed : Nsw := 0x0100

/-- Round with the overflow rule of R58: ±Inf and NONFINITE_OUT, or saturated and OVERFLOW_SAT. -/
def Fmt.finish (f : Fmt) (sat neg : Bool) (a : Mag) (r : Rnd) : Nat × Nsw :=
  match f.roundMag a r with
  | some b => (f.signBit neg + b, 0)
  | none => if sat then (f.maxBits neg, nsOverflowSat) else (f.infBits neg, nsNonfiniteOut)

/-- Flags of the operands: INVALID for a signalling NaN, NONFINITE_IN for NaN and infinities (R57, R64). -/
def FVal.flags : FVal → Nsw
  | .nan true => nsInvalid ||| nsNonfiniteIn
  | .nan false => nsNonfiniteIn
  | .inf _ => nsNonfiniteIn
  | .fin _ _ _ => 0

def FVal.isNan : FVal → Bool
  | .nan _ => true
  | _ => false

def FVal.isFin : FVal → Bool
  | .fin _ _ _ => true
  | _ => false

/-- Signed integer of a sign and a magnitude. -/
def sgn (neg : Bool) (m : Nat) : Int := if neg then -(m : Int) else m

/-- Result of an invalid operation on operands that are no NaN (R57, R64). -/
def Fmt.invalid (f : Fmt) (fl : Nsw) : Nat × Nsw := (f.nanBits, fl ||| nsInvalid ||| nsNonfiniteOut)

/-- Sum of finite values, exact then rounded; an exact zero sum is +0 unless both are −0. -/
def Fmt.addFin (f : Fmt) (sat : Bool) (sa : Bool) (ma : Nat) (ea : Int) (sb : Bool) (mb : Nat) (eb : Int) :
    Nat × Nsw :=
  let e := min ea eb
  let x := sgn sa ma * 2 ^ (ea - e).toNat + sgn sb mb * 2 ^ (eb - e).toNat
  if x = 0 then (f.signBit (sa && sb && ma = 0 && mb = 0), 0)
  else f.finish sat (decide (x < 0)) (Mag.dyadic x.natAbs e) .rne

/-- IEEE addition with RNE (R58). -/
def Fmt.add (f : Fmt) (sat : Bool) (x y : Nat) : Nat × Nsw :=
  let a := f.decode x
  let b := f.decode y
  let fl := a.flags ||| b.flags
  match a, b with
  | .nan _, _ => (f.nanBits, fl)
  | _, .nan _ => (f.nanBits, fl)
  | .inf s, .inf t => if s = t then (f.infBits s, fl) else f.invalid fl
  | .inf s, .fin _ _ _ => (f.infBits s, fl)
  | .fin _ _ _, .inf t => (f.infBits t, fl)
  | .fin sa ma ea, .fin sb mb eb => f.addFin sat sa ma ea sb mb eb

/-- Zero times infinity, in either order. -/
def FVal.zeroTimesInf (a b : FVal) : Bool :=
  match a, b with
  | .inf _, .fin _ m _ => m = 0
  | .fin _ m _, .inf _ => m = 0
  | _, _ => false

/-- IEEE fused multiply-add `x * y + z` with RNE (R58). -/
def Fmt.fma (f : Fmt) (sat : Bool) (x y z : Nat) : Nat × Nsw :=
  let a := f.decode x
  let b := f.decode y
  let c := f.decode z
  let fl := a.flags ||| b.flags ||| c.flags
  if a.isNan || b.isNan || c.isNan then
    -- 0 × ∞ is invalid also beside a NaN addend (R57 names it; IEEE 754 leaves it open; DEDUCED, log entry 27)
    (f.nanBits, if a.zeroTimesInf b then fl ||| nsInvalid else fl)
  else match a, b, c with
  | .fin sa ma ea, .fin sb mb eb, .fin sc mc ec =>
    f.addFin sat (sa != sb) (ma * mb) (ea + eb) sc mc ec
  | .fin _ _ _, .fin _ _ _, .inf s => (f.infBits s, fl)
  | .inf _, .fin _ 0 _, _ => f.invalid fl
  | .fin _ 0 _, .inf _, _ => f.invalid fl
  | _, _, _ =>
    let neg (v : FVal) : Bool := match v with | .inf s => s | .fin s _ _ => s | .nan _ => false
    let s := neg a != neg b
    match c with
    | .inf t => if s = t then (f.infBits s, fl) else f.invalid fl
    | _ => (f.infBits s, fl)

/-- IEEE multiplication with RNE (R58). -/
def Fmt.mul (f : Fmt) (sat : Bool) (x y : Nat) : Nat × Nsw :=
  let a := f.decode x
  let b := f.decode y
  let fl := a.flags ||| b.flags
  match a, b with
  | .nan _, _ => (f.nanBits, fl)
  | _, .nan _ => (f.nanBits, fl)
  | .inf s, .inf t => (f.infBits (s != t), fl)
  | .inf s, .fin t m _ => if m = 0 then f.invalid fl else (f.infBits (s != t), fl)
  | .fin t m _, .inf s => if m = 0 then f.invalid fl else (f.infBits (s != t), fl)
  | .fin sa ma ea, .fin sb mb eb =>
    if ma * mb = 0 then (f.signBit (sa != sb), 0)
    else f.finish sat (sa != sb) (Mag.dyadic (ma * mb) (ea + eb)) .rne

/-- IEEE division with RNE; a finite value by zero is an infinity and NONFINITE_OUT, as RCP gives (R64, R101). -/
def Fmt.div (f : Fmt) (sat : Bool) (x y : Nat) : Nat × Nsw :=
  let a := f.decode x
  let b := f.decode y
  let fl := a.flags ||| b.flags
  match a, b with
  | .nan _, _ => (f.nanBits, fl)
  | _, .nan _ => (f.nanBits, fl)
  | .inf _, .inf _ => f.invalid fl
  | .inf s, .fin t _ _ => (f.infBits (s != t), fl)
  | .fin s _ _, .inf t => (f.signBit (s != t), fl)
  | .fin sa ma ea, .fin sb mb eb =>
    if mb = 0 then
      if ma = 0 then f.invalid fl else (f.infBits (sa != sb), fl ||| nsNonfiniteOut)
    else if ma = 0 then (f.signBit (sa != sb), 0)
    else f.finish sat (sa != sb) ((Mag.dyadic ma ea).div (Mag.dyadic mb eb)) .rne

/-- IEEE square root with RNE; of a negative non-zero number it is invalid (R57). -/
def Fmt.sqrt (f : Fmt) (x : Nat) : Nat × Nsw :=
  let a := f.decode x
  let fl := a.flags
  match a with
  | .nan _ => (f.nanBits, fl)
  | .inf s => if s then f.invalid fl else (f.infBits false, fl)
  | .fin s m e =>
    if m = 0 then (f.signBit s, 0)
    else if s then f.invalid fl
    else
      let p := pow2 (2 * e)
      f.finish false false { n := m ^ 2 * p.1, d := p.2 } .rne

/-- Signed comparison key of values that are no NaN: −0 below +0 (R60). -/
def FVal.cmpLt (a b : FVal) : Bool :=
  match a, b with
  | .nan _, _ => false
  | _, .nan _ => false
  | .inf s, .inf t => s && !t
  | .inf s, .fin _ _ _ => s
  | .fin _ _ _, .inf t => !t
  | .fin sa ma ea, .fin sb mb eb =>
    let e := min ea eb
    decide (sgn sa ma * 2 ^ (ea - e).toNat < sgn sb mb * 2 ^ (eb - e).toNat)

/-- Numeric equality (zeros of either sign are equal; NaN equals nothing). -/
def FVal.cmpEq (a b : FVal) : Bool :=
  !a.isNan && !b.isNan && !a.cmpLt b && !b.cmpLt a

def FVal.isNeg : FVal → Bool
  | .nan _ => false
  | .inf s => s
  | .fin s _ _ => s

/-- max and min of R60. -/
def Fmt.maxMin (f : Fmt) (isMax : Bool) (x y : Nat) : Nat × Nsw :=
  let a := f.decode x
  let b := f.decode y
  let fl := a.flags ||| b.flags
  if a.isNan || b.isNan then (f.nanBits, fl)
  else if a.cmpEq b then
    (if isMax then (if a.isNeg then y else x) else (if a.isNeg then x else y), fl)
  else if a.cmpLt b = isMax then (y, fl) else (x, fl)

/-- Magnitude of a finite value. -/
def FVal.mag : FVal → Mag
  | .fin _ m e => Mag.dyadic m e
  | _ => { n := 0, d := 1 }

/-- F32 operations on words. -/
def f32op (r : Nat × Nsw) : F32 × Nsw := (BitVec.ofNat 32 r.1, r.2)
def f32dec (x : F32) : FVal := fmt32.decode x.toNat
def f32add (x y : F32) : F32 := BitVec.ofNat 32 (fmt32.add false x.toNat y.toNat).1
def f32mul (x y : F32) : F32 := BitVec.ofNat 32 (fmt32.mul false x.toNat y.toNat).1
def f32div (x y : F32) : F32 := BitVec.ofNat 32 (fmt32.div false x.toNat y.toNat).1
def f32fma (x y z : F32) : F32 := BitVec.ofNat 32 (fmt32.fma false x.toNat y.toNat z.toNat).1
def f32sqrt (x : F32) : F32 := BitVec.ofNat 32 (fmt32.sqrt x.toNat).1
def f32neg (x : F32) : F32 := x ^^^ 0x80000000
def f32abs (x : F32) : F32 := x &&& 0x7FFFFFFF
def f32sub (x y : F32) : F32 := f32add x (f32neg y)
def f32lt (x y : F32) : Bool := (f32dec x).cmpLt (f32dec y)
def f32le (x y : F32) : Bool := (f32dec x).cmpLt (f32dec y) || (f32dec x).cmpEq (f32dec y)
def f32isFin (x : F32) : Bool := (f32dec x).isFin
def f32isNan (x : F32) : Bool := (f32dec x).isNan
/-- Exact rational `p / q`, signed, rounded once to F32 with RNE. -/
def f32ofRat (neg : Bool) (p q : Nat) : F32 :=
  BitVec.ofNat 32 (fmt32.finish false neg { n := p ^ 4, d := q ^ 4 } .rne).1
def f32ofNat (n : Nat) : F32 := f32ofRat false n 1
/-- Exact F32 of a finite value's half precision. -/
def hb16to32 (x : HB16) : F32 :=
  match fmt16.decode x.toNat with
  | .nan _ => 0x7FC00000
  | .inf s => if s then 0xFF800000 else 0x7F800000
  | .fin s m e => BitVec.ofNat 32 (fmt32.finish false s (Mag.dyadic m e) .rne).1

/-- A tensor scale is positive, finite and normal (R46, R48). -/
def scaleOk (x : F32) : Bool :=
  !bit x 31 && decide (bits x 30 23 ≠ 0) && decide (bits x 30 23 ≠ 255)

/-- The magnitude of a finite F32. -/
def f32mag (x : F32) : Mag := (f32dec x).mag

/-- One of the results that lie within `k` units of a positive exact value (R121, R227): which one is free (log entry 6). `a` is the
exact value, or, where it has no finite binary expansion, an approximation to 2 ^ −80 of it, and `exact` says which. The
units are those of the format at the value itself (DESIGN CHOICE, log entry 6). -/
def nearUnits (f : Fmt) (sat neg : Bool) (a : Mag) (exact : Bool) (k pick : Nat) : Nat × Nsw :=
  match f.roundMag a .rne with
  | none => f.finish sat neg a .rne
  | some _ =>
    let t := (f.roundMag a .rtz).getD 0
    let lo := t + 1 - k - (if exact then 1 else 0)
    (f.signBit neg + min (lo + pick % (t + k + 1 - lo)) (f.maxBits false), 0)

/-- One of the results within one unit of an exact quotient or root. -/
def nearOne (f : Fmt) (sat neg : Bool) (a : Mag) (pick : Nat) : Nat × Nsw :=
  let t := (f.roundMag a .rtz).getD 0
  nearUnits f sat neg a (match f.decode t with | .fin _ m e => Mag.le a (Mag.dyadic m e) | _ => false) 1 pick

/-- Terms of the series of a cosine: `x2` the square of the argument, `t` the next term, in fixed point with 192 fraction
bits. -/
def cosTerms (x2 : Nat) : Nat → Nat → Nat → Int → Int
  | 0, _, _, acc => acc
  | n + 1, k, t, acc =>
    cosTerms x2 n (k + 2) (t * x2 / 2 ^ 192 / ((k + 1) * (k + 2))) (if k % 4 = 0 then acc + t else acc - t)

/-- `(1 + cos (π a / b)) / 2` for `a ≤ b`, to 2 ^ −180, with 192 fraction bits. -/
def halfCos (a b : Nat) : Nat :=
  let x := 0x3243f6a8885a308d313198a2e03707344a4093822299f31d0 * a / b
  ((2 ^ 192 + cosTerms (x * x / 2 ^ 192) 50 0 (2 ^ 192) 0) / 2).toNat

/-- `x ^ n` for a fraction `x` with 256 fraction bits, truncated at each product; `f` bits of `n` are read. -/
def powFix : Nat → Nat → Nat → Nat
  | 0, _, _ => 2 ^ 256
  | f + 1, x, n =>
    let r := powFix f (x * x / 2 ^ 256) (n / 2)
    if n % 2 = 1 then r * x / 2 ^ 256 else r

/-- Philox-4x32-10 (R68), with the generator's standard multipliers and round constants (PRESUMED, log entry 5). -/
def philoxRound (k0 k1 : Nat) (x : Nat × Nat × Nat × Nat) : Nat × Nat × Nat × Nat :=
  let p0 := 0xD2511F53 * x.1
  let p1 := 0xCD9E8D57 * x.2.2.1
  let hi0 := p0 / 2 ^ 32
  let hi1 := p1 / 2 ^ 32
  ((hi1 ^^^ x.2.1) ^^^ k0, p1 % 2 ^ 32, (hi0 ^^^ x.2.2.2) ^^^ k1, p0 % 2 ^ 32)

def philoxRounds : Nat → Nat → Nat → (Nat × Nat × Nat × Nat) → (Nat × Nat × Nat × Nat)
  | 0, _, _, x => x
  | n + 1, k0, k1, x =>
    philoxRounds n ((k0 + 0x9E3779B9) % 2 ^ 32) ((k1 + 0xBB67AE85) % 2 ^ 32) (philoxRound k0 k1 x)

/-- The four output words for a 64-bit seed and a 128-bit counter (R68). -/
def philox (seed ctr : Nat) : Nat × Nat × Nat × Nat :=
  philoxRounds 10 (nbits seed 0 32) (nbits seed 32 32)
    (nbits ctr 0 32, nbits ctr 32 32, nbits ctr 64 32, nbits ctr 96 32)

/-- Where draws come from: seed, stream, step and layer (R68). -/
structure Draw where
  seed : Nat
  stream : Nat
  step : Nat
  layer : Nat
  deriving DecidableEq, Repr

/-- The Philox counter of a position (R68). -/
def Draw.counter (d : Draw) (pos : Nat) : Nat :=
  pos % 2 ^ 48 + (d.layer % 2 ^ 16) * 2 ^ 48 + (d.step % 2 ^ 32) * 2 ^ 64 + (d.stream % 2 ^ 32) * 2 ^ 96

/-- The 16-bit draw of element `i` of the logical tensor (R68, R69). -/
def Draw.elem (d : Draw) (i : Nat) : Nat :=
  let w := philox d.seed (d.counter (i / 8))
  let q := match (i % 8) / 2 with | 0 => w.1 | 1 => w.2.1 | 2 => w.2.2.1 | _ => w.2.2.2
  nbits q (16 * (i % 2)) 16

end Sys2Proof.Machine
end

