-- ==== Sys2Proof/Machine/Convert.lean ====
section
/-! DEFINITION. Bead formats, scales and conversions (R42 to R56, R61, R62). -/

namespace Sys2Proof.Machine

/-- Format codes of R56. -/
def fcF32 : Nat := 0
def fcHB16 : Nat := 1
def fcBD8 : Nat := 2
def fcBD4 : Nat := 3

/-- Magnitude of BD8 code `k` (0 to 127), in 64ths (R43). -/
def bd8Mag (k : Nat) : Nat := if k < 16 then k else (16 + k % 16) * 2 ^ (k / 16 - 1)

/-- Magnitude of BD4 index `m` (0 to 7), in eighths (R44). -/
def bd4Mag (m : Nat) : Nat := if m = 7 then 8 else m

/-- A bead format's size of code: fraction bits of the unit, largest code, code magnitudes. -/
structure Bead where
  wide : Bool
  deriving DecidableEq, Repr

def bd8 : Bead := { wide := true }
def bd4 : Bead := { wide := false }

/-- The code values are integer multiples of `2 ^ −unit` (R43, R44). -/
def Bead.unit (b : Bead) : Nat := if b.wide then 6 else 3
def Bead.top (b : Bead) : Nat := if b.wide then 127 else 7
def Bead.codeMag (b : Bead) (k : Nat) : Nat := if b.wide then bd8Mag k else bd4Mag k
def Bead.signBit (b : Bead) : Nat := if b.wide then 128 else 8
/-- Cmax of R45. -/
def Bead.cmax (b : Bead) : Mag := if b.wide then Mag.dyadic 31 0 else Mag.dyadic 1 0

/-- Signed code value in units; the negative zero codes 0x80 and 0x8 are +0 (R43, R44). -/
def Bead.value (b : Bead) (c : Nat) : Int :=
  let k := c % b.signBit
  if c % (2 * b.signBit) < b.signBit then (b.codeMag k : Int) else -(b.codeMag k : Int)

/-- The largest code whose magnitude is at most `t` units. -/
def Bead.floorCode (b : Bead) (t : Nat) : Nat :=
  if b.wide then
    if t < 16 then t
    else if 1984 ≤ t then 127
    else let e := Nat.log2 t - 3; 16 * e + (t / 2 ^ (e - 1) - 16)
  else if t < 7 then t else if t = 7 then 6 else 7

/-- Round a scaled magnitude to a code (R49, R54); also whether it exceeded Cmax (R51). -/
def Bead.roundCode (b : Bead) (v : Mag) (r : Rnd) : Nat × Bool :=
  if Mag.lt b.cmax v then (b.top, true)
  else
    let (t, ex) := v.floor b.unit
    let k := b.floorCode t
    let a := b.codeMag k
    if k = b.top || (ex && t = a) then (k, false)
    else
      let c := b.codeMag (k + 1)
      match r with
      | .rtz => (k, false)
      | .rne =>
        let (t2, ex2) := v.floor (b.unit + 1)
        if a + c < t2 || (t2 = a + c && !ex2) then (k + 1, false)
        else if t2 = a + c && k % 2 = 1 then (k + 1, false)
        else (k, false)
      | .sr u =>
        let q := ((v.floor (b.unit + 16)).1 - a * 65536) / (c - a)
        (if u < q then k + 1 else k, false)

/-- The smallest `k` with `n / d ≤ 2 ^ k`, `n` and `d` positive. -/
def ceilLog2 (n d : Nat) : Int :=
  let g : Int := (Nat.log2 n : Int) - (Nat.log2 d : Int)
  let p := pow2 g
  if n * p.2 ≤ d * p.1 then g else g + 1

/-- What a conversion measures: running max and the counters of its slot (R50, R51, R53, R66). -/
structure ConvAcc where
  amax : F32 := 0
  vanish : Nat := 0
  sat : Nat := 0
  nonfin : Nat := 0
  nsw : Nsw := 0
  deriving DecidableEq, Repr

/-- Two measurements of one conversion taken together (R66). -/
def ConvAcc.join (a b : ConvAcc) : ConvAcc :=
  { amax := if a.amax.toNat < b.amax.toNat then b.amax else a.amax
    vanish := a.vanish + b.vanish, sat := a.sat + b.sat, nonfin := a.nonfin + b.nonfin
    nsw := a.nsw ||| b.nsw }

/-- F32 bits of the magnitude of a finite source value (exact for F32 and HB16 sources). -/
def magBits (m : Mag) : F32 := BitVec.ofNat 32 ((fmt32.roundMag m .rne).getD 0x7F7FFFFF)

/-- What reading a source element measures (R53, R57, R66). -/
def srcAcc (v : FVal) : ConvAcc :=
  match v with
  | .fin _ _ _ => { amax := magBits v.mag }
  | _ => { nonfin := 1, nsw := v.flags }

/-- The block scale of R49 for a block maximum and a tensor scale. -/
def blockScale (b : Bead) (ts : F32) (a : Mag) : Nat :=
  if a.isZero then 0
  else
    let q := a.div ((f32mag ts).mul b.cmax)
    let k := ceilLog2 q.n q.d
    (max 1 (min 255 (k + 128))).toNat

/-- One encoded element and what it counts (R49 to R53). -/
def encodeElem (b : Bead) (f : Mag) (r : Rnd) (v : FVal) : Nat × ConvAcc :=
  match v with
  | .nan _ => (0, srcAcc v)
  | .inf s => ((if s then b.signBit else 0) + b.top, srcAcc v)
  | .fin s m e =>
    if m = 0 then (0, srcAcc v)
    else
      let (k, sat) := b.roundCode ((Mag.dyadic m e).div f) r
      let acc := srcAcc v
      if sat then ((if s then b.signBit else 0) + k, { acc with sat := 1, nsw := nsBdSat })
      else if k = 0 then (0, { acc with vanish := 1, nsw := nsVanish })
      else ((if s then b.signBit else 0) + k, acc)

/-- Encode one block: block scale, codes and measurements (R49 to R53). An inactive or padding element is none: code 0,
measured by nothing (R47, R94). A block without a finite non-zero element becomes a zero block. -/
def encodeBlock (b : Bead) (ts : F32) (r : Nat → Rnd) (xs : List (Option FVal)) : Nat × List Nat × ConvAcc :=
  let a : Mag := xs.foldl (fun a v =>
    match v with
    | some v => if v.isFin && Mag.lt a v.mag then v.mag else a
    | none => a) { n := 0, d := 1 }
  let sb := blockScale b ts a
  let f := (f32mag ts).mul (Mag.quarter ((sb : Int) - 128))
  let es := xs.zipIdx.map (fun p =>
    match p.1 with
    | some v => if sb = 0 then (0, srcAcc v) else encodeElem b f (r p.2) v
    | none => (0, ({} : ConvAcc)))
  (sb, es.map (·.1), es.foldl (fun acc e => acc.join e.2) {})

/-- Cut a list into blocks of 32, the last padded (R47). -/
def blocks32 : Nat → List (Option FVal) → List (List (Option FVal))
  | 0, _ => []
  | n + 1, xs => (xs.take 32 ++ List.replicate (32 - (xs.take 32).length) none) :: blocks32 n (xs.drop 32)

/-- Encode a row: scale bytes, codes and measurements; `r i` rounds element `i` of the row. -/
def encodeRow (b : Bead) (ts : F32) (r : Nat → Rnd) (xs : List (Option FVal)) : List Nat × List Nat × ConvAcc :=
  let bl := blocks32 ((xs.length + 31) / 32) xs
  let es := bl.zipIdx.map (fun p => encodeBlock b ts (fun i => r (32 * p.2 + i)) p.1)
  (es.map (·.1), es.flatMap (·.2.1), es.foldl (fun acc e => acc.join e.2.2) {})

/-- Bytes of codes: one for each BD8 code, one for each pair of BD4 codes, the even element low (R42). -/
def packCodes (b : Bead) : List Nat → List Byte
  | [] => []
  | [c] => [BitVec.ofNat 8 c]
  | c :: d :: t =>
    if b.wide then BitVec.ofNat 8 c :: packCodes b (d :: t)
    else BitVec.ofNat 8 (c % 16 + 16 * (d % 16)) :: packCodes b t

/-- An F32 value formed by applying scales (R59, R61, R62): saturated, or flushed to a signed zero. An exact value above
0x7F7F_FFFF that RNE rounds back to it counts as that value and sets no SCALE_OVF (DEDUCED, log entry 29). -/
def scaledF32 (neg : Bool) (v : Mag) : F32 × Nsw :=
  if v.isZero then (0, 0)
  else if Mag.lt v (Mag.dyadic 1 (-126)) then (if neg then 0x80000000 else 0, nsScaleUnf)
  else match fmt32.roundMag v .rne with
    | some b => (BitVec.ofNat 32 (fmt32.signBit neg + b), 0)
    | none => (BitVec.ofNat 32 (fmt32.maxBits neg), nsScaleOvf)

/-- Decode a bead code to F32 (R46, R61). -/
def decodeBead (b : Bead) (ts : F32) (sb code : Nat) : F32 × Nsw :=
  let c := b.value code
  if sb = 0 || c = 0 then (0, 0)
  else scaledF32 (decide (c < 0))
    (((f32mag ts).mul (Mag.quarter ((sb : Int) - 128))).mul (Mag.dyadic c.natAbs (-(b.unit : Int))))

/-- Conversion of one value into HB16 with a divisor TS, or into F32 (R52, R53, R58). An explicit TS divides as a slot's
does: R56, R84 and R207 give SLOT_EN = 0 the explicit TS, where R52 says 1.0 (DEDUCED, log entry 28). -/
def narrow (f : Fmt) (sat : Bool) (ts : Option F32) (r : Rnd) (v : FVal) : Nat × ConvAcc :=
  match v with
  | .nan _ => (f.nanBits, srcAcc v)
  | .inf s => (f.infBits s, srcAcc v)
  | .fin s m e =>
    let x := Mag.dyadic m e
    let x := match ts with | some t => x.div (f32mag t) | none => x
    let (b, fl) := f.finish sat s x r
    (b, { srcAcc v with nsw := fl })

/-- The conversion control word of R56. -/
def cwSlot (w : Nat) : Nat := nbits w 20 12
def cwSlotEn (w : Nat) : Bool := w.testBit 19
def cwGrad (w : Nat) : Bool := w.testBit 18
/-- SAT, which a gradient conversion treats as 0 (R55, R200). -/
def cwSat (w : Nat) : Bool := w.testBit 17 && !cwGrad w
def cwRound (w : Nat) : Bool := w.testBit 16
def cwSrc (w : Nat) : Nat := nbits w 4 4
def cwDst (w : Nat) : Nat := nbits w 0 4
/-- SRC and DST name formats (R56). -/
def cwOk (w : Nat) : Bool := decide (cwSrc w < 4) && decide (cwDst w < 4)
/-- The rounding of an element under a control word: gradient class forces SR (R55). -/
def cwRnd (w : Nat) (u : Nat) : Rnd := if cwGrad w || cwRound w then .sr u else .rne

/-- Slot fields (R65), as a word of 1,024 bits. -/
def slotReset : BitVec 1024 :=
  BitVec.ofNat 1024 ((0x0F <<< 576) ||| (1 <<< 548) ||| (0x3F800000 <<< 512))

/-- Replace bits `[lo + n - 1 : lo]` of a word. -/
def setField {w : Nat} (x : BitVec w) (lo n v : Nat) : BitVec w :=
  BitVec.ofNat w (x.toNat - (nbits x.toNat lo n) * 2 ^ lo + (v % 2 ^ n) * 2 ^ lo)

def slotTs (x : BitVec 1024) : F32 := BitVec.ofNat 32 (bits x 543 512)

/-- Cmax of the target format of a slot (R45, R66). -/
def slotCmax (x : BitVec 1024) : Nat :=
  match bits x 545 544 with | 0 => 31 | 1 => 1 | _ => 65504

/-- TS computed from the history under DELAYED mode (R66). -/
def slotNextTs (x : BitVec 1024) : F32 :=
  let es := (upto 16).map (fun k => f32abs (BitVec.ofNat 32 (bits x (32 * k + 31) (32 * k))))
  let h := (es.filter f32isFin).foldl (fun a e => if a.toNat < e.toNat then e else a) (0 : F32)
  match f32dec h with
  | .fin _ m e =>
    if m = 0 then 0x3F800000
    else
      -- 2 ^ ceil (log2 (h * 2 ^ margin / cmax))
      let p := pow2 (e + (bits x 551 548 : Nat))
      let k := ceilLog2 (m * p.1) (slotCmax x * p.2)
      let k := max (-126) (min 127 k)
      BitVec.ofNat 32 ((k + 127).toNat * 2 ^ 23)
  | _ => 0x3F800000

/-- Record one completed conversion in a slot (R65, R66). -/
def slotRecord (x : BitVec 1024) (a : ConvAcc) : BitVec 1024 :=
  let head := (bits x 583 576 + 1) % 16
  let x := setField x 576 8 head
  let x := setField x (32 * head) 32 a.amax.toNat
  let x := setField x 584 8 (min (bits x 591 584 + 1) 16)
  let x := setField x 704 32 (satAdd 32 (bits x 735 704) 1)
  let x := setField x 672 32 (satAdd 32 (bits x 703 672) a.nonfin)
  let x := setField x 640 32 (satAdd 32 (bits x 671 640) a.sat)
  let x := setField x 608 32 (satAdd 32 (bits x 639 608) a.vanish)
  let x := setField x 592 16 (bits x 607 592 ||| a.nsw.toNat)
  if bits x 547 546 = 0 then setField x 512 32 (slotNextTs x).toNat else x

/-- Status of a host slot write (R48, R65): 0 accepted, 1 SCALE_INVALID, 2 SLOT_INVALID. -/
def slotWriteCheck (v : BitVec 1024) : Nat :=
  if !scaleOk (slotTs v) then 1
  else if 2 ≤ bits v 547 546 || bits v 545 544 = 3 then 2 else 0

/-- A host slot write: RW fields written, W1C applied, RO and RC ignored (R65). -/
def slotWrite (x v : BitVec 1024) : BitVec 1024 :=
  let x := setField x 0 512 (bits v 511 0)
  let x := setField x 512 40 (bits v 551 512)
  setField x 592 16 (bits x 607 592 &&& (65535 - bits v 607 592))

/-- A slot read clears its RC fields (R11, R65). -/
def slotCleared (x : BitVec 1024) : BitVec 1024 := setField x 608 128 0

end Sys2Proof.Machine
end

