-- ==== Sys2Proof/Machine/State.lean ====
section
/-! DEFINITION. The state of the part: plain data, every field at its reset value by default. -/

namespace Sys2Proof.Machine

open Sys2Proof

/-- A rod's fence state (R31). -/
inductive RodState where
  | off | enabled | fencing | coreFenced | fullFenced
  deriving DecidableEq, Repr

/-- What a rod program waits for (R342: tally, carry, stage-fence, numerics-state and root-query waits; R142, R220: pushes
into a full queue). -/
inductive RodWait where
  | none
  | acquire (n seq : Nat)
  | wait (n seq : Nat)
  | fence (f value : Nat)
  | numerics (step : Nat)
  | rootQuery (fb step : Nat)
  | carry (g step : Nat)
  | bucket (id : Nat)
  | stagePush (desc : BitVec 512)
  | updatePush (desc : BitVec 512)
  deriving DecidableEq, Repr

/-- Phase of a descriptor in the matrix queue (R86). -/
inductive MatPhase where
  | queued
  | streaming
  /-- the bank is complete; its read-out waits for operand-cache banks (R86, R88) -/
  | held
  | reading
  | clearing
  deriving DecidableEq, Repr

/-- One accepted matrix descriptor (R77, R86). -/
structure MatOp where
  /-- place in the rod's program order (R114) -/
  seq : Nat
  desc : BitVec 512
  draw : DrawDecl
  /-- rod cycle of acceptance (R86) -/
  accepted : Nat
  phase : MatPhase
  /-- rod cycle at which streaming, read-out or clearing began -/
  start : Nat
  /-- tensor scale the read-out uses, read at acceptance (R66, R84) -/
  ts : F32
  deriving DecidableEq, Repr

/-- One accepted vector descriptor with its captured scalars (R95, R99). -/
structure VecOp where
  seq : Nat
  desc : BitVec 1536
  draw : DrawDecl
  accepted : Nat
  /-- values of s0 to s63 at acceptance (R99) -/
  regs : List (Nat × BitVec 64)
  deriving DecidableEq, Repr

/-- A running vector operation: what it writes when it completes (R116). -/
structure VecRun where
  op : VecOp
  start : Nat
  /-- rod cycle of completion (R116) -/
  done : Nat
  /-- operand-cache bytes written -/
  writes : List (Nat × Byte)
  /-- mask registers written by CMP (R93, R102) -/
  masks : List (Nat × BitVec 16384)
  /-- scalar register written by RED or COMPRESS (R106, R110) -/
  scalar : Option (Nat × BitVec 64)
  /-- look-up table words written by TLOAD (R104) -/
  lut : List (Nat × F32)
  nsw : BitVec 16
  /-- conversion into a slot: slot, running max, counters (R66) -/
  conv : Option (Nat × ConvAcc)
  deriving DecidableEq, Repr

/-- The reads of an accumulator bank by a chain that has started: the first rod cycle after its last (R82, R111). -/
structure AccRead where
  bank : Nat
  seq : Nat
  until_ : Nat
  deriving DecidableEq, Repr

/-- One FILL or SPILL in the deck mover's queue (R113). -/
structure DeckMove where
  seq : Nat
  desc : BitVec 1536
  accepted : Nat
  /-- the mover has begun it (R113, R114) -/
  going : Bool
  /-- mesh requests of a remote span that the mover has begun, one for each packet (R24, R27) -/
  req : List Nat
  /-- that request was lost (R27, R113) -/
  lost : Bool
  deriving DecidableEq, Repr

/-- One of the 576 rods (R18, R31). -/
structure Rod where
  /-- state; 3 bits; R31; reset OFF -/
  st : RodState := .off
  /-- fence level being applied, 0 to 2; R32, R38; reset 0 -/
  target : Nat := 0
  /-- rod cycle + 1 in which the neighbours disabled their links to it, 0 = they have not; R33; reset 0 -/
  closedAt : Nat := 0
  /-- place of the next control-core operation in program order; R114; reset 0 (model's own) -/
  issue : Nat := 0
  /-- matrix queue of four descriptors; R86; reset empty -/
  mq : List MatOp := []
  /-- rod cycle in which the latest streaming ends; R87; reset 0 -/
  streamEnd : Nat := 0
  /-- first rod cycle at which an operation that waited on a bank may start: after any operation on bank b at b, after a
  read-out or a CLEAR at 2 + b; R82, R86; reset 0 -/
  bankAt : Tab Nat := []
  /-- last reads of accumulator banks by chains that have started; R82, R111; reset none -/
  accReads : List AccRead := []
  /-- first rod cycle after the latest end of an operation that used the operand cache; R88, R114; reset 0 (model's own) -/
  freeAt : Nat := 0
  /-- first rod cycle in which the next vector operation may start; R116; reset 0 (model's own) -/
  vecFrom : Nat := 0
  /-- accumulator banks, 2 x 4,096 F32, bank b element i at 4096 b + i; R82; reset DESIGN CHOICE +0 -/
  banks : Tab F32 := []
  /-- bank status words, 2 x 16 bits; R83; reset DESIGN CHOICE 0 -/
  bsw : Tab (BitVec 16) := []
  /-- vector queue of four; R116; reset empty -/
  vq : List VecOp := []
  /-- running vector operation; R116; reset none -/
  vrun : Option VecRun := none
  /-- deck-mover queue of eight; R113; reset empty -/
  dq : List DeckMove := []
  /-- mask registers M0 to M7, 16,384 bits each; R93; reset 0 -/
  masks : Tab (BitVec 16384) := []
  /-- look-up tables 0 to 3, 259 F32 each (entries, SCALE, BIAS), word w of table t at 512 t + w; R104; reset +0 -/
  luts : Tab F32 := []
  /-- operand cache, 8 MiB; R112; reset +0 -/
  cache : Mem := []
  /-- control-core instruction memory, 128 KiB; R18; reset DESIGN CHOICE 0 -/
  imem : Mem := []
  /-- scalar registers s0 to s63, 64 bits each; R18; reset DESIGN CHOICE 0 -/
  sregs : Tab (BitVec 64) := []
  /-- value returned by the latest control-core operation; R163, R196, R208, R232; reset DESIGN CHOICE 0 (model's own port) -/
  ret : Nat := 0
  /-- the wait of the rod program, if it waits; R342; reset none -/
  wait : RodWait := .none
  /-- strokes counted by that wait; R177; reset 0 -/
  waitStrokes : Nat := 0
  /-- time at which that wait began, ns; R347; reset 0 -/
  waitSince : Nat := 0
  /-- TY_STALL has been recorded for that wait; R177; reset false -/
  stalled : Bool := false
  /-- logit gradient of the latest loss-kernel call, for each token, and feature gradients; R173, R178; reset empty -/
  grad : List (List HB16) := []
  /-- what that call hands to the backward pass: gradient of the hidden state for each token, and of the student's projection
  for each vocabulary entry; R173; reset empty -/
  gradHidden : List (List F32) := []
  gradProj : List (List F32) := []
  featGrad : List (List HB16) := []
  /-- strokes of the recent uncorrectable flit errors; R32; reset empty -/
  flitErrs : List Nat := []
  /-- strokes of the recent watchdog expiries; R32; reset empty -/
  wdogs : List Nat := []
  /-- strokes of the recent uncorrectable operand-cache errors; R32; reset empty -/
  opcErrs : List Nat := []
  /-- packets discarded at this rod, 32 bits saturating; R33, R39; reset DESIGN CHOICE 0 -/
  discards : Nat := 0
  /-- corrected deck errors counted for this rod's slice (0x6000 range); R145; reset DESIGN CHOICE 0 -/
  corrected : Nat := 0
  /-- corrected operand-cache and accumulator errors counted for this rod (0x6000 range); R89, R119; reset DESIGN CHOICE 0 -/
  correctedEngine : Nat := 0
  /-- rod ended its part of the running command; R37, R461; reset false -/
  ended : Bool := false
  deriving DecidableEq, Repr

/-- An outstanding mesh request or write (R27, R28). -/
structure MeshReq where
  id : Nat
  part : Nat
  src : Nat
  dst : Nat
  /-- rod cycle of issue -/
  issued : Nat
  writer : Writer
  /-- context whose command issued it; 8 = none, or that command has ended -/
  ctx : Nat
  /-- its data stand at the destination, and the acknowledgement is on its way on VC1 -/
  written : Bool
  /-- first address and bytes that it writes or reads: in the partition's upper-deck space, or physical for a packet of no
  partition -/
  addr : Nat := 0
  len : Nat := 0
  /-- injection is held (R38) -/
  held : Bool := false
  /-- the mesh has discarded or lost it, or its answer (R33) -/
  gone : Bool := false
  /-- edge group through whose attached rod it goes; 16 = none (R29) -/
  group : Nat := 16
  deriving DecidableEq, Repr

/-- The mesh (R22 to R38). -/
structure Mesh where
  /-- outstanding VC0 requests; R27; reset empty -/
  vc0 : List MeshReq := []
  /-- unacknowledged VC2 writes; R28; reset empty -/
  vc2 : List MeshReq := []
  /-- identifier of the next request; reset 0 (model's own) -/
  nextId : Nat := 0
  /-- route tables, next hop of router r to rod d at 576 r + d: 0 local, 1 east, 2 west, 3 north, 4 south; R25, R38; reset empty (x then y routing) -/
  tables : Tab Nat := []
  /-- tables computed for the epoch in preparation; R38; reset empty -/
  newTables : List (Nat × Nat) := []
  /-- rods whose full fence is in preparation; R38; reset empty -/
  fencing : List Nat := []
  /-- rods of the epoch whose tables are computed; R38; reset empty -/
  epochRods : List Nat := []
  /-- phase of the route epoch: 0 none, 1 computing, 2 drain, 3 load; R38; reset 0 -/
  phase : Nat := 0
  /-- rod cycle at which the computing, or the hold of injection, began; R38; reset 0 -/
  phaseAt : Nat := 0
  /-- acknowledgements of VC2 writes on their way on VC1, by number; R28; reset empty -/
  acks : List Nat := []
  /-- place in the rotation over the attached rods of edge group p, 0 to 5; R29; reset DESIGN CHOICE 0 -/
  edgeRot : Tab Nat := []
  /-- latest sending cycle delivered for a source, destination and channel; R25; reset empty -/
  order : Tab Nat := []
  deriving DecidableEq, Repr

/-- A stage descriptor in a stage queue (R141, R142). -/
structure Stage where
  id : Nat
  desc : BitVec 512
  /-- 0 queued, 1 in progress, 2 ended and waiting for earlier stages of its fence -/
  phase : Nat
  status : Nat
  /-- host command that submitted it: live command number -/
  cmd : Option Nat
  /-- the stage met a lost packet or an invalidated entry -/
  fail : Nat
  /-- context whose account its bytes go to (R351); 8 = none -/
  ctx : Nat
  deriving DecidableEq, Repr

/-- A part of a row of a stage that lies in one 4 KiB unit of the lower deck (R140). -/
structure StageUnit where
  part : Nat
  id : Nat
  row : Nat
  off : Nat
  len : Nat
  deriving DecidableEq, Repr

/-- The stager of an edge group (R140, R346). -/
structure Stager where
  /-- units of its packages that stages in progress have still to move, in queue order -/
  q : List StageUnit := []
  /-- partition whose turn it is, and units it may still move in it -/
  turn : Nat := 15
  left : Nat := 0
  deriving DecidableEq, Repr

/-- Upper and lower deck (R122 to R149). -/
structure Decks where
  /-- stagers of the 16 edge groups; R140, R346; reset idle, the first turn DESIGN CHOICE partition 0's -/
  stagers : Tab Stager := []
  /-- upper deck, physical address rod x 2^29 + offset; R122, R126; reset 0 (R131 zeroes it before compute-ready) -/
  ud : Mem := []
  /-- unreadable 32 B words of the upper deck; R147; reset none -/
  udBad : Tab Bool := []
  /-- lower deck, 40-bit physical address; R135; reset DESIGN CHOICE free bytes of key generation 0 -/
  ld : Mem := []
  /-- what an unwritten byte of an extent reads as: 0 = unknown under key generation ldBase, 1 = zero (zero-filled), k + 2 = unknown under key generation k; R138, R139; reset DESIGN CHOICE 0 -/
  ldFill : Tab Nat := []
  /-- number of keys drawn at the latest device or cold reset; R139; reset 0 (model's own) -/
  ldBase : Nat := 0
  /-- unreadable 64 B units of the lower deck; R147; reset none -/
  ldBad : Tab Bool := []
  /-- owner of each extent (DK_LD_OWNER), 8 bits; R149; reset 0xFF, extent 1,023 0x12 -/
  owner : Tab Nat := []
  /-- extents being zero-filled and the owner they pass to; R138; reset empty -/
  filling : List (Nat × Nat) := []
  /-- key generation of each owner 0x00 to 0x12; R139; reset 0 -/
  keyGen : Tab Nat := []
  /-- number of keys drawn so far; R139; reset 0 (model's own) -/
  keysDrawn : Nat := 0
  /-- place of each slice in its four-cycle grant pattern; R124; reset DESIGN CHOICE 0 -/
  rot : Tab Nat := []
  /-- strokes of corrected reads of a row, row at 2^32 x slice + row; R145; reset empty -/
  rowErrs : Tab (List Nat) := []
  /-- rows being copied to a spare row; R145; reset none -/
  rowCopy : Tab Bool := []
  /-- time at which a row copy began, ns -/
  rowCopyAt : Tab Nat := []
  /-- spare rows used by each slice, whose count left is DK_SPARE_LEFT; R145, R149; reset 0 -/
  spareUsed : Tab Nat := []
  /-- slices whose DK_SPARES_OUT record has been written; R145; reset none -/
  sparesOut : Tab Bool := []
  /-- slices being zeroed and the time zeroing began, ns + 1; R131; reset none -/
  zeroing : Tab Nat := []
  /-- package states DK_PKG_STATE, 8 bits; R149; reset DESIGN CHOICE 0 in service -/
  pkg : Tab Nat := []
  /-- strokes of recent failures of a package; R146; reset empty -/
  pkgErrs : Tab (List Nat) := []
  /-- latest grant of a slice: rod, requester (0 deck port, 1 mesh, 2 reckoner) and data returned; R124; reset none (model's own port) -/
  granted : Option (Nat × Nat × List Byte) := none
  /-- corrected lower-deck units counted (0x6000 range); R146; reset DESIGN CHOICE 0 -/
  ldCorrected : Nat := 0
  /-- transfers corrected by the lower deck's link ECC; R146; reset DESIGN CHOICE 0 -/
  ldLink : Nat := 0
  deriving DecidableEq, Repr

/-- A host command in flight (R390, R393). -/
structure Cmd where
  fn : Nat
  q : Nat
  /-- completion queue bound when the command was accepted -/
  cq : Nat
  hdr : BitVec 1024
  part : Nat
  /-- first status raised (R461); 0 = none -/
  status : Nat
  /-- rod clock cycle in which it was raised, + 1, and the rod, 576 = none (R461) -/
  failAt : Nat := 0
  failRod : Nat := 576
  nsw : BitVec 16
  debit : Nat
  result : Nat
  /-- completion suppressed by a function-level reset (R400) -/
  mute : Bool
  deriving DecidableEq, Repr

/-- What one rod clock cycle has done to a tensor-scale slot (R66, R67): what it was before, the conversions recorded by
submission number, the host writes, and the conversions kept out by a tensor update in progress. -/
structure SlotCycle where
  slot : Nat
  cycle : Nat
  before : BitVec 1024
  after : BitVec 1024
  recs : List (Nat × ConvAcc) := []
  writes : List (BitVec 1024) := []
  missed : List (Nat × ConvAcc) := []
  deriving DecidableEq, Repr

/-- A context's running or switched-out RUN command (R339, R344). -/
structure RunCmd where
  cmd : Cmd
  /-- submission number (R67; model's own) -/
  sub : Nat
  /-- rods the program names -/
  rods : List Nat
  /-- the partition's slots as they stood when the command started (R66, R208) -/
  slots : Tab (BitVec 1024)
  /-- slots the command has read (R208) -/
  slotRead : List Nat
  /-- slots its conversions name, with what all its rods have measured so far: running max and counters (R66) -/
  convs : List (Nat × ConvAcc)
  /-- tally sequence numbers reserved and not published (R168) -/
  reserved : List Nat
  /-- holds placed and not released (R168) -/
  holds : List Nat
  /-- an END_OF_STEP record has been published (R170) -/
  ended : Bool
  /-- layer-path buckets pushed, read when the command completes (R248) -/
  layer : List Nat
  /-- step phase mark: 0 none, 1 FORWARD, 2 BACKWARD (R214) -/
  mark : Nat
  /-- time at which it was dispatched or restored last, ns, and time it ran before that (R214, R351) -/
  began : Nat
  ran : Nat
  /-- steps of which it has published records (R214) -/
  pubSteps : List Nat
  deriving DecidableEq, Repr

/-- An exact non-negative fraction (the fraction of V_c that R344 keeps). -/
structure Frac where
  n : Nat := 0
  d : Nat := 1
  deriving DecidableEq, Repr

/-- One context (R342 to R351). -/
structure Ctx where
  /-- its running or switched-out command; R344; reset none -/
  run : Option RunCmd := none
  /-- virtual time V_c, exact; R344; reset 0 -/
  vtime : Frac := {}
  /-- enabled, whatever the ledger says (its code is then IDLE, READY, RESIDENT or SWITCHED_OUT); R342; reset false -/
  enabled : Bool := false
  /-- a YIELD (1), or an EVICT to be applied after the switch that brings it in (2), is pending; R343, R350; reset 0 -/
  yieldReq : Nat := 0
  /-- a DISABLE waits for the command to end; R343; reset false -/
  disabling : Bool := false
  /-- time since which it holds the rods, ns + 1; 0 = it does not; R344; reset 0 -/
  holdFrom : Nat := 0
  /-- READY or RESIDENT at the latest test; R342, R344; reset false -/
  ready : Bool := false
  /-- share W_c in force; R344, R353; reset 1 (PT_CTX_SHARE) -/
  share : Nat := 1
  /-- rods' unstarted descriptors and program state saved with its command; R349; reset empty -/
  savedRods : List (Nat × Rod) := []
  /-- next queue of its round-robin, 0 to 7; R342; reset DESIGN CHOICE 0 -/
  turn : Nat := 0
  /-- eight counters of PT_CTX_ACCOUNT, 64 bits saturating; R351; reset 0 -/
  account : Tab Nat := []
  deriving DecidableEq, Repr

/-- A hard switch in progress (R348): outgoing and incoming context, 8 for none. -/
structure Switch where
  out : Nat
  inn : Nat
  /-- time of the trigger, ns -/
  at_ : Nat
  /-- steps 3 and 4 have been carried out -/
  saved : Bool
  deriving DecidableEq, Repr

/-- One partition's own machinery (R333 to R353); its dictionary objects are in objs. -/
structure Part where
  /-- slice table, 576 x 16 bits; R128; reset 0 -/
  slices : Tab (BitVec 16) := []
  /-- extent table, 1,024 x 16 bits; R136; reset 0 -/
  extents : Tab (BitVec 16) := []
  /-- tensor-scale slots, 4,096 x 1,024 bits; R65; reset slotReset -/
  slots : Tab (BitVec 1024) := []
  /-- what the present cycle has done to slots (R66, R67; model's own); reset empty -/
  slotLog : List SlotCycle := []
  /-- stage queue of 256; R142; reset empty -/
  stageQ : List Stage := []
  /-- stage fence counters, 64 x 32 bits; R142; reset 0 -/
  fences : Tab Nat := []
  /-- stage fence status bytes, 64 x 8 bits; R142; reset 0 -/
  fenceSt : Tab Nat := []
  /-- shut-down in progress: 0 none, 1 REMOVE, 2 DESTROY, and 3, 4 while their frames are zeroed; R338; reset 0 -/
  quiesce : Nat := 0
  /-- frames being removed; R338; reset 0 -/
  removing : BitVec 64 := 0
  /-- frames of ADDs in progress: mask and start time, ns; R474; reset empty -/
  adds : List (BitVec 64 × Nat) := []
  /-- time at which zeroing or a reset began, ns; R337, R471; reset 0 -/
  zeroAt : Nat := 0
  /-- phase of a partition reset: 0 none, 1 accepted, 2 keys drawn; R471; reset 0 -/
  reset : Nat := 0
  /-- hard switch in progress; R348; reset none -/
  switch : Option Switch := none
  /-- time at which the resident context's slice began, ns; R344; reset 0 -/
  sliceAt : Nat := 0
  /-- time at which it expired with another context chosen, ns + 1; R345; reset 0 -/
  graceAt : Nat := 0
  /-- PT_SLICE_US, PT_YIELD_GRACE_US, PT_WAIT_SWITCH_US and PT_II_WINDOW in force; R353; reset as the objects -/
  sliceUs : Nat := 1000
  graceUs : Nat := 500
  iiWindow : Nat := 1000
  /-- the outgoing context's command ended at this time, ns + 1 (soft yield); R347; reset 0 -/
  yieldFrom : Nat := 0
  /-- context whose command ended then; R347, R351; reset 0 -/
  yieldBy : Nat := 0
  /-- context passed over until the next dispatch, as a YIELD asks, 8 = none; R343; reset 8 -/
  passed : Nat := 8
  /-- rod clock cycles of the interference window with a context RESIDENT, up to a cycle; R352; reset 0 -/
  iiRes : Nat := 0
  iiMark : Nat := 0
  /-- next interference window begins at this stroke; R352; reset 0 -/
  iiFrom : Nat := 0
  /-- dispatch held by a rebalancing move; R182; reset false -/
  held : Bool := false
  deriving DecidableEq, Repr

/-- What one pass adds to the sums A and B of its layer (R212): terms in element order. -/
structure UwPart where
  run : Nat
  step : Nat
  layer : Nat
  slot : Nat
  base : Nat
  terms : List (F32 × F32)
  deriving DecidableEq, Repr

/-- Student numerics of one partition (R193 to R216); its dictionary objects are in objs. -/
structure Num where
  /-- latest step whose L is fixed; R196; reset 0 -/
  fixedStep : Nat := 0
  /-- loss scales fixed so far, L(s) at s; R196; reset empty -/
  scales : Tab F32 := []
  /-- floor count; R201; reset 0 -/
  floorCount : Nat := 0
  /-- S0, first step of the guard window; R206; reset 0 -/
  s0 : Nat := 0
  /-- a restore has set S0's next START_RUN as a resumption; R206, R271; reset false -/
  firstStep : Bool := false
  /-- accumulated FWD, BWD, CARRY and UPDATE times of the step, ns; R214; reset 0 -/
  fwd : Nat := 0
  bwd : Nat := 0
  carry : Nat := 0
  update : Nat := 0
  /-- FWD, BWD and CARRY times since the verdict, which count where the step is skipped; R214; reset 0 -/
  lateFwd : Nat := 0
  lateBwd : Nat := 0
  lateCarry : Nat := 0
  /-- runs begun, which tells the steps of one run from another's (model's own); R195; reset 0 -/
  runs : Nat := 0
  /-- time without a running command since the latest bucket submission of the step, ns; R214; reset 0 -/
  carryIdle : Nat := 0
  /-- TEACHER times, step at s, ns; R214; reset 0 -/
  teacher : Tab Nat := []
  /-- start of the step: ns and stroke; R214, R215; reset 0 -/
  stepNs : Nat := 0
  stepStroke : Nat := 0
  /-- a holdover stroke fell in the step; R215; reset false -/
  holdover : Bool := false
  /-- time of the verdict of the step whose update phase runs, ns + 1; 0 = not known; R214; reset 0 -/
  verdictNs : Nat := 0
  /-- time from which the current phase is accounted, ns; R214; reset 0 -/
  acctNs : Nat := 0
  /-- steps not yet ended of which a bucket has been submitted; R214; reset empty -/
  pushed : List Nat := []
  /-- phase records PHASE_RING, 256 x 512 bits; R215; reset 0 -/
  ring : Tab (BitVec 512) := []
  /-- UW_TABLE, 4,096 F32; R212; reset 0 -/
  uw : Tab F32 := []
  /-- terms of the sums A and B of passes of steps whose update phase has not ended; R212; reset empty -/
  uwParts : List UwPart := []
  deriving DecidableEq, Repr

/-- One queued or running update pass (R218, R221). -/
structure Pass where
  id : Nat
  part : Nat
  desc : BitVec 512
  /-- run of its push, and its step in full (the descriptor has 48 bits of it) -/
  run : Nat
  step : Nat
  cmd : Option Nat
  /-- stack (reckoner) that runs it -/
  reck : Nat
  /-- 0 queued, 1 running, 2 last part of its tensor update, finishing -/
  phase : Nat
  /-- pushed after its step's END_OF_STEP pass (R222) -/
  late : Bool
  /-- status found while it ran (R238) -/
  status : Nat := 0
  /-- its numeric status word (R64, R393) -/
  nsw : Nsw := 0
  /-- physical address of the unreadable word that ended it (R147) -/
  addr : Nat := 0
  deriving DecidableEq, Repr

/-- A tensor update in progress (R223). -/
structure TensorUpd where
  part : Nat
  run : Nat
  slot : Nat
  ws : Nat
  group : Nat
  parts : Nat
  step : Nat
  /-- submission number of its first pass (R67) -/
  sub : Nat
  /-- TS_N, and the word as it stood before the first part -/
  tsn : F32
  tsw : F32
  /-- parts completed -/
  done : Nat := 0
  /-- SLOT_INVALID or SCALE_INVALID that a part met: no part writes from then on (R238); 0 none -/
  fail : Nat := 0
  /-- measurements of the new weights (R66, R199) -/
  acc : ConvAcc := {}
  /-- host slot write held until the end (R223) -/
  held : Option (BitVec 1024) := none
  deriving DecidableEq, Repr

/-- A known verdict (R221): step, applied, its L and the run's seed. -/
structure Verdict where
  part : Nat
  run : Nat
  step : Nat
  applied : Bool
  l : F32
  seed : Nat
  deriving DecidableEq, Repr

/-- What the schedule engine computed for a group in a step (R227). -/
structure Sched where
  part : Nat
  run : Nat
  step : Nat
  group : Nat
  t : Nat
  lr : F32
  c1 : F32
  c2 : F32
  deriving DecidableEq, Repr

/-- What the passes of a step have raised so far (R238, R240). -/
structure StepAcc where
  part : Nat
  run : Nat
  step : Nat
  nsw : BitVec 16
  damaged : Bool
  deriving DecidableEq, Repr

/-- A root job (R231 to R235). -/
structure RootJob where
  part : Nat
  fb : Nat
  group : Nat
  layer : Nat
  wid : Nat
  trigger : Nat
  install : Nat
  running : Bool
  /-- run of the trigger; DAMP and the two factors as the trigger's blend left them (R235) -/
  run : Nat
  damp : F32
  facL : Tab F32
  facR : Tab F32
  deriving DecidableEq, Repr

/-- Roots waiting for their installation step (R232, R233). -/
structure RootInst where
  part : Nat
  run : Nat
  fb : Nat
  install : Nat
  damp : F32
  deriving DecidableEq, Repr

/-- An installation that passes of earlier steps must not see (R233): what was in force before it. -/
structure Installed where
  part : Nat
  run : Nat
  fb : Nat
  install : Nat
  valid : Bool
  active : Nat
  deriving DecidableEq, Repr

/-- A pass with END_OF_STEP = 1 (R222). -/
structure EosPass where
  part : Nat
  run : Nat
  step : Nat
  id : Nat
  deriving DecidableEq, Repr

/-- The reckoner's state of one partition and the sixteen reckoners (R217 to R240). -/
structure Reck where
  /-- update queues of all partitions in push order, 4,096 passes each; R220; reset empty -/
  q : List Pass := []
  /-- number of the next submission of a pass or a RUN, and a pass's identifier (R67; model's own); reset 0 -/
  nextId : Nat := 0
  /-- tensor updates in progress; R223; reset empty -/
  tensors : List TensorUpd := []
  /-- root jobs of reckoner d in order; R235; reset empty -/
  roots : Tab (List RootJob) := []
  /-- roots ready and not yet installed; R232; reset empty -/
  ready : List RootInst := []
  /-- parameter groups RK_GROUPS, entry k of partition p at 256 p + k, 512 bits; R226; reset groupReset -/
  groups : Tab (BitVec 512) := []
  /-- group writes held until the update phase ends, as groups, and whether a held write changes T; R226; reset empty -/
  heldGroups : List (Nat × Bool × BitVec 512) := []
  /-- lr, c1 and c2 of the groups of steps whose update phase has not ended; R227; reset empty -/
  sched : List Sched := []
  /-- known verdicts of steps whose update phase has not ended; R221; reset empty -/
  verdicts : List Verdict := []
  /-- steps whose update phase ended last, + 1, of each partition; R221; reset 0 -/
  ended : Tab Nat := []
  /-- END_OF_STEP passes pushed, of steps whose update phase has not ended; R222; reset empty -/
  eos : List EosPass := []
  /-- installations that earlier steps do not see; R233; reset empty -/
  installed : List Installed := []
  /-- status words and damage of steps whose update phase has not ended; R238, R240; reset empty -/
  accs : List StepAcc := []
  deriving DecidableEq, Repr

/-- What the encodings of a segment on this member raised: carry status word, clip and vanish counts (R253, R258). -/
structure SegNote where
  status : BitVec 16 := 0
  clips : Nat := 0
  vanish : Nat := 0
  deriving DecidableEq, Repr

/-- One entry of the bucket table (R246). -/
structure Bucket where
  id : Nat
  part : Nat
  g : Nat
  desc : BitVec 512
  /-- live host command number, if a CARRY opened it -/
  cmd : Option Nat := none
  /-- layer path: the source may be read (R248) -/
  ready : Bool := false
  /-- own contribution complete at this stroke, + 1 (R263) -/
  ownAt : Nat := 0
  /-- own contribution: encoded segments (R247, R248, R262); none of them in a group of one -/
  own : List SegUnit := []
  /-- segments contributed, in a group of any size (R247, R249) -/
  given : List Nat := []
  /-- segments contributed by poisoning, and whether the bucket was poisoned (R262) -/
  poison : List Nat := []
  poisoned : Bool := false
  /-- units of children that have landed (R255) -/
  landed : List SegUnit := []
  /-- segments combined (R255) -/
  combined : List Nat := []
  /-- final sums formed or received (R255) -/
  finals : List SegUnit := []
  /-- headers landed from children and from parents, by sender (R257) -/
  upHdrs : List (Nat × BitVec 512) := []
  downHdrs : List (Nat × BitVec 512) := []
  /-- ranks to which the own header has been sent, up and down (R257) -/
  sentUp : List Nat := []
  sentDown : List Nat := []
  /-- carry status word of what belongs to no segment (R258) -/
  status : BitVec 16 := 0
  /-- notes of each segment; reset none -/
  notes : Tab SegNote := []
  /-- agreed scales read at the push (R251), 1.0 where none is listed -/
  ts : Tab F32 := []
  /-- ranks whose chunk has landed, and the bytes that have come of those which have not (R266, R267) -/
  chunks : List Nat := []
  coming : Tab (List Byte) := []
  /-- everything has landed and the scale store has been written (R251) -/
  stored : Bool := false
  /-- numeric status word of its conversions on this member (R64) -/
  nsw : BitVec 16 := 0
  /-- the verdict of its step is known (R262) -/
  judged : Bool := false
  deriving DecidableEq, Repr

/-- A tile handed to a carry unit by a read-out (R85, R247). -/
structure Tile where
  part : Nat
  rod : Nat
  tag : Nat
  index : Nat
  m : Nat
  n : Nat
  data : List F32
  bsw : BitVec 16
  deriving DecidableEq, Repr

/-- A pushed CLOSE_STEP (R259, R261): its step, host command, and its result once it is done in a group other than the
verdict group. -/
structure Close where
  step : Nat
  cmd : Option Nat := none
  res : Option (BitVec 16) := none
  deriving DecidableEq, Repr

/-- A verdict exchange (R259): step, stroke at which this member started it, + 1, its own status and count, what the children
sent (rank, status, least and greatest count), and whether it has sent its own up. -/
structure Exch where
  step : Nat
  at_ : Nat := 0
  word : BitVec 16 := 0
  count : Nat := 0
  kids : List (Nat × BitVec 16 × Nat × Nat) := []
  up : Bool := false
  deriving DecidableEq, Repr

/-- A child's handshake message (R243): rank, digest, largest epoch, mismatch bit. -/
structure Hello where
  child : Nat
  digest : BitVec 256
  epoch : Nat
  mismatch : Bool
  deriving DecidableEq, Repr

/-- A reduction group's machinery (R242, R243, R259, R261). -/
structure Group where
  /-- children heard from in the handshake; R243; reset empty -/
  heard : List Hello := []
  /-- this member has sent its own message up; R243; reset false -/
  helloUp : Bool := false
  /-- stroke of FORM; R243; reset 0 -/
  formAt : Nat := 0
  /-- CLOSE_STEPs pushed whose step has no verdict; R259, R261; reset empty -/
  closes : List Close := []
  /-- verdict exchanges of steps without a verdict; R259; reset empty -/
  exchs : List Exch := []
  /-- OR of the final status words of the buckets of a step, and the number of buckets pushed for it, step at s; R259; reset empty -/
  stepOr : Tab (BitVec 16) := []
  stepCount : Tab Nat := []
  deriving DecidableEq, Repr

/-- A unit, header or handshake message sent towards another rank's part, or mirror traffic (R250, R257, R243, R269, R272). -/
inductive CarryMsg where
  | unit (part g dest : Nat) (u : SegUnit)
  | header (part g dest : Nat) (hdr : BitVec 512)
  | handshake (part g dest epoch : Nat) (digest : BitVec 256) (mismatch : Bool)
  | result (part g dest epoch : Nat) (matched : Bool)
  | chunk (part g dest tag parity epoch : Nat) (data : List Byte)
  | mirror (part node allot : Nat) (image : MirrorImage) (digest : BitVec 256)
  | mirrorOut (node part : Nat) (bytes : List Byte)
  | exported (node part addr : Nat) (bytes : List Byte)
  | committed (node part step : Nat)
  | restoreReq (part node allot : Nat)
  | exportReq (part node allot : Nat) (target : List Byte)
  deriving DecidableEq, Repr

/-- A mirror client's machinery (R269, R271). -/
structure Mirror where
  /-- scheduled copies enabled; R269; reset false -/
  on : Bool := false
  /-- copy in progress: step and the stroke at its capture; R269; reset none -/
  copy : Option (Nat × Nat) := none
  /-- captured step header; R269; reset empty -/
  hdr : List Byte := []
  /-- RESTORE in progress; R271; reset false -/
  restoring : Bool := false
  /-- bytes of the latest mirror that have come from its host; R271; reset empty -/
  inbox : List Byte := []
  deriving DecidableEq, Repr

/-- Bytes of a copy in a mirror buffer, on their way to a generation of an allotment (R268). -/
structure MirrorPiece where
  allot : Nat
  gen : Nat
  off : Nat
  data : List Byte
  deriving DecidableEq, Repr

/-- An allotment of the mirror host (R268, R270). -/
structure Allot where
  /-- mirror headers of generations 0 and 1, 512 bits each; R270; reset 0 -/
  hdrs : Tab (BitVec 512) := []
  /-- copy in course of reception: its FLOW, its generation, the bytes that have come; R268, R269; reset none -/
  coming : Option (Nat × Nat × Nat) := none
  /-- lower-deck extents of the allotment, in order; R135, R268; reset empty -/
  exts : List Nat := []
  deriving DecidableEq, Repr

/-- The carry units (R241 to R274). -/
structure CarryS where
  /-- bucket table of 256 entries; R246; reset empty -/
  buckets : List Bucket := []
  nextId : Nat := 0
  /-- tiles handed over and not yet encoded; R247; reset empty -/
  tiles : List Tile := []
  /-- group g of partition p at 4 p + g; R243; reset idle -/
  groups : Tab Group := []
  /-- messages sent, oldest first (R250, R257) -/
  sent : List CarryMsg := []
  /-- verdict of partition p known for step, + 1; R260; reset 0 -/
  lastStep : Tab Nat := []
  /-- mirror clients; R274; reset off -/
  mirrors : Tab Mirror := []
  /-- allotments of the mirror host; R274; reset empty -/
  allots : Tab Allot := []
  /-- mirror buffers of 1 MiB in the controller areas of stacks 1 to 15: what waits in them for the stagers; R268; reset empty -/
  mirrorBuf : Tab (List MirrorPiece) := []
  /-- steps above the latest verdict's whose verdict is known, of each partition; R261; reset empty -/
  known : Tab (List Nat) := []
  deriving DecidableEq, Repr
/-- One tally record (R159 to R169). -/
structure Record where
  seq : Nat
  /-- 0 reserved, 1 every part contributed and its header waits for the callers' writes, 2 published -/
  phase : Nat := 0
  /-- PUBLISH calls made, and the first of them, whose parts and fields the others repeat -/
  calls : Nat := 0
  fields : Option PublishCall := none
  /-- calling rods, each with its place in program order at its call (R164) -/
  callers : List (Nat × Nat) := []
  /-- student indices that name another student than the call's MASK meant, or one attached for later steps only (R180) -/
  gone : List Nat := []
  /-- a write that a caller issued before its call was lost or dropped: the slot becomes VOID (R164, R168) -/
  lost : Bool := false
  nsw : BitVec 16 := 0
  /-- TY_TEMP and TY_WEIGHT in force when it was published (R153) -/
  temp : F32 := 0x3F800000
  weight : F32 := 0x3F800000
  isVoid : Bool := false
  /-- student indices of the header's MASK (R162) -/
  pubMask : List Nat := []
  /-- those that must still release it (R166) -/
  mask : List Nat := []
  /-- students that hold it now -/
  holds : List Nat := []
  /-- RELEASE calls made for it by each student: count and parts -/
  rel : Tab (Nat × Nat) := []
  deriving DecidableEq, Repr

/-- A rebalancing move (R182). -/
structure Move where
  toStudent : Bool
  frame : Nat
  student : Nat
  /-- END_OF_STEP seq at which it drains; stroke of DRAINING -/
  eos : Nat
  strokeB : Nat
  /-- time MOVING began, ns -/
  movingAt : Nat
  deriving DecidableEq, Repr

/-- A pairing's machinery (R151 to R185); its dictionary objects are in objs. -/
structure Pairing where
  /-- student partition of each student index, + 1; R151; reset 0 -/
  students : Tab Nat := []
  /-- next sequence number to reserve, 32 bits; R159; reset 0 -/
  nextSeq : Nat := 0
  /-- records reserved or published and not fully released; R166; reset empty -/
  recs : List Record := []
  /-- seqs each student has released, skipped or seen as VOID, student at index; R169; reset empty -/
  seen : Tab (List Nat) := []
  /-- pending or running move; R182; reset none -/
  move : Option Move := none
  /-- pending ATTACH, partition + 1; R157; reset 0 -/
  attach : Nat := 0
  /-- CLOSE held during MOVING; R157; reset false -/
  closeHeld : Bool := false
  /-- effects of R180 and R181 held during MOVING: partitions; R183, R456 kind 0x07; reset empty -/
  lostHeld : List Nat := []
  /-- TY_TEMP, TY_WEIGHT, TY_LOGP_FLOOR in force; R153; reset as the objects' defaults -/
  temp : F32 := 0x3F800000
  weight : F32 := 0x3F800000
  floor : F32 := 0xC2000000
  /-- KL and feature sums of the records of the running step: student, seq, sums, in ascending seq; R176; reset empty -/
  contrib : List (Nat × Nat × F32 × F32) := []
  /-- TY_LOSS, eight F32; R176; reset 0 -/
  loss : Tab F32 := []
  /-- times waited in the step: W_T at 4, W_S at 0 to 3, ns; R185; reset 0 -/
  waitNs : Tab Nat := []
  /-- since when one of the bound context's rods waits, ns + 1, same places; R185; reset 0 -/
  waitFrom : Tab Nat := []
  /-- TY_STEP_STATS: W_T, four W_S, D, four I; R185; reset 0 -/
  stats : Tab Nat := []
  /-- time of the latest END_OF_STEP publication, ns; R185; reset 0 -/
  eosAt : Nat := 0
  /-- I of the latest steps of each student since forming, joining or the last move, newest first; R185; reset empty -/
  imb : Tab (List F32) := []
  /-- local slice numbers granted to student i: TY_GRANT_MAP, entry k at 32 i + k; R158; reset 0xFFFF -/
  grants : Tab Nat := []
  deriving DecidableEq, Repr

/-- Harvest buffer of a teacher partition (R186 to R190). -/
structure Harvest where
  /-- records captured and not yet copied: buffer offset; R188; reset empty -/
  buf : List Nat := []
  /-- next free offset in the buffer; R188; reset 0 -/
  tail : Nat := 0
  /-- capture has ceased under STOP; R189; reset false -/
  stopped : Bool := false
  deriving DecidableEq, Repr

/-- A message queued for sending on a link: hop class, flits left to send, whether any was sent (R282, R296). -/
structure QMsg where
  /-- flits of it that have been sent -/
  sent : Nat
  hdr : BitVec 256
  data : List Byte
  /-- transit class at whose head it stays until its last flit is sent, + 1; 0 = a message of the part's own (R284) -/
  via : Nat
  deriving DecidableEq, Repr

/-- A flit kept in the retry buffer until it is acknowledged (R281), its header fields and clear payload, and the flow of its
message, + 1; 0 = a CONTROL flit (R295). -/
structure Sent where
  seq : Nat
  kind : Nat
  hops : Nat
  msg : Nat
  len : Nat
  first : Bool
  last : Bool
  body : List Byte
  flow : Nat
  deriving DecidableEq, Repr

/-- A message in course of reception (R283): MSG, the payload bytes so far, its flits in the receive buffer. -/
structure RxPart where
  msg : Nat
  bytes : List Byte
  flits : Nat
  deriving DecidableEq, Repr

/-- A message received whole (R283), and the flits of it that are in the receive buffer. -/
structure RxMsg where
  cls : Nat
  hdr : BitVec 256
  data : List Byte
  flits : Nat
  deriving DecidableEq, Repr

/-- Optical link (R285 to R298); its dictionary objects are in objs. -/
structure Link where
  /-- lanes lit; R286; reset false -/
  light : Bool := false
  /-- disabled; R285, R293; reset false -/
  disabled : Bool := false
  /-- DISABLE in progress: time, ns + 1; R456; reset 0 -/
  downAt : Nat := 0
  /-- time the state was entered, ns, and stroke; R286; reset 0 -/
  since : Nat := 0
  sinceStroke : Nat := 0
  /-- retry hold ends at this time, ns; R286; reset 0 -/
  hold : Nat := 0
  /-- consecutive training failures and authentication timeouts; R286; reset 0 -/
  trainFails : Nat := 0
  authTimeouts : Nat := 0
  /-- authentication step reached: 0 none, 1 HELLO, 2 CERT, 3 PROOF, 4 CONFIRM; R287; reset 0 -/
  authStep : Nat := 0
  /-- it has its turn among the eight authentications; time its turn began, ns + 1; R286; reset 0 -/
  turnAt : Nat := 0
  /-- HELLO: partner node, fabric, encryption of either end, nonce; R287; reset 0 -/
  node : Nat := 0
  fabric : Nat := 0
  peerEnc : Bool := false
  nonce : BitVec 256 := 0
  /-- own nonce and share, the HELLO sent and received, the partner's chain and share; R287; reset 0 and empty -/
  ownNonce : BitVec 256 := 0
  ownShare : BitVec 256 := 0
  ownHello : List Byte := []
  peerHello : List Byte := []
  peerChain : List Byte := []
  peerShare : List Byte := []
  /-- link keys of the sending and the receiving direction, the epoch of the latter, and whether flits of the direction are under
  them: from the CONFIRM of that direction; R287, R288; reset empty, 0, false -/
  txKey : List Byte := []
  rxKey : List Byte := []
  rxEpoch : Nat := 0
  txKeyed : Bool := false
  rxKeyed : Bool := false
  /-- flit slots since CONFIRM: next slot to send in, next slot to receive; R288; reset 0 -/
  txSlot : Nat := 0
  rxSlot : Nat := 0
  /-- lanes and rate reached in training; R286; reset 0 -/
  lanes : Nat := 0
  /-- lanes to which it has been narrowed, 0 = full split width; R290; reset 0 -/
  narrow : Nat := 0
  /-- next SEQ to send, next SEQ expected, oldest unacknowledged SEQ; R281; reset 0 -/
  txSeq : Nat := 0
  rxSeq : Nat := 0
  txAck : Nat := 0
  /-- retry buffer: the flits kept until acknowledged; R281; reset empty -/
  retry : List Sent := []
  /-- a RETRY_REQ has arrived: the SEQ it names; R281; reset none -/
  asked : Option Nat := none
  /-- dropping every flit up to the retransmission; R281; reset false -/
  dropping : Bool := false
  /-- DATA credits held for hop class h, CONTROL credits at 0; R282; reset 0 -/
  credits : Tab Nat := []
  /-- receive buffer flits used by the partner per class; R282; reset 0 -/
  rxUsed : Tab Nat := []
  /-- time of the latest ACK progress and of the latest flit sent, ns; R281, R290; reset 0 -/
  ackAt : Nat := 0
  sentAt : Nat := 0
  /-- time since which queued DATA of a hop class waits without credit, ns + 1, and the classes whose episode has been counted;
  R290; reset 0 and empty -/
  stallAt : Tab Nat := []
  stallHit : List Nat := []
  /-- messages queued for sending, by hop class, CONTROL at 0; R282, R283; reset empty -/
  queue : Tab (List QMsg) := []
  /-- MSG of the next message of a class; R280; reset 0 -/
  txMsg : Tab Nat := []
  /-- events of each counter in the window: strokes; R290; reset empty -/
  window : Tab (List Nat) := []
  /-- lifetime totals of each counter at its cause code, ACK at 10, hop-expired at 11 and no-route at 12, 64 bits; R290, R298; reset 0 -/
  totals : Tab Nat := []
  /-- stroke at which a threshold was last reached; R291; reset 0 -/
  lastHit : Nat := 0
  /-- hold of a quarantine ends at this stroke; R292; reset 0 -/
  quarEnd : Nat := 0
  /-- doubling count kept by the link when the node is unknown; R292; reset 0 -/
  doubling : Nat := 0
  /-- time of CONFIRM, from which the flit slots are counted, ns; R288; reset 0 -/
  confirmAt : Nat := 0
  /-- DATA credits returned at no more than OP_RATE_LIMIT; R291; reset false -/
  limited : Bool := false
  /-- flits per class that left the receive buffer and whose credits have not gone back, and the time, ns, up to which the limited
  rate has been spent; R282, R291; reset empty and 0 -/
  owed : Tab Nat := []
  paidAt : Nat := 0
  /-- payload encrypted, ENC = 1; R288; reset false -/
  enc : Bool := false
  /-- messages in course of reception by class, and messages received whole, oldest first; R283; reset empty -/
  rxPart : Tab (Option RxPart) := []
  inbox : List RxMsg := []
  deriving DecidableEq, Repr

/-- A next hop of a route (R294): link, cost, hop count, stroke of the latest advertisement; none for a link's own partner. -/
structure Via where
  link : Nat
  cost : Nat
  hops : Nat
  seen : Option Nat
  deriving DecidableEq, Repr

/-- A route table entry (R294). -/
structure Route where
  node : Nat
  vias : List Via
  deriving DecidableEq, Repr

/-- A message held in a transit buffer (R284). -/
structure Transit where
  inLink : Nat
  flits : Nat
  /-- it is in the buffer, its credit returned to the incoming link; false while the class is full -/
  inside : Bool
  hdr : BitVec 256
  data : List Byte
  /-- 0 waiting, 1 crossing the mesh, 2 handed to its link -/
  stage : Nat := 0
  deriving DecidableEq, Repr

/-- A DATA message that is being written into the upper deck over an edge group (R28, R283), and its packets not yet acknowledged. -/
structure Landing where
  id : Nat
  link : Nat
  hdr : BitVec 256
  data : List Byte
  left : Nat
  deriving DecidableEq, Repr

/-- A flow whose route changed (R295). -/
structure Flow where
  key : Nat
  oldLink : Nat
  heldAt : Nat
  /-- hop class and message of those held -/
  held : List (Nat × QMsg)
  deriving DecidableEq, Repr

/-- What a link sends (outputs): a flit of 256 B, or darkness. -/
inductive LinkOut where
  | flit (l : Nat) (bytes : List Byte)
  | dark (l : Nat)
  deriving DecidableEq, Repr

/-- The optical ports (R275 to R298). -/
structure Optical where
  /-- link l = 4 port + k; R285; reset absent -/
  links : Tab Link := []
  /-- port split in force; R276; reset 0 -/
  split : Tab Nat := []
  /-- route table of 16,384 destinations; R294; reset empty -/
  routes : List Route := []
  /-- stroke of the latest OP_ROUTE_FULL record, + 1; R294; reset 0 -/
  fullAt : Nat := 0
  /-- stroke of the latest advertisement; R294; reset 0 -/
  advAt : Nat := 0
  /-- the table changed since; R294; reset false -/
  changed : Bool := false
  /-- destinations to be advertised as withdrawn; R294; reset empty -/
  withdrawn : List Nat := []
  /-- the deny and allow lists were changed: partners are tested again in the next stroke; R279; reset false -/
  retest : Bool := false
  /-- quarantine doubling count of a node identifier; R292; reset 0 -/
  doubling : Tab Nat := []
  /-- stroke since which a node has been ACTIVE, + 1; R292; reset 0 -/
  activeAt : Tab Nat := []
  /-- transit buffers of port p, hop class h at 8 p + h; R284; reset empty -/
  transit : Tab (List Transit) := []
  /-- flows held after a route change; R295; reset empty -/
  flows : List Flow := []
  /-- last link chosen by a flow; R295; reset empty -/
  flowLink : Tab Nat := []
  /-- messages being written into the upper deck, and the number of the next; R283; reset empty and 0 (model's own) -/
  landing : List Landing := []
  nextLand : Nat := 0
  /-- flits sent, oldest first (outputs) -/
  out : List LinkOut := []
  deriving DecidableEq, Repr

/-- A request entry (R303), field by field. -/
structure Req where
  hostTag : Nat := 0
  seed : BitVec 64 := 0
  deadline : Nat := 0
  tokenAddr : Nat := 0
  stopEn : Bool := false
  stopToken : Nat := 0
  topP : Nat := 0
  temp : HB16 := 0
  topK : Nat := 0
  maxNew : Nat := 0
  promptLen : Nat := 0
  length : Nat := 0
  generated : Nat := 0
  pages : Nat := 0
  pageTail : Nat := 0
  pageHead : Nat := 0
  draftOff : Nat := 0
  rejectRun : Nat := 0
  draftK : Nat := 0
  draftMax : Nat := 0
  result : Nat := 0
  priority : Nat := 0
  account : Nat := 0
  channel : Nat := 0
  cancel : Bool := false
  state : Nat := 0
  deriving DecidableEq, Repr

/-- What the server keeps for a request beside its entry (R310 to R328). -/
structure ReqX where
  /-- former state of a HELD request (R324) -/
  former : Nat := 0
  /-- target P of a prefill (R311) -/
  target : Nat := 0
  /-- admission order (R311) -/
  admitted : Nat := 0
  /-- chunk or draft length k of the step (R311, R315) -/
  chunk : Nat := 0
  k : Nat := 0
  /-- takes part in the step; as a prefill -/
  inStep : Bool := false
  prefill : Bool := false
  /-- draft tokens of the step and the physical addresses of their rows (R315) -/
  drafts : List (Nat × Nat) := []
  /-- results of teacher rows by their place j: draft accepted, token otherwise (R316) -/
  results : List (Nat × Bool × Nat) := []
  /-- drafts accepted so far; the procedure of R316 has ended -/
  accepted : Nat := 0
  decided : Bool := false
  /-- tokens emitted in the step up to the last one, with their DRAFTED flag (R316, R323) -/
  emitted : List (Nat × Bool) := []
  /-- result of the last token, if one of them is (R323) -/
  last : Nat := 0
  /-- it has met a fault of R329: its tokens of the step are not delivered -/
  bad : Bool := false
  /-- teacher positions charged to the account for the step (R314) -/
  used : Nat := 0
  /-- cancel step (R326), + 1 -/
  cancelStep : Nat := 0
  /-- it was paused at least once (R322) -/
  paused : Bool := false
  /-- what harvest captured of its teacher rows: position, first section's row, second section's (R186, R187) -/
  captured : List (Nat × List Byte × List Byte) := []
  /-- its final record has been posted (R322) -/
  finalDone : Bool := false
  deriving DecidableEq, Repr

/-- A page descriptor (R307). -/
structure Page where
  next : Nat := 0
  last : Bool := false
  state : Nat := 0
  request : Nat := 0
  ordinal : Nat := 0
  fill : Nat := 0
  deriving DecidableEq, Repr

/-- A demotion in progress (R309). -/
structure Demotion where
  d : Nat
  e : Nat
  req : Nat
  /-- 0 copying, 1 copied, 2 failed -/
  phase : Nat
  /-- its request no longer holds the page (R312) -/
  dead : Bool
  deriving DecidableEq, Repr

/-- A token record (R322), field by field. -/
structure TokRec where
  tagLow : Nat
  token : Nat
  position : Nat
  result : Nat
  late : Bool
  paused : Bool
  drafted : Bool
  final : Bool
  request : Nat
  deriving DecidableEq, Repr

/-- A channel's holding space and pending ring change (R324, R325). -/
structure Chan where
  /-- records held; R324; reset empty -/
  held : List TokRec := []
  /-- records that wait for the holding space; R324 (log entry 131); reset empty -/
  beyond : List TokRec := []
  /-- pending ring change: base and entries; R325; reset none -/
  change : Option (Nat × Nat) := none
  /-- a boundary has passed since the ring change was written; R325; reset false -/
  frozen : Bool := false
  deriving DecidableEq, Repr

/-- An account's queue and credit (R313, R314). -/
structure Acct where
  /-- paused requests in pause order, then queued ones in order; R313; reset empty -/
  paused : List Nat := []
  queued : List Nat := []
  /-- admission credit; R313; reset 0 -/
  credit : Int := 0
  /-- BUDGET_a, I32; R314; reset 0 -/
  budget : Int := 0
  deriving DecidableEq, Repr

/-- A row handed to a jetton unit (R319): the row, calling rod, die, physical address, time. -/
structure JRow where
  row : JettonReq
  rod : Nat
  die : Nat
  phys : Nat
  startNs : Nat
  deriving DecidableEq, Repr

/-- The server (R299 to R332); its dictionary objects are in objs. -/
structure Server where
  /-- request table, 65,536 entries; R303; reset 0 -/
  reqs : Tab Req := []
  /-- the part's working values of each request; R310; reset empty -/
  xs : Tab ReqX := []
  /-- page table, 2,097,152 descriptors; R307; reset 0 -/
  pages : Tab Page := []
  /-- demotions in progress; R309; reset empty -/
  demotions : List Demotion := []
  /-- accounts 0 to 4,095; R331; reset 0 -/
  accts : Tab Acct := []
  /-- channels 0 to 23; R332; reset empty -/
  chans : Tab Chan := []
  /-- admission counter; R311; reset 0 -/
  admitCount : Nat := 0
  /-- phase of the step: 0 boundary due, 1 draft, 2 verify, 3 delivery; R310; reset 0 -/
  phase : Nat := 0
  /-- STOP has been written; R302; reset false -/
  stopping : Bool := false
  /-- rows in the jetton units, in the order handed over; R319; reset empty -/
  rows : List JRow := []
  /-- JT_ROWS and JT_BUSY_CYCLES of each die, 64 bits saturating; R330; reset 0 -/
  jtRows : Tab Nat := []
  jtBusy : Tab Nat := []
  /-- SV_ACCT_WEIGHT, SV_ACCT_REFILL and SV_ACCT_CAP in force; R299; reset 0 -/
  weights : Tab Nat := []
  refills : Tab Nat := []
  caps : Tab Nat := []
  deriving DecidableEq, Repr

/-- The stroke timebase, the energy ledger and the power limits (R354 to R376, R475). -/
structure Strokes where
  /-- energy balance E, µJ; R363; reset 0 -/
  balance : Int := 0
  /-- allowance A of the current stroke; none before the first; R363, R365; reset none -/
  allow : Option Int := none
  /-- energy queue: function and queue of each waiting RUN; R363; reset empty -/
  queue : List (Nat × Nat) := []
  /-- time at which stroke M began, ns; R357; reset 0 -/
  beganAt : Nat := 0
  /-- time of the latest valid frame, ns; R357; reset 0 -/
  frameAt : Nat := 0
  /-- a stroke has begun since reset; R356; reset false -/
  begun : Bool := false
  /-- time at which WAITING was entered, ns; R357; reset 0 -/
  waitFrom : Nat := 0
  /-- stroke period in force, µs; R376; reset 1,000 (ST_PERIOD_US) -/
  period : Nat := 1000
  /-- stroke of the latest ST_TIMEBASE_CONFLICT record, + 1; R357; reset 0 -/
  conflictAt : Nat := 0
  /-- scheduled level S; R367; reset 24 (PW_LEVEL_MAX) -/
  sched : Nat := 24
  /-- clock-plan, governor, thermal and supply limits; R362; reset 24 -/
  plan : Nat := 24
  governor : Nat := 24
  thermal : Nat := 24
  supply : Nat := 24
  /-- record of the stroke in progress: grant, debit, measured, flags, levels, TJ; R369; reset 0 -/
  curGrant : Nat := 0
  curDebit : Nat := 0
  curMeasured : Nat := 0
  curMin : Nat := 24
  curStart : Nat := 24
  curTj : Nat := 0
  curClamped : Bool := false
  curSkip : Bool := false
  curThermal : Bool := false
  curGovernor : Bool := false
  curWait : Bool := false
  curHold : Bool := false
  /-- ledger records ST_LEDGER, 256 x 256 bits; R369; reset 0 -/
  ledger : Tab (BitVec 256) := []
  /-- voltage samples of the last millisecond, mV, newest first; R372, R375; reset empty -/
  vins : List Nat := []
  /-- power samples of the last 10 ms, mW, newest first; R371; reset empty -/
  power : List Nat := []
  /-- a sample of the stroke exceeded 7,200 W; R371; reset false -/
  overs : Bool := false
  /-- time of the latest governor step, ns; R371; reset 0 -/
  govAt : Nat := 0
  /-- latest input voltage, mV, since when it has been at 41.0 V or above, below 37.0 V and above 60.0 V, ns + 1; R372; reset DESIGN CHOICE 48,000, 0, 0, 0 -/
  vin : Nat := 48000
  vinOk : Nat := 0
  vinLow : Nat := 0
  vinHigh : Nat := 0
  /-- a sample has met a condition for a shut-down; R372; reset 0 -/
  sag : Bool := false
  /-- since when it has been within 40.0 V to 58.0 V, ns + 1; R372; reset 0 -/
  vinIn : Nat := 0
  /-- latest junction sample of each die, tenths of a degree; R373; reset DESIGN CHOICE 0 -/
  tj : Tab Nat := []
  /-- times of the latest thermal step down, step up, and of Tj at or above 105.0 at level 0, ns + 1; R373; reset 0 -/
  coolAt : Nat := 0
  hotAt : Nat := 0
  hot105 : Nat := 0
  /-- a throttling episode is in progress, and one above 105.0; R373; reset false -/
  episode : Bool := false
  limitEp : Bool := false
  /-- an undervoltage episode is in progress; R372; reset false -/
  underEp : Bool := false
  /-- a thermal trip has occurred since the latest reset; R373, R467; reset false -/
  tripped : Bool := false
  deriving DecidableEq, Repr

/-- One submission queue (R386, R387). -/
structure Sq where
  /-- BASE, 64 bits; R386; reset 0 -/
  base : Nat := 0
  size : Nat := 0
  cqid : Nat := 0
  en : Bool := false
  active : Bool := false
  /-- HEAD and the tail doorbell; R386, R388; reset 0 -/
  head : Nat := 0
  tail : Nat := 0
  /-- commands fetched and not accepted; R389; reset empty -/
  fetched : List (BitVec 1024) := []
  /-- commands accepted and not completed; R387; reset 0 -/
  live : Nat := 0
  /-- the entry that a pending enable writes when it is carried out; R387, R455; reset none -/
  next : Option (BitVec 256) := none
  deriving DecidableEq, Repr

/-- One completion queue (R386, R387). -/
structure Cq where
  base : Nat := 0
  size : Nat := 0
  vector : Nat := 0
  en : Bool := false
  active : Bool := false
  tail : Nat := 0
  head : Nat := 0
  phase : Bool := false
  coalUs : Nat := 0
  coalCount : Nat := 1
  /-- entries held by commands accepted and not completed; R389; reset 0 -/
  reserved : Nat := 0
  /-- entries written since the last signal, and the time of the first, ns; R395; reset 0 -/
  unsig : Nat := 0
  unsigAt : Nat := 0
  /-- COAL_US in force since the last entry written; R387; reset 0 -/
  forceUs : Nat := 0
  deriving DecidableEq, Repr

/-- A GO that reached a mailbox before the dictionary could be reached (R413): the registers, and what the host buffer holds. -/
structure MbHeld where
  regs : MbRegs
  data : List Byte
  deriving DecidableEq, Repr

/-- One host function (R382 to R388, R400). -/
structure Func where
  /-- CQ_FUNC_CTRL.EN; R384; reset 0 -/
  en : Bool := false
  /-- shut-down in progress; R384; reset false -/
  down : Bool := false
  /-- DB_ERR and CFG_ERR; R384; reset 0 -/
  dbErr : Bool := false
  cfgErr : Bool := false
  /-- CQ_CH_SHADOW, 64 bits; R383; reset 0 -/
  shadow : Nat := 0
  /-- mailbox registers CMD, OFFSET, ADDR, STATUS, VECTOR; R385; reset 0 -/
  mbCmd : BitVec 64 := 0
  mbOffset : BitVec 64 := 0
  mbAddr : BitVec 64 := 0
  mbStatus : BitVec 64 := 0
  mbVector : BitVec 32 := 0
  /-- the operation that stays BUSY until the dictionary is reachable; R413; reset none -/
  mbHeld : Option MbHeld := none
  /-- submission and completion queues 0 to 63; R386; reset disabled -/
  sqs : Tab Sq := []
  cqs : Tab Cq := []
  /-- MSI-X mask and pending bits, 256 each; R383, R395; reset PRESUMED masked (PCI Express), 0 -/
  masked : Tab Bool := []
  pend : Tab Bool := []
  /-- message address and data of each MSI-X vector; R383; reset PRESUMED 0 (PCI Express) -/
  msixAddr : Tab (BitVec 64) := []
  msixData : Tab (BitVec 32) := []
  /-- virtual function enabled; R382; reset false (function 0 always present) -/
  vf : Bool := false
  /-- function-level reset: 0 none, 1 requested, 2 registers reset; its time, ns; R400; reset 0 -/
  flr : Nat := 0
  flrAt : Nat := 0
  /-- a port reset asked for link retraining after it; R469; reset false -/
  retrain : Bool := false
  /-- SPDM session: 0 none, 1 version, 2 capabilities, 3 algorithms, 4 key exchange, 5 finished; R442; reset 0 -/
  spdm : Nat := 0
  /-- number of the IDE keys in force, drawn when FINISH is answered; R379, R442, R444; reset 0, none -/
  ideKey : Nat := 0
  deriving DecidableEq, Repr

/-- An accepted immediate command that has not completed (R391). -/
structure Live where
  id : Nat
  cmd : Cmd
  /-- DMA bytes fetched from the host, or read from the upper deck -/
  data : List Byte
  deriving DecidableEq, Repr

/-- A block of the window buffer (R398). -/
structure WinBlock where
  block : Nat
  dirty : Bool
  /-- time of its first write since clean, ns -/
  at_ : Nat
  /-- lines of it that could not be read (R399) -/
  bad : List Nat
  bytes : Mem
  deriving DecidableEq, Repr

/-- An answer of a function's DOE mailbox (R442): to which request, refused or not, and the bytes the spec gives it. -/
structure SpdmAnswer where
  fn : Nat
  kind : SpdmKind
  error : Bool
  data : List Byte
  deriving DecidableEq, Repr

/-- The host port (R377 to R401). -/
structure HostPort where
  /-- function 0 and virtual functions 1 to 16; R382; reset as Func -/
  funcs : Tab Func := []
  /-- host memory as the part has written it; R394; reset DESIGN CHOICE 0 (outside the part) -/
  mem : Mem := []
  /-- interrupts sent: function and vector, oldest first (outputs); R395 -/
  irqs : List (Nat × Nat) := []
  /-- PCIe messages sent: 1 ERR_NONFATAL (outputs); R399, R467 -/
  msgs : List Nat := []
  /-- CXL RAS log: kind 1 memory data ECC error with a host address, 2 uncorrectable internal error; R399, R467; reset empty -/
  ras : List (Nat × Nat) := []
  /-- accepted immediate commands; R391; reset empty -/
  live : List Live := []
  nextId : Nat := 0
  /-- extents of the window in allocation order; R397; reset empty -/
  winExt : List Nat := []
  /-- window buffer, 512 blocks of 4 KiB, most recently used first; R398; reset empty -/
  win : List WinBlock := []
  /-- accesses waiting for a block fill; R398; reset empty -/
  winWait : List WinAccess := []
  /-- lines returned to host reads of the window, oldest first (outputs): offset and bytes -/
  winOut : List (Nat × List Byte) := []
  /-- the HDM decoder is committed, and the base it gives the range; R397; reset false; reset DESIGN CHOICE 0 -/
  hdm : Bool := false
  hdmBase : Nat := 0
  /-- the port offers CXL.io only (LINK_IO_ONLY); R380, R384; reset false -/
  ioOnly : Bool := false
  /-- IDE key sets drawn; R379, R444; reset 0 -/
  ideDrawn : Nat := 0
  /-- answers to host reads of a BAR, oldest first (outputs): function, read, 8 bytes; R383 -/
  barOut : List (Nat × BarRead × Nat) := []
  /-- SPDM answers given, oldest first (outputs); R442 -/
  spdmOut : List SpdmAnswer := []
  deriving DecidableEq, Repr

/-- A request of the rack ring (R418). -/
structure RingReq where
  seq : Nat
  slot : BitVec 96
  auth : Bool
  at_ : Nat
  deriving DecidableEq, Repr

/-- A response ready for the rack ring (R419). -/
structure RingResp where
  seq : Nat
  status : Nat
  data : Nat
  at_ : Nat
  deriving DecidableEq, Repr

/-- The rack ring (R414 to R425); its dictionary objects are in objs. -/
structure Ring where
  /-- request queue of 16; R423; reset empty -/
  queue : List RingReq := []
  /-- responses ready; R423; reset empty -/
  ready : List RingResp := []
  /-- stage and snap buffers, 131,072 B each; R418; reset 0 -/
  stage : Mem := []
  snap : Mem := []
  /-- optical bypass engaged; R415; reset true -/
  bypass : Bool := true
  /-- stroke of the latest RING_SLOT_CONFLICT record, + 1; R422; reset 0 -/
  conflictAt : Nat := 0
  /-- response slots written, oldest first; R419, R423; reset empty (outputs) -/
  out : List (Nat × BitVec 96) := []
  /-- frames forwarded, oldest first; R414 to R417; reset empty (outputs) -/
  fwd : List (List Byte) := []
  deriving DecidableEq, Repr

/-- The Thihiso monitor (R426 to R430). -/
structure Monitor where
  /-- running baud rate; R426, R429; reset 115,200 (MON_BAUD) -/
  baud : Nat := 115200
  /-- a written rate that waits for the OK line to be sent: the rate and the time of that, ns; R426; reset none -/
  next : Option (Nat × Nat) := none
  /-- session level 0, 1 or 2 (MON_LEVEL); R427; reset 0 -/
  level : Nat := 0
  /-- consecutive failed LOGINs; R427; reset 0 -/
  fails : Nat := 0
  /-- lockout began at this time, ns + 1; R427; reset 0 -/
  lockAt : Nat := 0
  /-- vendor nonce issued and unused: its number and time, ns; R427; reset none -/
  nonce : Option (Nat × Nat) := none
  /-- WATCH is on; R428; reset false -/
  watch : Bool := false
  /-- time of the latest input, ns; R427; reset 0 -/
  inputAt : Nat := 0
  /-- input buffer, 1 KiB; R429; reset empty -/
  input : List Byte := []
  /-- characters of the present line were discarded; R429; reset false -/
  overrun : Bool := false
  /-- the latest character was a CR; R426; reset false -/
  afterCr : Bool := false
  /-- a VENDOR whose signature lines are being received: its time, ns, and the lines so far; R427; reset none -/
  vend : Option (Nat × List (List Byte)) := none
  /-- characters sent, and last of them those that wait in the output buffer; R426, R428, R429; reset empty (outputs) -/
  out : List Byte := []
  /-- time at which the output buffer is empty, ns; R429; reset 0 -/
  outEnd : Nat := 0
  /-- WATCH lines dropped and not yet told of; R429; reset 0 -/
  lost : Nat := 0
  deriving DecidableEq, Repr

/-- An error record (R462), field by field. -/
structure ErrRec where
  cls : Nat
  code : Nat
  link : Nat := 0xFF
  part : Nat := 0xFF
  die : Nat := 0xFF
  rod : Nat := 0xFFFF
  seq : Nat := 0
  stroke : Nat := 0
  addr : Nat := 0
  arg0 : Nat := 0
  arg1 : Nat := 0
  arg2 : Nat := 0
  arg3 : Nat := 0
  deriving DecidableEq, Repr

/-- The error records (R460 to R473). -/
structure Errors where
  /-- ERR_RING, 4,096 records, entry at its index; R465; reset empty -/
  ring : Tab (Option ErrRec) := []
  /-- ERR_PERSIST, newest 16 records of class 2 or above, in write order; R466; reset empty at manufacture, kept by every reset -/
  persist : List ErrRec := []
  /-- SEQ of the newest record, 64 bits (ERR_SEQ); R473; reset 0 -/
  seq : Nat := 0
  /-- rod clock cycle of the newest records, + 1, and how many of them are of that cycle; R465; reset 0 -/
  cycle : Nat := 0
  same : Nat := 0
  deriving DecidableEq, Repr

/-- An image copy in a flash slot (R434, R435, R458). -/
structure Image where
  magicOk : Bool
  hdrVersion : Nat
  imageId : Nat
  len : Nat
  keyIdx : Nat
  sigOk : Bool
  svn : Nat
  version : Nat
  digest : BitVec 256
  bodyOk : Bool
  levels : List (BitVec 64)
  /-- SHA-256 of header bytes 0 to 511 (R440) -/
  measure : BitVec 256
  deriving DecidableEq, Repr

/-- The copy of a persistent object in one flash device (R405): its number in the order of commits, its bytes as stored (wrapped where
the object is a secret: R444), and its CRC-32C. -/
structure StoredCopy where
  seq : Nat
  bytes : List Byte
  crc : Nat
  deriving DecidableEq, Repr

/-- A flash device with its bank (R433, R436). -/
structure Bank where
  /-- the 16 copies of the bank record, 512 bits each, copy k at flash offset 64 KiB × k; R436; reset none correct (EMPTY) -/
  recs : Tab (BitVec 512) := []
  /-- slots 1 to 5; none = erased; R433; reset erased -/
  slots : Tab (Option Image) := []
  /-- slots being written, or left incomplete by a write that was cut off; R451, R458; reset none -/
  writing : List Nat := []
  /-- persistent object copy, by object key; R405, R433; reset empty -/
  objs : Tab (Option StoredCopy) := []
  deriving DecidableEq, Repr

/-- Copies of the bank record in its 1 MiB area, one at every 64 KiB (R436). -/
def recCopies : Nat := 16

/-- A bank record (R436): GEN, STATE and TRIES in bytes 0 to 5, reserved zeros, and the CRC-32C of bytes 0 to 59. -/
def bankRecord (state gen tries : Nat) : BitVec 512 :=
  let body := leBytes 4 gen ++ leBytes 1 state ++ leBytes 1 tries ++ List.replicate 54 0
  BitVec.ofNat 512 (leNat (body ++ leBytes 4 (crc32c body)))

/-- The CRC of a bank record is correct (R436). -/
def recordOk (r : BitVec 512) : Bool := leBytes 4 (crc32c (leBytes 60 r.toNat)) == leBytes 4 (r.toNat / 2 ^ 480)

/-- All copies of the bank record are written, in order (R436). -/
def Bank.writeRec (b : Bank) (state gen tries : Nat) : Bank :=
  { b with recs := (upto recCopies).foldl (fun t k => tset 0 t k (bankRecord state gen tries)) b.recs }

/-- The bank record: the first copy whose CRC is correct (R436). -/
def Bank.record (b : Bank) : Option (BitVec 512) := ((upto recCopies).map (fun k => tget 0 b.recs k)).find? recordOk

/-- STATE of the bank: 0 EMPTY, 1 VALID, 2 WRITING, 3 REVERTED; EMPTY without a correct copy (R436). -/
def Bank.state (b : Bank) : Nat := match b.record with | some r => r.toNat / 2 ^ 32 % 256 | none => 0

/-- GEN of the bank, 0 without a correct copy (R436). -/
def Bank.gen (b : Bank) : Nat := match b.record with | some r => r.toNat % 2 ^ 32 | none => 0

/-- TRIES of the bank; 0xFF without a correct copy, where the spec gives none (DESIGN CHOICE, log entry 20). -/
def Bank.tries (b : Bank) : Nat := match b.record with | some r => r.toNat / 2 ^ 40 % 256 | none => 0xFF

/-- A level entry with own level, least and greatest partner level 1 (R447). -/
def levelOne (i : Nat) : BitVec 64 := BitVec.ofNat 64 (i + 0x000100010001 * 2 ^ 16)

/-- Interfaces that an image or the boot ROM (image 0) declares in the part as manufactured; DESIGN CHOICE (log entry 20). -/
def factoryLevels (i : Nat) : List (BitVec 64) :=
  (match i with
   | 0 => [1]
   | 1 => [1, 2]
   | 2 => [2, 3, 4, 5]
   | 3 => [3]
   | 4 => [4, 0x10]
   | _ => [5, 0x11]).map levelOne

/-- A usable image of the part as manufactured, whose contents the spec does not give; DESIGN CHOICE (log entry 20). -/
def factoryImage (i : Nat) : Image :=
  { magicOk := true, hdrVersion := 1, imageId := i, len := 1, keyIdx := 0, sigOk := true, svn := 0, version := 0, digest := 0
    bodyOk := true, levels := factoryLevels i, measure := 0 }

/-- Bank A as manufactured: VALID, confirmed, five usable images; DESIGN CHOICE (log entry 20). -/
def factoryBank : Bank :=
  Bank.writeRec { slots := [1, 2, 3, 4, 5].map (fun i => (i, some (factoryImage i))) } 1 1 0xFF

/-- Boot, firmware and trust (R431 to R459). -/
structure Boot where
  /-- stage of the sequence of R438: 0 dark, 1 boot ROM, 2 security firmware, 3 management complex started, 4 management-ready, 5 images verified, 6 compute-ready; reset 0 -/
  stage : Nat := 0
  /-- power-good time or time of the running hold, ns; R438, R469; reset 0 -/
  at_ : Nat := 0
  /-- device reset hold in progress; R469; reset false -/
  holding : Bool := false
  /-- cause of the reset in progress, for ERR_RESET_CAUSE; R469; reset 0 -/
  cause : Nat := 0
  /-- no usable copy of image 1 or 2: the part never becomes management-ready; R437; reset false -/
  halted : Bool := false
  /-- the watchdog caused the reset in progress; R463; reset false -/
  wdog : Bool := false
  /-- flash devices 0 with bank A and 1 with bank B; R433; reset as manufactured: DESIGN CHOICE bank A factoryBank, bank B EMPTY -/
  banks : Tab Bank := [(0, factoryBank)]
  /-- interface levels of the mask ROM; R432, R447; reset DESIGN CHOICE factoryLevels 0 -/
  romLevels : List (BitVec 64) := factoryLevels 0
  /-- bank each running image came from, image 1 to 5, + 1; R437; reset 0 -/
  source : Tab Nat := []
  /-- images 1 to 5 as they were loaded at boot; R437; reset none -/
  loaded : Tab (Option Image) := []
  /-- measurement registers 0 to 7, 256 bits; R440; reset 0 -/
  regs : Tab (BitVec 256) := []
  /-- the boot record measured in register 6; R440, R442; reset empty -/
  bootRecord : List Byte := []
  /-- the identity key is unwrapped; R443; reset false -/
  identity : Bool := false
  /-- write in progress: image, bank and the staged image; R451; reset none -/
  write : Option (Nat × Nat × Image) := none
  /-- DEBUG: a vendor challenge has been accepted; R446; reset false -/
  debug : Bool := false
  /-- FW_MIN_SVN fuses of images 1 to 5; R432; reset as manufactured 0 -/
  minSvn : Tab Nat := []
  /-- key revoke fuses 0 to 3; R432; reset as manufactured unrevoked -/
  revoked : Tab Bool := []
  deriving DecidableEq, Repr

/-- A pending enable (R455). -/
structure PendEnable where
  kind : Nat
  inst : Nat
  deriving DecidableEq, Repr

/-- Writes of RWP objects on their way to the flash devices (R405). -/
structure Flash where
  /-- keys written and not yet committed (DICT_PERSIST_PENDING), and the time of the first, ns; R405; reset empty -/
  dirty : List Nat := []
  dirtyAt : Nat := 0
  /-- DEFAULTS has been written; R405; reset false -/
  defaults : Bool := false
  deriving DecidableEq, Repr

/-- The whole part. -/
structure State where
  /-- commands that wait, first in, first out (the model's own queue) -/
  pending : List Instr := []
  /-- number of free values drawn so far (the model's own counter; DESIGN CHOICE 0) -/
  draws : Nat := 0
  /-- time since reset of the model, ns (the model's own; DESIGN CHOICE 0) -/
  ns : Nat := 0
  /-- rod clock cycles run so far, in tenths (R361; DESIGN CHOICE 0) -/
  rodTenths : Nat := 0
  /-- values of the scalar dictionary objects that differ from their defaults, by object key (R402); reset empty -/
  objs : List (Nat × Nat) := []
  /-- bytes of the STR and BLOB dictionary objects that software writes (R402); reset empty -/
  blobs : Mem := []
  flash : Flash := {}
  /-- last status reported on each path: function n, ring 100, monitor 101 (R410); reset 0 -/
  status : Tab Nat := []
  /-- data returned by the latest read on each path (R404); reset empty -/
  readData : Tab (List Byte) := []
  rods : Tab Rod := []
  mesh : Mesh := {}
  decks : Decks := {}
  parts : Tab Part := []
  /-- context c of partition p at 8 p + c (R342) -/
  ctxs : Tab Ctx := []
  /-- owner of each frame (PT_FRAME_OWNER), 8 bits; R353; reset 0xFF -/
  frameOwner : Tab Nat := []
  pairings : Tab Pairing := []
  harvests : Tab Harvest := []
  nums : Tab Num := []
  reck : Reck := {}
  cy : CarryS := {}
  op : Optical := {}
  sv : Server := {}
  st : Strokes := {}
  host : HostPort := {}
  ring : Ring := {}
  mon : Monitor := {}
  errs : Errors := {}
  boot : Boot := {}
  /-- pending enables in order of acceptance (R455); reset empty -/
  pend : List PendEnable := []
  deriving DecidableEq, Repr

/-- Why the block stops for good. -/
inductive Fault where
  /-- raised by a voltage sample above the absolute limit, whose damage the spec does not describe (R372); safe -/
  | damaged
  deriving DecidableEq, Repr

/-- Why a command has no meaning. -/
inductive Refusal where
  /-- raised by the dispatcher for a command whose meaning is not written; safe -/
  | notModelled (mnemonic : String)
  deriving DecidableEq, Repr

/-- The part right after reset, before power-good (R438). -/
def State.reset : State := {}

end Sys2Proof.Machine
end

