-- ==== Sys2Proof/Machine/MonText.lean ====
section
/-! DEFINITION. The text of the Thihiso monitor (R426 to R429, R460): how its lines read as ASCII, and its output buffer. What R428 leaves
open of the layout is DESIGN CHOICE (log entry 183). -/

namespace Sys2Proof.Machine

open Sys2Proof

/-! Numbers. -/

/-- Decimal digits of a number, for numbers of at most `k` digits. -/
def decDigits : Nat → Nat → List Byte
  | 0, _ => []
  | k + 1, n => if n < 10 then [BitVec.ofNat 8 (48 + n)] else decDigits k (n / 10) ++ [BitVec.ofNat 8 (48 + n % 10)]

/-- A number in decimal. -/
def decText (n : Nat) : List Byte := decDigits 80 n

/-- A number in decimal with at least `w` digits. -/
def decPad (w n : Nat) : List Byte :=
  let d := decText n
  List.replicate (w - d.length) 0x30 ++ d

def hexDigit (n : Nat) : Byte := BitVec.ofNat 8 (if n < 10 then 48 + n else 55 + n)

/-- A byte as two hex digits. -/
def hexByte (b : Byte) : List Byte := [hexDigit (b.toNat / 16), hexDigit (b.toNat % 16)]

/-- Bytes as hex in groups of four, a space between groups (R428). -/
def hexGroups (m : List Byte) : List Byte :=
  m.zipIdx.flatMap (fun b => (if b.2 % 4 = 0 && b.2 ≠ 0 then [(0x20 : Byte)] else []) ++ hexByte b.1)

/-- `n / d` rounded to the nearest whole number, ties to even. -/
def divNearest (n d : Nat) : Nat :=
  let q := n / d
  if 2 * (n % d) < d || (2 * (n % d) = d && q % 2 = 0) then q else q + 1

/-- The decimal exponent of `n / d`: the greatest `e` with `10 ^ e` not above it, offset by 50. -/
def decExp (n d : Nat) : Nat :=
  ((upto 100).reverse.find? (fun e => if 50 ≤ e then decide (10 ^ (e - 50) * d ≤ n) else decide (d ≤ n * 10 ^ (50 - e)))).getD 0

/-- A positive `n / d` with 9 significant digits: `d.dddddddd`, E, the sign and two digits of the exponent. -/
def ratText (n d : Nat) : List Byte :=
  let e := decExp n d
  let q := if e ≤ 58 then divNearest (n * 10 ^ (58 - e)) d else divNearest n (d * 10 ^ (e - 58))
  let over_ := q == 10 ^ 9
  let q := if over_ then 10 ^ 8 else q
  let e := if over_ then e + 1 else e
  let ds := decPad 9 q
  ds.take 1 ++ asciiBytes "." ++ ds.drop 1 ++ (if 50 ≤ e then asciiBytes "E+" ++ decPad 2 (e - 50) else asciiBytes "E-" ++ decPad 2 (50 - e))

/-- An F32 with 9 significant digits (R428). -/
def f32Text (x : F32) : List Byte :=
  let ex := bits x 30 23
  let fr := bits x 22 0
  let sign := if bit x 31 then asciiBytes "-" else []
  if ex = 255 then (if fr = 0 then sign ++ asciiBytes "INF" else asciiBytes "NAN")
  else if ex = 0 && fr = 0 then sign ++ asciiBytes "0.00000000E+00"
  else
    let m := if ex = 0 then fr else 2 ^ 23 + fr
    let k := max 1 ex
    sign ++ (if 150 ≤ k then ratText (m * 2 ^ (k - 150)) 1 else ratText m (2 ^ (150 - k)))

/-- A value by its type code (R402, R428): numbers in decimal, F32 with 9 significant digits, STR quoted, BLOB as hex. -/
def valueText (ty : Nat) (bytes : List Byte) : List Byte :=
  if ty = 5 then
    let v := leNat bytes
    if v < 2 ^ 31 then decText v else asciiBytes "-" ++ decText (2 ^ 32 - v)
  else if ty = 6 then f32Text (BitVec.ofNat 32 (leNat bytes))
  else if ty = 8 then [(0x22 : Byte)] ++ (bytes.reverse.dropWhile (· == 0)).reverse ++ [(0x22 : Byte)]
  else if ty = 9 then hexGroups bytes
  else decText (leNat bytes)

/-! Status names (R460). -/

/-- First code and names of each row. -/
def statusRows : List (Nat × List String) :=
  [(0x01, ["DESC_INVALID", "FORMAT_INVALID", "SCALE_INVALID", "SLOT_INVALID", "DECK_RANGE", "LD_RANGE", "DECK_UNCORR", "OPC_UNCORR",
      "ACC_UNCORR", "IDX_RANGE", "MESH_LOST", "ROD_FENCED", "SEQ_LIMIT"]),
   (0x20, ["TY_NOT_BOUND", "TY_ORDER", "TY_WOULD_DEADLOCK", "TY_SEQ_RANGE", "TY_TIMEOUT", "TY_DETACHED", "TY_TEACHER_LOST", "TY_BUSY",
      "TY_TENANT", "TY_CONFIG", "REBAL_REFUSED"]),
   (0x30, ["NUM_BUSY", "NUM_STEP_RANGE", "RK_PLACEMENT", "RK_ORDER", "RK_STEP_RANGE", "RK_SKIPPED"])]
  ++ [(0x40, ["CY_NO_GROUP", "CY_TABLE_FULL", "CY_TAG_BUSY", "CY_ORDER", "CY_NO_BUCKET", "CY_SEGMENT", "CY_BUSY", "CY_CONFIG"]),
   (0x50, ["SV_STOPPED", "SV_ENTRY_BUSY", "SV_PARAM", "SV_ACCOUNT", "SV_STALE", "SV_BUSY", "SV_CONFIG"]),
   (0x60, ["PT_CONFIG", "PT_BUSY", "PT_TENANT", "PT_FRAMES", "PT_DESTROYED", "PT_ROD_RANGE", "PT_CTX_DISABLED", "PART_RESET",
      "FENCE_REFUSED"]),
   (0x70, ["CMD_INVALID", "CMD_PARTITION", "CMD_DENIED", "HOST_ABORT", "FUNC_RESET", "CQ_BUSY", "CQ_CONFIG"])]
  ++ [(0x80, ["PARAM", "DENIED", "RING_PARAM", "RING_DENIED"]),
   (0x90, ["FW_NOT_READY", "FW_RESTRICTED", "FW_BUSY", "FW_SIGNATURE", "FW_SVN", "FW_SIZE", "FW_FLASH", "FW_BANK", "FW_LEVEL",
      "FW_PROG_LEVEL", "FW_NO_IDENTITY"]),
   (0xA0, ["DEVICE_FATAL"])]

/-- The name by which the monitor prints a status. -/
def statusName (code : Nat) : List Byte :=
  match statusRows.find? (fun r => decide (r.1 ≤ code) && decide (code < r.1 + r.2.length)) with
  | some r => asciiBytes (r.2.getD (code - r.1) "")
  | none => []

/-! Lines. -/

/-- A line that the monitor sends: OK, ERR with a status name, its own lines LOCKED, OVERRUN and LOST (R427, R429, R460), a command's
name, a value with its type code, a named value, an error record, a nonce, and the prompt of a session level. -/
inductive MonLine where
  | ok
  | err (status : Nat)
  | locked
  | overrun
  | lost (n : Nat)
  | command (name : String)
  | value (ty : Nat) (bytes : List Byte)
  | field (name : String) (ty : Nat) (bytes : List Byte)
  | record (bytes : List Byte)
  | nonce (n : BitVec 256)
  | prompt (level : Nat)
  deriving DecidableEq, Repr

def crLf : List Byte := [0x0D, 0x0A]

/-- A line as it is sent: ASCII with CR LF, and the prompt without (R426). -/
def MonLine.text : MonLine → List Byte
  | .ok => asciiBytes "OK" ++ crLf
  | .err st => asciiBytes "ERR " ++ statusName st ++ crLf
  | .locked => asciiBytes "ERR LOCKED" ++ crLf
  | .overrun => asciiBytes "ERR OVERRUN" ++ crLf
  | .lost n => asciiBytes "LOST " ++ decText n ++ crLf
  | .command c => asciiBytes c ++ crLf
  | .value ty m => valueText ty m ++ crLf
  | .field c ty m => asciiBytes c ++ asciiBytes " " ++ valueText ty m ++ crLf
  | .record m => hexGroups m ++ crLf
  | .nonce n => hexGroups (leBytes 32 n.toNat) ++ crLf
  | .prompt l => asciiBytes (if l = 0 then "obs> " else if l = 1 then "opr> " else "vnd> ")

/-- The text of some lines, after a LOST line if WATCH lines were dropped (R429). -/
def Monitor.text (m : Monitor) (l : List MonLine) : List Byte :=
  (if m.lost = 0 then [] else (MonLine.lost m.lost).text) ++ l.flatMap MonLine.text

/-! The output buffer (R426, R429). -/

/-- The rate at which a character that is queued now will be sent. -/
def Monitor.lineRate (m : Monitor) : Nat := match m.next with | some q => q.1 | none => m.baud

/-- The rate that runs at time `ns`. -/
def Monitor.rate (m : Monitor) (ns : Nat) : Nat :=
  match m.next with
  | some q => if q.2 ≤ ns then q.1 else m.baud
  | none => m.baud

/-- Characters that wait in the output buffer; a character takes ten bits of the line. -/
def Monitor.waiting (m : Monitor) (ns : Nat) : Nat := ((m.outEnd - ns) * m.lineRate + 9999999999) / 10000000000

/-- Characters are queued to be sent. -/
def Monitor.queue (m : Monitor) (ns : Nat) (t : List Byte) : Monitor :=
  { m with out := m.out ++ t
           outEnd := max m.outEnd ns + (t.length * 10000000000 + m.lineRate - 1) / m.lineRate }

/-- Lines are sent (R426). -/
def Monitor.send (m : Monitor) (ns : Nat) (l : List MonLine) : Monitor := { m.queue ns (m.text l) with lost := 0 }

/-- A WATCH line is sent if it fits in the 16 KiB of the output buffer, otherwise dropped and counted (R429). -/
def Monitor.watchLine (m : Monitor) (ns : Nat) (l : MonLine) : Monitor :=
  if m.waiting ns + (m.text [l]).length ≤ 16384 then m.send ns [l] else { m with lost := m.lost + 1 }

/-- What has left the output buffer: the rest of it is lost when it is cleared. -/
def Monitor.sent (m : Monitor) (ns : Nat) : List Byte := m.out.take (m.out.length - m.waiting ns)

/-- A break (R429): 115,200 baud, observer, both buffers empty. -/
def Monitor.breakLine (m : Monitor) (ns : Nat) : Monitor :=
  { m with baud := 115200, next := none, level := 0, input := [], overrun := false, afterCr := false, vend := none
           out := m.sent ns, outEnd := ns }

end Sys2Proof.Machine
end

