-- ==== Sys2Proof/Machine/Ops.lean ====
section
/-! DEFINITION. The named operations over the state: reading and writing its parts, error records (R460 to R466),
interrupts (R395), statuses of the access paths (R408 to R410), clocks (R361) and address maps (R14, R20). -/

namespace Sys2Proof.Machine

open Sys2Proof

/-- What every meaning answers. -/
abbrev Out := Host.Outcome State Fault Refusal

/-! Parts of the state by number. -/

def State.rod (s : State) (r : Nat) : Rod := tget {} s.rods r
def State.setRod (s : State) (r : Nat) (v : Rod) : State := { s with rods := tset {} s.rods r v }
def State.part (s : State) (p : Nat) : Part := tget {} s.parts p
def State.setPart (s : State) (p : Nat) (v : Part) : State := { s with parts := tset {} s.parts p v }
/-- Context `c` of partition `p` (R342). -/
def State.ctx (s : State) (p c : Nat) : Ctx := tget {} s.ctxs (8 * p + c)
def State.setCtx (s : State) (p c : Nat) (v : Ctx) : State := { s with ctxs := tset {} s.ctxs (8 * p + c) v }
def State.pairing (s : State) (n : Nat) : Pairing := tget {} s.pairings n
def State.setPairing (s : State) (n : Nat) (v : Pairing) : State := { s with pairings := tset {} s.pairings n v }
def State.harvest (s : State) (p : Nat) : Harvest := tget {} s.harvests p
def State.setHarvest (s : State) (p : Nat) (v : Harvest) : State := { s with harvests := tset {} s.harvests p v }
def State.num (s : State) (p : Nat) : Num := tget {} s.nums p
def State.setNum (s : State) (p : Nat) (v : Num) : State := { s with nums := tset {} s.nums p v }
def State.link (s : State) (l : Nat) : Link := tget {} s.op.links l
def State.setLink (s : State) (l : Nat) (v : Link) : State :=
  { s with op := { s.op with links := tset {} s.op.links l v } }
/-- Local group `g` of partition `p` (R242). -/
def State.group (s : State) (p g : Nat) : Group := tget {} s.cy.groups (4 * p + g)
def State.setGroup (s : State) (p g : Nat) (v : Group) : State :=
  { s with cy := { s.cy with groups := tset {} s.cy.groups (4 * p + g) v } }
def State.func (s : State) (f : Nat) : Func := tget {} s.host.funcs f
def State.setFunc (s : State) (f : Nat) (v : Func) : State :=
  { s with host := { s.host with funcs := tset {} s.host.funcs f v } }
def Func.sq (f : Func) (q : Nat) : Sq := tget {} f.sqs q
def Func.setSq (f : Func) (q : Nat) (v : Sq) : Func := { f with sqs := tset {} f.sqs q v }
def Func.cq (f : Func) (q : Nat) : Cq := tget {} f.cqs q
def Func.setCq (f : Func) (q : Nat) (v : Cq) : Func := { f with cqs := tset {} f.cqs q v }
/-- Tensor-scale slot `n` of partition `p` (R65). -/
def State.slot (s : State) (p n : Nat) : BitVec 1024 := tget slotReset (s.part p).slots n
def State.setSlot (s : State) (p n : Nat) (v : BitVec 1024) : State :=
  let x := s.part p
  s.setPart p { x with slots := tset slotReset x.slots n v }

/-! Dictionary objects by key (R402). -/

/-- Value of a scalar object. -/
def State.o (s : State) (k : Nat) : Nat := tget (objDefault k) s.objs k
/-- Set a scalar object. -/
def State.setO (s : State) (k v : Nat) : State := { s with objs := tset (objDefault k) s.objs k v }
/-- Add to a saturating counter object of `w` bits. -/
def State.addO (s : State) (w k n : Nat) : State := s.setO k (satAdd w (s.o k) n)

/-- Span of one BLOB object in the byte store. -/
def blobSpan : Nat := 2 ^ 25

/-- What an unwritten byte of a STR or BLOB object reads as: all 0xFF in TY_RING and TY_SHARED (R191), level cap 0xFF in
PW_CLOCK_PLAN (R475, R376), otherwise 0. -/
def blobFill (key off : Nat) : Byte :=
  if key % 256 = 0x0E && 0x4810 ≤ key / 256 && key / 256 < 0x4818 then 0xFF
  else if key % 256 = 0x10 && 0x4810 ≤ key / 256 && key / 256 < 0x4818 then 0xFF
  else if key = kPW_CLOCK_PLAN && off % 16 = 8 then 0xFF
  else 0

/-- Byte of a written BLOB or STR object. -/
def State.blob (s : State) (key off : Nat) : Byte := tget (blobFill key off) s.blobs (key * blobSpan + off)
/-- Write bytes of a BLOB or STR object. -/
def State.setBlob (s : State) (key off : Nat) : List Byte → State
  | [] => s
  | b :: bs =>
    State.setBlob { s with blobs := tset (blobFill key off) s.blobs (key * blobSpan + off) b } key (off + 1) bs
/-- `n` bytes of a BLOB or STR object as a number. -/
def State.blobNum (s : State) (key off n : Nat) : Nat := leNat ((upto n).map (fun i => s.blob key (off + i)))
/-- Return a BLOB or STR object to its default. -/
def State.clearBlob (s : State) (key : Nat) : State := { s with blobs := tclear s.blobs (key * blobSpan) blobSpan }
/-- Return a scalar object to its default. -/
def State.clearO (s : State) (k : Nat) : State := { s with objs := terase s.objs k }

/-- A persistent object has been written and is to be committed to flash (R405). -/
def State.markRwp (s : State) (key : Nat) : State :=
  let f := s.flash
  { s with flash := { f with dirty := if f.dirty.contains key then f.dirty else f.dirty ++ [key]
                             dirtyAt := if f.dirty.isEmpty then s.ns else f.dirtyAt } }

/-! Coordinates (R14, R20, R276). -/

def rodX (r : Nat) : Nat := r % 24
def rodY (r : Nat) : Nat := r / 24
def rodAt (x y : Nat) : Nat := y * 24 + x
def rodDie (r : Nat) : Nat := (rodY r / 6) * 4 + rodX r / 6
def rodFrame (r : Nat) : Nat := (rodY r / 3) * 8 + rodX r / 3
/-- The nine rods of a frame, in mask-bit order (R37). -/
def frameRods (f : Nat) : List Nat := (upto 9).map (fun i => rodAt (3 * (f % 8) + i % 3) (3 * (f / 8) + i / 3))
/-- Partition that owns a rod's frame; 0xFF free, 0xFE zeroing (R353). -/
def State.owner (s : State) (r : Nat) : Nat := tget 0xFF s.frameOwner (rodFrame r)
/-- The six rods attached to edge group `p` (R17). -/
def edgeRods (p : Nat) : List Nat :=
  (upto 6).map (fun i =>
    match p / 4 with
    | 0 => rodAt (6 * p + i) 0
    | 1 => rodAt 23 (6 * (p - 4) + i)
    | 2 => rodAt (6 * (11 - p) + i) 23
    | _ => rodAt 0 (6 * (15 - p) + i))

/-- Lower-deck packages 2p and 2p + 1 belong to edge group p (R17); bits [16:12] of a physical lower-deck address select the
package (R135). -/
def ldPackage (a : Nat) : Nat := a / 4096 % 32
def ldGroup (a : Nat) : Nat := ldPackage a / 2

/-- The next attached rod of an edge group in its rotation, skipping the ports of fully fenced rods (R29); none if all six
are fenced. -/
def State.edgeNext (s : State) (p : Nat) : State × Option Nat :=
  let k := tget 0 s.mesh.edgeRot p
  match (upto 6).find? (fun i => (s.rod ((edgeRods p).getD ((k + i) % 6) 0)).st != .fullFenced) with
  | some i =>
    ({ s with mesh := { s.mesh with edgeRot := tset 0 s.mesh.edgeRot p ((k + i + 1) % 6) } },
      some ((edgeRods p).getD ((k + i) % 6) 0))
  | none => (s, none)

/-- The packets of at most 4 KiB that carry `n` bytes between an edge group and the mesh take its ports in rotation (R24,
R29). -/
def State.edgePackets (s : State) (g n : Nat) : State := (upto ((n + 4095) / 4096)).foldl (fun s _ => (s.edgeNext g).1) s

/-- One step of spreading over a grid of width `w`, inside `avail`; sets are numbers, bit `i` for cell `i`. -/
def gridStep (w first last avail cur : Nat) : Nat :=
  (cur ||| (cur <<< w) ||| (cur >>> w) ||| ((cur ^^^ (cur &&& last)) <<< 1) ||| ((cur ^^^ (cur &&& first)) >>> 1)) &&& avail

def gridFlood (w first last avail : Nat) : Nat → Nat → Nat
  | 0, cur => cur
  | n + 1, cur =>
    let nx := gridStep w first last avail cur
    if nx = cur then cur else gridFlood w first last avail n nx

/-- Is a set of cells of a `w` × `w` grid connected by edges (R21, R35)? The empty set is not. -/
def gridConnected (w avail : Nat) : Bool :=
  match setBits avail (w * w) with
  | [] => false
  | c :: _ =>
    let first := maskOf ((upto w).map (fun y => y * w))
    let last := maskOf ((upto w).map (fun y => y * w + w - 1))
    gridFlood w first last avail (w * w) (2 ^ c) == avail

/-- Frames of a partition (PT_FRAMES). -/
def State.frames (s : State) (p : Nat) : Nat := s.o (kPT_FRAMES p)
def State.partFrames (s : State) (p : Nat) : List Nat := setBits (s.frames p) 64
/-- Rods of a partition, ascending by frame. -/
def State.partRods (s : State) (p : Nat) : List Nat := (s.partFrames p).flatMap frameRods

/-! Clocks. -/

/-- Stroke number M (R355). -/
def State.stroke (s : State) : Nat := s.o kST_NUMBER
/-- Rod clock cycles run (R361). -/
def State.cycle (s : State) : Nat := s.rodTenths / 10
/-- Effective level (R362): the lowest of the scheduled level and the limits in force. -/
def State.level (s : State) : Nat :=
  min (min s.st.sched s.st.plan) (min s.st.governor (min s.st.thermal s.st.supply))

/-! Interrupts (R395). -/

/-- Signal MSI-X vector `v` of function `fn`: sent, or pending while the vector is masked. -/
def State.msix (s : State) (fn v : Nat) : State :=
  let f := s.func fn
  if tget true f.masked v then s.setFunc fn { f with pend := tset false f.pend v true }
  else { s with host := { s.host with irqs := s.host.irqs ++ [(fn, v)] } }

/-! Error records (R462 to R466). -/

/-- The 512-bit image of a record (R462). -/
def ErrRec.toBits (r : ErrRec) : BitVec 512 :=
  BitVec.ofNat 512
    (r.cls % 8 + (r.code % 2 ^ 16) * 2 ^ 128 + (r.link % 256) * 2 ^ 152 + (r.part % 256) * 2 ^ 160
      + (r.die % 256) * 2 ^ 168 + (r.rod % 2 ^ 16) * 2 ^ 176 + (r.seq % 2 ^ 64) * 2 ^ 192
      + (r.stroke % 2 ^ 64) * 2 ^ 256 + (r.addr % 2 ^ 64) * 2 ^ 320 + (r.arg0 % 2 ^ 32) * 2 ^ 384
      + (r.arg1 % 2 ^ 32) * 2 ^ 416 + (r.arg2 % 2 ^ 32) * 2 ^ 448 + (r.arg3 % 2 ^ 32) * 2 ^ 480)

/-- The record of a 512-bit image (R462). -/
def ErrRec.ofBits (b : BitVec 512) : ErrRec :=
  { cls := bits b 2 0, code := bits b 143 128, link := bits b 159 152, part := bits b 167 160
    die := bits b 175 168, rod := bits b 191 176, seq := bits b 255 192, stroke := bits b 319 256
    addr := bits b 383 320, arg0 := bits b 415 384, arg1 := bits b 447 416, arg2 := bits b 479 448
    arg3 := bits b 511 480 }

/-- A record with its number, its stroke and the die of its rod (R464). -/
def State.errFill (s : State) (r : ErrRec) : ErrRec :=
  { r with seq := s.errs.seq + 1, stroke := s.stroke, die := if r.rod < 576 then rodDie r.rod else r.die }

/-- Order of records of one cycle: descending class, ascending code, ascending rod (R465). -/
def ErrRec.before (a b : ErrRec) : Bool :=
  if a.cls ≠ b.cls then decide (b.cls < a.cls)
  else if a.code ≠ b.code then decide (a.code < b.code) else decide (a.rod < b.rod)

/-- A record takes its place among those of its cycle. -/
def insertRec (r : ErrRec) : List ErrRec → List ErrRec
  | [] => [r]
  | x :: t => if r.before x then r :: x :: t else x :: insertRec r t

/-- The newest `n` records, oldest first. -/
def Errors.newest (e : Errors) (n : Nat) : List ErrRec :=
  let k := min n (min e.seq 4096)
  (upto k).filterMap (fun i => tget none e.ring ((e.seq - k + i) % 4096))

/-- Records numbered from `n` on. -/
def numberRecs (n : Nat) (l : List ErrRec) : List ErrRec := l.zipIdx.map (fun x => { x.1 with seq := n + x.2 })

/-- The record enters the ring among those of its cycle, and ERR_PERSIST if it is deferred or worse (R464 to R466): of the records of one
cycle each takes its place in R465's order, and their numbers follow it (log entry 15). -/
def State.errStore (s : State) (r : ErrRec) : State :=
  let e := s.errs
  let old := if e.cycle = s.cycle + 1 then e.newest (min e.same 4095) else []
  let all := numberRecs (e.seq - old.length + 1) (insertRec r old)
  let kept := e.persist.take (e.persist.length - (old.filter (fun x => decide (2 ≤ x.cls))).length)
  let persist := kept ++ all.filter (fun x => decide (2 ≤ x.cls))
  { s with errs :=
    { e with seq := e.seq + 1
             ring := all.foldl (fun t x => tset none t ((x.seq - 1) % 4096) (some x)) e.ring
             persist := persist.drop (persist.length - 16)
             cycle := s.cycle + 1
             same := all.length } }

/-- A fatal-partition record sets its partition's bit (R466). -/
def State.errPart (s : State) (r : ErrRec) : State :=
  if r.cls = 3 && r.part < 16 then s.setO kERR_FATAL_PARTS (s.o kERR_FATAL_PARTS ||| 2 ^ r.part) else s

/-- The monitor prints the record while it watches (R428). -/
def State.errWatch (s : State) (r : ErrRec) : State :=
  if s.mon.watch then { s with mon := s.mon.watchLine s.ns (.record (leBytes 64 r.toBits.toNat)) } else s

/-- The record's interrupt (R466). -/
def State.errSignal (s : State) (r : ErrRec) : State :=
  if s.o kERR_SIGNAL_CLASS ≤ r.cls && s.o kERR_VECTOR < 256 then s.msix 0 (s.o kERR_VECTOR) else s

/-- Write one error record: number and stroke given, ring entry written, copied to ERR_PERSIST, fatal-partition bit set,
WATCH line printed, interrupt signalled (R464 to R466, R428). Entering the fatal-device state is `fatalRecord`'s. -/
def State.errRec (s : State) (r : ErrRec) : State :=
  let r := s.errFill r
  (((s.errStore r).errPart r).errWatch r).errSignal r

/-! Statuses of the access paths (R6, R408 to R410). -/

/-- Where a path's latest status is kept: function number, 100 ring, 101 monitor. -/
def pathCode : Path → Nat
  | .mailbox fn => fn
  | .ring _ => 100
  | .monitor => 101

/-- The path's invalid-parameter status (R6, R460). -/
def invalidParam : Path → Nat
  | .mailbox _ => stMB_PARAM
  | .ring _ => stRING_PARAM
  | .monitor => stMB_PARAM

/-- The path's access-rights status (R404, R460). -/
def accessDenied : Path → Nat
  | .mailbox _ => stMB_DENIED
  | .ring _ => stRING_DENIED
  | .monitor => stMB_DENIED

/-- Level of a path (R408): 0 observer, 1 operator, 2 vendor. -/
def State.pathLevel (s : State) : Path → Nat
  | .mailbox _ => 1
  | .ring auth => if auth then 1 else 0
  | .monitor => s.mon.level

/-- May the path write at operator level (R408, R409)? Virtual functions' mailboxes write nothing. -/
def State.mayWrite (s : State) (p : Path) : Bool :=
  match p with
  | .mailbox fn => fn == 0
  | _ => decide (1 ≤ s.pathLevel p)

/-- Report a status on a path (R410). -/
def State.report (s : State) (p : Path) (st : Nat) : State :=
  { s with status := tset 0 s.status (pathCode p) st }

/-- The dictionary is reachable (R413). -/
def State.dictUp (s : State) : Bool := decide (4 ≤ s.boot.stage) && !s.boot.holding

/-- Compute is ready: FW_STATE is COMPUTE_READY (R438, R454). -/
def State.computeUp (s : State) : Bool := s.o kFW_STATE == 2

/-- Why CREATE and START are refused: restricted mode, or compute not ready; 0 if they are not (R439, R450). -/
def State.fwGate (s : State) : Nat :=
  if s.o kFW_STATE = 3 then stFW_RESTRICTED else if s.computeUp then 0 else stFW_NOT_READY

/-- The fatal-device state holds (R467). -/
def State.fatal (s : State) : Bool := s.o kERR_FATAL_DEVICE == 1

/-- A dictionary command of a path: refused where the path may not write, and carried out with its status reported
otherwise; nothing happens before the dictionary is reachable (R404, R410, R413). -/
def State.control (s : State) (p : Path) (f : State → State × Nat) : State :=
  if !s.dictUp then s
  else if !s.mayWrite p then s.report p (accessDenied p)
  else
    let r := f s
    if r.2 = 0 then r.1.report p 0 else s.report p r.2

/-! Free values (log entry 3). -/

/-- Draw one fresh 64-bit value. -/
def State.draw (s : State) : State × BitVec 64 := ({ s with draws := s.draws + 1 }, Config.freeValue s.draws)
/-- Draw one fresh 256-bit value. -/
def State.drawKey (s : State) : State × BitVec 256 := ({ s with draws := s.draws + 1 }, Config.freeKey s.draws)

/-! Commands on the rods (R339, R344, R461). -/

/-- Resident context of a partition. -/
def State.resident (s : State) (p : Nat) : Nat := s.o (kPT_RESIDENT p)
/-- Another context, or none (0xFF), holds the rods; the rod clock cycles of the one before are counted (R344, R352). -/
def State.setResident (s : State) (p c : Nat) : State :=
  let x := s.part p
  let n := if s.resident p < 8 then s.cycle - x.iiMark else 0
  (s.setPart p { x with iiRes := x.iiRes + n, iiMark := s.cycle }).setO (kPT_RESIDENT p) c

/-- PT_RESIDENT as it reads: the outgoing context of a switch is RESIDENT until the switch ends, and one that is brought in for
idle rods from its choice on (R342, R344, R348). -/
def State.residentNow (s : State) (p : Nat) : Nat :=
  match (s.part p).switch with
  | some w => if w.out < 8 then w.out else w.inn
  | none => s.resident p

/-- The resident context's running command. -/
def State.runCmd (s : State) (p : Nat) : Option RunCmd :=
  if s.resident p < 8 then (s.ctx p (s.resident p)).run else none
def State.setRunCmd (s : State) (p : Nat) (f : RunCmd → RunCmd) : State :=
  if s.resident p < 8 then
    let x := s.ctx p (s.resident p)
    s.setCtx p (s.resident p) { x with run := x.run.map f }
  else s

/-- A status is raised on a rod (576: on none): the first one raised stands, and of those of one cycle that of the lowest rod, then the
lowest code (R461). -/
def Cmd.raise (c : Cmd) (cycle rod st : Nat) : Cmd :=
  if c.status = 0 || (c.failAt = cycle + 1 && (decide (rod < c.failRod) || (rod = c.failRod && decide (st < c.status)))) then
    { c with status := st, failAt := cycle + 1, failRod := rod }
  else c

/-- The running command ends with the first status raised (R461). -/
def State.failRun (s : State) (p st rod : Nat) : State :=
  s.setRunCmd p (fun r => { r with cmd := r.cmd.raise s.cycle rod st })

/-- The command of context `c` ends with the first status raised (R461), whether it is resident or not. -/
def State.failCtx (s : State) (p c st rod : Nat) : State :=
  if 16 ≤ p || 8 ≤ c then s
  else
    let x := s.ctx p c
    s.setCtx p c { x with run := x.run.map (fun (r : RunCmd) => { r with cmd := r.cmd.raise s.cycle rod st }) }

/-- The command of a context has ended: its requests on the mesh have no command to end any more. -/
def State.orphan (s : State) (p c : Nat) : State :=
  let f (q : MeshReq) : MeshReq := if q.part = p && q.ctx = c then { q with ctx := 8 } else q
  let fetch (q : MeshReq) : Bool := match q.writer with | .fetch _ => q.part == p && q.ctx == c | _ => false
  { s with mesh := { s.mesh with vc0 := (s.mesh.vc0.filter (fun q => !fetch q)).map f, vc2 := s.mesh.vc2.map f } }

/-- The command that issued a mesh request or write ends with a status (R27, R28). -/
def State.failIssuer (s : State) (q : MeshReq) (st : Nat) : State := s.failCtx q.part q.ctx st q.src

/-- OR a numeric status word into the running command (R64). -/
def State.orNsw (s : State) (p : Nat) (w : Nsw) : State :=
  s.setRunCmd p (fun r => { r with cmd := { r.cmd with nsw := r.cmd.nsw ||| w } })

/-- A rod's writes issued at the places `at_` of its program are lost or dropped: records whose PUBLISH calls come behind them are
not published (R164). -/
def State.writesLost (s : State) (rod : Nat) (at_ : List Nat) : State :=
  let hit (r : Record) : Bool := decide (r.phase < 2) && r.callers.any (fun c => c.1 == rod && at_.any (fun k => decide (k < c.2)))
  (upto 8).foldl (fun s n =>
    let x := s.pairing n
    if x.recs.any hit then s.setPairing n { x with recs := x.recs.map (fun r => if hit r then { r with lost := true } else r) }
    else s) s

/-- A wait that holds a rod program. -/
def RodWait.blocks : RodWait → Bool
  | .none => false
  | _ => true

/-- A rod program of a running command issues operations: the rod is enabled, its partition's resident context runs a
command that names it, that has no status yet, on a rod that has neither ended nor waits, and no hard switch is in
progress (R37, R339, R348, R461). -/
def State.issues (s : State) (r : Nat) : Bool :=
  decide (r < 576) && decide ((s.rod r).st = .enabled) && !(s.rod r).ended && !(s.rod r).wait.blocks
    && !s.fatal
    && (match s.runCmd (s.owner r) with
        | some c => decide (s.owner r < 16) && c.rods.contains r && (c.cmd.status == 0 || c.cmd.failAt == s.cycle + 1)
        | none => false)
    && decide ((s.part (s.owner r)).switch = none)

/-! Pending enables (R455, R457). -/

/-- Hold an enable until its shut-down ends (R455, R457). -/
def State.pendEnable (s : State) (kind inst : Nat) : State :=
  if s.pend.any (fun e => e.kind == kind && e.inst == inst) then s
  else { s with pend := s.pend ++ [{ kind := kind, inst := inst }] }

def State.dropPending (s : State) (kind inst : Nat) : State :=
  { s with pend := s.pend.filter (fun e => !(e.kind == kind && e.inst == inst)) }

/-- A shut-down has ended: a pending enable is carried out at once; a refusal is recorded (R455). -/
def State.firePending (s : State) (kind inst : Nat) (f : State → State × Nat) : State :=
  if s.pend.any (fun e => e.kind == kind && e.inst == inst) then
    let s := s.dropPending kind inst
    let r := f s
    if r.2 = 0 then r.1
    else s.errRec { cls := 0, code := rcFN_PENDING_REFUSED, arg0 := kind, arg1 := inst, arg2 := r.2 }
  else s

/-- Order of a fraction. -/
def Frac.lt (a b : Frac) : Bool := decide (a.n * b.d < b.n * a.d)
/-- `a + n / d`, reduced. -/
def Frac.add (a : Frac) (n d : Nat) : Frac :=
  let x := a.n * d + n * a.d
  let y := a.d * d
  let g := Nat.gcd x y
  { n := x / g, d := y / g }

/-! Time for which a context holds the rods (R344, R351). -/

/-- Nanoseconds since the latest settlement for which the context has held the rods. -/
def Ctx.heldNs (x : Ctx) (ns : Nat) : Nat := if x.holdFrom = 0 then 0 else ns + 1 - x.holdFrom
/-- V_c up to now (R344). -/
def Ctx.vNow (x : Ctx) (ns : Nat) : Frac := if x.holdFrom = 0 then x.vtime else x.vtime.add (256 * x.heldNs ns) x.share
/-- The account up to now (R351). -/
def Ctx.accountNow (x : Ctx) (ns : Nat) : Tab Nat := tset 0 x.account 0 (satAdd 64 (tget 0 x.account 0) (x.heldNs ns))

/-! Times of a step (R214). -/

/-- A wait on a carry-unit operation (R214, R265). -/
def RodWait.isCarry : RodWait → Bool
  | .carry _ _ => true
  | .bucket _ => true
  | _ => false

/-- The partition is RUNNING (R193). -/
def State.running (s : State) (p : Nat) : Bool := s.o (kRUN_STATE p) == 1

/-- The step number S (R193). -/
def State.runStep (s : State) (p : Nat) : Nat := s.o (kRUN_STEP p)

/-- Account the time since the latest change to the phase that ran. After the verdict of an applied step all time is UPDATE;
of a skipped step it stays with what ran (R214; the split is DEDUCED, log entry 44). -/
def State.phaseTick (s : State) (p : Nat) : State :=
  if !s.running p then s
  else
    let x := s.num p
    let dt := s.ns - x.acctNs
    let x := { x with acctNs := s.ns }
    let after := x.verdictNs != 0
    let x := if after then { x with update := x.update + dt } else x
    let x := match s.runCmd p with
      | some r =>
        if s.resident p ≠ 0 then x
        else if r.rods.any (fun d => (s.rod d).wait.isCarry) then
          if after then { x with lateCarry := x.lateCarry + dt } else { x with carry := x.carry + dt }
        else if r.mark = 1 then
          if after then { x with lateFwd := x.lateFwd + dt } else { x with fwd := x.fwd + dt }
        else if r.mark = 2 then
          if after then { x with lateBwd := x.lateBwd + dt } else { x with bwd := x.bwd + dt }
        else x
      | none => if x.pushed.contains (s.runStep p) && !after then { x with carryIdle := x.carryIdle + dt } else x
    s.setNum p x

/-- A bucket of a step is submitted: the time without a command counts from now towards that step's CARRY (R214). -/
def State.phasePush (s : State) (p step : Nat) : State :=
  let s := s.phaseTick p
  if s.running p then
    let x := s.num p
    s.setNum p { x with pushed := if x.pushed.contains step then x.pushed else x.pushed ++ [step]
                        carryIdle := if step = s.runStep p then 0 else x.carryIdle }
  else s

end Sys2Proof.Machine
end

