-- ==== Sys2Proof/Machine/Clock.lean ====
section
/-! DEFINITION. The part's clocks while no command waits (R361, log entry 2). -/

namespace Sys2Proof.Machine

/-- One nanosecond passes: 1.2 + level / 10 rod cycles run (R361). -/
def tick (s : State) : State :=
  { s with ns := s.ns + 1, rodTenths := s.rodTenths + 12 + s.level }

/-- Stack clock cycles in a time of `ns` nanoseconds, at 1,953.125 MHz (R3, R217). -/
def stackCycles (ns : Nat) : Nat := ns * 125 / 64

end Sys2Proof.Machine
end

