-- ==== Sys2Proof/Machine/Route.lean ====
section
/-! DEFINITION. Mesh routes, what becomes of a packet, and the requests and writes that await an answer (R22 to R38). -/

namespace Sys2Proof.Machine

open Sys2Proof

/-- Next hop of x-then-y routing (R25): 0 local, 1 east, 2 west, 3 north (y rising), 4 south. -/
def xyHop (r d : Nat) : Nat :=
  if rodX r < rodX d then 1 else if rodX d < rodX r then 2
  else if rodY r < rodY d then 3 else if rodY d < rodY r then 4 else 0

/-- The neighbour in a direction; the rod itself where the mesh has no link (R22). -/
def hopTo (r h : Nat) : Nat :=
  match h with
  | 1 => if rodX r = 23 then r else r + 1
  | 2 => if rodX r = 0 then r else r - 1
  | 3 => if rodY r = 23 then r else r + 24
  | 4 => if rodY r = 0 then r else r - 24
  | _ => r

/-- The links towards the rod are disabled in rod cycle `t`: a full fence of it has begun (R33). A rod that was found fully
fenced at the boot has had no open link. -/
def State.linkOffAt (s : State) (r t : Nat) : Bool :=
  let x := s.rod r
  (decide (x.st = .fullFenced) && x.closedAt == 0) || (x.closedAt != 0 && decide (x.closedAt ≤ t + 1))

def State.linkOff (s : State) (r : Nat) : Bool := s.linkOffAt r s.cycle

/-! Routes around fully fenced rods (R25, R38). The odd-even turn model is named and not defined by the spec: its turns are
taken from the literature, with the parity under which the example route of R38 is legal (log entry 21). -/

/-- May a packet that came in moving in direction `i` (0 = injected here) leave a router of column `x` in direction `o`? No
reversal; no turn from east to north or south in an odd column, none from north or south to west in an even one. -/
def oeTurn (x i o : Nat) : Bool :=
  !((i == 1 && o == 2) || (i == 2 && o == 1) || (i == 3 && o == 4) || (i == 4 && o == 3))
    && !(x % 2 == 1 && i == 1 && (o == 3 || o == 4))
    && !(x % 2 == 0 && (i == 3 || i == 4) && o == 2)

/-- Where a packet at a router, and the direction it came in, may go next among the rods outside a full fence. -/
def State.oeNext (s : State) (q : Nat × Nat) : List (Nat × Nat) :=
  ([1, 2, 3, 4].map (fun o => (hopTo q.1 o, o))).filter (fun y =>
    y.1 != q.1 && (s.rod y.1).st != .fullFenced && oeTurn (rodX q.1) q.2 y.2)

/-- Fewest hops that the turn model allows from any place of a frontier to rod `d`. -/
def State.oeDist (s : State) (d : Nat) : Nat → Nat → List (Nat × Nat) → List (Nat × Nat) → Option Nat
  | 0, _, _, _ => none
  | n + 1, k, front, seen =>
    if front.any (fun q => q.1 == d) then some k
    else
      let next := ((front.flatMap s.oeNext).filter (fun q => !seen.contains q)).eraseDups
      if next.isEmpty then none else State.oeDist s d n (k + 1) next (next ++ seen)

def State.oeHops (s : State) (d : Nat) (q : Nat × Nat) : Option Nat := State.oeDist s d 2400 0 [q] [q]

/-- The hop of a packet for `d` under loaded tables (R38): the loaded entry where it is on a route of fewest hops under the
turn model, else the lowest-numbered direction that is. -/
def State.tableHop (s : State) (d : Nat) (q : Nat × Nat) : Option (Nat × Nat) :=
  match s.oeHops d q with
  | none => none
  | some k =>
    let good := (s.oeNext q).filter (fun y => decide (s.oeHops d y = some (k - 1)))
    let t := tget 0 s.mesh.tables (576 * q.1 + d)
    (good.find? (fun y => y.2 == t)).or good.head?

/-- Is a rod fully fenced, so that routers follow tables (R25)? -/
def State.meshFenced (s : State) : Bool := s.rods.any (fun q => q.2.st == .fullFenced)

/-- Cycles from injection to the arrival of the last flit (R26). -/
def routeCost (hops cross len : Nat) : Nat := 2 + 2 * hops + 2 * cross + 2 + ((len + 127) / 128 - 1)

/-- Flits of a packet (R24). -/
def packetFlits (len : Nat) : Nat := (len + 127) / 128

/-- What becomes of a packet for `d` sent in cycle `sent` (R25, R26, R33): the hops and die crossings of its route; or no
arrival, with the router that discards and counts it, or none where it was inside the router of a rod when that rod's fence
began. The links count as they stood when its head reached them. A packet that the loaded tables give no route is discarded and
counted at the router that finds none (DESIGN CHOICE, log entry 167). -/
def State.route (s : State) (d sent len : Nat) : Nat → Nat × Nat → Nat → Nat → Except (Option Nat) (Nat × Nat)
  | 0, q, _, _ => .error (some q.1)
  | n + 1, q, hops, cross =>
    if q.1 = d then .ok (hops, cross)
    else
      let x := if s.meshFenced then s.tableHop d q else some (hopTo q.1 (xyHop q.1 d), xyHop q.1 d)
      match x with
      | none => .error (some q.1)
      | some x =>
        let t := sent + 2 + 2 * hops + 2 * cross
        let c := cross + if rodDie q.1 = rodDie x.1 then 0 else 1
        let out := sent + 4 + 2 * hops + 2 * c + 2 + packetFlits len
        if s.linkOffAt x.1 t then .error (some q.1)
        else if s.linkOffAt x.1 (min s.cycle out) then .error none
        else State.route s d sent len n x (hops + 1) c

/-- What becomes of a packet from `a` to `d` (R33): one inside a router that does not work is lost. -/
def State.fate (s : State) (a d sent len : Nat) : Except (Option Nat) (Nat × Nat) :=
  if (s.rod a).st = .off || s.linkOffAt a (min s.cycle (sent + 2 + packetFlits len)) then .error none
  else s.route d sent len 2400 (a, 0) 0 0

/-- A packet that does not arrive is counted at the router that discarded it (R33). -/
def State.countLost (s : State) (e : Option Nat) : State :=
  match e with
  | some r => s.setRod r { s.rod r with discards := satAdd 32 (s.rod r).discards 1 }
  | none => s

/-- A request or write enters the mesh (R28, R33, R38): it is held while injection is, and one that will not arrive is known
to the mesh alone: its writer waits for it. -/
def State.launch (s : State) (r : MeshReq) (len : Nat) : State × MeshReq :=
  if 2 ≤ s.mesh.phase then (s, { r with held := true })
  else match s.fate r.src r.dst s.cycle len with
    | .ok _ => (s, { r with held := false, issued := s.cycle })
    | .error e => (s.countLost e, { r with held := false, issued := s.cycle, gone := true })

/-- A VC2 write's bytes are in place and its acknowledgement goes out on VC1 (R28), unless the mesh loses it (R33). -/
def State.sendAck (s : State) (id : Nat) : State :=
  match s.mesh.vc2.find? (fun r => r.id == id) with
  | none => s
  | some r =>
    let f := if r.gone then Except.ok (0, 0) else s.fate r.dst r.src s.cycle 64
    let lost := match f with | .ok _ => r.gone | .error _ => true
    let s := match f with | .ok _ => s | .error e => s.countLost e
    { s with mesh := { s.mesh with
        acks := if lost then s.mesh.acks else s.mesh.acks ++ [id]
        vc2 := s.mesh.vc2.map (fun x => if x.id = id then { x with written := true, gone := lost } else x) } }

/-- A fence has begun: packets in flight whose way is cut do not arrive (R33). A request's answer comes back the same way
round. -/
def State.cutFlights (s : State) : State :=
  let hit (s : State) (r : MeshReq) (back : Bool) : State × MeshReq :=
    if r.held || r.gone || r.written then (s, r)
    else match s.fate r.src r.dst r.issued 4096, if back then s.fate r.dst r.src s.cycle 4096 else .ok (0, 0) with
      | .error e, _ => (s.countLost e, { r with gone := true })
      | .ok _, .error e => (s.countLost e, { r with gone := true })
      | .ok _, .ok _ => (s, r)
  let a := s.mesh.vc0.foldl (fun (a : State × List MeshReq) r => let x := hit a.1 r true; (x.1, a.2 ++ [x.2])) (s, [])
  let b := s.mesh.vc2.foldl (fun (a : State × List MeshReq) r => let x := hit a.1 r false; (x.1, a.2 ++ [x.2])) (a.1, [])
  { b.1 with mesh := { b.1.mesh with vc0 := a.2, vc2 := b.2 } }

/-- Injection resumes (R38): what was held enters the mesh. -/
def State.releaseHeld (s : State) : State :=
  let go (a : State × List MeshReq) (r : MeshReq) : State × List MeshReq :=
    if r.held then let x := a.1.launch r 4096; (x.1, a.2 ++ [x.2]) else (a.1, a.2 ++ [r])
  let a := s.mesh.vc0.foldl go (s, [])
  let b := s.mesh.vc2.foldl go (a.1, [])
  { b.1 with mesh := { b.1.mesh with vc0 := a.2, vc2 := b.2 } }

/-- A VC2 write that awaits its acknowledgement (R28), under a number its writer knows; it writes `len` bytes from `addr` on.
`done` says that its bytes are in place already. -/
def State.outstanding2 (s : State) (id part src dst addr len : Nat) (w : Writer) (done : Bool) : State :=
  let r : MeshReq := { id := id, part := part, src := src, dst := dst, issued := s.cycle, writer := w
                       ctx := s.resident part, written := false, addr := addr, len := len }
  let x := s.launch r len
  let s := { x.1 with mesh := { x.1.mesh with vc2 := x.1.mesh.vc2 ++ [x.2] } }
  if done then s.sendAck id else s

/-- A VC0 request for `len` bytes at `addr` that awaits its response (R27). -/
def State.outstanding0 (s : State) (id part src dst addr len : Nat) (w : Writer) : State :=
  let r : MeshReq := { id := id, part := part, src := src, dst := dst, issued := s.cycle, writer := w
                       ctx := s.resident part, written := false, addr := addr, len := len }
  let x := s.launch r len
  { x.1 with mesh := { x.1.mesh with vc0 := x.1.mesh.vc0 ++ [x.2] } }

/-- The acknowledgement of a VC2 write reaches its writer (R28). -/
def State.ackDone (s : State) (id : Nat) : State :=
  { s with mesh := { s.mesh with vc2 := s.mesh.vc2.filter (fun r => r.id != id)
                                 acks := s.mesh.acks.filter (· != id) } }

/-- A span cut into the packets that carry it, at most 4 KiB each (R24): offset and length. -/
def packets4k (n : Nat) : List (Nat × Nat) := (upto ((n + 4095) / 4096)).map (fun k => (4096 * k, min 4096 (n - 4096 * k)))

end Sys2Proof.Machine
end

