-- ==== Sys2Proof/Machine/HostOps.lean ====
section
/-! DEFINITION. Host commands and completions as the other units use them (R386 to R395). -/

namespace Sys2Proof.Machine

open Sys2Proof

/-! Fields of a host command (R390). -/

def hcOpcode (h : BitVec 1024) : Nat := bits h 7 0
def hcBarrier (h : BitVec 1024) : Bool := bit h 8
def hcCid (h : BitVec 1024) : Nat := bits h 31 16
def hcEnergy (h : BitVec 1024) : Nat := bits h 63 32
/-- ARG0 to ARG3. -/
def hcArg (h : BitVec 1024) (k : Nat) : Nat := bits h (64 * k + 127) (64 * k + 64)
def hcMaxSeq (h : BitVec 1024) : Nat := bits h 351 320
def hcPart (h : BitVec 1024) : Nat := bits h 359 352
/-- Bytes 64 to 127: the opcode's descriptor. -/
def hcDesc (h : BitVec 1024) : BitVec 512 := BitVec.ofNat 512 (bits h 1023 512)

/-- Partition a command acts on: PART for the physical function, the function's own otherwise (R382). -/
def cmdPart (fn : Nat) (h : BitVec 1024) : Nat := if fn = 0 then hcPart h else fn - 1

/-- The function answers on the host link: it exists, the management firmware trained the port, and no function-level reset
of it is in progress (R382, R400, R438). -/
def State.fnUp (s : State) (fn : Nat) : Bool :=
  s.dictUp && (fn == 0 || (decide (fn ≤ 16) && (s.func fn).vf)) && (s.func fn).flr == 0

/-- Write bytes to host memory (R394). -/
def State.hostWrite (s : State) (a : Nat) (bs : List Byte) : State :=
  { s with host := { s.host with mem := mwrite s.host.mem a bs } }

/-- A completion entry (R393). -/
def completionBits (c : Cmd) (status result debit : Nat) (nsw : Nsw) (head : Nat) (phase : Bool) : BitVec 256 :=
  BitVec.ofNat 256
    ((if phase then 1 else 0) + (c.q % 64) * 2 ^ 64 + (head % 2 ^ 16) * 2 ^ 80 + hcCid c.hdr * 2 ^ 96
      + (status % 2 ^ 16) * 2 ^ 112 + nsw.toNat * 2 ^ 128 + (debit % 2 ^ 32) * 2 ^ 160
      + (result % 2 ^ 64) * 2 ^ 192)

/-- Signal a completion queue's vector if its coalescing conditions hold after a write (R395). -/
def State.coalesce (s : State) (fn cq : Nat) : State :=
  let f := s.func fn
  let c := f.cq cq
  if c.unsig = 0 then s
  else if c.coalUs = 0 || max 1 c.coalCount ≤ c.unsig then
    (s.setFunc fn (f.setCq cq { c with unsig := 0 })).msix fn c.vector
  else s

/-! Bucket descriptor (R244). -/

def bdOp (d : BitVec 512) : Nat := bits d 3 0
def bdGroup (d : BitVec 512) : Nat := bits d 5 4
def bdPath (d : BitVec 512) : Bool := bit d 8
def bdDeliver (d : BitVec 512) : Bool := bit d 9
def bdSrcHb (d : BitVec 512) : Bool := bit d 14
def bdDstF32 (d : BitVec 512) : Bool := bit d 15
def bdTag (d : BitVec 512) : Nat := bits d 31 16
def bdOwner (d : BitVec 512) : Nat := bits d 45 32
def bdSegs (d : BitVec 512) : Nat := bits d 62 48
def bdHome (d : BitVec 512) : Nat := bits d 73 64
def bdSrc (d : BitVec 512) : Nat := bits d 199 160
def bdDst (d : BitVec 512) : Nat := bits d 239 200
def bdWork (d : BitVec 512) : Nat := bits d 279 240
def bdScale (d : BitVec 512) : Nat := bits d 319 280
def bdChunk (d : BitVec 512) : Nat := bits d 351 320
def bdStep (d : BitVec 512) : Nat := bits d 415 352

/-! Carry status word (R258). -/

abbrev csNONFINITE : BitVec 16 := 0x01
abbrev csCLIPPED : BitVec 16 := 0x02
abbrev csSCALE_OVF : BitVec 16 := 0x04
abbrev csVANISH : BitVec 16 := 0x08
abbrev csUNCORR : BitVec 16 := 0x10
abbrev csLOST : BitVec 16 := 0x20
abbrev csMISMATCH : BitVec 16 := 0x40

/-! Poisoning (R262). -/

/-- Record what a segment raised (R258). -/
def Bucket.note (b : Bucket) (j : Nat) (st : BitVec 16) (clips vanish : Nat) : Bucket :=
  let x := tget {} b.notes j
  { b with notes := tset {} b.notes j { status := x.status ||| st, clips := satAdd 32 x.clips clips
                                        vanish := satAdd 32 x.vanish vanish } }

/-- Numeric events of the bucket's conversions (R64). -/
def Bucket.flag (b : Bucket) (w : Nsw) : Bucket := { b with nsw := b.nsw ||| w }

/-- A segment of zeros (R262). -/
def zeroUnit (j : Nat) : SegUnit :=
  { down := false, tag := 0, parity := 0, epoch := 0, sender := 0, index := j, amax := 0
    sbs := List.replicate 128 0, codes := List.replicate 4096 0 }

/-- The own contribution is complete once every segment is (R263). -/
def Bucket.own? (b : Bucket) (stroke : Nat) : Bucket :=
  if b.ownAt = 0 && bdSegs b.desc ≤ b.given.length then { b with ownAt := stroke + 1 } else b

def State.setBucket (s : State) (b : Bucket) : State :=
  { s with cy := { s.cy with buckets := s.cy.buckets.map (fun x => if x.id = b.id then b else x) } }

/-- Every segment of a bucket that the partition has not contributed is contributed as zeros, and NONFINITE is set; a group
of one writes its zeros when the bucket completes (R262). -/
def State.poisonBucket (s : State) (b : Bucket) : Bucket :=
  let todo := (upto (bdSegs b.desc)).filter (fun j => !b.given.contains j)
  let units := if s.o (kCY_GROUP_SIZE (4 * b.part + b.g)) = 1 then [] else todo.map zeroUnit
  let b := todo.foldl (fun (b : Bucket) j => b.note j csNONFINITE 0 0) b
  { b with given := b.given ++ todo, poison := b.poison ++ todo, own := b.own ++ units
           poisoned := true, status := b.status ||| csNONFINITE }.own? s.stroke

/-- Poison every open REDUCE of a partition whose step has no verdict (R262). -/
def State.poison (s : State) (p : Nat) : State :=
  (s.cy.buckets.filter (fun b => b.part == p && bdOp b.desc == 1 && !b.judged)).foldl
    (fun (s : State) b =>
      let t := s.setBucket (s.poisonBucket b)
      if b.poisoned then t else t.addO 32 (kCY_POISONED p) 1) s

/-- A command of a partition that ends with a status other than success or RK_SKIPPED poisons its open buckets (R262). -/
def State.endStatus (s : State) (c : Cmd) (status : Nat) : State :=
  if status = 0 || status = stRK_SKIPPED || 16 ≤ c.part then s else s.poison c.part

/-- Write a command's completion entry, release what it reserved, and signal (R389, R393 to R395). A command whose
function was reset writes none (R400). -/
def State.complete (s : State) (c : Cmd) (status result : Nat) (nsw : Nsw) : State :=
  let s := s.endStatus c status
  if c.mute then s
  else
    let f := s.func c.fn
    let q := f.cq c.cq
    let sq := f.sq c.q
    let e := completionBits c status result c.debit nsw sq.head q.phase
    let s := s.hostWrite (q.base + 32 * q.tail) (leBytes 32 e.toNat)
    let last := decide (q.tail = q.size)
    let q := { q with tail := if last then 0 else q.tail + 1
                      phase := if last then !q.phase else q.phase
                      reserved := q.reserved - 1
                      unsig := q.unsig + 1
                      unsigAt := if q.unsig = 0 then s.ns else q.unsigAt
                      forceUs := q.coalUs }
    let f := (f.setCq c.cq q).setSq c.q { sq with live := sq.live - 1 }
    (s.setFunc c.fn f).coalesce c.fn c.cq

/-- Complete an accepted immediate command by its number. -/
def State.completeLive (s : State) (id : Nat) (status result : Nat) (nsw : Nsw) : State :=
  match s.host.live.find? (fun l => l.id == id) with
  | some l =>
    { s with host := { s.host with live := s.host.live.filter (fun x => x.id != id) } }.complete l.cmd status result nsw
  | none => s

/-- The same for a unit's optional command number. -/
def State.completeOpt (s : State) (id : Option Nat) (status result : Nat) (nsw : Nsw) : State :=
  match id with
  | some i => s.completeLive i status result nsw
  | none => s

/-- The command record of the head of a queue. -/
def mkCmd (s : State) (fn q : Nat) (h : BitVec 1024) : Cmd :=
  { fn := fn, q := q, cq := ((s.func fn).sq q).cqid, hdr := h, part := cmdPart fn h, status := 0, nsw := 0
    debit := 0, result := 0, mute := false }

/-- The queue is served: a virtual function's queues belong to its contexts, and those of a DISABLED one, or of one whose DISABLE
waits for its command, are not (R342, R343). -/
def State.serves (s : State) (fn q : Nat) : Bool :=
  fn == 0 || (let x := s.ctx (fn - 1) (q / 8); x.enabled && !x.disabling)

/-- Entries of a completion queue written and unreleased (R388, R389). -/
def Cq.unreleased (c : Cq) : Nat := (c.tail + c.size + 1 - c.head) % (c.size + 1)

/-- The completion queue has a free entry that no accepted, uncompleted command holds (R389). -/
def Cq.hasFree (c : Cq) : Bool := decide (c.unreleased + c.reserved < c.size)

/-- The head of a queue may be accepted: its completion entry can be reserved, and a command with BARRIER waits for every earlier one (R389). Nothing is accepted
while the function is disabled (R384) or being reset (R400), or the queue is not served (R342). -/
def State.headReady (s : State) (fn q : Nat) : Option (BitVec 1024) :=
  let f := s.func fn
  let x := f.sq q
  match x.fetched with
  | h :: _ => if f.flr = 0 && f.en && x.en && s.serves fn q && (f.cq x.cqid).hasFree && (!hcBarrier h || x.live == 0) then some h else none
  | [] => none

/-- Accept the head of a queue: it reserves an entry of its completion queue (R389). -/
def State.acceptHead (s : State) (fn q : Nat) : State :=
  let f := s.func fn
  let x := f.sq q
  let c := f.cq x.cqid
  let f := f.setCq x.cqid { c with reserved := c.reserved + 1 }
  s.setFunc fn (f.setSq q { x with fetched := x.fetched.drop 1, live := x.live + 1 })

/-- Is the opcode one of R391? -/
def opcodeKnown (o : Nat) : Bool := decide (1 ≤ o) && decide (o ≤ 11)

/-- Complete the commands at the head of a queue that cannot run: unknown opcodes, and every command while the
fatal-device state holds (R392, R467). -/
def State.flushHead (fn q : Nat) : Nat → State → State
  | 0, s => s
  | n + 1, s =>
    match s.headReady fn q with
    | some h =>
      if s.fatal then
        State.flushHead fn q n ((s.acceptHead fn q).complete (mkCmd s fn q h) stDEVICE_FATAL 0 0)
      else if !opcodeKnown (hcOpcode h) then
        State.flushHead fn q n ((s.acceptHead fn q).complete (mkCmd s fn q h) stCMD_INVALID 0 0)
      else s
    | none => s

def State.flushQueue (s : State) (fn q : Nat) : State :=
  State.flushHead fn q ((s.func fn).sq q).fetched.length s

/-- An argument of an immediate command is out of range or misaligned (R391, R392). -/
def argBad (h : BitVec 1024) : Bool :=
  let a := hcArg h 0
  let n := hcArg h 1
  let m := hcArg h 2
  match hcOpcode h with
  | 2 => decide (m < 64) || decide (2 ^ 30 < m) || m % 64 != 0
  | 3 => decide (m < 64) || decide (2 ^ 30 < m) || m % 64 != 0
  | 7 => n == 0 || decide (4096 < n) || decide (4096 < a + n)
  | 8 => n == 0 || decide (4096 < n) || decide (4096 < a + n)
  | 9 => n % 64 != 0
  | 10 => decide (65536 ≤ a)
  | 11 => decide (65536 ≤ a)
  | _ => false

/-- Status of the checks of R392 that every immediate command meets first, 0 if it passes: energy of a command other than
RUN, its arguments, partition of the physical function's command. -/
def State.commonCheck (s : State) (fn : Nat) (h : BitVec 1024) : Nat :=
  if hcEnergy h ≠ 0 || argBad h then stCMD_INVALID
  else if 16 ≤ cmdPart fn h then stCMD_INVALID
  else if fn = 0 && s.o (kPT_STATE (cmdPart fn h)) == 0 then stCMD_PARTITION
  else 0

/-- Commands run only for an active partition; the others wait (R337, R392), as they do before compute is ready. -/
def State.partServed (s : State) (p : Nat) : Bool :=
  s.o (kPT_STATE p) == 2

/-- Accept the immediate command with opcode `op` at the head of a queue and act on it: `f` answers a status (the command
then completes with it and has no other effect) or the state in which it is carried out; its arguments are the state
after acceptance, the command and the number it is kept under while it runs. -/
def State.immediate (s : State) (fn q op : Nat)
    (f : State → Cmd → Nat → Except Nat State) : State :=
  match s.headReady fn q with
  | some h =>
    if hcOpcode h ≠ op || s.fatal then s.flushQueue fn q
    else if s.commonCheck fn h = 0 && !s.partServed (cmdPart fn h) then s
    else
      let c := mkCmd s fn q h
      let s1 := s.acceptHead fn q
      let st := s.commonCheck fn h
      if st ≠ 0 then (s1.complete c st 0 0).flushQueue fn q
      else match f s1 c s1.host.nextId with
        | .error e => (s1.complete c e 0 0).flushQueue fn q
        | .ok s2 => s2.flushQueue fn q
  | none => s

/-- Keep an accepted command until its unit completes it. -/
def State.keepLive (s : State) (c : Cmd) (data : List Byte) : State :=
  { s with host := { s.host with
      live := s.host.live ++ [{ id := s.host.nextId, cmd := c, data := data }]
      nextId := s.host.nextId + 1 } }

end Sys2Proof.Machine
end

