-- ==== Sys2Proof/Machine/TallyOps.lean ====
section
/-! DEFINITION. Pairings and their ring as the decks see them: members (R151), geometry (R158 to R161) and the check of
writes into ring slices (R165). -/

namespace Sys2Proof.Machine

open Sys2Proof

/-- Signed distance of sequence numbers modulo 2^32 (R159). -/
def seqDist (a b : Nat) : Int :=
  let d : Nat := (a % 2 ^ 32 + 2 ^ 32 - b % 2 ^ 32) % 2 ^ 32
  if d < 2 ^ 31 then (d : Int) else (d : Int) - 2 ^ 32

/-- Pairing states (R156). -/
abbrev tyFREE : Nat := 0
abbrev tyACTIVE : Nat := 1
abbrev tyDRAINING : Nat := 2
abbrev tyMOVING : Nat := 3
abbrev tyBROKEN : Nat := 4
abbrev tyCLOSING : Nat := 5

def State.tyState (s : State) (n : Nat) : Nat := s.o (kTY_STATE n)

/-- Students of a pairing: student index and partition (R151). -/
def Pairing.members (x : Pairing) : List (Nat × Nat) :=
  (upto 4).filterMap (fun i => match tget 0 x.students i with | 0 => none | k + 1 => some (i, k))

/-- The pairing to which a partition belongs (R151). -/
def State.pairOf (s : State) (p : Nat) : Option Nat :=
  (upto 8).find? (fun n => s.tyState n != tyFREE
    && (s.o (kTY_TEACHER n) == p || (s.pairing n).members.any (fun m => m.2 == p)))

/-- Student index of a partition in a pairing. -/
def State.studentIdx (s : State) (n p : Nat) : Option Nat :=
  ((s.pairing n).members.find? (fun m => m.2 == p)).map (·.1)

/-- A list of local slice numbers, ended by 0xFFFF (R191). -/
def State.sliceList (s : State) (key : Nat) : List Nat :=
  ((upto 16).map (fun i => s.blobNum key (2 * i) 2)).takeWhile (fun j => j != 0xFFFF)

def State.ringSlices (s : State) (n : Nat) : List Nat := s.sliceList (kTY_RING n)
def State.sharedSlices (s : State) (n : Nat) : List Nat := s.sliceList (kTY_SHARED n)

/-- Feature entries: layer, width, weight, with their number (R191). -/
def State.features (s : State) (n : Nat) : List (Nat × Nat × F32) :=
  (upto 8).map (fun f => (s.blobNum (kTY_FEATURES n) (8 * f) 2, s.blobNum (kTY_FEATURES n) (8 * f + 2) 2,
    BitVec.ofNat 32 (s.blobNum (kTY_FEATURES n) (8 * f + 4) 4)))

/-- Payload bytes of a token outside the feature sections, B0 (R161). -/
def payload0 (stream : Bool) (hidden vocab : Nat) : Nat := if stream then 2 * hidden else vocab + vocab / 32

def State.tyStream (s : State) (n : Nat) : Bool := s.o (kTY_MODE n) == 1
def State.b0 (s : State) (n : Nat) : Nat := payload0 (s.tyStream n) (s.o (kTY_HIDDEN n)) (s.o (kTY_VOCAB n))
/-- Payload bytes of a token, B (R161). -/
def State.bAll (s : State) (n : Nat) : Nat := s.b0 n + ((s.features n).map (fun f => 2 * f.2.1)).sum

/-- Local slice (as a place in the ring's list) and offset of the slot of a record (R159, R160). -/
def State.slotPlace (s : State) (n seq : Nat) : Nat × Nat :=
  let i := seq % s.o (kTY_NREC n)
  let k := (s.ringSlices n).length
  (i % k, s.o (kTY_RING_OFFSET n) + i / k * s.o (kTY_RSIZE n))

/-- Address of a record in the teacher's space (R160). -/
def State.slotAddr (s : State) (n seq : Nat) : Nat :=
  let x := s.slotPlace n seq
  (s.ringSlices n).getD x.1 0 * 2 ^ 29 + x.2

/-- Address of a record in a student's space, through its granted entries (R158). -/
def State.slotAddrFor (s : State) (n i seq : Nat) : Nat :=
  let x := s.slotPlace n seq
  tget 0xFFFF (s.pairing n).grants (32 * i + x.1) * 2 ^ 29 + x.2

/-- Slots of the partition's rings that a span touches: pairing and slot number (R160, R165). -/
def State.ringTouch (s : State) (p a len : Nat) : List (Nat × Nat) :=
  (upto 8).flatMap (fun n =>
    let st := s.tyState n
    if st = tyFREE || st = tyCLOSING || s.o (kTY_TEACHER n) ≠ p || s.o (kTY_RSIZE n) = 0 || len = 0 then []
    else
      let ring := s.ringSlices n
      let base := s.o (kTY_RING_OFFSET n)
      let off := a % 2 ^ 29
      let r := s.o (kTY_RSIZE n)
      ring.zipIdx.flatMap (fun q =>
        if q.1 ≠ a / 2 ^ 29 || off + len ≤ base then []
        else
          let lo := (off - base) / r
          let hi := (off + len - 1 - base) / r
          ((upto (hi + 1 - lo)).map (fun d => (n, (lo + d) * ring.length + q.2))).filter
            (fun x => decide (x.2 < s.o (kTY_NREC n)))))

/-- The record that a slot holds reserved and unpublished, if it does. -/
def State.slotOpen (s : State) (n slot : Nat) : Option Record :=
  (s.pairing n).recs.find? (fun r => r.seq % s.o (kTY_NREC n) == slot && decide (r.phase < 2))

/-- May a partition's write of a span go ahead (R165)? -/
def State.ringOk (s : State) (p a len : Nat) : Bool :=
  (s.ringTouch p a len).all (fun x => (s.slotOpen x.1 x.2).isSome)

/-- The same check by physical address (R165): through no valid entry of the partition does the span touch a slot that is
not open. -/
def State.physOk (s : State) (p a len : Nat) : Bool :=
  (s.part p).slices.all (fun q =>
    !(bit q.2 15 && bits q.2 9 0 == a / 2 ^ 29) || s.ringOk p (q.1 * 2 ^ 29 + a % 2 ^ 29) len)

/-- Does the span touch the server's tables, which only the part writes (R301)? -/
def State.tableTouch (s : State) (p a len : Nat) : Bool :=
  s.o kSV_STATE != 0 && s.o kSV_TEACHER == p
    && decide (a < s.o kSV_TABLE_BASE + 37748736) && decide (s.o kSV_TABLE_BASE < a + len)

end Sys2Proof.Machine
end

