-- ==== Sys2Proof/Machine/DeckOps.lean ====
section
/-! DEFINITION. Both decks: address spaces (R126 to R137), contents and keys (R131, R138, R139), unreadable words (R147),
and stage queues with their fences (R141 to R144). -/

namespace Sys2Proof.Machine

open Sys2Proof

/-- Bytes of a row (R145): those that one access can move at most (DESIGN CHOICE, log entry 17). -/
def rowBytes : Nat := 512

/-- Bytes of a slice (R122). -/
def sliceBytes : Nat := 477102080

/-! Upper deck. -/

/-- Physical address of the span of `len` bytes at `a` of a partition's upper-deck space, if the span touches no hole and,
for a write, neither a read-only entry nor the server's tables (R126 to R128, R301). A span inside mapped bytes lies within
one slice. -/
def State.udPhys (s : State) (p a len : Nat) (wr : Bool) : Option Nat :=
  let j := a / 2 ^ 29
  let e := tget 0 (s.part p).slices j
  if j < 576 && bit e 15 && a % 2 ^ 29 + len ≤ sliceBytes && !(wr && bit e 13) && !(wr && s.tableTouch p a len) then
    some (bits e 9 0 * 2 ^ 29 + a % 2 ^ 29)
  else none

/-- Is some 32 B word of the span unreadable (R147)? -/
def Decks.udBadIn (d : Decks) (a len : Nat) : Bool :=
  d.udBad.any (fun w => decide (w.1 * 32 < a + len) && decide (a < (w.1 + 1) * 32))

/-- Bytes of a span before its first unreadable 32 B word (R147). -/
def Decks.readable (d : Decks) (a n : Nat) : Nat :=
  d.udBad.foldl (fun m w =>
    if w.1 * 32 < a + n && a < (w.1 + 1) * 32 then min m (w.1 * 32 - a) else m) n

/-- Bytes of the upper deck, by physical address. -/
def Decks.udRead (d : Decks) (a len : Nat) : List Byte := mread d.ud a len

/-- Write bytes of the upper deck (R147): a word wholly covered becomes readable again; in a word covered in part that is
unreadable, the bytes not written become zero. The flag says that the latter happened. -/
def Decks.udWrite (d : Decks) (a : Nat) (bs : List Byte) : Decks × Bool :=
  let n := bs.length
  let hit := d.udBad.filter (fun w => decide (w.1 * 32 < a + n) && decide (a < (w.1 + 1) * 32))
  let cut := hit.filter (fun w => !(decide (a ≤ w.1 * 32) && decide ((w.1 + 1) * 32 ≤ a + n)))
  let m := cut.foldl (fun m w => tclear m (w.1 * 32) 32) d.ud
  let bad := d.udBad.filter (fun w => !(decide (w.1 * 32 < a + n) && decide (a < (w.1 + 1) * 32)))
  ({ d with ud := mwrite m a bs, udBad := bad }, decide (cut ≠ []))

/-- Is a row that the span touches being copied to a spare row (R145)? Accesses to it wait. -/
def Decks.rowBusy (d : Decks) (a len : Nat) : Bool :=
  d.rowCopy.any (fun q => q.1 / 2 ^ 32 == a / 2 ^ 29 && decide (a % 2 ^ 29 < (q.1 % 2 ^ 32 + 1) * rowBytes)
    && decide (q.1 % 2 ^ 32 * rowBytes < a % 2 ^ 29 + len))

/-- Accesses to the span wait: for a row copy, or for the zeroing of the slice for a new owner (R131, R145). -/
def Decks.busy (d : Decks) (a len : Nat) : Bool := d.rowBusy a len || tget 0 d.zeroing (a / 2 ^ 29) != 0

/-- Write `+0` to a whole slice (R131). -/
def Decks.zeroSlice (d : Decks) (rod : Nat) : Decks :=
  { d with ud := tclear d.ud (rod * 2 ^ 29) (2 ^ 29)
           udBad := d.udBad.filter (fun w => !(decide (rod * 2 ^ 24 ≤ w.1) && decide (w.1 < (rod + 1) * 2 ^ 24))) }

/-- The record of an uncorrectable read (R147): deferred, with the physical address. -/
def uncorrRec (part addr : Nat) : ErrRec := { cls := 2, code := stDECK_UNCORR, part := part, addr := addr }

/-! Lower deck. -/

/-- Physical lower-deck address of address `a` of a partition's lower-deck space (R136). -/
def State.ldPhys (s : State) (p a : Nat) : Option Nat :=
  let e := tget 0 (s.part p).extents (a / 2 ^ 30)
  if a < 2 ^ 40 && bit e 15 then some (bits e 9 0 * 2 ^ 30 + a % 2 ^ 30) else none

/-- Every extent that a span touches is valid (R136). -/
def State.ldSpanOk (s : State) (p a len : Nat) : Bool :=
  decide (a + len ≤ 2 ^ 40) &&
    (upto ((a + len - 1) / 2 ^ 30 - a / 2 ^ 30 + 1)).all (fun i => (s.ldPhys p ((a / 2 ^ 30 + i) * 2 ^ 30)).isSome)

/-- Byte of the lower deck by physical address (R138, R139): what was written, else zero in a zero-filled extent, else
unknown under a key generation. -/
def Decks.ldByte (d : Decks) (a : Nat) : Byte :=
  match d.ld.find? (fun q => q.1 == a) with
  | some q => q.2
  | none =>
    match tget 0 d.ldFill (a / 2 ^ 30) with
    | 0 => Config.garbage d.ldBase a
    | 1 => 0
    | k + 2 => Config.garbage k a

/-- Write one byte of the lower deck by physical address. -/
def Decks.ldPut (d : Decks) (a : Nat) (b : Byte) : Decks :=
  { d with ld := if tget 0 d.ldFill (a / 2 ^ 30) = 1 then tset 0 d.ld a b else tins d.ld a b }

/-- Write bytes of a partition's lower-deck space, whose extents are valid; units wholly covered become readable. -/
def State.ldWrite (s : State) (p a : Nat) : List Byte → State
  | [] => s
  | b :: bs =>
    match s.ldPhys p a with
    | some x =>
      State.ldWrite { s with decks := { s.decks.ldPut x b with ldBad := terase s.decks.ldBad (x / 64) } } p (a + 1) bs
    | none => State.ldWrite s p (a + 1) bs

/-- Bytes of a partition's lower-deck space. -/
def State.ldRead (s : State) (p a : Nat) : Nat → List Byte
  | 0 => []
  | n + 1 =>
    (match s.ldPhys p a with | some x => s.decks.ldByte x | none => 0) :: State.ldRead s p (a + 1) n

/-- Is a 64 B unit of a lower-deck span unreadable? -/
def State.ldBadIn (s : State) (p a len : Nat) : Bool :=
  (upto ((a % 64 + len + 63) / 64)).any (fun i =>
    match s.ldPhys p ((a / 64 + i) * 64) with
    | some x => tget false s.decks.ldBad (x / 64)
    | none => false)

/-- What lower-deck reads meet (R146), by physical address of the unit. -/
def Decks.ldFind (d : Decks) (l : List (Nat × LdEcc)) : Decks :=
  l.foldl (fun d x =>
    match x.2 with
    | .link => { d with ldLink := d.ldLink + 1 }
    | .corrected => { d with ldCorrected := d.ldCorrected + 1 }
    | .uncorr => if x.1 < 2 ^ 40 then { d with ldBad := tset false d.ldBad (x.1 / 64) true } else d) d

/-- A new key for an owner (R139): everything its extents held reads as unknown from now on; an unreadable unit stays
unreadable (R147). -/
def Decks.newKey (d : Decks) (owner : Nat) : Decks :=
  let g := d.keysDrawn + 1
  let mine := (upto 1024).filter (fun e => tget 0xFF d.owner e == owner)
  { d with keysDrawn := g
           keyGen := tset 0 d.keyGen owner g
           ld := d.ld.filter (fun q => !mine.contains (q.1 / 2 ^ 30))
           ldFill := mine.foldl (fun t e => tset 0 t e (g + 2)) d.ldFill }

/-- Zero-fill of an extent ends under the key of its new owner (R138). -/
def Decks.zeroExtent (d : Decks) (e owner : Nat) : Decks :=
  { d with ld := tclear d.ld (e * 2 ^ 30) (2 ^ 30)
           ldBad := tclear d.ldBad (e * 2 ^ 24) (2 ^ 24)
           ldFill := tset 0 d.ldFill e 1
           owner := tset 0xFF d.owner e owner
           filling := d.filling.filter (fun f => f.1 != e) }

/-- Free the extents of an owner (R138): they are owned by nobody; a later grant zero-fills them. -/
def Decks.freeExtents (d : Decks) (owner : Nat) : Decks :=
  let half := (d.filling.filter (fun f => f.2 == owner)).map (·.1)
  { d with owner := d.owner.filter (fun q => q.2 != owner && !half.contains q.1)
           filling := d.filling.filter (fun f => f.2 != owner) }

/-- Extent 1,023 is the firmware's; the others are free where no owner is listed (R135, R149). -/
def Decks.freeExtent (d : Decks) : Option Nat :=
  (upto 1023).find? (fun e => tget 0xFF d.owner e == 0xFF)

/-- Begin to allocate `n` extents for an owner (R138); none if fewer are free. -/
def Decks.allocExtents (d : Decks) (owner : Nat) : Nat → Option Decks
  | 0 => some d
  | n + 1 =>
    match d.freeExtent with
    | some e => Decks.allocExtents { d with owner := tset 0xFF d.owner e 0xFE
                                            filling := d.filling ++ [(e, owner)] } owner n
    | none => none

/-! Slice tables (R128, R129). -/

/-- Put one rod's slice into the lowest free entry of a table: invalid and not held by a grant (R129). -/
def addSlice (t : Tab (BitVec 16)) (rod : Nat) (valid : Bool) : Tab (BitVec 16) :=
  match (upto 576).find? (fun j => let e := tget 0 t j; !bit e 15 && !bit e 14) with
  | some j => tset 0 t j (BitVec.ofNat 16 ((if valid then 2 ^ 15 else 0) + rod))
  | none => t

/-- Slices of frames in ascending frame number and mask bit (R129); a fully fenced rod's entry is invalid. On creation
every rod takes its own entry, valid or not. -/
def State.createSlices (s : State) (frames : List Nat) : Tab (BitVec 16) :=
  (frames.flatMap frameRods).zipIdx.foldl
    (fun t x => tset 0 t x.2 (BitVec.ofNat 16 ((if (s.rod x.1).st = .fullFenced then 0 else 2 ^ 15) + x.1))) []

/-- Slices of added frames (R129). -/
def State.addSlices (s : State) (t : Tab (BitVec 16)) (frames : List Nat) : Tab (BitVec 16) :=
  (frames.flatMap frameRods).foldl (fun t r => if (s.rod r).st = .fullFenced then t else addSlice t r true) t

/-- Mark the entries of some rods invalid (R129, R130). R129 says no more than that: the whole entry is cleared, ROD included
(DESIGN CHOICE, log entry 168). -/
def dropSlices (t : Tab (BitVec 16)) (rods : List Nat) : Tab (BitVec 16) :=
  t.filter (fun q => !(bit q.2 15 && rods.contains (bits q.2 9 0)))

/-! Stages (R141 to R144). -/

def sgOp (d : BitVec 512) : Nat := bits d 3 0
def sgRows (d : BitVec 512) : Nat := bits d 23 8
def sgFence (d : BitVec 512) : Nat := bits d 45 40
def sgRowBytes (d : BitVec 512) : Nat := bits d 95 64
def sgLd (d : BitVec 512) (r : Nat) : Nat := bits d 167 128 + r * bits d 247 208
def sgUd (d : BitVec 512) (r : Nat) : Nat := bits d 207 168 + r * bits d 287 248

/-- Format of a stage descriptor (R141, R144). -/
def stageFormatOk (d : BitVec 512) : Bool :=
  (sgOp d == 1 || sgOp d == 2) && decide (1 ≤ sgRows d) && sgRowBytes d % 64 == 0
    && decide (64 ≤ sgRowBytes d) && decide (sgRowBytes d ≤ 2 ^ 30)
    && bits d 167 128 % 64 == 0 && bits d 207 168 % 64 == 0
    && bits d 247 208 % 64 == 0 && bits d 287 248 % 64 == 0

/-- Status of the check that the stagers make before any byte moves (R144). -/
def State.stageCheck (s : State) (p : Nat) (d : BitVec 512) : Nat :=
  if !stageFormatOk d then stDESC_INVALID
  else if (upto (sgRows d)).any (fun r => (s.udPhys p (sgUd d r) (sgRowBytes d) (sgOp d == 1)).isNone) then stDECK_RANGE
  else if (upto (sgRows d)).any (fun r => !s.ldSpanOk p (sgLd d r) (sgRowBytes d)) then stLD_RANGE
  else 0

/-- Move one 64 B unit of a stage: the state and a status (R142, R147, R165). -/
def State.stageUnit (s : State) (p : Nat) (d : BitVec 512) (row off : Nat) : State × Nat :=
  let la := sgLd d row + off
  let ua := sgUd d row + off
  match s.udPhys p ua 64 (sgOp d == 1), s.ldPhys p la with
  | some up, some lp =>
    if sgOp d = 1 then
      if !s.ringOk p ua 64 then (s, stTY_ORDER)
      else if s.ldBadIn p la 64 then (s.errRec (uncorrRec p lp), stDECK_UNCORR)
      else ({ s with decks := (s.decks.udWrite up (s.ldRead p la 64)).1 }, 0)
    else if s.decks.udBadIn up 64 then (s.errRec (uncorrRec p up), stDECK_UNCORR)
    else (s.ldWrite p la (s.decks.udRead up 64), 0)
  | none, _ => (s, stDECK_RANGE)
  | _, none => (s, stLD_RANGE)

/-- Move `n` units of a stage from unit `i` on, units counted in row order, stopping at the first status; the units moved and
the status. -/
def State.stageMove (p : Nat) (d : BitVec 512) : Nat → Nat → State × Nat × Nat → State × Nat × Nat
  | 0, _, a => a
  | n + 1, i, (s, k, _) =>
    let per := sgRowBytes d / 64
    let (s, st) := s.stageUnit p d (i / per) (64 * (i % per))
    if st = 0 then State.stageMove p d n (i + 1) (s, k + 1, 0) else (s, k, st)

/-- The parts of a row that lie in one 4 KiB unit of the lower deck each, so in one package (R135, R140): offset and length. -/
def rowChunks (la : Nat) : Nat → Nat → Nat → List (Nat × Nat)
  | 0, _, _ => []
  | n + 1, off, left =>
    if left = 0 then []
    else
      let k := min left (4096 - (la + off) % 4096)
      (off, k) :: rowChunks la n (off + k) (left - k)

/-- The units of a stage, each in one package: row, offset in it, length (R140). -/
def sgPackets (d : BitVec 512) : List (Nat × Nat × Nat) :=
  (upto (sgRows d)).flatMap (fun r =>
    (rowChunks (sgLd d r) (sgRowBytes d / 64) 0 (sgRowBytes d)).map (fun c => (r, c.1, c.2)))

def State.stager (s : State) (g : Nat) : Stager := tget {} s.decks.stagers g
def State.setStager (s : State) (g : Nat) (x : Stager) : State :=
  { s with decks := { s.decks with stagers := tset {} s.decks.stagers g x } }

/-- The units of a stage that starts join the stagers of their packages (R140). -/
def State.queueUnits (s : State) (p : Nat) (e : Stage) : State :=
  (sgPackets e.desc).foldl (fun (s : State) c =>
    match s.ldPhys p (sgLd e.desc c.1 + c.2.1) with
    | some la =>
      let x := s.stager (ldGroup la)
      s.setStager (ldGroup la) { x with q := x.q ++ [{ part := p, id := e.id, row := c.1, off := c.2.1, len := c.2.2 }] }
    | none => s) s

/-- The unit that a stager moves next: weighted round-robin over the partitions that have units, the weight of each its
PT_LD_SHARE (R346). -/
def State.stagerNext (s : State) (x : Stager) : Option (StageUnit × Stager) :=
  let has (p : Nat) : Bool := x.q.any (fun u => u.part == p)
  let pick : Option (Nat × Nat) :=
    if x.left != 0 && has x.turn then some (x.turn, x.left - 1)
    else (((upto 16).map (fun i => (x.turn + 1 + i) % 16)).find? has).map (fun p => (p, s.o (kPT_LD_SHARE p) - 1))
  match pick with
  | none => none
  | some (p, k) => (x.q.find? (fun u => u.part == p)).map (fun u => (u, { q := x.q.erase u, turn := p, left := k }))

/-- Is a packet an unwritten one of stage `id` of partition `p`? -/
def stagePacket (p id : Nat) (r : MeshReq) : Bool :=
  match r.writer with
  | .stager p' i _ _ _ => p' == p && i == id && !r.written
  | _ => false

/-- Is it a stager's packet? -/
def stagerPacket (r : MeshReq) : Bool := match r.writer with | .stager _ _ _ _ _ => true | _ => false

/-- A stage in progress writes nothing further and ends with a status (R144, R147). -/
def State.failStage (s : State) (p id st : Nat) : State :=
  let x := s.part p
  let s := s.setPart p { x with stageQ := x.stageQ.map (fun e =>
    if e.id = id && e.fail = 0 then { e with fail := st } else e) }
  { s with mesh := { s.mesh with vc2 := s.mesh.vc2.filter (fun r => !stagePacket p id r) }
           decks := { s.decks with stagers := tmap {} (fun (x : Stager) =>
             { x with q := x.q.filter (fun u => !(u.part == p && u.id == id)) }) s.decks.stagers } }

/-- A unit leaves as a VC2 packet through the next attached rod of the stager's edge group (R29, R140): towards the slice that
a LOAD writes, from the slice that a STORE reads. R29 skips the ports of fully fenced rods and does not say what follows where
all six are fenced: the group's first rod is taken (DESIGN CHOICE, log entry 169). -/
def State.sendUnit (s : State) (g : Nat) (u : StageUnit) (d : BitVec 512) (ua : Nat) : State :=
  let x := s.edgeNext g
  let s := x.1
  let port := x.2.getD ((edgeRods g).getD 0 0)
  let load := sgOp d = 1
  let r : MeshReq :=
    { id := s.mesh.nextId, part := u.part, src := if load then port else ua / 2 ^ 29, dst := if load then ua / 2 ^ 29 else port
      issued := s.cycle, writer := .stager u.part u.id u.row u.off u.len, ctx := s.resident u.part, written := false
      addr := sgUd d u.row + u.off, len := u.len, group := g }
  let x := { s with mesh := { s.mesh with nextId := s.mesh.nextId + 1 } }.launch r u.len
  { x.1 with mesh := { x.1.mesh with vc2 := x.1.mesh.vc2 ++ [x.2] } }

/-- A stager with no packet on its way sends its next unit (R140, R346). How many packets of a stager are on their way at a
time is open: one (DESIGN CHOICE, log entry 170). -/
def State.pumpStager (g : Nat) : Nat → State → State
  | 0, s => s
  | n + 1, s =>
    if s.mesh.vc2.any (fun r => r.group == g && stagerPacket r) then s
    else match s.stagerNext (s.stager g) with
      | none => s
      | some (u, x) =>
        let s := s.setStager g x
        match (s.part u.part).stageQ.find? (fun e => e.id == u.id) with
        | none => State.pumpStager g n s
        | some e =>
          match s.udPhys u.part (sgUd e.desc u.row + u.off) u.len (sgOp e.desc == 1) with
          | none => State.pumpStager g n (s.failStage u.part u.id stDECK_RANGE)
          | some ua => s.sendUnit g u e.desc ua

def State.pumpStages (s : State) : State :=
  (upto 16).foldl (fun s g => State.pumpStager g ((s.stager g).q.length + 1) s) s

/-- A partition's slice table has lost entries (R144): a LOAD in progress that still writes through one of them discards the
units not yet written and ends with DECK_RANGE. -/
def State.cutStages (s : State) (p : Nat) : State :=
  let cut := s.mesh.vc2.filterMap (fun r =>
    match r.writer with
    | .stager p' id row off len =>
      match (s.part p).stageQ.find? (fun e => e.id == id) with
      | some e => if p' = p && !r.written && (s.udPhys p (sgUd e.desc row + off) len true).isNone then some id else none
      | none => none
    | _ => none)
  (cut.foldl (fun s id => s.failStage p id stDECK_RANGE) s).pumpStages

/-- A new stage behind the queue of its partition (R142). -/
def State.queueStage (s : State) (p : Nat) (desc : BitVec 512) (cmd : Option Nat) (ctx : Nat) : State :=
  let x := s.part p
  let id := s.mesh.nextId
  let e : Stage := { id := id, desc := desc, phase := 0, status := 0, cmd := cmd, fail := 0, ctx := ctx }
  let s := s.setPart p { x with stageQ := x.stageQ ++ [e] }
  { s with mesh := { s.mesh with nextId := id + 1 } }

/-- Pushes that wait while the stage queue is full enter it, the longest wait first, then the lowest rod number (R142; the
order among waiting rods is a DESIGN CHOICE, log entry 24). -/
def State.admitStages (p : Nat) : Nat → State → State
  | 0, s => s
  | n + 1, s =>
    let w := (s.partRods p).filterMap (fun r =>
      match (s.rod r).wait with
      | .stagePush d => some ((s.rod r).waitSince, r, d)
      | _ => none)
    match w.find? (fun x => w.all (fun y => decide (x.1 ≤ y.1))) with
    | none => s
    | some x =>
      if 256 ≤ (s.part p).stageQ.length then s
      else State.admitStages p n ((s.setRod x.2.1 { s.rod x.2.1 with wait := .none }).queueStage p x.2.2 none (s.resident p))

/-- Waits of rods on a stage fence that are now met return (R142). A counter has reached a value when their difference
modulo 2^32 is below 2^31 (log entry 16). -/
def fenceMet (counter value : Nat) : Bool := decide ((counter + 2 ^ 32 - value % 2 ^ 32) % 2 ^ 32 < 2 ^ 31)

def State.wakeFence (s : State) (p f : Nat) : State :=
  let n := tget 0 (s.part p).fences f
  let s := (upto 8).foldl (fun (s : State) c =>
    let x := s.ctx p c
    if x.savedRods.isEmpty then s
    else s.setCtx p c { x with savedRods := x.savedRods.map (fun q =>
      match q.2.wait with
      | .fence f' v => if f' = f && fenceMet n v then (q.1, { q.2 with wait := .none, ret := n }) else q
      | _ => q) }) s
  (s.partRods p).foldl (fun s r =>
    match (s.rod r).wait with
    | .fence f' v =>
      if f' = f && fenceMet (tget 0 (s.part p).fences f) v then
        s.setRod r { s.rod r with wait := .none, ret := tget 0 (s.part p).fences f }
      else s
    | _ => s) s

/-- Count ended stages into their fences, in queue order (R142): a stage leaves the queue once it has ended and no earlier
stage of its fence is still queued. The fence's status byte keeps the first status other than success. -/
def State.settleFences (p : Nat) : Nat → State → State
  | 0, s => s
  | n + 1, s =>
    let x := s.part p
    let ready := x.stageQ.zipIdx.find? (fun q =>
      q.1.phase == 2 && (x.stageQ.take q.2).all (fun e => sgFence e.desc != sgFence q.1.desc))
    match ready with
    | none => s
    | some q =>
      let f := sgFence q.1.desc
      let x := { x with stageQ := x.stageQ.eraseIdx q.2
                        fences := tset 0 x.fences f ((tget 0 x.fences f + 1) % 2 ^ 32)
                        fenceSt := if tget 0 x.fenceSt f = 0 then tset 0 x.fenceSt f q.1.status else x.fenceSt }
      State.settleFences p n ((s.setPart p x).wakeFence p f)

/-- A stage ends with a status (R142, R144): its host command completes, its fence counts in order. -/
def State.endStage (s : State) (p id st : Nat) : State :=
  let x := s.part p
  let cmd := (x.stageQ.find? (fun e => e.id == id)).bind (·.cmd)
  let q := x.stageQ.map (fun e => if e.id = id then { e with phase := 2, status := st, cmd := none } else e)
  let s := s.setPart p { x with stageQ := q }
  State.admitStages p 256 (State.settleFences p q.length (s.completeOpt cmd st 0 0))

/-- A partition's stages are abandoned, its queue emptied and its fences reset (R144); their host commands complete with
the status of the event. -/
def State.abandonStages (s : State) (p st : Nat) : State :=
  let x := s.part p
  let s := x.stageQ.foldl (fun s e => s.completeOpt e.cmd st 0 0) s
  let s := { s with mesh := { s.mesh with vc2 := s.mesh.vc2.filter (fun r =>
                      match r.writer with | .stager p' _ _ _ _ => p' != p | _ => true) }
                    decks := { s.decks with stagers := tmap {} (fun (x : Stager) =>
                      { x with q := x.q.filter (fun u => u.part != p) }) s.decks.stagers } }
  (s.setPart p { s.part p with stageQ := [], fences := [], fenceSt := [] }).pumpStages

end Sys2Proof.Machine
end

