-- ==== Sys2Proof/Machine/ReadOps.lean ====
section
/-! DEFINITION. The descriptors of a rod's engines (R77, R95 to R98), draws (R68, R210), and read-outs and deck moves as a
fence or a lost packet may find them: written in part (R27, R84, R89, R119). -/

namespace Sys2Proof.Machine

open Sys2Proof

/-- Bytes of an operand cache (R112). -/
def cacheBytes : Nat := 8388608

/-- The cache banks that a span touches, as a mask (R112). -/
def bankMask (a n : Nat) : Nat :=
  if n = 0 then 0
  else maskOf ((upto ((a + n - 1) / 131072 - a / 131072 + 1)).map (fun i => a / 131072 + i))

/-- Where the part's own draws of a partition come from (R210): RUN_SEED and S while RUNNING, seed 0 and step 0 while
IDLE. -/
def State.partDraw (s : State) (p stream layer : Nat) : Draw :=
  if s.o (kRUN_STATE p) = 1 then
    { seed := s.o (kRUN_SEED p), stream := stream, step := s.o (kRUN_STEP p), layer := layer }
  else { seed := 0, stream := stream, step := 0, layer := layer }

/-- A conversion's rounding of logical element `i` (R54, R55, R68): gradient class uses the part's stream `own`. No rule gives
the stream of a stochastic conversion that is not of gradient class: it is the one declared with the operation (DESIGN CHOICE,
log entry 162). -/
def State.convRnd (s : State) (p ccw own : Nat) (dd : DrawDecl) (i : Nat) : Rnd :=
  cwRnd ccw ((s.partDraw p (if cwGrad ccw then own else dd.stream) dd.layer).elem i)

/-! Matrix descriptor fields (R77). -/

def mdOp (d : BitVec 512) : Nat := bits d 3 0
def mdPair (d : BitVec 512) : Nat := bits d 11 8
def mdBank (d : BitVec 512) : Nat := bits d 12 12
def mdAcc (d : BitVec 512) : Bool := bit d 13
def mdTA (d : BitVec 512) : Bool := bit d 14
def mdTB (d : BitVec 512) : Bool := bit d 15
/-- RO_EN; READOUT treats it as 1, CLEAR ignores it (R78). -/
def mdRoEn (d : BitVec 512) : Bool := mdOp d == 2 || (mdOp d == 1 && bit d 16)
def mdRoDest (d : BitVec 512) : Nat := bits d 18 17
def mdM (d : BitVec 512) : Nat := bits d 25 19
def mdN (d : BitVec 512) : Nat := bits d 32 26
def mdK (d : BitVec 512) : Nat := bits d 49 33
def mdTsA (d : BitVec 512) : F32 := BitVec.ofNat 32 (bits d 95 64)
def mdTsB (d : BitVec 512) : F32 := BitVec.ofNat 32 (bits d 127 96)
def mdCcw (d : BitVec 512) : Nat := bits d 159 128
def mdA (d : BitVec 512) : Nat := bits d 183 160
def mdAStr (d : BitVec 512) : Nat := bits d 207 184
def mdB (d : BitVec 512) : Nat := bits d 231 208
def mdBStr (d : BitVec 512) : Nat := bits d 255 232
def mdSca (d : BitVec 512) : Nat := bits d 279 256
def mdScaStr (d : BitVec 512) : Nat := bits d 295 280
def mdScb (d : BitVec 512) : Nat := bits d 319 296
def mdScbStr (d : BitVec 512) : Nat := bits d 335 320
def mdRo (d : BitVec 512) : Nat := bits d 375 336
def mdRoStr (d : BitVec 512) : Nat := bits d 399 376
def mdRoSc (d : BitVec 512) : Nat := bits d 439 400
def mdRoScStr (d : BitVec 512) : Nat := bits d 455 440
def mdRoTs (d : BitVec 512) : F32 := BitVec.ofNat 32 (bits d 503 472)

/-- Format codes (R56) of the operands of a pairing (R72). -/
def pairA (p : Nat) : Nat := match p with | 0 => 1 | 1 => 0 | 2 => 2 | 3 => 2 | 4 => 3 | _ => 1
def pairB (p : Nat) : Nat := match p with | 0 => 1 | 1 => 0 | 2 => 2 | 3 => 3 | 4 => 3 | 5 => 2 | _ => 3
/-- Bytes of `n` elements of a format. -/
def fmtBytes (f n : Nat) : Nat := match f with | 0 => 4 * n | 1 => 2 * n | 2 => n | _ => (n + 1) / 2
/-- Is the format a bead format? -/
def isBead (f : Nat) : Bool := decide (2 ≤ f)

/-- End of the span of an operand: `rows` stored rows of `len` elements. A bead operand counts its K elements, not the padding of
its last block, which the array takes as code 0 whatever memory holds there (R76); so for the check of R79 and for the cache banks
of R88 (DEDUCED, log entry 42). -/
def spanEnd (a stride rows f len : Nat) : Nat := a + (rows - 1) * stride + fmtBytes f len

/-- Stored rows and row length of operands A and B (R74). -/
def rowsA (d : BitVec 512) : Nat × Nat := if mdTA d then (mdK d, mdM d) else (mdM d, mdK d)
def rowsB (d : BitVec 512) : Nat × Nat := if mdTB d then (mdK d, mdN d) else (mdN d, mdK d)
def mdBlocks (d : BitVec 512) : Nat := (mdK d + 31) / 32

/-- Elements of a read-out row in the destination: whole blocks for a bead format (R84). -/
def roRowBytes (d : BitVec 512) : Nat :=
  let f := cwDst (mdCcw d)
  if isBead f then fmtBytes f (32 * ((mdN d + 31) / 32)) else fmtBytes f (mdN d)

/-- Cache banks that a MATMUL reads and a read-out writes (R88, R114). -/
def mdReads (d : BitVec 512) : Nat :=
  if mdOp d ≠ 1 then 0
  else
    let a := rowsA d
    let b := rowsB d
    let f := pairA (mdPair d)
    let g := pairB (mdPair d)
    bankMask (mdA d) (spanEnd (mdA d) (mdAStr d) a.1 f a.2 - mdA d)
      ||| bankMask (mdB d) (spanEnd (mdB d) (mdBStr d) b.1 g b.2 - mdB d)
      ||| (if isBead f then bankMask (mdSca d) ((mdM d - 1) * mdScaStr d + mdBlocks d) else 0)
      ||| (if isBead g then bankMask (mdScb d) ((mdN d - 1) * mdScbStr d + mdBlocks d) else 0)

def mdWrites (d : BitVec 512) : Nat :=
  if mdRoEn d && mdRoDest d = 0 then
    bankMask (mdRo d) ((mdM d - 1) * mdRoStr d + roRowBytes d)
      ||| (if isBead (cwDst (mdCcw d)) then bankMask (mdRoSc d) ((mdM d - 1) * mdRoScStr d + (mdN d + 31) / 32) else 0)
  else 0

/-- Streaming cycles (R86). -/
def mdStream (d : BitVec 512) : Nat :=
  match mdPair d with
  | 0 => mdK d
  | 1 => 4 * mdK d
  | 2 => 8 * mdBlocks d
  | 3 => 8 * mdBlocks d
  | 4 => 4 * mdBlocks d
  | _ => 32 * mdBlocks d

/-- Read-out cycles (R86). R86 gives a bead destination 72 cycles and the upper deck 64: a bead read-out to the upper deck takes
64 here (DESIGN CHOICE, log entry 161). -/
def mdRoCycles (d : BitVec 512) : Nat := if mdRoDest d = 0 && isBead (cwDst (mdCcw d)) then 72 else 64

/-! Vector header and stage fields (R95, R96, R98). -/

def vdOp (d : BitVec 1536) : Nat := bits d 3 0
def vdWidth (d : BitVec 1536) : Nat := bits d 8 8
def vdMask (d : BitVec 1536) : Nat := bits d 11 9
def vdMaskEn (d : BitVec 1536) : Bool := bit d 12
def vdZero (d : BitVec 1536) : Bool := bit d 13
def vdSat (d : BitVec 1536) : Bool := bit d 14
def vdCount (d : BitVec 1536) : Nat := bits d 30 16
/-- Kind of source `k` (R95): 0 unused, 1 F32, 2 HB16, 3 BD8, 4 BD4, 5 and 6 the accumulator banks. -/
def vdSrc (d : BitVec 1536) (k : Nat) : Nat := bits d (34 + 3 * k) (32 + 3 * k)
def vdDstEn (d : BitVec 1536) : Bool := bit d 41
def vdStages (d : BitVec 1536) : Nat := bits d 45 42
def vdAddr (d : BitVec 1536) (k : Nat) : Nat := bits d (87 + 24 * k) (64 + 24 * k)
def vdDst (d : BitVec 1536) : Nat := bits d 159 136
def vdSc (d : BitVec 1536) (k : Nat) : Nat := bits d (183 + 24 * k) (160 + 24 * k)
def vdDstSc (d : BitVec 1536) : Nat := bits d 255 232
def vdTs (d : BitVec 1536) (k : Nat) : F32 := BitVec.ofNat 32 (bits d (287 + 32 * k) (256 + 32 * k))
def vdDstTs (d : BitVec 1536) : F32 := BitVec.ofNat 32 (bits d 383 352)
def vdDeck (d : BitVec 1536) : Nat := bits d 439 400
def vdBytes (d : BitVec 1536) : Nat := bits d 463 440

/-- Stage `k`, 128 bits. -/
def vdStage (d : BitVec 1536) (k : Nat) : BitVec 128 := BitVec.ofNat 128 (bits d (639 + 128 * k) (512 + 128 * k))
def sgSop (t : BitVec 128) : Nat := bits t 5 0
/-- Operand selector 0 = a, 1 = b, 2 = c. -/
def sgSel (t : BitVec 128) (k : Nat) : Nat := bits t (8 + 3 * k) (6 + 3 * k)
def sgSreg (t : BitVec 128) (k : Nat) : Nat := bits t (20 + 6 * k) (15 + 6 * k)
def sgKeep (t : BitVec 128) : Bool := bit t 33
def sgMout (t : BitVec 128) : Nat := bits t 36 34
def sgMoutEn (t : BitVec 128) : Bool := bit t 37
def sgCond (t : BitVec 128) : Nat := bits t 40 38
def sgTbl (t : BitVec 128) : Nat := bits t 42 41
def sgRed (t : BitVec 128) : Nat := bits t 45 43
def sgSeg (t : BitVec 128) : Nat := bits t 49 46
def sgRsreg (t : BitVec 128) : Nat := bits t 55 50
def sgCcw (t : BitVec 128) : Nat := bits t 95 64
def sgImm (t : BitVec 128) : F32 := BitVec.ofNat 32 (bits t 127 96)

/-- The last stage of a chain. -/
def vdLast (d : BitVec 1536) : BitVec 128 := vdStage d (vdStages d - 1)

/-- Format code (R56) of a source kind that lies in the cache. -/
def srcFmt (k : Nat) : Nat := k - 1

/-- Format (R56) and element count of the destination in the cache, if the descriptor writes one. -/
def vdDstFmt (d : BitVec 1536) : Option (Nat × Nat) :=
  match vdOp d with
  | 1 =>
    let l := vdLast d
    if !vdDstEn d then none
    else if sgSop l = 0x12 then some (0, vdCount d / 2 ^ sgSeg l)
    else if sgSop l = 0x10 then
      let f := cwDst (sgCcw l)
      some (f, if isBead f then 32 * ((vdCount d + 31) / 32) else vdCount d)
    else some (vdWidth d, vdCount d)
  | 8 => none
  | 9 => none
  | 10 => none
  | _ => if vdDstEn d then some (srcFmt (vdSrc d 0), vdCount d) else none

/-- Cache banks that a vector descriptor reads and writes (R114). -/
def vdReads (d : BitVec 1536) : Nat :=
  if vdOp d = 9 then 0
  else if vdOp d = 10 then bankMask (vdAddr d 0) (vdBytes d)
  else if vdOp d = 8 then bankMask (vdAddr d 0) 1036
  else
    (upto 3).foldl (fun m k =>
      let f := vdSrc d k
      if f = 0 || 5 ≤ f then m
      else
        let n := vdCount d
        m ||| bankMask (vdAddr d k) (fmtBytes (srcFmt f) n)
          ||| (if 3 ≤ f then bankMask (vdSc d k) ((n + 31) / 32) else 0)) 0

def vdWrites (d : BitVec 1536) : Nat :=
  if vdOp d = 9 then bankMask (vdDst d) (vdBytes d)
  else match vdDstFmt d with
    | some (f, n) =>
      bankMask (vdDst d) (fmtBytes f n) ||| (if isBead f then bankMask (vdDstSc d) (n / 32) else 0)
    | none => 0

/-- Accumulator banks that a chain reads, as a mask (R82, R111). -/
def vdAccBanks (d : BitVec 1536) : Nat :=
  if vdOp d ≠ 1 then 0
  else (upto 3).foldl (fun m k => if vdSrc d k = 5 then m ||| 1 else if vdSrc d k = 6 then m ||| 2 else m) 0

/-- Lanes at a width (R91). -/
def lanes (w : Nat) : Nat := if w = 0 then 256 else 512

/-- Sources that the descriptor reads by data address. -/
def vdUsed (d : BitVec 1536) : List Nat := (upto 3).filter (fun k => vdSrc d k != 0)

/-- Cycles of a chain's stages in one pass (R100). -/
def sopCycles (op : Nat) : Nat := if op = 0 then 0 else if 0x0B ≤ op && op ≤ 0x0F then 2 else 1

/-- Accesses of up to 1 KiB that a span takes of each bank it touches (R112), one bank for each access: as few as its bytes
in the bank need (DEDUCED, log entry 164). -/
def spanAccesses (a n : Nat) : List Nat :=
  if n = 0 then []
  else (upto ((a + n - 1) / 131072 - a / 131072 + 1)).flatMap (fun i =>
    let b := a / 131072 + i
    let k := min (a + n) (131072 * (b + 1)) - max a (131072 * b)
    List.replicate ((k + 1023) / 1024) b)

/-- The bank accesses of pass `k` of a chain (R92, R116): sources, scale planes and destination. -/
def passSpans (d : BitVec 1536) (k : Nat) : List Nat :=
  let l := lanes (vdWidth d)
  let n := min l (vdCount d - k * l)
  let row (f a sc m : Nat) : List Nat :=
    spanAccesses (a + fmtBytes f (k * l)) (fmtBytes f m)
      ++ (if isBead f then spanAccesses (sc + k * l / 32) ((m + 31) / 32) else [])
  let src := (vdUsed d).flatMap (fun j => if 5 ≤ vdSrc d j then [] else row (srcFmt (vdSrc d j)) (vdAddr d j) (vdSc d j) n)
  let dst := match vdDstFmt d with
    | some (f, _) =>
      if sgSop (vdLast d) = 0x12 then
        let z := 2 ^ sgSeg (vdLast d)
        spanAccesses (vdDst d + 4 * (k * l / z)) (4 * ((k * l + n) / z - k * l / z))
      else row f (vdDst d) (vdDstSc d) (if isBead f then 32 * ((n + 31) / 32) else n)
    | none => []
  src ++ dst

/-- Passes of a vector operation (R92, R116). -/
def vecPasses (d : BitVec 1536) : Nat := (vdCount d + lanes (vdWidth d) - 1) / lanes (vdWidth d)

/-- Most accesses that one pass makes to any single bank (R116). -/
def passAccesses (d : BitVec 1536) : Nat :=
  (upto (vecPasses d)).foldl (fun m k =>
    let all := passSpans d k
    all.foldl (fun m b => max m (all.filter (· == b)).length) m) 0

/-- Cycles of one pass, C (R116). -/
def vecC (d : BitVec 1536) : Nat :=
  if vdOp d = 1 then
    max (((upto (vdStages d)).map (fun k => sopCycles (sgSop (vdStage d k)))).foldl (· + ·) 0) (passAccesses d)
  else 1

/-- Cycles from a vector operation's start to its completion, without contention (R116). -/
def vecCycles (d : BitVec 1536) : Nat :=
  match vdOp d with
  | 1 => 20 + vecC d * vecPasses d + (if sgSop (vdLast d) = 0x12 then 16 else 0)
  | 8 => 12
  | 2 => 20 + vecPasses d + (vdCount d + 63) / 64
  | _ => 20 + vecPasses d

/-- First rod cycle after the last reads of bank `b` by the started chains issued before `seq` (R82). -/
def Rod.readEnd (r : Rod) (b seq : Nat) : Nat :=
  (r.accReads.filter (fun x => x.bank == b && decide (x.seq < seq))).foldl (fun m x => max m x.until_) 0

/-- Is a chain that reads accumulator bank `b` and was issued before `seq` still to read it (R82)? One that has started is
over with the bank at its last read. -/
def Rod.chainReads (r : Rod) (cycle b seq : Nat) : Bool :=
  r.vq.any (fun e => decide (e.seq < seq) && (vdAccBanks e.desc).testBit b) || decide (cycle < r.readEnd b seq)

/-- Do two operations on a rod's cache need an order (R114)? -/
def bankClash (r1 w1 r2 w2 : Nat) : Bool := (w1 &&& (r2 ||| w2)) != 0 || (r1 &&& w2) != 0

/-- Does an operation of the rod issued before `seq` still touch cache banks in a way that needs an order (R88, R114)?
A MATMUL's operand reads end with its streaming. -/
def Rod.clash (r : Rod) (cycle seq rd wr : Nat) : Bool :=
  r.mq.any (fun e => decide (e.seq < seq) &&
    bankClash (if e.phase = .queued || (e.phase = .streaming && cycle < e.start + mdStream e.desc) then mdReads e.desc
               else 0) (mdWrites e.desc) rd wr)
  || r.vq.any (fun e => decide (e.seq < seq) && bankClash (vdReads e.desc) (vdWrites e.desc) rd wr)
  || (match r.vrun with
      | some v => decide (v.op.seq < seq) && bankClash (vdReads v.op.desc) (vdWrites v.op.desc) rd wr
      | none => false)
  || r.dq.any (fun e => decide (e.seq < seq) && bankClash (vdReads e.desc) (vdWrites e.desc) rd wr)

/-- Is a matrix operation on bank `b` issued before `seq` unfinished (R82)? -/
def Rod.matBusy (r : Rod) (b seq : Nat) : Bool :=
  r.mq.any (fun e => decide (e.seq < seq) && mdBank e.desc == b)

/-- A bank set to `+0` with its status word cleared (R78, R89). -/
def Rod.zeroBank (r : Rod) (b : Nat) : Rod :=
  { r with banks := tclear r.banks (4096 * b) 4096, bsw := terase r.bsw b }

/-- A matrix operation leaves the queue. -/
def Rod.dropOp (r : Rod) (seq : Nat) : Rod := { r with mq := r.mq.filter (fun x => x.seq != seq) }

/-- Waits on a bank end: for what waits on any operation, and for what waits on read-outs, CLEARs and chain reads alone. -/
def Rod.freeBank (r : Rod) (b c : Nat) : Rod := { r with bankAt := tset 0 r.bankAt b (max c (tget 0 r.bankAt b)) }

/-- An operation that used the cache is over: what waited for it may use its banks from cycle `c` on (R88, R114). -/
def Rod.freeCache (r : Rod) (c : Nat) : Rod := { r with freeAt := max c r.freeAt }

/-- Cycles that a CLEAR takes (R86). -/
def clearCycles : Nat := 16

/-- First cycle in which an accepted CLEAR or READOUT of a free bank runs (R82, R86). -/
def Rod.bankFrom (r : Rod) (e : MatOp) : Nat :=
  let b := mdBank e.desc
  max (e.accepted + 1) (max (r.readEnd b e.seq) (max (tget 0 r.bankAt b) (tget 0 r.bankAt (2 + b))))

/-- Queued CLEARs whose bank is free of earlier operations begin, unless a hard switch holds them, and end 16 cycles later
(R78, R82, R86). -/
def Rod.runClears (cycle : Nat) (go : Bool) : Nat → Rod → Rod
  | 0, r => r
  | n + 1, r =>
    match r.mq.find? (fun e => e.phase = .clearing && decide (e.start + clearCycles ≤ cycle)) with
    | some e =>
      let b := mdBank e.desc
      Rod.runClears cycle go n (((r.dropOp e.seq).freeBank b (e.start + clearCycles)).freeBank (2 + b)
        (e.start + clearCycles))
    | none =>
      match r.mq.find? (fun e => go && mdOp e.desc == 3 && e.phase = .queued && !r.matBusy (mdBank e.desc) e.seq
          && !r.chainReads cycle (mdBank e.desc) e.seq && decide (r.bankFrom e ≤ cycle)) with
      | some e =>
        let q := r.mq.map (fun x => if x.seq = e.seq then { x with phase := .clearing, start := r.bankFrom e } else x)
        Rod.runClears cycle go n ({ r with mq := q }.zeroBank (mdBank e.desc))
      | none => r

/-- First cycle from which the cache banks that a read-out writes are free of earlier operations that are over, or whose
streaming is (R88, R114). -/
def Rod.cacheFrom (r : Rod) (e : MatOp) : Nat :=
  (r.mq.filter (fun x => decide (x.seq < e.seq) && decide (x.phase = .streaming)
    && bankClash (mdReads x.desc) 0 0 (mdWrites e.desc))).foldl (fun m x => max m (x.start + mdStream x.desc)) r.freeAt

/-- First cycle of a read-out that may begin (R82, R84, R86, R88): after its bank's completion, or of a READOUT whose bank is
free of earlier operations, once no earlier operation holds the cache banks that it writes. -/
def Rod.roFrom (r : Rod) (cycle : Nat) (e : MatOp) : Option Nat :=
  if r.clash cycle e.seq 0 (mdWrites e.desc) then none
  else if e.phase = .held then some (max (e.start + 1) (r.cacheFrom e))
  else if e.phase = .queued && mdOp e.desc == 2 && !r.matBusy (mdBank e.desc) e.seq
      && !r.chainReads cycle (mdBank e.desc) e.seq then some (max (r.bankFrom e) (r.cacheFrom e))
  else none

/-- Read-outs that may run begin; a hard switch holds a READOUT that has not begun (R86, R348). -/
def Rod.runReadouts (r : Rod) (cycle : Nat) (go : Bool) : Rod :=
  { r with mq := r.mq.map (fun e =>
      match r.roFrom cycle e with
      | some c => if c ≤ cycle + 1 && (go || e.phase = .held) then { e with phase := .reading, start := c - 1 } else e
      | none => e) }

def Rod.settleAt (r : Rod) (cycle : Nat) (go : Bool) : Rod :=
  (Rod.runClears cycle go (2 * r.mq.length) r).runReadouts cycle go

/-- Has a read-out written for its whole time by the end of the cycle (R86)? -/
def MatOp.readEnds (e : MatOp) (cycle : Nat) : Bool :=
  decide (e.phase = .reading) && decide (e.start + mdRoCycles e.desc ≤ cycle)

/-- A hard switch has stopped issue to the engines of the rod (R348). -/
def State.switching (s : State) (rod : Nat) : Bool := (s.part (s.owner rod)).switch.isSome

/-- Bytes and measurements of one read-out row: data, scale bytes (R84). -/
def State.roRow (s : State) (p : Nat) (r : Rod) (e : MatOp) (m : Nat) : List Byte × List Byte × ConvAcc :=
  let d := e.desc
  let c := mdCcw d
  let xs := (upto (mdN d)).map (fun n => tget (0 : F32) r.banks (4096 * mdBank d + 64 * m + n))
  let rnd (n : Nat) : Rnd := s.convRnd p c 0xF0000100 e.draw (e.draw.base + m * e.draw.row + n)
  match cwDst c with
  | 0 => (xs.flatMap (fun x => leBytes 4 x.toNat), [], {})
  | 1 =>
    let es := xs.zipIdx.map (fun q =>
      narrow fmt16 (cwSat c) (some e.ts) (rnd q.2) (f32dec q.1))
    (es.flatMap (fun q => leBytes 2 q.1), [], es.foldl (fun a q => a.join q.2) {})
  | f =>
    let b := if f = 2 then bd8 else bd4
    let en := encodeRow b e.ts rnd (xs.map (fun x => some (f32dec x)))
    (packCodes b en.2.1, en.1.map (BitVec.ofNat 8), en.2.2)

/-- Write bytes into a partition's upper-deck space; a span that no longer resolves, or a ring slot that is not reserved
(R165), is written nothing and is reported. -/
def State.udPut (s : State) (p a : Nat) (bs : List Byte) : State × Nat :=
  match s.udPhys p a bs.length true with
  | some x =>
    if !s.ringOk p a bs.length then (s, stTY_ORDER) else
    let (d, cut) := s.decks.udWrite x bs
    let s := { s with decks := d }
    if cut then (s.errRec (uncorrRec p x), stDECK_UNCORR) else (s, 0)
  | none => (s, stDECK_RANGE)

/-- A rod's writes over the mesh into reserved ring slots are VC2 writes of at most 4 KiB that await their acknowledgements
(R24, R28, R164); `done` says that their bytes are in place. -/
def State.tallyWrite (s : State) (p rod a n dst : Nat) (done : Bool) : State :=
  (packets4k n).foldl (fun s c =>
    (s.ringTouch p (a + c.1) c.2).foldl (fun s x =>
      match s.slotOpen x.1 x.2 with
      | some r =>
        let id := s.mesh.nextId
        { s with mesh := { s.mesh with nextId := id + 1 } }.outstanding2 id p rod dst (a + c.1) c.2 (.tally x.1 r.seq rod) done
      | none => s) s) s

/-- A VC0 request of a rod's engine (R24, R27). -/
def State.farRequest (s : State) (p rod seq a n dst : Nat) : State :=
  { s with mesh := { s.mesh with nextId := s.mesh.nextId + 1 } }.outstanding0 s.mesh.nextId p rod dst a n (.mover rod seq)

/-- Does a packet that a rod sends now reach another rod (R33)? -/
def State.arrives (s : State) (rod dst n : Nat) : Bool :=
  rod == dst || (match s.fate rod dst s.cycle n with | .ok _ => true | .error _ => false)

/-- Write one row of bytes of a read-out to the upper deck (R85): over the mesh where the slice is another rod's (R27, R28); a
packet that the mesh loses writes nothing (R33). -/
def State.rowOut (s : State) (p rod seq a : Nat) (bs : List Byte) : State × Nat :=
  let n := bs.length
  let x := (s.udPhys p a n true).getD (rod * 2 ^ 29)
  let dst := x / 2 ^ 29
  let through := s.arrives rod dst n
  let (s1, st) := if through then s.udPut p a bs else (s, 0)
  if st ≠ 0 || dst = rod then (s1, st)
  else if (s.ringTouch p a n).isEmpty then (s1.farRequest p rod seq a n dst, 0)
  else (s1.tallyWrite p rod a n dst through, 0)

/-- A read-out to the upper deck waits: a row's slice is being zeroed or copied, or the mesh holds injection (R38, R131, R145). -/
def State.roWaits (s : State) (p rod : Nat) (d : BitVec 512) : Bool :=
  mdRoDest d == 1 && (upto (mdM d)).any (fun m =>
    let x := (s.udPhys p (mdRo d + m * mdRoStr d) (roRowBytes d) true).getD (rod * 2 ^ 29)
    let nb := (mdN d + 31) / 32
    let y := if isBead (cwDst (mdCcw d)) then (s.udPhys p (mdRoSc d + m * mdRoScStr d) nb true).getD (rod * 2 ^ 29)
      else rod * 2 ^ 29
    s.decks.busy x (roRowBytes d) || (isBead (cwDst (mdCcw d)) && s.decks.busy y nb)
      || (2 ≤ s.mesh.phase && (x / 2 ^ 29 != rod || y / 2 ^ 29 != rod)))

/-- Write the rows of a read-out to the cache or the upper deck, from row `m` on (R84, R85). -/
def State.roRows (p rod : Nat) (e : MatOp) : Nat → Nat → State × ConvAcc × Nat → State × ConvAcc × Nat
  | 0, _, a => a
  | k + 1, m, (s, acc, st) =>
    let r := s.rod rod
    let d := e.desc
    let (data, sc, c) := s.roRow p r e m
    let acc := acc.join c
    if mdRoDest d = 0 then
      let x := mwrite (mwrite r.cache (mdRo d + m * mdRoStr d) data) (mdRoSc d + m * mdRoScStr d) sc
      State.roRows p rod e k (m + 1) (s.setRod rod { r with cache := x }, acc, st)
    else
      let (s, e1) := s.rowOut p rod e.seq (mdRo d + m * mdRoStr d) data
      let (s, e2) := if sc.isEmpty then (s, 0) else s.rowOut p rod e.seq (mdRoSc d + m * mdRoScStr d) sc
      State.roRows p rod e k (m + 1) (s, acc, if st ≠ 0 then st else if e1 ≠ 0 then e1 else e2)

/-- Move the first `k` bytes of a FILL or SPILL. -/
def State.movePart (s : State) (p rod : Nat) (d : BitVec 1536) (k : Nat) : State :=
  match s.udPhys p (vdDeck d) k (vdOp d == 10) with
  | none => s
  | some x =>
    let r := s.rod rod
    if vdOp d = 9 then s.setRod rod { r with cache := mwrite r.cache (vdDst d) (s.decks.udRead x k) }
    else (s.udPut p (vdDeck d) (mread r.cache (vdAddr d 0) k)).1

/-- A deck move breaks off: the bytes already moved stay (R119); how many the spec leaves open (log entry 18). -/
def State.cutMove (s : State) (rod : Nat) (e : DeckMove) : State :=
  if !e.going || e.lost then s
  else
    let k := (Config.freeValue s.draws).toNat % (vdBytes e.desc / 64 + 1)
    { s with draws := s.draws + 1 }.movePart (s.owner rod) rod e.desc (64 * k)

/-- A rod stops: a read-out in progress leaves the rows it has written (R89), a deck move the bytes it has moved (R119); how
many the spec leaves open (log entry 18). -/
def State.cutRod (s : State) (rod : Nat) : State :=
  let p := s.owner rod
  let r := (s.rod rod).settleAt s.cycle (!s.switching rod)
  let s := r.mq.foldl (fun s e =>
    if e.phase = .reading && e.start < s.cycle && mdRoDest e.desc != 2 then
      let k := (Config.freeValue s.draws).toNat % (mdM e.desc + 1)
      (State.roRows p rod e k 0 ({ s with draws := s.draws + 1 }, {}, 0)).1
    else s) s
  r.dq.foldl (fun s e => s.cutMove rod e) s

/-- A mesh request or write of a rod's engine is lost or refused: its command ends with a status, and the deck move it
served breaks off (R27, R113). -/
def State.failRequest (s : State) (q : MeshReq) (st : Nat) : State :=
  let s := match q.writer with
    | .mover rod seq =>
      let s := s.writesLost rod [seq]
      match (s.rod rod).dq.find? (fun (e : DeckMove) => e.seq == seq) with
      | some e =>
        let s := s.cutMove rod e
        s.setRod rod { s.rod rod with dq := (s.rod rod).dq.map (fun (x : DeckMove) => if x.seq = seq then { x with lost := true } else x) }
      | none => s
    | _ => s
  s.failIssuer q st

end Sys2Proof.Machine
end

