-- ==== Sys2Proof/Machine/MeshOps.lean ====
section
/-! DEFINITION. Fences (R31 to R38) and delivery (R340). -/

namespace Sys2Proof.Machine

open Sys2Proof

/-- The entries of a list of stroke numbers that lie within the last `n` strokes before `m` (R358). -/
def recent (m n : Nat) (l : List Nat) : List Nat := l.filter (fun x => decide (m < x + n))

/-- The partition may be served at a rod's slice (R340): it owns the rod's frame or holds a granted entry for the slice. -/
def State.mayDeliver (s : State) (part rod : Nat) : Bool :=
  s.owner rod == part ||
    ((s.part part).slices.any (fun q => bit q.2 15 && bit q.2 14 && bits q.2 9 0 == rod))

/-! Fences. -/

/-- Level of a rod's fence, counting one in progress (R35). -/
def Rod.fenceLevel (r : Rod) : Nat :=
  match r.st with
  | .fullFenced => 2
  | .coreFenced => max 1 r.target
  | .fencing => r.target
  | _ => 0

/-- Rods that are not fully fenced and not about to be (R35). -/
def State.meshRods (s : State) : List Nat := (upto 576).filter (fun r => (s.rod r).fenceLevel != 2)

/-- A full fence of `rod` keeps the mesh whole (R35): the rest stays connected, every edge group keeps a rod outside a
full fence, and eight rods stay unfenced. -/
def State.fenceAllowed (s : State) (rod : Nat) : Bool :=
  let rest := s.meshRods.filter (fun r => r != rod)
  gridConnected 24 (maskOf rest)
    && (upto 16).all (fun g => (edgeRods g).any (fun r => rest.contains r))
    && decide (8 ≤ ((upto 576).filter (fun r => r != rod && (s.rod r).fenceLevel == 0)).length)

/-- Raise a rod's entry in FENCE_MAP (R36). -/
def State.raiseMap (s : State) (rod level : Nat) : State :=
  let b := (s.blob kFENCE_MAP (rod / 4)).toNat
  let old := nbits b (2 * (rod % 4)) 2
  if level ≤ old && old ≠ 3 then s
  else
    let b' := b - old * 2 ^ (2 * (rod % 4)) + level * 2 ^ (2 * (rod % 4))
    (s.setBlob kFENCE_MAP (rod / 4) [BitVec.ofNat 8 b']).markRwp kFENCE_MAP

/-- The rod stops: what it queued and ran is dropped (R32). R89 calls its accumulator banks lost: nothing reads them before
the reset that ends the fence (DEDUCED, log entry 31). -/
def Rod.stop (r : Rod) : Rod :=
  { r with mq := [], vq := [], vrun := none, dq := [], accReads := [], wait := .none }

/-- The places in a rod's program of its upper-deck writes that are outstanding: SPILLs and read-outs (R164). -/
def Rod.openWrites (r : Rod) : List Nat :=
  (r.dq.filter (fun e => vdOp e.desc == 10)).map (·.seq)
    ++ (r.mq.filter (fun e => mdRoEn e.desc && mdRoDest e.desc == 1)).map (·.seq)

/-- Does the partition's running command name the rod? -/
def State.runsOn (s : State) (rod : Nat) : Bool :=
  match s.runCmd (s.owner rod) with
  | some c => decide (s.owner rod < 16) && c.rods.contains rod
  | none => false

/-- Begin a fence of a rod (R32, R33, R37, R38): it enters FENCING, its command ends with ROD_FENCED, its links close for a
full fence, and a route epoch is prepared. A fence of the same or a lower level changes nothing (R35). -/
def State.startFence (s : State) (rod level : Nat) : State :=
  let r := s.rod rod
  if level ≤ r.fenceLevel then s
  else
    let s := if s.runsOn rod then s.failRun (s.owner rod) stROD_FENCED rod else s
    let s := (if s.owner rod < 16 then s.phaseTick (s.owner rod) else s).cutRod rod
    let s := s.writesLost rod (s.rod rod).openWrites
    let s := s.setRod rod { (s.rod rod).stop with st := .fencing, target := level
                                                  closedAt := if level = 2 then s.cycle + 1 else (s.rod rod).closedAt }
    let s := s.raiseMap rod level
    if level = 2 then
      let s := s.cutFlights
      let m := s.mesh
      { s with mesh := { m with fencing := m.fencing ++ [rod]
                                phase := if m.phase = 0 then 1 else m.phase
                                phaseAt := if m.phase = 0 then s.cycle else m.phaseAt } }
    else s

/-- An automatic fence (R32): fatal-partition record against the owner of the rod's frame, corrected without one. R35
states its checks for requests only, so an automatic full fence is applied without them (DESIGN CHOICE, log entry 22); a
rod that is still OFF is not fenced (DESIGN CHOICE, log entry 23). -/
def State.autoFence (s : State) (rod level : Nat) : State :=
  if level ≤ (s.rod rod).fenceLevel || (s.rod rod).st = .off then s
  else
    let p := s.owner rod
    let rec1 : ErrRec := { cls := if p < 16 then 3 else 1, code := rcFENCE_AUTO
                           part := if p < 16 then p else 0xFF, rod := rod }
    (s.errRec rec1).startFence rod level

/-- An uncorrectable operand-cache error of a rod (R32, R89, R112): its command ends with OPC_UNCORR, a deferred record is
written, and the third within 1,000 strokes core-fences the rod. -/
def State.opcError (s : State) (rod addr : Nat) : State :=
  let r := s.rod rod
  let es := recent s.stroke 1000 r.opcErrs ++ [s.stroke]
  let p := s.owner rod
  let s := s.setRod rod { r with opcErrs := es }
  let s := s.errRec { cls := 2, code := stOPC_UNCORR, rod := rod, part := if p < 16 then p else 0xFF, arg0 := addr }
  if 3 ≤ es.length then s.autoFence rod 1 else s

end Sys2Proof.Machine
end

