-- ==== Sys2Proof/Machine/RodOps.lean ====
section
/-! DEFINITION. What the engines of a rod share: the operand cache and its banks (R112, R114), tensor-scale slots as a
command reads and records them (R66, R208), and failing operations (R89, R119, R461). -/

namespace Sys2Proof.Machine

open Sys2Proof

/-- The operation ends its rod program's command (R89, R119): first status kept, the rod program stops. -/
def State.failRod (s : State) (rod st : Nat) : State :=
  (s.setRod rod { s.rod rod with ended := true }).failRun (s.owner rod) st rod

/-- The lowest of the statuses that apply, 0 if none does (R461). -/
def lowest (l : List (Bool × Nat)) : Nat :=
  (l.filter (·.1)).foldl (fun a x => if a = 0 || x.2 < a then x.2 else a) 0

/-- The TS that a slot supplies to the partition's running command: the slot as it stood when the command started (R66). -/
def State.supply (s : State) (p n : Nat) : State × F32 :=
  match s.runCmd p with
  | some c =>
    (s.setRunCmd p (fun r => { r with slotRead := if r.slotRead.contains n then r.slotRead else r.slotRead ++ [n] }),
      slotTs (tget slotReset c.slots n))
  | none => (s, slotTs (s.slot p n))

/-- A tensor update holds the slot (R223). -/
def State.slotHeld (s : State) (p n : Nat) : Bool :=
  s.reck.tensors.any (fun t => t.part == p && t.slot == n)

/-- A conversion of the running command that names slot `n` is complete: what it measured joins what the command's other
conversions of that slot measured on all rods (R66). R116 has the slot recorded when a chain completes, R66 once when the
command completes: the model records there (DEDUCED, log entry 30). -/
def State.record (s : State) (p n : Nat) (a : ConvAcc) : State :=
  s.setRunCmd p (fun r => { r with convs :=
    (n, ((r.convs.find? (fun x => x.1 == n)).map (fun x => x.2.join a)).getD a) :: r.convs.filter (fun x => x.1 != n) })

/-- The slot that a cycle's events leave: its conversions in the order of their submission, then its host writes (R66, R67). -/
def SlotCycle.value (e : SlotCycle) : BitVec 1024 :=
  e.writes.foldl slotWrite (e.recs.foldl (fun x r => slotRecord x r.2) e.before)

/-- What this cycle has done to a slot so far. -/
def State.slotCycle (s : State) (p n : Nat) : SlotCycle :=
  let x := s.slot p n
  match (s.part p).slotLog.find? (fun e => e.slot == n && e.cycle == s.cycle && e.after == x) with
  | some e => e
  | none => { slot := n, cycle := s.cycle, before := x, after := x }

/-- A cycle's events on a slot, put into effect. -/
def State.putCycle (s : State) (p : Nat) (e : SlotCycle) : State :=
  let s := s.setSlot p e.slot e.value
  let x := s.part p
  s.setPart p { x with slotLog := { e with after := e.value } ::
                         x.slotLog.filter (fun y => y.slot != e.slot && y.cycle == s.cycle) }

/-- A conversion among those of its cycle, in the order of submission (R67). -/
def insertConv (x : Nat × ConvAcc) : List (Nat × ConvAcc) → List (Nat × ConvAcc)
  | [] => [x]
  | y :: t => if x.1 < y.1 then x :: y :: t else y :: insertConv x t

/-- A command that named the slot has completed without a status (R66, R67); while a tensor update holds the slot it is not
recorded (R223), unless the update ends in the same cycle. -/
def State.recordSlot (s : State) (p n sub : Nat) (a : ConvAcc) : State :=
  let e := s.slotCycle p n
  s.putCycle p (if s.slotHeld p n then { e with missed := e.missed ++ [(sub, a)] } else { e with recs := insertConv (sub, a) e.recs })

/-- A tensor update records its slot (R198, R223). -/
def State.recordTensor (s : State) (t : TensorUpd) : State :=
  let e := s.slotCycle t.part t.slot
  s.putCycle t.part { e with recs := ((t.sub, t.acc) :: e.missed).foldl (fun l x => insertConv x l) e.recs, missed := [] }

/-- A host write of a slot, behind the completions of its cycle (R66). -/
def State.writeSlot (s : State) (p n : Nat) (v : BitVec 1024) : State :=
  let e := s.slotCycle p n
  s.putCycle p { e with writes := e.writes ++ [v] }

/-- A command that ends without a status records one entry in each slot that its conversions named (R66, R67). -/
def State.recordSlots (s : State) (p : Nat) (r : RunCmd) : State :=
  r.convs.foldl (fun s x => s.recordSlot p x.1 r.sub x.2) s

/-- Add to one of the eight counters of a context's account (R351). -/
def State.charge (s : State) (p c k n : Nat) : State :=
  if c < 8 then
    let x := s.ctx p c
    s.setCtx p c { x with account := tset 0 x.account k (satAdd 64 (tget 0 x.account k) n) }
  else s

/-- The oldest deck move begins once nothing earlier holds its cache banks (R113, R114). A remote span is requests on the
mesh of at most 4 KiB (R24, R27), and remote writes into reserved ring slots are writes on VC2 (R28, R164); the mover sends all of
them when it begins (DESIGN CHOICE, log entry 170). -/
def State.startMove (s : State) (rod : Nat) : State :=
  let r := s.rod rod
  match r.dq with
  | [] => s
  | e :: t =>
    if e.going || s.switching rod || r.clash s.cycle e.seq (vdReads e.desc) (vdWrites e.desc) then s
    else
      let p := s.owner rod
      let n := vdBytes e.desc
      let dst := ((s.udPhys p (vdDeck e.desc) 64 false).getD (rod * 2 ^ 29)) / 2 ^ 29
      if dst = rod then s.setRod rod { r with dq := { e with going := true } :: t }
      else
        let pk := packets4k n
        let ring (c : Nat × Nat) : Bool := vdOp e.desc = 10 && !(s.ringTouch p (vdDeck e.desc + c.1) c.2).isEmpty
        let far := pk.filter (fun c => !ring c)
        let ids := (upto far.length).map (fun i => s.mesh.nextId + i)
        let s := s.setRod rod { r with dq := { e with going := true, req := ids } :: t }
        let s := far.foldl (fun s c => s.farRequest p rod e.seq (vdDeck e.desc + c.1) c.2 dst) s
        (pk.filter ring).foldl (fun s c => s.tallyWrite p rod (vdDeck e.desc + c.1) c.2 dst false) s

/-- What has become due on a rod: queued CLEARs and the oldest deck move (R82, R86, R114). -/
def State.settleRod (s : State) (rod : Nat) : State :=
  (s.setRod rod ((s.rod rod).settleAt s.cycle (!s.switching rod))).startMove rod

end Sys2Proof.Machine
end

