-- ==== Sys2Proof/Machine/Matrix.lean ====
section
/-! DEFINITION. The matrix array (R72 to R90). -/

namespace Sys2Proof.Machine

open Sys2Proof

/-- Data of an operand span ends inside the cache. -/
def inCache (e : Nat) : Bool := decide (e ≤ cacheBytes)

/-- Statuses of the read-out fields that hold whether or not the bank is read out (R56, R79): of a MATMUL without a
read-out only what a read-out would use is left unchecked (DEDUCED, log entry 32). -/
def roFields (d : BitVec 512) : List (Bool × Nat) :=
  let c := mdCcw d
  let dest := mdRoDest d
  [ (!cwOk c, stFORMAT_INVALID),
    (decide (1 ≤ cwSrc c) && decide (cwSrc c < 4), stDESC_INVALID),
    (dest == 3, stDESC_INVALID),
    (mdRoStr d % 16 != 0, stDESC_INVALID),
    (dest != 2 && mdRo d % 16 != 0, stDESC_INVALID) ]

/-- Statuses of a read-out that takes place (R79, R84, R85). -/
def State.roChecks (s : State) (p : Nat) (d : BitVec 512) : List (Bool × Nat) :=
  let c := mdCcw d
  let f := cwDst c
  let bead := isBead f
  let rows := upto (mdM d)
  let bytes := roRowBytes d
  let nb := (mdN d + 31) / 32
  let dest := mdRoDest d
  [ (dest == 2 && f != 0, stDESC_INVALID),
    (dest == 0 && !inCache (mdRo d + (mdM d - 1) * mdRoStr d + bytes), stDESC_INVALID),
    (dest == 0 && bead && !inCache (mdRoSc d + (mdM d - 1) * mdRoScStr d + nb), stDESC_INVALID),
    (dest == 1 && rows.any (fun m => (s.udPhys p (mdRo d + m * mdRoStr d) bytes true).isNone), stDECK_RANGE),
    (dest == 1 && bead && rows.any (fun m => (s.udPhys p (mdRoSc d + m * mdRoScStr d) nb true).isNone), stDECK_RANGE),
    (dest != 2 && f != 0 && !cwSlotEn c && !scaleOk (mdRoTs d), stSCALE_INVALID) ]

/-- Statuses of the operand fields of a MATMUL (R75, R79). -/
def matmulChecks (d : BitVec 512) : List (Bool × Nat) :=
  let fa := pairA (mdPair d)
  let fb := pairB (mdPair d)
  let ra := rowsA d
  let rb := rowsB d
  [ (decide (6 < mdPair d), stDESC_INVALID),
    (decide (mdK d < 1) || decide (65536 < mdK d), stDESC_INVALID),
    ((mdTA d && isBead fa) || (mdTB d && isBead fb), stDESC_INVALID),
    (mdA d % 16 != 0 || mdAStr d % 16 != 0 || mdB d % 16 != 0 || mdBStr d % 16 != 0, stDESC_INVALID),
    (!inCache (spanEnd (mdA d) (mdAStr d) ra.1 fa ra.2), stDESC_INVALID),
    (!inCache (spanEnd (mdB d) (mdBStr d) rb.1 fb rb.2), stDESC_INVALID),
    (isBead fa && !inCache (mdSca d + (mdM d - 1) * mdScaStr d + mdBlocks d), stDESC_INVALID),
    (isBead fb && !inCache (mdScb d + (mdN d - 1) * mdScbStr d + mdBlocks d), stDESC_INVALID),
    (!scaleOk (mdTsA d) || !scaleOk (mdTsB d), stSCALE_INVALID) ]

/-- Output dimensions (R77). -/
def dimChecks (d : BitVec 512) : List (Bool × Nat) :=
  [ (decide (mdM d < 1) || decide (64 < mdM d) || decide (mdN d < 1) || decide (64 < mdN d), stDESC_INVALID) ]

/-- Status of the acceptance checks of a descriptor (R79, R461). -/
def State.matCheck (s : State) (p : Nat) (d : BitVec 512) : Nat :=
  match mdOp d with
  | 1 => lowest (dimChecks d ++ matmulChecks d ++ roFields d ++ (if mdRoEn d then s.roChecks p d else []))
  | 2 => lowest (dimChecks d ++ roFields d ++ s.roChecks p d)
  | 3 => 0
  | _ => stDESC_INVALID

/-- Accept a matrix descriptor (R79, R86): issue stalls while four are queued; a refused one ends the command. The TS of a
read-out's slot is read now. R86 does not say when a descriptor leaves the queue: here a MATMUL that streams and a CLEAR that
runs have left it, a READOUT under way has not (DESIGN CHOICE, log entry 161). -/
def State.matIssue (s : State) (rod : Nat) (desc : BitVec 512) (draw : DrawDecl) : State :=
  let s := s.settleRod rod
  let p := s.owner rod
  if !s.issues rod || 4 ≤ ((s.rod rod).mq.filter (fun e => e.phase = .queued)).length then s
  else
    let st := s.matCheck p desc
    if st ≠ 0 then s.failRod rod st
    else
      let use := mdRoEn desc && cwSlotEn (mdCcw desc) && mdRoDest desc != 2 && cwDst (mdCcw desc) != 0
      let (s, ts) := if use then s.supply p (cwSlot (mdCcw desc)) else (s, mdRoTs desc)
      let r := s.rod rod
      let e : MatOp := { seq := r.issue, desc := desc, draw := draw, accepted := s.cycle, phase := .queued
                         start := 0, ts := ts }
      (s.setRod rod { r with mq := r.mq ++ [e], issue := r.issue + 1 }).settleRod rod

/-- MATMUL (R78, R79). -/
def execMatmul (rod : Nat) (desc : BitVec 512) (draw : DrawDecl) (s : State) : Out :=
  if mdOp desc = 1 then .next (s.matIssue rod desc draw) else .next s

/-- READOUT (R78, R79). -/
def execReadout (rod : Nat) (desc : BitVec 512) (draw : DrawDecl) (s : State) : Out :=
  if mdOp desc = 2 then .next (s.matIssue rod desc draw) else .next s

/-- CLEAR (R78): the bank becomes `+0` and its status word 0, once earlier operations on the bank have ended (R82, R86). A
descriptor whose OP is invalid is refused here as on every other push of one (R79). -/
def execClear (rod : Nat) (desc : BitVec 512) (s : State) : Out :=
  if mdOp desc = 1 || mdOp desc = 2 then .next s
  else .next (s.matIssue rod desc { stream := 0, layer := 0, base := 0, row := 0 })

/-- Element of a format at a byte address of a cache, `i` elements on; bead codes as exact values (R42 to R44). -/
def cacheElem (c : Mem) (f a i : Nat) : FVal :=
  match f with
  | 0 => fmt32.decode (leNat (mread c (a + 4 * i) 4))
  | 1 => fmt16.decode (leNat (mread c (a + 2 * i) 2))
  | 2 => let v := bd8.value (mget c (a + i)).toNat; .fin (decide (v < 0)) v.natAbs (-6)
  | _ =>
    let b := (mget c (a + i / 2)).toNat
    let v := bd4.value (if i % 2 = 0 then b % 16 else b / 16)
    .fin (decide (v < 0)) v.natAbs (-3)

/-- F32 inputs that are subnormal are zeros of their sign in the array (R59, R80). -/
def flushSub (v : FVal) : FVal :=
  match v with
  | .fin s m e => if m < 2 ^ 23 && e = fmt32.tiny then .fin s 0 e else v
  | _ => v

/-- Operand elements of the array (R74, R76). -/
def elemA (c : Mem) (d : BitVec 512) (m k : Nat) : FVal :=
  if mdK d ≤ k then .fin false 0 0
  else
    let f := pairA (mdPair d)
    let v := if mdTA d then cacheElem c f (mdA d + k * mdAStr d) m else cacheElem c f (mdA d + m * mdAStr d) k
    if f = 0 then flushSub v else v

def elemB (c : Mem) (d : BitVec 512) (k n : Nat) : FVal :=
  if mdK d ≤ k then .fin false 0 0
  else
    let f := pairB (mdPair d)
    let v := if mdTB d then cacheElem c f (mdB d + k * mdBStr d) n else cacheElem c f (mdB d + n * mdBStr d) k
    if f = 0 then flushSub v else v

/-- Block scales, 128 for an HB16 operand (R62, R76). -/
def scaleA (c : Mem) (d : BitVec 512) (m j : Nat) : Nat :=
  if isBead (pairA (mdPair d)) then (mget c (mdSca d + m * mdScaStr d + j)).toNat else 128
def scaleB (c : Mem) (d : BitVec 512) (n j : Nat) : Nat :=
  if isBead (pairB (mdPair d)) then (mget c (mdScb d + n * mdScbStr d + j)).toNat else 128

/-- A signed dyadic sum: integer and exponent. -/
def dyAdd (a b : Int × Int) : Int × Int :=
  let e := min a.2 b.2
  (a.1 * 2 ^ (a.2 - e).toNat + b.1 * 2 ^ (b.2 - e).toNat, e)

/-- Exact product of finite values. -/
def dyMul (a b : FVal) : Int × Int :=
  match a, b with
  | .fin sa ma ea, .fin sb mb eb => (sgn (sa != sb) (ma * mb), ea + eb)
  | _, _ => (0, 0)

/-- An invalid operation makes a NaN from operands that are none (R57, R64). -/
def madeNan : Nsw := nsInvalid ||| nsNonfiniteOut

/-- The IEEE result of products and sums that contain an infinity or a NaN: F32 bits and flags (R80). -/
def nonfiniteDot (xs : List (FVal × FVal)) : F32 × Nsw :=
  let prods := xs.map (fun p =>
    match p.1, p.2 with
    | .fin _ _ _, .fin _ _ _ => (0, (0 : Nsw))
    | .nan s, y => (3, (FVal.nan s).flags ||| y.flags)
    | x, .nan s => (3, x.flags ||| (FVal.nan s).flags)
    | .inf s, .inf t => (if s = t then 1 else 2, nsNonfiniteIn)
    | .inf s, .fin t m _ => if m = 0 then (3, nsNonfiniteIn ||| madeNan) else (if s = t then 1 else 2, nsNonfiniteIn)
    | .fin t m _, .inf s => if m = 0 then (3, nsNonfiniteIn ||| madeNan) else (if s = t then 1 else 2, nsNonfiniteIn))
  let fl := prods.foldl (fun a p => a ||| p.2) 0
  if prods.any (fun p => p.1 == 3) then (0x7FC00000, fl)
  else if prods.any (fun p => p.1 == 1) && prods.any (fun p => p.1 == 2) then (0x7FC00000, fl ||| madeNan)
  else if prods.any (fun p => p.1 == 1) then (0x7F800000, fl) else (0xFF800000, fl)

/-- One contribution (R62, R80): exact products and sums, scaled and rounded once. A zero is +0 under R62; the sign of a zero that
TS × −0 (R52) or a product of PAIR 0x0 or 0x1 gives is not stated, and is + too (DEDUCED, log entry 43). -/
def contribution (xs : List (FVal × FVal)) (scale : Mag) : F32 × Nsw :=
  if xs.any (fun p => !p.1.isFin || !p.2.isFin) then nonfiniteDot xs
  else
    let d := xs.foldl (fun a p => dyAdd a (dyMul p.1 p.2)) (0, 0)
    if d.1 = 0 then (0, 0)
    else scaledF32 (decide (d.1 < 0)) ((Mag.dyadic d.1.natAbs d.2).mul scale)

/-- One RNE addition into an accumulator element: a finite overflow saturates (R63, R81). -/
def accAdd (c : F32) (t : F32) : F32 × Nsw :=
  let r := fmt32.add true c.toNat t.toNat
  (BitVec.ofNat 32 r.1, r.2)

/-- Contributions of an output element, in ascending order of reduction index or block (R80, R81). A block with a zero scale
contributes +0 and no flag under R62 also where it holds an infinity or a NaN, which R80 gives the IEEE result (DEDUCED, log
entry 33). -/
def elemContribs (c : Mem) (d : BitVec 512) (m n : Nat) : List (F32 × Nsw) :=
  let ts := (f32mag (mdTsA d)).mul (f32mag (mdTsB d))
  if mdPair d ≤ 1 then
    (upto (mdK d)).map (fun k => contribution [(elemA c d m k, elemB c d k n)] ts)
  else
    (upto (mdBlocks d)).map (fun j =>
      let sa := scaleA c d m j
      let sb := scaleB c d n j
      if sa = 0 || sb = 0 then (0, 0)
      else
        let xs := (upto 32).map (fun i => (elemA c d m (32 * j + i), elemB c d (32 * j + i) n))
        contribution xs (ts.mul (Mag.quarter ((sa + sb : Nat) - 256))))

/-- The array's work of one MATMUL on a rod (R80, R81, R83). -/
def Rod.compute (r : Rod) (d : BitVec 512) : Rod :=
  let b := mdBank d
  let r := if mdAcc d then r else r.zeroBank b
  let es := (upto (mdM d)).flatMap (fun m => (upto (mdN d)).map (fun n => (m, n)))
  es.foldl (fun r e =>
    let k := 4096 * b + 64 * e.1 + e.2
    let x := (elemContribs r.cache d e.1 e.2).foldl (fun a t =>
      let y := accAdd a.1 t.1
      (y.1, a.2 ||| t.2 ||| y.2)) (tget 0 r.banks k, (0 : Nsw))
    { r with banks := tset 0 r.banks k x.1, bsw := tset 0 r.bsw b (tget 0 r.bsw b ||| x.2) }) r

/-- The MATMUL that may start streaming now (R82, R87, R88): the first queued MATMUL, accepted 24 cycles ago, the array's
streaming over, and no wait on its bank or on operand-cache banks. A MATMUL on the other bank does not pass an earlier one that
still waits (DESIGN CHOICE, log entry 161). -/
def State.mayStream (s : State) (rod : Nat) : Option MatOp :=
  let r := s.rod rod
  match r.mq.find? (fun e => e.phase = .queued && mdOp e.desc == 1) with
  | some e =>
    let b := mdBank e.desc
    let earlier := r.mq.filter (fun x => decide (x.seq < e.seq) && mdBank x.desc == b)
    if !s.switching rod && e.accepted + 24 ≤ s.cycle && r.streamEnd ≤ s.cycle
        && earlier.all (fun x => mdAcc e.desc && mdOp x.desc == 1 && !mdRoEn x.desc)
        && (mdAcc e.desc || decide (tget 0 r.bankAt b ≤ s.cycle))
        && !r.chainReads s.cycle b e.seq
        && !r.clash s.cycle e.seq (mdReads e.desc) 0 then some e
    else none
  | none => none

/-- A corrected operand-cache or accumulator error is counted (R89, R119). -/
def State.engineCorrected (s : State) (rod : Nat) : State :=
  s.setRod rod { s.rod rod with correctedEngine := (s.rod rod).correctedEngine + 1 }

/-- MATMUL_STREAM_START (R87, R89): the descriptor streams; its result is held in the bank and nothing may read it before
the bank is complete (R82). `ecc` is what its operand reads find: an uncorrectable word ends the command instead, with the
bank at `+0`. -/
def execMatmulStreamStart (rod : Nat) (ecc : Ecc) (s : State) : Out :=
  let s := s.settleRod rod
  match s.mayStream rod with
  | none => .next s
  | some e =>
    let r := s.rod rod
    if ecc = .uncorr then
      let r := (r.dropOp e.seq).zeroBank (mdBank e.desc)
      .next (((s.setRod rod r).failRod rod stOPC_UNCORR).opcError rod (mdA e.desc))
    else
      let s := if ecc = .corrected then s.engineCorrected rod else s
      let r := s.rod rod
      let q := r.mq.map (fun x => if x.seq = e.seq then { x with phase := .streaming, start := s.cycle } else x)
      let r := { r with mq := q, streamEnd := s.cycle + mdStream e.desc }
      let p := s.owner rod
      .next ((s.setRod rod (r.compute e.desc)).charge p (s.resident p) 1 (mdStream e.desc))

/-- An uncorrectable accumulator error met by a matrix operation (R89): its bank is `+0`, nothing comes of the descriptor,
its command ends with ACC_UNCORR, and a deferred record is written. -/
def State.accError (s : State) (rod : Nat) (e : MatOp) : State :=
  let b := mdBank e.desc
  let p := s.owner rod
  let s := (s.setRod rod (((s.rod rod).dropOp e.seq).zeroBank b)).failRod rod stACC_UNCORR
  (s.errRec { cls := 2, code := stACC_UNCORR, rod := rod, part := if p < 16 then p else 0xFF, arg0 := b }).settleRod rod

/-- BANK_COMPLETE (R83, R86, R89): the oldest streaming MATMUL has drained, 66 cycles after its streaming; it completes, or
its read-out begins in the next cycle. An uncorrectable accumulator word ends the command instead. -/
def execBankComplete (rod : Nat) (ecc : Ecc) (s : State) : Out :=
  let s := s.settleRod rod
  match (s.rod rod).mq.find? (fun e => e.phase = .streaming) with
  | none => .next s
  | some e =>
    if ecc = .uncorr then .next (s.accError rod e)
    else if s.cycle < e.start + mdStream e.desc + 65 then .next s
    else
      let s := if ecc = .corrected then s.engineCorrected rod else s
      let r := (s.rod rod).freeBank (mdBank e.desc) (s.cycle + 1)
      if mdRoEn e.desc then
        let q := r.mq.map (fun x => if x.seq = e.seq then { x with phase := .held, start := s.cycle } else x)
        .next ((s.setRod rod { r with mq := q }).settleRod rod)
      else
        let s := s.orNsw (s.owner rod) (tget 0 r.bsw (mdBank e.desc))
        .next ((s.setRod rod (r.dropOp e.seq)).settleRod rod)

/-- The read-out of a bank takes place (R84, R85): rows written, or the F32 tile handed to the die's carry unit. -/
def State.readOut (s : State) (rod : Nat) (e : MatOp) : State :=
  let p := s.owner rod
  let d := e.desc
  let r := s.rod rod
  let bsw := tget 0 r.bsw (mdBank d)
  if mdRoDest d = 2 then
    let data := (upto (mdM d)).flatMap (fun m =>
      (upto (mdN d)).map (fun n => tget (0 : F32) r.banks (4096 * mdBank d + 64 * m + n)))
    let t : Tile := { part := p, rod := rod, tag := mdRo d % 2 ^ 16, index := nbits (mdRo d) 16 24, m := mdM d, n := mdN d
                      data := data, bsw := bsw }
    { s with cy := { s.cy with tiles := s.cy.tiles ++ [t] } }.orNsw p bsw
  else
    let (s, acc, st) := State.roRows p rod e (mdM d) 0 (s, {}, 0)
    let s := s.orNsw p (bsw ||| acc.nsw)
    if st ≠ 0 then s.failRod rod st
    else if cwSlotEn (mdCcw d) && cwDst (mdCcw d) != 0 then s.record p (cwSlot (mdCcw d)) acc
    else s

/-- READOUT_END (R84, R86, R88, R89): a read-out that has run its 64 or 72 cycles ends; the descriptor completes. Operations of
the two banks do not wait for each other (R82). An uncorrectable accumulator word ends the command instead. -/
def execReadoutEnd (fin : ReadEnd) (s : State) : Out :=
  let s := s.settleRod fin.rod
  let r := s.rod fin.rod
  match r.mq.find? (fun e => e.readEnds s.cycle) with
  | none => .next s
  | some e =>
    if fin.ecc = .uncorr then .next (s.accError fin.rod e)
    else if s.roWaits (s.owner fin.rod) fin.rod e.desc then .next s
    else
      let s := if fin.ecc = .corrected then s.engineCorrected fin.rod else s
      let s := s.readOut fin.rod e
      let r := (((s.rod fin.rod).dropOp e.seq).freeBank (2 + mdBank e.desc) (s.cycle + 1)).freeCache (s.cycle + 1)
      .next ((s.setRod fin.rod r).settleRod fin.rod)

end Sys2Proof.Machine
end

