-- ==== Sys2Proof/Machine/Flit.lean ====
section
/-! DEFINITION. Flits and messages as bytes (R280, R283, R287, R288, R294). -/

namespace Sys2Proof.Machine

open Sys2Proof

/-- The fields of a flit header (R280). -/
structure FlitHdr where
  msg : Nat
  len : Nat
  hops : Nat
  ack : Nat
  seq : Nat
  crData : Nat
  crCtrl : Nat
  first : Bool
  last : Bool
  enc : Bool
  kind : Nat
  deriving DecidableEq, Repr

def flag (b : Bool) : Nat := if b then 1 else 0

def FlitHdr.toNat (h : FlitHdr) : Nat :=
  h.kind % 16 + flag h.enc * 2 ^ 8 + flag h.last * 2 ^ 9 + flag h.first * 2 ^ 10 + h.crCtrl % 16 * 2 ^ 28
    + h.crData % 2 ^ 32 * 2 ^ 32 + h.seq % 2 ^ 16 * 2 ^ 64 + h.ack % 2 ^ 16 * 2 ^ 80 + h.hops % 16 * 2 ^ 100
    + h.len % 256 * 2 ^ 104 + h.msg % 2 ^ 16 * 2 ^ 112

def FlitHdr.ofNat (n : Nat) : FlitHdr :=
  { msg := nbits n 112 16, len := nbits n 104 8, hops := nbits n 100 4, ack := nbits n 80 16, seq := nbits n 64 16
    crData := nbits n 32 32, crCtrl := nbits n 28 4, first := nbits n 10 1 == 1, last := nbits n 9 1 == 1
    enc := nbits n 8 1 == 1, kind := nbits n 0 4 }

/-- The header of a received flit. -/
def flitHdr (f : List Byte) : FlitHdr := .ofNat (leNat (f.take 16))

/-- The CRC-32C of bytes 0 to 251 (R280). -/
def flitCrcOk (f : List Byte) : Bool := crc32c (f.take 252) == leNat ((f.drop 252).take 4)

/-- A nonce of a link (R288): the key epoch, then the count of slots since CONFIRM, both little-endian (R9). -/
def flitNonce (slot : Nat) : List Byte := leBytes 4 (slot / 2 ^ 31 % 2 ^ 32) ++ leBytes 8 slot

/-- The key of the next epoch (R288). -/
def nextKey (key : List Byte) (epoch : Nat) : List Byte := hkdf256 [] key (Config.epochInfo epoch)

/-- The key of epoch `e`, from that of an earlier epoch `e0`. -/
def keyAt (key : List Byte) (e0 e : Nat) : List Byte := (upto (e - e0)).foldl (fun k i => nextKey k (e0 + i + 1)) key

/-- The tag of a received flit verifies under a key in a slot (R288). -/
def flitTagOk (key : List Byte) (slot : Nat) (f : List Byte) : Bool :=
  gcmTag key (flitNonce slot) (f.take 16) ((f.drop 16).take 224) == (f.drop 240).take 12

/-- The clear payload of a received flit. -/
def flitBody (key : Option (List Byte)) (slot : Nat) (f : List Byte) : List Byte :=
  let c := (f.drop 16).take 224
  match key with
  | some k => if (flitHdr f).enc then gcmCrypt k (flitNonce slot) c else c
  | none => c

/-- A flit to be sent (R280, R288): unused payload bytes, and the tag before CONFIRM, are zeros (DESIGN CHOICE, log entry 173). -/
def sealFlit (key : Option (List Byte)) (slot : Nat) (h : FlitHdr) (body : List Byte) : List Byte :=
  let hd := leBytes 16 h.toNat
  let p := body ++ List.replicate (224 - body.length) 0
  let m := match key with
    | none => hd ++ p ++ List.replicate 12 0
    | some k =>
      let c := if h.enc then gcmCrypt k (flitNonce slot) p else p
      hd ++ c ++ gcmTag k (flitNonce slot) hd c
  m ++ leBytes 4 (crc32c m)

/-! Messages (R283). -/

/-- Flits that a message of `n` data bytes takes (R280, R283). -/
def flitsOf (n : Nat) : Nat := (n + 32 + 223) / 224

def mhDst (h : BitVec 256) : Nat := bits h 63 0
def mhSrc (h : BitVec 256) : Nat := bits h 127 64
def mhFlow (h : BitVec 256) : Nat := bits h 159 128
def mhLen (h : BitVec 256) : Nat := bits h 176 160
def mhKind (h : BitVec 256) : Nat := bits h 191 184
def mhPart (h : BitVec 256) : Nat := bits h 199 192

/-- A message header of this part (R283). -/
def mkHeader (dst part kind flow len : Nat) : BitVec 256 :=
  BitVec.ofNat 256 (dst % 2 ^ 64 + ownNode * 2 ^ 64 + (flow % 2 ^ 32) * 2 ^ 128 + (len % 2 ^ 17) * 2 ^ 160
    + (kind % 256) * 2 ^ 184 + (part % 256) * 2 ^ 192)

/-- What names a flow: SRC, DST, KIND and FLOW (R295). -/
def flowKey (h : BitVec 256) : Nat := mhFlow h + mhKind h * 2 ^ 32 + mhDst h * 2 ^ 40 + mhSrc h * 2 ^ 104

/-- The payload bytes that the flits of a message carry in turn. -/
def messageBytes (hdr : BitVec 256) (data : List Byte) : List Byte := leBytes 32 hdr.toNat ++ data

/-- The data of a received message fit its header (R283). -/
def messageOk (hdr : BitVec 256) (data : List Byte) : Bool :=
  decide (1 ≤ data.length) && decide (data.length ≤ 65536) && mhLen hdr == data.length

/-! The data of CONTROL messages, whose layout the spec does not give (DESIGN CHOICE, log entry 173). -/

def helloData (node fabric : Nat) (enc : Bool) (nonce : BitVec 256) : List Byte :=
  [1] ++ leBytes 8 node ++ leBytes 8 fabric ++ leBytes 1 (flag enc) ++ leBytes 32 nonce.toNat
def certData (chain : List Byte) : List Byte := 2 :: chain
def proofData (m : ProofMsg) : List Byte := [3] ++ leBytes 2 m.sig.length ++ m.sig ++ m.share
def confirmData : List Byte := [4]

/-- Entries of a route advertisement, 12 B each, as many as fit a message. -/
def advertData (adv : List RouteAdv) : List Byte :=
  adv.flatMap (fun a => leBytes 8 a.node ++ leBytes 2 a.cost ++ leBytes 2 a.hops)

end Sys2Proof.Machine
end

