-- ==== Sys2Proof/Machine/OptOps.lean ====
section
/-! DEFINITION. What the optical ports do: interface levels (R447, R448), link states (R285, R286), counters and quarantines
(R290 to R292), routes (R294), sending and transit (R281 to R284, R295, R296). -/

namespace Sys2Proof.Machine

open Sys2Proof

/-! Interface levels (R447, R448). -/

/-- The entry for an interface in an image's levels, if it declares it. -/
def levelEntry (ls : List (BitVec 64)) (i : Nat) : Option (BitVec 64) :=
  if i = 0 then none else ls.find? (fun e => bits e 7 0 == i)

/-- Each side's level lies in the other's range; a side without an entry is not compatible (R448). -/
def levelsAgree : Option (BitVec 64) → Option (BitVec 64) → Bool
  | some a, some b =>
    let own (x : BitVec 64) : Nat := bits x 31 16
    let inside (x y : BitVec 64) : Bool := decide (bits y 47 32 ≤ own x) && decide (own x ≤ bits y 63 48)
    inside a b && inside b a
  | _, _ => false

/-- Levels of a running image; image 0 is the boot ROM. -/
def State.imageLevels (s : State) (i : Nat) : List (BitVec 64) :=
  if i = 0 then s.boot.romLevels
  else match tget none s.boot.loaded i with
    | some x => x.levels
    | none => []

/-! Links (R276, R285). -/

abbrev lkABSENT : Nat := 0
abbrev lkLIGHT : Nat := 1
abbrev lkTRAINING : Nat := 2
abbrev lkAUTH : Nat := 3
abbrev lkACTIVE : Nat := 4
abbrev lkDEGRADED : Nat := 5
abbrev lkQUARANTINED : Nat := 6

/-- Causes and counters (R290). -/
abbrev ctRETRY : Nat := 1
abbrev ctSTALL : Nat := 2
abbrev ctNARROW : Nat := 3
abbrev ctDISCARD : Nat := 4
abbrev ctTAG : Nat := 5
abbrev ctPROTOCOL : Nat := 6
abbrev ctAUTH_FAIL : Nat := 7
abbrev ctAUTH_TIMEOUT : Nat := 8
abbrev ctNOT_PERMITTED : Nat := 9
abbrev ctACK : Nat := 10
abbrev ctHOPS : Nat := 11
abbrev ctNO_ROUTE : Nat := 12

/-- Links into which the split in force divides a port (R276). -/
def State.portLinks (s : State) (p : Nat) : Nat :=
  match tget 0 s.op.split p with | 0 => 1 | 1 => 2 | 2 => 4 | _ => 0

/-- Lanes of a link of the split (R276). -/
def State.linkWidth (s : State) (l : Nat) : Nat := match s.portLinks (l / 4) with | 0 => 0 | n => 32 / n

/-- Restricted mode (R449). -/
def State.restricted (s : State) : Bool := s.o kFW_STATE == 3

/-- The link may leave ABSENT: the split makes it, it is enabled, the optical engines run, and the part is neither restricted,
fatal nor in reset (R276, R285, R293, R438, R467). -/
def State.linkLive (s : State) (l : Nat) : Bool :=
  decide (l < 64) && decide (l % 4 < s.portLinks (l / 4)) && !(s.link l).disabled && !s.restricted
    && decide (5 ≤ s.boot.stage) && !s.boot.holding && !s.fatal

def State.lkState (s : State) (l : Nat) : Nat := s.o (kOP_LINK_STATE l)
/-- ACTIVE or DEGRADED. -/
def State.linkUp (s : State) (l : Nat) : Bool := s.lkState l == lkACTIVE || s.lkState l == lkDEGRADED

def State.emitLink (s : State) (m : LinkOut) : State := { s with op := { s.op with out := s.op.out ++ [m] } }

/-- Retry-buffer flits and class buffer of each link (R281, R282). -/
def State.retrySize (s : State) (l : Nat) : Nat := 32768 / max 1 (s.portLinks (l / 4))
def State.classCredit (s : State) (l h : Nat) : Nat :=
  if h = 0 then 256 else (if h = 8 then 24576 else 1024) / max 1 (s.portLinks (l / 4))

/-! Routes (R294). -/

/-- Cost of a link (R291, R294). -/
def State.linkCost (s : State) (l : Nat) : Nat :=
  128 / max 1 (s.o (kOP_LINK_LANES l)) * (if s.lkState l = lkDEGRADED then 4 else 1)

/-- Next hops of a destination: links of least cost, up to four, ascending (R294). -/
def Route.hops (r : Route) : List Nat :=
  match r.vias with
  | [] => []
  | v :: vs =>
    let c := vs.foldl (fun m x => min m x.cost) v.cost
    (((upto 64).filter (fun l => r.vias.any (fun x => x.link == l && x.cost == c)))).take 4

def State.nextHops (s : State) (node : Nat) : List Nat :=
  match s.op.routes.find? (fun r => r.node == node) with
  | some r => r.hops
  | none => []

/-- A route without the strokes of its advertisements: what a renewal leaves as it is. -/
def Route.bare (r : Route) : Route := { r with vias := r.vias.map (fun v => { v with seen := none }) }

/-- Put a table in place of the old one; OP_ROUTE_COUNT follows (R297). A renewal alone is no change (R294). -/
def State.setRoutes (s : State) (rs : List Route) (gone : List Nat) : State :=
  let new := decide (rs.map Route.bare ≠ s.op.routes.map Route.bare)
  ({ s with op := { s.op with routes := rs, changed := s.op.changed || new, withdrawn := s.op.withdrawn ++ gone } }).setO
    kOP_ROUTE_COUNT rs.length

/-- Add or renew a next hop (R294); a new destination that finds the table full is not added. -/
def State.addVia (s : State) (node : Nat) (v : Via) : State :=
  let rs := s.op.routes
  if rs.any (fun r => r.node == node) then
    s.setRoutes (rs.map (fun r =>
      if r.node ≠ node then r
      else if r.vias.any (fun x => x.link == v.link) then
        { r with vias := r.vias.map (fun x => if x.link = v.link then v else x) }
      else { r with vias := r.vias ++ [v] })) []
  else if 16384 ≤ rs.length then
    if s.op.fullAt = 0 || s.op.fullAt - 1 + 1000 ≤ s.stroke then
      { s with op := { s.op with fullAt := s.stroke + 1 } }.errRec { cls := 0, code := rcOP_ROUTE_FULL }
    else s
  else s.setRoutes (rs ++ [{ node := node, vias := [v] }]) []

/-- Remove next hops; destinations left with none are withdrawn (R294). -/
def State.dropVias (s : State) (f : Nat → Via → Bool) : State :=
  let rs := s.op.routes.map (fun r => { r with vias := r.vias.filter (fun v => !f r.node v) })
  let gone := (rs.filter (fun r => r.vias.isEmpty)).map (·.node)
  s.setRoutes (rs.filter (fun r => !r.vias.isEmpty)) gone

/-- The route to a link's own partner, with the link's cost (R291, R294). -/
def State.ownRoute (s : State) (l : Nat) : State :=
  s.addVia (s.o (kOP_PEER_NODE l)) { link := l, cost := s.linkCost l, hops := 1, seen := none }

/-! Sending (R280 to R282). -/

/-- Flit slots of a link's sending direction since CONFIRM (R288): its rate is 25 B/ns for each lane. -/
def State.slotsGone (s : State) (l : Nat) : Nat :=
  (s.ns - (s.link l).confirmAt) * (s.o (kOP_LINK_LANES l) * 25) / 256

/-- DATA credits of classes `hs` that go back in one flit, in units of 16 flits and at most 15 units a class, out of `k` flits that
may: what is still owed, what the partner still uses, CR_DATA. -/
def payUnits : List Nat → Nat → Tab Nat → Tab Nat → Nat → Tab Nat × Tab Nat × Nat
  | [], _, owed, used, cr => (owed, used, cr)
  | h :: hs, k, owed, used, cr =>
    let n := min 15 (min k (tget 0 owed h) / 16)
    payUnits hs (k - 16 * n) (tset 0 owed h (tget 0 owed h - 16 * n)) (tset 0 used h (tget 0 used h - 16 * n))
      (cr + n * 2 ^ (4 * (h - 1)))

/-- DATA flits whose credits may go back now: all that are owed, or under cause DISCARD no more than OP_RATE_LIMIT percent of the
flits of the link's rate since the latest return (R291). -/
def State.payBudget (s : State) (l : Nat) : Nat :=
  let x := s.link l
  let total := ((upto 8).map (fun h => tget 0 x.owed (h + 1))).sum
  if x.limited then min total ((s.ns - x.paidAt) * (s.o (kOP_LINK_LANES l) * 25 * s.o kOP_RATE_LIMIT) / 25600) else total

/-- The credits that the next flit returns (R280, R282): CR_DATA and CR_CTRL. -/
def State.payCredits (s : State) (l : Nat) : State × Nat × Nat :=
  let x := s.link l
  if s.lkState l = lkQUARANTINED then (s, 0, 0)
  else
    let k := s.payBudget l
    let q := payUnits ((upto 8).map (· + 1)) k x.owed x.rxUsed 0
    let c := min 15 (tget 0 q.1 0)
    let paid := ((upto 8).map (fun h => tget 0 x.owed (h + 1) - tget 0 q.1 (h + 1))).sum
    let rate := s.o (kOP_LINK_LANES l) * 25 * s.o kOP_RATE_LIMIT
    (s.setLink l { x with owed := tset 0 q.1 0 (tget 0 q.1 0 - c), rxUsed := tset 0 q.2.1 0 (tget 0 q.2.1 0 - c)
                          paidAt := if paid = 0 then x.paidAt
                                    else if x.limited then x.paidAt + (paid * 25600 + rate - 1) / max 1 rate else s.ns },
      q.2.2, c)

/-- Send a flit in the next free slot (R280, R288): with the current ACK, the credits that go back, and after CONFIRM under the
link key. A flit that is sent again is sealed afresh. -/
def State.emitFlit (s : State) (l : Nat) (f : Sent) : State :=
  let (s, crD, crC) := s.payCredits l
  let x := s.link l
  let slot := if x.txKeyed then max x.txSlot (s.slotsGone l) else 0
  let h : FlitHdr := { msg := f.msg, len := f.len, hops := f.hops, ack := x.rxSeq, seq := f.seq, crData := crD, crCtrl := crC
                       first := f.first, last := f.last, enc := x.enc && x.txKeyed, kind := f.kind }
  let key := if x.txKeyed then some (keyAt x.txKey (s.o (kOP_KEY_EPOCH l)) (slot / 2 ^ 31)) else none
  (s.setLink l { x with txSlot := if x.txKeyed then slot + 1 else 0, sentAt := s.ns }).emitLink (.flit l (sealFlit key slot h f.body))

/-- An IDLE or RETRY_REQ flit (R281): the next unused SEQ, never stored. -/
def State.emitBare (s : State) (l kind : Nat) : State :=
  s.emitFlit l { seq := (s.link l).txSeq, kind := kind, hops := 0, msg := 0, len := 0, first := false, last := false
                 body := [], flow := 0 }

/-- Flits that return what credits can go back (R282). -/
def State.returnLoop (l : Nat) : Nat → State → State
  | 0, s => s
  | n + 1, s =>
    let q := s.payCredits l
    if q.2.1 = 0 && q.2.2 = 0 then s else State.returnLoop l n (s.emitBare l 0)

def State.returnCredits (s : State) (l : Nat) : State :=
  if s.linkUp l || s.lkState l == lkAUTH then State.returnLoop l 128 s else s

/-- `n` flits of class `h` leave the receive buffer (R282). -/
def State.oweCredits (s : State) (l h n : Nat) : State :=
  let x := s.link l
  (s.setLink l { x with owed := tset 0 x.owed h (min (tget 0 x.rxUsed h) (tget 0 x.owed h + n)) }).returnCredits l

/-! Transit buffers (R284). -/

/-- Flits of the messages inside a transit class. -/
def transitFill (q : List Transit) : Nat := ((q.filter (·.inside)).map (·.flits)).sum

/-- Messages that waited for room enter the buffer; the credits of their flits go back (R282, R284). -/
def State.admitTransit (k : Nat) : Nat → State → State
  | 0, s => s
  | n + 1, s =>
    let q := tget [] s.op.transit k
    match q.find? (fun m => !m.inside) with
    | none => s
    | some m =>
      let used := transitFill q
      if used ≠ 0 && 256 < used + m.flits then s
      else
        let i := q.findIdx (fun x => !x.inside)
        let q := q.modify i (fun x => { x with inside := true })
        let s := s.oweCredits m.inLink (k % 8 + 1) m.flits
        State.admitTransit k n { s with op := { s.op with transit := tset [] s.op.transit k q } }

/-- The first message of a transit class has left it. -/
def State.popTransit (s : State) (k : Nat) : State :=
  let rest := (tget [] s.op.transit k).drop 1
  State.admitTransit k (rest.length + 1) { s with op := { s.op with transit := tset [] s.op.transit k rest } }

/-- A message that came from a transit buffer leaves it. -/
def State.leftTransit (s : State) (via : Nat) : State := if via = 0 then s else s.popTransit (via - 1)

/-! Queues of a link (R282, R283). -/

/-- The order in which the classes of a link send (DESIGN CHOICE, log entry 173). -/
def classOrder : List Nat := [0, 8, 7, 6, 5, 4, 3, 2, 1]

/-- Send flits of a class while its credits and the retry buffer allow: messages of one class are never interleaved. -/
def State.pumpClass (l h : Nat) : Nat → State → State
  | 0, s => s
  | n + 1, s =>
    let x := s.link l
    match tget [] x.queue h with
    | [] => s
    | m :: rest =>
      if s.retrySize l ≤ x.retry.length || tget 0 x.credits h = 0 then s
      else
        let body := ((messageBytes m.hdr m.data).drop (224 * m.sent)).take 224
        let last := m.sent + 1 == flitsOf m.data.length
        let f : Sent := { seq := x.txSeq, kind := if h = 0 then 2 else 1, hops := h, msg := tget 0 x.txMsg h, len := body.length
                          first := m.sent == 0, last := last, body := body, flow := if h = 0 then 0 else flowKey m.hdr + 1 }
        let y := { x with credits := tset 0 x.credits h (tget 0 x.credits h - 1), retry := x.retry ++ [f]
                          txSeq := (x.txSeq + 1) % 2 ^ 16, ackAt := if x.retry.isEmpty then s.ns else x.ackAt
                          txMsg := if last then tset 0 x.txMsg h ((f.msg + 1) % 2 ^ 16) else x.txMsg
                          queue := tset [] x.queue h (if last then rest else { m with sent := m.sent + 1 } :: rest) }
        let s := (s.setLink l y).emitFlit l f
        State.pumpClass l h n (if last then s.leftTransit m.via else s)

/-- Queued DATA of a class without credit waits from now on, or no more (R290). -/
def State.noteStall (s : State) (l : Nat) : State :=
  let x := s.link l
  let waits (h : Nat) : Bool := !(tget [] x.queue h).isEmpty && tget 0 x.credits h == 0
  s.setLink l { x with
    stallAt := (upto 8).foldl (fun t h => tset 0 t (h + 1)
      (if !waits (h + 1) then 0 else if tget 0 t (h + 1) = 0 then s.ns + 1 else tget 0 t (h + 1))) x.stallAt
    stallHit := x.stallHit.filter waits }

def State.pump (s : State) (l : Nat) : State :=
  (classOrder.foldl (fun (s : State) h =>
    State.pumpClass l h (((tget [] (s.link l).queue h).map (fun m => flitsOf m.data.length)).sum + 1) s) s).noteStall l

/-- Queue a message on a link. -/
def State.transmit (s : State) (l h : Nat) (m : QMsg) : State :=
  let x := s.link l
  (s.setLink l { x with queue := tset [] x.queue h (tget [] x.queue h ++ [m]) }).pump l

/-- A CONTROL message to a link's partner (R283); its DST is 0 before the partner has named itself (DESIGN CHOICE, log entry
173). -/
def State.sendControl (s : State) (l kind : Nat) (data : List Byte) : State :=
  s.transmit l 0 { sent := 0, hdr := mkHeader (s.link l).node 0 kind 0 data.length, data := data, via := 0 }

/-! Flows (R295). -/

/-- The next hop of a message (R295), by the SHA-256 digest of SRC, DST, KIND and FLOW. -/
def State.chooseLink (s : State) (hdr : BitVec 256) : Option Nat :=
  let ls := s.nextHops (mhDst hdr)
  match ls with
  | [] => none
  | [l] => some l
  | _ =>
    let d := leNat (sha256 (leBytes 8 (mhSrc hdr) ++ leBytes 8 (mhDst hdr) ++ leBytes 1 (mhKind hdr)
      ++ leBytes 4 (mhFlow hdr)))
    ls[d % ls.length]?

/-- A link still holds flits of a flow, sent and unacknowledged or not yet sent. -/
def Link.carries (x : Link) (key : Nat) : Bool :=
  x.retry.any (fun f => f.flow == key + 1) || x.queue.any (fun q => q.1 != 0 && q.2.any (fun m => flowKey m.hdr == key))

/-- Send a message on the link that its flow takes now; one without a next hop is lost, and the flag says so. -/
def State.sendOn (s : State) (h : Nat) (m : QMsg) : State × Bool :=
  match s.chooseLink m.hdr with
  | none => (s.leftTransit m.via, false)
  | some l =>
    (({ s with op := { s.op with flowLink := tset 0 s.op.flowLink (flowKey m.hdr) (l + 1) } }).transmit l h m, true)

/-- Send a message on its flow's link (R295): a flow that a route change moves is held until its old link has acknowledged its
earlier flits. -/
def State.route1 (s : State) (h : Nat) (m : QMsg) : State × Bool :=
  let k := flowKey m.hdr
  if s.op.flows.any (fun f => f.key == k) then
    ({ s with op := { s.op with flows := s.op.flows.map (fun f =>
      if f.key = k then { f with held := f.held ++ [(h, m)] } else f) } }, true)
  else match s.chooseLink m.hdr with
    | none => s.sendOn h m
    | some l =>
      let old := tget 0 s.op.flowLink k
      if old ≠ 0 && old ≠ l + 1 && (s.link (old - 1)).carries k then
        let f : Flow := { key := k, oldLink := old - 1, heldAt := s.ns, held := [(h, m)] }
        ({ s with op := { s.op with flows := s.op.flows ++ [f] } }, true)
      else s.sendOn h m

/-- Release a held flow onto the link it takes now (R295, R296). -/
def State.releaseFlow (s : State) (f : Flow) : State :=
  let s := { s with op := { s.op with flows := s.op.flows.filter (fun x => x.key != f.key) } }
  f.held.foldl (fun s m => (s.sendOn m.1 m.2).1) s

/-- Flows of whose earlier flits their old link has none left go on. -/
def State.releaseFlows (s : State) (l : Nat) : State :=
  (s.op.flows.filter (fun f => f.oldLink == l && !(s.link l).carries f.key)).foldl State.releaseFlow s

/-- Cut message data at 65,536 B (R283). -/
def cutData : Nat → List Byte → List (List Byte)
  | 0, _ => []
  | n + 1, d => if d.length ≤ 65536 then [d] else d.take 65536 :: cutData n (d.drop 65536)

/-- A unit of this part sends data to another part (R283, R295). -/
def State.opSend (s : State) (dst part kind flow : Nat) (data : List Byte) : State :=
  (cutData (data.length / 65536 + 1) data).foldl (fun s d =>
    (s.route1 8 { sent := 0, hdr := mkHeader dst part kind flow d.length, data := d, via := 0 }).1) s

/-! State changes (R286, R296). -/

/-- The doubling count of a node starts afresh once it has been ACTIVE for 3,600,000 strokes (R292). -/
def State.settleDoubling (s : State) (node : Nat) : State :=
  match tget 0 s.op.activeAt node with
  | 0 => s
  | a + 1 =>
    if a + 3600000 ≤ s.stroke then { s with op := { s.op with doubling := terase s.op.doubling node } } else s

/-- A link of a node is no more ACTIVE (R292): with the last one, the node's time in ACTIVE ends. -/
def State.leaveActive (s : State) (l : Nat) : State :=
  let node := s.o (kOP_PEER_NODE l)
  if (upto 64).any (fun k => k != l && s.lkState k == lkACTIVE && s.o (kOP_PEER_NODE k) == node) then s
  else
    let s := s.settleDoubling node
    { s with op := { s.op with activeAt := terase s.op.activeAt node } }

/-- The link's flits and keys go: what it queued, what it keeps for retries, what it has received in part, its CONTROL messages,
its credits and its keys (R287, R296). -/
def Link.clear (x : Link) : Link :=
  { x with queue := [], retry := [], asked := none, txMsg := [], txSeq := 0, rxSeq := 0, txAck := 0, dropping := false
           credits := [], rxUsed := [], owed := [], stallAt := [], stallHit := [], limited := false, rxPart := []
           inbox := (x.inbox.filter (fun m => m.cls != 0)).map (fun m => { m with flits := 0 })
           txKey := [], rxKey := [], rxEpoch := 0, txKeyed := false, rxKeyed := false, txSlot := 0, rxSlot := 0
           ownNonce := 0, ownShare := 0, ownHello := [], peerHello := [], peerChain := [], peerShare := [] }

/-- Queued messages of a link, by class. -/
def Link.queued (x : Link) : List (Nat × QMsg) := x.queue.flatMap (fun q => q.2.map (fun m => (q.1, m)))

/-- What a link loses when it leaves ACTIVE and DEGRADED (R292, R294, R296): routes, retry buffer, a message received in part;
messages not yet started go to another next hop. -/
def State.linkDown (s : State) (l : Nat) : State :=
  if !s.linkUp l then s.setLink l (s.link l).clear
  else
    let q := (s.link l).queued.filter (fun m => m.1 != 0)
    let s := if s.lkState l = lkACTIVE then s.leaveActive l else s
    let s := s.setLink l (s.link l).clear
    let s := s.dropVias (fun _ v => v.link == l)
    let s := (q.filter (fun m => m.2.sent != 0)).foldl (fun (s : State) m => s.leftTransit m.2.via) s
    let s := (q.filter (fun m => m.2.sent == 0)).foldl (fun (s : State) m => (s.route1 m.1 m.2).1) s
    s.releaseFlows l

/-- The link enters a state. OP_LINK_LANES shows the lanes in use once training has given them (R298). -/
def State.linkTo (s : State) (l st : Nat) : State :=
  let up (x : Nat) : Bool := x == lkACTIVE || x == lkDEGRADED
  let s := if up st then s else (s.linkDown l).setO (kOP_KEY_EPOCH l) 0
  let s := s.setO (kOP_LINK_STATE l) st
  let s := s.setLink l { s.link l with since := s.ns, sinceStroke := s.stroke }
  if st = lkAUTH then s.setO (kOP_LINK_LANES l) (s.link l).lanes
  else if up st || st = lkQUARANTINED then s
  else (s.setO (kOP_PEER_NODE l) 0).setO (kOP_LINK_LANES l) 0

/-- Links authenticating in their turn (R286). -/
def State.authTurns (s : State) : List Nat := (upto 64).filter (fun l => s.lkState l == lkAUTH && (s.link l).turnAt != 0)

/-- The link that has waited longest in AUTHENTICATING gets a turn while fewer than eight have one (R286, R287): it sends its
HELLO with a fresh nonce, if the identity key is there (R443). -/
def State.grantTurn (s : State) : State :=
  if 8 ≤ s.authTurns.length then s
  else
    let ws := (upto 64).filter (fun l => s.lkState l == lkAUTH && (s.link l).turnAt == 0)
    match ws.foldl (fun (a : Option Nat) l =>
      match a with
      | none => some l
      | some b => if (s.link l).since < (s.link b).since then some l else some b) none with
    | none => s
    | some l =>
      let x := s.link l
      let nonce := Config.freeKey s.draws
      let enc := s.o (kOP_LINK_ENC l) == 1
      let hello := helloData ownNode (s.o kOP_FABRIC_ID) enc nonce
      let s := s.setLink l { x with turnAt := s.ns + 1, authStep := 0, ownNonce := nonce, ownHello := hello }
      let s := { s with draws := s.draws + 1 }
      if s.boot.identity then s.sendControl l 0x10 hello else s

/-- A link ends its authentication, whatever comes of it. -/
def State.endTurn (s : State) (l : Nat) : State :=
  s.setLink l { s.link l with turnAt := 0, authStep := 0 }

/-- Training begins. -/
def State.train (s : State) (l : Nat) : State := ((s.endTurn l).linkTo l lkTRAINING).grantTurn

/-- The link enters LIGHT with a retry hold, and trains at once without one (R286). -/
def State.toLight (s : State) (l hold : Nat) : State :=
  let s := (s.endTurn l).linkTo l lkLIGHT
  let x := s.link l
  let h := max x.hold (s.ns + hold)
  let s := s.setLink l { x with narrow := 0, hold := h }
  if h ≤ s.ns then s.train l else s.grantTurn

/-- A training failure (R286): 100 ms of hold, from the eighth in a row on 10 s. -/
def State.trainFail (s : State) (l : Nat) : State :=
  let x := s.link l
  let n := x.trainFails + 1
  (s.setLink l { x with trainFails := n }).toLight l (if 8 ≤ n then 10000000000 else 100000000)

/-- The link goes dark: ABSENT. -/
def State.toAbsent (s : State) (l : Nat) : State :=
  let s := (s.endTurn l).linkTo l lkABSENT
  (s.setLink l { s.link l with light := false, narrow := 0 }).grantTurn

/-- Quarantine with a cause (R290, R292): the hold doubles with each earlier quarantine of the node, 16 times at most. -/
def State.quarantine (s : State) (l cause node : Nat) : State :=
  let s := ((s.settleDoubling node).endTurn l).linkTo l lkQUARANTINED
  let x := s.link l
  let n := if node = 0 then x.doubling else tget 0 s.op.doubling node
  let s := s.setLink l { x with quarEnd := s.stroke + s.o kOP_QUAR_STROKES * 2 ^ min n 4, node := node
                                doubling := if node = 0 then n + 1 else x.doubling }
  let s := if node = 0 then s else { s with op := { s.op with doubling := tset 0 s.op.doubling node (n + 1) } }
  ((s.setO (kOP_LINK_CAUSE l) cause).errRec { cls := 2, code := rcOP_QUARANTINE, link := l }).grantTurn

/-- Quarantine of a partner that has proven itself: OP_PEER_NODE names it (R298). -/
def State.quarantineProven (s : State) (l cause node : Nat) : State :=
  (s.quarantine l cause node).setO (kOP_PEER_NODE l) node

/-- An ACTIVE link becomes DEGRADED with a cause (R290, R291). -/
def State.degrade (s : State) (l cause : Nat) : State :=
  if s.lkState l ≠ lkACTIVE then s
  else
    let s := (s.leaveActive l).linkTo l lkDEGRADED
    let s := s.setLink l { s.link l with limited := cause == ctDISCARD, paidAt := s.ns }
    let s := (s.setO (kOP_LINK_CAUSE l) cause).errRec { cls := 1, code := rcOP_DEGRADED, link := l }
    let cost := s.linkCost l
    s.setRoutes (s.op.routes.map (fun r => { r with vias := r.vias.map (fun v =>
      if v.link = l then { v with cost := v.cost + (cost - cost / 4) } else v) })) []

/-- Events of a counter within the last 1,000 strokes (R290). -/
def State.windowCount (s : State) (l c : Nat) : Nat := (recent s.stroke 1000 (tget [] (s.link l).window c)).length

/-- An event of a counter is counted (R290). -/
def State.noteEvent (s : State) (l c : Nat) : State :=
  let x := s.link l
  s.setLink l { x with window := tset [] x.window c (recent s.stroke 1000 (tget [] x.window c) ++ [s.stroke])
                       totals := tset 0 x.totals c (satAdd 64 (tget 0 x.totals c) 1) }

/-- A counter has reached a threshold of R290. -/
def State.overLimit (s : State) (l c : Nat) : Bool :=
  let n := s.windowCount l c
  (c == ctRETRY && decide (s.o kOP_RETRY_DEGRADE ≤ n)) || (c == ctSTALL && decide (8 ≤ n))
    || (c == ctDISCARD && decide (s.o kOP_DISCARD_LIMIT ≤ n)) || (c == ctTAG && decide (4 ≤ n))
    || (c == ctPROTOCOL && decide (16 ≤ n)) || c == ctACK

/-- Events that one arrival counts together: of the thresholds that they reach, the most severe outcome applies (R290). A link
that is shutting down, or has left ACTIVE and DEGRADED, counts and no more (R293). -/
def State.countEvents (s : State) (l : Nat) (cs : List Nat) : State :=
  let s := cs.foldl (fun (s : State) c => s.noteEvent l c) s
  let hit := cs.filter (s.overLimit l)
  if !s.linkLive l || !s.linkUp l || hit.isEmpty then s
  else
    let s := s.setLink l { s.link l with lastHit := s.stroke }
    match hit.find? (fun c => c == ctTAG || c == ctPROTOCOL) with
    | some c => s.quarantine l c (s.o (kOP_PEER_NODE l))
    | none =>
      if hit.any (fun c => c == ctACK || (c == ctRETRY && decide (100000 ≤ s.windowCount l c))) then s.train l
      else s.degrade l (hit.headD 0)

def State.countEvent (s : State) (l c : Nat) : State := s.countEvents l [c]

/-- Policy of R279 for a partner. -/
def State.permitted (s : State) (node fabric : Nat) : Bool :=
  let listed (key : Nat) : Bool := node != 0 && (upto 256).any (fun i => s.blobNum key (8 * i) 8 == node)
  fabric == s.o kOP_FABRIC_ID && !listed kOP_DENY && (s.o kOP_ALLOW_EN == 0 || listed kOP_ALLOW)

/-- After a change of the lists, every partner is tested again in the next stroke (R279). -/
def State.retestPeers (s : State) : State :=
  if !s.op.retest then s
  else
    let s := { s with op := { s.op with retest := false } }
    (upto 64).foldl (fun s l =>
      if s.linkLive l && s.linkUp l && !s.permitted (s.link l).node (s.link l).fabric then
        (s.noteEvent l ctNOT_PERMITTED).quarantineProven l ctNOT_PERMITTED (s.o (kOP_PEER_NODE l))
      else s) s

/-- The link is proven (R286, R287, R290): ACTIVE, or DEGRADED while narrowed, and a route to its partner. -/
def State.activate (s : State) (l : Nat) : State :=
  let x := s.link l
  let s := s.setLink l { x with ackAt := s.ns, authTimeouts := 0, limited := false, lastHit := s.stroke }
  let s := (s.endTurn l).linkTo l lkACTIVE
  let s := (s.setO (kOP_PEER_NODE l) x.node).setO (kOP_KEY_EPOCH l) 0
  let s := if tget 0 s.op.activeAt x.node = 0 then
      { s with op := { s.op with activeAt := tset 0 s.op.activeAt x.node (s.stroke + 1) } }
    else s
  let s := s.ownRoute l
  (if x.narrow = 0 then s else s.degrade l ctNARROW).grantTurn

/-! Events of reception (R281). -/

/-- An acknowledgement frees the retry buffer up to the SEQ that the partner expects (R281). -/
def State.takeAck (s : State) (l ack : Nat) : State :=
  let x := s.link l
  let keep := x.retry.dropWhile (fun q =>
    decide (0 < (ack + 2 ^ 16 - q.seq) % 2 ^ 16) && decide ((ack + 2 ^ 16 - q.seq) % 2 ^ 16 ≤ 32768))
  if keep.length = x.retry.length then s
  else ((s.setLink l { x with retry := keep, txAck := ack, ackAt := s.ns }).pump l).releaseFlows l

/-- Credits that come back (R280, R282). -/
def State.takeCredits (s : State) (l crData crCtrl : Nat) : State :=
  let x := s.link l
  let c := (upto 8).foldl (fun t h =>
    tset 0 t (h + 1) (min (s.classCredit l (h + 1)) (tget 0 t (h + 1) + 16 * nbits crData (4 * h) 4))) x.credits
  let c := tset 0 c 0 (min (s.classCredit l 0) (tget 0 c 0 + crCtrl))
  if crData = 0 && crCtrl = 0 then s else (s.setLink l { x with credits := c }).pump l

/-- A flit was damaged (R281): everything is dropped up to the retransmission, which is asked for once. `cs` are further events
that the flit counts. -/
def State.askRetry (s : State) (l : Nat) (cs : List Nat) : State :=
  let x := s.link l
  if x.dropping then s.countEvents l cs
  else ((s.setLink l { x with dropping := true }).emitBare l 3).countEvents l (ctRETRY :: cs)

/-- A violation of the protocol (R280 to R283, R289). -/
def State.violation (s : State) (l : Nat) : State := s.countEvents l [ctPROTOCOL]

end Sys2Proof.Machine
end

