-- ==== Sys2Proof/Machine/NumOps.lean ====
section
/-! DEFINITION. Waits of rod programs, resident or switched out (R342), the numerics state of a run (R193 to R206) and the
times of a step (R214, R215). -/

namespace Sys2Proof.Machine

open Sys2Proof

/-! Waits. -/

def Rod.endWait (r : Rod) (pred : RodWait → Bool) : Rod :=
  if pred r.wait then { r with wait := .none, ended := true } else r

/-- End the commands of context `c` whose rods wait in a way that `pred` names, with a status; the context may be
resident or switched out. -/
def State.endWaits (s : State) (p c : Nat) (pred : RodWait → Bool) (st : Nat) : State :=
  if s.resident p = c then
    (s.partRods p).foldl (fun s r =>
      if pred (s.rod r).wait then (s.setRod r ((s.rod r).endWait pred)).failCtx p c st r else s) s
  else
    let x := s.ctx p c
    match x.savedRods.find? (fun q => pred q.2.wait) with
    | some w => (s.setCtx p c { x with savedRods := x.savedRods.map (fun q => (q.1, q.2.endWait pred)) }).failCtx p c st w.1
    | none => s

def State.endAllWaits (s : State) (p : Nat) (pred : RodWait → Bool) (st : Nat) : State :=
  (upto 8).foldl (fun s c => s.endWaits p c pred st) s

/-! Numerics state. -/



/-- L(s) of a fixed step (R196); the value in force for another. -/
def State.lossScale (s : State) (p step : Nat) : F32 :=
  match tget 0 (s.num p).scales step with
  | 0 => BitVec.ofNat 32 (s.o (kLOSS_SCALE p))
  | x => x

/-- GUARDED(s) (R206). -/
def State.guarded (s : State) (p step : Nat) : Bool :=
  s.o (kGUARD_TEST p) == 1
    || (decide ((s.num p).s0 ≤ step) && decide (step < (s.num p).s0 + s.o (kGUARD_STEPS p)))

/-! Times of a step (R214). -/

/-- Microseconds of a phase record, saturating (R215). -/
def us32 (ns : Nat) : Nat := min (ns / 1000) 0xFFFFFFFF

/-- The partition's stroke in progress was generated in holdover (R215, R357). -/
def State.inHoldover (s : State) : Bool := s.st.begun && s.st.curHold

/-- TEACHER of a step up to now (R214): commands that have ended, and one of the teacher's bound context that has not. -/
def State.teacherUs (s : State) (p step : Nat) : Nat :=
  (upto 8).foldl (fun (a : Nat) n =>
    if (s.pairing n).members.any (fun m => m.2 == p) then
      let t := s.o (kTY_TEACHER n)
      match (s.ctx t 0).run with
      | some r =>
        if r.pubSteps.contains step then a + r.ran + (if s.resident t = 0 then s.ns - r.began else 0) else a
      | none => a
    else a) (tget 0 (s.num p).teacher step)

/-- The phase record of step `step` (R215). -/
def State.phaseRecord (s : State) (p step : Nat) (skipped : Bool) (scale : F32) : BitVec 512 :=
  let x := s.num p
  let total := s.ns - x.stepNs
  let idle := total - (x.fwd + x.bwd + x.carry + x.update)
  let flag (b : Bool) (i : Nat) : Nat := if b then 2 ^ i else 0
  BitVec.ofNat 512
    (step % 2 ^ 64 + (x.stepStroke % 2 ^ 64) * 2 ^ 64 + (s.stroke % 2 ^ 64) * 2 ^ 128 + us32 x.fwd * 2 ^ 192
      + us32 x.bwd * 2 ^ 224 + us32 x.carry * 2 ^ 256 + us32 x.update * 2 ^ 288 + us32 idle * 2 ^ 320
      + us32 (s.teacherUs p step) * 2 ^ 352 + scale.toNat * 2 ^ 384 + flag skipped 416
      + flag (s.guarded p step) 417 + flag x.holdover 418 + flag x.firstStep 419)

/-- The update phase of a step ends (R214, R215): its record goes into PHASE_RING and the next step's times begin, in its own
UPDATE where its verdict is known already. -/
def State.phaseEnd (s : State) (p step : Nat) (skipped : Bool) (scale : F32) : State :=
  let s := s.phaseTick p
  let x := s.num p
  let x := if skipped then
      { x with update := 0, fwd := x.fwd + x.lateFwd, bwd := x.bwd + x.lateBwd, carry := x.carry + x.lateCarry }
    else x
  let s := s.setNum p x
  let h := s.o (kPHASE_HEAD p)
  let x := { x with ring := tset 0 x.ring h (s.phaseRecord p step skipped scale)
                    fwd := 0, bwd := 0, carry := 0, update := 0, carryIdle := 0
                    lateFwd := 0, lateBwd := 0, lateCarry := 0
                    teacher := x.teacher.filter (fun t => decide (step < t.1))
                    stepNs := s.ns, stepStroke := s.stroke, holdover := s.inHoldover, acctNs := s.ns
                    verdictNs := if step + 1 < s.runStep p then s.ns + 1 else 0
                    pushed := x.pushed.filter (fun k => decide (step < k)), firstStep := false }
  (s.setNum p x).setO (kPHASE_HEAD p) ((h + 1) % 256)

/-- The next loss scale, count, floor count (R201). -/
def nextScale (nonfinite : Bool) (l lmin lmax : F32) (g grow floor : Nat) : F32 × Nat × Nat :=
  if nonfinite then
    if f32lt lmin l then (f32mul l 0x3F000000, 0, floor) else (l, 0, floor + 1)
  else if g + 1 < grow then (l, g + 1, 0)
  else if f32lt l lmax then (f32mul l 0x40000000, 0, 0)
  else (l, 0, 0)

/-- The verdict of step S of a RUNNING partition is known (R193, R201): S advances, L(S + 1) is fixed with its counts in
one action. -/
def State.numVerdict (s : State) (p : Nat) (nonfinite : Bool) : State :=
  if !s.running p then s
  else
    let s := s.phaseTick p
    let x := s.num p
    let step := s.runStep p
    let n := nextScale nonfinite (s.lossScale p step) (BitVec.ofNat 32 (s.o (kLOSS_SCALE_MIN p)))
      (BitVec.ofNat 32 (s.o (kLOSS_SCALE_MAX p))) (s.o (kGOOD_STEP_COUNT p)) (s.o (kGROW_STEPS p)) x.floorCount
    let full := nonfinite && decide (s.o (kFLOOR_SKIPS p) ≤ n.2.2)
    let x := { x with scales := tset 0 x.scales (step + 1) n.1, fixedStep := step + 1
                      floorCount := if full then 0 else n.2.2
                      carry := x.carry + x.carryIdle, carryIdle := 0, verdictNs := s.ns + 1, acctNs := s.ns }
    let s := (s.setNum p x).setO (kRUN_STEP p) ((step + 1) % 2 ^ 64)
    let s := (s.setO (kLOSS_SCALE p) n.1.toNat).setO (kGOOD_STEP_COUNT p) n.2.1
    let s := if nonfinite then s.addO 32 (kSKIPPED_STEPS p) 1 else s
    if full then s.errRec { cls := 2, code := rcNUM_FLOOR, part := p, arg0 := step % 2 ^ 32 } else s

/-- GUARD_REMAIN (R206). -/
def State.guardRemain (s : State) (p : Nat) : Nat :=
  if s.running p then (s.num p).s0 + s.o (kGUARD_STEPS p) - s.runStep p else 0

/-- A run begins or resumes at RUN_STEP (R195, R196, R201, R206). -/
def State.beginRun (s : State) (p : Nat) : State :=
  let x := s.num p
  let step := s.runStep p
  let x := { x with fixedStep := step, scales := tset 0 [] step (BitVec.ofNat 32 (s.o (kLOSS_SCALE p)))
                    floorCount := 0, s0 := step, firstStep := true, fwd := 0, bwd := 0, carry := 0, update := 0
                    carryIdle := 0, lateFwd := 0, lateBwd := 0, lateCarry := 0, teacher := [], stepNs := s.ns
                    stepStroke := s.stroke, holdover := s.inHoldover, verdictNs := 0, acctNs := s.ns, pushed := []
                    runs := x.runs + 1 }
  let s := { s with reck := { s.reck with ended := terase s.reck.ended p } }
  (s.setNum p x).setO (kRUN_STATE p) 1

/-- The partition becomes IDLE (R195): waiting numerics reads end. -/
def State.idleRun (s : State) (p : Nat) : State :=
  (s.setO (kRUN_STATE p) 0).endAllWaits p (fun w => match w with | .numerics _ => true | _ => false) stNUM_STEP_RANGE

/-- Any command of the partition is running: a RUN, resident or switched out, or a command that a unit carries out
(R195). -/
def State.anyCommand (s : State) (p : Nat) : Bool :=
  (upto 8).any (fun c => (s.ctx p c).run.isSome) || s.host.live.any (fun l => l.cmd.part == p)

/-- A RUN command of the partition is running, resident or switched out (R182, R195). -/
def State.anyRun (s : State) (p : Nat) : Bool := (upto 8).any (fun c => (s.ctx p c).run.isSome)

end Sys2Proof.Machine
end

