-- ==== Sys2Proof/Machine/Records.lean ====
section
/-! DEFINITION. Tally records: headers (R162), publication and release (R164 to R170), VOID slots and abandoned holds
(R168), and the end of members (R180, R181). -/

namespace Sys2Proof.Machine

open Sys2Proof

/-- The record header (R162). -/
structure RecHeader where
  seq : Nat := 0
  pairing : Nat := 0xFF
  tokens : Nat := 0
  stream : Bool := false
  mask : Nat := 0
  eos : Bool := false
  isVoid : Bool := false
  feat : Bool := false
  harvest : Bool := false
  status : Nsw := 0
  step : Nat := 0
  stroke : Nat := 0
  payload : Nat := 0
  featOff : Nat := 0
  token0 : Nat := 0
  position : Nat := 0
  request : Nat := 0
  deriving DecidableEq, Repr

/-- The 64 bytes of a record header (R162). -/
def RecHeader.bytes (h : RecHeader) : List Byte :=
  let f (b : Bool) (i : Nat) : Nat := if b then 2 ^ i else 0
  leBytes 64 (h.seq % 2 ^ 32 + (h.pairing % 256) * 2 ^ 32 + (h.tokens % 2 ^ 16) * 2 ^ 64 + f h.stream 80
    + (h.mask % 16) * 2 ^ 84 + f h.eos 88 + f h.isVoid 89 + f h.feat 90 + f h.harvest 91 + h.status.toNat * 2 ^ 96
    + (h.step % 2 ^ 64) * 2 ^ 128 + (h.stroke % 2 ^ 32) * 2 ^ 192 + (h.payload % 2 ^ 32) * 2 ^ 224
    + (h.featOff % 2 ^ 32) * 2 ^ 256 + (h.token0 % 2 ^ 32) * 2 ^ 288 + (h.position % 2 ^ 32) * 2 ^ 320
    + (h.request % 2 ^ 32) * 2 ^ 352)

/-- Fully released (R166). -/
def Record.released (r : Record) : Bool := r.phase == 2 && (r.isVoid || r.mask.isEmpty)

def Pairing.rec? (x : Pairing) (seq : Nat) : Option Record := x.recs.find? (fun r => r.seq == seq)

/-- Replace a record. -/
def Pairing.setRec (x : Pairing) (r : Record) : Pairing :=
  { x with recs := x.recs.map (fun y => if y.seq = r.seq then r else y) }

/-- The slot of `seq` is free: the record TY_NREC before it is fully released, or the ring is new there (R166). -/
def State.slotFree (s : State) (n seq : Nat) : Bool :=
  match (s.pairing n).rec? ((seq + 2 ^ 32 - s.o (kTY_NREC n)) % 2 ^ 32) with
  | some r => r.released
  | none => true

/-- TY_SEQ_RELEASED moves up to the lowest record not fully released (R191). -/
def State.moveReleased (n : Nat) : Nat → State → State
  | 0, s => s
  | k + 1, s =>
    let q := s.o (kTY_SEQ_RELEASED n)
    match (s.pairing n).rec? q with
    | some r => if r.released then State.moveReleased n k (s.setO (kTY_SEQ_RELEASED n) ((q + 1) % 2 ^ 32)) else s
    | none => s

def State.settleSeqs (s : State) (n : Nat) : State := State.moveReleased n ((s.pairing n).recs.length + 1) s

/-- Write a record header into its slot of the ring. -/
def State.putHeader (s : State) (n seq : Nat) (h : RecHeader) : State :=
  match s.udPhys (s.o (kTY_TEACHER n)) (s.slotAddr n seq) 64 false with
  | some x => { s with decks := (s.decks.udWrite x h.bytes).1 }
  | none => s

/-- TY_SEQ_PUBLISHED is one more than the highest published number (R191). -/
def State.countPublished (s : State) (n seq : Nat) : State :=
  if seqDist seq (s.o (kTY_SEQ_PUBLISHED n)) < 0 then s else s.setO (kTY_SEQ_PUBLISHED n) ((seq + 1) % 2 ^ 32)

/-- Publish a reserved slot as a VOID record (R168): fully released at once. What its header says of a step and positions
that no call supplied is free (log entry 3). -/
def State.publishVoid (s : State) (n seq : Nat) : State :=
  let x := s.pairing n
  match x.rec? seq with
  | none => s
  | some r =>
    if r.phase = 2 then s
    else
      let ms := x.members.map (·.1)
      let (s, a) := s.draw
      let (s, b) := s.draw
      let v := match r.fields with
        | some c => (c.step, c.token0, c.position)
        | none => (a.toNat, bits b 31 0, bits b 63 32)
      let h : RecHeader := { seq := seq, pairing := n, stream := s.tyStream n, mask := maskOf ms, isVoid := true
                             status := r.nsw, step := v.1, stroke := s.stroke, token0 := v.2.1, position := v.2.2 }
      let x := x.setRec { r with phase := 2, isVoid := true, pubMask := ms, mask := [] }
      let s := (s.setPairing n x).putHeader n seq h
      ((s.countPublished n seq).addO 32 (kTY_VOID n) 1).settleSeqs n

/-- A student's hold on a record ends (R166, R169). -/
def State.endHold (s : State) (n i seq : Nat) : State :=
  let x := s.pairing n
  match x.rec? seq with
  | none => s
  | some r =>
    let x := x.setRec { r with holds := r.holds.filter (· != i), mask := r.mask.filter (· != i) }
    let x := { x with seen := tset [] x.seen i (tget [] x.seen i ++ [seq]) }
    (s.setPairing n x).settleSeqs n

/-- What a bound context's command leaves behind when it ends (R168): its unpublished slots become VOID, its holds end and
are counted. A slot whose header is not written is unpublished (a command that ends well waits for its headers, log entry
38). -/
def State.settleTally (s : State) (p : Nat) (c : RunCmd) : State :=
  match s.pairOf p with
  | none => s
  | some n =>
    let s := c.reserved.foldl (fun s q =>
      match (s.pairing n).rec? q with
      | some r => if r.phase < 2 then s.publishVoid n q else s
      | none => s) s
    match s.studentIdx n p with
    | none => s
    | some i => c.holds.foldl (fun s q => (s.endHold n i q).addO 32 (kTY_AUTO_RELEASE n) 1) s

/-! Granted entries (R130, R158). -/

/-- Add a student's granted entries: ring slices, then shared slices, each at the lowest entry that is invalid and not held
by a grant. -/
def State.addGrants (s : State) (n i p : Nat) : State :=
  let t := (s.part (s.o (kTY_TEACHER n))).slices
  ((s.ringSlices n ++ s.sharedSlices n).zipIdx).foldl (fun s q =>
    let x := s.part p
    match (upto 576).find? (fun j => let e := tget 0 x.slices j; !bit e 15 && !bit e 14) with
    | none => s
    | some j =>
      let e := BitVec.ofNat 16 (2 ^ 15 + 2 ^ 14 + 2 ^ 13 + bits (tget 0 t q.1) 9 0)
      let s := s.setPart p { x with slices := tset 0 x.slices j e }
      let y := s.pairing n
      s.setPairing n { y with grants := tset 0xFFFF y.grants (32 * i + q.2) j }) s

/-- Remove a student's granted entries. -/
def State.dropGrants (s : State) (n i p : Nat) : State :=
  let y := s.pairing n
  let mine := (y.grants.filter (fun g => g.1 / 32 == i)).map (·.2)
  let x := s.part p
  let s := (s.setPart p { x with slices := x.slices.filter (fun e => !(mine.contains e.1 && bit e.2 14)) }).cutStages p
  s.setPairing n { y with grants := y.grants.filter (fun g => g.1 / 32 != i) }

/-- Is it a wait of a tally operation on pairing `n`? -/
def tallyWait (n : Nat) : RodWait → Bool
  | .acquire m _ => m == n
  | .wait m _ => m == n
  | _ => false

/-- Is it the wait of an ACQUIRE on pairing `n`? -/
def acquireWait (n : Nat) : RodWait → Bool
  | .acquire m _ => m == n
  | _ => false

/-- Start or stop the clock of a bound context's tally waits (R185); place `i` is the student index, 4 for the teacher. -/
def State.waitMark (s : State) (n i p : Nat) : State :=
  let x := s.pairing n
  let live := s.resident p == 0 && (s.partRods p).any (fun r => tallyWait n (s.rod r).wait)
  let away := (s.ctx p 0).savedRods.any (fun q => tallyWait n q.2.wait)
  let f := tget 0 x.waitFrom i
  if live || away then
    if f = 0 then s.setPairing n { x with waitFrom := tset 0 x.waitFrom i (s.ns + 1) } else s
  else if f = 0 then s
  else s.setPairing n { x with waitFrom := terase x.waitFrom i
                               waitNs := tset 0 x.waitNs i (tget 0 x.waitNs i + (s.ns + 1 - f)) }

/-- The same for whichever member of a pairing a partition is. -/
def State.waitMarks (s : State) (p : Nat) : State :=
  match s.pairOf p with
  | some n => s.waitMark n ((s.studentIdx n p).getD 4) p
  | none => s

/-- The holds that the bound context's command has placed are over (R157, R180, R181). -/
def State.forgetHolds (s : State) (p : Nat) : State :=
  let x := s.ctx p 0
  s.setCtx p 0 { x with run := x.run.map (fun (r : RunCmd) => { r with holds := [] }) }

/-- End a member's tally waits of pairing `n`, with a status (R157, R180, R181). -/
def State.endTallyWaits (s : State) (n p st : Nat) : State := (s.endAllWaits p (tallyWait n) st).waitMarks p

/-! Rebalancing (R182, R183). -/

/-- Donor and recipient of a move. -/
def State.moveEnds (s : State) (n : Nat) (m : Move) : Nat × Nat :=
  if m.toStudent then (s.o (kTY_TEACHER n), m.student) else (m.student, s.o (kTY_TEACHER n))

def State.holdPart (s : State) (p : Nat) (h : Bool) : State := s.setPart p { s.part p with held := h }

/-- A pending or draining move is given up (R183): the pairing is ACTIVE again, dispatch resumes. A record is written for
one that was draining, or when the move's limit or its members end it. -/
def State.abandonMove (s : State) (n : Nat) (note : Bool) : State :=
  let x := s.pairing n
  match x.move with
  | none => s
  | some m =>
    let e := s.moveEnds n m
    let s := s.setPairing n { x with move := none }
    let s := if s.tyState n = tyDRAINING then s.setO (kTY_STATE n) tyACTIVE else s
    let s := (s.holdPart e.1 false).holdPart e.2 false
    if note then s.errRec { cls := 0, code := rcTY_REBAL_ABANDONED } else s

/-- Detach a student (R180): its holds end, its bit leaves every mask, its granted entries go, its WAITs end. With no
student left the pairing is BROKEN, and waiting ACQUIREs end (R156). -/
def State.detachStudent (s : State) (n p : Nat) : State :=
  match s.studentIdx n p with
  | none => s
  | some i =>
    let s := match (s.pairing n).move with
      | some m => if m.student = p then s.abandonMove n true else s
      | none => s
    let s := s.dropGrants n i p
    let x := s.pairing n
    let x := { x with students := terase x.students i
                      seen := terase x.seen i
                      imb := terase x.imb i
                      waitFrom := terase x.waitFrom i
                      waitNs := terase x.waitNs i
                      contrib := x.contrib.filter (fun c => c.1 != i)
                      recs := x.recs.map (fun r => { r with holds := r.holds.filter (· != i)
                                                            mask := r.mask.filter (· != i)
                                                            gone := if r.phase < 2 && r.fields.isSome then r.gone ++ [i] else r.gone
                                                            pubMask := r.pubMask.filter (· != i) }) }
    let s := ((s.setPairing n x).forgetHolds p).endAllWaits p (tallyWait n) stTY_DETACHED
    let s := s.settleSeqs n
    if x.members.isEmpty then
      (s.setO (kTY_STATE n) tyBROKEN).endTallyWaits n (s.o (kTY_TEACHER n)) stTY_DETACHED
    else s

/-- The teacher partition is reset or removed (R181): BROKEN, grants removed, student WAITs end, holds end. -/
def State.breakPairing (s : State) (n : Nat) : State :=
  let s := if (s.pairing n).move.isSome then s.abandonMove n true else s
  let s := s.setO (kTY_STATE n) tyBROKEN
  let s := (s.pairing n).members.foldl (fun s m =>
    ((s.dropGrants n m.1 m.2).endTallyWaits n m.2 stTY_TEACHER_LOST).forgetHolds m.2) s
  let x := s.pairing n
  (s.setPairing n { x with attach := 0, recs := x.recs.map (fun r => { r with holds := [], mask := [] }) }).settleSeqs n

/-- A partition of a pairing is reset or removed (R180, R181, R183): during MOVING the effects wait for the move's end. -/
def State.memberLost (s : State) (p : Nat) : State :=
  let s := (upto 8).foldl (fun s n =>
    if (s.pairing n).attach = p + 1 then s.setPairing n { s.pairing n with attach := 0 } else s) s
  match s.pairOf p with
  | none => s
  | some n =>
    let st := s.tyState n
    if st = tyCLOSING then s
    else if st = tyMOVING then
      s.setPairing n { s.pairing n with lostHeld := (s.pairing n).lostHeld ++ [p] }
    else if s.o (kTY_TEACHER n) = p then s.breakPairing n
    else s.detachStudent n p

/-- CLOSE takes effect (R157): waits end with TY_DETACHED, unpublished slots become VOID, holds end and are counted, grants
go. -/
def State.closeNow (s : State) (n : Nat) : State :=
  let draining := s.tyState n == tyDRAINING
  let s := if (s.pairing n).move.isSome then s.abandonMove n draining else s
  let s := s.setPairing n { s.pairing n with attach := 0 }
  let s := s.setO (kTY_STATE n) tyCLOSING
  let x := s.pairing n
  let s := (s.o (kTY_TEACHER n) :: x.members.map (·.2)).foldl
    (fun s p => s.endTallyWaits n p stTY_DETACHED) s
  let s := x.recs.foldl (fun s r => if r.phase < 2 then s.publishVoid n r.seq else s) s
  let s := x.recs.foldl (fun s r => r.holds.foldl (fun s i =>
    (s.endHold n i r.seq).addO 32 (kTY_AUTO_RELEASE n) 1) s) s
  x.members.foldl (fun s m => (s.dropGrants n m.1 m.2).forgetHolds m.2) s

/-- Strokes of waiting tally operations whose condition is unmet are counted at each stroke, whether or not their context
is resident (R177). -/
def State.tallyUnmet (s : State) : RodWait → Bool
  | .acquire n q => !s.slotFree n q
  | .wait n q => !((s.pairing n).recs.any (fun r => r.seq == q && r.phase == 2))
  | _ => false

def State.countWaits (s : State) (k : Nat) : State :=
  let s := s.rods.foldl (fun s q =>
    if s.tallyUnmet q.2.wait then s.setRod q.1 { q.2 with waitStrokes := q.2.waitStrokes + k } else s) s
  (upto 16).foldl (fun s p =>
    let x := s.ctx p 0
    if x.savedRods.isEmpty then s
    else s.setCtx p 0 { x with savedRods := x.savedRods.map (fun q =>
      if s.tallyUnmet q.2.wait then (q.1, { q.2 with waitStrokes := q.2.waitStrokes + k }) else q) }) s

end Sys2Proof.Machine
end

