-- ==== Sys2Proof/Machine/RkOps.lean ====
section
/-! DEFINITION. What the reckoners work with: update descriptors and their streams (R218, R219), parameter groups (R226,
R227), factor blocks and roots (R230 to R235), and the element rule (R224). -/

namespace Sys2Proof.Machine

open Sys2Proof

/-! Update descriptor (R218). -/

def udOp (d : BitVec 512) : Nat := bits d 3 0
def udEos (d : BitVec 512) : Bool := bit d 4
def udGroup (d : BitVec 512) : Nat := bits d 31 24
def udParts (d : BitVec 512) : Nat := bits d 39 32
def udSlot (d : BitVec 512) : Nat := bits d 51 40
def udCount (d : BitVec 512) : Nat := bits d 90 64
def udSpread (d : BitVec 512) : Nat := bits d 92 91
def udLayer (d : BitVec 512) : Nat := bits d 111 96
def udBase (d : BitVec 512) : Nat := bits d 159 112
def udWs (d : BitVec 512) : Nat := bits d 199 160
def udW (d : BitVec 512) : Nat := bits d 239 200
def udM (d : BitVec 512) : Nat := bits d 279 240
def udV (d : BitVec 512) : Nat := bits d 319 280
def udG (d : BitVec 512) : Nat := bits d 359 320
def udPg (d : BitVec 512) : Nat := bits d 399 360
def udFb (d : BitVec 512) : Nat := bits d 439 400
def udStep (d : BitVec 512) : Nat := bits d 487 440
def udWid (d : BitVec 512) : Nat := bits d 503 488

/-- Address of byte `b` of a stream (R218). -/
def streamAddr (a spread b : Nat) : Nat :=
  if spread = 0 then a + b
  else
    let u := b / 4096
    (a / 2 ^ 29 + u % 2 ^ spread) * 2 ^ 29 + (a % 2 ^ 29 + u / 2 ^ spread * 4096 + b % 4096)

/-- Physical address of an aligned item of a stream: no hole, no granted entry (R219); for a write, in no read-only slice and not
in the server's tables (R128, R301). -/
def State.rkPhys (s : State) (p a len : Nat) (wr : Bool) : Option Nat :=
  if bit (tget 0 (s.part p).slices (a / 2 ^ 29)) 14 then none else s.udPhys p a len wr

/-- The spans of a stream of `n` bytes, one in each of its slices: address and length (R218). -/
def streamSpans (a spread n : Nat) : List (Nat × Nat) :=
  let k := 2 ^ spread
  let units := (n + 4095) / 4096
  (upto k).map (fun j =>
    let mine := if spread = 0 then n else
      (let full := (units + k - 1 - j) / k * 4096
       if j = (units - 1) % k && n % 4096 ≠ 0 then full - (4096 - n % 4096) else full)
    ((a / 2 ^ 29 + j) * 2 ^ 29 + a % 2 ^ 29, mine))

/-- Rods of the slices of a stream of `n` bytes, or none where a byte falls in a hole or a granted entry (R219). -/
def State.streamRods (s : State) (p a spread n : Nat) : Option (List Nat) :=
  let rs := (streamSpans a spread n).map (fun x => (s.rkPhys p x.1 (max x.2 1) false).map (· / 2 ^ 29))
  if rs.all Option.isSome then some (rs.filterMap id) else none

/-- Accesses to a stream wait, for a row copy or the zeroing of a slice (R131, R145). -/
def State.streamBusy (s : State) (p : Nat) (x : Nat × Nat × Nat) : Bool :=
  (streamSpans x.1 x.2.1 x.2.2).any (fun y =>
    match s.rkPhys p y.1 y.2 false with
    | some a => decide (0 < y.2) && s.decks.busy a y.2
    | none => false)

/-! Parameter groups (R226). -/

/-- A parameter group at reset (R226). -/
def groupReset : BitVec 512 :=
  BitVec.ofNat 512
    (2 ^ 484 + 20 * 2 ^ 368 + 100 * 2 ^ 352 + 0x358637BD * 2 ^ 320 + 0x3F733333 * 2 ^ 288 + 2 ^ 224
      + 0x322BCC77 * 2 ^ 96 + 0x3F7FBE77 * 2 ^ 64 + 0x3F666666 * 2 ^ 32)

def gF32 (e : BitVec 512) (lo : Nat) : F32 := BitVec.ofNat 32 (nbits e.toNat lo 32)
def gPeak (e : BitVec 512) : F32 := gF32 e 0
def gBeta1 (e : BitVec 512) : F32 := gF32 e 32
def gBeta2 (e : BitVec 512) : F32 := gF32 e 64
def gEps (e : BitVec 512) : F32 := gF32 e 96
def gLambda (e : BitVec 512) : F32 := gF32 e 128
def gFloor (e : BitVec 512) : F32 := gF32 e 160
def gWarmup (e : BitVec 512) : Nat := nbits e.toNat 192 32
def gDecay (e : BitVec 512) : Nat := nbits e.toNat 224 32
def gRestart (e : BitVec 512) : Nat := nbits e.toNat 256 32
def gBetaF (e : BitVec 512) : F32 := gF32 e 288
def gDamp (e : BitVec 512) : F32 := gF32 e 320
def gEvery (e : BitVec 512) : Nat := nbits e.toNat 352 16
def gLag (e : BitVec 512) : Nat := nbits e.toNat 368 16
def gT (e : BitVec 512) : Nat := nbits e.toNat 384 64
def gRule (e : BitVec 512) : Nat := nbits e.toNat 480 2
def gSched (e : BitVec 512) : Nat := nbits e.toNat 482 2
def gBias (e : BitVec 512) : Bool := bit e 484

def State.rkGroup (s : State) (p k : Nat) : BitVec 512 := tget groupReset s.reck.groups (256 * p + k)
def State.setRkGroup (s : State) (p k : Nat) (e : BitVec 512) : State :=
  { s with reck := { s.reck with groups := tset groupReset s.reck.groups (256 * p + k) e } }

/-- In `[0, 1)`, and finite and positive. -/
def f32Unit (x : F32) : Bool := f32isFin x && !f32lt x 0 && f32lt x 0x3F800000
def f32Pos (x : F32) : Bool := f32isFin x && f32lt 0 x

/-- A group entry that the part refuses (R226). -/
def groupBad (e : BitVec 512) : Bool :=
  !f32Unit (gBeta1 e) || !f32Unit (gBeta2 e) || !f32Unit (gBetaF e) || !f32Pos (gEps e) || !f32Pos (gDamp e)
    || !(f32isFin (gPeak e) && !f32lt (gPeak e) 0) || !(f32isFin (gLambda e) && !f32lt (gLambda e) 0)
    || !(f32isFin (gFloor e) && !f32lt (gFloor e) 0 && f32le (gFloor e) 0x3F800000)
    || gDecay e == 0 || decide (2 ≤ gRule e)
    || (gRule e == 1 && (decide (gEvery e < 2) || gLag e == 0 || decide (gEvery e ≤ gLag e)))

/-- What a write of an entry keeps: LR_NOW is the part's and the reserved bits stay 0 (R12, R226); T has advanced meanwhile
unless the write changed it. -/
def groupMerge (old new : BitVec 512) (setT : Bool) : BitVec 512 :=
  let e := setField (setField new 485 27 0) 448 32 (nbits old.toNat 448 32)
  if setT then e else setField e 384 64 (nbits old.toNat 384 64)

/-- A non-negative finite F32 as a fraction. -/
def f32Frac (x : F32) : Nat × Nat :=
  match f32dec x with
  | .fin _ m e => let p := pow2 e; (m * p.1, p.2)
  | _ => (0, 1)

/-- The constants of a group, without what the part counts in it. -/
def groupConst (e : BitVec 512) : BitVec 512 := setField (setField e 384 64 0) 448 32 0

/-- A value of the schedule engine near an exact or closely approximated one: within 1 u, a free choice (R227, log
entry 6). -/
def schedNear (e : BitVec 512) (t which : Nat) (v : Mag) : F32 :=
  BitVec.ofNat 32 (nearOne fmt32 false false v (Config.schedPick (groupConst e) t which)).1

/-- A fraction as a magnitude. -/
def ratMag (n d : Nat) : Mag := { n := n ^ 4, d := d ^ 4 }

/-- Step size of the schedule at `t` (R227). -/
def schedLr (e : BitVec 512) (t : Nat) : F32 :=
  let tp := if gRestart e = 0 then t else (t - 1) % gRestart e + 1
  let w := gWarmup e
  let pk := f32Frac (gPeak e)
  let rho := f32Frac (gFloor e)
  let near := schedNear e t 0
  if tp ≤ w then near (ratMag (pk.1 * tp) (pk.2 * w))
  else
    let a := min (tp - w) (gDecay e)
    let b := gDecay e
    match gSched e with
    | 0 => gPeak e
    | 1 => near (ratMag (pk.1 * (b * rho.2 - (rho.2 - rho.1) * a)) (pk.2 * (b * rho.2)))
    | 2 =>
      -- rho + (1 − rho) (1 + cos (π p)) / 2
      near (ratMag (pk.1 * (rho.1 * 2 ^ 192 + (rho.2 - rho.1) * halfCos a b)) (pk.2 * (rho.2 * 2 ^ 192)))
    | _ =>
      if max w 1 * rho.2 ^ 2 ≤ tp * rho.1 ^ 2 then near (ratMag (pk.1 * rho.1) (pk.2 * rho.2))
      else near { n := pk.1 ^ 4 * max w 1 ^ 2, d := pk.2 ^ 4 * tp ^ 2 }

/-- Bias correction `1 / (1 − β ^ t)` (R227); `which` is 1 or 2. -/
def schedC (e : BitVec 512) (beta : F32) (t which : Nat) : F32 :=
  if gBias e then
    let b := f32Frac beta
    schedNear e t which (ratMag (2 ^ 256) (2 ^ 256 - powFix 64 (b.1 * 2 ^ 256 / b.2) t))
  else 0x3F800000

/-- The schedule engine computes a group's values for a step (R227). -/
def State.schedule (s : State) (p run step k : Nat) : State :=
  if s.reck.sched.any (fun x => x.part == p && x.run == run && x.step == step && x.group == k) then s
  else
    let e := s.rkGroup p k
    let t := gT e + 1
    let x : Sched := { part := p, run := run, step := step, group := k, t := t, lr := schedLr e t
                       c1 := schedC e (gBeta1 e) t 1, c2 := schedC e (gBeta2 e) t 2 }
    { s with reck := { s.reck with sched := s.reck.sched ++ [x] } }

/-- The latest held write of a group's entry (R226). -/
def State.heldGroup (s : State) (p k : Nat) : Option (Nat × Bool × BitVec 512) :=
  s.reck.heldGroups.reverse.find? (fun h => h.1 == 256 * p + k)

/-- A group's entry with the writes that are held. -/
def State.groupImage (s : State) (p k : Nat) : BitVec 512 :=
  match s.heldGroup p k with
  | some h => if h.2.1 then h.2.2 else setField h.2.2 384 64 (gT (s.rkGroup p k))
  | none => s.rkGroup p k

/-- Group writes that were held take effect (R226). -/
def State.applyHeldGroups (s : State) (p : Nat) : State :=
  let mine := s.reck.heldGroups.filter (fun g => g.1 / 256 == p)
  let s := { s with reck := { s.reck with heldGroups := s.reck.heldGroups.filter (fun g => g.1 / 256 != p) } }
  mine.foldl (fun s g => s.setRkGroup p (g.1 % 256) (groupMerge (s.rkGroup p (g.1 % 256)) g.2.2 g.2.1)) s

/-- An update phase of the partition is in progress: an applied verdict whose phase has not ended (R222). -/
def State.updating (s : State) (p : Nat) : Bool := s.reck.verdicts.any (fun v => v.part == p && v.applied)

/-! Factor blocks (R230). -/

/-- The factor block at an address, as a word. -/
def State.factorBlock (s : State) (p fb : Nat) : Option (BitVec 512) :=
  (s.rkPhys p fb 64 false).map (fun a => BitVec.ofNat 512 (leNat (s.decks.udRead a 64)))

/-- What stands against reading the factor block: no such place, or an unreadable word (R238). -/
def State.factorBad (s : State) (p fb : Nat) : Nat :=
  match s.rkPhys p fb 64 false with
  | none => stDECK_RANGE
  | some a => if s.decks.udBadIn a 64 then stDECK_UNCORR else 0

/-- Where a reckoner's write lands, or the status that keeps it off: no such place for a write, or a ring slot that is not open
(R128, R165, R301). -/
def State.rkWrite (s : State) (p a len : Nat) : Except Nat Nat :=
  match s.rkPhys p a len true with
  | none => .error stDECK_RANGE
  | some x => if s.ringOk p a len then .ok x else .error stTY_ORDER

/-- Change a factor block in the upper deck. -/
def State.setFactorBlock (s : State) (p fb : Nat) (f : BitVec 512 → BitVec 512) : State :=
  match s.rkWrite p fb 64 with
  | .ok a =>
    let w := f (BitVec.ofNat 512 (leNat (s.decks.udRead a 64)))
    { s with decks := (s.decks.udWrite a (leBytes 64 w.toNat)).1 }
  | .error _ => s

def fbL (w : BitVec 512) : Nat := bits w 39 0
def fbR (w : BitVec 512) : Nat := bits w 79 40
def fbSl (w : BitVec 512) : Nat := bits w 119 80
def fbSr (w : BitVec 512) : Nat := bits w 159 120
def fbQl (w : BitVec 512) : Nat := bits w 199 160
def fbQr (w : BitVec 512) : Nat := bits w 239 200
def fbRows (w : BitVec 512) : Nat := bits w 284 272
def fbCols (w : BitVec 512) : Nat := bits w 300 288
def fbActive (w : BitVec 512) : Nat := bits w 320 320
def fbValid (w : BitVec 512) : Bool := bit w 321

/-- A factor block that a push may name (R220, R230). -/
def factorOk (w : BitVec 512) (count : Nat) : Bool :=
  decide (1 ≤ fbRows w) && decide (fbRows w ≤ 4096) && decide (1 ≤ fbCols w) && decide (fbCols w ≤ 4096)
    && [fbL w, fbR w, fbSl w, fbSr w, fbQl w, fbQr w].all (fun a => a % 64 == 0) && fbRows w * fbCols w == count

/-- The matrices that a factor block names: address and bytes (R230). -/
def factorMats (w : BitVec 512) : List (Nat × Nat) :=
  let m := 4 * fbRows w ^ 2
  let n := 4 * fbCols w ^ 2
  [(fbL w, m), (fbR w, n), (fbSl w, m), (fbSr w, n), (fbQl w, m), (fbQl w + m, m), (fbQr w, n), (fbQr w + n, n)]

/-- Roots in force for a step (R232): whether there are any, and the buffer. A pass of a step before an installation sees what
was in force before it (R233). -/
def State.rootsInForce (s : State) (p run fb step : Nat) : Bool × Nat :=
  match s.factorBlock p fb with
  | none => (false, 0)
  | some w =>
    match s.reck.installed.find? (fun r => r.part == p && r.run == run && r.fb == fb && decide (step < r.install)) with
    | some r => (r.valid, r.active)
    | none =>
      if s.reck.ready.any (fun r => r.part == p && r.run == run && r.fb == fb && decide (r.install ≤ step)) then (true, 1 - fbActive w)
      else (fbValid w, fbActive w)

/-- A job for the block, due for the step or before, has not ended (R232). -/
def State.rootPending (s : State) (p run fb step : Nat) : Bool :=
  s.reck.roots.any (fun q => q.2.any (fun j => j.part == p && j.run == run && j.fb == fb && decide (j.install ≤ step)))

/-- New roots take the block over (R233). -/
def State.installRoots (s : State) (p run step : Nat) : State :=
  let due (r : RootInst) : Bool := r.part == p && r.run == run && decide (r.install ≤ step)
  let mine := s.reck.ready.filter due
  let s := { s with reck := { s.reck with ready := s.reck.ready.filter (fun r => !due r) } }
  mine.foldl (fun s r =>
    let w := (s.factorBlock p r.fb).getD 0
    let x : Installed := { part := p, run := run, fb := r.fb, install := r.install, valid := fbValid w, active := fbActive w }
    { s with reck := { s.reck with installed := s.reck.installed ++ [x] } }.setFactorBlock p r.fb (fun w =>
      let w := setField w 320 1 (1 - fbActive w)
      let w := setField w 321 1 1
      let w := setField w 328 32 r.install
      setField w 360 32 r.damp.toNat)) s

/-- Why a root job failed (R234): the factor (0 = L, 1 = R) and the cause (0 = a pivot, 1 = a non-finite entry; 2 and 3 are the
model's own for what the spec gives no cause: a factor or root that cannot be reached, and a full queue). -/
structure RootCause where
  factor : Nat
  cause : Nat
  deriving DecidableEq, Repr

/-- A root job fails (R234). A record has four arguments and the rule names six values: the factor stands in bit 16 and the
cause in bits 18 and 17 of WID's argument (DESIGN CHOICE, log entry 45). -/
def State.rootFailed (s : State) (j : RootJob) (c : RootCause) : State :=
  let s := s.setFactorBlock j.part j.fb (fun w => setField (setField w 322 1 0) 323 1 1)
  (s.addO 32 (kRK_ROOT_FALLBACKS j.part) 1).errRec
    { cls := 0, code := rcRK_ROOT_FALLBACK, part := j.part, arg0 := j.layer
      arg1 := j.wid % 2 ^ 16 + 2 ^ 16 * c.factor + 2 ^ 17 * c.cause, arg2 := j.trigger % 2 ^ 32
      arg3 := j.install % 2 ^ 32 }

/-- A job behind the earlier triggers (R235). -/
def insertJob (j : RootJob) : List RootJob → List RootJob
  | [] => [j]
  | x :: t => if j.trigger < x.trigger && !x.running then j :: x :: t else x :: insertJob j t

/-- Queue a root job, or fail it while 1,024 are held (R231, R235). -/
def State.queueRoot (s : State) (d : Nat) (j : RootJob) : State :=
  let q := tget [] s.reck.roots d
  if 1024 ≤ q.length then s.rootFailed j { factor := 0, cause := 3 }
  else
    let s := { s with reck := { s.reck with roots := tset [] s.reck.roots d (insertJob j q) } }
    s.setFactorBlock j.part j.fb (fun w => setField w 322 1 1)

/-! The factorisation of a root job (R231). -/

/-- A term of a sum: a value, or a product that is not rounded yet. -/
inductive RootTerm
  | val (x : F32)
  | prod (x y : F32)
  deriving DecidableEq, Repr

/-- A term as an F32 number. -/
def RootTerm.value : RootTerm → F32
  | .val x => x
  | .prod x y => f32mul x y

/-- Two terms together; where `fused`, a product joins a value with one rounding. -/
def RootTerm.add (fused : Bool) (t u : RootTerm) : F32 :=
  match fused, t, u with
  | true, .prod x y, u => BitVec.ofNat 32 (fmt32.fma false x.toNat y.toNat u.value.toNat).1
  | true, .val z, .prod x y => BitVec.ofNat 32 (fmt32.fma false x.toNat y.toNat z.toNat).1
  | _, t, u => f32add t.value u.value

/-- The sum of some terms of a sum of `n`, two at a time as `Config.rootMerge` picks them (log entry 7). -/
def rootFold (n : Nat) : Nat → List RootTerm → F32
  | 0, ts => (ts.headD (.val 0)).value
  | f + 1, ts =>
    if ts.length ≤ 1 then (ts.headD (.val 0)).value
    else
      let c := Config.rootMerge n ts.length
      let i := c.1 % ts.length
      let rest := ts.eraseIdx i
      let j := c.2.1 % rest.length
      rootFold n f (rest.eraseIdx j ++ [.val (RootTerm.add c.2.2 (ts.getD i (.val 0)) (rest.getD j (.val 0)))])

/-- `a + Σ x y` in F32; without terms it is `a`. -/
def rootSum (a : F32) (xs : List (F32 × F32)) : F32 :=
  rootFold (xs.length + 1) xs.length (.val a :: xs.map (fun t => .prod t.1 t.2))

/-- Element (i, j) of a row-major matrix of order k, +0 outside. -/
def matAt (x : Tab F32) (k i j : Nat) : F32 := tget 0 x (k * i + j)

/-- Column `j` of the lower Cholesky factor from the columns before it: its pivot, and the entries below (R231). -/
def cholColumn (x : Tab F32) (delta : F32) (k : Nat) (c : Tab F32) (j : Nat) : F32 × Tab F32 :=
  let terms (i : Nat) : List (F32 × F32) := (upto j).map (fun m => (f32neg (matAt c k i m), matAt c k j m))
  let pivot := rootSum (f32add (matAt x k j j) delta) (terms j)
  let d := f32sqrt pivot
  let c := tset 0 c (k * j + j) d
  (pivot, (upto (k - 1 - j)).foldl (fun (c : Tab F32) n =>
    let i := j + 1 + n
    tset 0 c (k * i + j) (f32div (rootSum (matAt x k i j) (terms i)) d)) c)

/-- Cholesky factor of `x + delta I`, column by column; none where a pivot is zero, negative or not finite (R231). -/
def cholesky (x : Tab F32) (delta : F32) (k : Nat) : Option (Tab F32) :=
  (upto k).foldl (fun (c : Option (Tab F32)) j =>
    c.bind (fun c =>
      let r := cholColumn x delta k c j
      if f32Pos r.1 then some r.2 else none)) (some [])

/-- Inverse of a lower-triangular factor, row by row (R231). -/
def lowerInverse (c : Tab F32) (k : Nat) : Tab F32 :=
  (upto k).foldl (fun (q : Tab F32) i =>
    (upto (i + 1)).foldl (fun (q : Tab F32) j =>
      let terms := (upto (i - j)).map (fun m => (f32neg (matAt c k i (j + m)), matAt q k (j + m) j))
      tset 0 q (k * i + j) (f32div (rootSum (if i = j then 0x3F800000 else 0) terms) (matAt c k i i))) q) []

/-- What the attempt at one factor gives (R231): the retries counted, and its damping and root, if a try succeeded. -/
structure RootTry where
  retries : Nat
  found : Option (F32 × Tab F32)

/-- Damping of try `a` (R231). -/
def rootDelta (damp tau : F32) (a : Nat) : F32 :=
  match f32dec tau with
  | .fin _ _ _ =>
    let x := f32Frac damp
    let y := f32Frac tau
    f32ofRat false (x.1 * y.1 * 10 ^ a) (x.2 * y.2)
  | _ => f32mul damp tau

/-- The tries of one factor of order `k` (R231). -/
def rootTries (x : Tab F32) (k : Nat) (damp : F32) : RootTry :=
  let trace := rootSum (matAt x k 0 0) ((upto (k - 1)).map (fun i => (matAt x k (i + 1) (i + 1), (0x3F800000 : F32))))
  let t := f32div trace (f32ofNat k)
  let tau : F32 := if f32lt t 0x00800000 then 0x00800000 else t
  (upto 5).foldl (fun (r : RootTry) a =>
    if r.found.isSome then r
    else
      let delta := rootDelta damp tau a
      { retries := if a = 0 then 0 else r.retries + 1
        found := (cholesky x delta k).map (fun c => (delta, lowerInverse c k)) }) { retries := 0, found := none }

/-! The element rule (R224). -/

/-- An F32 result with the flags raised on the way. -/
abbrev FN := F32 × Nsw

def fnMul (x y : FN) : FN := let r := fmt32.mul false x.1.toNat y.1.toNat; (BitVec.ofNat 32 r.1, x.2 ||| y.2 ||| r.2)
def fnAdd (x y : FN) : FN := let r := fmt32.add false x.1.toNat y.1.toNat; (BitVec.ofNat 32 r.1, x.2 ||| y.2 ||| r.2)
def fnSub (x y : FN) : FN := fnAdd x (f32neg y.1, y.2)
def fnDiv (x y : FN) : FN := let r := fmt32.div false x.1.toNat y.1.toNat; (BitVec.ofNat 32 r.1, x.2 ||| y.2 ||| r.2)
def fnSqrt (x : FN) : FN := let r := fmt32.sqrt x.1.toNat; (BitVec.ofNat 32 r.1, x.2 ||| r.2)
def fnFma (x y z : FN) : FN :=
  let r := fmt32.fma false x.1.toNat y.1.toNat z.1.toNat
  (BitVec.ofNat 32 r.1, x.2 ||| y.2 ||| z.2 ||| r.2)
def fnK (x : F32) : FN := (x, 0)

/-- A moment that overflows from finite operands is the largest finite value of its sign (R224). -/
def momentSat (fin : Bool) (x : FN) : FN :=
  match f32dec x.1 with
  | .inf neg =>
    if fin then (BitVec.ofNat 32 (fmt32.maxBits neg), (x.2 &&& ~~~nsNonfiniteOut) ||| nsOverflowSat) else x
  | _ => x

/-- New moments and weight of one element: `g` its gradient, `w` the decoded weight (R224). -/
def elementRule (e : BitVec 512) (lr c1 c2 g m v w : F32) : FN × FN × FN :=
  let b1 := gBeta1 e
  let b2 := gBeta2 e
  let k1 := f32sub 0x3F800000 b1
  let k2 := f32sub 0x3F800000 b2
  let gf := f32isFin g
  let m1 := momentSat (gf && f32isFin m) (fnFma (fnK b1) (fnK m) (fnMul (fnK k1) (fnK g)))
  let v1 := momentSat (gf && f32isFin v) (fnFma (fnK b2) (fnK v) (fnMul (fnMul (fnK k2) (fnK g)) (fnK g)))
  let q := fnDiv (fnMul (fnK c1) m1) (fnAdd (fnSqrt (fnMul (fnK c2) v1)) (fnK (gEps e)))
  let u := fnMul (fnK lr) (fnAdd q (fnMul (fnK (gLambda e)) (fnK w)))
  (m1, v1, fnSub (fnK w) u)

/-- The weight that a stored element stands for: the product TS_W × h, rounded once to F32; subnormals are honoured and an
overflow is an infinity (R58, R59, R197). -/
def weightOf (ts : F32) (h : HB16) : FN :=
  let r := fmt32.mul false ts.toNat (hb16to32 h).toNat
  (BitVec.ofNat 32 r.1, (fmt16.decode h.toNat).flags ||| r.2)

/-- A new weight as it is stored, with what the slot counts (R198, R199, R224). -/
def storeWeight (ts : F32) (r : Rnd) (x : F32) : HB16 × ConvAcc :=
  match f32dec x with
  | .inf s => (BitVec.ofNat 16 (fmt16.maxBits s), { nonfin := 1, sat := 1, nsw := (f32dec x).flags ||| nsOverflowSat })
  | v =>
    let y := narrow fmt16 true (some ts) r v
    let zero := decide (y.1 % 2 ^ 15 = 0) && !v.isNan && !v.mag.isZero
    let sat := (y.2.nsw &&& nsOverflowSat) != 0
    (BitVec.ofNat 16 y.1, { y.2 with vanish := if zero then 1 else 0, sat := if sat then 1 else 0
                                     nsw := y.2.nsw ||| (if zero then nsVanish else 0) })

end Sys2Proof.Machine
end

