-- ==== Sys2Proof/Machine/MirrorOps.lean ====
section
/-! DEFINITION. Checkpoint mirrors: step headers, images and their digests (R269 to R271). -/

namespace Sys2Proof.Machine

open Sys2Proof

def State.mirror (s : State) (p : Nat) : Mirror := tget {} s.cy.mirrors p
def State.setMirror (s : State) (p : Nat) (m : Mirror) : State :=
  { s with cy := { s.cy with mirrors := tset {} s.cy.mirrors p m } }
def State.allot (s : State) (k : Nat) : Allot := tget {} s.cy.allots k
def State.setAllot (s : State) (k : Nat) (a : Allot) : State :=
  { s with cy := { s.cy with allots := tset {} s.cy.allots k a } }

/-- A byte string as one little-endian word of 256 bits. -/
def digestOf (m : List Byte) : BitVec 256 := BitVec.ofNat 256 (leNat (sha256 m))

/-- Bytes of the step header before and after the slots and groups it holds. -/
def hdrSlots : Nat := 4096 * 128
def hdrGroups : Nat := 256 * 64

/-- The step header captured at the end of the update phase of `step` (R269): slots, parameter groups with their T,
RUN_SEED, next run step, its loss scale, GOOD_STEP_COUNT. -/
def State.stepHeader (s : State) (p step : Nat) : List Byte :=
  (upto 4096).flatMap (fun n => leBytes 128 (s.slot p n).toNat)
    ++ (upto 256).flatMap (fun k => leBytes 64 (s.rkGroup p k).toNat)
    ++ leBytes 8 (s.o (kRUN_SEED p)) ++ leBytes 8 ((step + 1) % 2 ^ 64) ++ leBytes 4 (s.lossScale p (step + 1)).toNat
    ++ leBytes 2 (s.o (kGOOD_STEP_COUNT p))

/-- Restore a step header into the objects that it names (R271). -/
def State.restoreHeader (s : State) (p : Nat) (h : List Byte) : State :=
  let num (a n : Nat) : Nat := leNat ((h.drop a).take n)
  let s := (upto 4096).foldl (fun s n => s.setSlot p n (BitVec.ofNat 1024 (num (128 * n) 128))) s
  let s := (upto 256).foldl (fun s k => s.setRkGroup p k (BitVec.ofNat 512 (num (hdrSlots + 64 * k) 64))) s
  let b := hdrSlots + hdrGroups
  ((((s.setO (kRUN_SEED p) (num b 8)).setO (kRUN_STEP p) (num (b + 8) 8)).setO (kLOSS_SCALE p) (num (b + 16) 4)).setO
    (kGOOD_STEP_COUNT p) (num (b + 20) 2))

/-- Regions named by CY_MIRROR_REGIONS: address and length, up to the first of length 0 (R274). -/
def State.mirrorRegions (s : State) (p : Nat) : List (Nat × Nat) :=
  ((upto 64).map (fun i => (s.blobNum (kCY_MIRROR_REGIONS p) (16 * i) 8,
    s.blobNum (kCY_MIRROR_REGIONS p) (16 * i + 8) 8))).takeWhile (fun r => r.2 != 0)

/-- Every byte that the digest covers, in order (R270). -/
def mirrorStream (m : MirrorImage) : List Byte :=
  m.hdr ++ m.regions.flatMap (fun r => mread m.bytes r.1 r.2)

/-- Bytes held (R270). -/
def mirrorSize (m : MirrorImage) : Nat := m.hdr.length + (m.regions.map (·.2)).sum

/-- A mirror header (R270). -/
def mirrorHeader (m : MirrorImage) (digest : BitVec 256) : BitVec 512 :=
  BitVec.ofNat 512 (1 + (m.step % 2 ^ 64) * 2 ^ 64 + (m.stroke % 2 ^ 64) * 2 ^ 128 + (mirrorSize m % 2 ^ 64) * 2 ^ 192
    + digest.toNat * 2 ^ 256)

/-- Every 64 B unit of a region is there, and readable when it is to be read. -/
def State.regionOk (s : State) (p : Nat) (wr : Bool) (r : Nat × Nat) : Bool :=
  (upto (r.2 / 64)).all (fun i =>
    match s.udPhys p (r.1 + 64 * i) 64 wr with
    | some a => wr || !s.decks.udBadIn a 64
    | none => false)

/-- Deferred records of the unreadable units of a region (R147). -/
def State.regionRecs (s : State) (p : Nat) (r : Nat × Nat) : State :=
  (upto (r.2 / 64)).foldl (fun (s : State) i =>
    match s.udPhys p (r.1 + 64 * i) 64 false with
    | some a => if s.decks.udBadIn a 64 then s.errRec { uncorrRec p a with rod := a / 2 ^ 29 } else s
    | none => s) s

/-- The bytes of a region, by address of the partition. -/
def State.regionRead (s : State) (p : Nat) (m : Mem) (r : Nat × Nat) : Mem :=
  (upto (r.2 / 64)).foldl (fun m i =>
    match s.udPhys p (r.1 + 64 * i) 64 false with
    | some a => mwrite m (r.1 + 64 * i) (s.decks.udRead a 64)
    | none => m) m

/-- Write the bytes of a region back (R271). -/
def State.regionWrite (s : State) (p : Nat) (m : Mem) (r : Nat × Nat) : State :=
  (upto (r.2 / 64)).foldl (fun s i =>
    match s.udPhys p (r.1 + 64 * i) 64 true with
    | some a => { s with decks := (s.decks.udWrite a (mread m (r.1 + 64 * i) 64)).1 }
    | none => s) s

/-- The image a copy sends (R269). -/
def State.mirrorImage (s : State) (p step stroke : Nat) (hdr : List Byte) : MirrorImage :=
  let rs := s.mirrorRegions p
  { step := step, stroke := stroke, hdr := hdr, regions := rs
    bytes := rs.foldl (fun m r => s.regionRead p m r) [] }

/-- A copy begins at the end of an update phase, at or after its scheduled stroke (R269). -/
def State.mirrorStart (s : State) (p step : Nat) : State :=
  let m := s.mirror p
  if m.on && m.copy.isNone && decide (s.o (kCY_MIRROR_NEXT p) ≤ s.stroke) then
    (s.setMirror p { m with copy := some (step, s.stroke), hdr := s.stepHeader p step }).setO (kCY_MIRROR_NEXT p)
      ((s.o (kCY_MIRROR_NEXT p) + s.o (kCY_MIRROR_EVERY p)) % 2 ^ 64)
  else s

/-! The mirror host (R268, R270, R271). -/

/-- The client of an allotment (R268). -/
def State.allotNames (s : State) (k node part : Nat) : Bool :=
  s.o (kCY_ALLOT_EXTENTS k) != 0 && s.o (kCY_ALLOT_CLIENT k) == node && s.o (kCY_ALLOT_PART k) == part

/-- Every extent of the allotment has been zero-filled and granted (R138). -/
def State.allotGranted (s : State) (k : Nat) : Bool :=
  (s.allot k).exts.all (fun e => tget 0xFF s.decks.owner e == 0x11)

/-- Bytes of one generation (R268). -/
def State.genBytes (s : State) (k : Nat) : Nat := s.o (kCY_ALLOT_EXTENTS k) * 2 ^ 30 / max 1 (s.o (kCY_ALLOT_SLOTS k))

/-- Physical lower-deck address of byte `o` of a generation (R135, R268). -/
def State.genAddr (s : State) (k gen o : Nat) : Nat :=
  let x := gen * s.genBytes k + o
  (s.allot k).exts.getD (x / 2 ^ 30) 0 * 2 ^ 30 + x % 2 ^ 30

/-- Write bytes of a generation from byte `o` on (R268); units wholly written become readable. -/
def State.genWrite (s : State) (k gen o : Nat) (bs : List Byte) : State :=
  { s with decks := bs.zipIdx.foldl (fun (d : Decks) b =>
      let x := s.genAddr k gen (o + b.2)
      { d.ldPut x b.1 with ldBad := terase d.ldBad (x / 64) }) s.decks }

/-- Bytes `[o, o + n)` of a generation, as the lower deck gives them (R146, R147): each unreadable unit is recorded, and its bytes
are read as zeros, so that a reader finds the digest wrong (DESIGN CHOICE, log entry 51). -/
def State.genRead (s : State) (k gen o n : Nat) : State × List Byte :=
  let bad (a : Nat) : Bool := tget false s.decks.ldBad (a / 64)
  let addrs := (upto n).map (fun i => s.genAddr k gen (o + i))
  let hit := (addrs.filter bad).map (· / 64) |>.eraseDups
  (hit.foldl (fun (s : State) u => s.errRec (uncorrRec 0xFF (64 * u))) s,
    addrs.map (fun a => if bad a then 0 else s.decks.ldByte a))

/-- The generation of the latest mirror (R270): the valid one with the higher STEP. -/
def State.latestGen (s : State) (k : Nat) : Option Nat :=
  let a := s.allot k
  ((upto 2).filter (fun g => bit (tget 0 a.hdrs g) 0)).foldl (fun (best : Option Nat) g =>
    match best with
    | none => some g
    | some b => if bits (tget 0 a.hdrs b) 127 64 < bits (tget 0 a.hdrs g) 127 64 then some g else some b) none

/-- The generation that the next copy goes to (R269): the one that is not the latest mirror, or the only one. -/
def State.inactiveGen (s : State) (k : Nat) : Nat :=
  if s.o (kCY_ALLOT_SLOTS k) = 1 then 0 else match s.latestGen k with | some 0 => 1 | _ => 0

/-- VALID of a generation is cleared (R270). -/
def State.clearGen (s : State) (k gen : Nat) : State :=
  let a := s.allot k
  s.setAllot k { a with hdrs := tset 0 a.hdrs gen (setField (tget 0 a.hdrs gen) 0 1 0) }

/-- The latest mirror of an allotment (R270), its header first. -/
def State.latestMirror (s : State) (k : Nat) : Option (State × List Byte) :=
  (s.latestGen k).map (fun g => s.genRead k g 0 (64 + bits (tget 0 (s.allot k).hdrs g) 255 192))

/-! Mirror buffers (R268). -/

/-- The stagers write what a mirror buffer holds into the allotments, oldest first. -/
def State.drainBuffer (s : State) (d : Nat) : State :=
  let s := (tget [] s.cy.mirrorBuf d).foldl (fun (s : State) x => s.genWrite x.allot x.gen x.off x.data) s
  { s with cy := { s.cy with mirrorBuf := terase s.cy.mirrorBuf d } }

/-- Bytes in a mirror buffer. -/
def State.bufferFill (s : State) (d : Nat) : Nat := ((tget [] s.cy.mirrorBuf d).map (fun x => x.data.length)).sum

/-- Bytes of a copy land in the buffer of stack `d` (R268). The spec does not say when the stagers empty it: before it would
overflow, and before a copy is committed (DESIGN CHOICE, log entry 51). -/
def State.bufferPut (s : State) (d : Nat) (x : MirrorPiece) : State :=
  let s := if 2 ^ 20 < s.bufferFill d + x.data.length then s.drainBuffer d else s
  { s with cy := { s.cy with mirrorBuf := tset [] s.cy.mirrorBuf d (tget [] s.cy.mirrorBuf d ++ [x]) } }

/-- A client's message with bytes of its copy (R268 to R270). A new FLOW begins a new copy, which clears VALID of the generation it
goes to; its first 64 B are the mirror header. What does not fit the generation is dropped, and the copy is never whole. -/
def State.copyPiece (s : State) (d k flow : Nat) (data : List Byte) : State :=
  let old := (s.allot k).coming
  let cur : Nat × Nat × Nat := match old with
    | some x => if x.1 = flow then x else (flow, s.inactiveGen k, 0)
    | none => (flow, s.inactiveGen k, 0)
  let gen := cur.2.1
  let off := cur.2.2
  let fits := decide (off + data.length ≤ s.genBytes k) && s.allotGranted k
  let s := if off = 0 then
      let a := s.allot k
      s.setAllot k { a with hdrs := tset 0 a.hdrs gen (setField (BitVec.ofNat 512 (leNat (data.take 64))) 0 1 0) }
    else s
  let data := if off = 0 then leBytes 64 (tget 0 (s.allot k).hdrs gen).toNat ++ data.drop 64 else data
  let s := s.setAllot k { s.allot k with coming := some (flow, gen, if fits then off + data.length else off) }
  if fits then s.bufferPut d { allot := k, gen := gen, off := off, data := data } else s

end Sys2Proof.Machine
end

