-- ==== Sys2Proof/Machine/Reckoner.lean ====
section
/-! DEFINITION. The reckoner commands: pushes, passes, tensor updates and root jobs (R217 to R240). -/

namespace Sys2Proof.Machine

open Sys2Proof

/-! Pushing. -/

/-- Streams of a pass: address, spread, bytes (R218, R219). -/
def passStreams (d : BitVec 512) (matrix : Bool) : List (Nat × Nat × Nat) :=
  let c := udCount d
  let n := udSpread d
  [(udW d, n, 2 * c), (udM d, n, 4 * c), (udV d, n, 4 * c), (udG d, n, 2 * c), (udWs d, 0, 4)]
    ++ (if matrix then [(udPg d, n, 4 * c), (udFb d, 0, 64)] else [])

/-- The step that a descriptor's 48 bits name (R218): the number nearest to the run step that ends in them. -/
def State.fullStep (s : State) (p k : Nat) : Nat :=
  let now := s.runStep p
  let m := 2 ^ 48
  let x := now / m * m + k
  if now + m / 2 < x && m ≤ x then x - m else if x + m / 2 ≤ now then x + m else x

/-- The conditions of R221 that no verdict can mend: the partition is IDLE, or the step is below the one whose update phase
ended last. -/
def State.stepGone (s : State) (p step : Nat) : Bool := !s.running p || decide (step + 1 < tget 0 s.reck.ended p)

/-- What is checked at a push: the status, or the reckoner (R219, R220, R221). A factor block is held to the pass's stack as a
stream is, since a reckoner reaches no other (R217; DEDUCED, log entry 46). A step that R221 leaves no outcome but a refusal is
refused with DESC_INVALID, as R220 says of every check but R219's. -/
def State.passCheck (s : State) (p : Nat) (d : BitVec 512) : Except Nat Nat :=
  let e := s.rkGroup p (udGroup d)
  let matrix := gRule e == 1
  let c := udCount d
  let al := if udSpread d = 0 then 64 else 4096
  let fb := if matrix then s.factorBlock p (udFb d) else none
  let mats := match fb with | some w => factorMats w | none => []
  let form := !s.stepGone p (s.fullStep p (udStep d)) && udOp d == 1 && decide (1 ≤ udParts d) && decide (1 ≤ c) && decide (c ≤ 119275520)
    && [udWs d, udFb d, udPg d].all (fun a => a % 64 == 0)
    && [udW d, udM d, udV d, udG d].all (fun a => a % al == 0) && (!matrix || udPg d % al == 0)
    && (match fb with | some w => factorOk w c | none => true)
  let rods := (passStreams d matrix ++ mats.map (fun m => (m.1, 0, m.2))).map (fun x => s.streamRods p x.1 x.2.1 x.2.2)
  let die := match s.rkPhys p (udW d) 64 false with | some a => rodDie (a / 2 ^ 29) | none => 16
  let st := lowest
    [(!form, stDESC_INVALID), (rods.any Option.isNone || (matrix && fb.isNone), stDECK_RANGE),
     (rods.any (fun r => (r.getD []).any (fun x => rodDie x != die)), stRK_PLACEMENT),
     (matrix && s.factorBad p (udFb d) == stDECK_UNCORR, stDECK_UNCORR)]
  if st = 0 then .ok die else .error st

/-- The record of a status of a pass (R238), with the physical address of an unreadable word (R147). -/
def passRec (p st addr : Nat) : ErrRec := { cls := 2, code := st, part := p, addr := addr }

/-- The record of a status found at a push: the one word read there is the factor block (R147, R220, R238). -/
def State.pushRec (s : State) (p : Nat) (d : BitVec 512) (st : Nat) : ErrRec :=
  passRec p st (if st = stDECK_UNCORR then (s.rkPhys p (udFb d) 64 false).getD 0 else 0)

/-- The verdict of a step of a run, if it is known and its update phase has not ended (R221). -/
def State.verdictOf (s : State) (p run step : Nat) : Option Verdict :=
  s.reck.verdicts.find? (fun v => v.part == p && v.run == run && v.step == step)

/-- Push an update descriptor (R220, R222, R227). -/
def State.pushPass (s : State) (p : Nat) (d : BitVec 512) (cmd : Option Nat) : Except Nat State :=
  match s.passCheck p d with
  | .error e => .error e
  | .ok die =>
    let r := s.reck
    let run := (s.num p).runs
    let step := s.fullStep p (udStep d)
    let late := r.eos.any (fun e => e.part == p && e.run == run && e.step == step)
    let x : Pass := { id := r.nextId, part := p, desc := d, run := run, step := step, cmd := cmd, reck := die, phase := 0
                      late := late }
    let e : EosPass := { part := p, run := run, step := step, id := x.id }
    let s := { s with reck := { r with q := r.q ++ [x], nextId := r.nextId + 1
                                       eos := if udEos d && !late then r.eos ++ [e] else r.eos } }
    match s.verdictOf p run step with
    | some v => .ok (if v.applied then s.schedule p run step (udGroup d) else s)
    | none => .ok s

/-- Descriptors of a partition's queue (R220). -/
def State.queueFill (s : State) (p : Nat) : Nat := (s.reck.q.filter (fun x => x.part == p && x.phase == 0)).length

/-- A rod program's push (R220, R238): a refused one ends its command. -/
def State.rodUpdate (s : State) (rod : Nat) (desc : BitVec 512) : State :=
  let p := s.owner rod
  match s.pushPass p desc none with
  | .ok s' => s'
  | .error e => (s.errRec (s.pushRec p desc e)).failRod rod e

/-- UPDATE_PUSH (R220): a rod program pushes an update descriptor; with 4,096 queued the push waits. -/
def execUpdatePush (rod : Nat) (desc : BitVec 512) (s : State) : Out :=
  if !s.issues rod then .next s
  else if s.queueFill (s.owner rod) < 4096 then .next (s.rodUpdate rod desc)
  else .next (s.setRod rod { s.rod rod with wait := .updatePush desc, waitStrokes := 0, waitSince := s.ns })

/-- Pushes that wait while the update queue is full enter it, the longest wait first, then the lowest rod number (R220; the
order among waiting rods is a DESIGN CHOICE, log entry 24). -/
def State.admitPasses (p : Nat) : Nat → State → State
  | 0, s => s
  | n + 1, s =>
    let w := (s.partRods p).filterMap (fun r =>
      match (s.rod r).wait with
      | .updatePush d => some ((s.rod r).waitSince, r, d)
      | _ => none)
    match w.find? (fun x => w.all (fun y => decide (x.1 ≤ y.1))) with
    | none => s
    | some x =>
      if 4096 ≤ s.queueFill p then s
      else State.admitPasses p n ((s.setRod x.2.1 { s.rod x.2.1 with wait := .none }).rodUpdate x.2.1 x.2.2)

/-! Ends of passes and of update phases. -/

/-- Ratios of the step's layers (R212, R213). A layer's tensors are taken in the order of their slots (DESIGN CHOICE, log
entry 47). -/
def State.writeRatios (s : State) (p run step : Nat) : State :=
  let x := s.num p
  let before (a b : UwPart) : Bool := if a.slot ≠ b.slot then decide (a.slot < b.slot) else decide (a.base ≤ b.base)
  let mine := x.uwParts.filter (fun u => u.run == run && u.step == step)
  let ls := (mine.map (·.layer)).eraseDups.filter (fun l => decide (l < 4096))
  let ratio (l : Nat) : F32 :=
    let ts := ((mine.filter (fun u => u.layer == l)).mergeSort before).flatMap (·.terms)
    let a := ts.foldl (fun c t => f32add c t.1) 0
    let b := ts.foldl (fun c t => f32add c t.2) 0
    if f32le a 0 && f32le b 0 then 0
    else if f32le a 0 then 0x7F800000
    else f32div (f32sqrt b) (f32sqrt a)
  let rs := ls.map (fun l => (l, ratio l))
  let s := s.setNum p { x with uw := rs.foldl (fun (t : Tab F32) (r : Nat × F32) => tset 0 t r.1 r.2) x.uw }
  let s := s.setO (kUW_STEP p) (step % 2 ^ 64)
  let warn : F32 := BitVec.ofNat 32 (s.o (kUW_WARN p))
  let high := (rs.filter (fun r => f32lt warn r.2)).map (·.1)
  if !f32lt 0 warn || high.isEmpty then s
  else s.errRec { cls := 0, code := rcUW_HIGH, part := p, arg0 := step % 2 ^ 32
                  arg1 := high.foldl min 4095, arg2 := high.length }

/-- Forget a step of a run: its verdict, schedule, END_OF_STEP pass, what its passes raised and measured. -/
def State.forgetStep (s : State) (p run step : Nat) : State :=
  let r := s.reck
  let other (a b c : Nat) : Bool := !(a == p && b == run && c == step)
  let x := s.num p
  { s with reck := { r with
      eos := r.eos.filter (fun e => other e.part e.run e.step)
      verdicts := r.verdicts.filter (fun v => other v.part v.run v.step)
      sched := r.sched.filter (fun c => other c.part c.run c.step)
      accs := r.accs.filter (fun a => other a.part a.run a.step) } }.setNum p
    { x with uwParts := x.uwParts.filter (fun u => !(u.run == run && u.step == step)) }

/-- The update phase of a step ends once its END_OF_STEP pass and every pass pushed before it have completed (R212, R214,
R222, R226, R227, R233, R240, R269). A step of a run that has ended, whose END_OF_STEP pass was never pushed, is forgotten with
its last pass. -/
def State.updateEnd (s : State) (p run step : Nat) : State :=
  let r := s.reck
  let mine (x : Pass) : Bool := x.part == p && x.run == run && x.step == step
  let gone := (run != (s.num p).runs || !s.running p) && !r.q.any mine
  match r.eos.find? (fun e => e.part == p && e.run == run && e.step == step), s.verdictOf p run step with
  | some e, some v =>
    if r.q.any (fun x => mine x && decide (x.id ≤ e.id)) then s
    else
      let scheds := r.sched.filter (fun c => c.part == p && c.run == run && c.step == step)
      let acc := r.accs.find? (fun a => a.part == p && a.run == run && a.step == step)
      let now := run == (s.num p).runs
      let s := if now then { s with reck := { s.reck with ended := tset 0 s.reck.ended p (step + 1) } } else s
      let s := if v.applied then
          let s := scheds.foldl (fun s c =>
            s.setRkGroup p c.group (setField (setField (s.rkGroup p c.group) 384 64 c.t) 448 32 c.lr.toNat)) s
          (s.installRoots p run step).writeRatios p run step
        else s
      let s := (s.forgetStep p run step)
      let s := { s with reck := { s.reck with installed := s.reck.installed.filter (fun i =>
        !(i.part == p && i.run == run && decide (i.install ≤ step))) } }
      let st := match acc with | some a => a.nsw.toNat + (if a.damaged then 2 ^ 16 else 0) | none => 0
      let s := s.setO (kRK_STEP_STATUS p) st
      let s := if s.updating p then s else s.applyHeldGroups p
      let s := if s.running p && now then s.phaseEnd p step (!v.applied) v.l else s
      s.mirrorStart p step
  | _, _ =>
    if gone then
      let s := s.forgetStep p run step
      if s.updating p then s else s.applyHeldGroups p
    else s

/-- OR into what the passes of a step have raised. -/
def State.accStep (s : State) (x : Pass) (w : Nsw) (damaged : Bool) : State :=
  let r := s.reck
  let mine (a : StepAcc) : Bool := a.part == x.part && a.run == x.run && a.step == x.step
  if r.accs.any mine then
    { s with reck := { r with accs := r.accs.map (fun a =>
      if mine a then { a with nsw := a.nsw ||| w, damaged := a.damaged || damaged } else a) } }
  else
    let a : StepAcc := { part := x.part, run := x.run, step := x.step, nsw := w, damaged := damaged }
    { s with reck := { r with accs := r.accs ++ [a] } }

/-- Slot-write commands all of whose writes have now taken effect complete (R223, R391). -/
def State.settleSlotWrites (s : State) (p : Nat) : State :=
  (s.host.live.filter (fun l => hcOpcode l.cmd.hdr == 8 && l.cmd.part == p
    && !s.reck.tensors.any (fun t => t.part == p && t.held.isSome && decide (hcArg l.cmd.hdr 0 ≤ t.slot)
      && decide (t.slot < hcArg l.cmd.hdr 0 + hcArg l.cmd.hdr 1)))).foldl
    (fun (s : State) l => s.completeLive l.id 0 (hcArg l.cmd.hdr 1) 0) s

/-- A tensor update leaves the slot: a host write that was held takes effect (R223). -/
def State.dropTensor (s : State) (t : TensorUpd) : State :=
  let s := { s with reck := { s.reck with tensors := s.reck.tensors.filter (fun y => !(y.part == t.part && y.slot == t.slot)) } }
  match t.held with
  | some v => (s.writeSlot t.part t.slot v).settleSlotWrites t.part
  | none => s

/-- Tensor updates of steps whose update phase is over, of which no part is left to run, are given up: fewer than PARTS parts
were pushed (log entry 175). -/
def State.dropTensors (s : State) (p : Nat) : State :=
  (s.reck.tensors.filter (fun t => t.part == p && (s.verdictOf p t.run t.step).isNone
    && !s.reck.q.any (fun x => x.part == p && x.run == t.run && x.step == t.step && udSlot x.desc == t.slot))).foldl
      State.dropTensor s

/-- A pass completes with a status (R221, R238, R240); a push that waited for its place follows (R220). -/
def State.completePass (s : State) (x : Pass) (st : Nat) : State :=
  let p := x.part
  let s := { s with reck := { s.reck with q := s.reck.q.filter (fun y => y.id != x.id) } }
  let s := if st = 0 then s.addO 64 (kRK_PASSES p) 1 else
    s.setBlob (kRK_LAST_ERROR p) 0
      (leBytes 4 st ++ leBytes 4 (udGroup x.desc) ++ leBytes 8 x.step)
  let s := if st = stRK_SKIPPED then s.addO 32 (kRK_SKIPPED_PASSES p) 1 else s
  let s := if st = 0 || st = stRK_SKIPPED then s else s.errRec (passRec p st x.addr)
  State.admitPasses p 4096 (((s.completeOpt x.cmd st 0 x.nsw).updateEnd p x.run x.step).dropTensors p)

/-- Put a changed tensor update in its place. -/
def State.setTensor (s : State) (t : TensorUpd) : State :=
  let ts : List TensorUpd := s.reck.tensors.map (fun y => if y.part = t.part && y.slot = t.slot then t else y)
  { s with reck := { s.reck with tensors := ts } }

/-- A part of a tensor update ends with a status (R223, R238): the last one goes on to write the word, unless a part found the
slot or the scale invalid. `t` counts the part already. -/
def State.partEnd (s : State) (x : Pass) (t : TensorUpd) (st : Nat) : State :=
  let s := s.setTensor t
  if t.done < t.parts then s.completePass x st
  else if t.fail ≠ 0 then (s.dropTensor t).completePass x st
  else
    let q : List Pass := s.reck.q.map (fun y => if y.id = x.id then { x with phase := 2, status := st } else y)
    { s with reck := { s.reck with q := q } }

/-! Starting. -/

/-- What becomes of the pass at the head of its reckoner's order (R221, R222): none while it waits, else its status, 0 to
run. -/
def State.passOutcome (s : State) (x : Pass) : Option Nat :=
  let p := x.part
  if x.late then some stRK_STEP_RANGE
  else match s.verdictOf p x.run x.step with
    | some v => some (if v.applied then 0 else stRK_SKIPPED)
    | none =>
      if x.run ≠ (s.num p).runs || !s.running p || x.step < tget 0 s.reck.ended p then some stRK_STEP_RANGE else none

/-- The tensor update that a part belongs to, if one is in progress on its slot or weight scale word (R223). -/
def State.tensorOf (s : State) (p : Nat) (d : BitVec 512) : Option TensorUpd :=
  s.reck.tensors.find? (fun t => t.part == p && (t.slot == udSlot d || t.ws == udWs d))

/-- A pass and a tensor update agree in all that every part must carry alike (R223). -/
def TensorUpd.same (t : TensorUpd) (x : Pass) : Bool :=
  t.slot == udSlot x.desc && t.ws == udWs x.desc && t.group == udGroup x.desc && t.parts == udParts x.desc
    && t.run == x.run && t.step == x.step

/-- The tensor update that a pass begins (R223). -/
def State.newTensor (s : State) (x : Pass) (w : F32) : TensorUpd :=
  let d := x.desc
  { part := x.part, run := x.run, slot := udSlot d, ws := udWs d, group := udGroup d
    parts := udParts d, step := x.step, sub := x.id, tsn := slotTs (s.slot x.part (udSlot d)), tsw := w }

/-- Begin or join a tensor update (R198, R223, R238): a status and the unreadable word's address, or the state with the update in
progress. The slot's FORMAT and the word are checked as each part starts; the word in force is the one the first part read. -/
def State.joinTensor (s : State) (x : Pass) : Except (Nat × Nat) State :=
  let p := x.part
  let d := x.desc
  match s.tensorOf p d, s.rkPhys p (udWs d) 4 false with
  | some t, none => .error (if t.same x then stDECK_RANGE else stRK_ORDER, 0)
  | none, none => .error (stDECK_RANGE, 0)
  | t, some a =>
    let w : F32 := BitVec.ofNat 32 (leNat (s.decks.udRead a 4))
    let failed := match t with | some t => if t.same x then t.fail else 0 | none => 0
    let st := lowest [(!scaleOk w, stSCALE_INVALID), (bits (s.slot p (udSlot d)) 545 544 != 2, stSLOT_INVALID),
                      (failed != 0, failed), (s.decks.udBadIn a 4, stDECK_UNCORR),
                      (match t with | some t => !t.same x | none => false, stRK_ORDER)]
    if st ≠ 0 then .error (st, if st = stDECK_UNCORR then a else 0)
    else match t with
      | some _ => .ok s
      | none => .ok { s with reck := { s.reck with tensors := s.reck.tensors ++ [s.newTensor x w] } }

/-- A part completes at its start with a status (R223, R238): it counts as a part of its tensor update, which an invalid slot or
scale fails as a whole, and a word that cannot be reached or read damages the step. A part that differs from the update in force
leaves it alone, and so does one of a step whose phase has ended. -/
def State.partFails (s : State) (x : Pass) (st : Nat) : State :=
  let s := if st = stDECK_RANGE || st = stDECK_UNCORR then s.accStep x 0 true else s
  let count (s : State) (t : TensorUpd) : State :=
    s.partEnd x { t with done := t.done + 1
                         fail := if st = stSLOT_INVALID || st = stSCALE_INVALID then st else t.fail } st
  match s.tensorOf x.part x.desc with
  | some t => if t.same x && st ≠ stRK_ORDER then count s t else s.completePass x st
  | none =>
    if st = stRK_STEP_RANGE then s.completePass x st
    else
      let t := s.newTensor x 0
      count { s with reck := { s.reck with tensors := s.reck.tensors ++ [t] } } t

/-- A mirror copy of the partition is being taken: its passes wait (R269). -/
def State.mirrorHolds (s : State) (p : Nat) : Bool := (tget {} s.cy.mirrors p).copy.isSome

/-- PASS_START (R220 to R223, R232): the pass at the head of a free reckoner's order starts, waits, or completes. One that starts
leaves its place in the queue to a push that waits. -/
def execPassStart (reck : Nat) (s : State) : Out :=
  if s.reck.q.any (fun x => x.reck == reck && x.phase != 0) then .next s
  else match s.reck.q.find? (fun x => x.reck == reck) with
    | none => .next s
    | some x =>
      match s.passOutcome x with
      | none => .next s
      | some 0 =>
        let d := x.desc
        let matrix := gRule (s.rkGroup x.part (udGroup d)) == 1
        if (matrix && s.rootPending x.part x.run (udFb d) x.step) || s.mirrorHolds x.part || s.streamBusy x.part (udWs d, 0, 4) then .next s
        else match s.joinTensor x with
          | .error e => .next (s.partFails { x with addr := e.2 } e.1)
          | .ok s =>
            .next (State.admitPasses x.part 4096 { s with reck := { s.reck with q := s.reck.q.map (fun y =>
              if y.id = x.id then { y with phase := 1 } else y) } })
      | some st => .next (if x.late then s.partFails x st else s.completePass x st)

/-! The work of a pass. -/

/-- An item of a stream: its physical address, if it is there and readable, and open to a write where `wr`; else a status and
the address of the unreadable word (R128, R147, R165, R238, R301). A closed ring slot ends a pass as a hole does (log
entry 176). -/
def State.rkItem (s : State) (p a spread b len : Nat) (wr : Bool) : Except (Nat × Nat) Nat :=
  let v := streamAddr a spread b
  match (if wr then s.rkWrite p v len else match s.rkPhys p v len false with | some x => .ok x | none => .error stDECK_RANGE) with
  | .error e => .error (e, 0)
  | .ok x => if s.decks.udBadIn x len then .error (stDECK_UNCORR, x) else .ok x

def State.num32 (s : State) (a : Nat) : F32 := BitVec.ofNat 32 (leNat (s.decks.udRead a 4))
def State.num16 (s : State) (a : Nat) : HB16 := BitVec.ofNat 16 (leNat (s.decks.udRead a 2))
def State.put (s : State) (a : Nat) (bs : List Byte) : State := { s with decks := (s.decks.udWrite a bs).1 }

/-- Blend element `i` of a factor (R229). -/
def State.blendElem (s : State) (p : Nat) (e : BitVec 512) (f st i : Nat) : Except (Nat × Nat) (State × Nsw) :=
  match s.rkItem p f 0 (4 * i) 4 true, s.rkItem p st 0 (4 * i) 4 false with
  | .ok a, .ok b =>
    let k := f32sub 0x3F800000 (gBetaF e)
    let x := fnFma (fnK (gBetaF e)) (fnK (s.num32 a)) (fnMul (fnK k) (fnK (s.num32 b)))
    .ok (s.put a (leBytes 4 x.1.toNat), x.2)
  | .error e, _ => .error e
  | _, .error e => .error e

/-- What a pass has raised and measured so far. -/
structure PassAcc where
  nsw : Nsw := 0
  conv : ConvAcc := {}
  bad : Nat := 0
  uw : List (F32 × F32) := []

/-- The constants of a running pass. -/
structure PassCtx where
  p : Nat
  d : BitVec 512
  /-- step in full -/
  step : Nat
  e : BitVec 512
  sc : Sched
  t : TensorUpd
  v : Verdict
  /-- the gradient stream is PG (R232) -/
  pg : Bool

/-- Where a weight write draws from (R210): the run's seed and the pass's own step, also when the run has ended meanwhile, so that
the result does not depend on when the pass runs (R225; log entry 48). -/
def weightDraw (seed step layer : Nat) : Draw := { seed := seed, stream := 0xF0000103, step := step, layer := layer }

/-- Update element `i` (R198, R224, R225). -/
def State.passElem (s : State) (c : PassCtx) (acc : PassAcc) (i : Nat) : Except (Nat × Nat) (State × PassAcc) :=
  let n := udSpread c.d
  match s.rkItem c.p (udW c.d) n (2 * i) 2 true, s.rkItem c.p (udM c.d) n (4 * i) 4 true,
      s.rkItem c.p (udV c.d) n (4 * i) 4 true,
      (if c.pg then s.rkItem c.p (udPg c.d) n (4 * i) 4 false else s.rkItem c.p (udG c.d) n (2 * i) 2 false) with
  | .ok aw, .ok am, .ok av, .ok ag =>
    let g0 := if c.pg then s.num32 ag else f32div (hb16to32 (s.num16 ag)) c.v.l
    let bad := !f32isFin g0
    let g : F32 := if bad then 0 else g0
    let w := weightOf c.t.tsw (s.num16 aw)
    let r := elementRule c.e c.sc.lr c.sc.c1 c.sc.c2 g (s.num32 am) (s.num32 av) w.1
    let dr := weightDraw c.v.seed c.step (udWid c.d)
    let h := storeWeight c.t.tsn (.sr (dr.elem (udBase c.d + i))) r.2.2.1
    let canon (x : F32) : F32 := if f32isNan x then 0x7FC00000 else x
    let w1 := (weightOf c.t.tsn h.1).1
    let df := f32sub w1 w.1
    let s := ((s.put aw (leBytes 2 h.1.toNat)).put am (leBytes 4 (canon r.1.1).toNat)).put av
      (leBytes 4 (canon r.2.1.1).toNat)
    .ok (s, { nsw := acc.nsw ||| w.2 ||| r.1.2 ||| r.2.1.2 ||| r.2.2.2 ||| h.2.nsw, conv := acc.conv.join h.2
              bad := acc.bad + (if bad then 1 else 0), uw := acc.uw ++ [(f32mul w.1 w.1, f32mul df df)] })
  | .error e, _, _, _ => .error e
  | _, .error e, _, _ => .error e
  | _, _, .error e, _ => .error e
  | _, _, _, .error e => .error e

/-- Run an indexed loop of `k` rounds from `i`, stopping at the first status. -/
def loopE {β : Type} (f : State → β → Nat → Except (Nat × Nat) (State × β)) :
    Nat → Nat → State × β × Nat × Nat × Nat → State × β × Nat × Nat × Nat
  | 0, _, a => a
  | k + 1, i, (s, b, n, _) =>
    match f s b i with
    | .ok r => loopE f k (i + 1) (r.1, r.2, n + 1, 0, 0)
    | .error e => (s, b, n, e)

/-- The factor elements that a pass blends before its elements (R229): factor, statistic, index. -/
def State.blendJobs (s : State) (c : PassCtx) : List (Nat × Nat × Nat) :=
  match (if gRule c.e = 1 then s.factorBlock c.p (udFb c.d) else none) with
  | some w => (upto (fbRows w ^ 2)).map (fun i => (fbL w, fbSl w, i))
      ++ (upto (fbCols w ^ 2)).map (fun i => (fbR w, fbSr w, i))
  | none => []

/-- All the work of a running pass, as far as `limit` rounds of the blend and of the elements: the state, what it raised,
the rounds done, and a status with the unreadable word's address (R224 to R229, R147). A factor block out of reach stops a pass of
the matrix rule (R238). -/
def State.passWork (s : State) (c : PassCtx) (limit : Nat) : State × PassAcc × Nat × Nat × Nat :=
  let st := if gRule c.e = 1 then s.factorBad c.p (udFb c.d) else 0
  if st ≠ 0 then (s, {}, 0, st, if st = stDECK_UNCORR then (s.rkPhys c.p (udFb c.d) 64 false).getD 0 else 0)
  else
    let jobs := s.blendJobs c
    let b := loopE (fun s (acc : PassAcc) i =>
      match jobs[i]? with
      | some j => (s.blendElem c.p c.e j.1 j.2.1 j.2.2).map (fun r => (r.1, { acc with nsw := acc.nsw ||| r.2 }))
      | none => .ok (s, acc)) (min jobs.length limit) 0 (s, {}, 0, 0, 0)
    if b.2.2.2.1 ≠ 0 || b.2.2.1 < jobs.length then b
    else
      let x := loopE (fun s acc i => s.passElem c acc i) (min (udCount c.d) (limit - jobs.length)) 0 (b.1, b.2.1, 0, 0, 0)
      (x.1, x.2.1, b.2.2.1 + x.2.2.1, x.2.2.2)

/-- Rounds of a pass: blend elements and elements (R236). -/
def State.passRounds (s : State) (c : PassCtx) : Nat := udCount c.d + (s.blendJobs c).length

/-- The constants of a pass, if its verdict and schedule are known. -/
def State.passCtx (s : State) (x : Pass) : Option PassCtx :=
  let p := x.part
  let d := x.desc
  match s.verdictOf p x.run x.step,
      s.reck.sched.find? (fun c => c.part == p && c.run == x.run && c.step == x.step && c.group == udGroup d),
      s.tensorOf p d with
  | some v, some sc, some t =>
    let e := s.rkGroup p (udGroup d)
    some { p := p, d := d, step := x.step, e := e, sc := sc, t := t, v := v
           pg := gRule e == 1 && (s.rootsInForce p x.run (udFb d) x.step).1 }
  | _, _, _ => none

/-- The entries of a factor of order `k` as they stand. -/
def State.factorNow (s : State) (p a k : Nat) : Tab F32 :=
  (upto (k ^ 2)).foldl (fun (t : Tab F32) i =>
    match s.rkPhys p (a + 4 * i) 4 false with
    | some x => tset 0 t i (s.num32 x)
    | none => t) []

/-- The root job that a pass's blend triggers (R231). It works from the factors and DAMP as they stand now, so that its results do
not depend on when it runs (R235; log entry 7). -/
def State.newRoot (s : State) (c : PassCtx) (x : Pass) : RootJob :=
  let d := x.desc
  let w := (s.factorBlock x.part (udFb d)).getD 0
  { part := x.part, fb := udFb d, group := udGroup d, layer := udLayer d, wid := udWid d, trigger := x.step
    install := x.step + gLag c.e, running := false, run := x.run, damp := gDamp c.e
    facL := s.factorNow x.part (fbL w) (fbRows w), facR := s.factorNow x.part (fbR w) (fbCols w) }

/-- The work of a pass waits for a row copy or the zeroing of a slice (R131, R145). -/
def State.passBusy (s : State) (x : Pass) : Bool :=
  let matrix := gRule (s.rkGroup x.part (udGroup x.desc)) == 1
  let mats := match (if matrix then s.factorBlock x.part (udFb x.desc) else none) with
    | some w => factorMats w
    | none => []
  (passStreams x.desc matrix ++ mats.map (fun m => (m.1, 0, m.2))).any (s.streamBusy x.part)

/-- PASS_END (R222 to R231, R236, R238): the running pass has changed its elements. Where a stream meets a hole or an
unreadable word, how many factor elements, or after a whole blend how many elements, before it were written is open (log
entry 18) and the step is DAMAGED. A whole blend may queue a root job. The last part of a tensor update goes on to write its
word. -/
def execPassEnd (reck : Nat) (s : State) : Out :=
  match s.reck.q.find? (fun x => x.reck == reck && x.phase == 1) with
  | none => .next s
  | some x =>
    match s.passCtx x with
    | none => .next (s.completePass x stRK_STEP_RANGE)
    | some c =>
     if s.mirrorHolds x.part || s.passBusy x then .next s
     else
      let rounds := s.passRounds c
      let full := s.passWork c rounds
      let cut := full.2.2.2.1 ≠ 0
      let blend := (s.blendJobs c).length
      let done := full.2.2.1
      let free := (Config.freeValue s.draws).toNat
      let n := if blend ≤ done then blend + free % (done - blend + 1) else free % (done + 1)
      let r := if cut then (s.passWork c n) else full
      let s1 := if cut then { r.1 with draws := s.draws + 1 } else r.1
      let acc := r.2.1
      let st := full.2.2.2.1
      let p := x.part
      let s1 := s1.accStep x acc.nsw cut
      let nm := s1.num p
      let u : UwPart := { run := x.run, step := x.step, layer := udLayer x.desc, slot := udSlot x.desc
                          base := udBase x.desc, terms := acc.uw }
      let s1 := s1.setNum p { nm with uwParts := nm.uwParts ++ [u] }
      let s1 := if acc.bad = 0 then s1 else
        (s1.addO 64 (kRK_GRAD_NONFINITE p) acc.bad).errRec { cls := 2, code := rcRK_GRAD_NONFINITE, part := p }
      let blended := gRule c.e == 1 && s.factorBad p (udFb x.desc) == 0 && decide (blend ≤ done)
      let s1 := if blended && c.sc.t % gEvery c.e == 0 then
          s1.queueRoot reck (s1.newRoot c x)
        else s1
      let t : TensorUpd := { c.t with done := c.t.done + 1, acc := c.t.acc.join acc.conv }
      .next (s1.partEnd { x with nsw := acc.nsw, addr := full.2.2.2.2 } t st)

/-- TENSOR_UPDATE_COMPLETE (R198, R223, R238): the last part writes TS_N into the weight scale word, whose loss damages the step,
and records the slot; a host write of the slot that was held takes effect. -/
def execTensorUpdateComplete (part slot : Nat) (s : State) : Out :=
  match s.reck.tensors.find? (fun t => t.part == part && t.slot == slot && decide (t.parts ≤ t.done)) with
  | none => .next s
  | some t =>
   if s.streamBusy part (t.ws, 0, 4) then .next s
   else
    let x := s.reck.q.find? (fun x => x.part == part && udSlot x.desc == slot && x.phase == 2)
    let lost := match s.rkWrite part t.ws 4 with | .ok _ => 0 | .error e => e
    let s := match s.rkWrite part t.ws 4, x with
      | .ok a, _ => s.put a (leBytes 4 t.tsn.toNat)
      | .error _, some x => s.accStep x 0 true
      | .error _, none => s
    let s := (s.recordTensor t).dropTensor t
    match x with
    | some x => .next (s.completePass x (if x.status = 0 then lost else x.status))
    | none => .next s

/-! Roots (R231 to R235). -/

/-- ROOT_JOB_START (R235): the job at the head of a reckoner's order starts on the free systolic block;
it waits while a mirror copy is taken (R269). -/
def execRootJobStart (reck : Nat) (s : State) : Out :=
  match tget [] s.reck.roots reck with
  | [] => .next s
  | j :: t =>
    if j.running || s.mirrorHolds j.part then .next s
    else .next { s with reck := { s.reck with roots := tset [] s.reck.roots reck ({ j with running := true } :: t) } }

/-- What stops a job at a factor of order `k` that can no longer be reached or read (R238): a status and the address. -/
def State.factorStop (s : State) (p a k : Nat) : Option (Nat × Nat) :=
  (upto (k ^ 2)).findSome? (fun i => match s.rkItem p a 0 (4 * i) 4 false with | .ok _ => none | .error e => some e)

/-- The deferred record of a job that met an unreadable word (R147). -/
def State.rootUncorr (s : State) (p : Nat) (e : Nat × Nat) : State :=
  if e.1 = stDECK_UNCORR then s.errRec (uncorrRec p e.2) else s

/-- One factor of a job (R231): the retries counted, and its damping and root, or why there is none. -/
def rootFactor (damp : F32) (side k : Nat) (x : Tab F32) : Nat × Except RootCause (F32 × Tab F32) :=
  if x.any (fun e => !f32isFin e.2) then (0, .error { factor := side, cause := 1 })
  else
    let r := rootTries x k damp
    (r.retries, match r.found with
      | some q => .ok q
      | none => .error { factor := side, cause := 0 })

/-- Write a lower-triangular root of order `k` at address `a`; none where a place is gone (R238). -/
def State.writeRoot (s : State) (p a k : Nat) (q : Tab F32) : Option State :=
  (upto (k ^ 2)).foldl (fun (s : Option State) i =>
    s.bind (fun s => match s.rkWrite p (a + 4 * i) 4 with
      | .ok x => some (s.put x (leBytes 4 (tget 0 q i).toNat))
      | .error _ => none)) (some s)

/-- One side of a job (R231, R238): the factor at `a`, whose values the job holds, is read, and its root written at `q`. -/
def State.rootSide (s : State) (j : RootJob) (side a q k : Nat) (x : Tab F32) : State × Nat × Except RootCause F32 :=
  match s.factorStop j.part a k with
  | some e => (s.rootUncorr j.part e, 0, .error { factor := side, cause := 2 })
  | none =>
    let r := rootFactor j.damp side k x
    match r.2 with
    | .error c => (s, r.1, .error c)
    | .ok v =>
      match s.writeRoot j.part q k v.2 with
      | none => (s, r.1, .error { factor := side, cause := 2 })
      | some s => (s, r.1, .ok v.1)

/-- The retries of a job, and its two dampings with the state in which both roots stand in the inactive buffers, or why it
fails; a root already written before the failure is harmless there (R231, R234). -/
def State.rootWork (s : State) (j : RootJob) : State × Nat × Except RootCause (F32 × F32) :=
  let p := j.part
  match s.factorBlock p j.fb, s.factorBad p j.fb with
  | some w, 0 =>
    let b := 1 - fbActive w
    let m := fbRows w
    let n := fbCols w
    let l := s.rootSide j 0 (fbL w) (fbQl w + 4 * b * m ^ 2) m j.facL
    match l.2.2 with
    | .error c => (l.1, l.2.1, .error c)
    | .ok dl =>
      let r := l.1.rootSide j 1 (fbR w) (fbQr w + 4 * b * n ^ 2) n j.facR
      match r.2.2 with
      | .error c => (r.1, l.2.1 + r.2.1, .error c)
      | .ok dr => (r.1, l.2.1 + r.2.1, .ok (dl, dr))
  | _, st => (s.rootUncorr p (st, (s.rkPhys p j.fb 64 false).getD 0), 0, .error { factor := 0, cause := 2 })

/-- A job's accesses wait for a row copy or the zeroing of a slice (R131, R145). -/
def State.rootBusy (s : State) (j : RootJob) : Bool :=
  match s.factorBlock j.part j.fb with
  | some w => s.streamBusy j.part (j.fb, 0, 64) || (factorMats w).any (fun m => s.streamBusy j.part (m.1, 0, m.2))
  | none => false

/-- An earlier job's roots for the block wait for their installation: they stand in the inactive buffer (R232, R233). -/
def State.rootsWait (s : State) (j : RootJob) : Bool := s.reck.ready.any (fun r => r.part == j.part && r.fb == j.fb)

/-- What a root query returns: bit 0 roots in force, bit 1 the buffer (R232; the encoding is the model's own). -/
def rootRet (r : Bool × Nat) : Nat := (if r.1 then 1 else 0) + 2 * r.2

/-- ROOT_QUERY (R232): the rod program learns whether roots are in force for a step, after any job due by then has ended. A
query that waits is made again by the same command. -/
def execRootQuery (rod fb step : Nat) (s : State) : Out :=
  let p := s.owner rod
  let r := s.rod rod
  let run := (s.num p).runs
  let again := decide (r.wait = .rootQuery fb step)
  if !(s.issues rod || again) then .next s
  else if s.rootPending p run fb step then
    .next (if again then s else s.setRod rod { r with wait := .rootQuery fb step, waitStrokes := 0, waitSince := s.ns })
  else .next (s.setRod rod { r with wait := .none, ret := rootRet (s.rootsInForce p run fb step) })

/-! Groups, verdicts and ends of runs. -/

/-- A write of a parameter-group entry (R226): it takes effect at the next verdict, or when the update phase ends. -/
def State.groupsWrite (s : State) (path : Path) (p k : Nat) (e : BitVec 512) : State × Nat :=
  if groupBad e then (s, invalidParam path)
  else
    let setT := decide (gT e ≠ gT (s.groupImage p k))
    if s.running p && setT then (s, stNUM_BUSY)
    else
      let was := match s.heldGroup p k with
        | some h => h.2.1
        | none => false
      ({ s with reck := { s.reck with heldGroups := s.reck.heldGroups ++ [(256 * p + k, setT || was, e)] } }, 0)

/-- The verdict of a step reaches the reckoners (R221, R226, R227, R233). -/
def State.reckVerdict (s : State) (p step : Nat) (applied : Bool) : State :=
  if !s.running p then s
  else
    let s := if s.updating p then s else s.applyHeldGroups p
    let run := (s.num p).runs
    let v : Verdict := { part := p, run := run, step := step, applied := applied, l := s.lossScale p step, seed := s.o (kRUN_SEED p) }
    let s := { s with reck := { s.reck with verdicts := s.reck.verdicts ++ [v] } }
    if applied then
      (s.reck.q.filter (fun x => x.part == p && x.run == run && x.step == step)).foldl
        (fun s x => s.schedule p run step (udGroup x.desc)) s
    else s.installRoots p run step

/-- The root jobs of the other partitions. -/
def dropRoots (roots : Tab (List RootJob)) (p : Nat) : Tab (List RootJob) :=
  roots.filterMap (fun q =>
    let l := q.2.filter (fun j => j.part != p)
    if l.isEmpty then none else some (q.1, l))

/-- END_RUN on the reckoners (R239): passes without a verdict complete, root jobs are abandoned, and steps with nothing left to
run are forgotten, so that no later run meets their verdicts. Roots whose installation step the run did not reach are given up as
a job is (log entry 7). -/
def State.reckEndRun (s : State) (p : Nat) : State :=
  let jobs := s.reck.roots.flatMap (fun q => q.2.filter (fun j => j.part == p))
  let due (i : RootInst) : Bool := s.reck.verdicts.any (fun v => v.part == p && v.run == i.run && decide (i.install ≤ v.step))
  let s := { s with reck := { s.reck with roots := dropRoots s.reck.roots p
                                          ready := s.reck.ready.filter (fun i => i.part != p || due i) } }
  let s := jobs.foldl (fun s j => s.setFactorBlock p j.fb (fun w => setField w 322 1 0)) s
  let open_ := s.reck.q.filter (fun x => x.part == p && x.phase == 0
    && (s.verdictOf p x.run x.step).isNone)
  let s := open_.foldl (fun s x => s.completePass x stRK_STEP_RANGE) s
  let steps := s.reck.verdicts.map (fun v => (v.part, v.run, v.step))
    ++ s.reck.eos.map (fun e => (e.part, e.run, e.step))
  let s := (steps.filter (fun k => k.1 == p
    && !s.reck.q.any (fun x => x.part == p && x.run == k.2.1 && x.step == k.2.2))).foldl
      (fun s k => s.forgetStep p k.2.1 k.2.2) s
  let s := s.dropTensors p
  if s.updating p then s else s.applyHeldGroups p

/-- A partition reset on the reckoners (R239): queue emptied, passes stopped, jobs abandoned, groups and objects at their
reset values; host commands complete with the reset's status. -/
def State.reckReset (s : State) (p st : Nat) : State :=
  let mine := s.reck.q.filter (fun x => x.part == p)
  let r := s.reck
  let r := { r with
    q := r.q.filter (fun x => x.part != p)
    tensors := r.tensors.filter (fun t => t.part != p)
    roots := dropRoots r.roots p
    ready := r.ready.filter (fun x => x.part != p)
    groups := tclear r.groups (256 * p) 256
    heldGroups := r.heldGroups.filter (fun g => g.1 / 256 != p)
    sched := r.sched.filter (fun x => x.part != p)
    verdicts := r.verdicts.filter (fun x => x.part != p)
    ended := terase r.ended p
    eos := r.eos.filter (fun x => x.part != p)
    installed := r.installed.filter (fun x => x.part != p)
    accs := r.accs.filter (fun x => x.part != p) }
  let s := mine.foldl (fun s x => s.completeOpt x.cmd st 0 0) { s with reck := r }
  let s := [kRK_PASSES p, kRK_SKIPPED_PASSES p, kRK_ROOT_JOBS p, kRK_ROOT_RETRIES p, kRK_ROOT_FALLBACKS p,
    kRK_GRAD_NONFINITE p, kRK_STEP_STATUS p].foldl State.clearO s
  s.clearBlob (kRK_LAST_ERROR p)

end Sys2Proof.Machine
end

