-- ==== Sys2Proof/Machine/CarryOps.lean ====
section
/-! DEFINITION. What the carry units do: groups and their tree (R242 to R254), buckets from their push to their completion
(R244 to R258, R262, R263), the verdict exchange (R259 to R261). -/

namespace Sys2Proof.Machine

open Sys2Proof

/-- MISMATCH, LOST and UNCORR bring NONFINITE with them (R258). -/
def csNorm (w : BitVec 16) : BitVec 16 :=
  if w &&& (csMISMATCH ||| csLOST ||| csUNCORR) = 0 then w else w ||| csNONFINITE

/-- Group states (R243). -/
abbrev cyIDLE : Nat := 0
abbrev cyFORMING : Nat := 1
abbrev cyREADY : Nat := 2
abbrev cyBROKEN : Nat := 3

def State.cyState (s : State) (p g : Nat) : Nat := s.o (kCY_GROUP_STATE (4 * p + g))
def State.setCyState (s : State) (p g v : Nat) : State := s.setO (kCY_GROUP_STATE (4 * p + g)) v
def State.cySize (s : State) (p g : Nat) : Nat := s.o (kCY_GROUP_SIZE (4 * p + g))
def State.cyRank (s : State) (p g : Nat) : Nat := s.o (kCY_GROUP_RANK (4 * p + g))
def State.cyFanin (s : State) (p g : Nat) : Nat := s.o (kCY_FANIN (4 * p + g))
def State.cyEpoch (s : State) (p g : Nat) : Nat := s.o (kCY_EPOCH (4 * p + g))

/-- Bytes of a segment unit, or of its prefix alone (R250, R256). -/
def unitBytes (u : SegUnit) : List Byte :=
  let prefix16 := leBytes 4 u.index ++ leBytes 4 u.amax.toNat ++ List.replicate 8 0
  if u.codes.isEmpty then prefix16
  else prefix16 ++ u.sbs.map (BitVec.ofNat 8) ++ u.codes.map (BitVec.ofNat 8) ++ List.replicate 112 0

/-- Send message data to a rank of a group; FLOW comes from the group, TAG and step parity (R295). -/
def State.sendRank (s : State) (p g dest tag parity : Nat) (data : List Byte) : State :=
  let i := 4 * p + g
  s.opSend (s.blobNum (kCY_MEMBERS i) (16 * dest) 8) (s.blobNum (kCY_MEMBERS i) (16 * dest + 8) 1) 1
    (s.o (kCY_GROUP_ID i) % 256 * 2 ^ 17 + tag % 2 ^ 16 * 2 + parity % 2) data

/-- Send a message of a carry unit: it is noted as sent and handed to the optical ports. The data of the messages whose
layout the spec does not give is the model's own. -/
def State.cySend (s : State) (m : CarryMsg) : State :=
  let s := { s with cy := { s.cy with sent := s.cy.sent ++ [m] } }
  match m with
  | .unit p g dest u => s.sendRank p g dest u.tag u.parity (unitBytes u)
  | .header p g dest h => s.sendRank p g dest (bits h 15 0) (bits h 16 16) (leBytes 64 h.toNat)
  | .handshake p g dest e d bad => s.sendRank p g dest 0xFFFF 0 (leBytes 32 d.toNat ++ leBytes 4 e ++ [if bad then 1 else 0])
  | .result p g dest e ok => s.sendRank p g dest 0xFFFF 0 (leBytes 4 e ++ [if ok then 1 else 0])
  | .chunk p g dest tag par _ data => s.sendRank p g dest tag par data
  | .mirror p node _ img d => s.opSend node p 2 (img.stroke % 2 ^ 32) (leBytes 64 (mirrorHeader img d).toNat ++ mirrorStream img)
  | .mirrorOut node p bs => s.opSend node p 2 0 bs
  | .exported node p a bs =>
    (upto ((bs.length + 65471) / 65472)).foldl (fun (s : State) i =>
      s.opSend node p 3 0 (leBytes 8 (a + 65472 * i) ++ (bs.drop (65472 * i)).take 65472)) s
  | .committed node p step => s.opSend node p 2 1 (leBytes 8 step)
  | .restoreReq p node k => s.opSend node p 2 0 [BitVec.ofNat 8 k]
  | .exportReq p node k t => s.opSend node p 2 0 (BitVec.ofNat 8 k :: t)

/-! The heap tree (R254). -/

/-- Parent of a relabelled rank, unless it is the root. -/
def treeParent (f r : Nat) : Option Nat := if r = 0 then none else some ((r - 1) / f)
/-- Children of a relabelled rank, ascending. -/
def treeKids (f n r : Nat) : List Nat := ((upto f).map (fun i => f * r + 1 + i)).filter (fun c => decide (c < n))

/-- The rotation of a bucket's segment: rank = relabelled rank + rotation, modulo N. -/
def segShift (d : BitVec 512) (n j : Nat) : Nat := (if bdDeliver d then bdOwner d else j + bdTag d) % n

/-- Own rank's parent and children for a segment, as ranks. -/
def State.segParent (s : State) (b : Bucket) (j : Nat) : Option Nat :=
  let n := s.cySize b.part b.g
  let k := segShift b.desc n j
  (treeParent (s.cyFanin b.part b.g) ((s.cyRank b.part b.g + n - k) % n)).map (fun r => (r + k) % n)

def State.segKids (s : State) (b : Bucket) (j : Nat) : List Nat :=
  let n := s.cySize b.part b.g
  let k := segShift b.desc n j
  (treeKids (s.cyFanin b.part b.g) n ((s.cyRank b.part b.g + n - k) % n)).map (fun r => (r + k) % n)

/-- Tree of the handshake and of the verdict exchange. -/
def State.grpParent (s : State) (p g : Nat) : Option Nat := treeParent (s.cyFanin p g) (s.cyRank p g)
def State.grpKids (s : State) (p g : Nat) : List Nat := treeKids (s.cyFanin p g) (s.cySize p g) (s.cyRank p g)

/-! Buckets. -/

def State.bucket? (s : State) (id : Nat) : Option Bucket := s.cy.buckets.find? (fun b => b.id == id)
/-- Open buckets of a group. -/
def State.groupBuckets (s : State) (p g : Nat) : List Bucket :=
  s.cy.buckets.filter (fun b => b.part == p && b.g == g)

/-- CY_OPEN follows the bucket table (R246, R274). -/
def State.countOpen (s : State) (p : Nat) : State :=
  s.setO (kCY_OPEN p) (s.cy.buckets.filter (fun b => b.part == p)).length

/-- The verdict group of a partition (R261): its only group, or the one it names. -/
def State.verdictGroup (s : State) (p : Nat) : Nat :=
  match (upto 4).filter (fun g => s.cyState p g == cyREADY || s.cyState p g == cyBROKEN) with
  | [g] => g
  | _ => s.o (kCY_VERDICT_GROUP p)

/-- The counts of a note set their bits (R258). -/
def SegNote.word (x : SegNote) : BitVec 16 :=
  csNorm (x.status ||| (if x.clips = 0 then 0 else csCLIPPED) ||| (if x.vanish = 0 then 0 else csVANISH))

/-- Spans of a bucket's areas, as address and bytes, with writes marked (R244, R245). -/
def State.bucketAreas (s : State) (p : Nat) (d : BitVec 512) : List (Nat × Nat × Bool) :=
  let g := bdGroup d
  let n := s.cySize p g
  let e := bdSegs d * 4096
  match bdOp d with
  | 1 =>
    (if bdPath d then [(bdSrc d, if bdSrcHb d then 2 * e else 4 * e, false)] else [])
      ++ [(bdDst d, if bdDstF32 d then 4 * e else 2 * e, true),
          (bdWork d, (s.cyFanin p g + 2) * bdSegs d * 4352, true), (bdScale d, 8 * bdSegs d, true)]
  | 2 => [(bdSrc d, n * bdChunk d, false), (bdDst d, n * bdChunk d, true)]
  | 3 => [(bdSrc d, bdChunk d, false), (bdDst d, n * bdChunk d, true)]
  | _ => []

/-- The areas of an operation are whole: mapped in every byte, not granted, not read-only where written (R245). A span runs
within one slice. -/
def State.areaOk (s : State) (p : Nat) (a : Nat × Nat × Bool) : Bool :=
  !bit (tget 0 (s.part p).slices (a.1 / 2 ^ 29)) 14 && (s.udPhys p a.1 a.2.1 a.2.2).isSome

/-- Form of a descriptor (R244, R245). -/
def State.bucketForm (s : State) (p : Nat) (d : BitVec 512) : Bool :=
  let n := s.cySize p (bdGroup d)
  decide (1 ≤ bdOp d) && decide (bdOp d ≤ 4) && decide (bdHome d < 576) && bdTag d != 0xFFFF
    && (match bdOp d with
        | 1 => decide (256 ≤ bdSegs d) && decide (bdSegs d ≤ 16384)
            && (!bdDeliver d || decide (bdOwner d < n))
            && [bdDst d, bdWork d, bdScale d].all (fun a => a % 64 == 0) && (!bdPath d || bdSrc d % 64 == 0)
        | 4 => true
        | _ => bdChunk d % 64 == 0 && decide (64 ≤ bdChunk d) && decide (bdChunk d ≤ 67108864)
            && [bdSrc d, bdDst d].all (fun a => a % 64 == 0))

/-- STEP is below the latest verdict step plus 1, or already closed, or below S in the verdict group of a RUNNING partition
(R245, R261). -/
def State.bucketOrder (s : State) (p : Nat) (d : BitVec 512) : Bool :=
  let st := bdStep d
  let g := bdGroup d
  decide (st < tget 0 s.cy.lastStep p) || (bdOp d == 4 && (tget [] s.cy.known p).contains st) || (s.group p g).closes.any (fun c => c.step == st)
    || (bdOp d == 4 && g == s.verdictGroup p && s.running p && decide (st < s.runStep p))

/-- The scales of a REDUCE as its push reads them (R251): a status, or each segment's scale. A scale that cannot be read is
taken as 1.0 and the bucket's word has UNCORR (R258). -/
def State.readScales (s : State) (p : Nat) (d : BitVec 512) : Except Nat (Tab F32 × BitVec 16) :=
  (upto (bdSegs d)).foldl (fun (a : Except Nat (Tab F32 × BitVec 16)) j =>
    match a, s.udPhys p (bdScale d + 8 * j) 8 false with
    | .ok (t, w), some x =>
      if s.decks.udBadIn x 8 then .ok (t, w ||| csUNCORR)
      else
        let v : F32 := BitVec.ofNat 32 (leNat (s.decks.udRead x 4))
        if v = 0 then .ok (t, w) else if !scaleOk v then .error stSCALE_INVALID
        else .ok (tset 0x3F800000 t j v, w)
    | r, _ => r) (.ok ([], 0))

/-- Status of the checks of a push, in the table's order (R245, R251). -/
def State.bucketCheck (s : State) (p : Nat) (d : BitVec 512) : Nat :=
  let g := bdGroup d
  if !s.bucketForm p d then stDESC_INVALID
  else if (s.bucketAreas p d).any (fun a => !s.areaOk p a) then stDECK_RANGE
  else if s.cyState p g ≠ cyREADY then stCY_NO_GROUP
  else if bdOp d ≠ 4 && 256 ≤ s.cy.buckets.length then stCY_TABLE_FULL
  else if bdOp d ≠ 4 && (s.groupBuckets p g).any (fun b => bdTag b.desc == bdTag d && bdStep b.desc % 2 == bdStep d % 2)
  then stCY_TAG_BUSY
  else if s.bucketOrder p d then stCY_ORDER
  else 0

/-! Headers as they are written (R257). -/

structure HdrIn where
  kind : Nat
  down : Bool
  receiver : Nat
  status : BitVec 16
  clips : Nat := 0
  vanish : Nat := 0
  segs : Nat := 0
  tag : Nat
  step : Nat
  cmin : Nat := 0
  cmax : Nat := 0

/-- A bucket header written by this member (R257). -/
def State.header (s : State) (p g : Nat) (h : HdrIn) : BitVec 512 :=
  let f (b : Bool) (i : Nat) : Nat := if b then 2 ^ i else 0
  BitVec.ofNat 512
    (h.tag % 2 ^ 16 + (h.step % 2) * 2 ^ 16 + f h.down 17 + (h.kind % 4) * 2 ^ 18
      + (s.o (kCY_GROUP_ID (4 * p + g)) % 256) * 2 ^ 24 + h.status.toNat * 2 ^ 32
      + (s.cyRank p g % 2 ^ 14) * 2 ^ 64 + (h.receiver % 2 ^ 14) * 2 ^ 80 + (h.segs % 2 ^ 15) * 2 ^ 96
      + min h.clips (2 ^ 32 - 1) * 2 ^ 128 + min h.vanish (2 ^ 32 - 1) * 2 ^ 160 + (h.step % 2 ^ 64) * 2 ^ 192
      + (s.cyEpoch p g % 2 ^ 32) * 2 ^ 256 + (h.cmax % 2 ^ 32) * 2 ^ 288 + (h.cmin % 2 ^ 32) * 2 ^ 320)

/-! Sending chunks (R266, R267). -/

/-- Bytes `[a, a + n)` of a partition as the carry unit reads them; unreadable words are free (log entry 3). -/
def State.cyRead (s : State) (p a n : Nat) : State × List Byte × Bool :=
  match s.udPhys p a n false with
  | some x =>
    if s.decks.udBadIn x n then
      let v := (upto n).map (fun i =>
        if s.decks.udBadIn (x + i) 1 then BitVec.ofNat 8 (Config.freeValue (s.draws + i)).toNat else mget s.decks.ud (x + i))
      (({ s with draws := s.draws + n }).errRec (uncorrRec p (x + s.decks.readable x n)), v, true)
    else (s, s.decks.udRead x n, false)
  | none => (s, List.replicate n 0, false)

/-! Contributions (R247 to R253, R262). -/

/-- Draw of an encoding of element `i` of a segment (R252). -/
def State.cyDraw (s : State) (b : Bucket) (kind rank j i : Nat) : Rnd :=
  let dr : Draw := { seed := s.o (kRUN_SEED b.part), stream := 0xF8000000 + 2 ^ 16 * kind + rank
                     step := bdStep b.desc % 2 ^ 32, layer := bdTag b.desc }
  .sr (dr.elem (4096 * j + i))

def Bucket.scale (b : Bucket) (j : Nat) : F32 := tget 0x3F800000 b.ts j

/-- Encode 4,096 elements into a segment unit, with what that raises (R252, R253); its maximum is their running max. -/
def State.cyEncode (s : State) (b : Bucket) (kind j : Nat) (xs : List FVal) : SegUnit × ConvAcc :=
  let me := s.cyRank b.part b.g
  let e := encodeRow bd8 (b.scale j) (fun i => s.cyDraw b kind me j i) (xs.map some)
  ({ down := false, tag := bdTag b.desc, parity := bdStep b.desc % 2, epoch := s.cyEpoch b.part b.g, sender := me
     index := j, amax := e.2.2.amax, sbs := e.1, codes := e.2.1 }, e.2.2)

/-- NONFINITE when an element was (R53, R258). -/
def nonfinWord (a : ConvAcc) : BitVec 16 := if a.nonfin = 0 then 0 else csNONFINITE

/-- The element exceeds the range of HB16 in magnitude (R256). -/
def beyondHb (x : F32) : Bool := f32lt 0x477FE000 (f32abs x)

/-- Bytes of final elements in DST's format, and what their conversion raises: HB16 in gradient class with TS 1.0, or F32
(R64, R256). -/
def State.dstBytes (s : State) (b : Bucket) (j : Nat) (xs : List F32) : List Byte × Nsw :=
  if bdDstF32 b.desc then (xs.flatMap (fun x => leBytes 4 x.toNat), 0)
  else
    let es := xs.zipIdx.map (fun q => narrow fmt16 false none (s.cyDraw b 2 0 j q.2) (f32dec q.1))
    (es.flatMap (fun e => leBytes 2 e.1), es.foldl (fun a e => a ||| e.2.nsw) 0)

/-- A carry unit writes bytes over VC2 in packets of at most 4 KiB, each on the mesh until it is acknowledged (R24, R28, R241): one
that the mesh loses writes nothing, and a write that reaches no slice is lost (R258). -/
def State.carryPut (s : State) (b : Bucket) (a src : Nat) (bs : List Byte) : State × BitVec 16 :=
  (packets4k bs.length).foldl (fun (x : State × BitVec 16) c =>
    let s := x.1
    match s.udPhys b.part (a + c.1) c.2 true with
    | none => (s, x.2 ||| csLOST ||| csNONFINITE)
    | some y =>
      let through := s.arrives src (y / 2 ^ 29) c.2
      let r := if through then s.udPut b.part (a + c.1) ((bs.drop c.1).take c.2) else (s, 0)
      let id := r.1.mesh.nextId
      ({ r.1 with mesh := { r.1.mesh with nextId := id + 1 } }.outstanding2 id b.part src (y / 2 ^ 29) (a + c.1) c.2 (.carry b.id)
        through, x.2 ||| (if r.2 = 0 then 0 else csLOST ||| csNONFINITE))) (s, 0)

/-- The carry unit's accesses for a bucket wait: the mesh holds injection, or a slice of its areas is being zeroed, or a row of
them copied (R38, R131, R145). -/
def State.carryWaits (s : State) (b : Bucket) : Bool :=
  2 ≤ s.mesh.phase || (s.bucketAreas b.part b.desc).any (fun a =>
    match s.udPhys b.part a.1 a.2.1 false with
    | some x => s.decks.busy x a.2.1
    | none => false)

/-- Write the final elements of a segment (R256): the state, what the write adds to the bucket's word, numeric events. -/
def State.putSegment (s : State) (b : Bucket) (j rod : Nat) (xs : List F32) : State × BitVec 16 × Nsw :=
  let d := s.dstBytes b j xs
  let r := s.carryPut b (bdDst b.desc + j * 4096 * (if bdDstF32 b.desc then 4 else 2)) rod d.1
  (r.1, r.2, d.2)

/-- Place of a unit in the work area: own contributions first, then each child's, then the combined and final sums (the order
is the model's own, log entry 50). -/
def unitAddr (b : Bucket) (slot j : Nat) : Nat := bdWork b.desc + (slot * bdSegs b.desc + j) * 4352

/-- A unit without its data, which stands in the work area. -/
def SegUnitBare (u : SegUnit) : SegUnit := { u with sbs := [], codes := [] }

/-- Write a unit into the work area over VC2 (R241, R247, R250): the state, and what a write that reaches no slice says
(R258). -/
def State.unitWrite (s : State) (b : Bucket) (slot rod : Nat) (u : SegUnit) : State × BitVec 16 :=
  s.carryPut b (unitAddr b slot u.index) rod (unitBytes u)

/-- Read a unit back from the work area, with UNCORR where a word was unreadable (R258). -/
def State.unitRead (s : State) (b : Bucket) (slot : Nat) (u : SegUnit) : State × SegUnit × BitVec 16 :=
  if b.poison.contains u.index && slot = 0 then (s, { u with sbs := List.replicate 128 0, codes := List.replicate 4096 0 }, 0)
  else
    let r := s.cyRead b.part (unitAddr b slot u.index) 4352
    (r.1, { u with sbs := ((r.2.1.drop 16).take 128).map BitVec.toNat, codes := ((r.2.1.drop 144).take 4096).map BitVec.toNat },
      if r.2.2 then csUNCORR ||| csNONFINITE else 0)

/-- Contribute segment `j` from its elements (R247 to R249, R252, R253); `w` holds what the source's own status says. -/
def State.contribute (s : State) (b : Bucket) (j rod : Nat) (xs : List FVal) (w : BitVec 16) : State :=
  if s.cySize b.part b.g = 1 then
    let es := xs.map (fun v => narrow fmt32 false none .rne v)
    let fs : List F32 := es.map (fun e => BitVec.ofNat 32 e.1)
    let bad := xs.any (fun v => !v.isFin) || (!bdDstF32 b.desc && fs.any beyondHb)
    let b := { b with given := b.given ++ [j] }
    let r := s.putSegment b j rod fs
    r.1.setBucket (((b.note j (w ||| r.2.1 ||| (if bad then csNONFINITE else 0)) 0 0).flag
      (es.foldl (fun a e => a ||| e.2.nsw) r.2.2)).own? s.stroke)
  else
    let e := s.cyEncode b 0 j xs
    let b := { b with own := b.own ++ [SegUnitBare e.1], given := b.given ++ [j] }
    let r := s.unitWrite b 0 rod e.1
    r.1.setBucket (((b.note j (w ||| nonfinWord e.2 ||| r.2) e.2.sat e.2.vanish).flag e.2.nsw).own? s.stroke)

/-- Land a rank's chunk in the receive buffer (R241, R266). -/
def State.landChunk (s : State) (b : Bucket) (r : Nat) (data : List Byte) : State :=
  let x := s.carryPut b (bdDst b.desc + r * bdChunk b.desc) (bdHome b.desc) data
  x.1.setBucket { b with chunks := b.chunks ++ [r], status := csNorm (b.status ||| (if x.2 = 0 then 0 else csLOST)) }

/-- Every chunk of an operation is sent, each with its header after it; the own one lands at once. An unreadable word of the
send buffer is recorded, and free in the chunk, but no bit of the status says so, which carries LOST only (R257, R266). -/
def State.sendChunks (s : State) (id : Nat) : State :=
  match s.bucket? id with
  | none => s
  | some b =>
    let n := s.cySize b.part b.g
    let me := s.cyRank b.part b.g
    let e := s.cyEpoch b.part b.g
    (upto n).foldl (fun s r =>
      let a := bdSrc b.desc + (if bdOp b.desc = 2 then r * bdChunk b.desc else 0)
      let x := s.cyRead b.part a (bdChunk b.desc)
      let s := x.1
      match s.bucket? id with
      | none => s
      | some b =>
        if r = me then s.landChunk b r x.2.1
        else
          (s.cySend (.chunk b.part b.g r (bdTag b.desc) (bdStep b.desc % 2) e x.2.1)).cySend
            (.header b.part b.g r (s.header b.part b.g
              { kind := bdOp b.desc - 1, down := false, receiver := r, status := b.status &&& csLOST, tag := bdTag b.desc
                step := bdStep b.desc }))) s

/-! Pushing. -/

/-- A deferred record for each unreadable scale that a push reads, with its address (R147, R251). -/
def State.scaleRecords (s : State) (p : Nat) (d : BitVec 512) : State :=
  (upto (bdSegs d)).foldl (fun (s : State) j =>
    match s.udPhys p (bdScale d + 8 * j) 8 false with
    | some x => if s.decks.udBadIn x 8 then s.errRec (uncorrRec p x) else s
    | none => s) s

/-- Push a bucket descriptor (R244 to R248): a status, or the state with the operation open. `cmd` is the host command that
pushed it, none for a rod program. -/
def State.pushBucket (s : State) (p : Nat) (d : BitVec 512) (cmd : Option Nat) : Except Nat State :=
  let g := bdGroup d
  let st := s.bucketCheck p d
  if st ≠ 0 then .error st
  else if bdOp d = 4 then
    let x := s.group p g
    .ok (s.setGroup p g { x with closes := x.closes ++ [{ step := bdStep d, cmd := cmd }] })
  else
    let scales := if bdOp d = 1 && s.cySize p g != 1 then s.readScales p d else .ok ([], 0)
    match scales with
    | .error e => .error e
    | .ok (ts, w) =>
      let s := if bdOp d = 1 && s.cySize p g != 1 then s.scaleRecords p d else s
      let id := s.cy.nextId
      let b : Bucket := { id := id, part := p, g := g, desc := d, cmd := cmd, ready := cmd.isSome, ts := ts
                          status := csNorm w, judged := (tget [] s.cy.known p).contains (bdStep d) }
      let x := s.group p g
      let x := { x with stepCount := tset 0 x.stepCount (bdStep d) (tget 0 x.stepCount (bdStep d) + 1) }
      let s := ({ s with cy := { s.cy with buckets := s.cy.buckets ++ [b], nextId := id + 1 } }.setGroup p g x)
      let s := (s.countOpen p).phasePush p (bdStep d)
      if bdOp d = 1 then
        .ok (if bdPath d && cmd.isNone then s.setRunCmd p (fun r => { r with layer := r.layer ++ [id] }) else s)
      else
        let s := s.setBucket { b with ownAt := s.stroke + 1 }
        .ok (s.sendChunks id)

/-! Headers (R257). -/

def bhTag (h : BitVec 512) : Nat := bits h 15 0
def bhParity (h : BitVec 512) : Nat := bits h 16 16
def bhDown (h : BitVec 512) : Bool := bit h 17
def bhKind (h : BitVec 512) : Nat := bits h 19 18
/-- GROUP_ID_LOW (R257): does the header name the group (R264)? -/
def State.ofGroup (s : State) (p g : Nat) (h : BitVec 512) : Bool := bits h 31 24 == s.o (kCY_GROUP_ID (4 * p + g)) % 256
def bhStatus (h : BitVec 512) : BitVec 16 := BitVec.ofNat 16 (bits h 47 32)
def bhSender (h : BitVec 512) : Nat := bits h 77 64
def bhClips (h : BitVec 512) : Nat := bits h 159 128
def bhVanish (h : BitVec 512) : Nat := bits h 191 160
def bhStep (h : BitVec 512) : Nat := bits h 255 192
def bhEpoch (h : BitVec 512) : Nat := bits h 287 256
def bhMax (h : BitVec 512) : Nat := bits h 319 288
def bhMin (h : BitVec 512) : Nat := bits h 351 320

/-- What a set of segments and headers add up to: status, clips, vanished. -/
def Bucket.total (b : Bucket) (segs : List Nat) (hs : List (BitVec 512)) : SegNote :=
  let a := segs.foldl (fun (a : SegNote) j =>
    let x := tget {} b.notes j
    { status := a.status ||| x.word, clips := satAdd 32 a.clips x.clips, vanish := satAdd 32 a.vanish x.vanish }) {}
  hs.foldl (fun (a : SegNote) h =>
    { status := a.status ||| bhStatus h, clips := satAdd 32 a.clips (bhClips h)
      vanish := satAdd 32 a.vanish (bhVanish h) }) { a with status := a.status ||| b.status }

/-- Headers landed from some senders. -/
def hdrsOf (l : List (Nat × BitVec 512)) (rs : List Nat) : List (BitVec 512) :=
  (l.filter (fun x => rs.contains x.1)).map (·.2)

def Bucket.segs (b : Bucket) : List Nat := upto (bdSegs b.desc)

/-- Senders whose up headers go with some segments. -/
def State.kidsOf (s : State) (b : Bucket) (js : List Nat) : List Nat := (js.flatMap (fun j => s.segKids b j)).eraseDups

/-- Counts add up along one tree only. With DELIVER = 1, or where every child's parent is a root, the tree of each segment
serves: a header then holds the sums of the segments it follows. In a deeper forest of rotated trees a header cannot say
which segments its sums belong to, so all counts go along the tree of segment 0, and each is counted once (R257; DEDUCED,
log entry 49). -/
def State.oneTree (s : State) (b : Bucket) : Bool :=
  !bdDeliver b.desc && decide (s.cyFanin b.part b.g + 1 < s.cySize b.part b.g)

/-- The counts of a header upwards to rank `r`. -/
def State.upCounts (s : State) (b : Bucket) (r : Nat) : SegNote :=
  if s.oneTree b then
    if s.segParent b 0 = some r then b.total b.segs (hdrsOf b.upHdrs (s.segKids b 0)) else {}
  else
    let mine := b.segs.filter (fun j => s.segParent b j == some r)
    b.total mine (hdrsOf b.upHdrs (s.kidsOf b mine))

/-- The final counts that this member passes on to rank `r`, or keeps where `r` is none. -/
def State.downCounts (s : State) (b : Bucket) (r : Option Nat) : SegNote :=
  if s.oneTree b then
    match s.segParent b 0 with
    | none => if r.all (fun c => (s.segKids b 0).contains c) then b.total b.segs (hdrsOf b.upHdrs (s.segKids b 0)) else {}
    | some q => if r.all (fun c => (s.segKids b 0).contains c) then b.total [] (hdrsOf b.downHdrs [q]) else {}
  else
    let on := match r with
      | some c => b.segs.filter (fun j => (s.segKids b j).contains c)
      | none => b.segs
    let roots := on.filter (fun j => s.segParent b j == none)
    let pars := (on.filterMap (fun j => s.segParent b j)).eraseDups
    b.total roots (hdrsOf b.downHdrs pars ++ hdrsOf b.upHdrs (s.kidsOf b roots))

/-- Send the headers that are due (R257): up to a parent after the last unit for it, once the children of those segments have
sent theirs; down to a child after the last final unit for it, once the parents of those segments have. A header that
carries every segment's counts also waits for their combination. -/
def State.sendHeaders (s : State) (b : Bucket) : State :=
  let p := b.part
  let g := b.g
  let segs := b.segs
  let one := s.oneTree b
  let up (r : Nat) : List Nat := segs.filter (fun j => s.segParent b j == some r)
  let down (r : Nat) : List Nat := segs.filter (fun j => (s.segKids b j).contains r)
  let all := segs.all (fun j => b.combined.contains j)
  let mk (dn : Bool) (r : Nat) (w : BitVec 16) (t : SegNote) : BitVec 512 :=
    s.header p g { kind := 0, down := dn, receiver := r, status := csNorm (w ||| t.word), clips := t.clips
                   vanish := t.vanish, segs := bdSegs b.desc, tag := bdTag b.desc, step := bdStep b.desc }
  let ups := ((segs.filterMap (fun j => s.segParent b j)).eraseDups).filter (fun r =>
    !b.sentUp.contains r && (up r).all (fun j => b.combined.contains j)
      && (s.kidsOf b (up r)).all (fun c => b.upHdrs.any (fun h => h.1 == c))
      && (!one || s.segParent b 0 != some r || (all && (s.segKids b 0).all (fun c => b.upHdrs.any (fun h => h.1 == c)))))
  let s1 := ups.foldl (fun (s' : State) r =>
    s'.cySend (.header p g r (mk false r (b.total (up r) (hdrsOf b.upHdrs (s.kidsOf b (up r)))).word (s.upCounts b r)))) s
  let roots (r : Nat) : List Nat := (down r).filter (fun j => s.segParent b j == none)
  let pars (r : Nat) : List Nat := ((down r).filterMap (fun j => s.segParent b j)).eraseDups
  let downs := (s.kidsOf b segs).filter (fun r =>
    !b.sentDown.contains r && (down r).all (fun j => b.finals.any (fun u => u.index == j))
      && (pars r).all (fun c => b.downHdrs.any (fun h => h.1 == c))
      && (s.kidsOf b (roots r)).all (fun c => b.upHdrs.any (fun h => h.1 == c))
      && (!one || !(s.segKids b 0).contains r || s.segParent b 0 != none
          || (all && (s.segKids b 0).all (fun c => b.upHdrs.any (fun h => h.1 == c)))))
  let s2 := downs.foldl (fun (s' : State) r =>
    s'.cySend (.header p g r (mk true r (b.total (roots r)
      (hdrsOf b.downHdrs (pars r) ++ hdrsOf b.upHdrs (s.kidsOf b (roots r)))).word (s.downCounts b (some r))))) s1
  s2.setBucket { b with sentUp := b.sentUp ++ ups, sentDown := b.sentDown ++ downs }

/-- What a bucket still waits for on this member, as ranks (R255 to R257, R263). -/
def State.missing (s : State) (b : Bucket) : List Nat :=
  let n := s.cySize b.part b.g
  if bdOp b.desc ≠ 1 then (upto n).filter (fun r => !b.chunks.contains r)
  else if n = 1 then []
  else
    let segs := b.segs
    let roots := segs.filter (fun j => s.segParent b j == none)
    (segs.flatMap (fun j => (s.segKids b j).filter (fun c => !b.landed.any (fun u => u.index == j && u.sender == c))))
      ++ (s.kidsOf b segs).filter (fun c => !b.upHdrs.any (fun h => h.1 == c))
      ++ segs.filterMap (fun j => if b.finals.any (fun u => u.index == j) then none else s.segParent b j)
      ++ ((segs.filterMap (fun j => s.segParent b j)).eraseDups).filter (fun c => !b.downHdrs.any (fun h => h.1 == c))
      ++ (roots.filter (fun j => !b.finals.any (fun u => u.index == j))).map (fun _ => s.cyRank b.part b.g)

/-- The bucket's whole status on this member (R257, R258). -/
def State.finalNote (s : State) (b : Bucket) : SegNote :=
  if bdOp b.desc ≠ 1 then { status := b.status }
  else if s.cySize b.part b.g = 1 then b.total b.segs []
  else
    let roots := b.segs.filter (fun j => s.segParent b j == none)
    let w := (b.total roots (b.downHdrs.map (·.2) ++ hdrsOf b.upHdrs (s.kidsOf b roots))).word
    let t := s.downCounts b none
    { t with status := csNorm (w ||| t.word) }

/-- A wait on a carry operation that is complete: a bucket that has left the table, or a CLOSE_STEP that is no longer pending
(R259, R265). -/
def State.carryMet (s : State) (p : Nat) : RodWait → Bool
  | .bucket id => (s.bucket? id).isNone
  | .carry g step => !(s.group p g).closes.any (fun c => c.step == step && c.res.isNone)
  | _ => false

/-- Waits on completed CLOSE_STEPs return, on rods that are switched out too (R265). -/
def State.wakeCarry (s : State) (p : Nat) : State :=
  let wake (r : Rod) : Rod := if s.carryMet p r.wait then { r with wait := .none } else r
  let s := s.phaseTick p
  let s := (s.partRods p).foldl (fun (s : State) r =>
    if s.carryMet p (s.rod r).wait then s.setRod r (wake (s.rod r)) else s) s
  (upto 8).foldl (fun (s : State) c =>
    let x := s.ctx p c
    if x.savedRods.any (fun q => s.carryMet p q.2.wait) then
      s.setCtx p c { x with savedRods := x.savedRods.map (fun q => (q.1, wake q.2)) }
    else s) s

/-- The bucket leaves the table with its final status word (R246, R258, R259): counted for its step, its host command
completes, and rods that waited for it go on (R265). -/
def State.endBucket (s : State) (b : Bucket) (t : SegNote) : State :=
  let p := b.part
  let x := s.group p b.g
  let st := bdStep b.desc
  let x := { x with stepOr := tset 0 x.stepOr st (tget 0 x.stepOr st ||| t.word) }
  let s := { s with cy := { s.cy with buckets := s.cy.buckets.filter (fun y => y.id != b.id) }
                    mesh := { s.mesh with vc2 := s.mesh.vc2.filter (fun r =>
                      match r.writer with | .carry i => i != b.id | _ => true) } }
  let s := ((s.setGroup p b.g x).addO 64 (kCY_CLIPS p) t.clips).addO 64 (kCY_VANISHED p) t.vanish
  ((s.countOpen p).completeOpt b.cmd 0 0 b.nsw).wakeCarry p

/-- The bucket fails on this member (R263): LOST and NONFINITE, its group BROKEN, a fatal-partition record. -/
def State.loseBucket (s : State) (b : Bucket) (silent : Nat) : State :=
  let s := s.endBucket b { status := b.status ||| csLOST ||| csNONFINITE }
  let s := s.setCyState b.part b.g cyBROKEN
  s.errRec { cls := 3, code := rcCY_GROUP_LOST, part := b.part, arg0 := b.g, arg1 := bdTag b.desc
             arg2 := bdStep b.desc % 2 ^ 32, arg3 := silent }

/-! Verdicts (R259 to R261). -/

/-- A unit, header or chunk that matches nothing is discarded and counted, against the link it came by too (R264, R290). -/
def State.discard (s : State) (p link : Nat) : State :=
  let s := s.addO 32 (kCY_DISCARDS p) 1
  if link < 64 then s.countEvent link ctDISCARD else s

/-- The verdict of a step is known (R259 to R261, R193, R201, R221). -/
def State.verdictKnown (s : State) (p g step : Nat) (v : BitVec 16) : State :=
  let v := csNorm v
  let cmds := ((s.group p g).closes.filter (fun c => c.step == step)).map (·.cmd)
  let s := (s.setO (kCY_VERDICT p) v.toNat).setO (kCY_VERDICT_STEP p) (step % 2 ^ 64)
  let last := tget 0 s.cy.lastStep p
  let above := (if step + 1 < last then (last - 1) :: tget [] s.cy.known p else tget [] s.cy.known p).filter
    (fun k => decide (step < k))
  let s := { s with cy := { s.cy with lastStep := tset 0 s.cy.lastStep p (step + 1)
                                      known := tset [] s.cy.known p above
                                      buckets := s.cy.buckets.map (fun (b : Bucket) =>
                                        if b.part = p && bdStep b.desc = step then { b with judged := true } else b) } }
  let s := (upto 4).foldl (fun s h =>
    let x := s.group p h
    -- a CLOSE_STEP of another group that has not completed still waits for its buckets (R261)
    if h ≠ g && x.closes.any (fun c => c.step == step && c.res.isNone) then s
    else
      s.setGroup p h { x with closes := x.closes.filter (fun c => c.step != step)
                              exchs := x.exchs.filter (fun e => e.step != step)
                              stepOr := terase x.stepOr step, stepCount := terase x.stepCount step }) s
  let bad := v &&& csNONFINITE != 0
  let s := if s.running p && s.runStep p == step then (s.reckVerdict p step (!bad)).numVerdict p bad else s
  (cmds.foldl (fun s c => s.completeOpt c 0 v.toNat 0) s).wakeCarry p

/-- Send the verdict down and take it (R259). -/
def State.verdictDown (s : State) (p g step : Nat) (v : BitVec 16) : State :=
  let s := (s.grpKids p g).foldl (fun (s' : State) r =>
    s'.cySend (.header p g r (s.header p g { kind := 3, down := true, receiver := r, status := v, tag := 0xFFFF
                                             step := step }))) s
  s.verdictKnown p g step v

/-- Replace or add an exchange. -/
def Group.setExch (x : Group) (e : Exch) : Group :=
  { x with exchs := x.exchs.filter (fun y => y.step != e.step) ++ [e] }
def Group.exch (x : Group) (step : Nat) : Exch :=
  (x.exchs.find? (fun e => e.step == step)).getD { step := step }

/-- A member that has started the exchange and heard all its children sends its own part up; the root decides (R259). -/
def State.exchGo (s : State) (p g step : Nat) : State :=
  let e := (s.group p g).exch step
  if e.at_ = 0 || e.up || (s.grpKids p g).any (fun k => !e.kids.any (fun c => c.1 == k)) then s
  else
    let w := e.kids.foldl (fun a c => a ||| c.2.1) e.word
    let lo := e.kids.foldl (fun a c => min a c.2.2.1) e.count
    let hi := e.kids.foldl (fun a c => max a c.2.2.2) e.count
    let s := s.setGroup p g ((s.group p g).setExch { e with up := true })
    match s.grpParent p g with
    | some r => s.cySend (.header p g r (s.header p g { kind := 3, down := false, receiver := r, status := w, tag := 0xFFFF
                                                        step := step, cmin := lo, cmax := hi }))
    | none => s.verdictDown p g step (csNorm (if lo = hi then w else w ||| csMISMATCH))

/-! Forming (R243). -/

/-- The digest of a group's configuration (R243). -/
def State.groupDigest (s : State) (p g : Nat) : BitVec 256 :=
  let i := 4 * p + g
  digestOf (leBytes 8 (s.o (kCY_GROUP_ID i)) ++ leBytes 2 (s.cySize p g) ++ leBytes 1 (s.cyFanin p g)
    ++ leBytes 1 (s.o (kCY_HEADROOM i)) ++ (upto 131072).map (fun k => s.blob (kCY_MEMBERS i) k))

/-- FORM's checks (R243). -/
def State.formOk (s : State) (p g : Nat) : Bool :=
  let i := 4 * p + g
  let n := s.cySize p g
  let r := s.cyRank p g
  decide (1 ≤ n) && decide (n ≤ 8192) && decide (r < n) && decide (2 ≤ s.cyFanin p g) && decide (s.cyFanin p g ≤ 16)
    && decide (s.o (kCY_HEADROOM i) ≤ 16) && s.blobNum (kCY_MEMBERS i) (16 * r) 8 == ownNode
    && s.blobNum (kCY_MEMBERS i) (16 * r + 8) 1 == p

/-- The handshake's result reaches this member: it passes it on and acts on it (R243). -/
def State.formResult (s : State) (p g epoch : Nat) (ok : Bool) : State :=
  let s := (s.grpKids p g).foldl (fun (s' : State) r => s'.cySend (.result p g r epoch ok)) s
  let s := s.setGroup p g { s.group p g with heard := [], helloUp := false }
  if ok then (s.setO (kCY_EPOCH (4 * p + g)) (epoch % 2 ^ 32)).setCyState p g cyREADY
  else (s.setCyState p g cyIDLE).errRec { cls := 0, code := rcCY_GROUP_MISMATCH, part := p }

/-- A forming member that has heard all its children sends its message up; the root decides (R243). -/
def State.formGo (s : State) (p g : Nat) : State :=
  let x := s.group p g
  if s.cyState p g ≠ cyFORMING || x.helloUp || (s.grpKids p g).any (fun k => !x.heard.any (fun h => h.child == k)) then s
  else
    let d := s.groupDigest p g
    let bad := x.heard.any (fun h => h.mismatch || h.digest != d)
    let e := x.heard.foldl (fun a h => max a h.epoch) (s.cyEpoch p g)
    match s.grpParent p g with
    | some r => (s.setGroup p g { x with helloUp := true }).cySend (.handshake p g r e d bad)
    | none => s.formResult p g (e + 1) (!bad)

/-- FORM (R243). -/
def State.formGroup (s : State) (p g : Nat) : State × Nat :=
  if s.cyState p g ≠ cyIDLE then (s, stCY_BUSY)
  else if !s.formOk p g then (s, stCY_CONFIG)
  else if s.cySize p g = 1 then
    ((s.setO (kCY_EPOCH (4 * p + g)) ((s.cyEpoch p g + 1) % 2 ^ 32)).setCyState p g cyREADY, 0)
  else
    let x := s.group p g
    let s := (s.setGroup p g { x with formAt := s.stroke, helloUp := false }).setCyState p g cyFORMING
    (s.formGo p g, 0)

/-- The group's machinery is cleared; pending closes complete with a status. -/
def State.clearGroup (s : State) (p g st : Nat) : State :=
  let cmds := (s.group p g).closes.map (·.cmd)
  let s := s.phaseTick p
  (cmds.foldl (fun s c => s.completeOpt c st 0 0) (s.setGroup p g {})).wakeCarry p

/-- LEAVE (R243). -/
def State.leaveGroup (s : State) (p g : Nat) : State × Nat :=
  if !(s.groupBuckets p g).isEmpty then (s, stCY_BUSY)
  else ((s.clearGroup p g stCY_NO_GROUP).setCyState p g cyIDLE, 0)

/-- A partition reset on the carry units (R265): buckets abandoned, groups IDLE, objects and mirror client at their
defaults. -/
def State.carryReset (s : State) (p st : Nat) : State :=
  let mine := s.cy.buckets.filter (fun b => b.part == p)
  let gone := mine.map (·.id)
  let c := s.cy
  let s := { s with cy := { c with buckets := c.buckets.filter (fun b => b.part != p)
                                   tiles := c.tiles.filter (fun t => t.part != p)
                                   lastStep := terase c.lastStep p, known := terase c.known p
                                   mirrors := terase c.mirrors p }
                    mesh := { s.mesh with vc2 := s.mesh.vc2.filter (fun r =>
                      match r.writer with | .carry i => !gone.contains i | _ => true) } }
  let s := mine.foldl (fun s b => s.completeOpt b.cmd st 0 0) s
  let s := (upto 4).foldl (fun s g => (s.clearGroup p g st).setCyState p g cyIDLE) s
  [kCY_VERDICT p, kCY_VERDICT_STEP p, kCY_OPEN p, kCY_CLIPS p, kCY_VANISHED p, kCY_DISCARDS p, kCY_POISONED p].foldl
    State.clearO s

end Sys2Proof.Machine
end

