-- ==== Sys2Proof/Machine/Jetton.lean ====
section
/-! DEFINITION. What a jetton unit computes from a row: draws (R320), distributions and samples (R321), acceptance and
residual samples (R316), and the time its work takes (R319). -/

namespace Sys2Proof.Machine

open Sys2Proof

/-- Streams of the jetton unit's draws (R320). -/
def jtDraft : Nat := 0xF0000200
def jtAccept : Nat := 0xF0000201
def jtToken : Nat := 0xF0000202

/-- A draw in [0, 1) for a token's position (R320). -/
def jtDraw (seed stream pos : Nat) : F32 :=
  let w := philox seed (Draw.counter { seed := seed, stream := stream, step := 0, layer := 0 } pos)
  f32ofRat false (w.1 / 256) (2 ^ 24)

/-- A request is greedy: TEMP is +0 (R303). -/
def jtGreedy (temp : HB16) : Bool := temp == 0

/-- `exp(−n / d)` for n / d below 2^8, in units of 2^−320 and exact to 2^−300: the alternating series at 2^−8 of the argument,
squared eight times. -/
def expNegFix (n d : Nat) : Nat :=
  let one := 2 ^ 320
  let z := n * one / (d * 256)
  let r := (upto 80).foldl (fun (a : Nat × Nat × Nat) i =>
    let t := a.2.2 * z / one / (i + 1)
    if i % 2 = 0 then (a.1, a.2.1 + t, t) else (a.1 + t, a.2.1, t)) (one, 0, one)
  (upto 8).foldl (fun v _ => v * v / one) (r.1 - r.2.1)

/-- The exponential inside the unit: F32 with RNE (R321). Beyond 2^7 it is 0 or an overflow; in between the exact value is
irrational, so that the fixed-point value rounds as it does. -/
def jtExp (x : F32) : F32 :=
  match f32dec x with
  | .nan _ => 0x7FC00000
  | .inf neg => if neg then 0 else 0x7F800000
  | .fin neg m e =>
    let p := pow2 e
    let n := m * p.1
    if m = 0 then 0x3F800000
    else if 128 * p.2 ≤ n then (if neg then 0 else 0x7F800000)
    else
      let v := expNegFix n p.2
      if neg then f32ofRat false v (2 ^ 320) else f32ofRat false (2 ^ 320) v

/-- Put a pair into a list of falling value; ties stay in their order of arrival (R321). -/
def jtInsert (x : Nat × F32) : List (Nat × F32) → List (Nat × F32)
  | [] => [x]
  | y :: t => if f32lt y.2 x.2 then x :: y :: t else y :: jtInsert x t

/-- Pairs by falling value, ties lower identifier first (R321). -/
def jtSort (l : List (Nat × F32)) : List (Nat × F32) := l.foldl (fun acc x => jtInsert x acc) []

/-- Put a pair into a list of rising identifier. -/
def jtById (x : Nat × F32) : List (Nat × F32) → List (Nat × F32)
  | [] => [x]
  | y :: t => if x.1 < y.1 then x :: y :: t else y :: jtById x t

def jtAscending (l : List (Nat × F32)) : List (Nat × F32) := l.foldl (fun acc x => jtById x acc) []

/-- Sum in F32 in list order. -/
def jtSum (l : List (Nat × F32)) : F32 := l.foldl (fun a x => f32add a x.2) 0

/-- The largest of the values, the first on a tie; −Inf and identifier 0 of an empty list. -/
def jtMax (l : List (Nat × F32)) : Nat × F32 :=
  match l with
  | [] => (0, 0xFF800000)
  | x :: t => t.foldl (fun a y => if f32lt a.2 y.2 then y else a) x

/-- The shortest prefix whose sum reaches TOP_P / 65,536, with that sum (R321, step 5). -/
def jtPrefix (p : F32) : F32 → List (Nat × F32) → List (Nat × F32) × F32
  | acc, [] => ([], acc)
  | acc, x :: t =>
    let a := f32add acc x.2
    if f32le p a then ([x], a)
    else
      let r := jtPrefix p a t
      (x :: r.1, r.2)

/-- Logits with their identifiers, NaN taken as −Inf (R321, step 1). -/
def jtRow (z : List F32) : List (Nat × F32) :=
  z.zipIdx.map (fun q => (q.2, if f32isNan q.1 then 0xFF800000 else q.1))

/-- The distribution of a row, in rising identifier (R321); none for a row with no finite logit. A greedy request's is its
argmax alone. -/
def jtDist (z : List F32) (temp : HB16) (topK topP : Nat) : Option (List (Nat × F32)) :=
  let row := jtRow z
  if !row.any (fun q => f32isFin q.2) then none
  else if jtGreedy temp then some [((jtMax row).1, 0x3F800000)]
  else
    let t := hb16to32 temp
    let row := row.map (fun q => (q.1, f32div q.2 t))
    let k := if topK ≠ 0 then topK else if topP ≠ 0 then 1024 else row.length
    let cand := if k < row.length then jtAscending ((jtSort row).take k) else row
    let m := (jtMax cand).2
    let es := cand.map (fun q => (q.1, jtExp (f32sub q.2 m)))
    let total := jtSum es
    let ps := es.map (fun q => (q.1, f32div q.2 total))
    if topP = 0 then some ps
    else
      let r := jtPrefix (f32ofRat false topP 65536) 0 (jtSort ps)
      some (jtAscending (r.1.map (fun q => (q.1, f32div q.2 r.2))))

/-- Probability of a token; tokens outside the set have 0 (R321). -/
def jtProb (d : List (Nat × F32)) (x : Nat) : F32 :=
  match d.find? (fun q => q.1 == x) with
  | some q => q.2
  | none => 0

/-- The lowest identifier whose running sum exceeds a threshold (R321, step 6). -/
def jtPick (thr : F32) : F32 → List (Nat × F32) → Option Nat
  | _, [] => none
  | acc, x :: t =>
    let a := f32add acc x.2
    if f32lt thr a then some x.1 else jtPick thr a t

/-- A sample (R321, step 6); none where no running sum exceeds u × total, which the spec leaves open. -/
def jtSample (d : List (Nat × F32)) (u : F32) : Option Nat := jtPick (f32mul u (jtSum d)) 0 d

/-- The residual distribution (R316): proportional to max(0, p − q), and p where that is 0 for every token. -/
def jtResidual (p q : List (Nat × F32)) : List (Nat × F32) :=
  let d := p.map (fun x => (x.1, let v := f32sub x.2 (jtProb q x.1); if f32lt 0 v then v else 0))
  if d.any (fun x => f32lt 0 x.2) then d else p

/-- Acceptance test of a draft token (R316). -/
def jtAccepts (greedy : Bool) (p q : List (Nat × F32)) (x : Nat) (u : F32) : Bool :=
  if greedy then (jtMax p).1 == x else f32lt (f32mul u (jtProb q x)) (jtProb p x)

/-- Stack cycles of the work on a row (R319): greedy or sampled, a test, a residual sample. -/
def jtCycles (vocab : Nat) (greedy test residual : Bool) : Nat :=
  (vocab + 255) / 256 + (if greedy && !test then 32 else 1056) + (if residual then 1056 else 0)

end Sys2Proof.Machine
end

