-- ==== Sys2Proof/Machine/SvOps.lean ====
section
/-! DEFINITION. The server's tables, page lists, channels and accounts (R299 to R329). -/

namespace Sys2Proof.Machine

open Sys2Proof

/-! States of the server and of requests (R302, R304), results (R329). -/

abbrev svSTOPPED : Nat := 0
abbrev svRUNNING : Nat := 1
abbrev svDRAINING : Nat := 2

abbrev rqFREE : Nat := 0
abbrev rqQUEUED : Nat := 1
abbrev rqPREFILL : Nat := 2
abbrev rqDECODE : Nat := 3
abbrev rqPAUSED : Nat := 4
abbrev rqLEAVING : Nat := 5
abbrev rqHELD : Nat := 6

abbrev rsMAX : Nat := 1
abbrev rsSTOP : Nat := 2
abbrev rsCANCEL_LATE : Nat := 3
abbrev rsCANCELLED : Nat := 4
abbrev rsCANCELLED_SEALED : Nat := 5
abbrev rsNONFINITE : Nat := 6
abbrev rsBAD_TOKEN : Nat := 7
abbrev rsDECK_UNCORR : Nat := 8
abbrev rsABORTED : Nat := 9

/-- Bytes of the request table and of the whole table area (R301). -/
def reqTableBytes : Nat := 4194304
def svTableBytes : Nat := 37748736

/-- The 512-bit image of a request entry (R303). -/
def Req.image (r : Req) : Nat :=
  r.state % 16 + (if r.cancel then 2 ^ 4 else 0) + (r.channel % 32) * 2 ^ 5 + (r.account % 4096) * 2 ^ 10
    + (r.priority % 256) * 2 ^ 22 + (r.result % 256) * 2 ^ 30 + (r.draftMax % 16) * 2 ^ 38 + (r.draftK % 16) * 2 ^ 42
    + (r.rejectRun % 32) * 2 ^ 46 + (r.draftOff % 512) * 2 ^ 51 + (r.pageHead % 2 ^ 21) * 2 ^ 64
    + (r.pageTail % 2 ^ 21) * 2 ^ 85 + (r.pages % 2 ^ 14) * 2 ^ 106 + (r.generated % 2 ^ 18) * 2 ^ 128
    + (r.length % 2 ^ 18) * 2 ^ 146 + (r.promptLen % 2 ^ 18) * 2 ^ 164 + (r.maxNew % 2 ^ 18) * 2 ^ 182
    + (r.topK % 2 ^ 11) * 2 ^ 200 + r.temp.toNat * 2 ^ 224 + (r.topP % 2 ^ 16) * 2 ^ 240
    + (r.stopToken % 2 ^ 19) * 2 ^ 256 + (if r.stopEn then 2 ^ 275 else 0) + (r.tokenAddr % 2 ^ 40) * 2 ^ 280
    + (r.deadline % 2 ^ 48) * 2 ^ 320 + r.seed.toNat * 2 ^ 384 + (r.hostTag % 2 ^ 64) * 2 ^ 448

/-- The fields that host software supplies in an entry (R303). -/
def Req.ofDesc (d : BitVec 512) : Req :=
  { hostTag := bits d 511 448, seed := BitVec.ofNat 64 (bits d 447 384), deadline := bits d 367 320
    tokenAddr := bits d 319 280, stopEn := bit d 275, stopToken := bits d 274 256, topP := bits d 255 240
    temp := BitVec.ofNat 16 (bits d 239 224), topK := bits d 210 200, maxNew := bits d 199 182
    promptLen := bits d 181 164, draftMax := bits d 41 38, priority := bits d 29 22, account := bits d 21 10
    channel := bits d 9 5 }

/-- The 128-bit image of a page descriptor (R307). -/
def Page.image (x : Page) : Nat :=
  (x.fill % 32) * 2 ^ 70 + (x.ordinal % 2 ^ 13) * 2 ^ 75 + (x.request % 2 ^ 16) * 2 ^ 88 + (x.state % 4) * 2 ^ 104
    + (if x.last then 2 ^ 106 else 0) + (x.next % 2 ^ 21) * 2 ^ 107

/-! Reading and writing the tables (R301). -/

def State.svTeacher (s : State) : Nat := s.o kSV_TEACHER
def State.svDraft (s : State) : Nat := s.o kSV_DRAFT
def State.hasDraft (s : State) : Bool := s.svDraft != 0xFF
def State.svState (s : State) : Nat := s.o kSV_STATE
def State.req (s : State) (i : Nat) : Req := tget {} s.sv.reqs i
def State.rx (s : State) (i : Nat) : ReqX := tget {} s.sv.xs i
def State.setRx (s : State) (i : Nat) (x : ReqX) : State := { s with sv := { s.sv with xs := tset {} s.sv.xs i x } }
def State.page (s : State) (d : Nat) : Page := tget {} s.sv.pages d

/-- Write bytes of the table area (R301). -/
def State.putTable (s : State) (off : Nat) (bs : List Byte) : State :=
  match s.udPhys s.svTeacher (s.o kSV_TABLE_BASE + off) bs.length false with
  | some a => { s with decks := (s.decks.udWrite a bs).1 }
  | none => s

/-- Write a request entry (R303). -/
def State.setReq (s : State) (i : Nat) (r : Req) : State :=
  { s with sv := { s.sv with reqs := tset {} s.sv.reqs i r } }.putTable (64 * i) (leBytes 64 r.image)

/-- Write a page descriptor (R307). -/
def State.setPage (s : State) (d : Nat) (x : Page) : State :=
  { s with sv := { s.sv with pages := tset {} s.sv.pages d x } }.putTable (reqTableBytes + 16 * d)
    (leBytes 16 x.image)

/-- Request indices in use, ascending. -/
def State.reqIds (s : State) : List Nat := (s.sv.reqs.filter (fun q => q.2.state != rqFREE)).map (fun q => q.1)
/-- Requests in one of some states. -/
def State.reqsIn (s : State) (l : List Nat) : List Nat := s.reqIds.filter (fun i => l.contains (s.req i).state)
/-- Running requests (R304). -/
def State.running_ (s : State) : List Nat := s.reqsIn [rqPREFILL, rqDECODE, rqHELD]

/-- Lowest number from `lo` that a table of rising keys does not list. -/
def lowestGap : Nat → Tab Page → Nat
  | lo, [] => lo
  | lo, q :: t => if q.1 < lo then lowestGap lo t else if q.1 = lo then lowestGap (lo + 1) t else lo

def State.usedHot (s : State) : Nat := (s.sv.pages.filter (fun q => decide (q.1 < s.o kSV_HOT_PAGES))).length
/-- Free hot and cold descriptors (R306, R308). -/
def State.freeHot (s : State) : Nat := s.o kSV_HOT_PAGES - s.usedHot
def State.freeCold (s : State) : Nat :=
  s.o kSV_PAGES - s.o kSV_HOT_PAGES - (s.sv.pages.length - s.usedHot)

/-- The lowest free cold descriptor. -/
def State.lowCold (s : State) : Nat := lowestGap (s.o kSV_HOT_PAGES) s.sv.pages
/-- The descriptor that an allocation takes (R308). -/
def State.nextPage (s : State) : Nat := if 0 < s.freeHot then lowestGap 0 s.sv.pages else s.lowCold

/-- The counts of R330 follow the tables. -/
def State.svCounts (s : State) : State :=
  let s := s.setO kSV_RUNNING s.running_.length
  let s := s.setO kSV_QUEUED (s.reqsIn [rqQUEUED, rqPAUSED]).length
  (s.setO kSV_FREE_HOT s.freeHot).setO kSV_FREE_COLD s.freeCold

/-! Page lists (R307 to R309). -/

/-- Descriptors in the list of a request: those it owns, but for cold ones that a demotion still fills and pages it no longer
holds. -/
def State.listed (s : State) (i : Nat) : List Nat :=
  (s.sv.pages.filter (fun q => q.2.request == i && !s.sv.demotions.any (fun m => m.e == q.1 || (m.dead && m.d == q.1)))).map (fun q => q.1)

/-- They in list order: ascending ORDINAL. -/
def State.pageList (s : State) (i : Nat) : List Nat :=
  let ds := s.listed i
  (upto ds.length).filterMap (fun k => ds.find? (fun d => (s.page d).ordinal == k))

/-- Link a request's list again: NEXT, LAST, and the entry's PAGE_HEAD, PAGE_TAIL and PAGES. -/
def State.relink (s : State) (i : Nat) : State :=
  let ds := s.pageList i
  let s := ds.zipIdx.foldl (fun s q =>
    s.setPage q.1 { s.page q.1 with next := ds.getD (q.2 + 1) 0, last := decide (q.2 + 1 = ds.length) }) s
  s.setReq i { s.req i with pageHead := ds.headD 0, pageTail := ds.getLastD 0, pages := ds.length }

/-- Append `n` pages to a request's list (R308). -/
def State.growPages (i : Nat) : Nat → State → State
  | 0, s => s.relink i
  | n + 1, s =>
    let k := (s.listed i).length
    State.growPages i n (s.setPage s.nextPage { state := 1, request := i, ordinal := k })

/-- Free a request's pages; a page under demotion is freed when its copy has ended (R311, R312). -/
def State.freePages (s : State) (i : Nat) : State :=
  let busy := s.sv.demotions.filter (fun m => m.req == i)
  let mine := (s.sv.pages.filter (fun q => q.2.request == i)).map (fun q => q.1)
  let s := mine.foldl (fun s d => if busy.any (fun m => m.d == d || m.e == d) then s else s.setPage d {}) s
  let s := { s with sv := { s.sv with
    demotions := s.sv.demotions.map (fun (m : Demotion) => if m.req = i then { m with dead := true } else m) } }
  s.setReq i { s.req i with pages := 0, pageHead := 0, pageTail := 0 }

/-- FILL of the pages of a request follows LENGTH (R307). -/
def State.fillPages (s : State) (i : Nat) : State :=
  (s.pageList i).foldl (fun s d =>
    let x := s.page d
    s.setPage d { x with fill := min 16 ((s.req i).length - 16 * x.ordinal) }) s

/-! Accounts (R299, R313, R314). -/

/-- The non-zero numbers of `w` bytes each that a BLOB object holds. -/
def State.blobTab (s : State) (key w : Nat) : Tab Nat :=
  (s.blobs.filter (fun q => q.1 / blobSpan == key)).foldl (fun (t : Tab Nat) q =>
    let off := q.1 % blobSpan
    tset 0 t (off / w) (tget 0 t (off / w) + q.2.toNat * 256 ^ (off % w))) []

/-- Account writes take effect (R299). -/
def State.latchAccts (s : State) : State :=
  let w := s.blobTab kSV_ACCT_WEIGHT 2
  let r := s.blobTab kSV_ACCT_REFILL 4
  let c := s.blobTab kSV_ACCT_CAP 4
  { s with sv := { s.sv with weights := w, refills := r, caps := c } }

def State.acct (s : State) (a : Nat) : Acct := tget {} s.sv.accts a
def State.setAcct (s : State) (a : Nat) (v : Acct) : State := { s with sv := { s.sv with accts := tset {} s.sv.accts a v } }

/-- A new stroke refills the budgets (R314). While the server is STOPPED, account writes are in force at once. -/
def State.refillBudgets (s : State) : State :=
  let s := if s.svState = svSTOPPED then s.latchAccts else s
  s.sv.refills.foldl (fun s q =>
    let x := s.acct q.1
    let cap : Int := ((tget 0 s.sv.caps q.1 : Nat) : Int)
    if x.budget < cap then s.setAcct q.1 { x with budget := min (x.budget + (q.2 : Int)) cap } else s) s

/-- Take a request out of its account's queue. -/
def State.dequeue (s : State) (i : Nat) : State :=
  let a := (s.req i).account
  let x := s.acct a
  s.setAcct a { x with paused := x.paused.filter (· != i), queued := x.queued.filter (· != i) }

/-- Place of a submitted request: by descending PRIORITY, then by order of submission (R313). -/
def State.queueAt (s : State) (i : Nat) : List Nat → List Nat
  | [] => [i]
  | j :: t => if (s.req j).priority < (s.req i).priority then i :: j :: t else j :: s.queueAt i t

/-! Channels (R322, R324, R325, R396). -/

/-- The 16 bytes of a token record (R322). -/
def TokRec.bytes (r : TokRec) : List Byte :=
  let f (b : Bool) (i : Nat) : Nat := if b then 2 ^ i else 0
  leBytes 16 (r.request % 2 ^ 16 + f r.final 16 + f r.drafted 17 + f r.paused 18 + f r.late 19
    + (r.result % 256) * 2 ^ 24 + (r.position % 2 ^ 32) * 2 ^ 32 + (r.token % 2 ^ 19) * 2 ^ 64
    + (r.tagLow % 2 ^ 32) * 2 ^ 96)

def State.chan (s : State) (c : Nat) : Chan := tget {} s.sv.chans c
def State.setChan (s : State) (c : Nat) (v : Chan) : State := { s with sv := { s.sv with chans := tset {} s.sv.chans c v } }

/-- Records that a channel's ring holds: HEAD and TAIL count records modulo 2^32, and entry n lies at n mod ENTRIES. -/
def State.ringCount (s : State) (c : Nat) : Nat :=
  (s.o (kSV_CH_HEAD c) + 2 ^ 32 - s.o (kSV_CH_TAIL c) % 2 ^ 32) % 2 ^ 32

/-- Records that the part holds for a channel whose ring is full (R324). -/
def holdSpace : Nat := 4096

/-- Write held records into the ring as far as it has room, then the head count at the shadow, then signal (R324, R396). -/
def State.drainChan (s : State) (c : Nat) : State :=
  let x := s.chan c
  let n := s.o (kSV_CH_ENTRIES c)
  let waiting := x.held ++ x.beyond
  let k := min waiting.length (n - s.ringCount c)
  if x.frozen || n = 0 || k = 0 then s
  else
    let head := s.o (kSV_CH_HEAD c)
    let s := (waiting.take k).zipIdx.foldl (fun s q =>
      s.hostWrite (s.o (kSV_CH_BASE c) + 16 * ((head + q.2) % n)) q.1.bytes) s
    let rest := waiting.drop k
    let s := (s.setO (kSV_CH_HEAD c) ((head + k) % 2 ^ 32)).setChan c
      { x with held := rest.take holdSpace, beyond := rest.drop holdSpace }
    let fn := s.svTeacher + 1
    let sh := (s.func fn).shadow
    let s := if sh = 0 then s else s.hostWrite (sh + 4 * c) (leBytes 4 ((head + k) % 2 ^ 32))
    s.msix fn (s.o (kSV_CH_VECTOR c))

/-- Deliver a record on a channel; a closed one discards it (R324, R325). One that finds the holding space full waits before it, the
rule giving it no other fate (log entry 131). -/
def State.postRec (s : State) (c : Nat) (r : TokRec) : State :=
  if s.o (kSV_CH_ENTRIES c) = 0 && (s.chan c).change.isNone then s
  else
    let x := s.chan c
    (s.setChan c (if x.held.length < holdSpace then { x with held := x.held ++ [r] } else { x with beyond := x.beyond ++ [r] })).drainChan c

/-- The record of a request's token, or its final record without one (R322). -/
def State.tokRec (s : State) (i token pos result : Nat) (drafted final : Bool) : TokRec :=
  let r := s.req i
  { tagLow := r.hostTag % 2 ^ 32, token := token, position := pos, result := if final then result else 0
    late := final && r.deadline != 0 && decide (r.deadline < s.stroke), paused := final && (s.rx i).paused
    drafted := drafted, final := final, request := i }

/-- A request ends without a last token: its result is set and its one final record posted (R322). -/
def State.postFinal (s : State) (i result : Nat) : State :=
  let r := s.req i
  if (s.rx i).finalDone then s
  else
    let s := (s.setReq i { r with result := result }).setRx i { s.rx i with finalDone := true }
    s.postRec r.channel (s.tokRec i 0 (r.promptLen + r.generated) result false true)

/-- A request leaves: pages freed, out of its queue, FREE (R311). -/
def State.leave (s : State) (i result : Nat) : State :=
  let s := (s.postFinal i result).dequeue i |>.freePages i
  let s := s.setReq i { s.req i with state := rqFREE }
  { s with sv := { s.sv with xs := terase s.sv.xs i } }

/-- A request that meets one of the faults of R329 becomes LEAVING at once and runs no longer (R330). -/
def State.badReq (s : State) (i result : Nat) : State :=
  ((s.setReq i { s.req i with state := rqLEAVING, result := result }).setRx i { s.rx i with bad := true }).svCounts

/-! Loss of the server (R329). -/

/-- The server is STOPPED at once, with its record; every request ends with ABORTED. -/
def State.svLost (s : State) : State :=
  if s.svState = svSTOPPED then s
  else
    let s := (s.setO kSV_STATE svSTOPPED).errRec { cls := 3, code := rcSV_LOST, part := s.svTeacher }
    let s := s.reqIds.foldl (fun s i => s.leave i rsABORTED) s
    { s with sv := { s.sv with stopping := false, phase := 0, rows := [], demotions := [] } }.svCounts

/-- The loss of a partition that the server uses (R329). -/
def State.svPartLost (s : State) (p : Nat) : State :=
  if s.svTeacher = p || (s.hasDraft && s.svDraft = p) then s.svLost else s

/-- Does a physical upper-deck span lie in the table area of a server that is not STOPPED (R301)? -/
def State.inTables (s : State) (a len : Nat) : Bool :=
  s.svState != svSTOPPED &&
    (match s.udPhys s.svTeacher (s.o kSV_TABLE_BASE) svTableBytes false with
     | some b => decide (a < b + svTableBytes) && decide (b < a + len)
     | none => false)

/-- An uncorrectable read of a span: the loss of the server if it lies in the tables (R329). -/
def State.tableRead (s : State) (a len : Nat) : State := if s.inTables a len then s.svLost else s

end Sys2Proof.Machine
end

