-- ==== Sys2Proof/Machine/SchedOps.lean ====
section
/-! DEFINITION. Contexts and their turns on the rods (R342 to R351), the energy ledger's tests (R364, R365), the end of
commands (R168, R248, R262, R461), hard switches (R347 to R350) and what the end of a partition does (R338, R471). -/

namespace Sys2Proof.Machine

open Sys2Proof

def noSave : Nat := 0xFFFFFFFF
/-- Bytes of a save area (R349). -/
def saveBytes : Nat := 9437184

/-- The context's save area, if it has one (R349). -/
def State.saveArea (s : State) (p c : Nat) : Option Nat :=
  let a := s.o (kPT_CTX_SAVE (8 * p + c))
  if a = noSave then none else some a

/-! The energy ledger (R360, R364, R365). -/

/-- Energy factor of a level, 256 (V / 850)² to the nearest, with V = 600 + 250 n / 24 mV (R360). -/
def levelK (n : Nat) : Nat := (512 * (14400 + 250 * n) ^ 2 + 20400 ^ 2) / (2 * 20400 ^ 2)

/-- Debit of a command at the effective level (R364). -/
def State.debit (s : State) (h : BitVec 1024) : Nat := (hcEnergy h * levelK s.level + 255) / 256

/-- The balance covers a debit (R365). -/
def State.covers (s : State) (d : Nat) : Bool :=
  d == 0 ||
    (match s.st.allow with
     | some a => decide (min (d : Int) (max a 1) ≤ s.st.balance)
     | none => false)

/-- The next command of context `c` (R342): one that waits in the energy queue stays it; else the first of the eight queues
in round-robin order with a RUN at its head. -/
def State.nextRun (s : State) (p c : Nat) : Option (Nat × BitVec 1024) :=
  let fn := p + 1
  let headRun (q : Nat) : Option (Nat × BitVec 1024) :=
    ((s.headReady fn q).filter (fun h => hcOpcode h == 1)).map (fun h => (q, h))
  match s.st.queue.find? (fun e => e.1 == fn && e.2 / 8 == c) with
  | some e => headRun e.2
  | none => ((upto 8).filterMap (fun i => headRun (8 * c + ((s.ctx p c).turn + i) % 8))).head?

/-- A command meets the ledger (R365). -/
def State.meets (s : State) (fn q : Nat) (h : BitVec 1024) : Bool :=
  (match s.st.queue with
   | [] => true
   | e :: _ => e == (fn, q)) && s.covers (s.debit h)

/-- New commands of the context may be dispatched (R182, R335, R343). -/
def State.opens (s : State) (p c : Nat) : Bool :=
  (s.ctx p c).enabled && !(s.ctx p c).disabling && s.o (kPT_STATE p) == 2

/-! Readiness (R342). -/

/-- A saved rod wait has had its condition met (R342). A push into a full queue is not among the waits of R342: it is tried
again when its rod is restored. -/
def State.waitMet (s : State) (p : Nat) : RodWait → Bool
  | .none => true
  | .acquire n seq => s.slotFree n seq || s.tyState n == tyFREE
  | .wait n seq => (s.pairing n).recs.any (fun r => r.seq == seq && r.phase == 2)
  | .fence f v => fenceMet (tget 0 (s.part p).fences f) v
  | .numerics step => !s.running p || tget 0 (s.num p).scales step != 0
  | .rootQuery fb step => !s.rootPending p (s.num p).runs fb step
  | .carry g step => s.carryMet p (.carry g step)
  | .bucket id => s.carryMet p (.bucket id)
  | .stagePush _ => true
  | .updatePush _ => true

/-- READY (R342). -/
def State.ctxReady (s : State) (p c : Nat) : Bool :=
  let x := s.ctx p c
  if x.run.isSome then s.resident p != c && x.savedRods.all (fun q => s.waitMet p q.2.wait)
  else s.opens p c && !(s.part p).held
    && (match s.nextRun p c with | some (q, h) => s.meets (p + 1) q h | none => false)

/-- PT_CTX_STATE (R342). -/
def State.ctxState (s : State) (p c : Nat) : Nat :=
  let x := s.ctx p c
  if !x.enabled then 0
  else if s.residentNow p = c then 3
  else if s.ctxReady p c || s.resident p == c then 2
  else if x.run.isSome then 4
  else 1

/-! Virtual time (R344, R351). -/

/-- Add the time for which a context has held the rods since the latest settlement. -/
def State.settleV (s : State) (p c : Nat) : State :=
  let x := s.ctx p c
  if x.holdFrom = 0 then s
  else
    s.setCtx p c { x with vtime := x.vNow s.ns, holdFrom := s.ns + 1, account := x.accountNow s.ns }

/-- A context begins, or ceases, to hold the rods (R344). -/
def State.holdOn (s : State) (p c : Nat) : State :=
  if c < 8 then s.setCtx p c { s.ctx p c with holdFrom := s.ns + 1 } else s
def State.holdOff (s : State) (p c : Nat) : State :=
  if c < 8 then
    let s := s.settleV p c
    s.setCtx p c { s.ctx p c with holdFrom := 0 }
  else s

/-- Shares, slice, grace and window values take effect at a decision (R353). -/
def State.latchSched (s : State) (p : Nat) : State :=
  let s := (upto 8).foldl (fun s c =>
    let s := s.settleV p c
    s.setCtx p c { s.ctx p c with share := s.o (kPT_CTX_SHARE (8 * p + c)) }) s
  s.setPart p { s.part p with sliceUs := s.o (kPT_SLICE_US p), graceUs := s.o (kPT_YIELD_GRACE_US p)
                              iiWindow := s.o (kPT_II_WINDOW p) }

/-- Lowest of some virtual times. -/
def lowestV : List Frac → Option Frac
  | [] => none
  | v :: t =>
    match lowestV t with
    | none => some v
    | some w => some (if w.lt v then w else v)

/-- Note which contexts are READY; one that becomes so from IDLE or DISABLED is raised to the lowest V (R344). -/
def State.noteReady (s : State) (p : Nat) : State :=
  let s := if s.resident p < 8 then s.settleV p (s.resident p) else s
  (upto 8).foldl (fun s c =>
    let x := s.ctx p c
    let now := s.ctxReady p c || (s.resident p == c && x.run.isSome)
    let others := (upto 8).filter (fun k => k != c && (s.ctx p k).ready)
    let v := match lowestV (others.map (fun k => (s.ctx p k).vtime)) with
      | some w => if now && !x.ready && x.run.isNone && x.vtime.lt w then w else x.vtime
      | none => x.vtime
    if now = x.ready && v = x.vtime then s else s.setCtx p c { x with ready := now, vtime := v }) s

/-- The READY or RESIDENT context with the lowest V, lowest number on a tie, but for one passed over (R344). -/
def State.pickCtx (s : State) (p skip : Nat) : Option Nat :=
  (upto 8).foldl (fun (b : Option Nat) c =>
    if c = skip || !(s.ctx p c).ready then b
    else match b with
      | none => some c
      | some k => if (s.ctx p c).vtime.lt (s.ctx p k).vtime then some c else b) none

/-- No command of the partition holds the rods and no switch is in progress. -/
def State.rodsIdle (s : State) (p : Nat) : Bool := (s.runCmd p).isNone && (s.part p).switch.isNone

/-- A scheduling decision while no command runs (R344): the chosen context is RESIDENT; one that was switched out is
restored by the last steps of a hard switch (R348). A context that a YIELD made give way is passed over until the next dispatch,
unless no other is READY (R343). -/
def State.decideIdle (s : State) (p : Nat) : State :=
  if !s.rodsIdle p then s
  else
    let s := (s.latchSched p).noteReady p
    match (s.pickCtx p (s.part p).passed).or (s.pickCtx p 8) with
    | none => s.setResident p 0xFF
    | some c =>
      if (s.ctx p c).run.isSome then
        let w : Switch := { out := 8, inn := c, at_ := s.ns, saved := false }
        (s.setResident p 0xFF).setPart p { s.part p with switch := some w }
      else if s.resident p = c then s
      else (s.setResident p c).setPart p { s.part p with sliceAt := s.ns, graceAt := 0 }

/-- Commands in the energy queue leave it when their context is disabled or their partition is no longer ACTIVE; the next
command of every open context that does not meet the ledger joins it (R365). -/
def State.pollLedger (s : State) : State :=
  let st := s.st
  let s := { s with st := { st with queue := st.queue.filter (fun e => s.opens (e.1 - 1) (e.2 / 8)) } }
  let s := s.ctxs.foldl (fun (s : State) k =>
    let p := k.1 / 8
    let c := k.1 % 8
    if !s.opens p c || (s.ctx p c).run.isSome then s
    else match s.nextRun p c with
      | some (q, h) =>
        if s.meets (p + 1) q h || s.st.queue.contains (p + 1, q) then s
        else { s with st := { s.st with queue := s.st.queue ++ [(p + 1, q)] } }
      | none => s) s
  if s.st.queue.isEmpty then s else { s with st := { s.st with curWait := true } }

/-- Something changed that may let a command start: ledger joins, readiness, and a decision where none is RESIDENT (R344,
R365). -/
def State.pollAll (s : State) : State :=
  let s := s.pollLedger
  (upto 16).foldl (fun s p =>
    let s := s.noteReady p
    if s.resident p = 0xFF && s.rodsIdle p && (s.pickCtx p 8).isSome then s.decideIdle p else s) s

/-- A command whose effect may let a switched-out context resume or a command start is followed by the decision that this calls
for (R342, R344). -/
def polled : Out → Out
  | .next s => .next s.pollAll
  | r => r

/-! The end of a command (R168, R214, R248, R262, R343, R461). -/

/-- The time that a bound teacher command ran counts in the steps it published (R214). -/
def State.teacherTime (s : State) (p : Nat) (r : RunCmd) : State :=
  match s.pairOf p with
  | none => s
  | some n =>
    if s.o (kTY_TEACHER n) ≠ p then s
    else
      let dt := r.ran + (s.ns - r.began)
      (s.pairing n).members.foldl (fun s m =>
        let x := s.num m.2
        s.setNum m.2 { x with teacher := r.pubSteps.foldl (fun t k => tset 0 t k (tget 0 t k + dt)) x.teacher }) s

/-- Enable a context (R343). -/
def State.enableCtx (s : State) (p c : Nat) : State × Nat :=
  let x := s.ctx p c
  let clash := match s.saveArea p c with
    | none => false
    | some a => (upto 8).any (fun k => k != c && (s.ctx p k).enabled &&
        (match s.saveArea p k with | some b => decide (a < b + saveBytes) && decide (b < a + saveBytes) | none => false))
  if x.enabled then (s, 0)
  else if clash then (s, stPT_CONFIG)
  else ((s.setCtx p c { x with enabled := true, ready := false }).pollAll, 0)

/-- A DISABLE that waited for the command to end is complete; a pending ENABLE is carried out (R343, R455). -/
def State.endDisable (s : State) (p c : Nat) : State :=
  let x := s.ctx p c
  if x.disabling then
    (s.setCtx p c { x with enabled := false, disabling := false, ready := false, yieldReq := 0 }).firePending 2 (8 * p + c)
      (fun s => s.enableCtx p c)
  else s

/-- The command of context `c` ends (R461): its completion carries the first status raised; the tally settles what it left
(R168), and its layer-path buckets read their sources (R248). -/
def State.endRun (s : State) (p c st : Nat) : State :=
  match (s.ctx p c).run with
  | none => s
  | some r =>
    let live := s.resident p == c
    let st := if r.cmd.status ≠ 0 then r.cmd.status else st
    let s := if live then s.phaseTick p else s
    let r1 := if live then r else { r with began := s.ns }
    let s := (s.holdOff p c).teacherTime p r1
    let s := s.setCtx p c { s.ctx p c with run := none, savedRods := [] }
    let s := if live then
        r.rods.foldl (fun s d => s.setRod d { (s.rod d).stop with ended := false, stalled := false, waitStrokes := 0 }) s
      else s
    let s := (if st = 0 then s.recordSlots p r else s).waitMarks p
    let s := (s.orphan p c).complete r.cmd st 0 r.cmd.nsw
    let s := s.settleTally p r
    let s := { s with cy := { s.cy with buckets := s.cy.buckets.map (fun (b : Bucket) =>
      if r.layer.contains b.id then { b with ready := true } else b) } }
    s.endDisable p c

/-- A decision at the completion of the resident context's command (R344, R345, R347): a soft yield if another context is
chosen. A context that asked to yield is passed over if another is READY. -/
def State.afterRun (s : State) (p c : Nat) : State :=
  let yielding := (s.ctx p c).yieldReq ≠ 0
  let s := s.setCtx p c { s.ctx p c with yieldReq := 0 }
  let s := s.setPart p { s.part p with graceAt := 0, passed := if yielding then c else 8 }
  let s := s.pollLedger.decideIdle p
  let nx := s.residentNow p
  (s.setPart p { s.part p with yieldFrom := if nx < 8 && nx ≠ c then s.ns + 1 else 0, yieldBy := c }).pollAll

/-- The rods pass to context `c` at a command boundary: if another gave way for it, its soft yield is counted, and the time since
its command ended (R347, R351). -/
def State.endYield (s : State) (p c : Nat) : State :=
  let y := s.part p
  let s := s.setPart p { y with yieldFrom := 0, passed := 8 }
  if y.yieldFrom = 0 || y.yieldBy = c then s
  else
    let x := s.ctx p y.yieldBy
    (s.addO 64 (kPT_SWITCH_NS p) (s.ns + 1 - y.yieldFrom)).setCtx p y.yieldBy
      { x with account := tset 0 x.account 6 (satAdd 64 (tget 0 x.account 6) 1) }

/-- Completion of the resident command, with its decision. -/
def State.completeRun (s : State) (p : Nat) : State :=
  let c := s.resident p
  (s.endRun p c 0).afterRun p c

/-! Hard switches (R348 to R350). -/

/-- Bytes of a table of numbers of `w` bytes, from `base`. -/
def packTab (t : Tab Nat) (w base : Nat) : Mem :=
  t.flatMap (fun q => (leBytes w q.2).zipIdx.filterMap (fun b =>
    if b.1 = 0 then none else some (base + w * q.1 + b.2, b.1)))

/-- The table of numbers of `w` bytes in `n` bytes from `a`. -/
def unpackTab (m : Mem) (a n w : Nat) : Tab Nat :=
  (mspan m a n 0).foldl (fun (t : Tab Nat) q =>
    tset 0 t (q.1 / w) (tget 0 t (q.1 / w) + q.2.toNat * 256 ^ (q.1 % w))) []

/-- The part of a rod's state whose layout in a save area R349 gives, at `base`. -/
def Rod.image (r : Rod) (base : Nat) : Mem :=
  let f32s (t : Tab F32) : Tab Nat := t.map (fun q => (q.1, q.2.toNat))
  mspan r.cache 0 8388608 base ++ mspan r.imem 0 131072 (base + 8388608)
    ++ packTab (f32s r.banks) 4 (base + 8519680)
    ++ packTab (r.masks.map (fun q => (q.1, q.2.toNat))) 2048 (base + 8552448)
    ++ packTab (f32s (r.luts.map (fun q => (q.1 / 512 * 259 + q.1 % 512, q.2)))) 4 (base + 8568832)
    ++ packTab (r.sregs.map (fun q => (q.1, q.2.toNat))) 8 (base + 8577024)

/-- A saved rod with that part read back from the save area at `a`. -/
def Rod.fromImage (r : Rod) (m : Mem) (a : Nat) : Rod :=
  let w32 (t : Tab Nat) : Tab F32 := t.map (fun q => (q.1, BitVec.ofNat 32 q.2))
  { r with cache := mspan m a 8388608 0
           imem := mspan m (a + 8388608) 131072 0
           banks := w32 (unpackTab m (a + 8519680) 32768 4)
           masks := (unpackTab m (a + 8552448) 16384 2048).map (fun q => (q.1, BitVec.ofNat 16384 q.2))
           luts := w32 ((unpackTab m (a + 8568832) 4144 4).map (fun q => (q.1 / 259 * 512 + q.1 % 259, q.2)))
           sregs := (unpackTab m (a + 8577024) 512 8).map (fun q => (q.1, BitVec.ofNat 64 q.2)) }

/-- Bytes of a save area whose layout the spec leaves to Filtia: program state and descriptors (R349, log entry 3). -/
def freeSpan : Nat := 69120

/-- Write one rod's state into the save area (R348 step 3). -/
def State.saveRod (s : State) (rod a : Nat) : State :=
  let base := rod * 2 ^ 29 + a
  let d := s.decks
  let k := s.draws
  let free := (upto freeSpan).map (fun i => (Config.freeValue (k + i)).truncate 8)
  let ud := mwrite (mput d.ud base saveBytes ((s.rod rod).image base)) (base + 8577536) free
  { s with draws := k + freeSpan
           decks := { d with ud := ud
                             udBad := d.udBad.filter (fun w => !(decide (base ≤ w.1 * 32)
                               && decide (w.1 * 32 < base + saveBytes))) } }

/-- Rods of a partition that take part in a switch (R348). -/
def State.switchRods (s : State) (p : Nat) : List Nat :=
  (s.partRods p).filter (fun r => (s.rod r).st == .enabled)

/-- The running engine work of a rod has ended (R348 step 2). -/
def State.rodDrained (s : State) (r : Nat) : Bool :=
  let x := (s.rod r).settleAt s.cycle false
  x.mq.all (fun e => e.phase == .queued) && x.vrun.isNone && x.dq.all (fun e => !e.going)
    && !s.mesh.vc0.any (fun q => match q.writer with | .mover d _ => d == r | _ => false)

/-- A hard switch begins (R348): issue to the engines stops. -/
def State.startSwitch (s : State) (p out inn : Nat) : State :=
  let x := s.ctx p out
  let s := s.setCtx p out { x with account := tset 0 x.account 7 (satAdd 64 (tget 0 x.account 7) 1) }
  s.setPart p { s.part p with switch := some { out := out, inn := inn, at_ := s.ns, saved := false }, graceAt := 0 }

/-- Step 3: the outgoing context's rods are saved, and its command no longer counts time (R348, R351). -/
def State.saveOut (s : State) (p out : Nat) : State :=
  let rods := s.switchRods p
  let a := (s.saveArea p out).getD 0
  let s := s.phaseTick p
  let s := rods.foldl (fun s r => s.setRod r ((s.rod r).settleAt s.cycle false)) s
  let saved := rods.map (fun r => (r, s.rod r))
  let s := rods.foldl (fun s r => s.saveRod r a) s
  let s := s.holdOff p out
  let x := s.ctx p out
  let s := s.setCtx p out { x with savedRods := saved
                                   run := x.run.map (fun (r : RunCmd) => { r with ran := r.ran + (s.ns - r.began) }) }
  rods.foldl (fun s r => s.setRod r { (s.rod r).stop with ended := false, stalled := false, waitStrokes := 0 }) s

/-- Step 4: the incoming context's rods are restored; an unreadable save area ends its command with DECK_UNCORR (R348, R350),
a rod fenced meanwhile with ROD_FENCED. -/
def State.restoreIn (s : State) (p inn : Nat) : State :=
  let s := (s.phaseTick p).endYield p inn
  let x := s.ctx p inn
  if 8 ≤ inn then s.setResident p 0xFF
  else match x.run, s.saveArea p inn with
  | some r, some a =>
    let bad := x.savedRods.any (fun q => s.decks.udBadIn (q.1 * 2 ^ 29 + a) saveBytes)
    let s := (s.setResident p inn).holdOn p inn
    if bad then
      let w := x.savedRods.filter (fun q => s.decks.udBadIn (q.1 * 2 ^ 29 + a) saveBytes)
      let s := w.foldl (fun s q => s.errRec { uncorrRec p (q.1 * 2 ^ 29 + a) with rod := q.1 }) s
      (s.endRun p inn stDECK_UNCORR).setResident p 0xFF
    else
      let live := x.savedRods.filter (fun q => (s.rod q.1).st == .enabled)
      let s := live.foldl (fun s q =>
        let now := s.rod q.1
        let back := q.2.fromImage s.decks.ud (q.1 * 2 ^ 29 + a)
        s.setRod q.1 { back with st := now.st, target := now.target, flitErrs := now.flitErrs, wdogs := now.wdogs
                                 opcErrs := now.opcErrs, discards := now.discards, corrected := now.corrected
                                 correctedEngine := now.correctedEngine }) s
      let s := s.setCtx p inn { s.ctx p inn with savedRods := [], run := some { r with began := s.ns } }
      let s := if r.rods.any (fun d => (s.rod d).st != .enabled) then s.failRun p stROD_FENCED 576 else s
      State.admitPasses p 4096 (State.admitStages p 256 s)
  | some _, none => (s.setResident p inn).holdOn p inn
  | none, _ => s.setResident p inn

/-- A switch is abandoned and every command of the partition ends, resident or switched out, with a status (R338, R350,
R471). Contexts with a DISABLE pending become DISABLED. -/
def State.endAllRuns (s : State) (p st : Nat) : State :=
  let s := s.setPart p { s.part p with switch := none, yieldFrom := 0, graceAt := 0 }
  let s := (upto 8).foldl (fun s c =>
    let live := s.resident p == c
    let x := s.ctx p c
    let s := if live then s.failRun p st 576
      else s.setCtx p c { x with run := x.run.map (fun (r : RunCmd) => { r with cmd := r.cmd.raise s.cycle 576 st }) }
    let s := s.endRun p c st
    s.setCtx p c { s.ctx p c with yieldReq := 0, ready := false }) s
  (s.setResident p 0xFF).pollLedger

/-! The end of a partition. -/

/-- The effects of a partition reset that the other chapters state (R144, R180, R181, R190, R239, R265, R329); R168 has
taken effect as its commands ended. -/
def State.partEffects (s : State) (p st : Nat) : State :=
  let s := (s.abandonStages p st).memberLost p
  let s := s.setO (kTY_HV_ENABLE p) 0
  let s := (s.reckReset p st).carryReset p st
  s.svPartLost p

end Sys2Proof.Machine
end

