-- ==== Sys2Proof/Machine/Carry.lean ====
section
/-! DEFINITION. The carry commands: groups, buckets, verdicts and checkpoint mirrors (R241 to R274). -/

namespace Sys2Proof.Machine

open Sys2Proof

/-- A local group of a partition. -/
def grpOk (part g : Nat) : Bool := decide (part < 16) && decide (g < 4)

/-! Groups (R243). -/

/-- HANDSHAKE_UP (R243): kept until this member forms and has heard all its children. -/
def execHandshakeUp (part g child : Nat) (digest : BitVec 256) (epoch : Nat) (mismatch : Bool) (s : State) : Out :=
  let x := s.group part g
  if !grpOk part g || (s.cyState part g ≠ cyIDLE && s.cyState part g ≠ cyFORMING) || x.helloUp
      || x.heard.any (fun h => h.child == child) then .next s
  else
    let h : Hello := { child := child, digest := digest, epoch := epoch % 2 ^ 32, mismatch := mismatch }
    .next ((s.setGroup part g { x with heard := x.heard ++ [h] }).formGo part g)

/-- HANDSHAKE_RESULT (R243). -/
def execHandshakeResult (part g epoch : Nat) (matched : Bool) (s : State) : Out :=
  .next (if grpOk part g && s.cyState part g == cyFORMING && (s.group part g).helloUp then
    s.formResult part g epoch matched else s)

/-- A forming member has no result within CY_FORM_STROKES strokes (R243). -/
def State.formLate (s : State) (part g : Nat) : State :=
  let x := s.group part g
  if !grpOk part g || s.cyState part g ≠ cyFORMING || s.stroke < x.formAt + s.o (kCY_FORM_STROKES (4 * part + g)) then s
  else
    let s := (s.setGroup part g { x with heard := [], helloUp := false }).setCyState part g cyIDLE
    s.errRec { cls := 0, code := rcCY_FORM_TIMEOUT, part := part }

/-- CY_FORM_TIMEOUT (R243). -/
def execCyFormTimeout (part g : Nat) (s : State) : Out := .next (s.formLate part g)

/-! Pushes by rod programs (R244, R245). -/

/-- A rod program pushes a descriptor; a refused one ends its command. With `hold` the program then waits for the operation
(R265). -/
def State.rodPush (s : State) (rod : Nat) (desc : BitVec 512) (hold : Bool) : State :=
  if !s.issues rod then s
  else match s.pushBucket (s.owner rod) desc none with
    | .ok s' =>
      if hold then
        let w : RodWait := if bdOp desc = 4 then .carry (bdGroup desc) (bdStep desc) else .bucket s.cy.nextId
        (s'.phaseTick (s.owner rod)).setRod rod { s'.rod rod with wait := w, waitStrokes := 0, waitSince := s.ns }
      else s'
    | .error e => s.failRod rod e

/-- REDUCE (R244 to R248); a descriptor whose OP is no operation is refused here. -/
def execReduce (rod : Nat) (push : CarryPush) (s : State) : Out :=
  .next (if 2 ≤ bdOp push.desc && bdOp push.desc ≤ 4 then s else s.rodPush rod push.desc push.hold)

/-- ALL_TO_ALL (R266). -/
def execAllToAll (rod : Nat) (push : CarryPush) (s : State) : Out :=
  .next (if bdOp push.desc = 2 then s.rodPush rod push.desc push.hold else s)

/-- ALL_GATHER (R267). -/
def execAllGather (rod : Nat) (push : CarryPush) (s : State) : Out :=
  .next (if bdOp push.desc = 3 then s.rodPush rod push.desc push.hold else s)

/-- CLOSE_STEP (R259, R261). -/
def execCloseStep (rod : Nat) (push : CarryPush) (s : State) : Out :=
  .next (if bdOp push.desc = 4 then s.rodPush rod push.desc push.hold else s)

/-! Contributions (R247, R248). -/

/-- The 4,096 elements of a tile's segment: (m, n) at 64 m + n, +0 outside (R247). -/
def Tile.elems (t : Tile) : List FVal :=
  (upto 4096).map (fun i =>
    f32dec (if i / 64 < t.m && i % 64 < t.n then t.data.getD (i / 64 * t.n + i % 64) 0 else 0))

/-- What a tile's bank status word says of the bucket (R258). -/
def tileWord (w : Nsw) : BitVec 16 :=
  (if w &&& (nsNonfiniteIn ||| nsNonfiniteOut ||| nsInvalid) = 0 then 0 else csNONFINITE)
    ||| (if w &&& nsScaleOvf = 0 then 0 else csSCALE_OVF)

/-- CARRY_TILE (R247, R249, R252, R253, R262): the oldest tile handed over becomes a segment of the open REDUCE of its
partition and TAG with the lower STEP; a tile of a poisoned segment is discarded. -/
def execCarryTile (s : State) : Out :=
  match s.cy.tiles with
  | [] => .next s
  | t :: rest =>
    let s := { s with cy := { s.cy with tiles := rest } }
    let bs := s.cy.buckets.filter (fun b => b.part == t.part && bdOp b.desc == 1 && !bdPath b.desc && bdTag b.desc == t.tag)
    let low := bs.foldl (fun (a : Option Bucket) b =>
      match a with
      | none => some b
      | some x => if bdStep b.desc < bdStep x.desc then some b else some x) none
    match low with
    | none => .next (s.failRod t.rod stCY_NO_BUCKET)
    | some b =>
      if s.carryWaits b then .next { s with cy := { s.cy with tiles := t :: rest } }
      else if b.poison.contains t.index then .next s
      else if bdSegs b.desc ≤ t.index || b.given.contains t.index then .next (s.failRod t.rod stCY_SEGMENT)
      else .next (s.contribute b t.index t.rod t.elems (tileWord t.bsw))

/-- Elements of a layer-path segment (R248), and whether a word was unreadable. -/
def State.layerElems (s : State) (b : Bucket) (j : Nat) : State × List FVal × Bool :=
  let w := if bdSrcHb b.desc then 2 else 4
  let r := s.cyRead b.part (bdSrc b.desc + 4096 * j * w) (4096 * w)
  let num (i : Nat) : Nat := leNat ((r.2.1.drop (i * w)).take w)
  (r.1, (upto 4096).map (fun i =>
    if bdSrcHb b.desc then fmt16.decode (num i) else f32dec (BitVec.ofNat 32 (num i))), r.2.2)

/-- LAYER_SOURCE_READ (R248, R249, R252): the bucket reads its source and contributes every segment. -/
def execLayerSourceRead (bkt : Nat) (s : State) : Out :=
  match s.bucket? bkt with
  | none => .next s
  | some b =>
    if bdOp b.desc ≠ 1 || !bdPath b.desc || !b.ready || s.carryWaits b then .next s
    else .next (b.segs.foldl (fun s j =>
      match s.bucket? bkt with
      | none => s
      | some b =>
        if b.given.contains j then s
        else
          let r := s.layerElems b j
          r.1.contribute b j (bdHome b.desc) r.2.1 (if r.2.2 then csUNCORR ||| csNONFINITE else 0)) s)

/-! The tree (R250 to R258). -/

/-- The open REDUCE that a unit or header belongs to (R246, R264). -/
def State.reduceOf (s : State) (p g tag parity epoch : Nat) : Option Bucket :=
  if s.cyEpoch p g ≠ epoch then none
  else (s.groupBuckets p g).find? (fun b => bdOp b.desc == 1 && bdTag b.desc == tag && bdStep b.desc % 2 == parity)

/-- A final unit as it goes down: its prefix only with DELIVER = 1 (R256). -/
def downUnit (b : Bucket) (me : Nat) (u : SegUnit) : SegUnit :=
  { u with down := true, sender := me, sbs := if bdDeliver b.desc then [] else u.sbs
           codes := if bdDeliver b.desc then [] else u.codes }

/-- Send a final unit to the children of its segment. -/
def State.sendFinal (s : State) (b : Bucket) (u : SegUnit) : State :=
  (s.segKids b u.index).foldl (fun (s' : State) r =>
    s'.cySend (.unit b.part b.g r (downUnit b (s.cyRank b.part b.g) u))) s

/-- Elements of a unit, decoded under the segment's scale, and what that raises (R61, R64). -/
def unitElems (ts : F32) (u : SegUnit) : List F32 × Nsw :=
  let xs := u.codes.zipIdx.map (fun c => decodeBead bd8 ts (u.sbs.getD (c.2 / 32) 0) c.1)
  (xs.map (·.1), xs.foldl (fun a x => a ||| x.2) 0)

/-- SCALE_OVF of a bucket's word (R258). -/
def ovfWord (w : Nsw) : BitVec 16 := if w &&& nsScaleOvf = 0 then 0 else csSCALE_OVF

/-- The scale that a segment's store keeps after a final maximum (R251): a power of two. -/
def agreedTs (h n : Nat) (m : F32) : F32 :=
  let q := f32Frac m
  let e := ceilLog2 ((n * q.1) ^ 4 * 2 ^ (4 * h)) ((31 * q.2) ^ 4 * 2 ^ 127)
  let k := max (-126) (min 127 (-((-e) / 4)))
  BitVec.ofNat 32 ((k + 127).toNat * 2 ^ 23)

/-- A final sum goes into DST where this member receives it (R256). -/
def State.deliverSegment (s : State) (b : Bucket) (u : SegUnit) : State × BitVec 16 × Nsw :=
  if !bdDeliver b.desc || s.cyRank b.part b.g == bdOwner b.desc then
    let e := unitElems (b.scale u.index) u
    let r := s.putSegment b u.index (bdHome b.desc) e.1
    (r.1, r.2.1, r.2.2 ||| e.2)
  else (s, 0, 0)

/-- The scale store takes a segment's final maximum over VC2 (R241, R251). -/
def State.storeScale (s : State) (b : Bucket) (u : SegUnit) : State × BitVec 16 :=
  let p := b.part
  let a := bdScale b.desc + 8 * u.index
  let t := if u.amax = 0 then
      leBytes 4 (match s.udPhys p a 4 false with | some x => leNat (s.decks.udRead x 4) | none => 0)
    else leBytes 4 (agreedTs (s.o (kCY_HEADROOM (4 * p + b.g))) (s.cySize p b.g) u.amax).toNat
  s.carryPut b a (bdHome b.desc) (t ++ leBytes 4 u.amax.toNat)

/-- SEGMENT_UNIT (R250, R255, R264): a child's unit waits for its segment's combination; the parent's final unit is kept and
passed on; any other is discarded and counted. -/
def execSegmentUnit (part g : Nat) (arr : SegArrival) (s : State) : Out :=
  let u := arr.unit
  if !grpOk part g then .next s
  else match s.reduceOf part g u.tag u.parity u.epoch with
    | none => .next (s.discard part arr.link)
    | some b =>
      if bdSegs b.desc ≤ u.index then .next (s.discard part arr.link)
      else if s.carryWaits b then .next s
      else if u.down then
        if s.segParent b u.index ≠ some u.sender || b.finals.any (fun x => x.index == u.index) then
          .next (s.discard part arr.link)
        else
          let r := s.unitWrite b (s.cyFanin part g + 1) (bdHome b.desc) u
          let q := r.1.deliverSegment b u
          let b := ({ b with finals := b.finals ++ [SegUnitBare u] }.note u.index (r.2 ||| q.2.1) 0 0).flag q.2.2
          .next ((q.1.sendFinal b u).sendHeaders b)
      else if !(s.segKids b u.index).contains u.sender
          || b.landed.any (fun x => x.index == u.index && x.sender == u.sender) then
        .next (s.discard part arr.link)
      else
        let r := s.unitWrite b (1 + (s.segKids b u.index).idxOf u.sender) (bdHome b.desc) u
        .next (r.1.setBucket ({ b with landed := b.landed ++ [SegUnitBare u] }.note u.index r.2 0 0))

/-- SEGMENT_COMBINE (R252, R253, R255, R256): own contribution first, then the children in ascending relabelled rank, added
in F32; the sum is encoded and sent up, or becomes the final sum and goes down. -/
def execSegmentCombine (bkt seg : Nat) (s : State) : Out :=
  match s.bucket? bkt with
  | none => .next s
  | some b =>
    let kids := s.segKids b seg
    let us := kids.filterMap (fun c => b.landed.find? (fun u => u.index == seg && u.sender == c))
    match b.own.find? (fun u => u.index == seg) with
    | none => .next s
    | some own =>
      if b.combined.contains seg || us.length ≠ kids.length || s.carryWaits b then .next s
      else
        let ts := b.scale seg
        let rd := ((own :: us).zipIdx).foldl (fun (a : State × List SegUnit × BitVec 16) u =>
          let r := a.1.unitRead b u.2 u.1
          (r.1, a.2.1 ++ [r.2.1], a.2.2 ||| r.2.2)) (s, [], 0)
        let s := rd.1
        let ds := rd.2.1.map (unitElems ts)
        let sums := (upto 4096).map (fun i =>
          match ds with
          | [] => (0, (0 : Nsw))
          | d :: rest => rest.foldl (fun (a : Nat × Nsw) (e : List F32 × Nsw) =>
              let z := fmt32.add false a.1 (e.1.getD i 0).toNat
              (z.1, a.2 ||| z.2)) ((d.1.getD i 0).toNat, 0))
        let sum : List F32 := sums.map (fun x => BitVec.ofNat 32 x.1)
        let raised := sums.foldl (fun a x => a ||| x.2) (ds.foldl (fun a d => a ||| d.2) 0)
        let m := us.foldl (fun (a : F32) u => if a.toNat < u.amax.toNat then u.amax else a) own.amax
        let e := s.cyEncode b 1 seg (sum.map f32dec)
        let u := { e.1 with amax := m }
        let ovf := ovfWord raised
        let r := s.unitWrite b (s.cyFanin b.part b.g + 1) (bdHome b.desc) u
        let s := r.1
        let b := ({ b with combined := b.combined ++ [seg] }.note seg (ovf ||| nonfinWord e.2 ||| rd.2.2 ||| r.2) e.2.sat
          e.2.vanish).flag (raised ||| e.2.nsw)
        match s.segParent b seg with
        | some r => .next ((s.cySend (.unit b.part b.g r u)).sendHeaders b)
        | none =>
          let f := unitElems ts u
          let bad := !bdDstF32 b.desc && f.1.any beyondHb
          let b := b.note seg ((if bad then csNONFINITE else 0) ||| ovfWord f.2) 0 0
          let q := s.deliverSegment b u
          let b := ({ b with finals := b.finals ++ [SegUnitBare u] }.note seg q.2.1 0 0).flag (f.2 ||| q.2.2)
          .next ((q.1.sendFinal b u).sendHeaders b)

/-- BUCKET_HEADER (R257, R258, R264): of an expected child, or of a parent on the way down; any other is discarded. -/
def execBucketHeader (part g : Nat) (arr : HdrArrival) (s : State) : Out :=
  if !grpOk part g then .next s
  else if !s.ofGroup part g arr.hdr then .next (s.discard part arr.link)
  else if bhKind arr.hdr ≠ 0 then
    match (s.groupBuckets part g).find? (fun b => bdOp b.desc == bhKind arr.hdr + 1 && bdTag b.desc == bhTag arr.hdr
        && bdStep b.desc % 2 == bhParity arr.hdr) with
    | some b =>
      let x := bhSender arr.hdr
      if s.cyEpoch part g ≠ bhEpoch arr.hdr || bhKind arr.hdr = 3 || s.cySize part g ≤ x || x = s.cyRank part g
          || b.upHdrs.any (fun h => h.1 == x) then .next (s.discard part arr.link)
      else .next (s.setBucket { b with status := csNorm (b.status ||| (bhStatus arr.hdr &&& csLOST))
                                       upHdrs := b.upHdrs ++ [(x, arr.hdr)] })
    | none => .next (s.discard part arr.link)
  else match s.reduceOf part g (bhTag arr.hdr) (bhParity arr.hdr) (bhEpoch arr.hdr) with
    | none => .next (s.discard part arr.link)
    | some b =>
      let x := bhSender arr.hdr
      if bhDown arr.hdr then
        if b.segs.all (fun j => s.segParent b j != some x) || b.downHdrs.any (fun h => h.1 == x) then
          .next (s.discard part arr.link)
        else .next (s.sendHeaders { b with downHdrs := b.downHdrs ++ [(x, arr.hdr)] })
      else if b.segs.all (fun j => !(s.segKids b j).contains x) || b.upHdrs.any (fun h => h.1 == x) then
        .next (s.discard part arr.link)
      else .next (s.sendHeaders { b with upHdrs := b.upHdrs ++ [(x, arr.hdr)] })

/-- No write of the bucket is still on the mesh (R28). -/
def State.writesDone (s : State) (b : Bucket) : Bool :=
  !s.mesh.vc2.any (fun r => match r.writer with | .carry i => i == b.id | _ => false)

/-- The poisoned segments of a group of one are zeros in DST (R262). -/
def State.zeroPoisoned (s : State) (b : Bucket) : State × BitVec 16 :=
  if s.cySize b.part b.g = 1 then
    b.poison.foldl (fun (a : State × BitVec 16) j =>
      let x := a.1.putSegment b j (bdHome b.desc) (List.replicate 4096 0)
      (x.1, a.2 ||| x.2.1)) (s, 0)
  else (s, 0)

/-- BUCKET_COMPLETE (R249, R251, R256 to R258, R266, R267): once everything has landed and every write has been acknowledged,
the scale store takes the final maxima; when those writes too are acknowledged, at once where there is none, the entry is
freed. -/
def execBucketComplete (bkt : Nat) (s : State) : Out := polled <|
  match s.bucket? bkt with
  | none => .next s
  | some b =>
    if b.ownAt = 0 || !(s.missing b).isEmpty || !s.writesDone b || s.carryWaits b then .next s
    else if b.stored then .next (s.endBucket b (s.finalNote b))
    else
      let r := (b.finals).foldl (fun (a : State × BitVec 16) u =>
        let x := a.1.storeScale b u
        (x.1, a.2 ||| x.2)) (s.zeroPoisoned b)
      let b := { b with stored := true, status := csNorm (b.status ||| r.2) }
      if r.1.writesDone b then .next (r.1.endBucket b (r.1.finalNote b)) else .next (r.1.setBucket b)

/-- CHUNK_LANDED (R264, R266, R267). -/
def execChunkLanded (part g tag parity sender epoch : Nat) (arr : ChunkArrival) (s : State) : Out := polled <|
  if !grpOk part g then .next s
  else match (s.groupBuckets part g).find? (fun b => bdOp b.desc != 1 && bdTag b.desc == tag
      && bdStep b.desc % 2 == parity) with
    | none => .next (s.discard part arr.link)
    | some b =>
      if s.cyEpoch part g ≠ epoch || s.cySize part g ≤ sender || b.chunks.contains sender
          || arr.data.length ≠ bdChunk b.desc then .next (s.discard part arr.link)
      else if s.carryWaits b then .next s
      else .next (s.landChunk b sender arr.data)

/-- A bucket whose own contribution is complete still misses a unit or header CY_TIMEOUT_STROKES strokes later (R263). -/
def State.bucketLate (s : State) (bkt : Nat) : State :=
  match s.bucket? bkt with
  | none => s
  | some b =>
    if b.ownAt = 0 || s.stroke < b.ownAt - 1 + s.o (kCY_TIMEOUT_STROKES (4 * b.part + b.g)) then s
    else match s.missing b with
      | [] => s
      | r :: _ => s.loseBucket b r

/-- The same for a group's verdict exchange (R263). -/
def State.verdictLate (s : State) (p g : Nat) : State :=
  match (s.group p g).exchs.find? (fun e => e.at_ != 0) with
  | none => s
  | some e =>
    if s.stroke < e.at_ - 1 + s.o (kCY_TIMEOUT_STROKES (4 * p + g)) then s
    else
      let silent := match (s.grpKids p g).filter (fun k => !e.kids.any (fun c => c.1 == k)) with
        | k :: _ => k
        | [] => (s.grpParent p g).getD 0
      let s := (s.setCyState p g cyBROKEN).errRec
        { cls := 3, code := rcCY_GROUP_LOST, part := p, arg0 := g, arg1 := 0xFFFF, arg2 := e.step % 2 ^ 32, arg3 := silent }
      s.verdictKnown p g e.step (csLOST ||| csNONFINITE)

/-- BUCKET_TIMEOUT (R263): of a bucket, or, numbered from 2^32 on by 4 part + g, of a group's verdict exchange. -/
def execBucketTimeout (bkt : Nat) (s : State) : Out := polled <|
  if bkt < 2 ^ 32 then .next (s.bucketLate bkt)
  else if grpOk ((bkt - 2 ^ 32) / 4) (bkt % 4) then .next (s.verdictLate ((bkt - 2 ^ 32) / 4) (bkt % 4))
  else .next s

/-! Verdicts (R259 to R261). -/

/-- The CLOSE_STEP of a group that may go ahead: the lowest step of those with no bucket of their step open and, in the verdict
group, with the partition's other groups done and the step not above S (R259, R261). -/
def State.closeReady (s : State) (p g : Nat) : Option Close :=
  let x := s.group p g
  let ready := x.closes.filter (fun c => c.res.isNone && (x.exch c.step).at_ == 0
    && !(s.groupBuckets p g).any (fun b => bdStep b.desc == c.step)
    && (g != s.verdictGroup p
        || ((upto 4).all (fun h => h == g || (s.group p h).closes.all (fun y => y.step != c.step || y.res.isSome))
            && !(s.running p && decide (s.runStep p < c.step)))))
  ready.foldl (fun (a : Option Close) c =>
    match a with
    | none => some c
    | some y => if c.step < y.step then some c else some y) none

/-- VERDICT_EXCHANGE_START (R259, R261): outside the verdict group the CLOSE_STEP completes; in it the exchange starts, and a
group of one knows its verdict at once. -/
def execVerdictExchangeStart (part g : Nat) (s : State) : Out := polled <|
  if !grpOk part g then .next s
  else match s.closeReady part g with
    | none => .next s
    | some c =>
      let x := s.group part g
      let own := tget 0 x.stepOr c.step
      if g ≠ s.verdictGroup part then
        let x := { x with closes := x.closes.map (fun y =>
          if y.step = c.step then { y with res := some own, cmd := none } else y) }
        .next (((s.setGroup part g x).completeOpt c.cmd 0 own.toNat 0).wakeCarry part)
      else
        let others := (upto 4).flatMap (fun h => if h = g then [] else
          (s.group part h).closes.filterMap (fun y => if y.step = c.step then y.res else none))
        let w := others.foldl (fun a r => a ||| r) own
        if s.cySize part g = 1 then .next (s.verdictKnown part g c.step w)
        else
          let e := { x.exch c.step with at_ := s.stroke + 1, word := w, count := tget 0 x.stepCount c.step }
          .next ((s.setGroup part g (x.setExch e)).exchGo part g c.step)

/-- The verdict of a step is known, or can no more be taken (R245, R261): a step below the latest verdict's is still open only
where its CLOSE_STEP was pushed before. -/
def State.verdictTaken (s : State) (p g step : Nat) : Bool :=
  (tget [] s.cy.known p).contains step
    || (decide (step < tget 0 s.cy.lastStep p) && !(s.group p g).closes.any (fun c => c.step == step))

/-- VERDICT_EXCHANGE_UP (R259, R264): kept until this member has started the exchange; a group that a failed bucket has broken
still exchanges, so that its LOST reaches the others (R263). -/
def execVerdictExchangeUp (part g : Nat) (arr : HdrArrival) (s : State) : Out := polled <|
  if !grpOk part g then .next s
  else
    let e := (s.group part g).exch (bhStep arr.hdr)
    let c := bhSender arr.hdr
    if s.cyEpoch part g ≠ bhEpoch arr.hdr || bhKind arr.hdr ≠ 3 || bhDown arr.hdr || bhTag arr.hdr ≠ 0xFFFF
        || (s.cyState part g ≠ cyREADY && s.cyState part g ≠ cyBROKEN) || !(s.grpKids part g).contains c
        || e.kids.any (fun k => k.1 == c) || s.verdictTaken part g (bhStep arr.hdr) || !s.ofGroup part g arr.hdr then
      .next (s.discard part arr.link)
    else
      let e := { e with kids := e.kids ++ [(c, bhStatus arr.hdr, bhMin arr.hdr, bhMax arr.hdr)] }
      .next ((s.setGroup part g ((s.group part g).setExch e)).exchGo part g (bhStep arr.hdr))

/-- VERDICT_RESULT (R259, R260, R264): the final header of the exchange comes from the parent to a member that has sent its own
part up. -/
def execVerdictResult (part g : Nat) (hdr : BitVec 512) (link : Nat) (s : State) : Out := polled <|
  if !grpOk part g then .next s
  else if s.cyEpoch part g = bhEpoch hdr && bhKind hdr = 3 && bhDown hdr && bhTag hdr = 0xFFFF
      && s.ofGroup part g hdr && s.grpParent part g == some (bhSender hdr) && ((s.group part g).exch (bhStep hdr)).up then
    .next (s.verdictDown part g (bhStep hdr) (bhStatus hdr))
  else .next (s.discard part link)

/-! Checkpoint mirrors (R268 to R272). -/

/-- ENABLE and DISABLE of a mirror client (R269). -/
def State.mirrorOn (s : State) (p : Nat) (v : Bool) : State × Nat := (s.setMirror p { s.mirror p with on := v }, 0)

/-- Node and allotment of the partition's mirror host (R274). -/
def State.mirrorPeer (s : State) (p : Nat) : Nat × Nat := (s.o (kCY_MIRROR_PEER p), s.o (kCY_MIRROR_ALLOT p))

/-- RESTORE (R271): the spare asks its mirror host for the latest mirror. -/
def State.mirrorAsk (s : State) (p : Nat) : State × Nat :=
  let h := s.mirrorPeer p
  ((s.setMirror p { s.mirror p with restoring := true, inbox := [] }).cySend (.restoreReq p h.1 h.2), 0)

/-- EXPORT (R272): the mirror host is asked to send the latest mirror to CY_EXPORT_TARGET. -/
def State.mirrorSendAway (s : State) (p : Nat) : State × Nat :=
  let h := s.mirrorPeer p
  (s.cySend (.exportReq p h.1 h.2 ((upto 16).map (fun i => s.blob (kCY_EXPORT_TARGET p) i))), 0)

/-- MIRROR_COPY_END (R147, R269): every region has been read and sent, unless the copy fails or its next scheduled stroke has
come; the passes that waited go on. -/
def execMirrorCopyEnd (part : Nat) (ok : Bool) (s : State) : Out :=
  let m := s.mirror part
  match m.copy with
  | none => .next s
  | some (step, stroke) =>
    let s := (s.mirrorRegions part).foldl (fun (s : State) r => s.regionRecs part r) s
    let good := ok && (s.mirrorRegions part).all (s.regionOk part false)
      && decide (s.stroke < s.o (kCY_MIRROR_NEXT part))
    let s := s.setMirror part { m with copy := none, hdr := [] }
    if !good then .next (s.errRec { cls := 0, code := rcCY_MIRROR_FAILED, part := part })
    else
      let img := s.mirrorImage part step stroke m.hdr
      let h := s.mirrorPeer part
      .next (s.cySend (.mirror part h.1 h.2 img (digestOf (mirrorStream img))))

/-- MIRROR_COMMIT (R139, R268, R270, R274): the copy that the named client sent has come whole; once its last byte stands in the
lower deck VALID is set if the digest is the one the client sent, and stays clear otherwise. The client is told of a committed
copy, in a message of the model's own (DESIGN CHOICE, log entry 51). -/
def execMirrorCommit (k : Nat) (client : MirrorClient) (copy : MirrorImage) (digest : BitVec 256) (s : State) : Out :=
  match (s.allot k).coming with
  | none => .next s
  | some (_, gen, got) =>
    let h := mirrorHeader copy digest
    if 8 ≤ k || !s.allotNames k client.node client.part || !s.allotGranted k || got ≠ 64 + mirrorSize copy
        || tget 0 (s.allot k).hdrs gen ≠ setField h 0 1 0 then .next s
    else
      let s := (upto 16).foldl (fun (s : State) d => s.drainBuffer d) s
      let q := s.genRead k gen 64 (mirrorSize copy)
      let s := q.1
      let a := { s.allot k with coming := none }
      if digestOf q.2 = digest then
        .next (((s.setAllot k { a with hdrs := tset 0 a.hdrs gen h }).genWrite k gen 0 (leBytes 64 h.toNat)).cySend
          (.committed client.node client.part copy.step))
      else .next (s.setAllot k a)

/-- MIRROR_RESTORE_END (R271): the latest mirror has come whole from the host; on a matching digest the regions and the step header
are written back; otherwise nothing changes and CY_RESTORE_FAILED is recorded. -/
def execMirrorRestoreEnd (part : Nat) (copy : MirrorImage) (digest : BitVec 256) (s : State) : Out :=
  let m := s.mirror part
  if !m.restoring || m.inbox ≠ leBytes 64 (mirrorHeader copy digest).toNat ++ mirrorStream copy then .next s
  else
    let s := s.setMirror part { m with restoring := false, inbox := [] }
    if digestOf (mirrorStream copy) = digest && copy.regions.all (s.regionOk part true) then
      .next ((copy.regions.foldl (fun s r => s.regionWrite part copy.bytes r) s).restoreHeader part copy.hdr)
    else .next (s.errRec { cls := 0, code := rcCY_RESTORE_FAILED, part := part })

end Sys2Proof.Machine
end

