-- ==== Sys2Proof/Machine/Optical.lean ====
section
/-! DEFINITION. The optical commands (R275 to R298). -/

namespace Sys2Proof.Machine

open Sys2Proof

/-! Link states (R286). -/

/-- LIGHT_DETECTED (R286): LIGHT, and TRAINING at once unless a retry hold runs. -/
def execLightDetected (l : Nat) (s : State) : Out :=
  if !s.linkLive l || s.lkState l ≠ lkABSENT then .next s
  else .next ((s.setLink l { s.link l with light := true }).toLight l 0)

/-- LIGHT_LOST (R286, R293): ABSENT, whatever else happens to the link. -/
def execLightLost (l : Nat) (s : State) : Out :=
  if 64 ≤ l || s.lkState l = lkABSENT then .next s else .next (s.toAbsent l)

/-- TRAINING_HOLD_END (R286). -/
def execTrainingHoldEnd (l : Nat) (s : State) : Out :=
  if !s.linkLive l || s.lkState l ≠ lkLIGHT || s.ns < (s.link l).hold then .next s else .next (s.train l)

/-- TRAINING_COMPLETE (R277, R282, R286, R448): widths that differ fail the training; levels that do not agree hold the link
for 10 s. -/
def execTrainingComplete (l lanes : Nat) (bamen : BitVec 64) (s : State) : Out :=
  let x := s.link l
  if !s.linkLive l || s.lkState l ≠ lkTRAINING || x.since + 500000000 < s.ns then .next s
  else if lanes ≠ (if x.narrow = 0 then s.linkWidth l else x.narrow) then .next (s.trainFail l)
  else
    let s := s.setLink l { x.clear with trainFails := 0, lanes := lanes }
    if !levelsAgree (levelEntry (s.imageLevels 4) 0x10) (levelEntry [bamen] 0x10) then
      .next ((s.errRec { cls := 0, code := rcOP_LEVEL_MISMATCH, link := l }).toLight l 10000000000)
    else
      let s := (s.endTurn l).linkTo l lkAUTH
      .next ((s.setLink l { s.link l with
        credits := (upto 9).foldl (fun t h => tset 0 t h (s.classCredit l h)) [] }).grantTurn)

/-- TRAINING_TIMEOUT (R286). -/
def execTrainingTimeout (l : Nat) (s : State) : Out :=
  if !s.linkLive l || s.lkState l ≠ lkTRAINING || s.ns < (s.link l).since + 500000000 then .next s
  else .next (s.trainFail l)

/-! Authentication (R287). -/

/-- The link authenticates in its turn, within the 2 s of it, at step `k` (R286). -/
def State.authAt (s : State) (l k : Nat) : Bool :=
  s.linkLive l && s.lkState l == lkAUTH && (s.link l).turnAt != 0 && (s.link l).authStep == k
    && decide (s.ns ≤ (s.link l).turnAt - 1 + 2000000000)

/-- Take the oldest whole CONTROL message of a link, if it is of this KIND and carries these data (R283); its flits leave the receive
buffer (R282). -/
def State.takeControl (s : State) (l kind : Nat) (data : List Byte) : Option State :=
  let x := s.link l
  match x.inbox.find? (fun m => m.cls == 0) with
  | some m =>
    if mhKind m.hdr = kind && m.data == data then
      some ((s.setLink l { x with inbox := x.inbox.eraseP (fun m => m.cls == 0) }).oweCredits l 0 m.flits)
    else none
  | none => none

/-- What the PROOFs sign (R287): the digest of both HELLOs and both chains, the lower node identifier's first. -/
def Link.transcript (x : Link) : List Byte :=
  sha256 (if ownNode < x.node then x.ownHello ++ x.peerHello ++ identityChain ++ x.peerChain
    else x.peerHello ++ x.ownHello ++ x.peerChain ++ identityChain)

/-- The link keys (R287): salt both nonces, keying material both shares, the lower node identifier's first. -/
def Link.linkKey (x : Link) (sender receiver : Nat) : List Byte :=
  let mine := decide (ownNode < x.node)
  let order (a b : List Byte) : List Byte := if mine then a ++ b else b ++ a
  hkdf256 (order (leBytes 32 x.ownNonce.toNat) (leBytes 32 x.nonce.toNat))
    (order (leBytes 32 x.ownShare.toNat) x.peerShare) (Config.linkInfo sender receiver)

/-- HELLO (R286, R287): the part's own node identifier means a loop. A HELLO that came before the link's turn waits for it. -/
def execHello (l node fabric : Nat) (enc : Bool) (nonce : BitVec 256) (s : State) : Out :=
  match (if s.authAt l 0 then s.takeControl l 0x10 (helloData node fabric enc nonce) else none) with
  | none => .next s
  | some s =>
    if node = ownNode then .next ((s.errRec { cls := 0, code := rcOP_LOOPBACK, link := l }).toLight l 10000000000)
    else
      let x := s.link l
      .next ((s.setLink l { x with node := node, fabric := fabric, peerEnc := enc, nonce := nonce, authStep := 1
                                   enc := enc || x.ownHello.getD 17 0 != 0
                                   peerHello := helloData node fabric enc nonce }).sendControl l 0x10 (certData identityChain))

/-- CERT (R278, R287): the chain verifies up to the Holtust root, and its key gives the node identifier of the HELLO. The PROOF goes
out with a fresh share. -/
def execCert (l : Nat) (device issuers : List Byte) (s : State) : Out :=
  let chain := device ++ issuers
  match (if s.authAt l 1 then s.takeControl l 0x10 (certData chain) else none) with
  | none => .next s
  | some s =>
    let x := s.link l
    if !Config.chainOk Config.rootKey chain || keyNode (Config.chainKey chain) ≠ x.node then
      .next ((s.noteEvent l ctAUTH_FAIL).quarantine l ctAUTH_FAIL 0)
    else
      let y := { x with authStep := 2, peerChain := chain, ownShare := Config.freeKey s.draws }
      let sig := (upto 384).map (fun i => Config.attSign s.draws y.transcript i)
      let sealed := Config.oaepSeal s.draws (Config.chainKey chain) (leBytes 32 (Config.freeKey s.draws).toNat)
      .next (({ s with draws := s.draws + 1 }.setLink l y).sendControl l 0x10 (proofData { sig := sig, share := sealed }))

/-- PROOF (R287): the signature verifies and the share decrypts; CONFIRM is the first flit under the new keys. -/
def execProof (l : Nat) (msg : ProofMsg) (s : State) : Out :=
  match (if s.authAt l 2 then s.takeControl l 0x10 (proofData msg) else none) with
  | none => .next s
  | some s =>
    let x := s.link l
    match (if Config.pssVerify (Config.chainKey x.peerChain) x.transcript msg.sig then Config.oaepOpen msg.share else none) with
    | none => .next ((s.noteEvent l ctAUTH_FAIL).quarantine l ctAUTH_FAIL 0)
    | some share =>
      let y := { x with authStep := 3, peerShare := share, confirmAt := s.ns, txKeyed := true, txSlot := 0 }
      .next ((s.setLink l { y with txKey := y.linkKey ownNode x.node, rxKey := y.linkKey x.node ownNode }).sendControl l 0x10
        confirmData)

/-- CONFIRM (R279, R286, R287): the first flit under the new keys has verified: the partner is proven, and permitted or not. -/
def execConfirm (l : Nat) (msg : List Byte) (s : State) : Out :=
  match (if s.authAt l 3 && msg == confirmData then s.takeControl l 0x10 msg else none) with
  | none => .next s
  | some s =>
    let x := s.link l
    if !s.permitted x.node x.fabric then .next ((s.noteEvent l ctNOT_PERMITTED).quarantineProven l ctNOT_PERMITTED x.node)
    else .next (s.activate l)

/-- AUTH_TIMEOUT (R286): the fourth in a row quarantines. -/
def execAuthTimeout (l : Nat) (s : State) : Out :=
  let x := s.link l
  if !s.linkLive l || s.lkState l ≠ lkAUTH || x.turnAt = 0 || s.ns < x.turnAt - 1 + 2000000000 then .next s
  else
    let n := x.authTimeouts + 1
    let s := (s.setLink l { x with authTimeouts := if 4 ≤ n then 0 else n }).noteEvent l ctAUTH_TIMEOUT
    .next (if 4 ≤ n then s.quarantine l ctAUTH_TIMEOUT 0 else s.toLight l 0)

/-! Flits (R280 to R283, R289). -/

/-- Flits of a message that is given up leave the receive buffer, and the violation is counted (R282, R283). -/
def State.badMessage (s : State) (l cls n : Nat) : State := (s.oweCredits l cls n).violation l

/-- A message has come whole (R283, R289): kept for the unit, or the step of the authentication, that takes it; one of a KIND that its
class does not carry, or whose data do not fit its header, is a violation. -/
def State.wholeMessage (s : State) (l cls : Nat) (p : RxPart) : State :=
  let hdr := BitVec.ofNat 256 (leNat (p.bytes.take 32))
  let data := p.bytes.drop 32
  let kind := mhKind hdr
  let fits := if cls = 0 then kind == 0x10 || kind == 0x11 else decide (1 ≤ kind) && decide (kind ≤ 3)
  if !messageOk hdr data || !fits then s.badMessage l cls p.flits
  else if cls = 0 && (kind == 0x10) != (s.lkState l == lkAUTH) then s.oweCredits l cls p.flits
  else
    let x := s.link l
    s.setLink l { x with inbox := x.inbox ++ [{ cls := cls, hdr := hdr, data := data, flits := p.flits }] }

/-- A flit joins the message of its class (R283): from FIRST to LAST, with one MSG, never interleaved. -/
def State.joinMessage (s : State) (l cls : Nat) (h : FlitHdr) (body : List Byte) : State :=
  let put (s : State) (p : Option RxPart) : State :=
    s.setLink l { s.link l with rxPart := tset none (s.link l).rxPart cls p }
  let finish (s : State) (p : RxPart) : State := if h.last then (put s none).wholeMessage l cls p else put s (some p)
  let new : RxPart := { msg := h.msg, bytes := body.take h.len, flits := 1 }
  match tget none (s.link l).rxPart cls, h.first with
  | none, true => finish s new
  | none, false => s.badMessage l cls 1
  | some p, true => finish ((put s none).badMessage l cls p.flits) new
  | some p, false =>
    if p.msg = h.msg then finish s { p with bytes := p.bytes ++ body.take h.len, flits := p.flits + 1 }
    else (put s none).badMessage l cls (p.flits + 1)

/-- A DATA or CONTROL flit in its order (R281, R282): it takes a place of its class in the receive buffer; one sent without credit, or
whose header breaks R280, is a violation. -/
def State.storeFlit (s : State) (l : Nat) (h : FlitHdr) (body : List Byte) : State :=
  let x := s.link l
  let s := s.setLink l { x with rxSeq := (x.rxSeq + 1) % 2 ^ 16 }
  if (if h.kind = 1 then h.hops = 0 || 8 < h.hops else h.hops ≠ 0) || 224 < h.len || s.classCredit l h.hops ≤ tget 0 x.rxUsed h.hops then
    s.violation l
  else
    (s.setLink l { s.link l with rxUsed := tset 0 x.rxUsed h.hops (tget 0 x.rxUsed h.hops + 1) }).joinMessage l h.hops h body

/-- A flit whose checks are good (R281, R289). In AUTHENTICATING only CONTROL flits are accepted, and a DATA flit is a violation. A
flit after one that is missing is dropped and the missing one asked for; an IDLE or RETRY_REQ flit of the expected SEQ shows that
none is missing (DEDUCED, log entry 174). -/
def State.goodFlit (s : State) (l : Nat) (h : FlitHdr) (body : List Byte) : State :=
  let x := s.link l
  let d := (h.seq + 2 ^ 16 - x.rxSeq) % 2 ^ 16
  if 4 ≤ h.kind || (s.lkState l == lkAUTH && h.kind == 1) then s.violation l
  else if s.lkState l == lkAUTH && h.kind != 2 then s
  else if 32768 ≤ d then s.violation l
  else if d ≠ 0 then s.askRetry l []
  else
    let s := s.setLink l { x with dropping := false }
    let s := (s.takeCredits l h.crData h.crCtrl).takeAck l h.ack
    match h.kind with
    | 0 => s
    | 3 => s.setLink l { s.link l with asked := some h.ack }
    | _ => s.storeFlit l h body

/-- FLIT_RECEIVE (R280 to R283, R287 to R290): a flit is checked for CRC and, from the partner's CONFIRM on, for its tag. -/
def execFlitReceive (l : Nat) (f : Flit) (s : State) : Out :=
  if !s.linkLive l || f.bytes.length ≠ 256 || !(s.linkUp l || s.lkState l == lkAUTH) then .next s
  else
    let x := s.link l
    let h := flitHdr f.bytes
    let slot := x.rxSlot + f.gap
    let keyed := x.rxKeyed || (x.authStep == 3 && h.kind == 2)
    let key := keyAt x.rxKey x.rxEpoch (slot / 2 ^ 31)
    if !flitCrcOk f.bytes then
      .next ((if x.rxKeyed then s.setLink l { x with rxSlot := slot + 1 } else s).askRetry l [])
    else if keyed && !flitTagOk key slot f.bytes then
      .next ((if x.rxKeyed then s.setLink l { x with rxSlot := slot + 1 } else s).askRetry l [ctTAG])
    else if keyed then
      .next ((s.setLink l { x with rxKeyed := true, rxSlot := slot + 1, rxKey := key
                                   rxEpoch := max x.rxEpoch (slot / 2 ^ 31) }).goodFlit l h (flitBody (some key) slot f.bytes))
    else .next (s.goodFlit l h (flitBody none 0 f.bytes))

/-- RETRY_REQ (R281): the sender resends in order from the SEQ that the received flit named. -/
def execRetryReq (l ack : Nat) (s : State) : Out :=
  let x := s.link l
  if !s.linkLive l || !s.linkUp l || x.asked ≠ some (ack % 2 ^ 16) then .next s
  else .next (x.retry.foldl (fun (s : State) q => s.emitFlit l q) (s.setLink l { x with asked := none }))

/-- IDLE_ACK_TIMER (R281, R292): a link that has sent nothing for 1 µs sends an IDLE flit; so does one that is QUARANTINED, or
authenticating. -/
def execIdleAckTimer (l : Nat) (s : State) : Out :=
  let x := s.link l
  if !s.linkLive l || !(s.linkUp l || s.lkState l == lkAUTH || s.lkState l == lkQUARANTINED) || s.ns < x.sentAt + 1000 then .next s
  else .next (s.emitBare l 0)

/-- ACK_TIMEOUT (R290). -/
def execAckTimeout (l : Nat) (s : State) : Out :=
  let x := s.link l
  if !s.linkLive l || !s.linkUp l || x.retry.isEmpty || s.ns < x.ackAt + 1000000 then .next s
  else .next (s.countEvent l ctACK)

/-- CREDIT_STALL (R290): each episode of a class is counted once. -/
def execCreditStall (l : Nat) (s : State) : Out :=
  let x := s.link l
  let late (h : Nat) : Bool := match tget 0 x.stallAt h with
    | 0 => false
    | t + 1 => decide (t + s.o kOP_STALL_US * 1000 < s.ns) && !x.stallHit.contains h
  let hs := ((upto 8).map (· + 1)).filter late
  if !s.linkLive l || !s.linkUp l then .next s
  else .next ((s.setLink l { x with stallHit := x.stallHit ++ hs }).countEvents l (hs.map (fun _ => ctSTALL)))

/-- LANE_LOCK_LOSS (R290): the link retrains at the largest power of two of its working lanes, or falls to LIGHT below a
quarter of its split width. -/
def execLaneLockLoss (l working : Nat) (s : State) : Out :=
  if !s.linkLive l || !s.linkUp l then .next s
  else
    let s := s.noteEvent l ctNARROW
    let s := s.setLink l { s.link l with lastHit := s.stroke }
    if working * 4 < s.linkWidth l then .next (s.toLight l 0)
    else
      let w := 2 ^ Nat.log2 working
      .next ((s.setLink l { s.link l with narrow := if w < s.linkWidth l then w else 0 }).train l)

/-! Routes (R294). -/

/-- ROUTE_ADVERTISEMENT (R294): of a message that has come whole, destinations of at most 8 hops are kept at the advertised cost plus
the link's; others are no longer reached over the link. -/
def execRouteAdvertisement (l : Nat) (adv : List RouteAdv) (s : State) : Out :=
  match (if s.linkLive l && s.linkUp l then s.takeControl l 0x11 (advertData adv) else none) with
  | none => .next s
  | some s => .next (adv.foldl (fun s a =>
    let cost := a.cost + s.linkCost l
    if a.node = ownNode || a.node = s.o (kOP_PEER_NODE l) then s
    else if 8 < a.hops + 1 || 0xFFFF ≤ cost then s.dropVias (fun n v => n == a.node && v.link == l)
    else s.addVia a.node { link := l, cost := cost, hops := a.hops + 1, seen := some s.stroke }) s)

/-- What a link advertises (R294): the whole table, what it taught as unreachable, and withdrawn destinations that have not been
learnt again. -/
def State.advert (s : State) (l : Nat) : List RouteAdv :=
  let gone (n : Nat) : RouteAdv := { node := n, cost := 0xFFFF, hops := 0xFF }
  s.op.routes.map (fun r =>
    match r.vias.filter (fun v => r.hops.contains v.link) with
    | v :: vs =>
      if (v :: vs).any (fun x => x.link == l) then gone r.node
      else { node := r.node, cost := v.cost, hops := vs.foldl (fun m x => min m x.hops) v.hops }
    | [] => gone r.node)
    ++ ((s.op.withdrawn.filter (fun n => !s.op.routes.any (fun r => r.node == n))).map gone)

/-- The advertisement goes in CONTROL messages of at most 65,536 B (R283). -/
def State.sendAdvert (s : State) (l : Nat) (adv : List RouteAdv) : State :=
  (upto ((adv.length + 5460) / 5461)).foldl (fun (s : State) i =>
    s.sendControl l 0x11 (advertData ((adv.drop (5461 * i)).take 5461))) s

/-- Links advertise every 100 strokes, and after a change (R294). -/
def State.advertise (s : State) : State :=
  if !s.op.changed && s.stroke < s.op.advAt + 100 then s
  else
    let t := (upto 64).foldl (fun (s' : State) l =>
      if s.linkLive l && s.linkUp l then s'.sendAdvert l (s.advert l) else s') s
    { t with op := { t.op with changed := false, withdrawn := [], advAt := s.stroke } }

/-- ROUTE_ADVERT_TIMER (R294). -/
def execRouteAdvertTimer (s : State) : Out := .next s.advertise

/-- A next hop without an advertisement for 400 strokes goes (R294). -/
def State.expireVia (s : State) (node l : Nat) : State :=
  s.dropVias (fun n v => n == node && v.link == l &&
    (match v.seen with | some t => decide (t + 400 ≤ s.stroke) | none => false))

/-- ROUTE_EXPIRY (R294). -/
def execRouteExpiry (node l : Nat) (s : State) : Out := .next (s.expireVia node l)

/-- FLOW_HOLD_EXPIRY (R295): the flow named by its SRC, DST, KIND and FLOW has been held for 1 ms. -/
def execFlowHoldExpiry (flow : Nat) (s : State) : Out :=
  match s.op.flows.find? (fun f => f.key == flow) with
  | none => .next s
  | some f => if s.ns < f.heldAt + 1000000 then .next s else .next (s.releaseFlow f)

/-! Recovery and keys (R288, R291, R292). -/

/-- A DEGRADED link recovers 10,000 strokes after its latest threshold (R291). -/
def State.recover (s : State) (l : Nat) : State :=
  let x := s.link l
  if !s.linkLive l || s.lkState l ≠ lkDEGRADED || x.narrow ≠ 0 || s.stroke < max x.lastHit x.sinceStroke + 10000 then s
  else
    let cost := s.linkCost l
    let node := s.o (kOP_PEER_NODE l)
    let s := s.setRoutes (s.op.routes.map (fun r => { r with vias := r.vias.map (fun v =>
      if v.link = l then { v with cost := v.cost - (cost - cost / 4) } else v) })) []
    let s := ((s.setLink l { x with limited := false }).returnCredits l).linkTo l lkACTIVE
    if tget 0 s.op.activeAt node = 0 then
      { s with op := { s.op with activeAt := tset 0 s.op.activeAt node (s.stroke + 1) } }
    else s

/-- DEGRADED_RECOVERY (R291). -/
def execDegradedRecovery (l : Nat) (s : State) : Out := .next (s.recover l)

/-- A link's quarantine ends (R292). -/
def State.endQuarantine (s : State) (l : Nat) : State :=
  if !s.linkLive l || s.lkState l ≠ lkQUARANTINED || s.stroke < (s.link l).quarEnd then s else s.toLight l 0

/-- QUARANTINE_HOLD_END (R292). -/
def execQuarantineHoldEnd (l : Nat) (s : State) : Out := .next (s.endQuarantine l)

/-- KEY_EPOCH_SWITCH (R288): 2^31 flit slots of the link's rate have passed since the epoch began; the next key of the sending
direction derives from the current one. That of the receiving direction follows with its own slots. -/
def execKeyEpochSwitch (l : Nat) (s : State) : Out :=
  let e := s.o (kOP_KEY_EPOCH l)
  let x := s.link l
  if !s.linkLive l || !s.linkUp l || max x.txSlot (s.slotsGone l) < 2 ^ 31 * (e + 1) then .next s
  else .next ((s.setLink l { x with txKey := nextKey x.txKey (e + 1) }).setO (kOP_KEY_EPOCH l) ((e + 1) % 2 ^ 32))

/-- SLOT_ALIGNMENT_LOSS (R288). -/
def execSlotAlignmentLoss (l : Nat) (s : State) : Out :=
  if !s.linkLive l || !(s.linkUp l || s.lkState l == lkAUTH) then .next s else .next (s.train l)

/-! Control (R292, R293, R456, R457). -/

/-- OP_LINK_CONTROL ENABLE. -/
def State.linkEnable (s : State) (l : Nat) : State × Nat :=
  let x := s.link l
  if x.downAt ≠ 0 then (s.pendEnable 3 l, 0)
  else (s.setLink l { x with disabled := false }, 0)

/-- OP_LINK_CONTROL DISABLE: a shut-down begins, or a pending enable is removed. -/
def State.linkDisable (s : State) (l : Nat) : State × Nat :=
  let x := s.link l
  if x.downAt ≠ 0 then (s.dropPending 3 l, 0)
  else if x.disabled then (s, 0)
  else (s.setLink l { x with disabled := true, downAt := s.ns + 1 }, 0)

def State.linkRetrain (s : State) (l : Nat) : State × Nat :=
  (if s.linkLive l && s.linkUp l then (s.setLink l { s.link l with narrow := 0 }).train l else s, 0)

def State.linkRelease (s : State) (l : Nat) : State × Nat :=
  if !s.linkLive l || s.lkState l ≠ lkQUARANTINED then (s, 0)
  else
    let x := s.link l
    let s := { s with op := { s.op with doubling := terase s.op.doubling x.node } }
    ((s.setLink l { x with doubling := 0 }).toLight l 0, 0)

/-- LINK_SHUTDOWN_END (R285, R455, R456): the link is ABSENT and dark; a pending enable is carried out. -/
def execLinkShutdownEnd (l : Nat) (s : State) : Out :=
  if 64 ≤ l || (s.link l).downAt = 0 then .next s
  else
    let s := (s.setLink l { s.link l with downAt := 0 }).toAbsent l
    let s := s.emitLink (.dark l)
    if s.pend.any (fun e => e.kind == 3 && e.inst == l) then
      .next ((s.dropPending 3 l).linkEnable l).1
    else .next s

end Sys2Proof.Machine
end

