-- ==== Sys2Proof/Machine/Vector.lean ====
section
/-! DEFINITION. The vector engine and the deck mover (R91 to R121). -/

namespace Sys2Proof.Machine

open Sys2Proof

/-- Format of the lanes. -/
def laneFmt (w : Nat) : Fmt := if w = 0 then fmt32 else fmt16

/-- Operands that a stage operation reads (R100). -/
def sopArgs (op : Nat) : List Nat :=
  if op = 1 || op = 2 || op = 3 || op = 5 || op = 6 || op = 0x0A then [0, 1]
  else if op = 4 || op = 9 then [0, 1, 2]
  else if op = 7 || op = 8 || (0x0B ≤ op && op ≤ 0x0F) then [0]
  else []

/-- A data span of a source in the cache is aligned and inside it (R96, R118). -/
def srcSpanBad (d : BitVec 1536) (k n : Nat) : Bool :=
  let f := vdSrc d k
  if f = 0 || 5 ≤ f then false
  else
    (f == 1 && vdAddr d k % 4 != 0) || (f == 2 && vdAddr d k % 2 != 0)
      || !inCache (vdAddr d k + fmtBytes (srcFmt f) n)
      || (decide (3 ≤ f) && !inCache (vdSc d k + (n + 31) / 32))

/-- The destination span is aligned and inside the cache (R96, R118). -/
def dstSpanBad (d : BitVec 1536) : Bool :=
  match vdDstFmt d with
  | none => false
  | some (f, n) =>
    (f == 0 && vdDst d % 4 != 0) || (f == 1 && vdDst d % 2 != 0)
      || !inCache (vdDst d + fmtBytes f n) || (isBead f && !inCache (vdDstSc d + n / 32))

/-- Refusals of one stage of a CHAIN (R99, R100, R106, R118); `keep` says that an earlier stage had KEEP. CVT and RED take P,
which stage 0 does not have: there they are refused as NOP is (DEDUCED, log entry 34). -/
def stageBad (d : BitVec 1536) (k : Nat) (keep : Bool) : Bool :=
  let t := vdStage d k
  let op := sgSop t
  let last := decide (k + 1 = vdStages d)
  let args := (sopArgs op).map (sgSel t)
  decide (0x12 < op)
    || (decide (k = 0) && (op == 0 || op == 0x10 || op == 0x12))
    || args.any (fun a => (a == 3 && decide (k = 0)) || (a == 4 && !keep) || (decide (a < 3) && vdSrc d a == 0))
    || ((op == 0x10 || op == 0x12) && !last)
    || (op == 0x10 && decide (cwSrc (sgCcw t) < 4) && cwSrc (sgCcw t) != vdWidth d)
    || (op == 0x12 && (sgRed t == 7 || (decide (1 ≤ sgSeg t) && decide (sgSeg t ≤ 4)) || sgSeg t == 15
        || (sgSeg t == 0 && vdDstEn d)
        || (sgSeg t != 0 && (!vdDstEn d || vdCount d % 2 ^ sgSeg t != 0))))

/-- Some earlier stage has KEEP. -/
def keptBefore (d : BitVec 1536) (k : Nat) : Bool := (upto k).any (fun j => sgKeep (vdStage d j))

/-- Statuses of a CHAIN's checks (R118). DST_TS is in use when a CVT without a slot writes a bead or an HB16 destination;
without DST_EN it is not checked (DEDUCED, log entry 28). -/
def chainChecks (d : BitVec 1536) : List (Bool × Nat) :=
  let n := vdCount d
  let l := vdLast d
  let cvt := sgSop l = 0x10
  let ks := upto (min 8 (vdStages d))
  [ (decide (n < 1) || decide (16384 < n) || decide (vdStages d < 1) || decide (8 < vdStages d), stDESC_INVALID),
    ((upto 3).any (fun k => vdSrc d k == 7), stDESC_INVALID),
    (ks.any (fun k => stageBad d k (keptBefore d k)), stDESC_INVALID),
    ((upto 3).any (fun k => decide (5 ≤ vdSrc d k) && decide (4096 < n)), stDESC_INVALID),
    ((upto 3).any (fun k => srcSpanBad d k n) || dstSpanBad d, stDESC_INVALID),
    (ks.any (fun k => sgSop (vdStage d k) == 0x10 && !cwOk (sgCcw (vdStage d k))), stFORMAT_INVALID),
    ((upto 3).any (fun k => (vdSrc d k == 3 || vdSrc d k == 4) && !scaleOk (vdTs d k)), stSCALE_INVALID),
    (cvt && vdDstEn d && cwDst (sgCcw l) != 0 && !cwSlotEn (sgCcw l) && !scaleOk (vdDstTs d), stSCALE_INVALID) ]

/-- Elements that a cross-lane operation may read of a source (R109): half of COUNT for PACK. -/
def crossReads (d : BitVec 1536) : Nat := if vdOp d = 4 then vdCount d / 2 else vdCount d

/-- Statuses of a cross-lane operation's checks (R109, R110, R118). -/
def crossChecks (d : BitVec 1536) : List (Bool × Nat) :=
  let n := vdCount d
  let t := vdStage d 0
  let f := vdSrc d 0
  [ (decide (n < 1) || decide (16384 < n), stDESC_INVALID),
    ((upto 3).any (fun k => vdSrc d k == 7 || vdSrc d k == 3 || vdSrc d k == 4), stDESC_INVALID),
    ((upto 3).any (fun k => decide (5 ≤ vdSrc d k) && decide (4096 < n)), stDESC_INVALID),
    (vdStages d != 1 || sgSop t != 0, stDESC_INVALID),
    (f != 1 && f != 2, stDESC_INVALID),
    (vdOp d == 2 && vdSrc d 1 != 1, stDESC_INVALID),
    (vdOp d == 3 && (decide (3 < sgCond t) || (sgCond t == 3 && n != 4096)), stDESC_INVALID),
    (vdOp d == 4 && (n % 2 != 0 || vdSrc d 1 != f), stDESC_INVALID),
    (vdOp d == 5 && n % 2 != 0, stDESC_INVALID),
    (srcSpanBad d 0 (crossReads d) || dstSpanBad d, stDESC_INVALID),
    ((vdOp d == 2 || vdOp d == 4) && srcSpanBad d 1 (crossReads d), stDESC_INVALID) ]

/-- A field that R118 refuses out of range in every descriptor: COUNT, STAGES, a source kind. -/
def headBad (d : BitVec 1536) : Bool :=
  decide (vdCount d < 1) || decide (16384 < vdCount d) || decide (vdStages d < 1) || decide (8 < vdStages d)
    || (upto 3).any (fun k => vdSrc d k == 7)

/-- Statuses of a deck move's checks (R96, R113, R118). -/
def State.moveChecks (s : State) (p : Nat) (d : BitVec 1536) : List (Bool × Nat) :=
  let n := vdBytes d
  let ca := if vdOp d = 9 then vdDst d else vdAddr d 0
  [ (headBad d, stDESC_INVALID),
    (n % 64 != 0 || decide (n < 64) || decide (cacheBytes < n), stDESC_INVALID),
    (vdDeck d % 64 != 0, stDESC_INVALID),
    (!inCache (ca + n), stDESC_INVALID),
    ((s.udPhys p (vdDeck d) n (vdOp d == 10)).isNone, stDECK_RANGE) ]

/-- Status of a vector descriptor's acceptance (R118). -/
def State.vecCheck (s : State) (p : Nat) (d : BitVec 1536) : Nat :=
  let op := vdOp d
  if op = 1 then lowest (chainChecks d)
  else if 2 ≤ op && op ≤ 7 then lowest (crossChecks d)
  else if op = 8 then lowest [(headBad d, stDESC_INVALID), (vdAddr d 0 % 4 != 0, stDESC_INVALID), (!inCache (vdAddr d 0 + 1036), stDESC_INVALID)]
  else if op = 9 || op = 10 then lowest (s.moveChecks p d)
  else stDESC_INVALID

/-- Does stage `k` take a scalar register for operand `j`: by selector 5, as a RAND input, or as SHUFFLE's k (R99, R105,
R109)? -/
def regUsed (d : BitVec 1536) (k j : Nat) : Bool :=
  let t := vdStage d k
  if vdOp d = 1 then sgSop t == 0x11 || ((sopArgs (sgSop t)).contains j && sgSel t j == 5)
  else vdOp d == 3 && k == 0 && j == 0

/-- Scalar registers that a descriptor names, with their values (R99, R105, R109). -/
def vdRegs (r : Rod) (d : BitVec 1536) : List (Nat × BitVec 64) :=
  let ns := (upto (min 8 (vdStages d))).flatMap (fun k => ((upto 3).filter (regUsed d k)).map (fun j => sgSreg (vdStage d k) j))
  ns.eraseDups.map (fun n => (n, tget 0 r.sregs n))

/-- Scalar register that an operation will write (R106, R110). -/
def vdWritesReg (d : BitVec 1536) : Option Nat :=
  if vdOp d = 1 && sgSop (vdLast d) = 0x12 && sgSeg (vdLast d) = 0 then some (sgRsreg (vdLast d))
  else if vdOp d = 6 then some (sgRsreg (vdStage d 0)) else none

/-- An outstanding chain will write a scalar register that the descriptor reads: issue stalls until it completes
(R99, R106). -/
def Rod.regStall (r : Rod) (d : BitVec 1536) : Bool :=
  let pend := (r.vq.filterMap (fun e => vdWritesReg e.desc)) ++
    (match r.vrun with | some v => (vdWritesReg v.op.desc).toList | none => [])
  (vdRegs r d).any (fun x => pend.contains x.1)

/-- Accept a vector descriptor into the queue of four (R116, R118). -/
def State.vecIssue (s : State) (rod : Nat) (desc : BitVec 1536) (draw : DrawDecl) : State :=
  let r := s.rod rod
  if !s.issues rod || 4 ≤ r.vq.length || r.regStall desc then s
  else
    let st := s.vecCheck (s.owner rod) desc
    if st ≠ 0 then s.failRod rod st
    else
      let e : VecOp := { seq := r.issue, desc := desc, draw := draw, accepted := s.cycle, regs := vdRegs r desc }
      s.setRod rod { r with vq := r.vq ++ [e], issue := r.issue + 1 }

/-- Accept a deck move into the queue of eight (R113). -/
def State.moveIssue (s : State) (rod : Nat) (desc : BitVec 1536) : State :=
  let r := s.rod rod
  let p := s.owner rod
  if !s.issues rod || 8 ≤ r.dq.length then s
  else
    let st := s.vecCheck p desc
    if st ≠ 0 then s.failRod rod st
    else
      let e : DeckMove := { seq := r.issue, desc := desc, accepted := s.cycle, going := false, req := [], lost := false }
      (s.setRod rod { r with dq := r.dq ++ [e], issue := r.issue + 1 }).settleRod rod

def noDraw : DrawDecl := { stream := 0, layer := 0, base := 0, row := 0 }

/-- CHAIN (R95, R118); a descriptor whose OP is invalid is refused by the push of it (R118). -/
def execChain (rod : Nat) (desc : BitVec 1536) (draw : DrawDecl) (s : State) : Out :=
  if 2 ≤ vdOp desc && vdOp desc ≤ 10 then .next s else .next (s.vecIssue rod desc draw)

/-- PERMUTE (R109). -/
def execPermute (rod : Nat) (desc : BitVec 1536) (s : State) : Out :=
  if vdOp desc = 2 then .next (s.vecIssue rod desc noDraw) else .next s

/-- SHUFFLE (R109). -/
def execShuffle (rod : Nat) (desc : BitVec 1536) (s : State) : Out :=
  if vdOp desc = 3 then .next (s.vecIssue rod desc noDraw) else .next s

/-- PACK (R109). -/
def execPack (rod : Nat) (desc : BitVec 1536) (s : State) : Out :=
  if vdOp desc = 4 then .next (s.vecIssue rod desc noDraw) else .next s

/-- UNPACK (R109). -/
def execUnpack (rod : Nat) (desc : BitVec 1536) (s : State) : Out :=
  if vdOp desc = 5 then .next (s.vecIssue rod desc noDraw) else .next s

/-- COMPRESS (R110). -/
def execCompress (rod : Nat) (desc : BitVec 1536) (s : State) : Out :=
  if vdOp desc = 6 then .next (s.vecIssue rod desc noDraw) else .next s

/-- EXPAND (R110). -/
def execExpand (rod : Nat) (desc : BitVec 1536) (s : State) : Out :=
  if vdOp desc = 7 then .next (s.vecIssue rod desc noDraw) else .next s

/-- TLOAD (R104). -/
def execTload (rod : Nat) (desc : BitVec 1536) (s : State) : Out :=
  if vdOp desc = 8 then .next (s.vecIssue rod desc noDraw) else .next s

/-- FILL (R113). -/
def execFill (rod : Nat) (desc : BitVec 1536) (s : State) : Out :=
  if vdOp desc = 9 then .next (s.moveIssue rod desc) else .next s

/-- SPILL (R113). -/
def execSpill (rod : Nat) (desc : BitVec 1536) (s : State) : Out :=
  if vdOp desc = 10 then .next (s.moveIssue rod desc) else .next s

/-! Lane arithmetic (R97 to R105). Values are bit patterns of the lane format. -/

/-- Widen HB16 to F32 exactly, a signalling NaN staying one (R57, R97). -/
def widen16 (x : Nat) : Nat :=
  match fmt16.decode x with
  | .nan s => if s then 0x7FA00000 else 0x7FC00000
  | .inf s => fmt32.infBits s
  | .fin s m e => (fmt32.finish false s (Mag.dyadic m e) .rne).1

/-- An F32 value enters lanes of a width (R97). -/
def toLane (w : Nat) (sat : Bool) (x : Nat) : Nat × Nsw :=
  if w = 0 then (x, 0)
  else match fmt32.decode x with
    | .nan s => (fmt16.nanBits, (FVal.nan s).flags)
    | .inf s => (fmt16.infBits s, nsNonfiniteIn)
    | .fin s m e => fmt16.finish sat s (Mag.dyadic m e) .rne

/-- Lane value as F32 bits, exactly. -/
def laneTo32 (w x : Nat) : Nat := if w = 0 then x else widen16 x

/-- Element `i` of source `k` as it enters the lanes (R97). -/
def srcElem (r : Rod) (d : BitVec 1536) (k i : Nat) : Nat × Nsw :=
  let w := vdWidth d
  match vdSrc d k with
  | 1 => toLane w (vdSat d) (leNat (mread r.cache (vdAddr d k + 4 * i) 4))
  | 2 =>
    let x := leNat (mread r.cache (vdAddr d k + 2 * i) 2)
    (if w = 0 then widen16 x else x, 0)
  | 3 =>
    let y := decodeBead bd8 (vdTs d k) (mget r.cache (vdSc d k + i / 32)).toNat (mget r.cache (vdAddr d k + i)).toNat
    let z := toLane w (vdSat d) y.1.toNat
    (z.1, y.2 ||| z.2)
  | 4 =>
    let b := (mget r.cache (vdAddr d k + i / 2)).toNat
    let y := decodeBead bd4 (vdTs d k) (mget r.cache (vdSc d k + i / 32)).toNat (if i % 2 = 0 then b % 16 else b / 16)
    let z := toLane w (vdSat d) y.1.toNat
    (z.1, y.2 ||| z.2)
  | 5 => toLane w (vdSat d) (tget (0 : F32) r.banks i).toNat
  | 6 => toLane w (vdSat d) (tget (0 : F32) r.banks (4096 + i)).toNat
  | _ => (0, 0)

/-- A value with every NaN made canonical (R57). -/
def canonNan (f : Fmt) (x : Nat) : Nat := if (f.decode x).isNan then f.nanBits else x

/-- Sign of a value flipped or cleared. -/
def negBits (f : Fmt) (x : Nat) : Nat := if x.testBit (f.eb + f.mb) then x - f.signBit true else x + f.signBit true
def absBits (f : Fmt) (x : Nat) : Nat := x % 2 ^ (f.eb + f.mb)

/-- CMP of R102. -/
def cmpHolds (f : Fmt) (cond x y : Nat) : Bool :=
  let a := f.decode x
  let b := f.decode y
  let un := a.isNan || b.isNan
  match cond with
  | 0 => a.cmpEq b
  | 1 => !a.cmpEq b
  | 2 => a.cmpLt b
  | 3 => a.cmpLt b || a.cmpEq b
  | 4 => b.cmpLt a
  | 5 => b.cmpLt a || a.cmpEq b
  | 6 => un
  | _ => !un

/-- Infinity from an infinite result of a function stage, under SAT (R95, R101). -/
def specInf (f : Fmt) (sat neg : Bool) (fl : Nsw) : Nat × Nsw :=
  if sat then (f.maxBits neg, nsOverflowSat) else (f.infBits neg, fl)

/-- Factors `2 ^ (1 / 2 ^ i)` for the binary digits of a fraction `x / 2 ^ 96`, from the highest digit, multiplied: fixed point
with 128 fraction bits. -/
def exp2Digits (x : Nat) : Nat → Nat → Nat → Nat
  | 0, _, acc => acc
  | n + 1, f, acc =>
    let f := isqrt (f * 2 ^ 128)
    exp2Digits x n f (if x.testBit n then acc * f / 2 ^ 128 else acc)

/-- `2 ^ v` for a signed dyadic `v`: an approximation, and whether it is exact (`v` is an integer). -/
def exp2Mag (neg : Bool) (m : Nat) (e : Int) : Mag × Bool :=
  let p := pow2 (e + 96)
  let x : Nat := m * p.1 / p.2
  let whole : Bool := decide (m * (pow2 e).1 % (pow2 e).2 = 0)
  -- for a negative value, the digits of 1 minus its fraction
  let i : Nat := x / 2 ^ 96
  let g : Nat := x % 2 ^ 96
  let k : Int := if !neg then i else if whole then -i else -i - 1
  let d : Nat := if !neg then g else if whole then 0 else 2 ^ 96 - 1 - g
  if k < -300 then (Mag.dyadic 1 (-300), false)
  else (Mag.dyadic (exp2Digits d 96 (2 ^ 129) (2 ^ 128)) (k - 128), whole)

/-- Binary digits of the logarithm of `y / 2 ^ 192` in [1, 2), by squaring. -/
def log2Digits : Nat → Nat → Nat → Nat
  | 0, _, acc => acc
  | n + 1, y, acc =>
    let y := y * y / 2 ^ 192
    if 2 ^ 193 ≤ y then log2Digits n (y / 2) (2 * acc + 1) else log2Digits n y (2 * acc)

/-- `log2 (m 2 ^ e)`, `m` positive: sign, an approximation of the magnitude, and whether it is exact (`m` a power of two). -/
def log2Mag (m : Nat) (e : Int) : Bool × Mag × Bool :=
  let k := Nat.log2 m
  let d := log2Digits 110 (m * 2 ^ 192 / 2 ^ k) 0
  let v : Int := (e + k) * 2 ^ 110 + d
  (decide (v < 0), Mag.dyadic v.natAbs (-110), decide (m = 2 ^ k))

/-- The function stages: EXP2, LOG2, RCP, RSQRT (R100, R101). Finite results are free within R121 (log entry 6). -/
def funcStage (w : Nat) (sat : Bool) (op x : Nat) : Nat × Nsw :=
  let f := laneFmt w
  let v := f.decode x
  let x32 : F32 := BitVec.ofNat 32 (laneTo32 w x)
  match v with
  | .nan _ => (f.nanBits, v.flags)
  | .inf s =>
    match op with
    | 0x0B => if s then (0, v.flags) else let r := specInf f false false v.flags; (r.1, r.2)
    | 0x0C => if s then (f.nanBits, v.flags ||| nsInvalid ||| nsNonfiniteOut) else (f.infBits false, v.flags)
    | 0x0D => (f.signBit s, v.flags)
    | _ => if s then (f.nanBits, v.flags ||| nsInvalid ||| nsNonfiniteOut) else (0, v.flags)
  | .fin s m e =>
    if m = 0 then
      match op with
      | 0x0B => ((f.finish false false (Mag.dyadic 1 0) .rne).1, 0)
      | 0x0C => specInf f sat true nsNonfiniteOut
      | _ => specInf f sat s nsNonfiniteOut
    else match op with
      | 0x0B =>
        let big := !s && Mag.le (Mag.dyadic (if w = 0 then 128 else 16) 0) (Mag.dyadic m e)
        let y := exp2Mag s m e
        if big then specInf f sat false nsNonfiniteOut
        else nearUnits f sat false y.1 y.2 (if w = 0 then 2 else 1) (Config.exp2 x32).toNat
      | 0x0C =>
        if s then (f.nanBits, nsInvalid ||| nsNonfiniteOut)
        else
          let y := log2Mag m e
          nearUnits f sat y.1 y.2.1 y.2.2 (if w = 0 then 2 else 1) (Config.log2 x32).toNat
      | 0x0D => nearOne f sat s ((Mag.dyadic 1 0).div (Mag.dyadic m e)) (Config.rcp x32).toNat
      | _ =>
        if s then (f.nanBits, nsInvalid ||| nsNonfiniteOut)
        else
          -- (1 / √a) ^ 4 = 1 / a ^ 2
          let p := pow2 (2 * e)
          nearOne f sat false { n := p.2, d := m ^ 2 * p.1 } (Config.rsqrt x32).toNat

/-- LUT of R104, in F32, rounded to the width. -/
def lutStage (r : Rod) (w : Nat) (sat : Bool) (tbl x : Nat) : Nat × Nsw :=
  let ent (i : Nat) : Nat := (tget (0 : F32) r.luts (512 * tbl + i)).toNat
  let t := fmt32.fma sat (laneTo32 w x) (ent 257) (ent 258)
  let tv := fmt32.decode t.1
  -- an entry taken as it stands is an operand: a NaN becomes canonical and sets its flags (R57)
  let whole (x : Nat) : Nat × Nsw :=
    let v := fmt32.decode x
    if v.isNan then (fmt32.nanBits, v.flags) else (x, 0)
  let y : Nat × Nsw :=
    if tv.isNan then (fmt32.nanBits, 0)
    else if !tv.cmpLt (fmt32.decode 0x43800000) then whole (ent 256)
    else if !(FVal.fin false 0 0).cmpLt tv then whole (ent 0)
    else
      let i := (tv.mag.floor 0).1
      let fr := fmt32.addFin false false ((tv.mag.floor 149).1) (-149) true i 0
      let df := fmt32.add sat (ent (i + 1)) (negBits fmt32 (ent i))
      let z := fmt32.fma sat fr.1 df.1 (ent i)
      (z.1, df.2 ||| z.2)
  let z := toLane w sat y.1
  (z.1, t.2 ||| y.2 ||| z.2)

/-- RAND of R105. -/
def randStage (w : Nat) (regs : List (Nat × BitVec 64)) (t : BitVec 128) (i : Nat) : Nat :=
  let g (k : Nat) : Nat := (tget (0 : BitVec 64) regs (sgSreg t k)).toNat
  let dr : Draw := { seed := g 0, stream := nbits (g 1) 32 32, step := nbits (g 1) 0 32, layer := nbits (g 2) 48 16 }
  let u := dr.elem (nbits (g 2) 0 48 + i)
  ((laneFmt w).finish false false (Mag.dyadic u (-16)) .rtz).1

/-- What an element carries through the stages: P, Q, flags, mask bits written (R93, R98). -/
structure Lane where
  p : Nat := 0
  q : Nat := 0
  nsw : Nsw := 0
  mout : List (Nat × Bool) := []
  deriving DecidableEq, Repr

/-- Operand `j` of a stage for element `i` (R99). -/
def laneArg (r : Rod) (o : VecOp) (t : BitVec 128) (i : Nat) (l : Lane) (j : Nat) : Nat × Nsw :=
  let d := o.desc
  let w := vdWidth d
  match sgSel t j with
  | 3 => (l.p, 0)
  | 4 => (l.q, 0)
  | 5 =>
    let v := (tget (0 : BitVec 64) o.regs (sgSreg t j)).toNat
    (if w = 0 then v % 2 ^ 32 else v % 2 ^ 16, 0)
  | 6 => (((laneFmt w).finish false false (Mag.dyadic i 0) .rne).1, 0)
  | 7 => toLane w (vdSat d) (sgImm t).toNat
  | k => srcElem r d k i

/-- One stage of an active element (R100). -/
def laneStage (r : Rod) (o : VecOp) (i : Nat) (l : Lane) (t : BitVec 128) : Lane :=
  let d := o.desc
  let w := vdWidth d
  let f := laneFmt w
  let sat := vdSat d
  let a := if (sopArgs (sgSop t)).contains 0 then laneArg r o t i l 0 else (0, 0)
  let b := if (sopArgs (sgSop t)).contains 1 then laneArg r o t i l 1 else (0, 0)
  let c := if (sopArgs (sgSop t)).contains 2 then laneArg r o t i l 2 else (0, 0)
  let fl := a.2 ||| b.2 ||| c.2
  let one := (f.finish false false (Mag.dyadic 1 0) .rne).1
  let res : Nat × Nsw :=
    match sgSop t with
    | 0x01 => f.add sat a.1 b.1
    | 0x02 => f.add sat a.1 (if (f.decode b.1).isNan then b.1 else negBits f b.1)
    | 0x03 => f.mul sat a.1 b.1
    | 0x04 => f.fma sat a.1 b.1 c.1
    | 0x05 => ((f.maxMin true a.1 b.1).1, 0)
    | 0x06 => ((f.maxMin false a.1 b.1).1, 0)
    | 0x07 => (canonNan f (absBits f a.1), 0)
    | 0x08 => (canonNan f (negBits f a.1), 0)
    | 0x09 => (canonNan f (if (f.decode c.1).cmpEq (.fin false 0 0) then b.1 else a.1), 0)
    | 0x0A => (if cmpHolds f (sgCond t) a.1 b.1 then one else 0, (f.decode a.1).flags ||| (f.decode b.1).flags)
    | 0x0B => funcStage w sat 0x0B a.1
    | 0x0C => funcStage w sat 0x0C a.1
    | 0x0D => funcStage w sat 0x0D a.1
    | 0x0E => funcStage w sat 0x0E a.1
    | 0x0F => lutStage r w sat (sgTbl t) a.1
    | 0x11 => (randStage w o.regs t i, 0)
    | _ => (l.p, 0)
  let mo := if sgSop t = 0x0A && sgMoutEn t then l.mout ++ [(sgMout t, cmpHolds f (sgCond t) a.1 b.1)] else l.mout
  { p := res.1, q := if sgKeep t then res.1 else l.q, nsw := l.nsw ||| fl ||| res.2, mout := mo }

/-- All stages of an element; CVT and RED take P afterwards. -/
def laneRun (r : Rod) (o : VecOp) (i : Nat) : Lane :=
  ((upto (vdStages o.desc)).map (vdStage o.desc)).foldl (laneStage r o i) {}

/-- Is element `i` active (R92)? -/
def elemActive (r : Rod) (d : BitVec 1536) (i : Nat) : Bool :=
  decide (i < vdCount d) && (!vdMaskEn d || (tget (0 : BitVec 16384) r.masks (vdMask d)).toNat.testBit i)

/-! Reductions (R106 to R108). -/

/-- Combine two values of a reduction, in F32. -/
def redCombine (sat : Bool) (red : Nat) (x y : Nat × Nsw) : Nat × Nsw :=
  let z := match red with
    | 0 => fmt32.add sat x.1 y.1
    | 1 => fmt32.mul sat x.1 y.1
    | 2 => ((fmt32.maxMin true x.1 y.1).1, 0)
    | _ => ((fmt32.maxMin false x.1 y.1).1, 0)
  (z.1, x.2 ||| y.2 ||| z.2)

/-- The lane partials combined pairwise, lane 2k with lane 2k + 1 at each level; a lane without an active element leaves
its neighbour's partial as it is. -/
def redPairs (sat : Bool) (red : Nat) : List (Option (Nat × Nsw)) → List (Option (Nat × Nsw))
  | some x :: some y :: t => some (redCombine sat red x y) :: redPairs sat red t
  | some x :: none :: t => some x :: redPairs sat red t
  | none :: y :: t => y :: redPairs sat red t
  | l => l

def redTree (sat : Bool) (red : Nat) : Nat → List (Option (Nat × Nsw)) → Option (Nat × Nsw)
  | 0, l => (l.head?).join
  | n + 1, l => redTree sat red n (redPairs sat red l)

/-- Flags of a reduction's operands (R64, R100): a NaN in every kind, an infinity where it is summed or multiplied. -/
def redFlags (red : Nat) (xs : List (Nat × Nat)) : Nsw :=
  xs.foldl (fun a x =>
    let v := fmt32.decode x.2
    if v.isNan || red < 2 then a ||| v.flags else a) 0

/-- Reduction of the active elements of a segment, given as (index, F32 bits), without its operands' flags; the value and
whether it was empty. -/
def reduceVal (sat : Bool) (w red base : Nat) (xs : List (Nat × Nat)) : Nat × Nsw :=
  if red = 4 then
    ((xs.filter (fun x => !(fmt32.decode x.2).cmpEq (.fin false 0 0))).length, if xs.isEmpty then nsEmptyRed else 0)
  else if red = 5 || red = 6 then
    match xs.find? (fun x => (fmt32.decode x.2).isNan) with
    | some x => (x.1 - base, 0)
    | none =>
      match xs with
      | [] => (0xFFFFFFFF, nsEmptyRed)
      | x :: t =>
        let better (a b : Nat) : Bool :=
          let va := fmt32.decode a
          let vb := fmt32.decode b
          if red = 5 then vb.cmpLt va || (va.cmpEq vb && vb.isNeg && !va.isNeg)
          else va.cmpLt vb || (va.cmpEq vb && va.isNeg && !vb.isNeg)
        ((t.foldl (fun m y => if better y.2 m.2 then y else m) x).1 - base, 0)
  else if xs.isEmpty then
    (match red with | 0 => 0 | 1 => 0x3F800000 | 2 => 0xFF800000 | _ => 0x7F800000, nsEmptyRed)
  else
    let part (l : Nat) : Option (Nat × Nsw) :=
      (xs.filter (fun x => x.1 % lanes w == l)).foldl (fun a x =>
        match a with
        | none => some (x.2, (0 : Nsw))
        | some y => some (redCombine sat red y (x.2, 0))) none
    (redTree sat red 9 ((upto (lanes w)).map part)).getD (0, 0)

/-- A reduction and all that it reports (R64, R100, R106 to R108). -/
def reduceSeg (sat : Bool) (w red base : Nat) (xs : List (Nat × Nat)) : Nat × Nsw :=
  let v := reduceVal sat w red base xs
  (v.1, v.2 ||| redFlags red xs)

/-- Bytes of `n` zero elements of a size. -/
def zeroBytes (n : Nat) : List Byte := List.replicate n 0

/-- Place a list of bytes at an address, as single bytes. -/
def bytesAt (a : Nat) (bs : List Byte) : List (Nat × Byte) := bs.zipIdx.map (fun p => (a + p.2, p.1))

/-- The bytes of an operation's writes, placed in a cache. -/
def putBytes (c : Mem) (ws : List (Nat × Byte)) : Mem := ws.foldl (fun m w => tset 0 m w.1 w.2) c

/-- What a chain has done up to a pass: the cache as the next pass reads it, writes of passes that it does not see yet, all
writes, lane results, measurements of its conversion (R116). -/
structure Passes where
  cache : Mem
  pend : List (List (Nat × Byte))
  outs : List (List (Nat × Byte))
  ls : List (Nat × Option Lane)
  acc : ConvAcc
  deriving DecidableEq, Repr

/-- What one pass writes to the destination, and what its conversion measures (R92 to R103). Lanes beyond COUNT write nothing
(DEDUCED, log entry 35). -/
def State.passWrites (s : State) (p : Nat) (o : VecOp) (ts : F32) (base : Nat) (ls : List (Nat × Option Lane)) :
    List (Nat × Byte) × ConvAcc :=
  let d := o.desc
  let l := vdLast d
  let keep (ws : List (Nat × Byte)) : List (Nat × Byte) := if vdDstEn d then ws else []
  let elems (z : Nat) (es : List (Nat × Option Nat)) : List (Nat × Byte) :=
    es.flatMap (fun x =>
      match x.2 with
      | some y => bytesAt (vdDst d + z * x.1) (leBytes z y)
      | none => if vdZero d then bytesAt (vdDst d + z * x.1) (zeroBytes z) else [])
  if sgSop l = 0x12 then ([], {})
  else if sgSop l = 0x10 then
    let c := sgCcw l
    let rnd (i : Nat) : Rnd := s.convRnd p c 0xF0000101 o.draw (o.draw.base + i)
    let dec (y : Lane) : FVal := (laneFmt (vdWidth d)).decode y.p
    if isBead (cwDst c) then
      let b := if cwDst c = 2 then bd8 else bd4
      let en := encodeRow b ts (fun i => rnd (base + i)) (ls.map (fun x => x.2.map dec))
      (keep (bytesAt (vdDst d + fmtBytes (cwDst c) base) (packCodes b en.2.1)
        ++ bytesAt (vdDstSc d + base / 32) (en.1.map (BitVec.ofNat 8))), en.2.2)
    else
      let fm := if cwDst c = 0 then fmt32 else fmt16
      let div := if cwDst c = 1 then some ts else none
      let es := ls.map (fun x => (x.1, x.2.map (fun y => narrow fm (cwSat c) div (rnd x.1) (dec y))))
      (keep (elems (if cwDst c = 0 then 4 else 2) (es.map (fun x => (x.1, x.2.map (·.1))))),
        es.foldl (fun a x => match x.2 with | some y => a.join y.2 | none => a) {})
  else (keep (elems (if vdWidth d = 0 then 4 else 2) (ls.map (fun x => (x.1, x.2.map (·.p))))), {})

/-- One pass of a chain (R92, R116): with C cycles a pass, pass p reads in cycle 4 + C p and pass q writes in cycle
16 + C (q + 1), so it sees the writes of the passes before p − 1 − 12 / C. -/
def State.chainPass (s : State) (rod : Nat) (o : VecOp) (ts : F32) (a : Passes) (k : Nat) : Passes :=
  let d := o.desc
  let n := lanes (vdWidth d)
  let a := if 12 / vecC d + 1 < a.pend.length then
      { a with cache := putBytes a.cache (a.pend.headD []), pend := a.pend.drop 1 } else a
  let r := { s.rod rod with cache := a.cache }
  let ls := (upto (min n (vdCount d - k * n))).map (fun i =>
    (k * n + i, if elemActive r d (k * n + i) then some (laneRun r o (k * n + i)) else none))
  let w := s.passWrites (s.owner rod) o ts (k * n) ls
  { a with pend := a.pend ++ [w.1], outs := a.outs ++ [w.1], ls := a.ls ++ ls, acc := a.acc.join w.2 }

/-- Mask registers that the CMP stages write (R93, R102): of two that name one register, the later stage's results. -/
def chainMasks (d : BitVec 1536) (ls : List (Nat × Option Lane)) : List (Nat × BitVec 16384) :=
  let mo := ((upto (vdStages d)).map (vdStage d)).filter (fun t => sgSop t == 0x0A && sgMoutEn t)
  mo.map (fun t =>
    (sgMout t, BitVec.ofNat 16384 (maskOf ((ls.filter (fun x =>
      match x.2 with
      | some y => (y.mout.reverse.find? (fun q => q.1 == sgMout t)).any (·.2)
      | none => false)).map (·.1)))))

/-- What a CHAIN writes and reports (R92 to R108, R116); of its passes only the first `limit` write (R119). -/
def State.chainEval (s : State) (rod : Nat) (o : VecOp) (ts : F32) (limit : Nat) : VecRun :=
  let d := o.desc
  let w := vdWidth d
  let n := vdCount d
  let l := vdLast d
  let a := (upto (vecPasses d)).foldl (s.chainPass rod o ts)
    { cache := (s.rod rod).cache, pend := [], outs := [], ls := [], acc := {} }
  let ls := a.ls
  let nsw := ls.foldl (fun a x => match x.2 with | some y => a ||| y.nsw | none => a) a.acc.nsw
  let cvt := sgSop l = 0x10 && cwSlotEn (sgCcw l)
  let base : VecRun := { op := o, start := s.cycle, done := 0, writes := (a.outs.take limit).flatten
                         masks := chainMasks d ls, scalar := none, lut := [], nsw := nsw
                         conv := if cvt then some (cwSlot (sgCcw l), a.acc) else none }
  if sgSop l = 0x12 then
    let xs := ls.filterMap (fun x => x.2.map (fun y => (x.1, laneTo32 w y.p)))
    if sgSeg l = 0 then
      let v := reduceSeg (vdSat d) w (sgRed l) 0 xs
      { base with scalar := some (sgRsreg l, BitVec.ofNat 64 v.1), nsw := nsw ||| v.2 }
    else
      let z := 2 ^ sgSeg l
      let vs := (upto (n / z)).map (fun j =>
        (j, reduceSeg (vdSat d) w (sgRed l) (j * z) (xs.filter (fun x => x.1 / z == j))))
      { base with writes := if limit < vecPasses d then []
                            else vs.flatMap (fun v => bytesAt (vdDst d + 4 * v.1) (leBytes 4 v.2.1))
                  nsw := vs.foldl (fun a v => a ||| v.2.2) nsw }
  else base

/-- Raw element of a cross-lane source (R109). -/
def rawElem (r : Rod) (d : BitVec 1536) (k i : Nat) : Nat :=
  let z := if vdSrc d 0 = 1 then 4 else 2
  leNat (mread r.cache (vdAddr d k + z * i) z)

/-- A cross-lane operation: a status, or what it writes (R109, R110). It reads all of its sources before it writes (DEDUCED,
log entry 36). BCAST with k ≥ COUNT raises IDX_RANGE, as R109 says it, also where the mask leaves no element active (DEDUCED, log
entry 163). -/
def crossEval (r : Rod) (o : VecOp) : Except Nat (List (Nat × Byte) × Option (Nat × BitVec 64) × Nsw) :=
  let d := o.desc
  let n := vdCount d
  let z := if vdSrc d 0 = 1 then 4 else 2
  let t := vdStage d 0
  let act (i : Nat) : Bool := elemActive r d i
  let put (i v : Nat) : List (Nat × Byte) := if vdDstEn d then bytesAt (vdDst d + z * i) (leBytes z v) else []
  let idle (i : Nat) : List (Nat × Byte) := if vdDstEn d && vdZero d then bytesAt (vdDst d + z * i) (zeroBytes z) else []
  let es := upto n
  let gather (g : Nat → Nat) : List (Nat × Byte) :=
    es.flatMap (fun i => if act i then put i (rawElem r d 0 (g i)) else idle i)
  match vdOp d with
  | 2 =>
    let idx (i : Nat) : Nat := leNat (mread r.cache (vdAddr d 1 + 4 * i) 4)
    if es.any (fun i => act i && decide (n ≤ idx i)) then .error stIDX_RANGE else .ok (gather idx, none, 0)
  | 3 =>
    let k := (tget (0 : BitVec 64) o.regs (sgSreg t 0)).toNat
    match sgCond t with
    | 0 => .ok (gather (fun i => n - 1 - i), none, 0)
    | 1 => .ok (gather (fun i => (i + k) % n), none, 0)
    | 2 => if n ≤ k then .error stIDX_RANGE else .ok (gather (fun _ => k), none, 0)
    | _ => .ok (gather (fun i => 64 * (i % 64) + i / 64), none, 0)
  | 4 =>
    .ok ((upto (n / 2)).flatMap (fun i =>
      if act i then put (2 * i) (rawElem r d 0 i) ++ put (2 * i + 1) (rawElem r d 1 i)
      else idle (2 * i) ++ idle (2 * i + 1)), none, 0)
  | 5 =>
    .ok (es.flatMap (fun i =>
      let dst := if i % 2 = 0 then i / 2 else n / 2 + i / 2
      if act i then put dst (rawElem r d 0 i) else idle dst), none, 0)
  | 6 =>
    let on := es.filter act
    .ok (on.zipIdx.flatMap (fun q => put q.2 (rawElem r d 0 q.1)),
      some (sgRsreg t, BitVec.ofNat 64 on.length), if on.isEmpty then nsEmptyRed else 0)
  | _ =>
    let on := es.filter act
    .ok (on.zipIdx.flatMap (fun q => put q.1 (rawElem r d 0 q.2))
      ++ (es.filter (fun i => !act i)).flatMap idle, none, 0)

/-- The vector operation that may start now (R82, R111, R114, R116): the first queued one, 4 cycles in the queue, nothing
running, the previous one over in an earlier cycle, its accumulator banks complete and no wait on cache banks. -/
def State.mayChain (s : State) (rod : Nat) : Option VecOp :=
  let r := s.rod rod
  match r.vq, r.vrun with
  | e :: _, none =>
    if !s.switching rod && e.accepted + 4 ≤ s.cycle && r.vecFrom ≤ s.cycle && !r.clash s.cycle e.seq (vdReads e.desc) (vdWrites e.desc)
        && (setBits (vdAccBanks e.desc) 2).all (fun b => decide (tget 0 r.bankAt b ≤ s.cycle) &&
          !r.mq.any (fun x => decide (x.seq < e.seq) && mdBank x.desc == b && x.phase != .held && x.phase != .reading
            && mdOp x.desc != 2))
    then some e
    else none
  | _, _ => none

/-- A started vector operation: its cycles, its account, and the last read of each accumulator bank (R82, R116, R351). -/
def State.runVec (s : State) (rod : Nat) (v : VecRun) : State :=
  let d := v.op.desc
  let p := s.owner rod
  let r := s.rod rod
  let last := s.cycle + 4 + vecC d * (vecPasses d - 1)
  let reads := (setBits (vdAccBanks d) 2).map (fun b => ({ bank := b, seq := v.op.seq, until_ := last + 1 } : AccRead))
  let r := { r with accReads := r.accReads.filter (fun (x : AccRead) => decide (s.cycle < x.until_)) ++ reads }
  (s.setRod rod { r with vrun := some { v with done := s.cycle + vecCycles d } }).charge p (s.resident p) 2 (vecCycles d)

/-- CHAIN_START (R111, R116, R119): the operation starts; an index out of range, a non-finite SCALE or BIAS, or an
uncorrectable word that it needs ends the command. After an uncorrectable word the passes already written stay; how many is
open (log entry 18). R119 and R32 give ARG0 of the OPC_UNCORR record no value: it is SRC0_ADDR (DESIGN CHOICE, log entry
165). -/
def execChainStart (rod : Nat) (err : ChainErr) (s : State) : Out :=
  let s := s.settleRod rod
  match s.mayChain rod with
  | none => .next s
  | some e =>
    let d := e.desc
    let r := s.rod rod
    let s := s.setRod rod { r with vq := r.vq.drop 1 }
    let p := s.owner rod
    let use := vdOp d = 1 && sgSop (vdLast d) = 0x10 && cwSlotEn (sgCcw (vdLast d))
    let (s, ts) := if use then s.supply p (cwSlot (sgCcw (vdLast d))) else (s, vdDstTs d)
    let idle : VecRun := { op := e, start := s.cycle, done := 0, writes := [], masks := [], scalar := none, lut := []
                           nsw := 0, conv := none }
    let cut (st : Nat) : State :=
      let k := (Config.freeValue s.draws).toNat % vecPasses d
      let ws := if vdOp d = 1 then (s.chainEval rod e ts k).writes
        else if vdOp d = 8 then []
        else match crossEval r e with
          | .ok x => x.1.take (k * lanes (vdWidth d) * (if vdSrc d 0 = 1 then 4 else 2))
          | .error _ => []
      ({ s with draws := s.draws + 1 }.setRod rod { s.rod rod with cache := putBytes r.cache ws }).failRod rod st
    let whole (s : State) : State :=
      if vdOp d = 1 then s.runVec rod (s.chainEval rod e ts (vecPasses d))
      else if vdOp d = 8 then
        let ws := (upto 259).map (fun i => (BitVec.ofNat 32 (leNat (mread r.cache (vdAddr d 0 + 4 * i) 4)) : F32))
        if f32isFin (ws.getD 257 0) && f32isFin (ws.getD 258 0) then
          let tb := 512 * sgTbl (vdStage d 0)
          s.runVec rod { idle with lut := ws.zipIdx.map (fun w => (tb + w.2, w.1)) }
        else s.failRod rod stDESC_INVALID
      else match crossEval r e with
        | .error st => s.failRod rod st
        | .ok x => s.runVec rod { idle with writes := x.1, scalar := x.2.1, nsw := x.2.2 }
    match err with
    | .opc => .next ((cut stOPC_UNCORR).opcError rod (vdAddr d 0))
    | .acc =>
      let s := cut stACC_UNCORR
      let r := (setBits (vdAccBanks d) 2).foldl (fun x b => Rod.zeroBank x b) (s.rod rod)
      .next ((s.setRod rod r).errRec { cls := 2, code := stACC_UNCORR, rod := rod, part := if p < 16 then p else 0xFF })
    | .opcIdle => .next ((whole s).opcError rod (vdAddr d 0))
    | .corrected => .next ((whole s).engineCorrected rod)
    | .none => .next (whole s)

/-- CHAIN_COMPLETE (R66, R93, R116): destination, masks, table and scalar result are in place, the status word is ORed into
the command's, and the slot is recorded. -/
def execChainComplete (rod : Nat) (s : State) : Out :=
  let s := s.settleRod rod
  let r := s.rod rod
  match r.vrun with
  | none => .next s
  | some v =>
    if s.cycle < v.done then .next s
    else
      let p := s.owner rod
      let r := { r.freeCache (s.cycle + 1) with
                        vrun := none
                        vecFrom := s.cycle + 1
                        cache := putBytes r.cache v.writes
                        masks := v.masks.foldl (fun (t : Tab (BitVec 16384)) (m : Nat × BitVec 16384) => tset 0 t m.1 m.2) r.masks
                        luts := v.lut.foldl (fun (t : Tab F32) (w : Nat × F32) => tset 0 t w.1 w.2) r.luts
                        sregs := match v.scalar with | some x => tset 0 r.sregs x.1 x.2 | none => r.sregs }
      let s := (s.setRod rod r).orNsw p v.nsw
      let s := match v.conv with
        | some (n, a) => s.record p n a
        | none => s
      .next (s.settleRod rod)

/-- The VC2 writes of a rod that await their bytes (R28, R164). -/
def State.rodWrites (s : State) (rod : Nat) : List MeshReq :=
  s.mesh.vc2.filter (fun r => !r.written && (match r.writer with | .tally _ _ k => k == rod | _ => false))

/-- A remote SPILL's bytes are in place, and its writes on VC2 are on their way to acknowledgement (R28, R164). -/
def State.spillWritten (s : State) (rod : Nat) : State :=
  ((s.rodWrites rod).filter (fun r => !r.gone)).foldl (fun s r => s.sendAck r.id) s

/-- The bytes of the oldest deck move, begun and not lost, are moved (R113, R147, R165). A FILL stops before an unreadable
word; a packet of a SPILL that the mesh has lost writes nothing (R33). -/
def State.moveAll (s : State) (p rod : Nat) (e : DeckMove) : State :=
  let d := e.desc
  let n := vdBytes d
  match s.udPhys p (vdDeck d) n (vdOp d == 10) with
  | none => s.failRod rod stDECK_RANGE
  | some x =>
    let r := s.rod rod
    if vdOp d = 9 then
      let k := s.decks.readable x n
      let c := mwrite r.cache (vdDst d) (s.decks.udRead x k)
      let s := (s.setRod rod { r with cache := c }).charge p (s.resident p) 3 k
      if k < n then ((s.errRec { uncorrRec p (x + k) with rod := rod }).tableRead x n).failRod rod stDECK_UNCORR else s
    else if !s.ringOk p (vdDeck d) n then s.failRod rod stTY_ORDER
    else
      let lost := ((s.rodWrites rod).filter (·.gone)).map (·.addr)
      let s := ((packets4k n).filter (fun c => !lost.contains (vdDeck d + c.1))).foldl (fun s c =>
        (s.udPut p (vdDeck d + c.1) (mread r.cache (vdAddr d 0 + c.1) c.2)).1) s
      (s.spillWritten rod).charge p (s.resident p) 3 n

/-- A deck move may not end yet: its slice is being zeroed or a row of it copied, or the mesh holds or has lost a packet of it
(R27, R38, R131, R145). -/
def State.moveWaits (s : State) (p rod : Nat) (e : DeckMove) : Bool :=
  s.decks.busy ((s.udPhys p (vdDeck e.desc) (vdBytes e.desc) false).getD (rod * 2 ^ 29)) (vdBytes e.desc)
    || s.mesh.vc0.any (fun q => e.req.contains q.id && (q.gone || q.held)) || (s.rodWrites rod).any (·.held)

/-- DECK_MOVE_COMPLETE (R113, R114, R145): the oldest FILL or SPILL, once begun, has moved its bytes, which waits while a row
of them is being copied; a remote one has had its responses, so its requests end here if no response packet has ended
them. One whose request was lost moves nothing further (R27). -/
def execDeckMoveComplete (rod : Nat) (s : State) : Out :=
  let s := s.settleRod rod
  match (s.rod rod).dq with
  | [] => .next s
  | e :: t =>
    let p := s.owner rod
    if !e.going || (!e.lost && s.moveWaits p rod e) then .next s
    else
      let s := { s with mesh := { s.mesh with vc0 := s.mesh.vc0.filter (fun q => !e.req.contains q.id) } }
      let s := s.setRod rod ({ s.rod rod with dq := t }.freeCache (s.cycle + 1))
      .next ((if e.lost then s else s.moveAll p rod e).settleRod rod)

end Sys2Proof.Machine
end

