-- ==== Sys2Proof/Machine/Tally.lean ====
section
/-! DEFINITION. The tally commands: pairings, records, the loss kernel, rebalancing and harvest (R151 to R192). -/

namespace Sys2Proof.Machine

open Sys2Proof

def State.exists? (s : State) (p : Nat) : Bool := decide (p < 16) && s.o (kPT_STATE p) != 0

/-- The partition is a running server's (R300). -/
def State.inServer (s : State) (p : Nat) : Bool :=
  s.o kSV_STATE != 0 && (s.o kSV_TEACHER == p || s.o kSV_DRAFT == p)

/-- Entries of a partition's slice table that are invalid and not held by a grant (R130). -/
def State.freeEntries (s : State) (p : Nat) : Nat :=
  576 - ((s.part p).slices.filter (fun q => q.1 < 576 && (bit q.2 15 || bit q.2 14))).length

/-- A finite value in a closed range of F32 values. -/
def f32In (x lo hi : F32) : Bool := f32isFin x && f32le lo x && f32le x hi

def f32NonNeg (x : F32) : Bool := f32isFin x && !(f32lt x 0)

/-! Forming and closing. -/

/-- The value checks of FORM (R154). -/
def State.formConfigBad (s : State) (n : Nat) (students : List Nat) : Bool :=
  let t := s.o (kTY_TEACHER n)
  let v := s.o (kTY_VOCAB n)
  let h := s.o (kTY_HIDDEN n)
  let nrec := s.o (kTY_NREC n)
  let ring := s.ringSlices n
  let all := ring ++ s.sharedSlices n
  let rsize := 64 + s.o (kTY_GROUP n) * s.bAll n
  students.isEmpty || decide (4 < students.length) || students.contains t
    || !(v % 2048 == 0 && decide (4096 ≤ v) && decide (v ≤ 524288))
    || (s.tyStream n && !(h % 64 == 0 && decide (1024 ≤ h) && decide (h ≤ 32768)))
    || !(decide (1 ≤ s.o (kTY_GROUP n)) && decide (s.o (kTY_GROUP n) ≤ 1024))
    || !(decide (2 ≤ nrec) && decide (nrec ≤ 4096))
    || !(decide (1 ≤ s.o (kTY_LEAD n)) && decide (s.o (kTY_LEAD n) ≤ nrec / 2))
    || !f32In (BitVec.ofNat 32 (s.o (kTY_TEMP n))) 0x3E800000 0x41800000
    || !f32NonNeg (BitVec.ofNat 32 (s.o (kTY_WEIGHT n)))
    || s.o (kTY_STEP_TOKENS n) == 0
    || (s.features n).any (fun f => !(f.2.1 % 64 == 0 && decide (f.2.1 ≤ 32768)) || !f32NonNeg f.2.2)
    || all.any (fun j => decide (576 ≤ j) || (let e := tget 0 (s.part t).slices j; !bit e 15 || bit e 14))
    || ring.isEmpty || s.o (kTY_RING_OFFSET n) % 64 != 0
    || decide (sliceBytes < s.o (kTY_RING_OFFSET n) + (nrec + ring.length - 1) / ring.length * rsize)
    || students.any (fun q => decide (s.freeEntries q < all.length))

/-- The first check of FORM that fails (R154), 0 if none does. -/
def State.formCheck (s : State) (n : Nat) : Nat :=
  let t := s.o (kTY_TEACHER n)
  let st := setBits (s.o (kTY_STUDENTS n)) 16
  let all := t :: st
  if all.any (fun p => !s.exists? p) then stTY_CONFIG
  else if st.any (fun p => s.o (kPT_TENANT p) != s.o (kPT_TENANT t)) then stTY_TENANT
  else if all.any (fun p => (s.pairOf p).isSome || s.inServer p) then stTY_BUSY
  else if s.formConfigBad n st then stTY_CONFIG
  else 0

/-- Effective distillation settings (R153). -/
def State.latchTy (s : State) (n : Nat) : State :=
  s.setPairing n { s.pairing n with temp := BitVec.ofNat 32 (s.o (kTY_TEMP n))
                                    weight := BitVec.ofNat 32 (s.o (kTY_WEIGHT n))
                                    floor := BitVec.ofNat 32 (s.o (kTY_LOGP_FLOOR n)) }

/-- A pairing forms (R151, R154, R157, R158, R161): indices in ascending partition number, an empty ring, grants. -/
def State.formNow (s : State) (n : Nat) : State × Nat :=
  let st := s.formCheck n
  if st ≠ 0 then (s, st)
  else
    let ps := setBits (s.o (kTY_STUDENTS n)) 16
    let x : Pairing := { students := ps.zipIdx.map (fun q => (q.2, q.1 + 1)), eosAt := s.ns }
    let s := (s.setPairing n x).latchTy n
    let s := (s.setO (kTY_STATE n) tyACTIVE).setO (kTY_RSIZE n) (64 + s.o (kTY_GROUP n) * s.bAll n)
    let s := ((s.setO (kTY_SEQ_PUBLISHED n) 0).setO (kTY_SEQ_RELEASED n) 0).setO (kTY_REBAL_COUNT n) 0
    (ps.zipIdx.foldl (fun s q => s.addGrants n q.2 q.1) s, 0)

/-- TY_CONTROL FORM (R154, R156). -/
def State.tyForm (s : State) (n : Nat) : State × Nat :=
  if s.tyState n = tyFREE then s.formNow n
  else if s.tyState n = tyCLOSING then (s.pendEnable 6 n, 0)
  else (s, stTY_BUSY)

/-- TY_CONTROL CLOSE (R157, R457). -/
def State.tyClose (s : State) (n : Nat) : State × Nat :=
  let st := s.tyState n
  if st = tyFREE then (s, 0)
  else if st = tyCLOSING then (s.dropPending 6 n, 0)
  else if st = tyMOVING then (s.setPairing n { s.pairing n with closeHeld := true }, 0)
  else (s.closeNow n, 0)

/-! Students joining and leaving. -/

/-- The checks of ATTACH (R157). -/
def State.attachCheck (s : State) (n p : Nat) : Nat :=
  let x := s.pairing n
  if s.tyState n ≠ tyACTIVE then stTY_BUSY
  else if !s.exists? p then stTY_CONFIG
  else if s.o (kPT_TENANT p) ≠ s.o (kPT_TENANT (s.o (kTY_TEACHER n))) then stTY_TENANT
  else if (match s.pairOf p with | some m => m != n | none => false) || s.inServer p || x.move.isSome
      || x.attach ≠ 0 then stTY_BUSY
  else if s.o (kTY_TEACHER n) = p || (s.studentIdx n p).isSome || 4 ≤ x.members.length
      || s.freeEntries p < (s.ringSlices n ++ s.sharedSlices n).length then stTY_CONFIG
  else 0

/-- TY_CONTROL ATTACH (R157): accepted, it waits for the next END_OF_STEP. One of a partition whose DETACH has not yet
taken effect is a pending enable (R456). -/
def State.tyAttach (s : State) (n p : Nat) : State × Nat :=
  if s.tyState n = tyMOVING && (s.pairing n).lostHeld.contains p && s.o (kTY_TEACHER n) ≠ p then
    (s.pendEnable 7 (16 * n + p), 0)
  else
    let st := s.attachCheck n p
    if st ≠ 0 then (s, st) else (s.setPairing n { s.pairing n with attach := p + 1 }, 0)

/-- TY_CONTROL DETACH (R180, R183, R457). -/
def State.tyDetach (s : State) (n p : Nat) : State × Nat :=
  let st := s.tyState n
  let x := s.pairing n
  if st = tyFREE || st = tyCLOSING then (s, 0)
  else if x.attach = p + 1 then (s.setPairing n { x with attach := 0 }, 0)
  else if (s.studentIdx n p).isNone then (s, stTY_CONFIG)
  else if st = tyMOVING then
    if x.lostHeld.contains p then (s.dropPending 7 (16 * n + p), 0)
    else (s.setPairing n { x with lostHeld := x.lostHeld ++ [p] }, 0)
  else (s.detachStudent n p, 0)

/-- The pending ATTACH takes effect with the END_OF_STEP record `seq` (R180): the lowest free index, and grants. Records of that
step whose headers are still to come are not the new student's. -/
def State.attachNow (s : State) (n seq : Nat) : State :=
  let x := s.pairing n
  match x.attach with
  | 0 => s
  | p + 1 =>
    match (upto 4).find? (fun i => tget 0 x.students i == 0) with
    | none => s
    | some i =>
      let old (r : Record) : Bool := decide (r.phase < 2) && decide (seqDist r.seq seq ≤ 0)
      (s.setPairing n { x with attach := 0, imb := terase x.imb i
                               recs := x.recs.map (fun r => if old r then { r with gone := r.gone ++ [i] } else r)
                               students := tset 0 x.students i (p + 1) }).addGrants n i p

/-! Rebalancing (R182 to R185). -/

/-- Frames that no rebalancing moves: those of ring, shared and harvest-buffer slices of a partition (R158, R188). -/
def State.pinned (s : State) (p frame : Nat) : Bool :=
  let rods := frameRods frame
  let has (j : Nat) : Bool := let e := tget 0 (s.part p).slices j; bit e 15 && rods.contains (bits e 9 0)
  (upto 8).any (fun n => s.tyState n != tyFREE && s.tyState n != tyCLOSING && s.o (kTY_TEACHER n) == p
      && (s.ringSlices n ++ s.sharedSlices n).any has)
    || (s.o (kTY_HV_ENABLE p) == 1 && has (s.o (kTY_HV_BUF p) / 2 ^ 29))

/-- Why a move of a frame is refused for itself (R182); true if it is not. -/
def State.moveFits (s : State) (n : Nat) (toStudent : Bool) (frame p : Nat) : Bool :=
  let t := s.o (kTY_TEACHER n)
  let d := if toStudent then t else p
  let r := if toStudent then p else t
  decide (frame < 64) && (s.frames d).testBit frame && !s.pinned d frame
    && gridConnected 8 (s.frames d ^^^ 2 ^ frame) && gridConnected 8 (s.frames r ||| 2 ^ frame)

/-- A REBALANCE command (R182). -/
def State.tyRebal (s : State) (n : Nat) (toStudent : Bool) (frame p : Nat) : State × Nat :=
  let x := s.pairing n
  if x.move.isSome && s.tyState n = tyACTIVE then (s, stTY_BUSY)
  else if s.tyState n ≠ tyACTIVE || (s.studentIdx n p).isNone || !s.moveFits n toStudent frame p then
    (s, stREBAL_REFUSED)
  else (s.setPairing n { x with move := some { toStudent := toStudent, frame := frame, student := p, eos := 0
                                               strokeB := 0, movingAt := 0 } }, 0)

/-- Frames next to a set of frames. -/
def frameNext (f set : Nat) : Bool :=
  (f % 8 != 0 && set.testBit (f - 1)) || (f % 8 != 7 && set.testBit (f + 1))
    || (decide (8 ≤ f) && set.testBit (f - 8)) || set.testBit (f + 8)

/-- The frame that AUTO or ADVISE names (R185). -/
def State.autoFrame (s : State) (n : Nat) (toStudent : Bool) (p : Nat) : Option Nat :=
  let r := if toStudent then p else s.o (kTY_TEACHER n)
  (upto 64).find? (fun f => frameNext f (s.frames r) && s.moveFits n toStudent f p)

/-- Advice or a move for student `i` of partition `p`, once its window of steps is full (R185). AUTO is for a pairing with one
student; ADVISE writes its record for each student whose mean calls for a move (DEDUCED, log entry 39). -/
def State.rebalFor (s : State) (n i p : Nat) : State :=
  let x := s.pairing n
  let w := s.o (kTY_REBAL_WINDOW n)
  let imb := tget [] x.imb i
  if imb.length < w || x.move.isSome || s.tyState n ≠ tyACTIVE then s
  else
    let mean := f32div ((imb.take w).reverse.foldl f32add 0) (f32ofNat w)
    let th : F32 := BitVec.ofNat 32 (s.o (kTY_REBAL_THRESH n))
    let up := f32lt th mean
    let down := f32lt mean (f32neg th)
    if !up && !down then s
    else match s.autoFrame n down p with
      | none => s.errRec { cls := 0, code := rcTY_REBAL_NONE }
      | some f =>
        if s.o (kTY_REBAL_MODE n) = 1 then
          s.errRec { cls := 0, code := rcTY_REBAL_ADVICE, arg0 := f, arg1 := if down then 0 else 1 }
        else (s.tyRebal n down f p).1

/-- Automatic rebalancing after a step (R185). -/
def State.autoRebal (s : State) (n : Nat) : State :=
  let ms := (s.pairing n).members
  let mode := s.o (kTY_REBAL_MODE n)
  if mode = 1 || (mode = 2 && ms.length = 1) then ms.foldl (fun s m => s.rebalFor n m.1 m.2) s else s

/-- The imbalance (W_S - W_T) / D (R185). -/
def imbalance (ws wt d : Nat) : F32 :=
  if d = 0 then f32div (f32ofRat (decide (ws < wt)) (if ws < wt then wt - ws else ws - wt) 1) 0
  else f32ofRat (decide (ws < wt)) (if ws < wt then wt - ws else ws - wt) d

/-- Times of the step that an END_OF_STEP publication ends (R185). -/
def State.stepStats (s : State) (n : Nat) : State :=
  let x := s.pairing n
  let at_ (i : Nat) : Nat :=
    tget 0 x.waitNs i + (match tget 0 x.waitFrom i with | 0 => 0 | f + 1 => s.ns - f)
  let d := s.ns - x.eosAt
  let im (i : Nat) : F32 := if tget 0 x.students i = 0 then 0 else imbalance (at_ i) (at_ 4) d
  let st : Tab Nat := ((upto 4).foldl (fun t i => tset 0 t (1 + i) (at_ i)) (tset 0 [] 0 (at_ 4)))
  let st := (upto 4).foldl (fun t i => tset 0 t (6 + i) (im i).toNat) (tset 0 st 5 d)
  let imb := x.members.foldl (fun t m => tset [] t m.1 ((im m.1 :: tget [] t m.1).take 1024)) x.imb
  s.setPairing n { x with stats := st, waitNs := [], eosAt := s.ns, imb := imb
                          waitFrom := x.waitFrom.map (fun q => (q.1, s.ns + 1)) }

/-- What an END_OF_STEP publication brings about (R153, R180, R182, R185). -/
def State.endOfStep (s : State) (n seq : Nat) : State :=
  let s := (s.stepStats n).latchTy n
  let x := s.pairing n
  let s := match x.move with
    | some m =>
      let e := s.moveEnds n m
      let s := s.setPairing n { x with move := some { m with eos := seq, strokeB := s.stroke } }
      ((s.setO (kTY_STATE n) tyDRAINING).holdPart e.1 true).holdPart e.2 true
    | none => s
  (s.attachNow n seq).autoRebal n

/-- REBAL_MOVING (R182): every record up to the END_OF_STEP is fully released and no command of the two partitions runs;
the frame leaves the donor and its caches and slices are zeroed. -/
def execRebalMoving (n : Nat) (s : State) : Out := polled <|
  let x := s.pairing n
  match x.move with
  | none => .next s
  | some m =>
    let e := s.moveEnds n m
    if s.tyState n ≠ tyDRAINING || x.recs.any (fun r => seqDist r.seq m.eos ≤ 0 && !r.released)
        || s.anyRun e.1 || s.anyRun e.2 then .next s
    else
      let rods := frameRods m.frame
      let s := s.setPairing n { x with move := some { m with movingAt := s.ns } }
      let s := s.setO (kTY_STATE n) tyMOVING
      let d := s.part e.1
      let s := (s.setPart e.1 { d with slices := dropSlices d.slices rods }).cutStages e.1
      let s := { s with frameOwner := tset 0xFF s.frameOwner m.frame 0xFE }
      .next (rods.foldl (fun s r =>
        let s := s.setRod r { s.rod r with cache := [] }
        { s with decks := { s.decks with zeroing := tset 0 s.decks.zeroing r (s.ns + 1) } }) s)

/-- The effects that waited for a move's end (R157, R183). -/
def State.afterMove (s : State) (n : Nat) : State :=
  let x := s.pairing n
  let s := s.setPairing n { x with lostHeld := [], closeHeld := false }
  let s := x.lostHeld.foldl (fun s p =>
    if s.tyState n = tyCLOSING then s
    else if s.o (kTY_TEACHER n) = p then s.breakPairing n else s.detachStudent n p) s
  let held := s.pend.filter (fun e => e.kind == 7 && e.inst / 16 == n)
  let s := held.foldl (fun s e =>
    let s := s.dropPending 7 e.inst
    let st := s.attachCheck n (e.inst % 16)
    if st = 0 then s.setPairing n { s.pairing n with attach := e.inst % 16 + 1 }
    else s.errRec { cls := 0, code := rcFN_PENDING_REFUSED, arg0 := 7, arg1 := e.inst, arg2 := st }) s
  if x.closeHeld then s.closeNow n else s

/-- REBAL_MOVE_COMPLETE (R182, R183): the zeroed frame enters the recipient, the pairing is ACTIVE and dispatch resumes. -/
def execRebalMoveComplete (n : Nat) (s : State) : Out := polled <|
  match (s.pairing n).move with
  | none => .next s
  | some m =>
    if s.tyState n ≠ tyMOVING then .next s
    else
      let e := s.moveEnds n m
      let rods := frameRods m.frame
      let s := rods.foldl (fun s r =>
        { s with decks := { s.decks.zeroSlice r with zeroing := terase s.decks.zeroing r } }) s
      let x := s.part e.2
      let s := s.setPart e.2 { x with slices := s.addSlices x.slices [m.frame] }
      let s := s.setO (kPT_FRAMES e.1) (s.frames e.1 ^^^ 2 ^ m.frame)
      let s := s.setO (kPT_FRAMES e.2) (s.frames e.2 ||| 2 ^ m.frame)
      let s := { s with frameOwner := tset 0xFF s.frameOwner m.frame e.2 }
      let s := s.setPairing n { s.pairing n with move := none, imb := [] }
      let s := (s.setO (kTY_STATE n) tyACTIVE).addO 32 (kTY_REBAL_COUNT n) 1
      .next (((s.holdPart e.1 false).holdPart e.2 false).afterMove n)

/-- A drain that has not ended within TY_REBAL_LIMIT strokes of stroke b is abandoned (R183, R358). -/
def State.drainLate (s : State) (n : Nat) : State :=
  match (s.pairing n).move with
  | none => s
  | some m =>
    if s.tyState n = tyDRAINING && m.strokeB + s.o (kTY_REBAL_LIMIT n) ≤ s.stroke then s.abandonMove n true else s

/-- TY_REBAL_ABANDONED (R183). -/
def execTyRebalAbandoned (n : Nat) (s : State) : Out := polled (.next (s.drainLate n))

/-- PAIRING_FREE (R157, R455): a CLOSING pairing whose operations have all ended is FREE; a pending FORM is carried out. -/
def execPairingFree (n : Nat) (s : State) : Out := polled <|
  let busy := (upto 576).any (fun r => tallyWait n (s.rod r).wait)
  if s.tyState n ≠ tyCLOSING || busy then .next s
  else
    let x := s.pairing n
    let s := s.setPairing n { stats := x.stats, loss := x.loss }
    let s := s.setO (kTY_STATE n) tyFREE
    if s.pend.any (fun e => e.kind == 6 && e.inst == n) then
      let r := (s.dropPending 6 n).formNow n
      if r.2 = 0 then .next r.1
      else .next (r.1.errRec { cls := 0, code := rcFN_PENDING_REFUSED, arg0 := 6, arg1 := n, arg2 := r.2 })
    else .next s

/-! Tally operations (R163 to R171). -/

/-- Who issues a tally operation: the pairing and, for a student, its index. -/
def State.tallyCaller (s : State) (rod : Nat) : Option (Nat × Option Nat) :=
  (s.pairOf (s.owner rod)).map (fun n => (n, s.studentIdx n (s.owner rod)))

/-- The value an operation returns: result code in bits 3 to 0 (0 READY, 1 SKIP, 2 VOID; ACQUIRE 0), record number above
it, address above that (the encoding is the model's own). -/
def tallyRet (code seq addr : Nat) : Nat := code + 16 * (seq % 2 ^ 32) + 2 ^ 36 * addr

/-- Reserve the next record for a rod's command (R163). -/
def State.reserve (s : State) (rod n : Nat) : State :=
  let x := s.pairing n
  let q := x.nextSeq
  let old := (q + 2 ^ 32 - s.o (kTY_NREC n)) % 2 ^ 32
  let x := { x with nextSeq := (q + 1) % 2 ^ 32
                    recs := x.recs.filter (fun r => r.seq != old) ++ [{ seq := q }]
                    seen := x.seen.map (fun e => (e.1, e.2.filter (fun y => y != old))) }
  let s := (s.setPairing n x).settleSeqs n
  let s := s.setRunCmd (s.owner rod) (fun c => { c with reserved := c.reserved ++ [q] })
  s.setRod rod { s.rod rod with wait := .none, waitStrokes := 0, stalled := false
                                ret := tallyRet 0 q (s.slotAddr n q) }

/-- ACQUIRE (R152, R163, R166, R167, R170). -/
def execAcquire (rod : Nat) (s : State) : Out :=
  if !s.issues rod then .next s
  else
    let p := s.owner rod
    match s.tallyCaller rod, s.runCmd p with
    | some (n, i), some c =>
      let x := s.pairing n
      let st := s.tyState n
      let u := s.o (kTY_LEAD n)
      -- ACQUIREs that wait already stand before this one in the order of numbers
      let first := ((s.partRods p).filter (fun r => acquireWait n (s.rod r).wait)).length
      let seq := (x.nextSeq + first) % 2 ^ 32
      let open_ := c.reserved.filter (fun q => match x.rec? q with | some r => r.phase == 0 | none => false)
        ++ (upto first).map (fun k => (x.nextSeq + k) % 2 ^ 32)
      let bad := lowest
        [(s.resident p ≠ 0 || i.isSome, stTY_NOT_BOUND),
         (c.ended, stTY_ORDER),
         (open_.any (fun q => decide (seqDist q seq ≤ -(u : Int))), stTY_WOULD_DEADLOCK),
         (st == tyBROKEN || st == tyCLOSING, stTY_DETACHED)]
      if bad ≠ 0 then .next (s.failRod rod bad)
      else if first = 0 && s.slotFree n seq then .next (s.reserve rod n)
      else
        let r := s.rod rod
        .next ((s.setRod rod { r with wait := .acquire n seq, waitStrokes := 0, waitSince := s.ns
                                      stalled := false }).waitMark n 4 p)
    | _, _ => .next (s.failRod rod (if s.resident p ≠ 0 then stTY_NOT_BOUND else stTY_DETACHED))

/-- ACQUIRE_SLOT_FREE (R166): the slot that a waiting ACQUIRE needs is free and the ACQUIRE returns. -/
def execAcquireSlotFree (n : Nat) (s : State) : Out :=
  let p := s.o (kTY_TEACHER n)
  match (s.partRods p).find? (fun r => decide ((s.rod r).wait = .acquire n (s.pairing n).nextSeq)) with
  | none => .next s
  | some rod =>
    if s.resident p = 0 && (s.runCmd p).isSome && (s.tyState n ≠ tyFREE) && s.slotFree n (s.pairing n).nextSeq then
      .next ((s.reserve rod n).waitMark n 4 p)
    else .next s

/-- A PUBLISH call that repeats the parts and fields of the first one (R164). -/
def sameFields (a b : PublishCall) : Bool := decide ({ a with nsw := 0 } = { b with nsw := 0 })

/-- PUBLISH (R152, R164, R211). With parts = 0, which the rules do not exclude, the first call is the last (DESIGN CHOICE, log
entry 177); TOKENS that is 0 or above TY_GROUP, which R162 does not allow and no rule refuses, is published as it stands
(DESIGN CHOICE, log entry 177). -/
def execPublish (rod : Nat) (call : PublishCall) (s : State) : Out :=
  if !s.issues rod then .next s
  else
    let p := s.owner rod
    match s.tallyCaller rod, s.runCmd p with
    | some (n, i), some c =>
      let x := s.pairing n
      let st := s.tyState n
      let rec? := x.rec? call.seq
      let open_ := c.reserved.contains call.seq && (match rec? with | some r => r.phase == 0 | none => false)
      let bad := lowest
        [(s.resident p ≠ 0 || i.isSome, stTY_NOT_BOUND),
         (st == tyBROKEN || st == tyCLOSING, stTY_DETACHED),
         (!open_ || (call.feat && (s.features n).all (fun f => f.2.1 == 0))
            || (match rec?.bind (·.fields) with | some f => !sameFields f call | none => false), stTY_ORDER),
         (decide (131072 < call.position + call.tokens), stSEQ_LIMIT)]
      if bad ≠ 0 then .next (s.failRod rod bad)
      else match rec? with
        | none => .next s
        | some r =>
          let r := { r with calls := r.calls + 1, fields := some (r.fields.getD call)
                            callers := r.callers ++ [(rod, (s.rod rod).issue)], nsw := r.nsw ||| call.nsw
                            phase := if call.parts ≤ r.calls + 1 then 1 else 0 }
          .next (s.setPairing n (x.setRec r))
    | _, _ => .next (s.failRod rod (if s.resident p ≠ 0 then stTY_NOT_BOUND else stTY_DETACHED))

/-- Writes of the calling rods issued before their calls are visible (R164): no SPILL, upper-deck read-out or mesh write of
theirs is outstanding, on rods that are switched out too, and none was lost. -/
def State.writesVisible (s : State) (n : Nat) (r : Record) : Bool :=
  let saved := (s.ctx (s.o (kTY_TEACHER n)) 0).savedRods
  !r.lost && r.callers.all (fun c =>
    let d := ((saved.find? (fun q => q.1 == c.1)).map (·.2)).getD (s.rod c.1)
    d.openWrites.all (fun k => decide (c.2 ≤ k)))
  && !(s.mesh.vc0.any (fun q => match q.writer with
      | .mover rod k => r.callers.any (fun c => c.1 == rod && decide (k < c.2))
          && !(s.rod rod).dq.any (fun e => e.seq == k && vdOp e.desc == 9)
      | _ => false))
  && !(s.mesh.vc2.any (fun q => match q.writer with
      | .tally m _ rod => m == n && r.callers.any (fun c => c.1 == rod)
      | _ => false))

/-- PUBLISH_HEADER_WRITE (R161 to R164): the header is written and the record published; bits of students that are not
attached leave its MASK, and a record left without any is released at once and counted. -/
def execPublishHeaderWrite (n seq : Nat) (s : State) : Out := polled <|
  let x := s.pairing n
  match x.rec? seq with
  | none => .next s
  | some r =>
    match r.fields with
    | none => .next s
    | some c =>
      if r.phase ≠ 1 || !s.writesVisible n r then .next s
      else
        let ms := (x.members.map (·.1)).filter (fun i => c.mask.testBit i && !r.gone.contains i)
        let h : RecHeader :=
          { seq := seq, pairing := n, tokens := c.tokens, stream := s.tyStream n, mask := maskOf ms, eos := c.eos
            feat := c.feat, status := r.nsw, step := c.step, stroke := s.stroke
            payload := c.tokens * (if c.feat then s.bAll n else s.b0 n)
            featOff := if c.feat then 64 + s.o (kTY_GROUP n) * s.b0 n else 0, token0 := c.token0
            position := c.position }
        let x := x.setRec { r with phase := 2, pubMask := ms, mask := ms, temp := x.temp, weight := x.weight }
        let s := (s.setPairing n x).putHeader n seq h
        let s := (s.countPublished n seq).settleSeqs n
        let s := if ms.isEmpty then s.addO 32 (kTY_DROPPED n) 1 else s
        let t := s.o (kTY_TEACHER n)
        let cx := s.ctx t 0
        let s := s.setCtx t 0 { cx with run := cx.run.map (fun k =>
          if k.reserved.contains seq then
            { k with ended := k.ended || c.eos
                     pubSteps := if k.pubSteps.contains c.step then k.pubSteps else k.pubSteps ++ [c.step] }
          else k) }
        .next (if c.eos then s.endOfStep n seq else s)

/-- What a WAIT on a published record answers (R169): VOID, SKIP, or READY with a hold. -/
def State.waitAnswer (s : State) (rod n i : Nat) (r : Record) : State :=
  let x := s.pairing n
  let see (x : Pairing) : Pairing := { x with seen := tset [] x.seen i (tget [] x.seen i ++ [r.seq]) }
  let done (s : State) (code : Nat) : State :=
    s.setRod rod { s.rod rod with wait := .none, waitStrokes := 0, stalled := false
                                  ret := tallyRet code r.seq (if code = 0 then s.slotAddrFor n i r.seq else 0) }
  if r.isVoid then done (s.setPairing n (see x)) 2
  else if !r.pubMask.contains i then done (s.setPairing n (see x)) 1
  else
    let x := x.setRec { r with holds := if r.holds.contains i then r.holds else r.holds ++ [i] }
    let s := (s.setPairing n x).setRunCmd (s.owner rod) (fun c =>
      { c with holds := if c.holds.contains r.seq then c.holds else c.holds ++ [r.seq] })
    done s 0

/-- WAIT (R152, R163, R167, R169). -/
def execWait (rod seq : Nat) (s : State) : Out :=
  if !s.issues rod then .next s
  else
    let p := s.owner rod
    match s.tallyCaller rod, s.runCmd p with
    | some (n, i), some c =>
      let x := s.pairing n
      let st := s.tyState n
      let nrec := s.o (kTY_NREC n)
      let k := i.getD 0
      let d := seqDist seq x.nextSeq
      let bad := lowest
        [(s.resident p ≠ 0 || i.isNone, stTY_NOT_BOUND),
         (c.holds.any (fun y => decide (seqDist y seq ≤ -((nrec - s.o (kTY_LEAD n) : Nat) : Int))),
           stTY_WOULD_DEADLOCK),
         ((tget [] x.seen k).contains seq || decide (d < -(nrec : Int)) || decide ((nrec : Int) - 2 < d), stTY_SEQ_RANGE),
         (st == tyCLOSING, stTY_DETACHED),
         (st == tyBROKEN, stTY_TEACHER_LOST)]
      if bad ≠ 0 then .next (s.failRod rod bad)
      else match (x.rec? seq).filter (fun r => r.phase == 2) with
        | some r => .next (s.waitAnswer rod n k r)
        | none =>
          let r := s.rod rod
          .next ((s.setRod rod { r with wait := .wait n seq, waitStrokes := 0, waitSince := s.ns
                                        stalled := false }).waitMark n k p)
    | _, _ => .next (s.failRod rod (if s.resident p ≠ 0 then stTY_NOT_BOUND else stTY_DETACHED))

/-- WAIT_RECORD_PUBLISHED (R169): the record that a waiting WAIT names is published and the WAIT returns. -/
def execWaitRecordPublished (rod : Nat) (s : State) : Out :=
  let p := s.owner rod
  match (s.rod rod).wait with
  | .wait n seq =>
    match ((s.pairing n).rec? seq).filter (fun r => r.phase == 2), s.studentIdx n p with
    | some r, some i => .next ((s.waitAnswer rod n i r).waitMark n i p)
    | _, _ => .next s
  | _ => .next s

/-- The student's step sums of an END_OF_STEP record are latched (R176). -/
def State.latchLoss (s : State) (n i seq : Nat) : State :=
  let x := s.pairing n
  let mine := x.contrib.filter (fun c => c.1 == i && decide (seqDist c.2.1 seq ≤ 0))
  let kl := mine.foldl (fun a c => f32add a c.2.2.1) 0
  let ft := mine.foldl (fun a c => f32add a c.2.2.2) 0
  s.setPairing n { x with loss := tset 0 (tset 0 x.loss (2 * i) kl) (2 * i + 1) ft
                          contrib := x.contrib.filter (fun c => !(c.1 == i && decide (seqDist c.2.1 seq ≤ 0))) }

/-- A student's hold on a record it has finished with ends (R169, R176). -/
def State.releaseNow (s : State) (n i p seq : Nat) : State :=
  let eos := match (s.pairing n).rec? seq with
    | some r => (match r.fields with | some f => f.eos | none => false)
    | none => false
  let s := (s.endHold n i seq).setRunCmd p (fun c => { c with holds := c.holds.filter (· != seq) })
  if eos then s.latchLoss n i seq else s

/-- RELEASE (R152, R169, R176). With parts = 0 the first call is the last (DESIGN CHOICE, log entry 177). -/
def execRelease (rod seq parts : Nat) (s : State) : Out := polled <|
  if !s.issues rod then .next s
  else
    let p := s.owner rod
    match s.tallyCaller rod, s.runCmd p with
    | some (n, i), some c =>
      let x := s.pairing n
      let st := s.tyState n
      let k := i.getD 0
      let rec? := x.rec? seq
      let made := match rec? with | some r => tget (0, 0) r.rel k | none => (0, 0)
      let bad := lowest
        [(s.resident p ≠ 0 || i.isNone, stTY_NOT_BOUND),
         (made.1 ≠ 0 && made.2 ≠ parts, stTY_ORDER),
         (!c.holds.contains seq || rec?.isNone, stTY_SEQ_RANGE),
         (st == tyCLOSING, stTY_DETACHED),
         (st == tyBROKEN, stTY_TEACHER_LOST)]
      if bad ≠ 0 then .next (s.failRod rod bad)
      else match rec? with
        | none => .next s
        | some r =>
          if parts ≤ made.1 + 1 then .next (s.releaseNow n k p seq)
          else .next (s.setPairing n (x.setRec { r with rel := tset (0, 0) r.rel k (made.1 + 1, parts) }))
    | _, _ => .next (s.failRod rod (if s.resident p ≠ 0 then stTY_NOT_BOUND else stTY_DETACHED))

/-- Where a tally wait is found: on the rod, or saved with the bound context's command (R177, R179). -/
def State.tallyWaiter (s : State) (rod : Nat) : Option Rod :=
  let r := s.rod rod
  match r.wait with
  | .acquire _ _ => some r
  | .wait _ _ => some r
  | _ => ((s.ctx (s.owner rod) 0).savedRods.find? (fun q => q.1 == rod)).map (·.2)

/-- Change a waiting rod where it is kept. -/
def State.setWaiter (s : State) (rod : Nat) (f : Rod → Rod) : State :=
  let r := s.rod rod
  match r.wait with
  | .acquire _ _ => s.setRod rod (f r)
  | .wait _ _ => s.setRod rod (f r)
  | _ =>
    let x := s.ctx (s.owner rod) 0
    s.setCtx (s.owner rod) 0 { x with savedRods := x.savedRods.map (fun q => if q.1 = rod then (q.1, f q.2) else q) }

def waitPairing : RodWait → Option Nat
  | .acquire n _ => some n
  | .wait n _ => some n
  | _ => none

/-- A tally wait has lasted TY_STALL_STROKES: one deferred record names the pairing and the students that hold the oldest
unreleased record (R177). -/
def State.waitStalled (s : State) (rod : Nat) : State :=
  match s.tallyWaiter rod with
  | none => s
  | some r =>
    match waitPairing r.wait with
    | none => s
    | some n =>
      let lim := s.o (kTY_STALL_STROKES n)
      if lim = 0 || r.waitStrokes < lim || r.stalled then s
      else
        let old := (s.pairing n).rec? (s.o (kTY_SEQ_RELEASED n))
        let holders := match old with | some q => maskOf q.holds | none => 0
        (s.setWaiter rod (fun r => { r with stalled := true })).errRec
          { cls := 2, code := rcTY_STALL, arg0 := n, arg1 := holders }

/-- TY_STALL (R177). -/
def execTyStall (rod : Nat) (s : State) : Out := .next (s.waitStalled rod)

/-- A tally wait has lasted TY_ABORT_STROKES and ends its command (R177). -/
def State.waitAborted (s : State) (rod : Nat) : State :=
  match s.tallyWaiter rod with
  | none => s
  | some r =>
    match waitPairing r.wait with
    | none => s
    | some n =>
      let lim := s.o (kTY_ABORT_STROKES n)
      if lim = 0 || r.waitStrokes < lim then s
      else
        let p := s.owner rod
        let i := (s.studentIdx n p).getD 4
        ((s.setWaiter rod (fun r => { r with wait := .none, ended := true })).failCtx p 0 stTY_TIMEOUT rod).waitMark n i p

/-- TY_TIMEOUT (R177). -/
def execTyTimeout (rod : Nat) (s : State) : Out := .next (s.waitAborted rod)

/-! The loss kernel (R172 to R178). -/

/-- F32 of log2(e) and of ln 2. -/
def f32Log2e : F32 := 0x3FB8AA3B
def f32Ln2 : F32 := 0x3F317218

/-! The kernel's vector arithmetic, in F32 with the events that R64 reports: each value comes with the flags raised on the way
to it. -/

/-- A two-operand operation. -/
def kOp (op : Nat → Nat → Nat × Nsw) (x y : F32 × Nsw) : F32 × Nsw :=
  let z := op x.1.toNat y.1.toNat
  (BitVec.ofNat 32 z.1, x.2 ||| y.2 ||| z.2)

def kAdd : F32 × Nsw → F32 × Nsw → F32 × Nsw := kOp (fmt32.add false)
def kMul : F32 × Nsw → F32 × Nsw → F32 × Nsw := kOp (fmt32.mul false)
def kDiv : F32 × Nsw → F32 × Nsw → F32 × Nsw := kOp (fmt32.div false)
def kSub (x y : F32 × Nsw) : F32 × Nsw := kAdd x (if f32isNan y.1 then y.1 else f32neg y.1, y.2)

/-- EXP2 and LOG2 (R101). -/
def kFun (op : Nat) (x : F32 × Nsw) : F32 × Nsw :=
  let z := funcStage 0 false op x.1.toNat
  (BitVec.ofNat 32 z.1, x.2 ||| z.2)
def kExp2 : F32 × Nsw → F32 × Nsw := kFun 0x0B
def kLog2 : F32 × Nsw → F32 × Nsw := kFun 0x0C

/-- Sum and maximum of a row in the fixed order (R106). -/
def kRed (red : Nat) (xs : List (F32 × Nsw)) : F32 × Nsw :=
  let z := reduceSeg false 0 red 0 (xs.zipIdx.map (fun q => (q.2, q.1.1.toNat)))
  (BitVec.ofNat 32 z.1, xs.foldl (fun a x => a ||| x.2) z.2)
def kSum : List (F32 × Nsw) → F32 × Nsw := kRed 0
def kMax : List (F32 × Nsw) → F32 × Nsw := kRed 2

/-- Flags of a list of results. -/
def kFlags (xs : List (F32 × Nsw)) : Nsw := xs.foldl (fun a x => a ||| x.2) 0

/-- An operand without flags of its own. -/
def kVal (x : F32) : F32 × Nsw := (x, 0)

/-- Shards of 4,096 entries, ascending (R172). -/
def shards : Nat → List (F32 × Nsw) → List (List (F32 × Nsw))
  | 0, _ => []
  | n + 1, xs => if xs.isEmpty then [] else xs.take 4096 :: shards n (xs.drop 4096)

/-- Merge the statistics of one shard's row (R173). The −Inf that a row's maximum starts from is no operand that reports
NONFINITE_IN (DEDUCED, log entry 166). -/
def mergeShard (a : (F32 × Nsw) × (F32 × Nsw)) (y : List (F32 × Nsw)) : (F32 × Nsw) × (F32 × Nsw) :=
  let first := a.1.1 == 0xFF800000 && a.2.1 == 0
  let mj := kMax y
  let sj := kSum (y.map (fun v => kExp2 (kSub v mj)))
  let m2 := ((BitVec.ofNat 32 (fmt32.maxMin true a.1.1.toNat mj.1.toNat).1 : F32), a.1.2 ||| mj.2)
  let old := kMul a.2 (kExp2 (kSub a.1 m2))
  let old := if first then (old.1, old.2 &&& ~~~nsNonfiniteIn) else old
  (m2, kAdd old (kMul sj (kExp2 (kSub mj m2))))

/-- The base-2 log-sum-exp of a row of scaled logits (R173). -/
def rowLse (ys : List (F32 × Nsw)) : F32 × Nsw :=
  let a := (shards (ys.length / 4096 + 1) ys).foldl mergeShard (kVal 0xFF800000, kVal 0)
  kAdd a.1 (kLog2 a.2)

/-- Gradient and KL of one token: `yt` the teacher's base-2 log-probabilities, `ys` the student's (R173, R174). -/
def tokenLoss (k : F32 × Nsw) (yt ys : List (F32 × Nsw)) : List (F32 × Nsw) × (F32 × Nsw) :=
  let es := (yt.zip ys).map (fun q =>
    let pt := kExp2 q.1
    let ps := kExp2 q.2
    (kMul k (kSub ps pt), kMul (kMul (kVal f32Ln2) pt) (kSub q.1 q.2)))
  (es.map (·.1), es.foldl (fun a e => kAdd a e.2) (kVal 0))

/-- Log-probabilities of token `t` of a hold-mode record at a physical address (R161, R174). -/
def State.holdRow (s : State) (n a t : Nat) : List (F32 × Nsw) :=
  let v := s.o (kTY_VOCAB n)
  let g := s.o (kTY_GROUP n)
  (upto v).map (fun i =>
    let code := (mget s.decks.ud (a + 64 + t * v + i)).toNat
    let sb := (mget s.decks.ud (a + 64 + g * v + t * (v / 32) + i / 32)).toNat
    decodeBead bd8 0x3F800000 sb code)

/-- What the kernel reads of a record at physical address `a`: the header, the rows of its TOKENS tokens, and its valid
feature sections (R161, R175). -/
def State.recordSpans (s : State) (n a : Nat) (f : PublishCall) : List (Nat × Nat) :=
  let g := s.o (kTY_GROUP n)
  let v := s.o (kTY_VOCAB n)
  let fs := s.features n
  let rows := if s.tyStream n then [(a + 64, f.tokens * (2 * s.o (kTY_HIDDEN n)))]
    else [(a + 64, f.tokens * v), (a + 64 + g * v, f.tokens * (v / 32))]
  let feat := if f.feat then
      (upto 8).map (fun k => (a + 64 + g * (s.b0 n + ((fs.take k).map (fun e => 2 * e.2.1)).sum),
        f.tokens * (2 * (fs.getD k (0, 0, 0)).2.1)))
    else []
  (a, 64) :: rows ++ feat

/-- The span of a record in which the kernel meets an unreadable word, if any (R147, R175). -/
def State.recordUncorr (s : State) (n a : Nat) (f : PublishCall) : Option Nat :=
  ((s.recordSpans n a f).find? (fun q => decide (0 < q.2) && s.decks.udBadIn q.1 q.2)).map
    (fun q => q.1 + s.decks.readable q.1 q.2)

/-- Is the record bad (R175)? -/
def State.recordBad (s : State) (n a : Nat) (r : Record) (f : PublishCall) : Bool :=
  (r.nsw &&& (nsInvalid ||| nsNonfiniteIn ||| nsNonfiniteOut)) != 0 || (s.recordUncorr n a f).isSome

/-- Feature rows of entry `f`, token `t` (R161). -/
def State.featRow (s : State) (n a f t : Nat) : List (F32 × Nsw) :=
  let fs := s.features n
  let g := s.o (kTY_GROUP n)
  let off := 64 + g * (s.b0 n + ((fs.take f).map (fun e => 2 * e.2.1)).sum)
  let w := (fs.getD f (0, 0, 0)).2.1
  (upto w).map (fun i => kVal (BitVec.ofNat 32 (widen16 (leNat (mread s.decks.ud (a + off + 2 * (t * w + i)) 2)))))

/-- Gradient-class conversion of a row into HB16 (R55, R173, R178, R210). -/
def State.gradRow (s : State) (p : Nat) (d : DrawDecl) (t : Nat) (xs : List F32) : List HB16 × ConvAcc :=
  let dr := s.partDraw p 0xF0000102 d.layer
  let es := xs.zipIdx.map (fun q => narrow fmt16 false none (.sr (dr.elem (d.base + t * d.row + q.2))) (f32dec q.1))
  (es.map (fun e => BitVec.ofNat 16 e.1), es.foldl (fun a e => a.join e.2) {})

/-- Feature loss and gradients (R178). -/
def State.featLoss (s : State) (p n a tokens : Nat) (l : F32) (call : KernelCall) (bad : Bool) :
    F32 × List (List HB16) × Nsw :=
  let nt := s.o (kTY_STEP_TOKENS n)
  let nan : F32 := 0x7FC00000
  (s.features n).zipIdx.foldl (fun acc e =>
    let w := e.1.2.1
    if w = 0 then acc
    else
      let den := kVal (f32ofNat (w * nt))
      let wt := kVal e.1.2.2
      let qs := call.feat.getD e.2 []
      let kf := kDiv (kMul (kMul (kVal 0x40000000) (kVal l)) wt) den
      let d := call.fdraw.getD e.2 noDraw
      let rows := (upto tokens).map (fun t =>
        let ds := ((qs.getD t []).zip (s.featRow n a e.2 t)).map (fun q => kSub (kVal q.1) q.2)
        let gs := ds.map (kMul kf)
        let g := s.gradRow p d t (if bad then ds.map (fun _ => nan) else gs.map (·.1))
        (kSum (ds.map (fun x => kMul x x)), g.1, g.2.nsw ||| kFlags gs))
      let loss := kDiv (kMul wt (rows.foldl (fun a r => kAdd a r.1) (kVal 0))) den
      (f32add acc.1 (if bad then nan else loss.1), acc.2.1 ++ rows.map (·.2.1),
        rows.foldl (fun a r => a ||| r.2.2) (acc.2.2 ||| loss.2))) (0, [], 0)

/-- A contribution in ascending record number (R176). -/
def insertContrib (c : Nat × Nat × F32 × F32) : List (Nat × Nat × F32 × F32) → List (Nat × Nat × F32 × F32)
  | [] => [c]
  | x :: t => if seqDist c.2.1 x.2.1 < 0 then c :: x :: t else x :: insertContrib c t

/-! The kernel's matrix products (R173): PAIR 0x0 and PAIR 0x3 as the array forms them (R62, R80, R81). -/

/-- Products added to an accumulator element in order, one contribution each (PAIR 0x0). -/
def dotHalf (ts : Mag) (c : F32 × Nsw) (xs : List (FVal × FVal)) : F32 × Nsw :=
  xs.foldl (fun a p =>
    let t := contribution [p] ts
    let y := accAdd a.1 t.1
    (y.1, a.2 ||| t.2 ||| y.2)) c

/-- An HB16 element of a list, `+0` beyond its end. -/
def hbAt (xs : List HB16) (k : Nat) : FVal := fmt16.decode (xs.getD k 0).toNat

/-- A BD8 row against a BD4 row, a contribution for each block (PAIR 0x3). -/
def dotBead (ts : Mag) (sa a sb b : List Nat) : F32 × Nsw :=
  (upto sa.length).foldl (fun x j =>
    let u := sa.getD j 0
    let w := sb.getD j 0
    let t : F32 × Nsw := if u = 0 || w = 0 then (0, 0)
      else contribution ((upto 32).map (fun i =>
        let p := bd8.value (a.getD (32 * j + i) 0)
        let q := bd4.value (b.getD (32 * j + i) 0)
        (.fin (decide (p < 0)) p.natAbs (-6), .fin (decide (q < 0)) q.natAbs (-3)))) (ts.mul (Mag.quarter ((u + w : Nat) - 256)))
    let y := accAdd x.1 t.1
    (y.1, x.2 ||| t.2 ||| y.2)) (0, 0)

/-- Values of a list of results, and their flags together. -/
def withFlags (xs : List (F32 × Nsw)) : List F32 × Nsw := (xs.map (·.1), xs.foldl (fun a x => a ||| x.2) 0)

/-- The student's logits of a token: zs = h_S x W_S (R173). -/
def kcStudentRow (call : KernelCall) (v t : Nat) : List F32 × Nsw :=
  let h := call.hS.getD t []
  let ts := (f32mag call.tsH).mul (f32mag call.tsW)
  withFlags ((upto v).map (fun i =>
    dotHalf ts (0, 0) ((upto h.length).map (fun k => (hbAt h k, hbAt (call.wS.getD i []) k)))))

/-- A stream record's hidden state of a token, encoded into BD8 with the TS of TY_HT_SLOT: block scales, codes, measurements
(R173). -/
def State.htRow (s : State) (n a t : Nat) (ts : F32) : List Nat × List Nat × ConvAcc :=
  let h := s.o (kTY_HIDDEN n)
  encodeRow bd8 ts (fun _ => .rne) ((upto h).map (fun i =>
    some (fmt16.decode (leNat (mread s.decks.ud (a + 64 + 2 * (t * h + i)) 2)))))

/-- The teacher's logits of a token: zt = a x W_T (R173). -/
def State.teacherRow (s : State) (n a t : Nat) (ts : F32) (call : KernelCall) (v : Nat) : List F32 × Nsw :=
  let en := s.htRow n a t ts
  withFlags ((upto v).map (fun i =>
    dotBead ((f32mag ts).mul (f32mag call.tsT)) en.1 en.2.1 (call.sbT.getD i []) (call.wT.getD i [])))

/-- dh_S of a token: the logit gradient against W_S, entries ascending (R173). -/
def kcHiddenGrad (call : KernelCall) (t : Nat) (gh : List HB16) : List F32 × Nsw :=
  withFlags ((upto (call.hS.getD t []).length).map (fun k =>
    dotHalf (f32mag call.tsW) (0, 0) ((upto gh.length).map (fun i => (hbAt gh i, hbAt (call.wS.getD i []) k)))))

/-- dW_S of vocabulary entry `i`: the gradients of the tokens against h_S, tokens ascending (R173). -/
def kcProjGrad (call : KernelCall) (ghs : List (List HB16)) (i : Nat) : List F32 × Nsw :=
  withFlags ((upto ((call.wS.getD i []).length)).map (fun k =>
    dotHalf (f32mag call.tsH) (0, 0) ((upto ghs.length).map (fun t =>
      (hbAt (ghs.getD t []) i, hbAt (call.hS.getD t []) k)))))

/-- The kernel's work on a record at physical address `a` (R173 to R178). -/
def State.kernel (s : State) (rod p n i a : Nat) (r : Record) (f : PublishCall) (call : KernelCall) : State :=
  let bad := s.recordBad n a r f
  let l := s.lossScale p f.step
  let nan : F32 := 0x7FC00000
  let v := s.o (kTY_VOCAB n)
  let c := kMul (kDiv (kVal 0x3F800000) (kVal r.temp)) (kVal f32Log2e)
  let k := kDiv (kMul (kVal l) (kVal r.weight)) (kMul (kVal r.temp) (kVal (f32ofNat (s.o (kTY_STEP_TOKENS n)))))
  let stream := s.tyStream n
  let slot := s.o (kTY_HT_SLOT n)
  let (s, ts) := if stream then s.supply p slot else (s, 0x3F800000)
  let rows := (upto f.tokens).map (fun t =>
    let zs := kcStudentRow call v t
    let zt := if stream then s.teacherRow n a t ts call v else ([], 0)
    let ys := zs.1.map (fun z => kMul (kVal z) c)
    let ls := rowLse ys
    let yt :=
      if stream then
        let y := zt.1.map (fun z => kMul (kVal z) c)
        let lt := rowLse y
        y.map (fun v => kSub v lt)
      else (s.holdRow n a t).map (fun v => kMul v (kVal f32Log2e))
    let g := tokenLoss k yt (ys.map (fun v => kSub v ls))
    let out := if bad then g.1.map (fun _ => nan) else g.1.map (·.1)
    (s.gradRow p call.draw t out, g.2, zs.2 ||| zt.2 ||| kFlags g.1))
  let ghs := rows.map (fun e => e.1.1)
  let dh := ghs.zipIdx.map (fun e => kcHiddenGrad call e.2 e.1)
  let dw := (upto v).map (kcProjGrad call ghs)
  let sum := rows.foldl (fun a e => kAdd a e.2.1) (kVal 0)
  let kl := if bad then nan else sum.1
  let acc := rows.foldl (fun a e => a.join e.1.2) ({} : ConvAcc)
  let ft := if f.feat then s.featLoss p n a f.tokens l call bad else (0, [], 0)
  let ht := if stream then (upto f.tokens).foldl (fun x t => x.join (s.htRow n a t ts).2.2) ({} : ConvAcc) else {}
  let nsw := (dh ++ dw).foldl (fun x e => x ||| e.2) (rows.foldl (fun x e => x ||| e.2.2) (acc.nsw ||| ft.2.2 ||| ht.nsw ||| sum.2))
  let s := match s.recordUncorr n a f with
    | some x => s.errRec (uncorrRec p x)
    | none => s
  let s := s.setRod rod { s.rod rod with grad := ghs, featGrad := ft.2.1, gradHidden := dh.map (·.1), gradProj := dw.map (·.1) }
  let s := s.orNsw p nsw
  let s := if stream then s.record p slot ht else s
  let y := s.pairing n
  let s := s.setPairing n { y with contrib := insertContrib (i, f.seq, kl, ft.1) y.contrib }
  if bad then (s.addO 32 (kTY_BAD_RECORDS n) 1).releaseNow n i p f.seq else s

/-- LOSS_KERNEL (R172 to R178): the student's bound context works on a record it holds; a call for another record is
answered as RELEASE answers it (R169), a TS that breaks R48 with SCALE_INVALID. -/
def execLossKernel (rod : Nat) (call : KernelCall) (s : State) : Out :=
  if !s.issues rod then .next s
  else
    let p := s.owner rod
    match s.tallyCaller rod, s.runCmd p with
    | some (n, i), some c =>
      let k := i.getD 0
      let bad := lowest
        [(s.resident p ≠ 0 || i.isNone, stTY_NOT_BOUND),
         (!c.holds.contains call.seq, stTY_SEQ_RANGE),
         (s.tyState n == tyCLOSING, stTY_DETACHED), (s.tyState n == tyBROKEN, stTY_TEACHER_LOST),
         (!scaleOk call.tsH || !scaleOk call.tsW || (s.tyStream n && !scaleOk call.tsT), stSCALE_INVALID)]
      if bad ≠ 0 then .next (s.failRod rod bad)
      else match (s.pairing n).rec? call.seq with
        | none => .next s
        | some r =>
          match r.fields, s.udPhys p (s.slotAddrFor n k call.seq) 64 false with
          | some f, some a => .next (s.kernel rod p n k a r f call)
          | _, none => .next (s.failRod rod stDECK_RANGE)
          | none, _ => .next s
    | _, _ => .next (s.failRod rod (if s.resident p ≠ 0 then stTY_NOT_BOUND else stTY_DETACHED))

/-! Harvest (R186 to R192). -/

/-- Record size under the harvest settings (R187). -/
def State.hvSize (s : State) (p : Nat) : Nat :=
  64 + 9 * payload0 (s.o (kTY_HV_FORM p) == 1) (s.o (kTY_HV_HIDDEN p)) (s.o kSV_VOCAB)

/-- Why TY_HV_ENABLE may not be set (R188, R192). -/
def State.hvBad (s : State) (p : Nat) : Bool :=
  let base := s.o (kTY_HV_BASE p)
  let len := s.o (kTY_HV_BYTES p)
  let buf := s.o (kTY_HV_BUF p)
  let bl := s.o (kTY_HV_BUF_BYTES p)
  let h := s.o (kTY_HV_HIDDEN p)
  len == 0 || !s.ldSpanOk p base len || base % 4096 != 0 || len % 4096 != 0
    || !(decide (2 ^ 20 ≤ bl) && decide (bl ≤ 2 ^ 28) && bl % 64 == 0) || (s.udPhys p buf bl true).isNone
    || decide (bl < s.hvSize p)
    || !f32In (BitVec.ofNat 32 (s.o (kTY_HV_TEMP p))) 0x3E800000 0x41800000
    || (if s.o (kTY_HV_FORM p) == 1 then !(h % 64 == 0 && decide (1024 ≤ h) && decide (h ≤ 32768))
        else !f32In (BitVec.ofNat 32 (s.o (kTY_HV_LOGP_FLOOR p))) 0xC2800000 0xBF800000 || s.o kSV_VOCAB == 0)

/-- A write of TY_HV_ENABLE (R189, R192). -/
def State.hvEnable (s : State) (path : Path) (p value : Nat) : State × Nat :=
  if 2 ≤ value then (s, invalidParam path)
  else if value = 0 then (s.setO (kTY_HV_ENABLE p) 0, 0)
  else if s.hvBad p then (s, stTY_CONFIG)
  else if s.o (kTY_HV_ENABLE p) = 1 then (s.setO (kTY_HV_RSIZE p) (s.hvSize p), 0)
  else
    let s := (s.setO (kTY_HV_ENABLE p) 1).setO (kTY_HV_RSIZE p) (s.hvSize p)
    ((s.setO (kTY_HV_HEAD p) 0).setHarvest p {}, 0)

/-- HARVEST_RECORD_COPY (R147, R188, R189): the oldest captured record moves from the buffer to the region. -/
def execHarvestRecordCopy (part : Nat) (s : State) : Out :=
  let h := s.harvest part
  match h.buf with
  | [] => .next s
  | off :: rest =>
    let size := s.o (kTY_HV_RSIZE part)
    let over_ := s.o (kTY_HV_BYTES part) < s.o (kTY_HV_HEAD part) + size
    let wrap := s.o (kTY_HV_FULL part) == 1
    let s := s.setHarvest part { h with buf := rest }
    if over_ && !wrap then
      .next ((s.setHarvest part { h with buf := rest, stopped := true }).addO 64 (kTY_HV_DROPPED part) 1)
    else
      let s := if over_ then (s.setO (kTY_HV_HEAD part) 0).addO 32 (kTY_HV_WRAPS part) 1 else s
      let head := s.o (kTY_HV_HEAD part)
      match s.udPhys part (s.o (kTY_HV_BUF part) + off) size false with
      | none => .next (s.addO 64 (kTY_HV_DROPPED part) 1)
      | some a =>
        -- an unreadable word ends the copy: the units before it stay, and the record is not captured (R147, log entry 40)
        let k := s.decks.readable a size
        let s := s.ldWrite part (s.o (kTY_HV_BASE part) + head) (s.decks.udRead a (k - k % 64))
        if k < size then .next ((s.errRec (uncorrRec part (a + k))).addO 64 (kTY_HV_DROPPED part) 1)
        else .next ((s.setO (kTY_HV_HEAD part) (head + size)).addO 64 (kTY_HV_RECORDS part) 1)

end Sys2Proof.Machine
end

