-- ==== Sys2Proof/Machine/Events.lean ====
section
/-! DEFINITION. Events scheduled for a stroke number, and their order at the start of a stroke (R358, R359). -/

namespace Sys2Proof.Machine

open Sys2Proof

/-- An event scheduled for a stroke number (R359 step 4): partners tested again (R279), routes that expire and are advertised (R294),
links that recover or leave quarantine (R291, R292), tally waits that stall or end their command (R177), drains abandoned (R183),
group, bucket and verdict timeouts (R243, R263), mirror copies that their next schedule overtakes (R269). -/
inductive Due where
  | retest
  | expiry (node l : Nat)
  | advert
  | recovery (l : Nat)
  | quarantine (l : Nat)
  | stall (rod : Nat)
  | abort (rod : Nat)
  | drain (n : Nat)
  | form (p g : Nat)
  | bucket (id : Nat)
  | verdict (p g : Nat)
  | copy (p : Nat)
  deriving DecidableEq, Repr

/-- A copy under way when its client's next scheduled stroke comes is abandoned (R269). -/
def State.abandonCopy (s : State) (p : Nat) : State :=
  if (s.mirror p).copy.isNone then s
  else
    (s.setMirror p { s.mirror p with copy := none, hdr := [] }).errRec { cls := 0, code := rcCY_MIRROR_FAILED, part := p }

/-- Carry out an event; one whose cause an earlier one has removed does nothing. -/
def State.fire (s : State) : Due → State
  | .retest => s.retestPeers
  | .expiry n l => s.expireVia n l
  | .advert => s.advertise
  | .recovery l => s.recover l
  | .quarantine l => s.endQuarantine l
  | .stall r => s.waitStalled r
  | .abort r => s.waitAborted r
  | .drain n => s.drainLate n
  | .form p g => s.formLate p g
  | .bucket id => s.bucketLate id
  | .verdict p g => s.verdictLate p g
  | .copy p => s.abandonCopy p

/-- Insert by scheduled number, then by the object that scheduled the event (R359 step 4). -/
def insertDue (x : Nat × Nat × Due) : List (Nat × Nat × Due) → List (Nat × Nat × Due)
  | [] => [x]
  | y :: t => if x.1 < y.1 || (x.1 == y.1 && decide (x.2.1 ≤ y.2.1)) then x :: y :: t else y :: insertDue x t

/-- Rods whose tally waits count strokes: running, or saved with a bound context (R177). -/
def State.tallyWaiters (s : State) : List Nat :=
  ((s.rods.filter (fun q => (waitPairing q.2.wait).isSome)).map (·.1)
    ++ (upto 16).flatMap (fun p => ((s.ctx p 0).savedRods.filter (fun q => (waitPairing q.2.wait).isSome)).map (·.1))).eraseDups

/-- Due optical events; those that no object schedules stand under the object that reports them (log entry 178). -/
def State.dueOptical (s : State) : List (Nat × Nat × Due) :=
  let live := (upto 64).filter s.linkLive
  (if s.op.retest then [(s.stroke, kOP_ALLOW_EN, Due.retest)] else [])
    ++ s.op.routes.flatMap (fun r => r.vias.filterMap (fun v =>
        v.seen.map (fun t => (t + 400, kOP_ROUTES, Due.expiry r.node v.link))))
    ++ (if live.isEmpty then [] else [(if s.op.changed then s.stroke else s.op.advAt + 100, kOP_ROUTE_COUNT, Due.advert)])
    ++ (live.filter (fun l => s.lkState l == lkDEGRADED && (s.link l).narrow == 0)).map (fun l =>
        (max (s.link l).lastHit (s.link l).sinceStroke + 10000, kOP_LINK_STATE l, Due.recovery l))
    ++ (live.filter (fun l => s.lkState l == lkQUARANTINED)).map (fun l => ((s.link l).quarEnd, kOP_QUAR_STROKES, Due.quarantine l))

/-- Due tally events. -/
def State.dueTally (s : State) : List (Nat × Nat × Due) :=
  s.tallyWaiters.flatMap (fun rod =>
    match s.tallyWaiter rod with
    | none => []
    | some r =>
      match waitPairing r.wait with
      | none => []
      | some n =>
        let ev (key : Nat) (d : Due) : List (Nat × Nat × Due) :=
          if s.o key = 0 then [] else [(s.stroke - r.waitStrokes + s.o key, key, d)]
        (if r.stalled then [] else ev (kTY_STALL_STROKES n) (.stall rod)) ++ ev (kTY_ABORT_STROKES n) (.abort rod))
    ++ (upto 8).filterMap (fun n =>
      match (s.pairing n).move with
      | some m => if s.tyState n = tyDRAINING then some (m.strokeB + s.o (kTY_REBAL_LIMIT n), kTY_REBAL_LIMIT n, Due.drain n) else none
      | none => none)

/-- Due carry events. -/
def State.dueCarry (s : State) : List (Nat × Nat × Due) :=
  (upto 64).filterMap (fun k =>
      if s.cyState (k / 4) (k % 4) = cyFORMING then
        some ((s.group (k / 4) (k % 4)).formAt + s.o (kCY_FORM_STROKES k), kCY_FORM_STROKES k, Due.form (k / 4) (k % 4))
      else none)
    ++ (s.cy.buckets.filter (fun b => b.ownAt != 0)).map (fun b =>
        let k := 4 * b.part + b.g
        (b.ownAt - 1 + s.o (kCY_TIMEOUT_STROKES k), kCY_TIMEOUT_STROKES k, Due.bucket b.id))
    ++ (upto 64).filterMap (fun k =>
      ((s.group (k / 4) (k % 4)).exchs.find? (fun e => e.at_ != 0)).map (fun e =>
        (e.at_ - 1 + s.o (kCY_TIMEOUT_STROKES k), kCY_TIMEOUT_STROKES k, Due.verdict (k / 4) (k % 4))))
    ++ ((upto 16).filter (fun p => (s.mirror p).copy.isSome)).map (fun p =>
        (s.o (kCY_MIRROR_NEXT p), kCY_MIRROR_NEXT p, Due.copy p))

/-- Step 4 of a stroke start (R359): `k` is how far the number has risen; every event scheduled for a number at or below the new one
fires, in ascending number, then in ascending object. -/
def State.strokeEvents (s : State) (k : Nat) : State :=
  let s := s.countWaits k
  let due := (s.dueOptical ++ s.dueTally ++ s.dueCarry).filter (fun e => decide (e.1 ≤ s.stroke))
  (due.foldr insertDue []).foldl (fun (s : State) e => s.fire e.2.2) s

end Sys2Proof.Machine
end

