-- ==== Sys2Proof/Machine/FaultOps.lean ====
section
/-! DEFINITION. The fatal-device state (R464, R467) and the loss of the volatile state (R469, R372). -/

namespace Sys2Proof.Machine

open Sys2Proof

def winCLOSED : Nat := 0
def winFILLING : Nat := 1
def winOPEN : Nat := 2

/-- An access to the window while it is closed: all ones on a read, no effect on a write (R397). -/
def State.winRefused (s : State) (a : WinAccess) : State :=
  match a.write with
  | some _ => s
  | none => { s with host := { s.host with winOut := s.host.winOut ++ [(a.off, List.replicate 64 0xFF)] } }

/-- The window closes (R380, R467); accesses that waited for a fill complete as those to a closed window do. -/
def State.closeWindow (s : State) : State :=
  let w := s.host.winWait
  let s := { s with host := { s.host with winWait := [] } }
  (w.foldl State.winRefused s).setO kCQ_WIN_STATE winCLOSED

/-- Every stage, pass and bucket, and the mesh traffic of the engines, ends without further writes (R467). -/
def State.dropWork (s : State) : State :=
  let r := s.reck
  let c := s.cy
  let s := { s with reck := { r with q := [], tensors := [], roots := [], ready := [], installed := [] }
                    cy := { c with buckets := [], tiles := [] }
                    mesh := { s.mesh with vc0 := [], vc2 := [] } }
  (upto 16).foldl (fun s p => s.setPart p { s.part p with stageQ := [] }) s

/-- Entry into the fatal-device state (R467): running commands, stages, passes and buckets end, every waiting command
completes with DEVICE_FATAL, links go dark, the window closes, the host is told. -/
def State.enterFatal (s : State) : State :=
  if s.fatal then s
  else
    let s := (s.setO kERR_FATAL_DEVICE 1).dropWork
    let s := (upto 16).foldl (fun s p => s.endAllRuns p stDEVICE_FATAL) s
    let s := s.rods.foldl (fun s q => s.setRod q.1 q.2.stop) s
    let s := s.host.live.foldl (fun (s : State) l => s.completeLive l.id stDEVICE_FATAL 0 0) s
    let s := (upto 64).foldl (fun s l => if s.lkState l = lkABSENT then s else s.toAbsent l) s
    let s := s.closeWindow
    let h := s.host
    let s := { s with host := { h with ras := h.ras ++ [(2, 0)], msgs := h.msgs ++ [1] } }
    (upto 17).foldl (fun s f => (upto 64).foldl (fun s q => s.flushQueue f q) s) s

/-- A fatal-device record and what the part does after it (R464, R467). -/
def State.fatalRec (s : State) (r : ErrRec) : State := (s.errRec { r with cls := 4 }).enterFatal

/-- What is left when the part has lost its volatile state (R469): flash, with the persistent objects whose commit was done
and none of them once DEFAULTS was written (R405), fuses and banks (R432, R433), ERR_PERSIST (R466), and after a device
reset ERR_RING with ERR_SEQ; its sensors, and what it has sent. Every key is gone (R139). -/
def State.lost (s : State) (cause : Nat) (keepRing : Bool) : State :=
  let b := s.boot
  let g := s.decks.keysDrawn + 1
  let st := s.st
  { pending := s.pending, draws := s.draws, ns := s.ns, rodTenths := s.rodTenths
    decks := { keysDrawn := g, ldBase := g }
    cy := { sent := s.cy.sent }
    op := { out := s.op.out }
    st := { vin := st.vin, vinOk := st.vinOk, vinLow := st.vinLow, vinHigh := st.vinHigh, vinIn := st.vinIn, tj := st.tj }
    host := { mem := s.host.mem, irqs := s.host.irqs, msgs := s.host.msgs, winOut := s.host.winOut
              spdmOut := s.host.spdmOut, barOut := s.host.barOut, ideDrawn := s.host.ideDrawn }
    ring := { out := s.ring.out, fwd := s.ring.fwd }
    mon := { out := s.mon.sent s.ns }
    errs := if keepRing then s.errs else { persist := s.errs.persist }
    boot := { banks := if s.flash.defaults then b.banks.map (fun q => (q.1, { q.2 with objs := [] })) else b.banks
              minSvn := b.minSvn, revoked := b.revoked, romLevels := b.romLevels, cause := cause, at_ := s.ns } }

end Sys2Proof.Machine
end

