-- ==== Sys2Proof/Machine/StrokeOps.lean ====
section
/-! DEFINITION. The start of a stroke (R356 to R359), the energy ledger (R363, R366, R369) and the level limits (R362, R367,
R371 to R373, R475). -/

namespace Sys2Proof.Machine

open Sys2Proof

def tbWAITING : Nat := 0
def tbLOCKED : Nat := 1
def tbHOLDOVER : Nat := 2
def tbREJOIN : Nat := 3


/-- The stroke timebase runs while the management firmware does (R356, R438). -/
def State.timebaseUp (s : State) : Bool := s.dictUp

/-! Levels. -/

/-- PW_LEVEL_CAUSE (R362): the lowest code of a limit that gives the level. -/
def State.levelCause (s : State) : Nat :=
  let l := s.level
  if s.st.sched = l then 0 else if s.st.plan = l then 1 else if s.st.governor = l then 2
  else if s.st.thermal = l then 3 else 4

/-- A limit has changed: the record of the stroke notes the lowest level and the limits in force (R369). -/
def State.noteLevel (s : State) : State :=
  let st := s.st
  { s with st := { st with curMin := min st.curMin s.level
                           curThermal := st.curThermal || decide (st.thermal < 24)
                           curGovernor := st.curGovernor || decide (st.governor < 24) } }

/-- Used entries of PW_CLOCK_PLAN: stroke and cap (R475). -/
def State.planUsed (s : State) : List (Nat × Nat) :=
  ((upto 16).map (fun i => (s.blobNum kPW_CLOCK_PLAN (16 * i) 8, (s.blob kPW_CLOCK_PLAN (16 * i + 8)).toNat))).filter
    (fun e => e.2 != 0xFF)

/-- The clock-plan limit once stroke `n` has begun (R475). -/
def State.planLimit (s : State) (n : Nat) : Nat :=
  let begun := s.planUsed.filter (fun e => decide (e.1 ≤ n))
  let last := begun.foldl (fun m e => max m e.1) 0
  (begun.filter (fun e => e.1 == last)).foldl (fun m e => min m e.2) 24

/-- Sum of the samples of the last 10 ms in mW, and their number (R371). -/
def avgAbove (power : List Nat) (mw : Nat) : Bool := decide (mw * power.length < power.sum)

/-- Scheduled level S of a stroke (R367): `lo`, `hi` the floor and the maximum, `waited` the queue was not empty in the
stroke just ended, `full` the refreshed balance holds a full allowance. -/
def nextSched (slow waited full : Bool) (lo hi old : Nat) : Nat :=
  let s := max lo (min hi old)
  if !slow then hi
  else if waited then max lo (s - 1)
  else if full then min hi (s + 1)
  else s

/-- Greatest junction reading of the dies (R373), tenths of a degree. -/
def State.junction (s : State) : Nat := (upto 16).foldl (fun m d => max m (tget 0 s.st.tj d)) 0

/-! The ledger record (R369). -/

/-- E in whole mJ, rounded towards minus infinity and saturating, as the 32 bits of an I32. -/
def balanceMj (e : Int) : Nat :=
  let x := max (-2147483648) (min 2147483647 (Int.fdiv e 1000))
  (x % 4294967296).toNat

def bnat (b : Bool) : Nat := if b then 1 else 0

/-- The record of the stroke just ended. -/
def Strokes.record (t : Strokes) (n : Nat) : BitVec 256 :=
  BitVec.ofNat 256
    (bnat t.curHold + 2 * bnat t.curWait + 4 * bnat t.curGovernor + 8 * bnat t.curThermal + 16 * bnat t.curSkip
      + 32 * bnat t.curClamped + min 255 (t.curTj / 10) * 2 ^ 40 + (t.curStart % 256) * 2 ^ 48 + (t.curMin % 256) * 2 ^ 56
      + balanceMj t.balance * 2 ^ 64 + min 0xFFFFFFFF (t.curMeasured / 1000) * 2 ^ 96
      + min 0xFFFFFFFF t.curDebit * 2 ^ 128 + min 0xFFFFFFFF t.curGrant * 2 ^ 160 + (n % 2 ^ 64) * 2 ^ 192)

/-! Steps of a stroke start (R359). -/

/-- Step 1: the energy ledger is refreshed (R363, R366); `g` is the grant in µJ, of a ring frame or of a holdover stroke. -/
def State.refreshLedger (s : State) (g : Nat) (ring : Bool) : State :=
  let p := s.o kST_PERIOD_US
  let over_ := ring && decide (6400 * p < g)
  let g := min g (6400 * p)
  let a : Int := (g : Int) - ((s.o kPW_BASE_W * p : Nat) : Int)
  let t := s.st
  let e := min t.balance ((s.o kST_CARRY_UJ : Nat) : Int) + a
  let s := if over_ then s.addO 32 kST_GRANT_CLAMPED 1 else s
  { s with st := { t with period := p, balance := e, allow := some a, curGrant := g, curClamped := over_ } }

/-- Step 2: the levels of stroke `n` (R362, R367, R371, R475); `waited` as in R367. -/
def State.setLevels (s : State) (n : Nat) (waited : Bool) : State :=
  let t := s.st
  let hi := s.o kPW_LEVEL_MAX
  let lo := s.o kPW_LEVEL_FLOOR
  let pol := s.o kPW_POLICY
  let full := match t.allow with | some a => decide (max a 1 ≤ t.balance) | none => false
  let gov := if !avgAbove t.power 6080000 && !t.overs then min 24 (t.governor + 1) else t.governor
  { s with st := { t with sched := nextSched (pol == 1) waited full lo hi t.sched
                          plan := s.planLimit n
                          governor := gov, overs := false } }

/-- Step 5: the record of the stroke just ended is written at ST_LEDGER_HEAD, which advances (R369). -/
def State.writeLedger (s : State) (rec : BitVec 256) : State :=
  let h := s.o kST_LEDGER_HEAD
  let t := s.st
  { s with st := { t with ledger := tset 0 t.ledger h rec } }.setO kST_LEDGER_HEAD ((h + 1) % 256)

/-- Stroke `n` begins (R357 to R359): grant `g` in µJ, from a ring frame or as a holdover stroke, after `skips` numbers that
begin no stroke. Scheduling decisions follow. -/
def State.beginStroke (s : State) (n g : Nat) (hold : Bool) (skips : Nat) : State :=
  let old := s.st
  let m := s.stroke
  let s := s.setO kST_NUMBER (n % 2 ^ 64)
  let s := s.refreshLedger g (!hold)
  let s := s.setLevels n (old.begun && old.curWait)
  let s := s.refillBudgets
  let s := s.strokeEvents (if old.begun then n - m else 0)
  let s := if old.begun then s.writeLedger (old.record m) else s
  let s := if hold then
      (upto 16).foldl (fun s p => if s.running p then s.setNum p { s.num p with holdover := true } else s)
        (s.addO 64 kST_HOLDOVER_STROKES 1)
    else s
  let s := s.addO 64 kST_SKIPPED skips
  let t := s.st
  let l := s.level
  let s := { s with st := { t with
    begun := true, beganAt := s.ns, curDebit := 0, curMeasured := 0, curMin := l, curStart := l, curTj := s.junction
    curSkip := decide (0 < skips), curThermal := decide (t.thermal < 24), curGovernor := decide (t.governor < 24)
    curWait := !t.queue.isEmpty, curHold := hold } }
  s.pollAll

/-- A holdover stroke (R357). -/
def State.holdoverStroke (s : State) (n : Nat) : State :=
  (s.setO kST_STATE tbHOLDOVER).beginStroke n (s.o kST_HOLDOVER_W * s.o kST_PERIOD_US) true 0

/-- At most one ST_TIMEBASE_CONFLICT record in 1,000 strokes (R357). -/
def State.timebaseConflict (s : State) : State :=
  if s.st.conflictAt ≠ 0 && decide (s.stroke + 1 < s.st.conflictAt + 1000) then s
  else
    { s with st := { s.st with conflictAt := s.stroke + 1 } }.errRec { cls := 0, code := rcST_TIMEBASE_CONFLICT }

/-- A valid stroke frame with number `n` and grant `g` in mJ (R357). -/
def State.strokeFrame (s : State) (n g : Nat) : State :=
  let m := s.stroke
  let s := { s with st := { s.st with frameAt := s.ns } }
  let st := s.o kST_STATE
  if st = tbWAITING then (s.setO kST_STATE tbLOCKED).beginStroke n (1000 * g) false 0
  else if m < n then (s.setO kST_STATE tbLOCKED).beginStroke n (1000 * g) false (n - m - 1)
  else
    let s := s.addO 32 kST_STALE 1
    if st = tbHOLDOVER then
      if m ≤ n + s.o kST_REJOIN_MAX then s.setO kST_STATE tbREJOIN else s.timebaseConflict
    else s

/-! Limits. -/

/-- The governor limit falls `k` levels below the effective level (R371). -/
def State.governDown (s : State) (k : Nat) : State :=
  { s with st := { s.st with governor := s.level - k } }.noteLevel

end Sys2Proof.Machine
end

