-- ==== Sys2Proof/Machine/FwOps.lean ====
section
/-! DEFINITION. Firmware images and banks (R431 to R437), measurement (R440, R441), interface levels (R447 to R449), and
firmware update (R451 to R454). -/

namespace Sys2Proof.Machine

open Sys2Proof

/-! Images (R431 to R435). -/

/-- An area of a flash device. -/
structure FlashArea where
  offset : Nat
  size : Nat
  deriving DecidableEq, Repr

/-- The layout of each flash device (R433): the bank record, the slots of images 1 to 5, the persistent object copy and the identity
area; the rest of its 128 MiB is reserved. -/
def flashRecords : FlashArea := ⟨0x0000000, 2 ^ 20⟩

def flashSlot (i : Nat) : FlashArea :=
  match i with
  | 1 => ⟨0x0100000, 4 * 2 ^ 20⟩
  | 2 => ⟨0x0500000, 16 * 2 ^ 20⟩
  | 3 => ⟨0x1500000, 4 * 2 ^ 20⟩
  | 4 => ⟨0x1900000, 8 * 2 ^ 20⟩
  | _ => ⟨0x2100000, 32 * 2 ^ 20⟩

def flashObjects : FlashArea := ⟨0x4100000, 16 * 2 ^ 20⟩
def flashIdentity : FlashArea := ⟨0x5100000, 2 ^ 20⟩

/-- Largest body of an image's slot: all of it but the header (R431, R434). -/
def bodyLimit (i : Nat) : Nat := (flashSlot i).size - 1024

/-- The image whose header and following bytes are given (R434). -/
def parseImage (hdr : List Byte) (body : Nat → List Byte) : Image :=
  let num (a n : Nat) : Nat := leNat ((hdr.drop a).take n)
  let key := num 6 1 % 16
  let len := num 8 4
  let digest := BitVec.ofNat 256 (num 24 32)
  { magicOk := num 0 4 == 0x314D5647
    hdrVersion := num 5 1
    imageId := num 4 1
    len := len
    keyIdx := key
    sigOk := Config.pssVerify (Config.imageKey key) (hdr.take 512) ((hdr.drop 512).take 384)
    svn := num 12 4
    version := num 16 8
    digest := digest
    bodyOk := digestOf (body len) == digest
    levels := (upto 16).map (fun k => BitVec.ofNat 64 (num (56 + 8 * k) 8))
    measure := digestOf (hdr.take 512) }

/-- Image states of FW_IMAGES (R458). -/
def imEMPTY : Nat := 0
def imUSABLE : Nat := 1
def imSIGNATURE : Nat := 2
def imSVN : Nat := 3
def imDIGEST : Nat := 4
def imWRITING : Nat := 5
def imHEADER : Nat := 6

/-- The first condition of R435 that a copy of image `i` fails, as FW_IMAGES reports it. -/
def State.imageState (s : State) (i : Nat) : Option Image → Nat
  | none => imEMPTY
  | some x =>
    if !x.magicOk || x.hdrVersion ≠ 1 || x.imageId ≠ i || x.len = 0 || bodyLimit i < x.len || 3 < x.keyIdx then imHEADER
    else if tget false s.boot.revoked x.keyIdx || !x.sigOk then imSIGNATURE
    else if x.svn < tget 0 s.boot.minSvn i || 64 < x.svn then imSVN
    else if !x.bodyOk then imDIGEST
    else imUSABLE

def State.bank (s : State) (b : Nat) : Bank := tget {} s.boot.banks b
def State.setBank (s : State) (b : Nat) (v : Bank) : State :=
  { s with boot := { s.boot with banks := tset {} s.boot.banks b v } }
def Bank.slot (b : Bank) (i : Nat) : Option Image := tget none b.slots i

/-- State of a slot (R451, R458): first one that is being written, or is incomplete in a bank that is WRITING. A slot left incomplete in
any other bank reads as erased (DESIGN CHOICE, log entry 96). -/
def State.copyState (s : State) (b i : Nat) : Nat :=
  if (s.bank b).writing.contains i && (s.bank b).state = 2 then imWRITING else s.imageState i ((s.bank b).slot i)

/-! Boot (R436, R437). -/

/-- The preferred bank is chosen and its trial counted down (R436). -/
def State.chooseBank (s : State) : State :=
  let drop (s : State) (b : Nat) : State :=
    let x := s.bank b
    if x.state = 1 && x.tries = 0 then s.setBank b (x.writeRec 3 x.gen 0) else s
  let s := drop (drop s 0) 1
  let a := s.bank 0
  let b := s.bank 1
  let pref := if b.state = 1 && (a.state ≠ 1 || decide (a.gen < b.gen)) then 1 else 0
  let x := s.bank pref
  let s := if 1 ≤ x.tries && x.tries ≤ 3 then s.setBank pref (x.writeRec x.state x.gen (x.tries - 1)) else s
  s.setO kFW_PREFERRED pref

/-- TRIES of the preferred bank (R458). -/
def State.tries (s : State) : Nat := (s.bank (s.o kFW_PREFERRED)).tries

/-- Image `i` is loaded: the preferred bank's copy if it is usable, otherwise the other bank's (R437); measured into its
register (R440). False if there is none. -/
def State.extend (s : State) (k : Nat) (value : BitVec 256) : State :=
  let old : BitVec 256 := tget 0 s.boot.regs k
  { s with boot := { s.boot with
      regs := tset 0 s.boot.regs k (digestOf (leBytes 32 old.toNat ++ leBytes 32 value.toNat)) } }

def State.loadImage (s : State) (i : Nat) : State × Bool :=
  let pref := s.o kFW_PREFERRED
  let from_ (b : Nat) : State :=
    let img := (s.bank b).slot i
    let x := s.boot
    let s := { s with boot := { x with source := tset 0 x.source i (b + 1), loaded := tset none x.loaded i img } }
    match img with
    | some m => s.extend i m.measure
    | none => s
  if s.copyState pref i = imUSABLE then (from_ pref, true)
  else if s.copyState (1 - pref) i = imUSABLE then
    ((from_ (1 - pref)).setO kFW_FALLBACK (s.o kFW_FALLBACK ||| 2 ^ (i - 1)), true)
  else (s, false)

/-- Interfaces checked at boot, with their two images (R447). -/
def bootPairs : List (Nat × Nat × Nat) := [(1, 0, 1), (2, 1, 2), (3, 2, 3), (4, 2, 4), (5, 2, 5)]

/-- The boot record (R440). -/
def State.bootRecordBytes (s : State) : List Byte :=
  leBytes 1 (s.o kFW_PREFERRED) ++ leBytes 1 (s.o kFW_FALLBACK) ++ leBytes 1 s.tries ++ leBytes 1 0
    ++ leBytes 4 (s.o kFW_RESTRICT_CAUSE) ++ (upto 5).flatMap (fun i => leBytes 4 (tget 0 s.boot.minSvn (i + 1)))
    ++ List.replicate 36 0

/-- Causes of restricted mode (R449). -/
def causeLEVEL : Nat := 1
def causeIMAGE : Nat := 2
def causeIDENTITY : Nat := 4

def State.addCause (s : State) (c : Nat) : State := s.setO kFW_RESTRICT_CAUSE (s.o kFW_RESTRICT_CAUSE ||| c)

/-- Pairs of images, both loaded, whose levels disagree at boot (R448). -/
def State.badPairs (s : State) : List (Nat × Nat × Nat) :=
  let has (i : Nat) : Bool := i == 0 || (tget none s.boot.loaded i).isSome
  bootPairs.filter (fun q => has q.2.1 && has q.2.2
    && !levelsAgree (levelEntry (s.imageLevels q.2.1) q.1) (levelEntry (s.imageLevels q.2.2) q.1))

/-- Restricted mode is entered, with its records (R449). -/
def State.enterRestricted (s : State) (bad : List (Nat × Nat × Nat)) : State :=
  let s := s.setO kFW_STATE 3
  let rec_ (q : Nat × Nat × Nat) : ErrRec :=
    { cls := 2, code := stFW_RESTRICTED, arg0 := s.o kFW_RESTRICT_CAUSE, arg1 := q.1, arg2 := q.2.1, arg3 := q.2.2 }
  ((if bad.isEmpty then [(0, 0, 0)] else bad).map rec_).foldl State.errRec s

/-! Attestation (R441). -/

def bytes256 (x : BitVec 256) : List Byte := leBytes 32 x.toNat

/-- FLAGS of a report. -/
def State.attFlags (s : State) : Nat :=
  s.o kFW_FALLBACK % 32 + (s.o kFW_RESTRICT_CAUSE % 8) * 32 + bnat s.boot.debug * 256 + bnat (s.tries != 0xFF) * 512

/-- The 512 bytes that a report's signature covers. -/
def State.attSigned (s : State) : List Byte :=
  let svn (i : Nat) : Nat := match tget none s.boot.loaded i with | some x => x.svn | none => 0
  (upto 32).map (fun i => s.blob kATT_NONCE i) ++ leBytes 8 ownNode ++ leBytes 8 s.stroke
    ++ (upto 8).flatMap (fun k => bytes256 (tget 0 s.boot.regs k)) ++ (upto 5).flatMap (fun i => leBytes 4 (svn (i + 1)))
    ++ leBytes 4 s.attFlags ++ List.replicate 184 0

/-- A report signed at this read; none without the identity key. -/
def State.attReport (s : State) : Option (State × List Byte) :=
  if !s.boot.identity then none
  else
    let m := s.attSigned
    some ({ s with draws := s.draws + 1 },
      m ++ (upto 384).map (fun i => Config.attSign s.draws m i) ++ List.replicate 128 0)

/-! Firmware update (R451 to R454). -/

/-- The image staged in FW_UPDATE_DATA. -/
def State.stagedImage (s : State) : Image :=
  parseImage ((upto 1024).map (fun i => s.blob kFW_UPDATE_DATA i))
    (fun n => (upto n).map (fun i => s.blob kFW_UPDATE_DATA (1024 + i)))

/-- Status of the staged image's check (R435, R451). -/
def State.stagedCheck (s : State) (i : Nat) (x : Image) : Nat :=
  if !x.magicOk || x.hdrVersion ≠ 1 || x.imageId ≠ i then stFW_SIGNATURE
  else if x.len = 0 || bodyLimit i < x.len then stFW_SIZE
  else
    let c := s.imageState i (some x)
    if c = imUSABLE then 0 else if c = imSVN then stFW_SVN else stFW_SIGNATURE

/-- FW_OP_STATUS shows the status of the latest operation, and BUSY while an image is being written (R451, R458). -/
def State.fwStatus (s : State) (st : Nat) : State :=
  s.setO kFW_OP_STATUS (st + (if s.boot.write.isSome then 2 ^ 16 else 0))

/-- WRITE_IMAGE (R451). -/
def State.writeImage (s : State) (path : Path) (image bank : Nat) : State × Nat :=
  if image = 0 || 5 < image || 1 < bank then (s, invalidParam path)
  else if s.boot.write.isSome || tget 0 s.boot.source image = bank + 1 then (s, stFW_BUSY)
  else
    let x := s.stagedImage
    let st := s.stagedCheck image x
    if st ≠ 0 then (s, st)
    else
      let b := s.bank bank
      let s := s.setBank bank ({ b with writing := if b.writing.contains image then b.writing else image :: b.writing
                                        slots := terase b.slots image }.writeRec 2 b.gen b.tries)
      let s := { s with boot := { s.boot with write := some (image, bank, x) } }
      (s.fwStatus 0, 0)

/-- SELECT_BANK (R452). -/
def State.selectBank (s : State) (path : Path) (bank : Nat) : State × Nat :=
  let b := s.bank bank
  let levels (i : Nat) : List (BitVec 64) :=
    if i = 0 then s.boot.romLevels else match b.slot i with | some x => x.levels | none => []
  if 1 < bank then (s, invalidParam path)
  else if b.state ≠ 1 || s.o kFW_PREFERRED = bank then (s, stFW_BANK)
  else if bootPairs.any (fun q => !levelsAgree (levelEntry (levels q.2.1) q.1) (levelEntry (levels q.2.2) q.1)) then
    (s, stFW_LEVEL)
  else
    let g := (s.bank (1 - bank)).gen
    ((s.setBank bank (b.writeRec b.state ((g + 1) % 2 ^ 32) 3)).fwStatus 0, 0)

/-- COMMIT_SVN (R453). -/
def State.commitSvn (s : State) : State × Nat :=
  if s.o kFW_STATE ≠ 2 || s.o kFW_FALLBACK ≠ 0 || s.tries ≠ 0xFF then (s, stFW_BUSY)
  else
    let up (t : Tab Nat) (i : Nat) : Tab Nat :=
      match tget none s.boot.loaded i with
      | some x => tset 0 t i (max (tget 0 t i) x.svn)
      | none => t
    let s := { s with boot := { s.boot with minSvn := [1, 2, 3, 4, 5].foldl up s.boot.minSvn } }
    (s.fwStatus 0, 0)

/-- A write of FW_CONTROL (R454). -/
def State.fwControl (s : State) (path : Path) (v : Nat) : State × Nat :=
  match v % 16 with
  | 1 => s.writeImage path (nbits v 8 8) (nbits v 16 1)
  | 2 => s.selectBank path (nbits v 16 1)
  | 3 => s.commitSvn
  | _ => (s, invalidParam path)

end Sys2Proof.Machine
end

