-- ==== Sys2Proof/Machine/HostCmd.lean ====
section
/-! DEFINITION. Submission and completion queues, doorbells and the host commands that RUN and the immediate opcodes name
(R382 to R396). -/

namespace Sys2Proof.Machine

open Sys2Proof

/-- CQ_FUNC_STATUS.READY (R384): a function-level reset is a shut-down in progress too (R456). -/
def Func.ready (f : Func) : Bool := f.en && !f.down && f.flr == 0

/-- Commands of a function that have been accepted and not completed. -/
def Func.liveCmds (f : Func) : Nat := (f.sqs.map (fun (q : Nat × Sq) => q.2.live)).sum

/-- A refused register write (R387, R396). -/
def State.cfgRefuse (s : State) (fn : Nat) : State := s.setFunc fn { s.func fn with cfgErr := true }

/-! Queue configuration (R386, R387). -/

def qcBase (e : BitVec 256) : Nat := bits e 63 0
def qcSize (e : BitVec 256) : Nat := bits e 79 64
def qcCqid (e : BitVec 256) : Nat := bits e 85 80
def qcEn (e : BitVec 256) : Bool := bit e 86
def qcVector (e : BitVec 256) : Nat := bits e 103 96
def qcCount (e : BitVec 256) : Nat := bits e 111 104
def qcUs (e : BitVec 256) : Nat := bits e 121 112

/-- Fields of an entry that is written. -/
def Sq.write (x : Sq) (e : BitVec 256) : Sq :=
  { x with base := qcBase e, size := qcSize e, cqid := qcCqid e, next := none }

/-- Enable a submission queue with an entry, checked as a whole (R387). -/
def State.enableSqWith (s : State) (fn q : Nat) (e : BitVec 256) : State × Nat :=
  let f := s.func fn
  let x := (f.sq q).write e
  if x.base % 4096 ≠ 0 || x.size = 0 || !(f.cq x.cqid).en then (s, stCQ_CONFIG)
  else (s.setFunc fn (f.setSq q { x with en := true, active := true, head := 0, tail := 0, fetched := [] }), 0)

/-- A pending enable is carried out with the entry that asked for it; a refused one changes nothing (R387, R455). -/
def State.enableSq (s : State) (fn q : Nat) : State × Nat :=
  let f := s.func fn
  match (f.sq q).next with
  | some e => (s.setFunc fn (f.setSq q { f.sq q with next := none })).enableSqWith fn q e
  | none => (s, stCQ_CONFIG)

/-- Discard what a queue fetched and did not accept; no command of it waits for energy (R387, R400). -/
def State.discardFetched (s : State) (fn q : Nat) : State :=
  let f := s.func fn
  let s := s.setFunc fn (f.setSq q { f.sq q with fetched := [] })
  { s with st := { s.st with queue := s.st.queue.filter (fun e => e != (fn, q)) } }

/-- Disable a submission queue (R387). -/
def State.disableSq (s : State) (fn q : Nat) : State :=
  let s := s.discardFetched fn q
  let f := s.func fn
  let x := f.sq q
  s.setFunc fn (f.setSq q { x with en := false, active := decide (x.live ≠ 0) })

/-- A write of a submission-queue entry (R387); refused with CFG_ERR. An enable while the queue drains is pending, and its entry is
checked and written when it is carried out (R455). -/
def State.writeSq (s : State) (fn q : Nat) (e : BitVec 256) : State :=
  let f := s.func fn
  let x := f.sq q
  let moved := qcBase e != x.base || qcSize e != x.size || qcCqid e != x.cqid
  if !x.en && x.active && qcEn e then (s.setFunc fn (f.setSq q { x with next := some e })).pendEnable 5 (64 * fn + q)
  else if (x.en && moved) || qcBase e % 4096 ≠ 0 then s.cfgRefuse fn
  else if x.en then
    if qcEn e then s else s.disableSq fn q
  else if !qcEn e then (s.setFunc fn (f.setSq q (x.write e))).dropPending 5 (64 * fn + q)
  else
    let r := s.enableSqWith fn q e
    if r.2 = 0 then r.1 else s.cfgRefuse fn

/-- A completion queue that a submission queue still needs (R387). -/
def Func.cqBound (f : Func) (q : Nat) : Bool :=
  f.sqs.any (fun (x : Nat × Sq) => x.2.cqid == q && (x.2.en || x.2.active)) || (f.cq q).reserved != 0

/-- A write of a completion-queue entry (R387); refused with CFG_ERR. -/
def State.writeCq (s : State) (fn q : Nat) (e : BitVec 256) : State :=
  let f := s.func fn
  let x := f.cq q
  let moved := qcBase e != x.base || qcSize e != x.size || qcVector e != x.vector
  if (x.en && moved) || qcBase e % 4096 ≠ 0 || 1000 < qcUs e || (x.en && !qcEn e && f.cqBound q)
      || (!x.en && qcEn e && qcSize e == 0) then s.cfgRefuse fn
  else
    let y := { x with base := qcBase e, size := qcSize e, vector := qcVector e, coalUs := qcUs e, coalCount := qcCount e
                      en := qcEn e, active := qcEn e }
    let y := if qcEn e && !x.en then { y with tail := 0, head := 0, phase := true, reserved := 0, unsig := 0 } else y
    s.setFunc fn (f.setCq q y)

/-- A doorbell value is ignored (R388). -/
def State.dbIgnored (s : State) (fn : Nat) : State :=
  (s.setFunc fn { s.func fn with dbErr := true }).addO 32 kCQ_DB_ERRORS 1

/-! RUN (R339, R364, R365, R391, R392, R448). -/

/-- Checks of a RUN at its acceptance, in order (R37, R339, R392, R448). -/
def State.runCheck (s : State) (p : Nat) (h : BitVec 1024) (prog : ProgInfo) : Nat :=
  if 131072 < hcMaxSeq h then stSEQ_LIMIT
  else if (s.udPhys p (hcArg h 0) prog.len false).isNone || (s.udPhys p (hcArg h 1) 64 false).isNone then stDECK_RANGE
  else if !levelsAgree (levelEntry (s.imageLevels 5) 0x11) (prog.level.filter (fun e => bits e 7 0 == 0x11)) then
    stFW_PROG_LEVEL
  else if !prog.rods.all (fun r => decide (r < 576) && s.owner r == p) then stPT_ROD_RANGE
  else if prog.rods.any (fun r => (s.rod r).st != .enabled) then stROD_FENCED
  else 0

/-- The next command of the context that the partition's rods serve has been dispatched: its turn passes, and it is in no
queue any more (R342, R365). -/
def State.takeRun (s : State) (p c q : Nat) : State :=
  let s := s.acceptHead (p + 1) q
  let s := { s with st := { s.st with queue := s.st.queue.filter (fun e => e != (p + 1, q)) } }
  s.setCtx p c { s.ctx p c with turn := (q + 1) % 8 }

/-- The rods of a RUN fetch its program over the mesh (R24, R27): one VC0 request of each rod that does not find it in its own
slice (DESIGN CHOICE, log entry 172). -/
def State.fetchProgram (s : State) (p : Nat) (rods : List Nat) (h : BitVec 1024) : State :=
  match s.udPhys p (hcArg h 0) 64 false with
  | none => s
  | some x =>
    (rods.filter (fun r => r != x / 2 ^ 29)).foldl (fun (s : State) r =>
      { s with mesh := { s.mesh with nextId := s.mesh.nextId + 1 } }.outstanding0 s.mesh.nextId p r (x / 2 ^ 29) (hcArg h 0) 64
        (.fetch r)) s

/-- Dispatch a RUN command (R342, R364): a check that fails ends it before any rod starts; otherwise its debit is taken and
it runs on its rods. -/
def State.dispatch (s : State) (p c q : Nat) (h : BitVec 1024) (prog : ProgInfo) : State :=
  let cmd := mkCmd s (p + 1) q h
  let d := s.debit h
  let st := s.runCheck p h prog
  let s := s.takeRun p c q
  if st ≠ 0 then (s.complete cmd st 0 0).afterRun p c
  else
    let t := s.st
    let s := { s with st := { t with balance := t.balance - (d : Int), curDebit := t.curDebit + d } }
    let s := s.phaseTick p
    let x := s.ctx p c
    let r : RunCmd := { cmd := { cmd with debit := d }, sub := s.reck.nextId, rods := prog.rods, slots := (s.part p).slots, slotRead := [], convs := []
                        reserved := [], holds := [], ended := false, layer := [], mark := 0, began := s.ns, ran := 0
                        pubSteps := [] }
    let s := s.setCtx p c { x with run := some r, account := tset 0 x.account 5 (satAdd 64 (tget 0 x.account 5) d) }
    let s := { s with reck := { s.reck with nextId := s.reck.nextId + 1 } }
    let s := prog.rods.foldl (fun (s : State) k =>
      s.setRod k { s.rod k with ended := false, wait := .none, waitStrokes := 0, stalled := false }) s
    (((s.endYield p c).fetchProgram p prog.rods h).holdOn p c).pollAll

/-! Immediate commands (R391). -/

/-- The status of a DMA's check (R391, R392); `wr` for one that writes the upper deck. -/
def State.dmaCheck (s : State) (c : Cmd) (wr : Bool) : Nat :=
  if (s.udPhys c.part (hcArg c.hdr 1) (hcArg c.hdr 2) wr).isNone then stDECK_RANGE else 0

/-- Write one slot, or hold the write while a tensor update owns the slot (R65, R223). -/
def State.slotPut (s : State) (p n : Nat) (v : BitVec 1024) : State :=
  if s.reck.tensors.any (fun t => t.part == p && t.slot == n) then
    let put (t : TensorUpd) : TensorUpd :=
      if t.part == p && t.slot == n then
        let old := match t.held with | some h => bits h 607 592 | none => 0
        { t with held := some (setField v 592 16 (bits v 607 592 ||| old)) }
      else t
    { s with reck := { s.reck with tensors := s.reck.tensors.map put } }
  else s.writeSlot p n v

/-- Write slots in ascending order up to the first refused one (R65, R391): how many, and its status. -/
def State.slotsPut (s : State) (p first : Nat) (data : List Byte) : Nat → Nat → State × Nat × Nat
  | 0, k => (s, k, 0)
  | n + 1, k =>
    let v := BitVec.ofNat 1024 (leNat ((data.drop (128 * k)).take 128))
    match slotWriteCheck v with
    | 0 => State.slotsPut (s.slotPut p (first + k) v) p first data n (k + 1)
    | 1 => (s, k, stSCALE_INVALID)
    | _ => (s, k, stSLOT_INVALID)

/-! Function-level reset (R400). -/

/-- Functions that a reset of `fn` takes in (R400). -/
def State.flrScope (s : State) (fn : Nat) : List Nat :=
  if fn = 0 then 0 :: ((upto 16).map (· + 1)).filter (fun f => (s.func f).vf) else [fn]

/-- Time 0 to 1 ms of R400 for one function: fetching stops, what was fetched is discarded, its running commands end, its DMA
is abandoned, and nothing it accepted before writes a completion any more. -/
def State.flrOne (s : State) (fn : Nat) : State :=
  let s := (upto 64).foldl (fun s q => if ((s.func fn).sq q).fetched.isEmpty then s else s.discardFetched fn q) s
  let s := if fn = 0 then s else s.endAllRuns (fn - 1) stFUNC_RESET
  let h := s.host
  let live := h.live.filter (fun l => !(l.cmd.fn == fn && (hcOpcode l.cmd.hdr == 2 || hcOpcode l.cmd.hdr == 3)))
  let live := live.map (fun l => if l.cmd.fn = fn then { l with cmd := { l.cmd with mute := true } } else l)
  let s := { s with host := { h with live := live } }
  let s := (s.dropPending 4 fn)
  let s := { s with pend := s.pend.filter (fun e => !(e.kind == 5 && e.inst / 64 == fn)) }
  s.setFunc fn { s.func fn with flr := 1, flrAt := s.ns }

/-- A function-level reset begins (R400, R457); one already in progress takes it in (R470). -/
def State.startFlr (s : State) (fn : Nat) : State :=
  ((s.flrScope fn).filter (fun f => (s.func f).flr == 0)).foldl State.flrOne s |>.pollAll

end Sys2Proof.Machine
end

