-- ==== Sys2Proof/Machine/Partition.lean ====
section
/-! DEFINITION. The partition and context commands (R333 to R352, R474). -/

namespace Sys2Proof.Machine

open Sys2Proof

/-! Checks (R336). -/

/-- The frames of a mask that are in range. -/
def maskFrames (m : Nat) : List Nat := setBits m 64

/-- The partition belongs to a pairing, or to a server that is not STOPPED (R300, R336). -/
def State.partBound (s : State) (p : Nat) : Bool :=
  (s.pairOf p).isSome
    || (s.svState != svSTOPPED && (s.svTeacher == p || (s.hasDraft && s.svDraft == p)))

/-- Frames that an earlier ADD still adds (R474). -/
def State.adding (s : State) (p : Nat) : Nat := (s.part p).adds.foldl (fun a x => a ||| x.1.toNat) 0

/-- A frame may be taken: nobody's, not being zeroed, with a rod in service (R336). -/
def State.frameFree (s : State) (f : Nat) : Bool :=
  tget 0xFF s.frameOwner f == 0xFF && (frameRods f).any (fun r => (s.rod r).fenceLevel == 0)

/-- A mask that CREATE or ADD may take, with the frames it joins (R336). -/
def State.framesOk (s : State) (m base : Nat) : Bool :=
  m != 0 && (maskFrames m).all s.frameFree && gridConnected 8 (m ||| base)

/-- Zeroing of the caches and slices of some frames begins (R112, R131). -/
def State.startZero (s : State) (frames : List Nat) : State :=
  (frames.flatMap frameRods).foldl (fun s r =>
    { s with decks := { s.decks with zeroing := tset 0 s.decks.zeroing r (s.ns + 1) } }) s

/-- It ends: caches and slices hold `+0`. -/
def State.endZero (s : State) (frames : List Nat) : State :=
  (frames.flatMap frameRods).foldl (fun s r =>
    let s := s.setRod r { s.rod r with cache := [] }
    { s with decks := { s.decks.zeroSlice r with zeroing := terase s.decks.zeroing r } }) s

/-- Mark frames in PT_FRAME_OWNER. -/
def State.ownFrames (s : State) (frames : List Nat) (o : Nat) : State :=
  { s with frameOwner := frames.foldl (fun t f => tset 0xFF t f o) s.frameOwner }

/-! Creating and reshaping (R336 to R338, R474). -/

/-- CREATE (R336, R337, R455). -/
def State.ptCreate (s : State) (p : Nat) : State × Nat :=
  let m := s.o (kPT_FRAME_ARG p)
  let x := s.part p
  if s.fwGate ≠ 0 then (s, s.fwGate)
  else if x.quiesce = 2 || x.quiesce = 4 then (s.pendEnable 1 p, 0)
  else if s.o (kPT_STATE p) ≠ 0 then (s, stPT_BUSY)
  else if s.o (kPT_TENANT p) = 0 then (s, stPT_TENANT)
  else if !s.framesOk m 0 then (s, stPT_FRAMES)
  else
    let frames := maskFrames m
    let s := (s.ownFrames frames p).setO (kPT_FRAMES p) m
    let s := s.setPart p { slices := s.createSlices frames, zeroAt := s.ns, iiFrom := s.stroke, iiMark := s.cycle }
    let s := { s with decks := s.decks.newKey p, ctxs := tclear s.ctxs (8 * p) 8 }
    let s := (s.setResident p 0xFF).startZero frames
    (s.setO (kPT_STATE p) 1, 0)

/-- CREATE_ZEROING_END (R337): the new partition becomes ACTIVE. -/
def execCreateZeroingEnd (p : Nat) (s : State) : Out :=
  if 16 ≤ p || s.o (kPT_STATE p) ≠ 1 then .next s
  else .next ((s.endZero (s.partFrames p)).setO (kPT_STATE p) 2).pollAll

/-- ADD (R336, R474). -/
def State.ptAdd (s : State) (p : Nat) : State × Nat :=
  let m := s.o (kPT_FRAME_ARG p)
  if s.o (kPT_STATE p) ≠ 2 || s.partBound p then (s, stPT_BUSY)
  else if !s.framesOk m (s.frames p ||| s.adding p) then (s, stPT_FRAMES)
  else
    let x := s.part p
    let s := s.setPart p { x with adds := x.adds ++ [(BitVec.ofNat 64 m, s.ns)] }
    ((s.ownFrames (maskFrames m) 0xFE).startZero (maskFrames m), 0)

/-- ADD_ZEROING_END (R474): the earliest added frames join the partition in one action. -/
def execAddZeroingEnd (p : Nat) (s : State) : Out :=
  let x := s.part p
  match x.adds with
  | [] => .next s
  | (m, _) :: t =>
    if 16 ≤ p then .next s
    else
      let frames := maskFrames m.toNat
      let s := (s.endZero frames).ownFrames frames p
      let s := s.setPart p { x with adds := t, slices := s.addSlices x.slices frames }
      .next (s.setO (kPT_FRAMES p) (s.frames p ||| m.toNat))

/-- REMOVE (R336, R338). -/
def State.ptRemove (s : State) (p : Nat) : State × Nat :=
  let m := s.o (kPT_FRAME_ARG p)
  let own := s.frames p
  if s.o (kPT_STATE p) ≠ 2 || s.partBound p then (s, stPT_BUSY)
  else if m = 0 || (own &&& m) ≠ m || !gridConnected 8 (own ^^^ m) then (s, stPT_FRAMES)
  else
    let s := s.setPart p { s.part p with quiesce := 1, removing := BitVec.ofNat 64 m }
    ((s.setO (kPT_STATE p) 3).pollLedger, 0)

/-- DESTROY (R336, R338, R350, R457, R470): every command ends with PT_DESTROYED; a reset in progress merges into it. -/
def State.ptDestroy (s : State) (p : Nat) : State × Nat :=
  let x := s.part p
  if s.o (kPT_STATE p) = 0 then (s, stPT_BUSY)
  else if x.quiesce = 2 || x.quiesce = 4 then (s.dropPending 1 p, 0)
  else
    let s := { s with pend := s.pend.filter (fun e => !(e.kind == 2 && e.inst / 8 == p)) }
    let s := s.setPart p { x with quiesce := 2, reset := 0 }
    ((s.setO (kPT_STATE p) 3).endAllRuns p stPT_DESTROYED, 0)

/-- No command of the partition runs or is switched out. -/
def State.noRuns (s : State) (p : Nat) : Bool :=
  (upto 8).all (fun c => (s.ctx p c).run.isNone) && (s.part p).switch.isNone

/-- QUIESCE_END (R338): REMOVE's frames leave the partition; DESTROY's effects take place, and its extents and frames are
freed. Their zeroing begins. -/
def execQuiesceEnd (p : Nat) (s : State) : Out :=
  let x := s.part p
  if 16 ≤ p || s.o (kPT_STATE p) ≠ 3 || !s.noRuns p then .next s
  else if x.quiesce = 1 then
    let m := x.removing.toNat
    let frames := maskFrames m
    let s := s.setPart p { x with quiesce := 3, slices := dropSlices x.slices (frames.flatMap frameRods), zeroAt := s.ns }
    let s := ((s.cutStages p).setO (kPT_FRAMES p) (s.frames p ^^^ m)).ownFrames frames 0xFE
    .next (s.startZero frames)
  else if x.quiesce = 2 then
    let s := s.partEffects p stPT_DESTROYED
    let m := s.frames p ||| s.adding p ||| x.removing.toNat
    let frames := maskFrames m
    let s := { s with decks := s.decks.freeExtents p, ctxs := tclear s.ctxs (8 * p) 8 }
    let s := s.setPart p { quiesce := 4, removing := BitVec.ofNat 64 m, zeroAt := s.ns }
    let s := (s.setO (kPT_FRAMES p) 0).ownFrames frames 0xFE
    .next (s.startZero frames)
  else .next s

/-- REMOVE_ZEROING_END (R338, R455): the freed frames are free; the partition is ACTIVE again, or NONE, and then a pending
CREATE is carried out. -/
def execRemoveZeroingEnd (p : Nat) (s : State) : Out :=
  let x := s.part p
  let frames := maskFrames x.removing.toNat
  if 16 ≤ p || (x.quiesce ≠ 3 && x.quiesce ≠ 4) || x.reset ≠ 0 then .next s
  else
    let s := (s.endZero frames).ownFrames frames 0xFF
    let s := s.setPart p { x with quiesce := 0, removing := 0 }
    if x.quiesce = 3 then .next (s.setO (kPT_STATE p) 2).pollAll
    else .next ((s.setO (kPT_STATE p) 0).firePending 1 p (fun s => s.ptCreate p))

/-! Contexts (R343). -/

/-- ENABLE, held while the context's shut-down is in progress (R343, R455). -/
def State.ctxEnable (s : State) (p c : Nat) : State × Nat :=
  if (s.ctx p c).disabling then (s.pendEnable 2 (8 * p + c), 0) else s.enableCtx p c

/-- DISABLE (R343, R457). -/
def State.ctxDisable (s : State) (p c : Nat) : State × Nat :=
  let s := s.dropPending 2 (8 * p + c)
  let x := s.ctx p c
  if !x.enabled then (s, 0)
  else if x.run.isSome && s.resident p ≠ c && s.residentNow p ≠ c then
    let s := (s.setCtx p c { x with disabling := false }).endRun p c stPT_CTX_DISABLED
    ((s.setCtx p c { s.ctx p c with enabled := false, ready := false }).pollAll, 0)
  else if x.run.isSome then (s.setCtx p c { x with disabling := true }, 0)
  else
    let s := s.setCtx p c { x with enabled := false, ready := false, yieldReq := 0 }
    let s := if s.resident p = c then s.setResident p 0xFF else s
    (s.pollAll, 0)

/-- The context is being brought in by a switch (R350). -/
def State.incoming (s : State) (p c : Nat) : Bool :=
  match (s.part p).switch with | some w => w.inn == c | none => false

/-- YIELD (R343, R350): noted for a RESIDENT context, or one that a switch brings in. -/
def State.ctxYield (s : State) (p c : Nat) : State × Nat :=
  if s.resident p = c || s.incoming p c then (s.setCtx p c { s.ctx p c with yieldReq := 1 }, 0) else (s, 0)

/-- A hard switch of the resident context at once, towards the lowest other READY context, or none (R343). -/
def State.evictNow (s : State) (p c : Nat) : State :=
  let s := (s.latchSched p).noteReady p
  s.startSwitch p c ((s.pickCtx p c).getD 8)

/-- EVICT (R343, R350): as YIELD without a save area. -/
def State.ctxEvict (s : State) (p c : Nat) : State × Nat :=
  if s.incoming p c then (s.setCtx p c { s.ctx p c with yieldReq := 2 }, 0)
  else if s.resident p ≠ c then (s, 0)
  else if (s.saveArea p c).isSome && (s.ctx p c).run.isSome && (s.part p).switch.isNone then (s.evictNow p c, 0)
  else (s.setCtx p c { s.ctx p c with yieldReq := 1 }, 0)

/-! Decisions while a command runs (R344 to R347). -/

/-- A command of the resident context runs and no switch is in progress. -/
def State.runsNow (s : State) (p : Nat) : Bool := (s.runCmd p).isSome && (s.part p).switch.isNone

/-- SLICE_EXPIRY (R344, R345): a decision; a new slice if the resident context is chosen again, otherwise it runs to its
next command boundary. -/
def execSliceExpiry (p : Nat) (s : State) : Out :=
  let x := s.part p
  if 16 ≤ p || !s.runsNow p || x.graceAt ≠ 0 || s.ns < x.sliceAt + 1000 * x.sliceUs then .next s
  else
    let s := (s.latchSched p).noteReady p
    if s.pickCtx p 8 = some (s.resident p) || s.pickCtx p 8 = none then
      .next (s.setPart p { s.part p with sliceAt := s.ns })
    else .next (s.setPart p { s.part p with graceAt := s.ns + 1 })

/-- YIELD_GRACE_EXPIRY (R345): with no boundary in the grace time and a save area, a hard switch, if the decision still
stands. -/
def execYieldGraceExpiry (p : Nat) (s : State) : Out :=
  let x := s.part p
  let c := s.resident p
  if 16 ≤ p || !s.runsNow p || x.graceAt = 0 || s.ns + 1 < x.graceAt + 1000 * x.graceUs || (s.saveArea p c).isNone then
    .next s
  else
    let s := (s.latchSched p).noteReady p
    match s.pickCtx p 8 with
    | some k => .next (if k = c then s.setPart p { s.part p with graceAt := 0 } else s.startSwitch p c k)
    | none => .next s

/-- A wait that may trigger a hard switch (R347). -/
def switchWait : RodWait → Bool
  | .acquire _ _ => true
  | .wait _ _ => true
  | .fence _ _ => true
  | .carry _ _ => true
  | .bucket _ => true
  | _ => false

/-- The running command has waited for some time, ns, on a rod (R347). -/
def State.hasWaited (s : State) (p ns : Nat) : Bool :=
  match s.runCmd p with
  | some r => r.rods.any (fun d => switchWait (s.rod d).wait && decide ((s.rod d).waitSince + ns ≤ s.ns))
  | none => false

/-- WAIT_SWITCH_TIMEOUT (R347): the command has waited PT_WAIT_SWITCH_US and another context is READY with a lower V. -/
def execWaitSwitchTimeout (p : Nat) (s : State) : Out :=
  let us := s.o (kPT_WAIT_SWITCH_US p)
  let c := s.resident p
  if 16 ≤ p || !s.runsNow p || us = 0xFFFFFFFF || !s.hasWaited p (1000 * us) then .next s
  else
    let s := (s.latchSched p).noteReady p
    match s.pickCtx p c with
    | some k =>
      .next (if (s.ctx p k).vtime.lt (s.ctx p c).vtime && (s.saveArea p c).isSome then s.startSwitch p c k else s)
    | none => .next s

/-- HARD_SWITCH_SAVE (R348): the rods' running work has ended; the outgoing state is saved and the incoming restored. -/
def execHardSwitchSave (p : Nat) (s : State) : Out :=
  match (s.part p).switch with
  | none => .next s
  | some w =>
    if 16 ≤ p || w.saved || !(s.switchRods p).all s.rodDrained then .next s
    else
      let s := if w.out < 8 then s.saveOut p w.out else s
      let s := s.restoreIn p w.inn
      .next (s.setPart p { s.part p with switch := some { w with saved := true } })

/-- HARD_SWITCH_END (R348, R350): the outgoing context is SWITCHED_OUT; the incoming one goes on, and a YIELD or EVICT of it
made meanwhile is applied. -/
def execHardSwitchEnd (p : Nat) (s : State) : Out :=
  match (s.part p).switch with
  | none => .next s
  | some w =>
    if 16 ≤ p || !w.saved then .next s
    else
      let s := s.setPart p { s.part p with switch := none, sliceAt := s.ns, graceAt := 0 }
      let c := w.inn
      let s := s.phaseTick p
      let s := s.noteReady p
      if c < 8 && s.resident p = c && (s.ctx p c).yieldReq = 2 then
        let s := s.setCtx p c { s.ctx p c with yieldReq := 0 }
        .next ((s.ctxEvict p c).1).pollAll
      else .next s.pollAll

/-- Of the partitions that delayed an engine, the one with the largest part, the lowest number on a tie; 0xFF for none. -/
def iiSource (parts : List Nat) : Nat :=
  (upto 16).foldl (fun b k => if 0 < parts.getD k 0 && (b == 0xFF || decide (parts.getD b 0 < parts.getD k 0)) then k else b) 0xFF

/-- II_WINDOW_END (R352): C is counted while a context is RESIDENT. X comes from the routers and the slices: `routers` and `grants`
list the cycles in which an engine waited on an access that a partition's flit held at a router output, or that a slice grant to a
partition's request or pass delayed; `twice` is how much the two lists count more than once (log entry 137). -/
def execIiWindowEnd (p : Nat) (routers grants : List (Nat × Nat)) (twice : Nat) (s : State) : Out :=
  let q := s.part p
  let all := (routers ++ grants).filter (fun d => d.1 != p && decide (d.1 < 16))
  let parts := (upto 16).map (fun k => (all.filter (fun d => d.1 == k)).foldl (fun n d => n + d.2) 0)
  let x := parts.foldl (· + ·) 0 - twice
  let c := q.iiRes + (if s.resident p < 8 then s.cycle - q.iiMark else 0)
  if 16 ≤ p || s.stroke < q.iiFrom + q.iiWindow || c < x then .next s
  else
    let i : F32 := if c = x then 0 else f32ofRat false x (c - x)
    let src := if x = 0 then 0xFF else iiSource parts
    let s := s.setPart p { q with iiFrom := s.stroke, iiRes := 0, iiMark := s.cycle }
    let s := (s.setO (kPT_II p) i.toNat).setO (kPT_II_SOURCE p) src
    let warn : F32 := BitVec.ofNat 32 (s.o (kPT_II_WARN p))
    .next (if f32lt 0 warn && f32lt warn i then
      s.errRec { cls := 0, code := rcPT_INTERFERENCE, part := p, arg0 := i.toNat, arg1 := src }
    else s)

end Sys2Proof.Machine
end

