-- ==== Sys2Proof/Machine/ResetOps.lean ====
section
/-! DEFINITION. The reset kinds (R467 to R471). -/

namespace Sys2Proof.Machine

open Sys2Proof

/-- A device or cold reset is refused after a thermal trip until Tj is below 90.0 °C (R373, R467). -/
def State.tooHot (s : State) : Bool := s.st.tripped && decide (900 ≤ s.junction)

/-- COLD (R469). -/
def State.coldReset (s : State) : State × Nat := if s.tooHot then (s, stDEVICE_FATAL) else (s.lost 2 false, 0)

/-- DEVICE (R469): every block but the regulators and the flash is held. -/
def State.deviceReset (s : State) : State × Nat :=
  if s.tooHot then (s, stDEVICE_FATAL)
  else
    let s := s.lost 3 true
    ({ s with boot := { s.boot with holding := true } }, 0)

/-- Time 0 of R438: the boot ROM starts and chooses the preferred bank; the cause of the reset stands in ERR_RESET_CAUSE (R469). -/
def State.startBoot (s : State) : State :=
  let s := (s.setO kERR_RESET_CAUSE s.boot.cause).chooseBank
  { s with boot := { s.boot with stage := 1, at_ := s.ns, holding := false } }

/-- A function whose scope lies within partition `p`: its pending enables go with a reset (R457, R470). -/
def State.dropPartPending (s : State) (p : Nat) : State :=
  { s with pend := s.pend.filter (fun e => !((e.kind == 1 && e.inst == p) || (e.kind == 2 && e.inst / 8 == p)
      || (e.kind == 7 && e.inst % 16 == p))) }

/-- Frames of a REMOVE in progress leave the partition as part of its reset (R470). -/
def State.removeInReset (s : State) (p : Nat) : State :=
  let x := s.part p
  if x.quiesce ≠ 1 then s
  else
    let m := x.removing.toNat
    let frames := maskFrames m
    let s := s.setPart p { x with quiesce := 3, slices := dropSlices x.slices (frames.flatMap frameRods) }
    ((s.cutStages p).setO (kPT_FRAMES p) (s.frames p ^^^ m)).ownFrames frames 0xFE

/-- PARTITION (R470, R471). -/
def State.partReset (s : State) (path : Path) (p : Nat) : State × Nat :=
  let x := s.part p
  if 16 ≤ p then (s, invalidParam path)
  else if s.fatal then (s, stDEVICE_FATAL)
  else if s.o (kPT_STATE p) = 0 then (s, stPT_BUSY)
  else if x.quiesce = 2 || x.quiesce = 4 || x.reset ≠ 0 then (s.dropPartPending p, 0)
  else
    let s := (s.dropPartPending p).setO (kPT_STATE p) 4
    let s := (s.endAllRuns p stPART_RESET).partEffects p stPART_RESET
    let s := s.setPart p { s.part p with reset := 1, zeroAt := s.ns }
    (s.removeInReset p, 0)

/-- FUNCTION (R400, R469). -/
def State.funcReset (s : State) (path : Path) (fn : Nat) : State × Nat :=
  if 16 < fn then (s, invalidParam path)
  else if s.fatal then (s, stDEVICE_FATAL)
  else if fn ≠ 0 && !(s.func fn).vf then (s, 0)
  else (s.startFlr fn, 0)

/-- One link of a port reset: ABSENT and dark, its window counters clear, its pending enable gone (R469). -/
def State.resetLink (s : State) (l : Nat) : State :=
  let s := if s.lkState l = lkABSENT then s else s.toAbsent l
  let x := s.link l
  let s := s.setLink l { x with window := [], downAt := 0, narrow := 0 }
  (s.dropPending 3 l).emitLink (.dark l)

/-- PORT (R276, R469). -/
def State.portReset (s : State) (path : Path) (port : Nat) : State × Nat :=
  if 16 < port then (s, invalidParam path)
  else if s.fatal then (s, stDEVICE_FATAL)
  else if port = 16 then
    let s := s.startFlr 0
    (s.setFunc 0 { s.func 0 with retrain := true }, 0)
  else
    let s := (upto 4).foldl (fun (s : State) k => s.resetLink (4 * port + k)) s
    ({ s with op := { s.op with split := tset 0 s.op.split port (s.blob kOP_PORT_SPLIT port).toNat } }, 0)

/-- A write of RST_CONTROL (R468). -/
def State.resetControl (s : State) (path : Path) (v : Nat) : State × Nat :=
  let inst := nbits v 8 16
  match v % 16 with
  | 1 => s.coldReset
  | 2 => s.deviceReset
  | 3 => s.partReset path inst
  | 4 => s.funcReset path inst
  | 5 => s.portReset path inst
  | _ => (s, invalidParam path)

end Sys2Proof.Machine
end

