-- ==== Sys2Proof/Machine/Serving.lean ====
section
/-! DEFINITION. The serving commands: control, requests, the four phases of a step, the jetton units, and channels
(R299 to R332, R396). -/

namespace Sys2Proof.Machine

open Sys2Proof

/-! Control (R300 to R302). -/

/-- Both server partitions exist, are not paired, and are of one tenant (R300). -/
def State.svPartsOk (s : State) : Bool :=
  let t := s.svTeacher
  let d := s.svDraft
  decide (t < 16) && s.o (kPT_STATE t) != 0 && (s.pairOf t).isNone
    && (!s.hasDraft || (decide (d < 16) && s.o (kPT_STATE d) != 0 && d != t && s.o (kPT_TENANT d) == s.o (kPT_TENANT t)
          && (s.pairOf d).isNone))

/-- Page slots of one model: hot ones in one slice each, cold ones in valid extents (R300, R306). -/
def State.slotsOk (s : State) (p hot cold bytes : Nat) : Bool :=
  (upto (s.o kSV_HOT_PAGES)).all (fun d => (s.udPhys p (hot + d * bytes) bytes false).isSome)
    && (upto (s.o kSV_PAGES - s.o kSV_HOT_PAGES)).all (fun d => s.ldSpanOk p (cold + d * bytes) bytes)

/-- The configuration that START checks (R300); the tables are aligned to their entries (R13). -/
def State.svConfigOk (s : State) : Bool :=
  let v := s.o kSV_VOCAB
  let tb := s.o kSV_T_PAGE_BYTES
  let db := s.o kSV_D_PAGE_BYTES
  s.svPartsOk && v % 2048 == 0 && decide (4096 ≤ v) && decide (v ≤ 524288)
    && decide (9 * s.o kSV_RUN_MAX ≤ s.o kSV_STEP_TOKENS) && decide (s.o kSV_HOT_PAGES ≤ s.o kSV_PAGES)
    && tb != 0 && tb % 64 == 0 && (if s.hasDraft then db != 0 && db % 64 == 0 else db == 0)
    && s.slotsOk s.svTeacher (s.o kSV_T_HOT_BASE) (s.o kSV_T_COLD_BASE) tb
    && (!s.hasDraft || s.slotsOk s.svDraft (s.o kSV_D_HOT_BASE) (s.o kSV_D_COLD_BASE) db)
    && s.o kSV_TABLE_BASE % 64 == 0 && (s.udPhys s.svTeacher (s.o kSV_TABLE_BASE) svTableBytes false).isSome

/-- START's writing of every entry and descriptor to 0 (R301). -/
def State.zeroTables (s : State) : State :=
  match s.udPhys s.svTeacher (s.o kSV_TABLE_BASE) svTableBytes false with
  | some a =>
    let d := s.decks
    { s with decks := { d with
        ud := tclear d.ud a svTableBytes
        udBad := d.udBad.filter (fun w => !(decide (a ≤ w.1 * 32) && decide ((w.1 + 1) * 32 ≤ a + svTableBytes))) } }
  | none => s

/-- START (R300 to R302): the tables are zero, the queues empty, the steps numbered from 0. -/
def State.svStart (s : State) : State × Nat :=
  if s.svState ≠ svSTOPPED then (s, stSV_BUSY)
  else if s.fwGate ≠ 0 then (s, s.fwGate)
  else if !s.svConfigOk then (s, stSV_CONFIG)
  else
    let accts := s.sv.accts.filterMap (fun (q : Nat × Acct) =>
      if q.2.budget = 0 then none else some (q.1, ({ budget := q.2.budget } : Acct)))
    let s := s.zeroTables.latchAccts
    let v := s.sv
    let v := { v with reqs := [], xs := [], pages := [], demotions := [], accts := accts, admitCount := 0, phase := 0
                      stopping := false, rows := [] }
    let s := { s with sv := v }
    (((s.setO kSV_STATE svRUNNING).setO kSV_STEP 0).svCounts, 0)

/-- STOP (R302): it acts at the next boundary; a server that is STOPPED stays so. -/
def State.svStop (s : State) : State × Nat :=
  if s.svState = svSTOPPED then (s, 0) else ({ s with sv := { s.sv with stopping := true } }, 0)

/-- DRAIN (R302): a running server refuses submissions from now on, and is STOPPED at the boundary at which no request is left. -/
def State.svDrain (s : State) : State × Nat :=
  if s.svState ≠ svRUNNING then (s, 0) else (s.setO kSV_STATE svDRAINING, 0)

/-! Requests (R305, R326). -/

/-- A command of a virtual function other than that of SV_TEACHER's partition (R392). -/
def State.svDenied (s : State) (c : Cmd) : Bool := c.fn != 0 && c.fn != s.svTeacher + 1

/-- A channel takes no submissions: it has no entries, or is about to have none (R325, R332). -/
def State.chanClosed (s : State) (c : Nat) : Bool :=
  s.o (kSV_CH_ENTRIES c) == 0
    || (match (s.chan c).change with | some x => x.2 == 0 | none => false)

/-- TEMP is negative, NaN or infinite (R305); a negative zero is not below zero. -/
def tempBad (t : HB16) : Bool :=
  match fmt16.decode t.toNat with
  | .fin n m _ => n && decide (m ≠ 0)
  | _ => true

/-- The checks of SUBMIT, in order (R305). -/
def State.submitCheck (s : State) (i : Nat) (r : Req) : Nat :=
  if s.svState ≠ svRUNNING then stSV_STOPPED
  else if (s.req i).state ≠ rqFREE then stSV_ENTRY_BUSY
  else if 131072 < r.promptLen + r.maxNew then stSEQ_LIMIT
  else if r.promptLen = 0 || r.maxNew = 0 || 1024 < r.topK || tempBad r.temp || 23 < r.channel || 8 < r.draftMax
      || (r.stopEn && s.o kSV_VOCAB ≤ r.stopToken) || s.chanClosed r.channel || r.tokenAddr % 64 ≠ 0 then stSV_PARAM
  else if tget 0 s.sv.weights r.account = 0 then stSV_ACCOUNT
  else if (s.udPhys s.svTeacher r.tokenAddr (4 * (r.promptLen + r.maxNew)) true).isNone then stDECK_RANGE
  else 0

/-- An accepted entry becomes QUEUED with DRAFT_K = DRAFT_MAX and joins its account's queue (R305). -/
def State.submit (s : State) (i : Nat) (r : Req) : State :=
  let s := s.setReq i { r with state := rqQUEUED, draftK := r.draftMax }
  let s := s.setRx i {}
  let x := s.acct r.account
  (s.setAcct r.account { x with queued := s.queueAt i x.queued }).svCounts

/-- SV_SUBMIT (R305, R391). -/
def execSvSubmit (fn q : Nat) (s : State) : Out :=
  .next (s.immediate fn q 10 (fun s c _ =>
    let i := hcArg c.hdr 0
    let r := Req.ofDesc (hcDesc c.hdr)
    if s.svDenied c then .error stCMD_DENIED
    else if s.submitCheck i r ≠ 0 then .error (s.submitCheck i r)
    else .ok ((s.submit i r).complete c 0 0 0)))

/-- CANCEL (R326): sets CANCEL and fixes the cancel step. -/
def State.cancelReq (s : State) (i : Nat) : State :=
  if (s.req i).cancel then s
  else (s.setReq i { s.req i with cancel := true }).setRx i { s.rx i with cancelStep := s.o kSV_STEP + 1 }

/-- SV_CANCEL (R326, R391). -/
def execSvCancel (fn q : Nat) (s : State) : Out :=
  .next (s.immediate fn q 11 (fun s c _ =>
    let i := hcArg c.hdr 0
    if s.svDenied c then .error stCMD_DENIED
    else if (s.req i).state = rqFREE || (s.req i).hostTag ≠ hcArg c.hdr 1 then .error stSV_STALE
    else .ok ((s.cancelReq i).complete c 0 0 0)))

/-! The boundary (R309 to R313, R324, R325). -/

/-- A demotion whose copy has ended (R309, R312): e takes the place of d; after a failed copy d stays and e is freed. -/
def State.settleDemotion (s : State) (m : Demotion) : State :=
  let s := { s with sv := { s.sv with demotions := s.sv.demotions.filter (fun (x : Demotion) => x.d != m.d) } }
  if m.dead then (s.setPage m.d {}).setPage m.e {}
  else if m.phase = 2 then ((s.setPage m.d { s.page m.d with state := 1 }).setPage m.e {})
  else ((s.setPage m.e { s.page m.d with state := 1 }).setPage m.d {}).relink m.req

/-- Every request on a closed channel ends with ABORTED, its records discarded and counted (R325). -/
def State.closeChan (s : State) (c : Nat) : State :=
  (s.reqIds.filter (fun i => (s.req i).channel == c)).foldl (fun s i =>
    let s := s.setRx i { s.rx i with finalDone := true }
    let s := s.setReq i { s.req i with result := rsABORTED }
    (s.leave i rsABORTED).addO 32 (kSV_CH_STALLS c) 1) s

/-- What a boundary does for a channel (R324, R325): a ring change takes effect once the old ring is consumed; held records
are written; requests become HELD while the holding space is full, and go on when it is empty. -/
def State.chanBoundary (s : State) (c : Nat) : State :=
  let x := s.chan c
  let s := match x.change with
    | some (b, n) =>
      if s.ringCount c = 0 then
        let s := ((s.setO (kSV_CH_BASE c) b).setO (kSV_CH_ENTRIES c) n).setO (kSV_CH_HEAD c) 0
        let s := (s.setO (kSV_CH_TAIL c) 0).setChan c { held := if n = 0 then [] else x.held, beyond := if n = 0 then [] else x.beyond }
        if n = 0 then s.closeChan c else s
      else s.setChan c { x with frozen := true }
    | none => s
  let s := s.drainChan c
  let mine := s.reqIds.filter (fun i => (s.req i).channel == c)
  if (s.chan c).held.isEmpty then
    mine.foldl (fun s i =>
      if (s.req i).state = rqHELD then s.setReq i { s.req i with state := (s.rx i).former } else s) s
  else
    let run := mine.filter (fun i => (s.req i).state == rqPREFILL || (s.req i).state == rqDECODE)
    if (s.chan c).held.length < holdSpace || run.isEmpty then s
    else
      (run.foldl (fun s i =>
        (s.setRx i { s.rx i with former := (s.req i).state }).setReq i { s.req i with state := rqHELD }) s).addO 32
          (kSV_CH_STALLS c) 1

/-- Leaving (R302, R311). -/
def State.leaveAll (s : State) : State :=
  s.reqIds.foldl (fun s i =>
    let r := s.req i
    if s.sv.stopping then s.leave i rsABORTED
    else if r.state = rqLEAVING then s.leave i r.result
    else if r.channel < 16 && r.cancel && (r.state == rqQUEUED || r.state == rqPAUSED || r.state == rqHELD) then
      s.leave i rsCANCELLED
    else s) s

/-- Draft length of a DECODE request (R315). -/
def State.svK (s : State) (r : Req) : Nat :=
  if !s.hasDraft || r.draftMax = 0 || 0 < r.draftOff then 0 else min r.draftK (r.maxNew - r.generated - 1)

/-- Positions of a request for the step. -/
def ReqX.positions (x : ReqX) : Nat := if !x.inStep then 0 else if x.prefill then x.chunk else x.k + 1

/-- Requests in PREFILL, by order of admission (R311). -/
def State.prefills (s : State) : List Nat :=
  let l := s.reqsIn [rqPREFILL]
  (upto s.sv.admitCount).filterMap (fun k => l.find? (fun i => (s.rx i).admitted == k))

/-- Positions of the step (R311): k + 1 for DECODE, then chunks for PREFILL; and what is left of SV_STEP_TOKENS. -/
def State.grantPositions (s : State) : State × Nat :=
  let s := s.reqIds.foldl (fun s i =>
    s.setRx i { s.rx i with inStep := false, prefill := false, chunk := 0, k := 0, drafts := [], results := [], captured := [],
                            accepted := 0, decided := false, emitted := [], last := 0, bad := false, used := 0 }) s
  let (s, left) := (s.reqsIn [rqDECODE]).foldl (fun (a : State × Nat) i =>
    let k := a.1.svK (a.1.req i)
    (a.1.setRx i { a.1.rx i with inStep := true, k := k, used := k + 1 }, a.2 - (k + 1))) (s, s.o kSV_STEP_TOKENS)
  s.prefills.foldl (fun (a : State × Nat) i =>
    let x := a.1.rx i
    let c := min (min (a.1.o kSV_CHUNK) (x.target - (a.1.req i).length)) a.2
    (a.1.setRx i { x with inStep := decide (0 < c), prefill := true, chunk := c
                          used := if x.paused then 0 else c }, a.2 - c)) (s, left)

/-- Pages that a running request needs beyond those it holds (R311). -/
def State.demand (s : State) (i : Nat) : Nat :=
  ((s.req i).length + (s.rx i).positions + 15) / 16 - (s.req i).pages

/-- Rank of a running request in the order of R312; the lowest is taken first. -/
def State.pauseRank (s : State) (i : Nat) : Nat :=
  let r := s.req i
  let dl := if r.deadline = 0 then 2 ^ 48 else r.deadline
  (((if 16 ≤ r.channel then 256 else 0) + r.priority) * 2 ^ 49 + (2 ^ 48 - dl)) * 65536 + (65535 - i)

def State.insertRank (s : State) (i : Nat) : List Nat → List Nat
  | [] => [i]
  | j :: t => if s.pauseRank i < s.pauseRank j then i :: j :: t else j :: s.insertRank i t

/-- Running requests in the order of R312. -/
def State.pauseOrder (s : State) : List Nat := s.running_.foldl (fun l i => s.insertRank i l) []

/-- Pause a request (R312). -/
def State.pauseReq (s : State) (i : Nat) : State :=
  let s := s.freePages i
  let r := s.req i
  let s := s.setReq i { r with state := rqPAUSED, length := 0, draftK := r.draftMax, rejectRun := 0, draftOff := 0 }
  let s := s.setRx i { s.rx i with inStep := false, prefill := false, chunk := 0, k := 0, used := 0, paused := true }
  let x := s.acct r.account
  (s.setAcct r.account { x with paused := x.paused ++ [i] }).addO 32 kSV_PAUSES 1

/-- Pause requests until the remaining demand fits (R312); says whether any was paused. -/
def State.pauseUntil : Nat → State → Bool → State × Bool
  | 0, s, any => (s, any)
  | n + 1, s, any =>
    let need := ((s.reqsIn [rqPREFILL, rqDECODE]).map s.demand).sum
    if need ≤ s.freeHot + s.freeCold then (s, any)
    else match s.pauseOrder with
      | [] => (s, any)
      | i :: _ => State.pauseUntil n (s.pauseReq i) true

/-- Allocate every demand, in ascending request index (R311). -/
def State.allocAll (s : State) : State :=
  (s.reqsIn [rqPREFILL, rqDECODE]).foldl (fun s i =>
    if s.demand i = 0 then s else State.growPages i (s.demand i) s) s

/-- Accounts that may take a request (R313). -/
def State.candidates (s : State) : List Nat :=
  (s.sv.accts.filter (fun q => !(q.2.paused.isEmpty && q.2.queued.isEmpty) && decide (0 < q.2.budget))).map (fun q => q.1)

/-- Accounts with an empty queue have no credit (R313). -/
def State.clearCredits (s : State) : State :=
  s.sv.accts.foldl (fun s q =>
    if q.2.paused.isEmpty && q.2.queued.isEmpty then s.setAcct q.1 { q.2 with credit := 0 } else s) s

/-- One round of credit: every candidate gains its weight, the chosen one loses the sum of the weights (R313). -/
def State.creditRound (s : State) (l : List Nat) : State × Option Nat :=
  let w (a : Nat) : Int := ((tget 0 s.sv.weights a : Nat) : Int)
  let s := l.foldl (fun s a => s.setAcct a { s.acct a with credit := (s.acct a).credit + w a }) s
  let best := l.foldl (fun (b : Option Nat) a =>
    match b with
    | none => some a
    | some c => if (s.acct c).credit < (s.acct a).credit then some a else some c) none
  match best with
  | none => (s, none)
  | some a => (s.setAcct a { s.acct a with credit := (s.acct a).credit - (l.map w).sum }, some a)

/-- Admit a request as PREFILL with a chunk (R313). -/
def State.admitReq (s : State) (i c : Nat) : State :=
  let r := s.req i
  let s := s.dequeue i
  let n := s.sv.admitCount
  let s := { s with sv := { s.sv with admitCount := n + 1 } }
  let x := s.rx i
  let s := s.setRx i { x with target := r.promptLen + r.generated, admitted := n, inStep := true, prefill := true
                              chunk := c, used := if x.paused then 0 else c }
  State.growPages i ((c + 15) / 16) (s.setReq i { r with state := rqPREFILL, length := 0 })

/-- Admission (R313), `left` positions remaining in the step. -/
def State.admitAll : Nat → Nat → State → State
  | 0, _, s => s
  | n + 1, left, s =>
    let s := s.clearCredits
    if s.o kSV_RUN_MAX ≤ s.running_.length then s
    else
      let (s, a) := s.creditRound s.candidates
      match a with
      | none => s
      | some a =>
        match (s.acct a).paused ++ (s.acct a).queued with
        | [] => s
        | i :: _ =>
          let c := min (min (s.o kSV_CHUNK) ((s.req i).promptLen + (s.req i).generated)) left
          if c = 0 then s
          else if s.freeHot + s.freeCold < (c + 15) / 16 then s.addO 32 kSV_REFUSALS 1
          else State.admitAll n (left - c) (s.admitReq i c)

/-- Pages that may be demoted, in order (R309): hot ones of running requests, but for each request's last SV_HOT_TAIL. -/
def State.demotable (s : State) : List Nat :=
  s.pauseOrder.flatMap (fun i =>
    let ds := s.pageList i
    (ds.take (ds.length - s.o kSV_HOT_TAIL)).filter (fun d =>
      decide (d < s.o kSV_HOT_PAGES) && (s.page d).state == 1))

/-- Demotion (R309), up to `n` pages. -/
def State.demote : Nat → List Nat → State → State
  | 0, _, s => s
  | _, [], s => s
  | n + 1, d :: t, s =>
    if s.o kSV_HOT_RESERVE ≤ s.freeHot || s.freeCold = 0 then s
    else
      let e := s.lowCold
      let x := s.page d
      let s := (s.setPage d { x with state := 2 }).setPage e { state := 2, request := x.request, ordinal := x.ordinal }
      let m : Demotion := { d := d, e := e, req := x.request, phase := 0, dead := false }
      State.demote n t { s with sv := { s.sv with demotions := s.sv.demotions ++ [m] } }

/-- Boundary (R311), in its order. -/
def State.boundary (s : State) : State :=
  let s := s.latchAccts
  let s := (s.sv.demotions.filter (fun m => m.phase != 0)).foldl State.settleDemotion s
  let s := (upto 24).foldl State.chanBoundary s.leaveAll
  if s.sv.stopping || (s.svState == svDRAINING && s.reqIds.isEmpty) then
    ({ s.setO kSV_STATE svSTOPPED with sv := { s.sv with stopping := false, phase := 0 } }).svCounts
  else
    let (s, left) := s.grantPositions
    let (s, paused) := State.pauseUntil s.reqIds.length s false
    let s := s.allocAll
    let s := if paused then s else State.admitAll ((s.reqsIn [rqQUEUED, rqPAUSED]).length + 1) left s
    let s := State.demote (s.o kSV_DEMOTE_MAX) s.demotable s
    { s with sv := { s.sv with phase := 1 } }.svCounts

/-- SERVING_BOUNDARY (R311). -/
def execServingBoundary (s : State) : Out :=
  .next (if s.svState = svSTOPPED || s.sv.phase ≠ 0 then s else s.boundary)

/-- Place of a page slot of a model (R306): partition, hot or cold, address, length. -/
def State.pageSlot (s : State) (draft : Bool) (d : Nat) : Nat × Bool × Nat × Nat :=
  let hot := decide (d < s.o kSV_HOT_PAGES)
  let p := if draft then s.svDraft else s.svTeacher
  let n := if draft then s.o kSV_D_PAGE_BYTES else s.o kSV_T_PAGE_BYTES
  let b :=
    if hot then (if draft then s.o kSV_D_HOT_BASE else s.o kSV_T_HOT_BASE) + d * n
    else (if draft then s.o kSV_D_COLD_BASE else s.o kSV_T_COLD_BASE) + (d - s.o kSV_HOT_PAGES) * n
  (p, hot, b, n)

/-- Copy one model's slot of d to that of e; none if it met an uncorrectable word (R309, R147). -/
def State.copySlot (s : State) (draft : Bool) (d e : Nat) : State × Bool :=
  let x := s.pageSlot draft d
  let y := s.pageSlot draft e
  match s.udPhys x.1 x.2.2.1 x.2.2.2 false with
  | some a =>
    if s.decks.udBadIn a x.2.2.2 then (s.errRec (uncorrRec x.1 a), false)
    else (s.ldWrite y.1 y.2.2.1 (s.decks.udRead a x.2.2.2), true)
  | none => (s, false)

/-- DEMOTION_COPY_END (R309): the copies of both slots end; one that meets DECK_UNCORR ends the request with that result. -/
def execDemotionCopyEnd (d : Nat) (s : State) : Out :=
  match s.sv.demotions.find? (fun m => m.d == d && m.phase == 0) with
  | none => .next s
  | some m =>
    let (s, ok1) := s.copySlot false m.d m.e
    let (s, ok2) := if s.hasDraft then s.copySlot true m.d m.e else (s, true)
    let ok := ok1 && ok2
    let s := { s with sv := { s.sv with demotions := s.sv.demotions.map (fun (x : Demotion) =>
      if x.d = d then { x with phase := if ok then 1 else 2 } else x) } }
    .next (if ok || m.dead || (s.req m.req).state = rqFREE then s
           else s.badReq m.req rsDECK_UNCORR)

/-! The phases of a step (R310, R315 to R318). -/

/-- Requests that take part in the step and still run. -/
def State.inPhase (s : State) : List Nat :=
  (s.reqsIn [rqPREFILL, rqDECODE]).filter (fun i => (s.rx i).inStep)

/-- Physical address of a model's page slot with an unreadable word (R147), none if every word can be read. -/
def State.slotBad (s : State) (draft : Bool) (d : Nat) : Option Nat :=
  let x := s.pageSlot draft d
  if x.2.1 then
    match s.udPhys x.1 x.2.2.1 x.2.2.2 false with
    | some a => if s.decks.udBadIn a x.2.2.2 then some a else none
    | none => none
  else if s.ldBadIn x.1 x.2.2.1 x.2.2.2 then s.ldPhys x.1 x.2.2.1
  else none

/-- Unreadable words in a request's written pages of one model (R147, R329). -/
def State.pagesBad (s : State) (draft : Bool) (i : Nat) : List Nat :=
  ((s.pageList i).filter (fun d => (s.page d).fill != 0)).filterMap (s.slotBad draft)

/-- An uncorrectable read ends the request with DECK_UNCORR and is recorded (R147, R329). -/
def State.readFails (s : State) (p i a : Nat) : State := (s.errRec (uncorrRec p a)).badReq i rsDECK_UNCORR

/-- DRAFT_PHASE (R315): every drafting request has its draft tokens, and the verify phase begins; one whose draft pages could not
be read ends (R329). -/
def execDraftPhase (s : State) : Out :=
  if s.svState = svSTOPPED || s.sv.phase ≠ 1 then .next s
  else if s.sv.rows.isEmpty && s.inPhase.all (fun i => (s.rx i).drafts.length == (s.rx i).k) then
    let s := (s.inPhase.filter (fun i => decide (0 < (s.rx i).k))).foldl (fun (s : State) i =>
      match s.pagesBad true i with
      | a :: _ => s.readFails s.svDraft i a
      | [] => s) s
    .next { s with sv := { s.sv with phase := 2 } }
  else .next s

/-- A request's chunk reaches its target in the step (R316). -/
def State.reaches (s : State) (i : Nat) : Bool :=
  (s.rx i).prefill && (s.req i).length + (s.rx i).chunk == (s.rx i).target

/-- What the teacher's reads for a request meet (R329): BAD_TOKEN or DECK_UNCORR and the address, 0 for none. -/
def State.readFault (s : State) (i : Nat) : Nat × Nat :=
  let r := s.req i
  let x := s.rx i
  match s.pagesBad false i with
  | a :: _ => (rsDECK_UNCORR, a)
  | [] =>
    if !x.prefill then (0, 0)
    else match s.udPhys s.svTeacher (r.tokenAddr + 4 * r.length) (4 * x.chunk) false with
      | none => (0, 0)
      | some a =>
        if s.decks.udBadIn a (4 * x.chunk) then (rsDECK_UNCORR, a)
        else if (upto x.chunk).any (fun k => decide (r.length + k < r.promptLen)
            && decide (s.o kSV_VOCAB ≤ leNat (s.decks.udRead (a + 4 * k) 4))) then (rsBAD_TOKEN, 0)
        else (0, 0)

/-- The counts of a request after the verify phase (R316, R323). -/
def State.countVerify (s : State) (i : Nat) : State :=
  let r := s.req i
  let x := s.rx i
  let st := if x.last ≠ 0 then rqLEAVING else if x.decided then rqDECODE else r.state
  let len := r.length + (if x.prefill then x.chunk else x.accepted + 1)
  let s := s.setReq i { r with length := len, generated := r.generated + x.emitted.length, state := st
                               result := x.last }
  let s := (s.addO 64 kSV_DRAFTED x.k).addO 64 kSV_ACCEPTED (x.emitted.filter (fun q => q.2)).length
  s.fillPages i

/-- VERIFY_PHASE (R316, R323, R329): every row of the step has been decided, and the requests' counts change. -/
def execVerifyPhase (s : State) : Out :=
  if s.svState = svSTOPPED || s.sv.phase ≠ 2 then .next s
  else if s.sv.rows.isEmpty && s.inPhase.all (fun i => (s.rx i).decided || ((s.rx i).prefill && !s.reaches i)) then
    let s := s.inPhase.foldl (fun s i =>
      let f := s.readFault i
      if f.1 = 0 then s.countVerify i
      else
        let s := if f.1 = rsDECK_UNCORR then s.errRec (uncorrRec s.svTeacher f.2) else s
        s.badReq i f.1) s
    .next { s with sv := { s.sv with phase := 3 } }.svCounts
  else .next s

/-- The end of a step for a DECODE request's drafting (R317). -/
def endDrafting (r : Req) (x : ReqX) : Req × Bool :=
  if !x.inStep || x.prefill || !x.decided then (r, false)
  else if 1 ≤ x.k then
    if 0 < x.accepted then ({ r with draftK := min r.draftMax (x.accepted + 1), rejectRun := 0 }, false)
    else if r.rejectRun + 1 = 16 then ({ r with draftK := 1, rejectRun := 0, draftOff := 256 }, true)
    else ({ r with draftK := min r.draftMax 1, rejectRun := r.rejectRun + 1 }, false)
  else ({ r with draftOff := r.draftOff - 1 }, false)

/-- Does harvest capture the request's account (R186)? -/
def State.harvesting (s : State) (i : Nat) : Bool :=
  let a := (s.req i).account
  s.o (kTY_HV_ENABLE s.svTeacher) = 1 && (s.blob (kTY_HV_ACCOUNTS s.svTeacher) (a / 8)).toNat.testBit (a % 8)

/-- What a record carries of one teacher row (R161, R174, R187): its hidden state, or its floored log-probabilities at the
harvest temperature, in BD8 with TS = 1.0, codes and scales. The F32 steps of the log-probability are those of the loss
kernel (DESIGN CHOICE, log entry 41). -/
def State.captureRow (s : State) (row : JettonReq) (z : List F32) : List Byte × List Byte :=
  let p := s.svTeacher
  if s.o (kTY_HV_FORM p) = 1 then
    ((upto (s.o (kTY_HV_HIDDEN p))).flatMap (fun k => leBytes 2 (row.hidden.getD k 0).toNat), [])
  else
    let c := f32mul (f32div 0x3F800000 (BitVec.ofNat 32 (s.o (kTY_HV_TEMP p)))) f32Log2e
    let y := z.map (fun v => f32mul v c)
    let lse := (rowLse (y.map kVal)).1
    let fl : F32 := BitVec.ofNat 32 (s.o (kTY_HV_LOGP_FLOOR p))
    let l := y.map (fun v => BitVec.ofNat 32 (fmt32.maxMin true (f32mul (f32sub v lse) f32Ln2).toNat fl.toNat).1)
    let en := encodeRow bd8 0x3F800000 (fun _ => .rne) (l.map (fun v => some (f32dec v)))
    (packCodes bd8 en.2.1, en.1.map (BitVec.ofNat 8))

/-- The rows of the delivered tokens in the record's sections at physical address `a` (R161, R187): nine rows of room each. -/
def Decks.putRows (d : Decks) (a : Nat) (rows : List (List Byte × List Byte)) : Decks :=
  rows.zipIdx.foldl (fun d q =>
    let n := q.1.1.length
    let d := (d.udWrite (a + 64 + q.2 * n) q.1.1).1
    (d.udWrite (a + 64 + 9 * n + q.2 * q.1.2.length) q.1.2).1) d

/-- Capture the tokens delivered to a request in the step (R186 to R189). -/
def State.harvestTokens (s : State) (i n pos : Nat) : State :=
  let p := s.svTeacher
  let h := s.harvest p
  let size := s.o (kTY_HV_RSIZE p)
  let bytes := s.o (kTY_HV_BUF_BYTES p)
  if n = 0 || !s.harvesting i then s
  else if h.stopped || bytes / size ≤ h.buf.length then s.addO 64 (kTY_HV_DROPPED p) 1
  else
    let (s, q) := s.draw
    let stream := s.o (kTY_HV_FORM p) == 1
    let hd : RecHeader :=
      { seq := q.toNat, tokens := n, stream := stream, harvest := true, step := s.o kSV_STEP, stroke := s.stroke
        payload := n * payload0 stream (s.o (kTY_HV_HIDDEN p)) (s.o kSV_VOCAB), position := pos, request := i }
    let nx := if bytes < h.tail + 2 * size then 0 else h.tail + size
    let s := s.setHarvest p { h with buf := h.buf ++ [h.tail], tail := nx }
    let rows := (upto n).map (fun k =>
      (((s.rx i).captured.find? (fun c => c.1 == pos + k)).map (·.2)).getD ([], []))
    match s.udPhys p (s.o (kTY_HV_BUF p) + h.tail) size true with
    | some x => { s with decks := (s.decks.putRows x rows).udWrite x hd.bytes |>.1 }
    | none => s

/-- Position of the first token that a request emits in the step (R315, R316), from its counts after the verify phase. -/
def firstPos (r : Req) (x : ReqX) : Nat :=
  if x.prefill then x.target else r.promptLen + r.generated - x.emitted.length

/-- Deliver a request's tokens of the step, the last with FINAL and the result if it is the request's last (R322, R323). -/
def State.deliverTokens (s : State) (i result : Nat) : State :=
  let r := s.req i
  let x := s.rx i
  let n := x.emitted.length
  let s := x.emitted.zipIdx.foldl (fun s q =>
    let fin := decide (result ≠ 0) && decide (q.2 + 1 = n)
    s.postRec r.channel (s.tokRec i q.1.1 (firstPos r x + q.2) result q.1.2 fin)) s
  let s := if result = 0 then s else (s.setReq i { r with result := result }).setRx i { x with finalDone := true }
  s.harvestTokens i n (firstPos r x)

/-- Delivery for one request (R322, R323, R326 to R328). -/
def State.deliverReq (s : State) (i : Nat) : State :=
  let r := s.req i
  let x := s.rx i
  let n := s.o kSV_STEP
  let bad := r.state == rqLEAVING && x.bad
  let (r1, off) := endDrafting r x
  let s := (s.setReq i r1)
  let s := if off then s.addO 32 kSV_DRAFT_OFFS 1 else s
  if bad || r.state = rqQUEUED || r.state = rqPAUSED || r.state = rqHELD then s
  else if !r.cancel || n + 1 < x.cancelStep then s.deliverTokens i x.last
  else if x.last ≠ 0 && x.cancelStep = n + 1 then s.deliverTokens i rsCANCEL_LATE
  else if r.channel < 16 then s.badReq i rsCANCELLED
  else if x.last ≠ 0 then s.setReq i { s.req i with result := rsCANCELLED_SEALED }
  else s

/-- Budgets lose the positions of the step (R314). -/
def State.chargeAccts (s : State) : State :=
  s.reqIds.foldl (fun s i =>
    let u := (s.rx i).used
    let a := (s.req i).account
    let x := s.acct a
    let cap : Int := ((tget 0 s.sv.caps a : Nat) : Int)
    if u = 0 then s else s.setAcct a { x with budget := max (x.budget - (u : Int)) (-cap) }) s

/-- DELIVERY (R310, R314, R317, R322): token records in ascending request index, budgets, and the step ends. -/
def execDelivery (s : State) : Out :=
  if s.svState = svSTOPPED || s.sv.phase ≠ 3 then .next s
  else
    let s := s.reqIds.foldl State.deliverReq s
    let s := s.chargeAccts
    let s := s.setO kSV_STEP (s.o kSV_STEP + 1)
    .next { s with sv := { s.sv with phase := 0 } }.svCounts

/-! The jetton units (R316, R319 to R321). -/

/-- Is the row one that the step still needs? Draft rows come round by round (R315), teacher rows in any order (R316). -/
def State.rowDue (s : State) (row : JettonReq) : Bool :=
  let r := s.req row.req
  let x := s.rx row.req
  let same := s.sv.rows.any (fun q => q.row.req == row.req && q.row.pos == row.pos && q.row.teacher == row.teacher)
  if same || !x.inStep then false
  else if !row.teacher then
    s.sv.phase == 1 && r.state == rqDECODE && decide (x.drafts.length < x.k)
      && row.pos == r.length + x.drafts.length + 1
  else if s.sv.phase ≠ 2 || x.decided then false
  else if r.state = rqPREFILL then s.reaches row.req && row.pos == x.target && !row.test
  else if r.state = rqDECODE then
    let j := row.pos - r.length
    decide (1 ≤ j) && decide (j ≤ x.k + 1) && !x.results.any (fun q => q.1 == j)
      && row.test == decide (j ≤ x.k)
      && (!row.test || row.draftToken == (x.drafts.getD (j - 1) (0, 0)).1)
  else false

/-- JETTON_ROW (R319): the row goes to the unit of the die that holds its slice. -/
def execJettonRow (rod : Nat) (row : JettonReq) (s : State) : Out :=
  let p := s.owner rod
  if !s.issues rod || s.svState = svSTOPPED || p ≠ (if row.teacher then s.svTeacher else s.svDraft) then .next s
  else match s.udPhys p row.addr (4 * s.o kSV_VOCAB) false with
    | none => .next (s.failRod rod stDECK_RANGE)
    | some a =>
      if !s.rowDue row then .next s
      else
        let q : JRow := { row := row, rod := rod, die := rodDie (a / 2 ^ 29), phys := a, startNs := s.ns }
        .next { s with sv := { s.sv with rows := s.sv.rows ++ [q] } }

/-- The logits of a row; none if a word of it is unreadable (R147). -/
def State.logits (s : State) (a : Nat) : Option (List F32) :=
  let v := s.o kSV_VOCAB
  if s.decks.udBadIn a (4 * v) then none
  else some ((upto v).map (fun k => BitVec.ofNat 32 (leNat (s.decks.udRead (a + 4 * k) 4))))

/-- A sample of a distribution; a free token where the spec gives none (R321, log entry 3). -/
def State.sampled (s : State) (d : List (Nat × F32)) (u : F32) : State × Nat :=
  match jtSample d u with
  | some t => (s, t)
  | none =>
    let (s, v) := s.draw
    (s, v.toNat % max 1 (s.o kSV_VOCAB))

/-- A token from a distribution: the argmax of a greedy request, else a sample (R316, R321). -/
def State.pick (s : State) (r : Req) (d : List (Nat × F32)) (stream pos : Nat) : State × Nat :=
  if jtGreedy r.temp then (s, (jtMax d).1) else s.sampled d (jtDraw r.seed.toNat stream pos)

/-- Outcome of a row (R316): state, accepted, token, residual sampled; or a result of R329. -/
def State.rowOutcome (s : State) (q : JRow) : Except Nat (State × Bool × Nat × Bool) :=
  let r := s.req q.row.req
  let x := s.rx q.row.req
  let g := jtGreedy r.temp
  let dist (z : List F32) := jtDist z r.temp r.topK r.topP
  match s.logits q.phys with
  | none => .error rsDECK_UNCORR
  | some z =>
    match dist z with
    | none => .error rsNONFINITE
    | some p =>
      if !q.row.teacher then
        let (s, t) := s.pick r p jtDraft q.row.pos
        .ok (s, false, t, false)
      else if !q.row.test then
        let (s, t) := s.pick r p jtToken q.row.pos
        .ok (s, false, t, false)
      else match s.logits (x.drafts.getD (q.row.pos - r.length - 1) (0, 0)).2 with
        | none => .error rsDECK_UNCORR
        | some w =>
          let d := (dist w).getD []
          if jtAccepts g p d q.row.draftToken (jtDraw r.seed.toNat jtAccept q.row.pos) then
            .ok (s, true, q.row.draftToken, false)
          else
            let (s, t) := s.pick r (if g then p else jtResidual p d) jtToken q.row.pos
            .ok (s, false, t, !g)

/-- Result that a token gives as a request's last, `n` tokens emitted with it in the step; 0 if it is not the last (R323). -/
def lastResult (r : Req) (token n : Nat) : Nat :=
  if r.stopEn && token = r.stopToken then rsSTOP else if r.generated + n = r.maxNew then rsMAX else 0

/-- Emit a token (R303, R316, R323): written to the token area unless an earlier one was the last. -/
def State.emit (s : State) (i token : Nat) (drafted : Bool) : State :=
  let r := s.req i
  let x := s.rx i
  if x.last ≠ 0 then s
  else
    let n := x.emitted.length
    let a := r.tokenAddr + 4 * (r.promptLen + r.generated + n)
    let s := match s.udPhys s.svTeacher a 4 false with
      | some b =>
        let (d, cut) := s.decks.udWrite b (leBytes 4 token)
        let s := { s with decks := d }
        if cut then s.errRec (uncorrRec s.svTeacher b) else s
      | none => s
    s.setRx i { x with emitted := x.emitted ++ [(token, drafted)], last := lastResult r token (n + 1) }

/-- Follow the procedure of R316 through the results known so far. -/
def State.resolve (i : Nat) : Nat → State → State
  | 0, s => s
  | n + 1, s =>
    let x := s.rx i
    if x.decided then s
    else match x.results.find? (fun q => q.1 == x.accepted + 1) with
      | none => s
      | some (_, true, t) =>
        let s := s.emit i t true
        State.resolve i n (s.setRx i { s.rx i with accepted := x.accepted + 1 })
      | some (_, false, t) =>
        let s := s.emit i t false
        s.setRx i { s.rx i with decided := true }

/-- Count a row in JT_ROWS and JT_BUSY_CYCLES (R319, R330). -/
def State.countRow (s : State) (die cycles : Nat) : State :=
  let v := s.sv
  { s with sv := { v with jtRows := tset 0 v.jtRows die (satAdd 64 (tget 0 v.jtRows die) 1)
                          jtBusy := tset 0 v.jtBusy die (satAdd 64 (tget 0 v.jtBusy die) cycles) } }

/-- JETTON_ROW_DONE (R319, R321): the unit of a die finishes its oldest row; the token goes to the program, and an emitted
one to the token area. -/
def execJettonRowDone (die : Nat) (s : State) : Out :=
  match s.sv.rows.find? (fun q => q.die == die) with
  | none => .next s
  | some q =>
    let i := q.row.req
    let s := { s with sv := { s.sv with rows := s.sv.rows.erase q } }
    let r := s.req i
    let x := s.rx i
    let g := jtGreedy r.temp
    let v := s.o kSV_VOCAB
    if (r.state ≠ rqPREFILL && r.state ≠ rqDECODE) || !x.inStep then .next (s.countRow die (jtCycles v g q.row.test false))
    else match s.rowOutcome q with
      | .error e =>
        let s := s.countRow die (jtCycles v g q.row.test false)
        let s := if e = rsDECK_UNCORR then s.errRec (uncorrRec (s.owner q.rod) q.phys) else s
        .next (s.badReq i e)
      | .ok (s, acc, t, res) =>
        let s := s.countRow die (jtCycles v g q.row.test res)
        let s := s.setRod q.rod { s.rod q.rod with ret := t }
        if !q.row.teacher then .next (s.setRx i { x with drafts := x.drafts ++ [(t, q.phys)] })
        else
          let j := if x.prefill then 1 else q.row.pos - r.length
          let x := if s.harvesting i then
              { x with captured := x.captured ++ [(q.row.pos, s.captureRow q.row ((s.logits q.phys).getD []))] } else x
          .next (State.resolve i (x.k + 1) (s.setRx i { x with results := x.results ++ [(j, acc, t)] }))

/-! Channels (R325, R396). -/

/-- Is the value one SV_CH_ENTRIES takes (R332)? -/
def entriesOk (n : Nat) : Bool := n == 0 || (decide (64 ≤ n) && decide (n ≤ 1048576) && n == 2 ^ Nat.log2 n)

/-- A ring change (R325): held pending while the server is not STOPPED, otherwise in force at once. -/
def State.ringChange (s : State) (path : Path) (c : Nat) (base entries : Option Nat) : State × Nat :=
  if (match base with | some b => b % 4096 != 0 || decide (2 ^ 64 ≤ b) | none => false)
      || (match entries with | some n => !entriesOk n | none => false) then (s, invalidParam path)
  else
    let x := s.chan c
    let cur := x.change.getD (s.o (kSV_CH_BASE c), s.o (kSV_CH_ENTRIES c))
    let b := base.getD cur.1
    let n := entries.getD cur.2
    if s.svState = svSTOPPED then
      let s := ((s.setO (kSV_CH_BASE c) b).setO (kSV_CH_ENTRIES c) n).setO (kSV_CH_HEAD c) 0
      ((s.setO (kSV_CH_TAIL c) 0).setChan c { held := if n = 0 then [] else x.held, beyond := if n = 0 then [] else x.beyond } |>.drainChan c, 0)
    else (s.setChan c { x with change := some (b, n) }, 0)

/-- An ignored doorbell (R388, R396). -/
def State.dbError (s : State) (fn : Nat) : State :=
  (s.setFunc fn { s.func fn with dbErr := true }).addO 32 kCQ_DB_ERRORS 1

/-- A write of SV_CH_TAIL (R324, R325, R396). -/
def State.chTail (s : State) (c value : Nat) : State :=
  let freed := (value + 2 ^ 32 - s.o (kSV_CH_TAIL c) % 2 ^ 32) % 2 ^ 32
  if s.ringCount c < freed then s.dbError (s.svTeacher + 1)
  else (s.setO (kSV_CH_TAIL c) (value % 2 ^ 32)).drainChan c

/-- CQ_CH_TAIL (R396, R400): ignored while the function is being reset. -/
def execCqChTail (fn c value : Nat) (s : State) : Out :=
  .next (if !s.fnUp fn || 24 ≤ c then s else if fn ≠ s.svTeacher + 1 then s.dbError fn else s.chTail c value)

end Sys2Proof.Machine
end

