-- ==== Sys2Proof/Machine/DictRead.lean ====
section
/-! DEFINITION. Reading the dictionary (R402 to R407, R411): the values that the part computes, and the bytes of every object. -/

namespace Sys2Proof.Machine

open Sys2Proof

/-- Byte `i` of a little-endian number. -/
def numByte (v i : Nat) : Byte := BitVec.ofNat 8 (v >>> (8 * i))

/-- Byte `i` of a table whose entry `k` is the number `f k` of `w` bytes. -/
def recByte (w : Nat) (f : Nat → Nat) (i : Nat) : Byte := numByte (f (i / w)) (i % w)

/-- Byte `i` of a list of bytes, padded with zeros. -/
def padByte (l : List Byte) (i : Nat) : Byte := l.getD i 0

/-- "Holtust" and "GVM-1" (R406). -/
def vendorName : List Byte := [0x48, 0x6F, 0x6C, 0x74, 0x75, 0x73, 0x74]
def partName : List Byte := [0x47, 0x56, 0x4D, 0x2D, 0x31]

/-! The directory (R406). -/

/-- One directory entry: index, subindex, type, access, size. -/
def dirEntry (idx : Nat) (r : DirRow) : Nat :=
  idx + r.sub * 2 ^ 16 + r.ty * 2 ^ 24 + r.acc * 2 ^ 32 + r.size * 2 ^ 64

/-- The entries in ascending index and subindex. -/
def dirEntries : List Nat :=
  let bases := directory.foldl (fun (l : List Nat) r => if l.contains r.base then l else l ++ [r.base]) []
  bases.flatMap (fun b =>
    let rs := directory.filter (fun r => r.base == b)
    let n := match rs with | r :: _ => r.count | [] => 0
    (upto n).flatMap (fun i => rs.map (fun r => dirEntry (b + i) r)))

/-! Scalars that the part computes. -/

/-- Mean of some samples; `d` where there are none. -/
def mean (l : List Nat) (d : Nat) : Nat := if l.isEmpty then d else l.sum / l.length

/-- Rods of frame `f` that are in service (R37), as bits. -/
def State.frameMask (s : State) (f : Nat) : Nat :=
  maskOf ((upto 9).filter (fun i => match (frameRods f)[i]? with | some r => (s.rod r).st != .off && (s.rod r).fenceLevel == 0 | none => false))

def rodCode : RodState → Nat
  | .off => 0
  | .enabled => 1
  | .fencing => 2
  | .coreFenced => 3
  | .fullFenced => 4

/-- Position of a key in a family of `n` instances of `span` indices from `k0`. -/
def inFam (k0 n key : Nat) : Option Nat :=
  if k0 ≤ key && (key - k0) % 256 == 0 && decide ((key - k0) / 256 < n) then some ((key - k0) / 256) else none

/-- Value of a scalar object (R404). -/
def State.scalar (s : State) (key : Nat) : Nat :=
  if key = kSTEPPING then Config.stepping.toNat
  else if key = kDICT_PERSIST_PENDING then min 0xFFFF s.flash.dirty.length
  else if key = kFN_PENDING_COUNT then min 0xFFFF s.pend.length
  else if key = kATT_DEBUG then bnat s.boot.debug
  else if key = kFW_TRIES then s.tries
  else if key = kMON_LEVEL then s.mon.level
  else if key = kPW_VIN_MV then mean s.st.vins s.st.vin
  else if key = kPW_POWER_W then mean (s.st.power.take 100) 0 / 1000
  else if key = kPW_TJ then (f32ofRat false s.junction 10).toNat
  else if key = kPW_LEVEL then s.level
  else if key = kPW_LEVEL_CAUSE then s.levelCause
  else if key = kST_BALANCE_MJ then balanceMj s.st.balance
  else if key = kST_QUEUE then s.st.queue.length
  else if key = kFENCED_COUNT then (s.rods.filter (fun q => q.2.st == .coreFenced || q.2.st == .fullFenced)).length
  else if key = kOP_NODE_ID then ownNode
  else if key = kERR_SEQ then s.errs.seq
  else match inFam (kOP_QUAR_REMAIN 0) 64 key with
  | some l => if s.lkState l = lkQUARANTINED then (s.link l).quarEnd - s.stroke else 0
  | none => match inFam (kPT_RESIDENT 0) 16 key with
  | some p => s.residentNow p
  | none => match inFam (kPT_CTX_STATE 0) 128 key with
  | some c => s.ctxState (c / 8) (c % 8)
  | none => match inFam (kPT_CTX_VTIME 0) 128 key with
  | some c => let v := (s.ctx (c / 8) (c % 8)).vNow s.ns; v.n / v.d
  | none => match inFam (kGUARD_REMAIN 0) 16 key with
  | some p => s.guardRemain p
  | none => match inFam (kRK_QUEUE_FILL 0) 16 key with
  | some p => s.queueFill p
  | none => s.o key

/-! Bytes of the STR and BLOB objects that the part computes. -/

/-- Firmware and security objects (R458, R459). -/
def State.fwByte (s : State) (key i : Nat) : Option Byte :=
  if key = kVENDOR then some (padByte vendorName i)
  else if key = kPART_NUMBER then some (padByte partName i)
  else if key = kSERIAL then some (Config.serial i)
  else if key = kDICT_DIRECTORY then some (recByte 12 (fun k => dirEntries.getD k 0) i)
  else if key = kFW_IMAGES then
    let b := i / 160
    let n := i % 160 / 32 + 1
    let st := s.copyState b n
    some (match (s.bank b).slot n with
      | some x => numByte (st + n * 2 ^ 8 + x.svn * 2 ^ 32 + (x.version % 2 ^ 64) * 2 ^ 64
          + (x.digest.toNat % 2 ^ 128) * 2 ^ 128) (i % 32)
      | none => if i % 32 < 4 then numByte (st + n * 2 ^ 8) (i % 32) else Config.erasedEntry (i % 32))
  else if key = kFW_LEVELS then
    some (recByte 8 (fun k => ((s.imageLevels (k / 16)).getD (k % 16) 0).toNat) i)
  else if key = kFW_MIN_SVN then some (recByte 4 (fun k => tget 0 s.boot.minSvn (k + 1)) i)
  else if key = kFN_PENDING then
    some (recByte 8 (fun k => match s.pend[k]? with | some e => e.kind + e.inst % 2 ^ 16 * 2 ^ 16 | none => 0) i)
  else if key = kATT_REGS then some (recByte 32 (fun k => (tget (0 : BitVec 256) s.boot.regs k).toNat) i)
  else if key = kATT_CERTS then some (Config.certs i)
  else none

/-- Power, strokes and errors (R375, R376, R473). -/
def State.powerByte (s : State) (key i : Nat) : Option Byte :=
  if key = kPW_TJ_DIE then some (recByte 4 (fun d => (f32ofRat false (tget 0 s.st.tj d) 10).toNat) i)
  else if key = kPW_LEVEL_TABLE then some (recByte 4 (fun n => 1200 + 100 * n + levelK n * 2 ^ 16) i)
  else if key = kST_LEDGER then some (recByte 32 (fun k => (tget (0 : BitVec 256) s.st.ledger k).toNat) i)
  else if key = kERR_RING then
    some (recByte 64 (fun k => match tget none s.errs.ring k with | some r => r.toBits.toNat | none => 0) i)
  else if key = kERR_PERSIST then
    some (recByte 64 (fun k => match s.errs.persist[k]? with | some r => r.toBits.toNat | none => 0) i)
  else none

/-- Rods and decks (R39, R149). -/
def State.deckByte (s : State) (key i : Nat) : Option Byte :=
  if key = kROD_STATE then some (numByte (rodCode (s.rod i).st) 0)
  else if key = kFRAME_ROD_MASK then some (recByte 2 s.frameMask i)
  else if key = kROD_DISCARDS then some (recByte 4 (fun r => (s.rod r).discards) i)
  else if key = kDK_LD_OWNER then
    some (numByte (if i = 1023 then 0x12 else if s.decks.filling.any (fun f => f.1 == i) then 0xFE
      else tget 0xFF s.decks.owner i) 0)
  else if key = kDK_PKG_STATE then some (numByte (tget 0 s.decks.pkg i) 0)
  else if key = kDK_SPARE_LEFT then some (recByte 2 (fun r => Config.spareRows - tget 0 s.decks.spareUsed r) i)
  else match inFam (kDK_SLICE_TABLE 0) 16 key with
  | some p => some (recByte 2 (fun k => (tget (0 : BitVec 16) (s.part p).slices k).toNat) i)
  | none => match inFam (kDK_EXTENT_TABLE 0) 16 key with
  | some p => some (recByte 2 (fun k => (tget (0 : BitVec 16) (s.part p).extents k).toNat) i)
  | none => match inFam (kDK_STAGE_FENCE 0) 16 key with
  | some p => some (if i < 256 then recByte 4 (fun f => tget 0 (s.part p).fences f) i
      else numByte (tget 0 (s.part p).fenceSt (i - 256)) 0)
  | none => none

/-- An entry of OP_ROUTES (R294, R297). -/
def routeEntry (r : Route) (b : Nat) : Byte :=
  let h := r.hops
  let best := match r.vias.filter (fun v => h.contains v.link) with
    | v :: vs => vs.foldl (fun (m x : Via) => if x.hops < m.hops then x else m) v
    | [] => { link := 0, cost := 0, hops := 0, seen := none }
  if b < 8 then numByte r.node b
  else if b < 10 then numByte best.cost (b - 8)
  else if b = 10 then numByte best.hops 0
  else if b = 11 then numByte h.length 0
  else if b < 16 then (match h[b - 12]? with | some l => numByte l 0 | none => Config.unusedHop (b - 12))
  else 0

/-- Optical ports (R297, R298). -/
def State.opByte (s : State) (key i : Nat) : Option Byte :=
  if key = kOP_ROUTES then
    some (match s.op.routes[i / 24]? with | some r => routeEntry r (i % 24) | none => 0)
  else match inFam (kOP_LINK_COUNTERS 0) 64 key with
  | some l =>
    let x := s.link l
    some (if i < 120 then
        let c := i / 12 + 1
        if i % 12 < 4 then numByte (recent s.stroke 1000 (tget [] x.window c)).length (i % 12)
        else numByte (tget 0 x.totals c) (i % 12 - 4)
      else recByte 8 (fun k => tget 0 x.totals (11 + k)) (i - 120))
  | none => none

/-- Partitions and serving (R330, R331, R353). -/
def State.svByte (s : State) (key i : Nat) : Option Byte :=
  if key = kPT_FRAME_OWNER then some (numByte (tget 0xFF s.frameOwner i) 0)
  else if key = kSV_REQ_TABLE then some (recByte 64 (fun k => (s.req k).image) i)
  else if key = kSV_PAGE_TABLE then some (recByte 16 (fun k => (s.page k).image) i)
  else if key = kJT_ROWS then some (recByte 8 (fun d => tget 0 s.sv.jtRows d) i)
  else if key = kJT_BUSY_CYCLES then some (recByte 8 (fun d => tget 0 s.sv.jtBusy d) i)
  else if key = kSV_ACCT_BUDGET then some (recByte 4 (fun a => ((s.acct a).budget % 4294967296).toNat) i)
  else match inFam (kPT_CTX_ACCOUNT 0) 128 key with
  | some c => some (recByte 8 (fun k => tget 0 (s.ctx (c / 8) (c % 8)).account k) i)
  | none => none

/-- Training (R191, R216, R240, R274). -/
def State.tyByte (s : State) (key i : Nat) : Option Byte :=
  match inFam (kTY_GRANT_MAP 0) 8 key with
  | some n => some (recByte 2 (fun k => tget 0xFFFF (s.pairing n).grants k) i)
  | none => match inFam (kTY_STEP_STATS 0) 8 key with
  | some n => some (if i < 48 then recByte 8 (fun k => tget 0 (s.pairing n).stats k) i
      else recByte 4 (fun k => tget 0 (s.pairing n).stats (6 + k)) (i - 48))
  | none => match inFam (kTY_LOSS 0) 8 key with
  | some n => some (recByte 4 (fun k => (tget (0 : F32) (s.pairing n).loss k).toNat) i)
  | none => match inFam (kUW_TABLE 0) 16 key with
  | some p => some (recByte 4 (fun k => (tget (0 : F32) (s.num p).uw k).toNat) i)
  | none => match inFam (kPHASE_RING 0) 16 key with
  | some p => some (recByte 64 (fun k => (tget (0 : BitVec 512) (s.num p).ring k).toNat) i)
  | none => match inFam (kRK_GROUPS 0) 16 key with
  | some p => some (recByte 64 (fun k => (s.rkGroup p k).toNat) i)
  | none => match inFam (kCY_ALLOT_HEADERS 0) 8 key with
  | some k => some (recByte 64 (fun g => (tget (0 : BitVec 512) (s.allot k).hdrs g).toNat) i)
  | none => none

def orElseByte (a : Option Byte) (b : Option Byte) : Option Byte := match a with | some x => some x | none => b

/-- Byte `i` of the value of an object. -/
def State.objByte (s : State) (r : DirRow) (key i : Nat) : Byte :=
  if r.acc = 3 then 0
  else if r.ty = 8 || r.ty = 9 then
    match orElseByte (s.fwByte key i) (orElseByte (s.powerByte key i) (orElseByte (s.deckByte key i)
        (orElseByte (s.opByte key i) (orElseByte (s.svByte key i) (s.tyByte key i))))) with
    | some b => b
    | none => s.blob key i
  else numByte (s.scalar key) i

/-! Reads. -/

/-- Ranges that observer level reads (R407). -/
def observed (idx : Nat) : Bool :=
  (decide (0x1000 ≤ idx) && decide (idx < 0x1300)) || (decide (0x2000 ≤ idx) && decide (idx < 0x4000))
    || (decide (0x5000 ≤ idx) && decide (idx < 0x7000))

/-- Partition by which an object is indexed (R385). -/
def objPart (idx : Nat) : Option Nat :=
  let fam (b per : Nat) : Option Nat := if b ≤ idx && idx < b + 16 * per then some ((idx - b) / per) else none
  ([(0x3410, 1), (0x3430, 1), (0x3440, 1), (0x4010, 1), (0x4100, 8), (0x4820, 1), (0x4840, 1), (0x4860, 1), (0x4870, 1),
    (0x4880, 4), (0x48C0, 1), (0x48D0, 1)] : List (Nat × Nat)).findSome? (fun x => fam x.1 x.2)

/-- May the path read the object (R385, R408, R409)? -/
def State.mayRead (s : State) (path : Path) (r : DirRow) (idx : Nat) : Bool :=
  match path with
  | .mailbox fn => fn == 0 || r.acc == 4 || objPart idx == some (fn - 1)
  | _ => decide (1 ≤ s.pathLevel path) || observed idx

/-- A span that an access may cover (R403, R385): the whole of a scalar, any span of a STR or BLOB; a ring READ may take part
of a scalar too. -/
def spanOk (r : DirRow) (off len : Nat) (part : Bool) : Bool :=
  decide (1 ≤ len) && decide (off + len ≤ r.size) && (r.ty == 8 || r.ty == 9 || part || (off == 0 && len == r.size))

/-- The state whose values a read returns: compute objects read their reset values in restricted mode (R413). -/
def State.readFrom (s : State) (idx : Nat) : State := if s.restricted && 0x4000 ≤ idx && idx < 0x5000 then State.reset else s

/-- A read of an object (R403, R404, R411): a status, or the state after it and the bytes. An RC object is cleared in the same
access; ATT_REPORT is signed at the read. -/
def State.readObject (s : State) (path : Path) (key off len : Nat) (part : Bool) : Except Nat (State × List Byte) :=
  match dirFind key with
  | none => .error (invalidParam path)
  | some r =>
    if !s.mayRead path r (key / 256) then .error (accessDenied path)
    else if !spanOk r off len part then .error (invalidParam path)
    else if key = kATT_REPORT then
      match s.attReport with
      | some q => .ok (q.1, (q.2.drop off).take len)
      | none => .error stFW_NO_IDENTITY
    else
      let v := s.readFrom (key / 256)
      let bytes := (upto len).map (fun i => v.objByte r key (off + i))
      .ok (if r.acc = 6 then s.setO key 0 else s, bytes)

end Sys2Proof.Machine
end

