-- ==== Sys2Proof/Machine/Mesh.lean ====
section
/-! DEFINITION. The mesh commands (R22 to R39, R340). -/

namespace Sys2Proof.Machine

open Sys2Proof

/-- A packet's kind belongs to its channel (R24): requests on VC0, responses and acknowledgements on VC1, writes on VC2,
management on VC3. -/
def channelOk (vc : Nat) : MeshKind → Bool
  | .read _ _ _ => vc == 0
  | .write _ _ _ => vc == 0 || vc == 2
  | .response _ => vc == 1
  | .ack _ => vc == 1
  | .manage => vc == 3

/-- A packet that the mesh carries (R24): rods, channel and kind, 64 B to 4 KiB of payload, a 16-bit sequence number, and a
write's payload is its data. -/
def packetOk (pkt : MeshPacket) : Bool :=
  decide (pkt.src < 576) && decide (pkt.dst < 576) && channelOk pkt.vc pkt.kind && decide (64 ≤ pkt.len)
    && decide (pkt.len ≤ 4096) && decide (pkt.seq < 2 ^ 16)
    && (match pkt.kind with | .write _ _ data => data.length == pkt.len | _ => true)

/-- The command behind a request or write ends with a status; one that no request or write stands for is the partition's running
command. -/
def State.failPacket (s : State) (part id st : Nat) : State :=
  match (s.mesh.vc0 ++ s.mesh.vc2).find? (fun r => r.id == id) with
  | some q => s.failIssuer q st
  | none => s.failRun part st 576

/-- A write that arrives (R28, R126, R147, R165): one that runs beyond the slice writes nothing, a ring slot not open to its writer
discards it; else its bytes are written, and a VC2 write is acknowledged on VC1. -/
def State.landWrite (s : State) (pkt : MeshPacket) (addr id : Nat) (data : List Byte) : State :=
  let a := pkt.dst * 2 ^ 29 + addr
  if sliceBytes < addr + data.length then s.failPacket pkt.part id stDECK_RANGE
  else if !s.physOk pkt.part a data.length then s.failPacket pkt.part id stTY_ORDER
  else
    let (d, cut) := s.decks.udWrite a data
    let s := { s with decks := d }
    let s := if cut then
        (s.errRec { uncorrRec (s.owner pkt.dst) a with rod := pkt.dst }).failPacket pkt.part id stDECK_UNCORR
      else s
    if pkt.vc = 2 then s.sendAck id else s

/-- A write waits at its destination while the slice is zeroed for its owner or a row of it copied (R131, R145). -/
def State.packetWaits (s : State) (pkt : MeshPacket) : Bool :=
  match pkt.kind with
  | .write addr _ data => s.decks.busy (pkt.dst * 2 ^ 29 + addr) data.length
  | _ => false

/-- What a packet does once its destination accepts it (R27, R28). -/
def State.deliver (s : State) (pkt : MeshPacket) : State :=
  match pkt.kind with
  | .write addr id data => s.landWrite pkt addr id data
  | .response id => { s with mesh := { s.mesh with vc0 := s.mesh.vc0.filter (fun r => r.id != id || r.gone || r.held) } }
  | .ack id => if s.mesh.acks.contains id then s.ackDone id else s
  | .read _ _ _ => s
  | .manage => s

/-- A packet of a foreign partition (R340): discarded, counted against the owner, recorded with its source rod; a VC0
request gets an error response and its command ends with DECK_RANGE. -/
def State.isolationDrop (s : State) (pkt : MeshPacket) : State :=
  let o := s.owner pkt.dst
  let s := if o < 16 then s.addO 32 (kPT_ISOLATION_DROPS o) 1 else s
  let s := s.errRec { cls := 2, code := rcPT_ISOLATION, part := if o < 16 then o else 0xFF, rod := pkt.src }
  let refuse (id : Nat) : State :=
    match s.mesh.vc0.find? (fun r => r.id == id) with
    | some q => { s with mesh := { s.mesh with vc0 := s.mesh.vc0.filter (fun r => r.id != id) } }.failRequest q stDECK_RANGE
    | none => if pkt.part < 16 then s.failRun pkt.part stDECK_RANGE pkt.src else s
  match pkt.vc, pkt.kind with
  | 0, .read _ _ id => refuse id
  | 0, .write _ id _ => refuse id
  | _, _ => s

/-- Injection on VC0 to VC2 is held while the mesh drains and the routers load their tables (R38): a packet of these channels
is not sent after the hold has begun. -/
def State.heldBack (s : State) (pkt : MeshPacket) : Bool :=
  decide (pkt.vc < 3) && decide (2 ≤ s.mesh.phase) && decide (s.mesh.phaseAt < pkt.sent)

/-- MESH_PACKET_DELIVERY (R24 to R26, R33, R38, R340): a packet is routed, arrives no earlier than its route takes and not
before one sent earlier on its source, destination and channel, and is checked before its destination acts on it. One
whose next hop was a disabled link is discarded and counted at the router that held it; one inside a router that does not
work is lost. What the mesh cannot carry leaves the state unchanged (log entry 4). -/
def execMeshPacketDelivery (pkt : MeshPacket) (s : State) : Out :=
  if !packetOk pkt || s.heldBack pkt then .next s
  else match s.fate pkt.src pkt.dst pkt.sent pkt.len with
  | .error e => .next (s.countLost e)
  | .ok (hops, cross) =>
    let k := (pkt.src * 576 + pkt.dst) * 4 + pkt.vc
    if s.cycle < pkt.sent + routeCost hops cross pkt.len || pkt.sent < tget 0 s.mesh.order k || s.packetWaits pkt then .next s
    else
      let s := { s with mesh := { s.mesh with order := tset 0 s.mesh.order k pkt.sent } }
      if pkt.vc = 3 || s.mayDeliver pkt.part pkt.dst then .next (s.deliver pkt)
      else .next (s.isolationDrop pkt)

/-- Cycles after which a request or write counts as lost (R27, R28). -/
def meshTimeout : Nat := 65536

/-- The record of a lost packet names the destination rod (R27, R28). -/
def lostRec (r : MeshReq) : ErrRec := { cls := 2, code := stMESH_LOST, part := r.part, rod := r.dst }

/-- VC0_REQUEST_TIMEOUT (R27): the command that issued the request ends with MESH_LOST; a deferred record is written. -/
def execVc0RequestTimeout (id : Nat) (s : State) : Out :=
  match s.mesh.vc0.find? (fun r => r.id == id) with
  | none => .next s
  | some r =>
    if s.cycle < r.issued + meshTimeout || r.held then .next s
    else
      let s := { s with mesh := { s.mesh with vc0 := s.mesh.vc0.filter (fun x => x.id != id) } }
      .next ((s.errRec (lostRec r)).failRequest r stMESH_LOST)

/-- FLIT_ERROR (R32): an uncorrectable flit error arrives at a router; the fourth within 1,000 strokes fully fences it. -/
def execFlitError (rod : Nat) (s : State) : Out :=
  if 576 ≤ rod || (s.rod rod).st = .off then .next s
  else
    let r := s.rod rod
    let es := recent s.stroke 1000 r.flitErrs ++ [s.stroke]
    let s := s.setRod rod { r with flitErrs := es }
    .next (if 4 ≤ es.length then s.autoFence rod 2 else s)

/-- ROUTER_SELF_CHECK_FAIL (R32): the rod is fully fenced. -/
def execRouterSelfCheckFail (rod : Nat) (s : State) : Out :=
  if 576 ≤ rod then .next s else .next (s.autoFence rod 2)

/-- CONTROL_CORE_WATCHDOG (R32): the third expiry within 1,000 strokes core-fences the rod. -/
def execControlCoreWatchdog (rod : Nat) (s : State) : Out :=
  if 576 ≤ rod || (s.rod rod).st = .off then .next s
  else
    let r := s.rod rod
    let es := recent s.stroke 1000 r.wdogs ++ [s.stroke]
    let s := s.setRod rod { r with wdogs := es }
    .next (if 3 ≤ es.length then s.autoFence rod 1 else s)

/-- A fence request (R34, R35): refused, already met, or begun. The spec gives a request before compute-ready, or in
restricted mode, no outcome; it is refused with FENCE_REFUSED (DESIGN CHOICE, log entry 23). -/
def State.fenceRequest (s : State) (value : BitVec 32) : State × Nat :=
  let rod := bits value 9 0
  let level := bits value 17 16
  if 576 ≤ rod || level = 0 || level = 3 || !s.computeUp then (s, stFENCE_REFUSED)
  else if level ≤ (s.rod rod).fenceLevel then (s, 0)
  else if level = 2 && !s.fenceAllowed rod then (s, stFENCE_REFUSED)
  else (s.startFence rod level, 0)

/-- ROUTE_TABLES_COMPUTED (R38): firmware's tables are ready and the route epoch begins. -/
def execRouteTablesComputed (tables : List (Nat × Nat)) (s : State) : Out :=
  let m := s.mesh
  if m.phase ≠ 1 then .next s
  else .next { s with mesh := { m with phase := 2, phaseAt := s.cycle, newTables := tables, epochRods := m.fencing } }

/-- ROUTE_EPOCH_DRAIN_END (R38): the mesh has drained and the routers load their tables. -/
def execRouteEpochDrainEnd (s : State) : Out :=
  let m := s.mesh
  if m.phase ≠ 2 then .next s
  else .next { s with mesh := { m with phase := 3 } }

/-- CORE_FENCE_COMPLETE (R38): the rod's command has ended and the rod is core-fenced. -/
def execCoreFenceComplete (rod : Nat) (s : State) : Out :=
  let r := s.rod rod
  if r.st = .fencing && r.target = 1 && !s.runsOn rod then .next (s.setRod rod { r with st := .coreFenced })
  else .next s

end Sys2Proof.Machine
end

