-- ==== Sys2Proof/Machine/Numerics.lean ====
section
/-! DEFINITION. The numerics commands, and the end of a root job (R193 to R216, R231). -/

namespace Sys2Proof.Machine

open Sys2Proof

/-- START_RUN's effect and status (R195). -/
def State.startRun (s : State) (p : Nat) : State × Nat :=
  if s.running p || s.anyCommand p then (s, stNUM_BUSY)
  else (s.beginRun p, 0)

/-- END_RUN's effect and status (R195, R239): S and the latest L stand in RUN_STEP and LOSS_SCALE, and the count is kept. -/
def State.endRunNum (s : State) (p : Nat) : State × Nat :=
  if s.running p then ((s.reckEndRun p).idleRun p, 0)
  else (s, 0)

/-- What a numerics-state read returns: L in bits 31 to 0, GUARDED in bit 32 (R196). -/
def State.numState (s : State) (p step : Nat) : Nat :=
  (s.lossScale p step).toNat + (if s.guarded p step then 2 ^ 32 else 0)

/-- The state of the step is fixed (R196). -/
def State.fixed (s : State) (p step : Nat) : Bool := tget 0 (s.num p).scales step != 0

/-- NUMERICS_STATE_READ (R196): returns for a fixed step, waits for the next one, and ends the command for any other step
or while IDLE. A read of GUARDED alone never waits: it returns the bit, in bit 32, for the next step too. -/
def execNumericsStateRead (rod : Nat) (ask : NumQuery) (s : State) : Out :=
  if !s.issues rod then .next s
  else
    let p := s.owner rod
    let r := s.rod rod
    if !s.running p then .next (s.failRod rod stNUM_STEP_RANGE)
    else if s.fixed p ask.step then .next (s.setRod rod { r with ret := s.numState p ask.step })
    else if ask.step = (s.num p).fixedStep + 1 && ask.guardedOnly then
      .next (s.setRod rod { r with ret := if s.guarded p ask.step then 2 ^ 32 else 0 })
    else if ask.step = (s.num p).fixedStep + 1 then
      .next (s.setRod rod { r with wait := .numerics ask.step, waitStrokes := 0, waitSince := s.ns })
    else .next (s.failRod rod stNUM_STEP_RANGE)

/-- NUMERICS_STATE_WAIT_END (R196): the waiting read returns once its step is fixed, or ends while IDLE. -/
def execNumericsStateWaitEnd (rod : Nat) (s : State) : Out :=
  let p := s.owner rod
  let r := s.rod rod
  match r.wait with
  | .numerics step =>
    if !s.running p then .next ((s.setRod rod { r with wait := .none }).failRod rod stNUM_STEP_RANGE)
    else if s.fixed p step then .next (s.setRod rod { r with wait := .none, ret := s.numState p step })
    else .next s
  | _ => .next s

/-- SLOT_TS_QUERY (R208): the TS that the slot supplied to the command, or the slot's TS now if the command has not read
it. -/
def execSlotTsQuery (rod slot : Nat) (s : State) : Out :=
  if !s.issues rod then .next s
  else if 4096 ≤ slot then .next (s.failRod rod stDESC_INVALID)
  else
    let p := s.owner rod
    let v := match s.runCmd p with
      | some c => if c.slotRead.contains slot then slotTs (tget slotReset c.slots slot) else slotTs (s.slot p slot)
      | none => slotTs (s.slot p slot)
    .next (s.setRod rod { s.rod rod with ret := v.toNat })

/-- PHASE_MARK (R214). -/
def execPhaseMark (rod : Nat) (backward : Bool) (s : State) : Out :=
  if !s.issues rod then .next s
  else
    let p := s.owner rod
    .next ((s.phaseTick p).setRunCmd p (fun c => { c with mark := if backward then 2 else 1 }))

/-- ROOT_JOB_END (R231 to R235, R238): the running job of factor block `fb` has factorised L, then R, as its trigger left them,
and its roots wait in the inactive buffers for their installation step; or it fails. It waits while a mirror copy is taken
(R269), and while the roots of an earlier job stand in those buffers. -/
def execRootJobEnd (reck fb : Nat) (s : State) : Out := polled <|
  match tget [] s.reck.roots reck with
  | [] => .next s
  | j :: t =>
    if !j.running || j.fb ≠ fb || s.mirrorHolds j.part || s.rootsWait j || s.rootBusy j then .next s
    else
      let p := j.part
      let r := { s with reck := { s.reck with roots := tset [] s.reck.roots reck t } }.rootWork j
      let s := r.1.addO 32 (kRK_ROOT_RETRIES p) r.2.1
      match r.2.2 with
      | .error c => .next (s.rootFailed j c)
      | .ok d =>
        let x : RootInst := { part := p, run := j.run, fb := j.fb, install := j.install
                              damp := if d.1 = d.2 then d.1 else if Config.dampOfR then d.2 else d.1 }
        let s := { s with reck := { s.reck with ready := s.reck.ready ++ [x] } }
        let s := s.setFactorBlock p j.fb (fun w => setField (setField w 322 1 0) 323 1 0)
        .next (s.addO 32 (kRK_ROOT_JOBS p) 1)

end Sys2Proof.Machine
end

