-- ==== Sys2Proof/Machine/Deck.lean ====
section
/-! DEFINITION. The deck commands: slice accesses, scrubbing, zeroing, and stages (R122 to R149). -/

namespace Sys2Proof.Machine

open Sys2Proof

/-- Row of a slice offset (log entry 17). -/
def rowOf (off : Nat) : Nat := off / rowBytes

/-- A slice has no spare row left (R145): one corrected record for it. -/
def State.sparesGone (s : State) (rod : Nat) : State :=
  if tget 0 s.decks.spareUsed rod < Config.spareRows || tget false s.decks.sparesOut rod then s
  else
    ({ s with decks := { s.decks with sparesOut := tset false s.decks.sparesOut rod true } }).errRec
      { cls := 1, code := rcDK_SPARES_OUT, rod := rod }

/-- A corrected read of a row (R145): counted; the third within 1,000 strokes starts a copy to a spare row. -/
def State.correctedRead (s : State) (rod off : Nat) : State :=
  let k := rod * 2 ^ 32 + rowOf off
  let d := s.decks
  let es := recent s.stroke 1000 (tget [] d.rowErrs k) ++ [s.stroke]
  let r := s.rod rod
  let s := (s.setRod rod { r with corrected := r.corrected + 1 })
  let s := { s with decks := { d with rowErrs := tset [] d.rowErrs k es } }
  if es.length < 3 || tget false d.rowCopy k then s
  else if tget 0 d.spareUsed rod < Config.spareRows then
    { s with decks := { s.decks with rowCopy := tset false d.rowCopy k true } }
  else s.sparesGone rod

/-- An access that a slice performs (R123, R147): inside the slice, 64 B to 512 B on 64 B-aligned units, or a write of a part
of one such unit; a write's data are as long as it says. -/
def sliceReqOk (q : SliceReq) : Bool :=
  decide (q.off + q.len ≤ sliceBytes) && decide (1 ≤ q.len) && decide (q.len ≤ 512)
    && (q.off % 64 == 0 && q.len % 64 == 0 || q.data.isSome && decide (q.off % 64 + q.len ≤ 64))
    && (match q.data with | some bs => bs.length == q.len | none => true)

/-- A request may be granted (R123, R131, R145): well-formed, not on a slice being zeroed, not on a row being copied. -/
def State.sliceWaits (s : State) (rod : Nat) (q : Option SliceReq) : Option SliceReq :=
  q.filter (fun q =>
    sliceReqOk q && !s.decks.busy (rod * 2 ^ 29 + q.off) q.len)

/-- The 32 B words that a write covers in part: it reads them first (R147). -/
def partWords (a n : Nat) : List Nat :=
  ((if a % 32 = 0 then [] else [a / 32]) ++ (if (a + n) % 32 = 0 then [] else [(a + n) / 32])).eraseDups

/-- Perform a granted access (R124, R145, R147, R165, R329); `who` is 0 deck port, 1 mesh, 2 reckoner. The access carries no
partition: the owner of the slice's frame is taken as the writer's (DESIGN CHOICE, log entry 25), and the command that a
refused or cut write ends is its running one. -/
def State.sliceDo (s : State) (rod who : Nat) (q : SliceReq) : State :=
  let a := rod * 2 ^ 29 + q.off
  let part := s.owner rod
  match q.data with
  | some bs =>
    let s := { s with decks := { s.decks with granted := some (rod, who, []) } }
    if !s.physOk part a q.len then s.failRun part stTY_ORDER rod
    else
      let ws := partWords a q.len
      let s := if ws.isEmpty then s
        else match q.ecc with
          | .uncorr => { s with decks := { s.decks with udBad := ws.foldl (fun t w => tset false t w true) s.decks.udBad } }
          | .corrected => s.correctedRead rod q.off
          | _ => s
      let (d, cut) := s.decks.udWrite a bs
      let s := { s with decks := d }
      if cut then (s.errRec { uncorrRec part a with rod := rod }).failRun part stDECK_UNCORR rod else s
  | none =>
    let s := match q.ecc with
      | .uncorr => { s with decks := { s.decks with udBad := tset false s.decks.udBad (a / 32) true } }
      | _ => s
    if s.decks.udBadIn a q.len then
      (({ s with decks := { s.decks with granted := some (rod, who, []) } }).errRec
        { uncorrRec part a with rod := rod }).tableRead a q.len
    else
      let s := { s with decks := { s.decks with granted := some (rod, who, s.decks.udRead a q.len) } }
      match q.ecc with
      | .corrected => s.correctedRead rod q.off
      | _ => s

/-- SLICE_ACCESS (R124): one grant of the slice under `rod` in the pattern deck port, mesh, deck port, reckoner; a cycle
whose requester is idle goes to the next waiting requester of the pattern. -/
def execSliceAccess (rod : Nat) (deckPort mesh reckoner : Option SliceReq) (s : State) : Out :=
  if 576 ≤ rod || (s.rod rod).st = .off || (s.rod rod).st = .fullFenced then .next s
  else
    let dp := s.sliceWaits rod deckPort
    let me := s.sliceWaits rod mesh
    let rk := s.sliceWaits rod reckoner
    let want (i : Nat) : Option (Nat × SliceReq) :=
      match i % 4 with
      | 1 => me.map (fun q => (1, q))
      | 3 => rk.map (fun q => (2, q))
      | _ => dp.map (fun q => (0, q))
    let pos := tget 0 s.decks.rot rod
    let s1 := { s with decks := { s.decks with rot := tset 0 s.decks.rot rod ((pos + 1) % 4) } }
    match ((want pos).or (want (pos + 1))).or ((want (pos + 2)).or (want (pos + 3))) with
    | some (w, q) => .next (s1.sliceDo rod w q)
    | none => .next s1

/-- ROW_SPARE_COPY_END (R145): the row's copy ends, the spare row is in use, and waiting accesses resume; with the last
spare row used, DK_SPARES_OUT is recorded. -/
def execRowSpareCopyEnd (rod row : Nat) (s : State) : Out :=
  let k := rod * 2 ^ 32 + row
  let d := s.decks
  if tget false d.rowCopy k then
    .next ({ s with decks := { d with rowCopy := terase d.rowCopy k
                                      rowErrs := terase d.rowErrs k
                                      spareUsed := tset 0 d.spareUsed rod (tget 0 d.spareUsed rod + 1) } }.sparesGone rod)
  else .next s

/-- PATROL_SCRUB (R148): a corrected word is rewritten and counted, an uncorrectable one recorded (R147); no command
fails. `addr` is a physical address of the deck named. -/
def execPatrolScrub (lower : Bool) (addr : Nat) (ecc : Ecc) (s : State) : Out :=
  if lower then
    if 2 ^ 40 ≤ addr then .next s
    else match ecc with
    | .ok => .next s
    | .corrected => .next { s with decks := { s.decks with ldCorrected := s.decks.ldCorrected + 1 } }
    | .uncorr =>
      let o := tget 0xFF s.decks.owner (addr / 2 ^ 30)
      .next (({ s with decks := { s.decks with ldBad := tset false s.decks.ldBad (addr / 64) true } }).errRec
        (uncorrRec (if o < 16 then o else 0xFF) addr))
  else if 576 ≤ addr / 2 ^ 29 || sliceBytes ≤ addr % 2 ^ 29 then .next s
  else match ecc with
    | .ok => .next s
    | .corrected => .next (s.correctedRead (addr / 2 ^ 29) (addr % 2 ^ 29))
    | .uncorr =>
      let p := s.owner (addr / 2 ^ 29)
      .next ((({ s with decks := { s.decks with udBad := tset false s.decks.udBad (addr / 32) true } }).errRec
        { uncorrRec (if p < 16 then p else 0xFF) addr with rod := addr / 2 ^ 29 }).tableRead addr 32)

/-- SLICE_ZEROING_END (R131): a slice being zeroed holds `+0` throughout and serves its new owner. -/
def execSliceZeroingEnd (rod : Nat) (s : State) : Out :=
  if tget 0 s.decks.zeroing rod = 0 then .next s
  else .next { s with decks := { s.decks.zeroSlice rod with zeroing := terase s.decks.zeroing rod } }

/-- The zero-fill of a free extent begins for an ACTIVE partition (R138): the extent shows 0xFE and cannot be allocated. -/
def State.beginFill (s : State) (ext owner : Nat) : State :=
  let d := s.decks
  if ext < 1023 && tget 0xFF d.owner ext == 0xFF && owner < 16 && s.o (kPT_STATE owner) == 2 then
    { s with decks := { d with owner := tset 0xFF d.owner ext 0xFE, filling := d.filling ++ [(ext, owner)] } }
  else s

/-- EXTENT_ZERO_FILL_END (R138): the extent reads as zeros under its new owner's key and passes to it; a partition finds it at its
lowest free local number. The window and the mirror area ask for extents by objects of their own. For a partition the spec gives the
request to the firmware no object and the table no row: the command with `begins` is the firmware's beginning for the partition that it
names (DESIGN CHOICE, log entry 63). -/
def execExtentZeroFillEnd (done : FillEnd) (s : State) : Out :=
  if done.begins then .next (s.beginFill done.ext done.owner)
  else match s.decks.filling.find? (fun f => f.1 == done.ext) with
  | none => .next s
  | some (_, o) =>
    let s := { s with decks := s.decks.zeroExtent done.ext o }
    if o < 16 then
      let x := s.part o
      match (upto 1024).find? (fun j => !bit (tget 0 x.extents j) 15) with
      | some j => .next (s.setPart o { x with extents := tset 0 x.extents j (BitVec.ofNat 16 (2 ^ 15 + done.ext)) })
      | none => .next s
    else .next s

/-- STAGE_PUSH (R142): a rod program's stage descriptor joins its partition's queue; with 256 queued the rod waits with it. R142
does not say when a descriptor gives up its place: a stage in progress keeps it, and so does an ended one whose fence count waits
for earlier stages (DESIGN CHOICE, log entry 171). -/
def execStagePush (rod : Nat) (desc : BitVec 512) (s : State) : Out :=
  if !s.issues rod then .next s
  else if (s.part (s.owner rod)).stageQ.length < 256 then
    .next (s.queueStage (s.owner rod) desc none (s.resident (s.owner rod)))
  else
    .next (s.setRod rod { s.rod rod with wait := .stagePush desc, waitStrokes := 0, waitSince := s.ns })

/-- STAGE_START (R140, R142, R144, R146): the first queued stage of a partition starts when fewer than 16 are in progress; a
refused one ends at once, moving nothing. Its units join the stagers of their packages; what the lower-deck reads of a LOAD meet
comes with the start. -/
def execStageStart (go : StageGo) (s : State) : Out := polled <|
  let x := s.part go.part
  if 16 ≤ (x.stageQ.filter (fun e => e.phase == 1)).length || s.fatal then .next s
  else match x.stageQ.find? (fun e => e.phase == 0) with
    | none => .next s
    | some e =>
      let st := s.stageCheck go.part e.desc
      if st ≠ 0 then .next (s.endStage go.part e.id st)
      else
        let q := x.stageQ.map (fun y => if y.id = e.id then { y with phase := 1 } else y)
        let s := s.setPart go.part { x with stageQ := q }
        let s := if sgOp e.desc = 1 then { s with decks := s.decks.ldFind go.finds } else s
        .next (s.queueUnits go.part e).pumpStages

/-- A packet of a stage has crossed the mesh and its units are moved (R142, R147); bytes moved are counted to the stage's context
(R351). A STORE that meets an unreadable word of the server's tables loses them (R301, R329). -/
def State.landStage (s : State) (p id row off len : Nat) : State :=
  match (s.part p).stageQ.find? (fun e => e.id == id && e.phase == 1) with
  | none => s
  | some e =>
    let lost := sgOp e.desc = 2 && s.tableTouch p (sgUd e.desc row + off) len
      && s.decks.udBadIn ((s.udPhys p (sgUd e.desc row + off) len false).getD 0) len
    let (s, k, st) := State.stageMove p e.desc (len / 64) ((row * sgRowBytes e.desc + off) / 64) (s, 0, 0)
    let s := if e.ctx < 8 then
        let x := s.ctx p e.ctx
        s.setCtx p e.ctx { x with account := tset 0 x.account 4 (satAdd 64 (tget 0 x.account 4) (64 * k)) }
      else s
    let s := if lost then s.svLost else s
    if st = 0 then s else s.failStage p id st

/-- The upper-deck span of a stager's packet waits for a row copy or a zeroing (R131, R145). -/
def State.unitBusy (s : State) (p e row off len : Nat) : Bool :=
  match (s.part p).stageQ.find? (fun x => x.id == e) with
  | some x => s.decks.busy ((s.udPhys p (sgUd x.desc row + off) len (sgOp x.desc == 1)).getD (2 ^ 40)) len
  | none => false

/-- STAGE_END (R142, R144, R147): every unit is moved and visible, or the stage met a status and writes nothing further; its
fence counts in queue order. -/
def execStageEnd (part id : Nat) (s : State) : Out := polled <|
  match (s.part part).stageQ.find? (fun e => e.id == id && e.phase == 1) with
  | none => .next s
  | some e =>
    let open_ := s.mesh.vc2.any (fun r =>
        match r.writer with | .stager p i _ _ _ => p == part && i == id | _ => false)
      || s.decks.stagers.any (fun q => q.2.q.any (fun u => u.part == part && u.id == id))
    if open_ then .next s else .next (s.endStage part id e.fail)

/-- STAGE_FENCE_WAIT (R142): a rod program waits until a stage fence of its partition has reached a value. -/
def execStageFenceWait (rod fence value : Nat) (s : State) : Out :=
  if s.issues rod && fence < 64 then
    let c := tget 0 (s.part (s.owner rod)).fences fence
    let r := s.rod rod
    if fenceMet c value then .next (s.setRod rod { r with ret := c })
    else .next (s.setRod rod { r with wait := .fence fence value, waitStrokes := 0, waitSince := s.ns })
  else .next s

end Sys2Proof.Machine
end

