-- ==== Sys2Proof/Machine/Host.lean ====
section
/-! DEFINITION. The host port: link, functions, queues, commands and interrupts (R380 to R396, R400). -/

namespace Sys2Proof.Machine

open Sys2Proof

/-! The registers that the host reads (R383 to R386). -/

/-- CQ_FUNC_STATUS (R380, R384). -/
def State.funcStatus (s : State) (fn : Nat) : Nat :=
  let f := s.func fn
  bnat f.ready + 2 * bnat f.dbErr + 4 * bnat f.cfgErr + 8 * bnat s.host.ioOnly

/-- A submission-queue entry as it reads (R386). -/
def Sq.entry (x : Sq) : Nat :=
  x.base + x.size * 2 ^ 64 + x.cqid * 2 ^ 80 + bnat x.en * 2 ^ 86 + bnat x.active * 2 ^ 88 + x.head * 2 ^ 96

/-- A completion-queue entry as it reads (R386). -/
def Cq.entry (x : Cq) : Nat :=
  x.base + x.size * 2 ^ 64 + bnat x.en * 2 ^ 86 + bnat x.active * 2 ^ 88 + x.vector * 2 ^ 96 + x.coalCount * 2 ^ 104
    + x.coalUs * 2 ^ 112 + x.tail * 2 ^ 128

/-- The 8 bytes of a function's BAR at an aligned offset: write-only registers and offsets not listed read 0 (R383, R385). -/
def State.barWord (s : State) (fn w : Nat) : Nat :=
  let f := s.func fn
  if w = 0 then (if fn = 0 then 0xFF else fn - 1)
  else if w = 0x8 then bnat f.en
  else if w = 0x10 then s.funcStatus fn
  else if w = 0x18 then f.shadow
  else if w = 0x100 then f.mbCmd.toNat
  else if w = 0x108 then f.mbOffset.toNat
  else if w = 0x110 then f.mbAddr.toNat
  else if w = 0x120 then f.mbStatus.toNat
  else if w = 0x128 then f.mbVector.toNat
  else if 0x1000 ≤ w && w < 0x1800 then (f.sq ((w - 0x1000) / 32)).entry / 2 ^ (8 * (w % 32)) % 2 ^ 64
  else if 0x1800 ≤ w && w < 0x2000 then (f.cq ((w - 0x1800) / 32)).entry / 2 ^ (8 * (w % 32)) % 2 ^ 64
  else 0

/-- The same for the MSI-X BAR: the table of 256 vectors, and the pending bits at 0x1000 (R383; the layout of an entry is PCI
Express's: log entry 180). -/
def Func.msixWord (f : Func) (w : Nat) : Nat :=
  if w < 0x1000 then
    let v := w / 16
    if w % 16 = 0 then (tget 0 f.msixAddr v).toNat
    else (tget 0 f.msixData v).toNat + bnat (tget true f.masked v) * 2 ^ 32
  else if w < 0x1020 then maskOf ((upto 64).filter (fun i => tget false f.pend (8 * (w - 0x1000) + i)))
  else 0

/-- A host read of 8 bytes, or of 4 at the odd half of them. -/
def State.barRead (s : State) (fn : Nat) (r : BarRead) : State :=
  let w := r.off / 8 * 8
  let v := (if r.msix then (s.func fn).msixWord w else s.barWord fn w) / 2 ^ (8 * (r.off % 8))
  { s with host := { s.host with barOut := s.host.barOut ++ [(fn, r, v)] } }

/-! The link (R380). -/

/-- The window is open when its extents are zero-filled and the link offers CXL.mem; until the fill ends it is FILLING (R380,
R397). -/
def State.openWindow (s : State) : State :=
  if s.host.winExt.isEmpty || s.host.ioOnly then s
  else s.setO kCQ_WIN_STATE (if s.decks.filling.any (fun f => f.2 == 0x10) then winFILLING else winOPEN)

/-- HOST_LINK_TRAINED (R380): below 32 GT/s or ×4 the port offers CXL.io only, and the window closes. -/
def execHostLinkTrained (rate width : Nat) (s : State) : Out :=
  if !s.dictUp then .next s
  else
    let s := (s.setO kCQ_LINK_RATE rate).setO kCQ_LINK_WIDTH width
    if rate < 32 || width < 4 then
      let s := { s with host := { s.host with ioOnly := true } }
      .next ((s.setO kCQ_LINK_STATE 2).closeWindow.errRec { cls := 2, code := rcCQ_LINK_DEGRADED })
    else
      let s := { s with host := { s.host with ioOnly := false } }.setO kCQ_LINK_STATE 1
      .next (if s.fatal then s else s.openWindow)

/-- HOST_LINK_DOWN (R380, R401). -/
def execHostLinkDown (s : State) : Out :=
  .next ((s.setO kCQ_LINK_STATE 0).setO kCQ_LINK_RATE 0)

/-! Functions (R382, R384). -/

/-- VF_ENABLE (R382, R439, R450): ignored before compute-ready and in restricted mode; a count above 16 is no NumVFs value. A
function that ceases to exist loses its commands as by R400. -/
def execVfEnable (numVfs : Nat) (enable : Bool) (s : State) : Out :=
  if !s.computeUp || 16 < numVfs then .next s
  else
    let n := if enable then numVfs else 0
    let gone := ((upto 16).map (· + 1)).filter (fun f => (s.func f).vf && decide (n < f))
    let s := gone.foldl (fun (s : State) f => (s.flrOne f).setFunc f {}) s
    let s := (upto n).foldl (fun s i => s.setFunc (i + 1) { s.func (i + 1) with vf := true }) s
    .next (s.setO kCQ_VF_COUNT n).pollAll

/-- Enable a function (R384). -/
def State.enableFn (s : State) (fn : Nat) : State × Nat := ((s.setFunc fn { s.func fn with en := true }).pollAll, 0)

/-- A host write of CQ_FUNC_STATUS (R11, R384): each 1 clears its W1C bit, DB_ERR in bit 1 and CFG_ERR in bit 2. -/
def State.clearStatus (s : State) (fn : Nat) (status : BitVec 32) : State :=
  let f := s.func fn
  s.setFunc fn { f with dbErr := f.dbErr && !bit status 1, cfgErr := f.cfgErr && !bit status 2 }

/-- A write of CQ_FUNC_CTRL: EN (R384, R455 to R457). -/
def State.funcControl (s : State) (fn : Nat) (v : BitVec 32) : State :=
  let f := s.func fn
  if bit v 0 then (if f.down || f.flr != 0 then s.pendEnable 4 fn else (s.enableFn fn).1)
  else
    let s := s.dropPending 4 fn
    if f.en && f.flr == 0 then s.setFunc fn { f with en := false, down := decide (f.liveCmds ≠ 0) } else s

/-- CQ_FUNC_CTRL (R383, R384). The row stands for every register of a function's BAR that has no row of its own: CQ_FUNC_STATUS is
written first, then CQ_FUNC_CTRL, if it is, and the host's reads follow. -/
def execCqFuncCtrl (fn : Nat) (wr : FuncWrite) (s : State) : Out :=
  let s := if s.fnUp fn then s.clearStatus fn wr.status else s
  if !s.dictUp || 16 < fn || (fn != 0 && !(s.func fn).vf) then .next s
  else
    let s := match wr.value with | some v => s.funcControl fn v | none => s
    .next (if s.fnUp fn then wr.reads.foldl (fun (s : State) r => s.barRead fn r) s else s)

/-- FUNC_SHUTDOWN_END (R455, R456): every accepted command has completed. -/
def execFuncShutdownEnd (fn : Nat) (s : State) : Out :=
  let f := s.func fn
  .next (if f.down && f.liveCmds == 0 && f.flr == 0 then
      (s.setFunc fn { f with down := false }).firePending 4 fn (fun s => s.enableFn fn)
    else s)

/-- CQ_CH_SHADOW (R383, R396). -/
def execCqChShadow (fn : Nat) (value : BitVec 64) (s : State) : Out :=
  .next (if !s.fnUp fn then s
    else if value.toNat % 256 ≠ 0 then s.cfgRefuse fn
    else s.setFunc fn { s.func fn with shadow := value.toNat })

/-! Queues (R386 to R389). -/

/-- SQ_CONFIG_WRITE (R387). -/
def execSqConfigWrite (fn q : Nat) (entry : BitVec 256) (s : State) : Out :=
  .next (if s.fnUp fn && decide (q < 64) then (s.writeSq fn q entry).pollAll else s)

/-- CQ_CONFIG_WRITE (R387). -/
def execCqConfigWrite (fn q : Nat) (entry : BitVec 256) (s : State) : Out :=
  .next (if s.fnUp fn && decide (q < 64) then s.writeCq fn q entry else s)

/-- SQ_DRAIN_END (R387, R455, R456): the last accepted command of a disabled queue has completed. -/
def execSqDrainEnd (fn q : Nat) (s : State) : Out :=
  let f := s.func fn
  let x := f.sq q
  .next (if !x.en && x.active && x.live == 0 then
      (s.setFunc fn (f.setSq q { x with active := false })).firePending 5 (64 * fn + q) (fun s => s.enableSq fn q)
    else s)

/-- CQ_SQ_TAIL (R388). -/
def execCqSqTail (fn q : Nat) (value : BitVec 32) (s : State) : Out :=
  let f := s.func fn
  let x := f.sq q
  let v := bits value 15 0
  .next (if !s.fnUp fn || 64 ≤ q || !x.en then s
    else if x.size < v then s.dbIgnored fn
    else s.setFunc fn (f.setSq q { x with tail := v }))

/-- CQ_CQ_HEAD (R388, R389): releases entries that the part has written; heads of queues that waited for one may be accepted. -/
def execCqCqHead (fn q : Nat) (value : BitVec 32) (s : State) : Out :=
  let f := s.func fn
  let c := f.cq q
  let v := bits value 15 0
  .next (if !s.fnUp fn || 64 ≤ q || !c.en then s
    else if c.size < v || c.unreleased < (v + c.size + 1 - c.head) % (c.size + 1) then s.dbIgnored fn
    else
      let s := s.setFunc fn (f.setCq q { c with head := v })
      ((upto 64).foldl (fun s k => if ((s.func fn).sq k).cqid = q then s.flushQueue fn k else s) s).pollAll)

/-- COMMAND_FETCH (R337, R389): the next command of an enabled queue arrives while its completion queue has an entry for it;
a virtual function's commands wait while its partition is not ACTIVE or their context is not served (R342). -/
def execCommandFetch (fn q : Nat) (cmd : BitVec 1024) (s : State) : Out :=
  let f := s.func fn
  let x := f.sq q
  let c := f.cq x.cqid
  if !s.fnUp fn || 64 ≤ q || !f.en || !x.en || x.head == x.tail || !c.hasFree
      || !(fn == 0 || s.fatal || s.partServed (fn - 1) && s.serves fn q) then .next s
  else
    let f := f.setSq q { x with head := if x.head = x.size then 0 else x.head + 1, fetched := x.fetched ++ [cmd] }
    let s := s.setFunc fn f
    .next ((s.flushQueue fn q).pollAll)

/-! RUN (R342, R364, R391). -/

/-- RUN (R342, R344, R364, R365, R391): the head of a queue is a RUN, its context is chosen for idle rods, and it meets the
ledger; a RUN on the physical function is invalid (R392). -/
def execRun (fn q : Nat) (prog : ProgInfo) (s : State) : Out :=
  match s.headReady fn q with
  | none => .next s
  | some h =>
    if hcOpcode h ≠ 1 || s.fatal then .next (s.flushQueue fn q)
    else if fn = 0 then .next (((s.acceptHead fn q).complete (mkCmd s fn q h) stCMD_INVALID 0 0).flushQueue fn q)
    else
      let p := fn - 1
      let c := q / 8
      let s := s.pollAll
      if !s.opens p c || (s.part p).held || !s.rodsIdle p || s.nextRun p c != some (q, h) then .next s
      else
        let s := s.decideIdle p
        if s.resident p != c || !s.rodsIdle p || !s.meets fn q h then .next s
        else .next ((s.dispatch p c q h prog).flushQueue fn q)

/-- RUN_COMPLETE (R391, R461): every rod of the command has ended, or it has a status. -/
def execRunComplete (p : Nat) (s : State) : Out :=
  match s.runCmd p with
  | none => .next s
  | some r =>
    let idle (d : Nat) : Bool :=
      let x := (s.rod d).settleAt s.cycle true
      x.ended || (!x.wait.blocks && x.mq.isEmpty && x.vq.isEmpty && x.dq.isEmpty && x.vrun.isNone
        && !s.mesh.vc0.any (fun q => match q.writer with | .mover k _ => k == d | _ => false))
    -- a header that only awaits its writes is still to be published (R164, R168)
    let pending := match s.pairOf p with
      | some n => (s.pairing n).recs.any (fun x => r.reserved.contains x.seq && x.phase == 1)
      | none => false
    -- a tile that its carry unit has not taken may still end the command (R247)
    let tiles := s.cy.tiles.any (fun t => t.part == p && r.rods.contains t.rod)
    .next (if (s.part p).switch.isNone && (r.cmd.status != 0 || (r.rods.all idle && !pending && !tiles)) then s.completeRun p else s)

/-! Immediate commands (R391). -/

/-- DMA_IN (R391, R392): `data` is what the host returns. -/
def execDmaIn (fn q : Nat) (data : List Byte) (s : State) : Out :=
  .next (s.immediate fn q 2 (fun s c _ =>
    let st := s.dmaCheck c true
    if st ≠ 0 then .error st else .ok (s.keepLive c data)))

/-- DMA_OUT (R391, R392). -/
def execDmaOut (fn q : Nat) (s : State) : Out :=
  .next (s.immediate fn q 3 (fun s c _ =>
    let st := s.dmaCheck c false
    if st ≠ 0 then .error st else .ok (s.keepLive c [])))

/-- DMA_COMPLETE (R147, R165, R391, R392): the last byte is moved. Bytes that the host did not return are an abort; how many bytes of
a write to the host were moved before an abort, or before an unreadable word, is open (log entry 18). -/
def execDmaComplete (id : Nat) (hostAbort : Bool) (s : State) : Out :=
  match s.host.live.find? (fun l => l.id == id) with
  | none => .next s
  | some l =>
    let c := l.cmd
    let n := hcArg c.hdr 2
    let wr := hcOpcode c.hdr = 2
    if hcOpcode c.hdr ≠ 2 && hcOpcode c.hdr ≠ 3 then .next s
    else match s.udPhys c.part (hcArg c.hdr 1) n wr with
      | none => .next (s.completeLive id stDECK_RANGE 0 0)
      | some a =>
        if s.decks.busy a n then .next s
        else let s := s.edgePackets 0 n
        if wr && !s.ringOk c.part (hcArg c.hdr 1) n then .next (s.completeLive id stTY_ORDER 0 0)
        else if wr then
          let got := l.data.take n
          let w := s.decks.udWrite a got
          let s := { s with decks := w.1 }
          let s := if w.2 then s.errRec (uncorrRec c.part a) else s
          let st := if hostAbort || got.length < n then stHOST_ABORT else if w.2 then stDECK_UNCORR else 0
          .next (s.completeLive id st got.length 0)
        else
          let bad := s.decks.udBadIn a n
          let part := (Config.freeValue s.draws).toNat % n
          let cut := hostAbort || bad
          let s1 := if cut then { s with draws := s.draws + 1 } else s
          let m := if cut then part else n
          let s1 := s1.hostWrite (hcArg c.hdr 0) (s.decks.udRead a m)
          let s1 := if bad && !hostAbort then s1.errRec (uncorrRec c.part a) else s1
          .next (s1.completeLive id (if hostAbort then stHOST_ABORT else if bad then stDECK_UNCORR else 0) m 0)

/-- The head of a queue waits for room in a unit's queue (R391). -/
def State.headWaits (s : State) (fn q op : Nat) (full : Nat → Bool) : Bool :=
  match s.headReady fn q with
  | some h => hcOpcode h == op && s.commonCheck fn h == 0 && full (cmdPart fn h)
  | none => false

/-- STAGE (R141, R142, R391): waits while the stage queue is full. -/
def execStage (fn q : Nat) (s : State) : Out :=
  .next (if s.headWaits fn q 4 (fun p => decide (256 ≤ (s.part p).stageQ.length)) && !s.fatal then s
    else s.immediate fn q 4 (fun s c id =>
      .ok ((s.keepLive c []).queueStage c.part (hcDesc c.hdr) (some id) (if fn = 0 then 8 else q / 8))))

/-- UPDATE (R220, R238, R391): waits while the update queue is full; a push that fails a check also writes its record. -/
def execUpdate (fn q : Nat) (s : State) : Out :=
  .next (if s.headWaits fn q 5 (fun p => decide (4096 ≤ s.queueFill p)) && !s.fatal then s
    else s.immediate fn q 5 (fun s c id =>
      match (s.keepLive c []).pushPass c.part (hcDesc c.hdr) (some id) with
      | .ok s' => .ok s'
      | .error e => .ok ((s.errRec (s.pushRec c.part (hcDesc c.hdr) e)).complete c e 0 0)))

/-- CARRY (R244, R391). -/
def execCarry (fn q : Nat) (s : State) : Out :=
  .next (s.immediate fn q 6 (fun s c id => (s.keepLive c []).pushBucket c.part (hcDesc c.hdr) (some id)))

/-- How much of `n` a command moved before its writes to the host met an abort is open (log entry 18). -/
def State.abortedAt (s : State) (n : Nat) : Nat × State :=
  ((Config.freeValue s.draws).toNat % n, { s with draws := s.draws + 1 })

/-- SLOT_READ (R11, R65, R391, R392): the slots go to the host, and their RC fields clear; with an abort the slots already moved
stay. -/
def execSlotRead (fn : Nat) (qa : QueueAbort) (s : State) : Out :=
  .next (s.immediate fn qa.q 7 (fun s c _ =>
    let a := hcArg c.hdr 0
    let n := hcArg c.hdr 1
    let k := if qa.abort then s.abortedAt n else (n, s)
    let s := k.2.hostWrite (hcArg c.hdr 2) ((upto k.1).flatMap (fun i => leBytes 128 (s.slot c.part (a + i)).toNat))
    let s := (upto k.1).foldl (fun s i => s.setSlot c.part (a + i) (slotCleared (s.slot c.part (a + i)))) s
    .ok (s.complete c (if qa.abort then stHOST_ABORT else 0) k.1 0)))

/-- SLOT_WRITE (R65, R223, R391): `data` is what the host returns; a write of a slot in a tensor update is held, and the
command with it. -/
def execSlotWrite (fn q : Nat) (data : List Byte) (s : State) : Out :=
  .next (s.immediate fn q 8 (fun s c _ =>
    let n := hcArg c.hdr 1
    if data.length < 128 * n then .error stHOST_ABORT
    else
      let r := s.slotsPut c.part (hcArg c.hdr 0) data n 0
      .ok (if r.2.2 ≠ 0 then r.1.complete c r.2.2 r.2.1 0 else (r.1.keepLive c []).settleSlotWrites c.part)))

/-- EXPORT (R270, R272, R391, R392): `copy` is the latest mirror as its host sends it, with its mirror header in front. -/
def execExportMirror (fn q : Nat) (copy : ExportCopy) (s : State) : Out :=
  .next (s.immediate fn q 9 (fun s c _ =>
    let x := copy.image
    let body := mirrorStream x
    let bytes := if x.hdr.isEmpty then [] else leBytes 64 (mirrorHeader x (digestOf body)).toNat ++ body
    if hcArg c.hdr 1 < bytes.length then .error stCMD_INVALID
    else
      let cut := copy.abort && !bytes.isEmpty
      let k := if cut then s.abortedAt bytes.length else (bytes.length, s)
      .ok ((k.2.hostWrite (hcArg c.hdr 0) (bytes.take k.1)).complete c (if cut then stHOST_ABORT else 0) k.1 0)))

/-! Interrupts (R395). -/

/-- COAL_TIMEOUT (R387, R395): COAL_US since the first unsignalled entry. -/
def execCoalTimeout (fn q : Nat) (s : State) : Out :=
  let f := s.func fn
  let c := f.cq q
  .next (if c.unsig ≠ 0 && c.unsigAt + 1000 * c.forceUs ≤ s.ns then
      (s.setFunc fn (f.setCq q { c with unsig := 0 })).msix fn c.vector
    else s)

/-- MSIX_VECTOR_UNMASK (R383, R395): a write of a vector's table entry; one that unmasks the vector sends it if it is pending. -/
def execMsixVectorUnmask (fn : Nat) (w : MsixWrite) (s : State) : Out :=
  let f := s.func fn
  let v := w.vector
  if !s.fnUp fn || 256 ≤ v then .next s
  else
    let held := tget false f.pend v && !w.masked
    let s := s.setFunc fn { f with masked := tset true f.masked v w.masked, msixAddr := tset 0 f.msixAddr v w.addr
                                   msixData := tset 0 f.msixData v w.data, pend := if held then tset false f.pend v false else f.pend }
    .next (if held then s.msix fn v else s)

/-! Function-level reset (R400). -/

/-- FUNCTION_LEVEL_RESET (R400). -/
def execFunctionLevelReset (fn : Nat) (s : State) : Out :=
  .next (if s.dictUp && decide (fn ≤ 16) && (fn == 0 || (s.func fn).vf) && !s.fatal then s.startFlr fn else s)

/-- FLR_REGISTERS_RESET (R400): the function's registers, queues, mailbox and MSI-X table. -/
def execFlrRegistersReset (fn : Nat) (s : State) : Out :=
  let f := s.func fn
  .next (if f.flr = 1 && !s.fatal then
      s.setFunc fn { vf := f.vf, flr := 2, flrAt := f.flrAt, retrain := f.retrain }
    else s)

/-- FLR_END (R400, R455, R469): the function answers again; a pending enable is carried out; after a reset of the host port
the link retrains. -/
def execFlrEnd (fn : Nat) (s : State) : Out :=
  let f := s.func fn
  if f.flr ≠ 2 || s.fatal then .next s
  else
    let s := s.setFunc fn { f with flr := 0, retrain := false }
    let s := if f.retrain then (s.setO kCQ_LINK_STATE 0).setO kCQ_LINK_RATE 0 else s
    .next (s.firePending 4 fn (fun s => s.enableFn fn))

end Sys2Proof.Machine
end

