-- ==== Sys2Proof/Machine/Window.lean ====
section
/-! DEFINITION. The memory window (R397 to R399) and the DOE mailboxes (R442). -/

namespace Sys2Proof.Machine

open Sys2Proof

def blockBytes : Nat := 4096

/-- A host address as the buffer takes the access: the offset of its line in the range that the committed HDM decoder gives the window;
none outside it (R397). -/
def State.winAccess (s : State) (w : WinReq) : Option WinAccess :=
  let h := s.host
  if h.hdm && decide (h.hdmBase ≤ w.addr) && decide (w.addr < h.hdmBase + s.o kCQ_WIN_EXTENTS * 2 ^ 30) then
    some { off := (w.addr - h.hdmBase) / 64 * 64, addr := w.addr, write := w.write, finds := w.finds }
  else none
/-- Physical lower-deck address of a window offset (R397). -/
def State.winPhys (s : State) (o : Nat) : Option Nat := (s.host.winExt[o / 2 ^ 30]?).map (fun e => e * 2 ^ 30 + o % 2 ^ 30)

/-- Write a block's readable or written lines back to the lower deck (R398). -/
def State.writeBack (s : State) (b : WinBlock) : State :=
  match s.winPhys (b.block * blockBytes) with
  | none => s
  | some a =>
    (upto 64).foldl (fun (s : State) line =>
      if b.bad.contains line then s
      else
        let d := (upto 64).foldl (fun (d : Decks) i => d.ldPut (a + 64 * line + i) (mget b.bytes (64 * line + i))) s.decks
        { s with decks := { d with ldBad := terase d.ldBad (a / 64 + line) } }) s

/-- A dirty block is written back and is clean (R398). -/
def State.cleanBlock (s : State) (k : Nat) : State :=
  match s.host.win.find? (fun b => b.block == k) with
  | some b =>
    if !b.dirty then s
    else
      let s := s.writeBack b
      { s with host := { s.host with win := s.host.win.map (fun x => if x.block = k then { x with dirty := false } else x) } }
  | none => s

/-- Fill a block from the lower deck (R398): the least recently used block of 512 makes room. -/
def State.fillBlock (s : State) (k : Nat) : State :=
  let s := match s.host.win.reverse.head? with
    | some v =>
      if s.host.win.length < 512 then s
      else
        let s := if v.dirty then s.writeBack v else s
        { s with host := { s.host with win := s.host.win.filter (fun x => x.block != v.block) } }
    | none => s
  match s.winPhys (k * blockBytes) with
  | none => s
  | some a =>
    let bad := (upto 64).filter (fun line => tget false s.decks.ldBad (a / 64 + line))
    let bytes := (upto blockBytes).foldl (fun (m : Mem) i =>
      if bad.contains (i / 64) then m else tset 0 m i (s.decks.ldByte (a + i))) []
    let b : WinBlock := { block := k, dirty := false, at_ := 0, bad := bad, bytes := bytes }
    { s with host := { s.host with win := b :: s.host.win } }

/-- Carry out an access whose block is in the buffer (R398, R399); the block becomes the most recently used. -/
def State.winDo (s : State) (w : WinAccess) (b : WinBlock) : State :=
  let line := w.off % blockBytes / 64
  let rest := s.host.win.filter (fun x => x.block != b.block)
  match w.write with
  | some data =>
    let bytes := (upto 64).foldl (fun (m : Mem) i => tset 0 m (64 * line + i) ((data[i]?).getD 0)) b.bytes
    let b := { b with bytes := bytes, bad := b.bad.filter (· != line), dirty := true, at_ := if b.dirty then b.at_ else s.ns }
    { s with host := { s.host with win := b :: rest } }
  | none =>
    let bad := b.bad.contains line
    let data := if bad then List.replicate 64 (0 : Byte) else mread b.bytes (64 * line) 64
    let h := s.host
    let s := { s with host := { h with win := b :: rest, winOut := h.winOut ++ [(w.off, data)] } }
    if !bad then s
    else
      let s := s.errRec { cls := 2, code := stDECK_UNCORR, addr := w.off }
      let h := s.host
      { s with host := { h with ras := h.ras ++ [(1, w.addr)], msgs := h.msgs ++ [1] } }

/-- WINDOW_ACCESS (R397 to R399): a host access to a 64 B line; a closed window answers all ones. One to a block that earlier
accesses wait for waits behind them. -/
def execWindowAccess (acc : WinReq) (s : State) : Out :=
  match s.winAccess acc with
  | none => .next s
  | some w =>
    if s.o kCQ_WIN_STATE ≠ winOPEN || s.o kCQ_LINK_STATE ≠ 1 || (s.winPhys w.off).isNone then .next (s.winRefused w)
    else match s.host.win.find? (fun b => b.block == w.off / blockBytes) with
      | some b => .next ((s.addO 64 kCQ_WIN_HITS 1).winDo w b)
      | none =>
        let s := s.addO 64 kCQ_WIN_MISSES 1
        .next { s with host := { s.host with winWait := s.host.winWait ++ [w] } }

/-- Carry out an access to a block of the buffer, as the accesses before it have left the block. -/
def State.winHit (s : State) (w : WinAccess) : State :=
  match s.host.win.find? (fun b => b.block == w.off / blockBytes) with
  | some b => s.winDo w b
  | none => s

/-- WINDOW_BLOCK_FILL (R146, R398): the block of the oldest waiting access is filled, and every access that waits for it completes,
oldest first; what the lower-deck reads of the fill meet comes with the first. -/
def execWindowBlockFill (s : State) : Out :=
  match s.host.winWait with
  | [] => .next s
  | w :: _ =>
    let k := w.off / blockBytes
    let mine := s.host.winWait.filter (fun x => x.off / blockBytes == k)
    let s := { s with host := { s.host with winWait := s.host.winWait.filter (fun x => x.off / blockBytes != k) } }
    .next (mine.foldl State.winHit ({ s with decks := s.decks.ldFind w.finds }.fillBlock k))

/-- WINDOW_WRITEBACK (R398). -/
def execWindowWriteback (block : Nat) (s : State) : Out := .next (s.cleanBlock block)

/-- A write of CQ_WIN_EXTENTS (R138, R139, R397): the extents held before are freed, and `n` are allocated under a new window
key and zero-filled; refused while the HDM decoder is committed, or when fewer are free. -/
def State.winExtents (s : State) (n : Nat) : State × Nat :=
  if 256 < n then (s, stMB_PARAM)
  else if s.host.hdm then (s, stCQ_BUSY)
  else
    let d := s.decks.freeExtents 0x10
    match (if n = 0 then some d else (d.newKey 0x10).allocExtents 0x10 n) with
    | none => (s, stCQ_BUSY)
    | some d =>
      let s := { s.closeWindow with decks := d }
      let ext := (d.filling.filter (fun f => f.2 == 0x10)).map (·.1)
      let s := { s with host := { s.host with win := [], winExt := ext } }
      ((s.setO kCQ_WIN_EXTENTS n).setO kCQ_WIN_STATE (if n = 0 then winCLOSED else winFILLING), 0)

/-- The HDM decoder of the physical function is programmed: a committed one keeps its base until it is released (R397; the
release is CXL's, log entry 180). -/
def State.setDecoder (s : State) (base : Nat) (commit : Bool) : State :=
  if s.host.hdm && commit then s else { s with host := { s.host with hdm := commit, hdmBase := base } }

/-- WINDOW_OPEN (R397): the zero-fill has ended. -/
def execWindowOpen (s : State) : Out :=
  .next (if s.o kCQ_WIN_STATE = winFILLING && !s.decks.filling.any (fun f => f.2 == 0x10) && !s.fatal then
      (s.setO kCQ_WIN_STATE winCLOSED).openWindow
    else s)

/-! SPDM over the DOE mailboxes (R442). -/

/-- Place of an answered request in the order of a session (R442): the place it needs, and the place it leaves. -/
def spdmOrder : SpdmKind → Nat × Nat
  | .getVersion => (0, 1)
  | .getCapabilities => (1, 2)
  | .negotiateAlgorithms => (2, 3)
  | .getDigests => (3, 3)
  | .getCertificate => (3, 3)
  | .challenge => (3, 3)
  | .getMeasurements => (3, 3)
  | .keyExchange => (3, 4)
  | .finish => (4, 5)
  | .other => (6, 6)

/-- Signing needs the identity key (R443). -/
def spdmSigns : SpdmKind → Bool
  | .challenge => true
  | .getMeasurements => true
  | .keyExchange => true
  | _ => false

/-- Bytes that the spec gives an answer (R442): the chain or its digest, or a measurement block: 1 to 8 the registers, 9 the
boot record. -/
def State.spdmData (s : State) (r : SpdmReq) : List Byte :=
  match r.kind with
  | .getDigests => sha256 identityChain
  | .getCertificate => identityChain
  | .getMeasurements =>
    if r.block = 9 then s.boot.bootRecord
    else leBytes 32 (tget 0 s.boot.regs (r.block - 1)).toNat
  | _ => []

/-- The keys of IDE are agreed: a new set is in force for the function (R379, R442, R444). -/
def State.drawIde (s : State) (fn : Nat) : State :=
  let n := s.host.ideDrawn + 1
  { s with host := { s.host with ideDrawn := n } }.setFunc fn { s.func fn with ideKey := n }

/-- SPDM_REQUEST (R379, R442): answered in the order of a session, or with an error. -/
def execSpdmRequest (fn : Nat) (req : SpdmReq) (s : State) : Out :=
  if !s.fnUp fn then .next s
  else
    let f := s.func fn
    let need := (spdmOrder req.kind).1
    let place := if req.kind = .finish then decide (f.spdm = 4) else decide (need ≤ f.spdm)
    let good := req.ok && req.kind != .other && place && (!spdmSigns req.kind || s.boot.identity)
      && (req.kind != .getMeasurements || (decide (1 ≤ req.block) && decide (req.block ≤ 9)))
    let a : SpdmAnswer := { fn := fn, kind := req.kind, error := !good, data := if good then s.spdmData req else [] }
    let next := (spdmOrder req.kind).2
    let s := { s with host := { s.host with spdmOut := s.host.spdmOut ++ [a] } }
    if !good then .next s
    else
      let s := s.setFunc fn { s.func fn with spdm := if req.kind = .getVersion || f.spdm < next then next else f.spdm }
      .next (if req.kind = .finish then s.drawIde fn else s)

end Sys2Proof.Machine
end

