-- ==== Sys2Proof/Machine/DictOps.lean ====
section
/-! DEFINITION. Writing the dictionary (R402 to R412): ranges, refusals and effects of every writable object, and the
persistent copies (R405). -/

namespace Sys2Proof.Machine

open Sys2Proof

/-! Ranges (R6, R403). -/

/-- Ranges of scalar objects: first key, instances, least and greatest value. -/
def rangeTab : List (Nat × Nat × Nat × Nat) :=
  [(kMON_IDLE_S, 1, 60, 86400), (kPW_LEVEL_MAX, 1, 0, 24), (kPW_LEVEL_FLOOR, 1, 0, 24), (kPW_POLICY, 1, 0, 1),
   (kPW_BASE_W, 1, 0, 6400), (kST_PERIOD_US, 1, 100, 10000), (kST_HOLDOVER_W, 1, 0, 6400),
   (kST_CARRY_UJ, 1, 0, 64000000), (kST_REJOIN_MAX, 1, 0, 600000), (kST_FIRST_WAIT_MS, 1, 0, 60000)]
  ++ [(kDK_SCRUB_UD_HOURS, 1, 1, 24), (kDK_SCRUB_LD_HOURS, 1, 1, 168), (kOP_RETRY_DEGRADE, 1, 1, 99999),
   (kOP_STALL_US, 1, 10, 100000), (kOP_DISCARD_LIMIT, 1, 1, 1000000), (kOP_RATE_LIMIT, 1, 1, 100),
   (kOP_QUAR_STROKES, 1, 1000, 3600000), (kOP_LINK_ENC 0, 64, 0, 1)]
  ++ [(kPT_LD_SHARE 0, 16, 1, 65535), (kPT_SLICE_US 0, 16, 100, 100000), (kPT_YIELD_GRACE_US 0, 16, 0, 100000),
   (kPT_II_WINDOW 0, 16, 10, 600000), (kPT_CTX_SHARE 0, 128, 1, 65535), (kSV_RUN_MAX, 1, 1, 2048),
   (kSV_STEP_TOKENS, 1, 0, 262144), (kSV_PAGES, 1, 1, 2097152)]
  ++ [(kTY_MODE 0, 8, 0, 1), (kTY_HV_FORM 0, 16, 0, 1), (kTY_HV_FULL 0, 16, 0, 1), (kGROW_STEPS 0, 16, 1, 65535),
   (kFLOOR_SKIPS 0, 16, 1, 65535), (kCY_TIMEOUT_STROKES 0, 64, 1, 60000), (kCY_FORM_STROKES 0, 64, 1, 600000),
   (kCY_VERDICT_GROUP 0, 16, 0, 3), (kCY_MIRROR_ALLOT 0, 16, 0, 7), (kCY_ALLOT_EXTENTS 0, 8, 0, 128),
   (kCY_ALLOT_SLOTS 0, 8, 1, 2), (kERR_SIGNAL_CLASS, 1, 0, 4)]

def inRange (key v : Nat) : Bool :=
  rangeTab.all (fun r => (inFam r.1 r.2.1 key).isNone || (decide (r.2.2.1 ≤ v) && decide (v ≤ r.2.2.2)))

/-- Baud rates (R426). -/
def bauds : List Nat := [115200, 230400, 460800, 921600, 1000000, 2000000, 3000000]

/-- Values that are not one range. -/
def valueOk (key v : Nat) : Bool :=
  if key = kMON_BAUD then bauds.contains v
  else if key = kRING_SLOT then decide (v ≤ 63) || v == 0xFF
  else if key = kERR_VECTOR then decide (v ≤ 255) || v == 0xFFFF
  else if key = kSV_CHUNK then v % 16 == 0 && decide (16 ≤ v) && decide (v ≤ 8192)
  else if (inFam (kPT_WAIT_SWITCH_US 0) 16 key).isSome then (decide (10 ≤ v) && decide (v ≤ 100000)) || v == 0xFFFFFFFF
  else if (inFam (kPT_CTX_SAVE 0) 128 key).isSome then
    (v % 1048576 == 0 && decide (v ≤ 467664896)) || v == 0xFFFFFFFF
  else if (inFam (kPT_II_WARN 0) 16 key).isSome || (inFam (kUW_WARN 0) 16 key).isSome then f32NonNeg (BitVec.ofNat 32 v)
  else inRange key v

/-- A loss scale that R202 allows: a power of two from 2^0 to 2^24. -/
def lossScaleOk (v : Nat) : Bool := v % 2 ^ 23 == 0 && decide (127 ≤ v / 2 ^ 23) && decide (v / 2 ^ 23 ≤ 151)

/-- Ranges of the distillation settings that a write in any state is held to (R153). -/
def tyRange (sub v : Nat) : Bool :=
  let x : F32 := BitVec.ofNat 32 v
  if sub = 0x08 then f32In x 0x3E800000 0x41800000
  else if sub = 0x09 then f32NonNeg x
  else if sub = 0x12 then f32In x 0xC2800000 0xBF800000
  else if sub = 0x16 then decide (v ≤ 2)
  else if sub = 0x17 then decide (1 ≤ v) && decide (v ≤ 1024)
  else if sub = 0x18 then f32In x 0x3C23D70A 0x3F000000
  else true

/-- F32 objects whose range is stated numerically, at which a NaN is refused with the path's status (R153, R192, R403): TY_TEMP,
TY_LOGP_FLOOR, TY_REBAL_THRESH, TY_HV_TEMP and TY_HV_LOGP_FLOOR. -/
def f32Ranged (key : Nat) : Bool :=
  let idx := key / 256
  let sub := key % 256
  (decide (0x4810 ≤ idx) && decide (idx < 0x4818) && [0x08, 0x12, 0x18].contains sub)
    || (decide (0x4820 ≤ idx) && decide (idx < 0x4830) && [0x07, 0x0F].contains sub)

/-- A write that R403 refuses for its value: a BOOL other than 0 or 1, and a NaN in an F32 whose range is a range of numbers. -/
def badValue (r : DirRow) (key v : Nat) : Bool :=
  (r.ty = 7 && decide (1 < v)) || (f32Ranged key && f32isNan (BitVec.ofNat 32 v))

/-- Ranges inside BLOB objects, over the bytes as the write would leave them (R268, R276, R331, R475). -/
def blobOk (key : Nat) (f : Nat → Byte) : Bool :=
  let num (a n : Nat) : Nat := leNat ((upto n).map (fun i => f (a + i)))
  if key = kPW_CLOCK_PLAN then (upto 16).all (fun k => f (16 * k + 8) == 0xFF || decide ((f (16 * k + 8)).toNat ≤ 24))
  else if key = kOP_PORT_SPLIT then (upto 16).all (fun p => decide ((f p).toNat ≤ 3))
  else if key = kSV_ACCT_CAP then (upto 4096).all (fun a => decide ((f (4 * a + 3)).toNat < 128))
  else if (inFam (kCY_MIRROR_REGIONS 0) 16 key).isSome then
    (upto 64).all (fun k => num (16 * k) 8 % 64 == 0 && num (16 * k + 8) 8 % 64 == 0)
  else true

/-! Refusals by state. -/

/-- Subindices of a pairing that may be written in any state (R153). -/
def tyLive (sub : Nat) : Bool := [0x08, 0x09, 0x12, 0x14, 0x15, 0x16, 0x17, 0x18, 0x19].contains sub

/-- The status with which the object's own chapter refuses a write in the present state (R153, R192, R202, R206, R242, R299,
R353), 0 if it does not. -/
def State.busyStatus (s : State) (idx sub : Nat) : Nat :=
  if idx = 0x4400 then (if s.svState = 0 then 0 else stSV_BUSY)
  else if 0x4810 ≤ idx && idx < 0x4818 then
    (if s.tyState (idx - 0x4810) = tyFREE || tyLive sub then 0 else stTY_BUSY)
  else if 0x4820 ≤ idx && idx < 0x4830 then
    (if s.o (kTY_HV_ENABLE (idx - 0x4820)) = 1 && sub ≠ 1 then stTY_BUSY else 0)
  else if 0x4840 ≤ idx && idx < 0x4850 then
    (if s.running (idx - 0x4840) && !([0x0B, 0x0F].contains sub) then stNUM_BUSY else 0)
  else if 0x4880 ≤ idx && idx < 0x48C0 then
    (if s.cyState ((idx - 0x4880) / 4) ((idx - 0x4880) % 4) = cyIDLE then 0 else stCY_BUSY)
  else if 0x4010 ≤ idx && idx < 0x4020 then
    (if sub = 5 && s.o (kPT_STATE (idx - 0x4010)) ≠ 0 then stPT_BUSY else 0)
  else if 0x4100 ≤ idx && idx < 0x4180 then
    (if sub = 4 && s.ctxState ((idx - 0x4100) / 8) ((idx - 0x4100) % 8) ≠ 0 then stPT_BUSY else 0)
  else 0

/-! Mirror allotments (R268). -/

/-- Give back some extents (R138). -/
def Decks.dropExtents (d : Decks) (gone : List Nat) : Decks :=
  { d with owner := d.owner.filter (fun q => !gone.contains q.1), filling := d.filling.filter (fun f => !gone.contains f.1) }

/-- A write of CY_ALLOT_EXTENTS (R138, R268); a change empties the allotment's generations. -/
def State.setAllotExtents (s : State) (k n : Nat) : State × Nat :=
  let old := (s.allot k).exts
  let sum := ((upto 8).map (fun j => if j = k then n else s.o (kCY_ALLOT_EXTENTS j))).sum
  if 128 < sum then (s, stCY_CONFIG)
  else
    let d := if n ≤ old.length then some (s.decks.dropExtents (old.drop n)) else s.decks.allocExtents 0x11 (n - old.length)
    match d with
    | none => (s, stCY_CONFIG)
    | some d =>
      let more := (d.filling.map (·.1)).filter (fun e => !s.decks.filling.any (fun f => f.1 == e))
      let s := { s with decks := d }
      let s := if n = old.length then s else s.setAllot k { exts := old.take n ++ more }
      (s.setO (kCY_ALLOT_EXTENTS k) n, 0)

/-! Commands written to control objects. -/

/-- TY_CONTROL (R155). -/
def State.tyControl (s : State) (n v : Nat) : State × Nat :=
  let p := nbits v 8 4
  let f := nbits v 16 8
  match v % 16 with
  | 1 => s.tyForm n
  | 2 => s.tyClose n
  | 3 => s.tyRebal n true f p
  | 4 => s.tyRebal n false f p
  | 5 => s.tyAttach n p
  | 6 => s.tyDetach n p
  | _ => (s, stTY_CONFIG)

/-- PT_CONTROL (R334). -/
def State.ptControl (s : State) (p v : Nat) : State × Nat :=
  match v % 16 with
  | 1 => s.ptCreate p
  | 2 => s.ptDestroy p
  | 3 => s.ptAdd p
  | 4 => s.ptRemove p
  | _ => (s, stPT_CONFIG)

/-- PT_CTX_CONTROL (R343). -/
def State.ctxControl (s : State) (p c v : Nat) : State × Nat :=
  match v % 16 with
  | 1 => s.ctxEnable p c
  | 2 => s.ctxDisable p c
  | 3 => s.ctxYield p c
  | 4 => s.ctxEvict p c
  | _ => (s, stPT_CONFIG)

/-- OP_LINK_CONTROL (R298). -/
def State.linkControl (s : State) (path : Path) (l v : Nat) : State × Nat :=
  match v % 16 with
  | 1 => s.linkEnable l
  | 2 => s.linkDisable l
  | 3 => s.linkRetrain l
  | 4 => s.linkRelease l
  | _ => (s, invalidParam path)

/-- CY_MIRROR_CONTROL (R274). -/
def State.mirrorControl (s : State) (path : Path) (p v : Nat) : State × Nat :=
  match v % 16 with
  | 1 => s.mirrorOn p true
  | 2 => s.mirrorOn p false
  | 3 => s.mirrorAsk p
  | 4 => s.mirrorSendAway p
  | _ => (s, invalidParam path)

/-- DEFAULTS (R405). -/
def State.askDefaults (s : State) : State × Nat := ({ s with flash := { s.flash with defaults := true } }, 0)

/-- A write of an object that carries a command (WO), none if the object is not one. -/
def State.controlObject (s : State) (path : Path) (key v : Nat) : Option (State × Nat) :=
  if key = kDICT_CONTROL then some (if v % 16 = 1 then s.askDefaults else (s, invalidParam path))
  else if key = kFW_CONTROL then some (s.fwControl path v)
  else if key = kFENCE_REQUEST then some (s.fenceRequest (BitVec.ofNat 32 v))
  else if key = kRST_CONTROL then some (s.resetControl path v)
  else if key = kSV_CONTROL then
    some (match v % 16 with
      | 1 => s.svStart
      | 2 => s.svStop
      | 3 => s.svDrain
      | _ => (s, invalidParam path))
  else match inFam (kOP_LINK_CONTROL 0) 64 key with
  | some l => some (s.linkControl path l v)
  | none => match inFam (kPT_CONTROL 0) 16 key with
  | some p => some (s.ptControl p v)
  | none => match inFam (kPT_CTX_CONTROL 0) 128 key with
  | some c => some (s.ctxControl (c / 8) (c % 8) v)
  | none => match inFam (kTY_CONTROL 0) 8 key with
  | some n => some (s.tyControl n v)
  | none => match inFam (kNUM_CONTROL 0) 16 key with
  | some p => some (match v % 16 with
      | 1 => s.startRun p
      | 2 => s.endRunNum p
      | _ => (s, invalidParam path))
  | none => match inFam (kCY_GROUP_CONTROL 0) 64 key with
  | some g => some (match v % 16 with
      | 1 => s.formGroup (g / 4) (g % 4)
      | 2 => s.leaveGroup (g / 4) (g % 4)
      | _ => (s, stCY_CONFIG))
  | none => match inFam (kCY_MIRROR_CONTROL 0) 16 key with
  | some p => some (s.mirrorControl path p v)
  | none => none

/-! Writes of values. -/

/-- Set a scalar, and keep it in flash where it persists (R405). -/
def State.storeScalar (s : State) (r : DirRow) (key v : Nat) : State :=
  let s := s.setO key v
  if r.acc = 5 then s.markRwp key else s

/-- A write of a scalar object that passed the checks of its type and right. -/
def State.writeScalar (s : State) (path : Path) (r : DirRow) (key v : Nat) : State × Nat :=
  let idx := key / 256
  let sub := key % 256
  let ty := decide (0x4810 ≤ idx) && decide (idx < 0x4818)
  let num := decide (0x4840 ≤ idx) && decide (idx < 0x4850)
  match s.controlObject path key v with
  | some out => (out.1.pollAll, out.2)
  | none =>
    let busy := s.busyStatus idx sub
    if (ty || num || (inFam (kTY_HV_ENABLE 0) 16 (key - key % 256 + 1)).isSome) && busy ≠ 0 then (s, busy)
    else if badValue r key v then (s, invalidParam path)
    else if ty && !tyRange sub v then (s, stTY_CONFIG)
    else if !valueOk key v then (s, invalidParam path)
    else if busy ≠ 0 then (s, busy)
    else if key = kMON_BAUD then
      let s := s.storeScalar r key v
      -- on the monitor, only once the OK line has been sent (R426)
      ({ s with mon := if path = .monitor then s.mon else { s.mon with baud := v, next := none } }, 0)
    else if (key = kPW_LEVEL_MAX && v < s.o kPW_LEVEL_FLOOR) || (key = kPW_LEVEL_FLOOR && s.o kPW_LEVEL_MAX < v) then
      (s, invalidParam path)
    else if key = kOP_ALLOW_EN then
      let s := s.storeScalar r key v
      ({ s with op := { s.op with retest := true } }, 0)
    else if key = kCQ_WIN_EXTENTS then
      let q := s.winExtents v
      (q.1, if q.2 = stMB_PARAM then invalidParam path else q.2)
    else match inFam (kSV_CH_BASE 0) 24 key with
    | some c => s.ringChange path c (some v) none
    | none => match inFam (kSV_CH_ENTRIES 0) 24 key with
    | some c => s.ringChange path c none (some v)
    | none => match inFam (kSV_CH_TAIL 0) 24 key with
    | some c => (s.chTail c v, 0)
    | none => match inFam (kTY_HV_ENABLE 0) 16 key with
    | some p => s.hvEnable path p v
    | none => match inFam (kTY_REBAL_MODE 0) 8 key with
    | some n =>
      let k := if s.tyState n = tyFREE then (setBits (s.o (kTY_STUDENTS n)) 16).length else (s.pairing n).members.length
      if v = 2 && 1 < k then (s, stTY_CONFIG) else (s.storeScalar r key v, 0)
    | none => match inFam (kCY_ALLOT_EXTENTS 0) 8 key with
    | some k => s.setAllotExtents k v
    | none => match inFam (kCY_ALLOT_SLOTS 0) 8 key with
    | some k => ((if v = s.o key then s else s.setAllot k { exts := (s.allot k).exts }).storeScalar r key v, 0)
    | none =>
      if num && [0x05, 0x06, 0x07].contains sub then
        let p := idx - 0x4840
        let g (k : Nat) : Nat := if k = key then v else s.o k
        let l := g (kLOSS_SCALE p)
        let lo := g (kLOSS_SCALE_MIN p)
        let hi := g (kLOSS_SCALE_MAX p)
        if lossScaleOk l && lossScaleOk lo && lossScaleOk hi && lo ≤ l && l ≤ hi then (s.storeScalar r key v, 0)
        else (s, invalidParam path)
      else (s.storeScalar r key v, 0)

/-- Byte `i` of a BLOB as a write would leave it. -/
def State.merged (s : State) (key off : Nat) (data : List Byte) (i : Nat) : Byte :=
  if off ≤ i && i < off + data.length then data.getD (i - off) 0 else s.blob key i

/-- Write the entries of RK_GROUPS that a span touches; none of them if one is refused (R226). -/
def State.writeGroups (s : State) (path : Path) (p off : Nat) (data : List Byte) : State × Nat :=
  let first := off / 64
  let last := (off + data.length - 1) / 64
  let cur (k : Nat) : BitVec 512 := s.groupImage p k
  let entry (k : Nat) : BitVec 512 :=
    BitVec.ofNat 512 (leNat ((upto 64).map (fun b =>
      let i := 64 * k + b
      if off ≤ i && i < off + data.length then data.getD (i - off) 0 else numByte (cur k).toNat b)))
  let r := (upto (last + 1 - first)).foldl (fun (a : State × Nat) j =>
    if a.2 ≠ 0 then a else a.1.groupsWrite path p (first + j) (entry (first + j))) (s, 0)
  if r.2 = 0 then r else (s, r.2)

/-- Reserved bytes of the writable BLOB objects that have some (R12): PW_CLOCK_PLAN, CY_MEMBERS and CY_EXPORT_TARGET. -/
def rsvByte (key i : Nat) : Bool :=
  if key = kPW_CLOCK_PLAN || (inFam (kCY_MEMBERS 0) 64 key).isSome then decide (9 ≤ i % 16)
  else (inFam (kCY_EXPORT_TARGET 0) 16 key).isSome && decide (9 ≤ i) && decide (i < 12)

/-- A write of a BLOB object that passed the checks of its span and right. -/
def State.writeBlob (s : State) (path : Path) (r : DirRow) (key off : Nat) (data : List Byte) : State × Nat :=
  let idx := key / 256
  let busy := s.busyStatus idx (key % 256)
  -- reserved bytes are ignored and stay 0 (R12)
  let data := data.zipIdx.map (fun b => if rsvByte key (off + b.2) then 0 else b.1)
  if busy ≠ 0 then (s, busy)
  else if key = kFENCE_MAP && s.pathLevel path < 2 then (s, accessDenied path)
  else if !blobOk key (s.merged key off data) then (s, invalidParam path)
  else match inFam (kRK_GROUPS 0) 16 key with
  | some p => s.writeGroups path p off data
  | none =>
    let s := s.setBlob key off data
    let s := if r.acc = 5 || key = kRING_KEY || key = kMON_PASS_HASH then s.markRwp key else s
    if key = kRING_KEY then
      ((s.setO kRING_SEQ_FLOOR 0).setO kRING_AUTH (bnat ((upto 32).any (fun i => s.blob key i != 0))), 0)
    else if key = kOP_ALLOW || key = kOP_DENY then ({ s with op := { s.op with retest := true } }, 0)
    else if idx = 0x4410 || idx = 0x4411 || idx = 0x4412 then (if s.svState = 0 then s.latchAccts else s, 0)
    else (s, 0)

/-- A write of an object (R402 to R412): checked, then applied; a refusal changes nothing. -/
def State.writeObject (s : State) (path : Path) (key off : Nat) (data : List Byte) : State × Nat :=
  match dirFind key with
  | none => (s, invalidParam path)
  | some r =>
    if !s.mayWrite path || r.acc = 1 || r.acc = 4 || r.acc = 6 then (s, accessDenied path)
    else if !spanOk r off data.length false then (s, invalidParam path)
    else
      let out := if r.ty = 8 || r.ty = 9 then s.writeBlob path r key off data
        else s.writeScalar path r key (leNat data)
      if out.2 = 0 then out else (s, out.2)

/-- A dictionary write on a path, with its status (R410, R413). -/
def State.dictWrite (s : State) (path : Path) (key off : Nat) (data : List Byte) : State :=
  if !s.dictUp then s
  else
    let r := s.writeObject path key off data
    r.1.report path r.2

/-! Persistent copies (R405, R444). -/

/-- Objects whose values read as zeros and are stored wrapped (R444). -/
def wrapped (key : Nat) : Bool := key == kRING_KEY || key == kMON_PASS_HASH

/-- KS (R444). -/
def storageKey : List Byte := hkdf256 [] Config.pufSecret (asciiBytes "gvm-storage")

/-- Nonce and further authenticated data of the wrapping of commit `seq` of an object, which the spec does not give
(DESIGN CHOICE, log entry 181). -/
def wrapNonce (key seq : Nat) : List Byte := leBytes 8 seq ++ leBytes 4 key

/-- A value wrapped for storage (R444). -/
def wrapValue (key seq : Nat) (m : List Byte) : List Byte :=
  let c := gcmCrypt storageKey (wrapNonce key seq) m
  c ++ gcmTag storageKey (wrapNonce key seq) [] c

/-- The value of a wrapped copy, none if its tag does not verify (R444). -/
def unwrapValue (key seq n : Nat) (w : List Byte) : Option (List Byte) :=
  let c := w.take n
  if gcmTag storageKey (wrapNonce key seq) [] c == w.drop n then some (gcmCrypt storageKey (wrapNonce key seq) c) else none

/-- CRC-32C of a stored copy: of its number and its bytes (R405). -/
def storedCrc (seq : Nat) (bytes : List Byte) : Nat := crc32c (leBytes 8 seq ++ bytes)

/-- The whole value of an object, as bytes. -/
def State.objImage (s : State) (r : DirRow) (key : Nat) : List Byte :=
  if r.ty = 9 || r.ty = 8 then (upto r.size).map (fun i => s.blob key i) else leBytes r.size (s.o key)

/-- Copy of an object in flash device `b`. -/
def State.stored (s : State) (b key : Nat) : Option StoredCopy := tget none (s.bank b).objs key

/-- Number of the latest commit of an object, 0 if there is none. -/
def State.storedSeq (s : State) (key : Nat) : Nat :=
  let q (b : Nat) : Nat := match s.stored b key with | some c => c.seq | none => 0
  max (q 0) (q 1)

/-- One object is committed to both flash devices (R405). A secret needs the storage key: without it nothing is stored (R444). -/
def State.commitKey (s : State) (key : Nat) : State :=
  match dirFind key with
  | none => s
  | some r =>
    if wrapped key && !s.boot.identity then s
    else
      let seq := s.storedSeq key + 1
      let m := s.objImage r key
      let bytes := if wrapped key then wrapValue key seq m else m
      let c : StoredCopy := { seq := seq, bytes := bytes, crc := storedCrc seq bytes }
      [0, 1].foldl (fun (s : State) b => s.setBank b { s.bank b with objs := tset none (s.bank b).objs key (some c) }) s

/-- Every object that waits is committed to both flash copies. -/
def State.commitRwp (s : State) : State :=
  let s' := s.flash.dirty.foldl State.commitKey s
  { s' with flash := { s'.flash with dirty := [], dirtyAt := 0 } }

/-- The CRC of a stored copy is correct. -/
def StoredCopy.ok (c : StoredCopy) : Bool := c.crc == storedCrc c.seq c.bytes

/-- The newer valid copy of an object; device 0 where both are as new (R405). -/
def State.newerCopy (s : State) (key : Nat) : Option StoredCopy :=
  let good (b : Nat) : Option StoredCopy := (s.stored b key).filter StoredCopy.ok
  match good 0, good 1 with
  | some a, some b => some (if a.seq < b.seq then b else a)
  | some a, none => some a
  | none, b => b

/-- The value stored for an object is one that the firmware accepts (R405). -/
def storedOk (r : DirRow) (key : Nat) (m : List Byte) : Bool :=
  if r.ty = 9 then m.length == r.size && blobOk key (fun i => m.getD i 0)
  else
    let v := leNat m
    m.length == r.size && valueOk key v && !badValue r key v

/-- The value that an object's newer valid copy holds, none if it holds none that can be used (R405, R444). -/
def State.storedValue (s : State) (r : DirRow) (key : Nat) : Option (List Byte) :=
  match s.newerCopy key with
  | none => none
  | some c =>
    let m := if !wrapped key then some c.bytes
      else if s.boot.identity then unwrapValue key c.seq r.size c.bytes else none
    m.filter (storedOk r key)

/-- Load one persistent object (R405): from its newer valid copy; its default and one corrected record where a copy is stored and none
is valid, or the value is out of range; its default where none is stored. -/
def State.loadKey (s : State) (key : Nat) : State :=
  match dirFind key with
  | none => s
  | some r =>
    match s.storedValue r key with
    | some m => if r.ty = 9 || r.ty = 8 then s.setBlob key 0 m else s.setO key (leNat m)
    | none => s.errRec { cls := 1, code := rcDICT_RESTORE, arg0 := key / 256 }

/-- Keys with a copy in either device, ascending. -/
def State.storedKeys (s : State) : List Nat :=
  (((s.bank 1).objs.map (·.1)).foldl (fun t k => tins t k ()) (((s.bank 0).objs.map (·.1)).foldl (fun t k => tins t k ()) [])).map
    (·.1)

/-- Load the persistent objects from flash (R405, R444). -/
def State.loadRwp (s : State) : State := s.storedKeys.foldl State.loadKey s

end Sys2Proof.Machine
end

