-- ==== Sys2Proof/Machine/Ring.lean ====
section
/-! DEFINITION. The rack ring (R414 to R424). -/

namespace Sys2Proof.Machine

open Sys2Proof

/-! The frame (R416): a 14-byte header, 1,584 bytes of payload, the FCS. -/

/-- Length of a ring frame. -/
def ringFrameLen : Nat := 1602

/-- Where the payload begins, and in it the request slots, the tag and the response slots (R416). -/
def rfHeader : Nat := 14
def rfRequest (slot : Nat) : Nat := rfHeader + 32 + 12 * slot
def rfTag : Nat := rfHeader + 800
def rfResponse (slot : Nat) : Nat := rfHeader + 816 + 12 * slot

/-- `n` bytes of a frame from byte `a`, as a number. -/
def rfNum (f : List Byte) (a n : Nat) : Nat := leNat ((upto n).map (fun i => f.getD (a + i) 0))

/-- A frame without its FCS. -/
def rfBody (f : List Byte) : List Byte := f.take (f.length - 4)

/-- The FCS of a frame's bytes: IEEE 802.3's CRC-32, its least significant byte first (PRESUMED, log entry 182). -/
def fcsOf (body : List Byte) : List Byte := leBytes 4 (crc32 body)

/-- The FCS that came with a frame is correct. -/
def rfFcsOk (f : List Byte) : Bool := decide (4 ≤ f.length) && fcsOf (rfBody f) == f.drop (f.length - 4)

/-- The EtherType is 0x88B5, in 802.3 byte order, and the length that of a ring frame (R416, R421). -/
def rfShaped (f : List Byte) : Bool := (f.drop 12).take 2 == [(0x88 : Byte), (0xB5 : Byte)] && f.length == ringFrameLen

/-- The frame header (R417). -/
def rfHdr (f : List Byte) : BitVec 256 := BitVec.ofNat 256 (rfNum f rfHeader 32)

def rhStroke (h : BitVec 256) : Bool := bit h 0
def rhVersion (h : BitVec 256) : Nat := bits h 71 64
def rhPos (h : BitVec 256) : Nat := bits h 111 104
def rhRingId (h : BitVec 256) : Nat := bits h 127 112
def rhSeq (h : BitVec 256) : Nat := bits h 159 128
def rhGrant (h : BitVec 256) : Nat := bits h 191 160
def rhStrokeN (h : BitVec 256) : Nat := bits h 255 192

/-- The bytes that the tag covers: the header with POS 0, then the 64 request slots (R420). -/
def tagBytes (f : List Byte) : List Byte := ((upto 800).map (fun i => f.getD (rfHeader + i) 0)).set 13 0

/-- The frame's tag is the one that RING_KEY gives (R420). -/
def State.tagOk (s : State) (f : List Byte) : Bool :=
  (hmac256 ((upto 32).map (fun i => s.blob kRING_KEY i)) (tagBytes f)).take 16 == leBytes 16 (rfNum f rfTag 16)

/-- Authentication of an accepted frame (R420): it raises the floor, or counts in RING_TAG_FAILS. -/
def State.authFrame (s : State) (f : List Byte) : State × Bool :=
  if s.o kRING_AUTH = 0 then (s, false)
  else if s.tagOk f && s.o kRING_SEQ_FLOOR < rhSeq (rfHdr f) then (s.setO kRING_SEQ_FLOOR (rhSeq (rfHdr f)), true)
  else (s.addO 32 kRING_TAG_FAILS 1, false)

/-! Requests (R418, R423). -/

def rqOp (q : BitVec 96) : Nat := bits q 3 0
def rqLen (q : BitVec 96) : Nat := bits q 13 12 + 1
def rqOff (q : BitVec 96) : Nat := bits q 39 14
def rqKey (q : BitVec 96) : Nat := bits q 63 48 * 256 + bits q 47 40
def rqData (q : BitVec 96) : Nat := bits q 95 64

/-- Size of the stage and snap buffers (R418). -/
def ringBuf : Nat := 131072

/-- A request has been performed: its response is ready, and the status stands on the path (R410, R423). -/
def State.answer (s : State) (r : RingReq) (st data : Nat) : State :=
  if !s.dictUp then s
  else
    let s := s.report (.ring r.auth) st
    { s with ring := { s.ring with ready := s.ring.ready ++ [{ seq := r.seq, status := st, data := data, at_ := r.at_ }] } }

/-- Requests at the head of the queue whose OP is none of R418's are refused. -/
def State.flushRing : Nat → State → State
  | 0, s => s
  | n + 1, s =>
    match s.ring.queue with
    | r :: t =>
      if 6 < rqOp r.slot then State.flushRing n ({ s with ring := { s.ring with queue := t } }.answer r stRING_PARAM 0) else s
    | [] => s

/-- WRITE (R418): a U8, U16, U32, I32, F32 or BOOL, whole. -/
def State.ringWrite (s : State) (r : RingReq) : State × Nat :=
  match dirFind (rqKey r.slot) with
  | none => (s, stRING_PARAM)
  | some d =>
    if s.mayWrite (.ring r.auth) && (d.ty = 4 || d.ty = 8 || d.ty = 9) then (s, stRING_PARAM)
    else s.writeObject (.ring r.auth) (rqKey r.slot) (rqOff r.slot) (leBytes (rqLen r.slot) (rqData r.slot))

/-- STAGE (R409, R418). -/
def State.ringStage (s : State) (r : RingReq) : State × Nat :=
  if !s.mayWrite (.ring r.auth) then (s, stRING_DENIED)
  else if ringBuf < rqOff r.slot + rqLen r.slot then (s, stRING_PARAM)
  else
    let x := s.ring
    ({ s with ring := { x with stage := mwrite x.stage (rqOff r.slot) (leBytes (rqLen r.slot) (rqData r.slot)) } }, 0)

/-- COMMIT (R418): DATA bytes of the stage buffer, as one access. -/
def State.ringCommit (s : State) (r : RingReq) : State × Nat :=
  let n := rqData r.slot
  if n = 0 || ringBuf < n then (s, stRING_PARAM)
  else s.writeObject (.ring r.auth) (rqKey r.slot) (rqOff r.slot) (mread s.ring.stage 0 n)

/-- READ (R418): LEN + 1 bytes of the object. -/
def State.ringRead (s : State) (r : RingReq) : State × Nat × Nat :=
  match s.readObject (.ring r.auth) (rqKey r.slot) (rqOff r.slot) (rqLen r.slot) true with
  | .error st => (s, st, 0)
  | .ok (s, bs) => (s, 0, leNat bs)

/-- SNAP (R418): DATA bytes of the object, as one read. -/
def State.ringSnap (s : State) (r : RingReq) : State × Nat :=
  let n := rqData r.slot
  if n = 0 || ringBuf < n then (s, stRING_PARAM)
  else match s.readObject (.ring r.auth) (rqKey r.slot) (rqOff r.slot) n false with
  | .error st => (s, st)
  | .ok (s, bs) => ({ s with ring := { s.ring with snap := mwrite s.ring.snap 0 bs } }, 0)

/-- PEEK (R418): LEN + 1 bytes of the snap buffer. -/
def State.ringPeek (s : State) (r : RingReq) : Nat × Nat :=
  if ringBuf < rqOff r.slot + rqLen r.slot then (stRING_PARAM, 0)
  else (0, leNat (mread s.ring.snap (rqOff r.slot) (rqLen r.slot)))

/-- Perform a request (R418): the state, the status and the data. -/
def State.ringRun (s : State) (r : RingReq) : State × Nat × Nat :=
  let w (q : State × Nat) : State × Nat × Nat := (q.1, q.2, 0)
  match rqOp r.slot with
  | 1 => s.ringRead r
  | 2 => w (s.ringWrite r)
  | 3 => w (s.ringStage r)
  | 4 => w (s.ringCommit r)
  | 5 => w (s.ringSnap r)
  | 6 => (s, s.ringPeek r)
  | _ => (s, stRING_PARAM, 0)

/-- Perform the request at the head of the queue (R411, R423). -/
def State.performHead (s : State) : State :=
  if !s.dictUp then s
  else match s.ring.queue with
  | r :: t =>
    let q := { s with ring := { s.ring with queue := t } }.ringRun r
    State.flushRing 16 (q.1.answer r q.2.1 q.2.2)
  | [] => s

/-- Perform the request at the head of the queue if it has the OP given. -/
def State.performRing (s : State) (op : Nat) : State :=
  match s.ring.queue with
  | r :: _ => if rqOp r.slot = op then s.performHead else s
  | [] => s

/-- Perform the requests at the head of the queue that reached the management firmware earlier, at most `n` of them. -/
def State.drainRing : Nat → (RingReq → Bool) → State → State
  | 0, _, s => s
  | n + 1, earlier, s =>
    match s.ring.queue with
    | r :: _ => if earlier r && s.dictUp then State.drainRing n earlier s.performHead else s
    | [] => s

/-- Accesses are performed in the order they reach the management firmware (R411): before an access that reaches it now on a path, the
ring's requests that reached it earlier, and in the same cycle those of the ring before one of the monitor. -/
def State.ringBefore (s : State) (p : Path) : State :=
  State.drainRing 16 (fun r => match p with | .mailbox _ => decide (r.at_ < s.ns) | _ => true) s

/-- A dictionary command given on a path, in its turn (R404, R410, R411). -/
def State.access (s : State) (p : Path) (f : State → State × Nat) : State := (s.ringBefore p).control p f

/-- RING_READ (R418). -/
def execRingRead (s : State) : Out := .next (s.performRing 1)

/-- RING_WRITE (R418). -/
def execRingWrite (s : State) : Out := .next (s.performRing 2)

/-- RING_STAGE (R418). -/
def execRingStage (s : State) : Out := .next (s.performRing 3)

/-- RING_COMMIT (R418). -/
def execRingCommit (s : State) : Out := .next (s.performRing 4)

/-- RING_SNAP (R418). -/
def execRingSnap (s : State) : Out := .next (s.performRing 5)

/-- RING_PEEK (R418). -/
def execRingPeek (s : State) : Out := .next (s.performRing 6)

/-! Frames (R419 to R424). -/

/-- The part's slot in a frame that arrived at POS `pos` (R422). -/
def State.ringSlot (s : State) (pos : Nat) : Nat := if s.o kRING_SLOT ≤ 63 then s.o kRING_SLOT else pos

/-- Take the request of an accepted frame (R423, R424). -/
def State.takeReq (s : State) (seq : Nat) (q : BitVec 96) (auth : Bool) : State :=
  if rqOp q = 0 then s
  else if 16 ≤ s.ring.queue.length then s.addO 32 kRING_OVERRUNS 1
  else
    State.flushRing 16
      { s with ring := { s.ring with queue := s.ring.queue ++ [{ seq := seq, slot := q, auth := auth, at_ := s.ns }] } }

/-- A response slot (R419). -/
def responseSlot (data status seq pos : Nat) (restricted holdover : Bool) (op : Nat) : BitVec 96 :=
  BitVec.ofNat 96 (op + bnat holdover * 2 ^ 4 + bnat restricted * 2 ^ 5 + (pos % 256) * 2 ^ 8 + (seq % 2 ^ 32) * 2 ^ 16
    + (status % 2 ^ 16) * 2 ^ 48 + (data % 2 ^ 32) * 2 ^ 64)

/-- The response that goes into a frame (R419, R423): the oldest that is ready, into an accepted frame; otherwise IDLE. -/
def State.response (s : State) (pos : Nat) (accepted : Bool) : State × BitVec 96 :=
  let hold := s.o kST_STATE != tbLOCKED
  let x := s.ring
  match x.ready with
  | r :: t =>
    if accepted && decide (r.at_ + 20000 ≤ s.ns) then
      ({ s with ring := { x with ready := t } }, responseSlot r.data r.status r.seq pos s.restricted hold 8)
    else (s, responseSlot s.stroke 0 0 pos s.restricted hold 9)
  | [] => (s, responseSlot s.stroke 0 0 pos s.restricted hold 9)

/-- Another part upstream holds the slot (R422). -/
def State.slotConflict (s : State) : State :=
  let s := s.addO 32 kRING_CONFLICTS 1
  let x := s.ring
  if x.conflictAt ≠ 0 && s.stroke + 1 < x.conflictAt + 1000 then s
  else { s with ring := { x with conflictAt := s.stroke + 1 } }.errRec { cls := 0, code := rcRING_SLOT_CONFLICT }

/-- The part's slot of a frame (R419, R422): a request taken if the frame is accepted, and the response to write into it. -/
def State.serveSlot (s : State) (f : List Byte) (accepted auth : Bool) : State × Option (Nat × BitVec 96) :=
  let pos := rhPos (rfHdr f)
  let slot := s.ringSlot pos
  if 63 < slot || f.length < rfResponse slot + 16 then (s, none)
  else if rfNum f (rfResponse slot) 1 % 16 ≠ 0 then (s.slotConflict, none)
  else
    let s := if accepted then s.takeReq (rhSeq (rfHdr f)) (BitVec.ofNat 96 (rfNum f (rfRequest slot) 12)) auth else s
    let r := s.response pos accepted
    ({ r.1 with ring := { r.1.ring with out := r.1.ring.out ++ [(slot, r.2)] } }, some (slot, r.2))

/-- The part accepts the frame's VERSION and RING_ID (R419, R421). -/
def State.headerOk (s : State) (f : List Byte) : Bool := rhVersion (rfHdr f) == 1 && rhRingId (rfHdr f) == s.o kRING_ID

/-- An accepted frame is authenticated, begins its stroke, and is served (R420, R421). -/
def State.acceptFrame (s : State) (f : List Byte) : State × Option (Nat × BitVec 96) :=
  let h := rfHdr f
  let s := (s.addO 64 kRING_FRAMES 1).setO kRING_POS (rhPos h)
  let needs := s.o kRING_AUTH == 1
  let a := s.authFrame f
  let s := a.1
  let s := if rhStroke h && (a.2 || !needs) then s.strokeFrame (rhStrokeN h) (rhGrant h) else s
  s.serveSlot f true a.2

/-- A frame that the transceiver takes (R421): accepted, or counted and left without effect; its response slot is written in either
case if its VERSION and RING_ID are the part's (R419). -/
def State.takeFrame (s : State) (f : List Byte) : State × Option (Nat × BitVec 96) :=
  if rfFcsOk f && rfShaped f && s.headerOk f then s.acceptFrame f
  else
    let t := s.addO 32 (if rfFcsOk f then kRING_FOREIGN else kRING_FCS_ERRORS) 1
    if s.headerOk f then t.serveSlot f false false else (t, none)

/-- Bytes `b` written over a frame's body from byte `a`, as far as the body reaches. -/
def overlay (f : List Byte) (a : Nat) (b : List Byte) : List Byte :=
  f.zipIdx.map (fun x => if a ≤ x.2 && x.2 < a + b.length then b.getD (x.2 - a) 0 else x.1)

/-- A frame as it goes on (R414, R417): POS one higher, saturating, in a frame that has a ring frame's header; the response slot in it if
the part wrote one; the FCS recomputed, and inverted if the frame came with a bad one. -/
def passedFrame (f : List Byte) (ring : Bool) (resp : Option (Nat × BitVec 96)) : List Byte :=
  let b := rfBody f
  let b := if ring then overlay b (rfHeader + 13) (leBytes 1 (min 255 (rhPos (rfHdr f) + 1))) else b
  let b := match resp with
    | some r => overlay b (rfResponse r.1) (leBytes 12 r.2.toNat)
    | none => b
  b ++ (fcsOf b).map (fun x => if rfFcsOk f then x else x ^^^ 0xFF)

/-- A frame is forwarded. -/
def State.ringForward (s : State) (f : List Byte) : State := { s with ring := { s.ring with fwd := s.ring.fwd ++ [f] } }

/-- RING_FRAME (R414, R415, R421): through the bypass untouched, else taken and forwarded. -/
def execRingFrame (bytes : List Byte) (s : State) : Out :=
  if !s.dictUp || s.ring.bypass then .next (s.ringForward bytes)
  else
    let t := s.takeFrame bytes
    .next (t.1.ringForward (passedFrame bytes (rfShaped bytes || s.headerOk bytes) t.2))

end Sys2Proof.Machine
end

