-- ==== Sys2Proof/Machine/Dictionary.lean ====
section
/-! DEFINITION. The dictionary commands and the mailboxes (R385, R402 to R413). -/

namespace Sys2Proof.Machine

open Sys2Proof

/-- OBJECT_WRITE (R403, R404, R408 to R412). -/
def execObjectWrite (path : Path) (idx sub off : Nat) (data : List Byte) (s : State) : Out :=
  .next (if idx < 65536 && sub < 256 then (s.ringBefore path).dictWrite path (idx * 256 + sub) off data else s)

/-- RWP_COMMIT (R405). -/
def execRwpCommit (s : State) : Out := .next (if s.dictUp then s.commitRwp else s)

/-- DEFAULTS (R405, R406). -/
def execDefaults (path : Path) (s : State) : Out := .next (s.access path State.askDefaults)

/-- RING_KEY (R420, R425). -/
def execRingKey (path : Path) (key : List Byte) (s : State) : Out := .next ((s.ringBefore path).dictWrite path kRING_KEY 0 key)

/-! Mailboxes (R385). -/

/-- The mailbox ends its operation: status and bytes moved, and its vector if that is enabled. A reset that the operation
asked for has cleared it. -/
def State.mailboxEnd (s : State) (fn st moved : Nat) : State :=
  if !s.dictUp then s
  else
    let f := s.func fn
    let s := s.setFunc fn { f with mbStatus := BitVec.ofNat 64 (st * 2 ^ 16 + moved * 2 ^ 32) }
    let s := s.report (.mailbox fn) st
    if bit f.mbVector 8 then s.msix fn (bits f.mbVector 7 0) else s

/-- The registers stand as software wrote them before GO; their reserved bits stay 0 (R12). -/
def State.mailboxRegs (s : State) (fn : Nat) (r : MbRegs) : State :=
  s.setFunc fn { s.func fn with mbCmd := setField r.cmd 4 4 0, mbOffset := r.offset, mbAddr := r.addr
                                mbVector := setField r.vector 9 23 0 }

def mbOp (r : MbRegs) : Nat := bits r.cmd 3 0
def mbKey (r : MbRegs) : Nat := bits r.cmd 31 16 * 256 + bits r.cmd 15 8
def mbLen (r : MbRegs) : Nat := bits r.cmd 63 32

/-- The mailbox's own checks: OP, LENGTH, ADDR. -/
def mbBad (r : MbRegs) : Bool := (mbOp r != 1 && mbOp r != 2) || mbLen r == 0 || r.addr.toNat % 64 != 0

/-- The mailbox operation that the registers describe (R385): READ moves the bytes to the host buffer, WRITE takes `data`, which is what
the buffer holds. -/
def State.mailboxDo (s : State) (fn : Nat) (regs : MbRegs) (data : List Byte) : State :=
  if !s.fnUp fn then s
  else if mbBad regs then s.mailboxEnd fn stMB_PARAM 0
  else if mbOp regs = 1 then
    match s.readObject (.mailbox fn) (mbKey regs) regs.offset.toNat (mbLen regs) false with
    | .error st => s.mailboxEnd fn st 0
    | .ok (s, bs) => (s.hostWrite regs.addr.toNat bs).mailboxEnd fn 0 (mbLen regs)
  else
    let bs := (upto (mbLen regs)).map (fun i => data.getD i 0)
    let r := s.writeObject (.mailbox fn) (mbKey regs) regs.offset.toNat bs
    r.1.mailboxEnd fn r.2 (if r.2 = 0 then mbLen regs else 0)

/-- BUSY of CQ_MB_STATUS. -/
def Func.busy (f : Func) : Bool := bit f.mbStatus 0

/-- The function's mailbox registers can be reached, although the dictionary may not be (R413). -/
def State.mailboxUp (s : State) (fn : Nat) : Bool :=
  s.boot.stage != 0 && !s.boot.holding && (fn == 0 || (decide (fn ≤ 16) && (s.func fn).vf)) && (s.func fn).flr == 0

/-- GO (R385, R411, R413): ignored with the registers' writes while BUSY is 1; the operation is performed in its turn, and stays BUSY
until the dictionary is reachable. -/
def State.mailboxGo (s : State) (fn : Nat) (regs : MbRegs) (data : List Byte) : State :=
  if !s.mailboxUp fn || (s.func fn).busy then s
  else
    let s := s.mailboxRegs fn regs
    if s.dictUp then (s.ringBefore (.mailbox fn)).mailboxDo fn regs data
    else s.setFunc fn { s.func fn with mbStatus := 1, mbHeld := some { regs := regs, data := data } }

/-- The dictionary has become reachable: the operations that waited are performed, the physical function's first (R411, R413). -/
def State.mailboxRelease (s : State) : State :=
  (upto 17).foldl (fun (s : State) fn =>
    match (s.func fn).mbHeld with
    | some h => (s.setFunc fn { s.func fn with mbHeld := none }).mailboxDo fn h.regs h.data
    | none => s) s

/-- MAILBOX_READ (R385): the bytes go to the host buffer. -/
def execMailboxRead (fn : Nat) (regs : MbRegs) (s : State) : Out :=
  .next (if mbOp regs = 2 then s else s.mailboxGo fn regs [])

/-- MAILBOX_WRITE (R385): `data` is what the host buffer holds. -/
def execMailboxWrite (fn : Nat) (regs : MbRegs) (data : List Byte) (s : State) : Out :=
  .next (if mbOp regs = 1 then s else s.mailboxGo fn regs data)

end Sys2Proof.Machine
end

