-- ==== Sys2Proof/Machine/Boot.lean ====
section
/-! DEFINITION. The boot sequence (R436 to R449) and the firmware commands (R441, R451 to R453). -/

namespace Sys2Proof.Machine

open Sys2Proof

/-! The sequence of R438. -/

/-- The supply has been good for as long as the cause of the reset asks (R372, R469). -/
def State.supplyGood (s : State) : Bool :=
  decide (40000 ≤ s.st.vin) && decide (s.st.vin ≤ 58000)
    && (match s.boot.cause with
      | 0 => true
      | 1 => s.st.vinIn != 0 && decide (s.st.vinIn + 100000000 ≤ s.ns + 1)
      | _ => decide (s.boot.at_ + 1000000000 ≤ s.ns))

/-- POWER_GOOD (R372, R438, R469). -/
def execPowerGood (s : State) : Out :=
  .next (if s.boot.stage = 0 && !s.boot.holding && s.supplyGood then s.startBoot else s)

def State.setStage (s : State) (n : Nat) : State := { s with boot := { s.boot with stage := n } }
def State.halt (s : State) : State := { s with boot := { s.boot with halted := true } }

/-- SEC_FIRMWARE_START (R437, R438, R440). -/
def execSecFirmwareStart (s : State) : Out :=
  if s.boot.stage ≠ 1 || s.boot.halted then .next s
  else
    let r := s.loadImage 1
    .next (if r.2 then (r.1.extend 0 Config.romDigest).setStage 2 else s.halt)

/-- MGMT_COMPLEX_START (R438, R443): the identity key is unwrapped or not, and the management firmware is loaded. -/
def execMgmtComplexStart (identityOk : Bool) (s : State) : Out :=
  if s.boot.stage ≠ 2 || s.boot.halted then .next s
  else
    let s := { s with boot := { s.boot with identity := identityOk } }
    let s := if identityOk then s else (s.addCause causeIDENTITY).errRec { cls := 2, code := stFW_NO_IDENTITY }
    let r := s.loadImage 2
    .next (if r.2 then r.1.setStage 3 else s.halt)

/-- Settings that take effect as the management firmware starts (R276, R285, R367, R405, R420, R426). -/
def State.startMgmt (s : State) : State :=
  let s := s.loadRwp
  let s := s.setO kRING_AUTH (bnat ((upto 32).any (fun i => s.blob kRING_KEY i != 0)))
  let split : Tab Nat := (upto 16).foldl (fun t p => tset 0 t p (s.blob kOP_PORT_SPLIT p).toNat) []
  let s := (upto 64).foldl (fun (s : State) l =>
    s.setLink l { s.link l with disabled := s.o (kOP_LINK_ENABLE l) == 0 }) s
  { s with op := { s.op with split := split }
           st := { s.st with sched := s.o kPW_LEVEL_MAX, period := s.o kST_PERIOD_US, waitFrom := s.ns }
           ring := { s.ring with bypass := false }
           mon := { s.mon with baud := s.o kMON_BAUD, next := none, inputAt := s.ns } }

/-- MGMT_READY's effect on a machine whose management complex runs. -/
def State.mgmtReady (s : State) : State := (s.setStage 4).setO kFW_STATE 1

/-- The record of a watchdog that ran out (R463), written once. -/
def State.watchdogRec (s : State) (wdog : Bool) : State :=
  if wdog then s.errRec { cls := 0, code := rcMGMT_WATCHDOG } else s

def State.clearWdog (s : State) : State := { s with boot := { s.boot with wdog := false } }

/-- MGMT_READY (R413, R415, R438): the dictionary, the ring and the monitor come up, and the timebase is WAITING. -/
def execMgmtReady (s : State) : Out :=
  .next (if s.boot.stage ≠ 3 then s else (s.mgmtReady.startMgmt.clearWdog.watchdogRec s.boot.wdog).mailboxRelease)

/-- Load an image from 3 to 5; a missing one is a cause of restricted mode (R437, R449). -/
def State.loadLate (s : State) (i : Nat) : State :=
  let r := s.loadImage i
  if r.2 then r.1 else s.addCause causeIMAGE

/-- The boot record is read out, and register 6 is extended with its digest (R440). -/
def State.sealBoot (s : State) : State :=
  let s := (s.extend 6 (digestOf s.bootRecordBytes)).setStage 5
  { s with boot := { s.boot with bootRecord := s.bootRecordBytes } }

/-- What the levels of the loaded images decide (R448, R449): restricted mode, or the sequence goes on. -/
def State.checkLevels (s : State) : State :=
  let bad := s.badPairs
  let t := (if bad.isEmpty then s else s.addCause causeLEVEL).sealBoot
  if t.o kFW_RESTRICT_CAUSE = 0 then t else t.enterRestricted bad

/-- IMAGES_VERIFIED (R438, R440, R448, R449). -/
def execImagesVerified (s : State) : Out :=
  .next (if s.boot.stage ≠ 4 || s.fatal || s.boot.holding then s
    else (((s.loadLate 3).loadLate 4).loadLate 5).checkLevels)

/-- Rods after the self-test (R19, R31, R32): enabled, or core-fenced with the record of an automatic fence. -/
def State.bootRods (s : State) (fails : List Nat) : State :=
  let s := (upto 576).foldl (fun (s : State) r => s.setRod r { s.rod r with st := .enabled, cache := [] }) s
  fails.foldl (fun (s : State) r =>
    if 576 ≤ r then s
    else
      let s := s.autoFence r 1
      s.setRod r { s.rod r with st := if (s.rod r).st = .fencing then .coreFenced else (s.rod r).st }) s

/-- Fence level that FENCE_MAP gives a rod (R36, R39). -/
def State.mapLevel (s : State) (r : Nat) : Nat :=
  match nbits (s.blob kFENCE_MAP (r / 4)).toNat (2 * (r % 4)) 2 with
  | 3 => 0
  | n => n

/-- Apply FENCE_MAP in rod-number order (R35, R36): an entry that would break R35 leaves its rod ENABLED, and one corrected
record says so. -/
def State.applyMap (s : State) : State :=
  let r := (upto 576).foldl (fun (a : State × Bool) rod =>
    let s := a.1
    let n := s.mapLevel rod
    if n ≤ (s.rod rod).fenceLevel then a
    else if n = 2 && !s.fenceAllowed rod then (s, true)
    else (s.setRod rod { s.rod rod with st := if n = 2 then .fullFenced else .coreFenced, target := n }, a.2)) (s, false)
  if r.2 then r.1.errRec { cls := 1, code := rcFENCE_MAP_CONFLICT } else r.1

/-- Full fences applied at boot need route tables, which firmware computes as for any route epoch (R38). The spec does not say
when these tables load nor whether that counts: the model runs a route epoch after compute-ready, which ROUTE_EPOCH counts
(DESIGN CHOICE, log entry 37). -/
def State.bootEpoch (s : State) : State :=
  let full := (upto 576).filter (fun r => (s.rod r).st == .fullFenced)
  if full.isEmpty then s
  else { s with mesh := { s.mesh with fencing := full, phase := 1, phaseAt := s.cycle } }

/-- COMPUTE_READY (R19, R36, R131, R139, R146, R438, R472). -/
def execComputeReady (selfTestFails pkgFails : List Nat) (s : State) : Out :=
  if s.boot.stage ≠ 5 || s.boot.holding || s.fatal || s.o kFW_STATE ≠ 1 then .next s
  else if !pkgFails.isEmpty then
    let d := s.decks
    let s := { s with decks := { d with pkg := pkgFails.foldl (fun t k => if k < 32 then tset 0 t k 2 else t) d.pkg } }
    .next (s.fatalRec { cls := 4, code := rcDK_PKG_FAILED })
  else
    let s := ((s.bootRods selfTestFails).applyMap).bootEpoch
    let d := (upto 19).foldl Decks.newKey { s.decks with ud := [], udBad := [] }
    let s := ({ s with decks := d }.setO kFW_STATE 2).setStage 6
    let b := s.o kFW_PREFERRED
    let x := s.bank b
    .next (s.setBank b (x.writeRec x.state x.gen 0xFF)).pollAll

/-! Firmware commands. -/

/-- WRITE_IMAGE_END (R451): the slot is written and read back under R435; the bank is VALID if all five slots are usable. -/
def execWriteImageEnd (flashOk : Bool) (s : State) : Out :=
  match s.boot.write with
  | none => .next s
  | some (image, bank, x) =>
    let b := s.bank bank
    let x := { x with bodyOk := x.bodyOk && flashOk }
    let s := { s with boot := { s.boot with write := none } }
    let s := s.setBank bank { b with writing := b.writing.filter (· != image), slots := tset none b.slots image (some x) }
    let ok := s.copyState bank image == imUSABLE
    let all := [1, 2, 3, 4, 5].all (fun i => s.copyState bank i == imUSABLE)
    let x := s.bank bank
    let s := s.setBank bank (x.writeRec (if all then 1 else 0) x.gen x.tries)
    .next (s.fwStatus (if ok then 0 else stFW_FLASH))

/-- ATT_REPORT (R441): a whole report, signed at the read. -/
def execAttReport (path : Path) (s : State) : Out :=
  let s := s.ringBefore path
  if !s.dictUp then .next s
  else match s.readObject path kATT_REPORT 0 1024 false with
  | .error st => .next (s.report path st)
  | .ok (s, bs) => .next ({ s with readData := tset [] s.readData (pathCode path) bs }.report path 0)

end Sys2Proof.Machine
end

