-- ==== Sys2Proof/Machine/Landing.lean ====
section
/-! DEFINITION. DATA messages of other parts: landing over an edge group and the units that take them (R28, R29, R268, R272, R283),
transit (R284), acknowledgements of VC2 writes (R28). -/

namespace Sys2Proof.Machine

open Sys2Proof

/-! Which unit takes a message (R283). -/

/-- Every 64 B of a span of the partition's upper-deck space can be written. -/
def State.udSpanOk (s : State) (p a n : Nat) : Bool :=
  (upto ((n + 63) / 64)).all (fun i => (s.udPhys p (a + 64 * i) (min 64 (n - 64 * i)) true).isSome)

/-- The target address and the bytes of an export message (R272), in the model's layout (DESIGN CHOICE, log entry 51). -/
def exportAddr (data : List Byte) : Nat := leNat (data.take 8)
def exportBytes (data : List Byte) : List Byte := data.drop 8

/-- A unit of this part takes the message (R268, R271, R272, R283): the mirror host from a client that an allotment names, or a
partition from its own mirror host; the carry unit what is for a partition that exists, an export where its target is mapped. -/
def State.accepts (s : State) (hdr : BitVec 256) (data : List Byte) : Bool :=
  let p := mhPart hdr
  let there := decide (p < 16) && s.o (kPT_STATE p) != 0
  match mhKind hdr with
  | 2 => (upto 8).any (fun k => s.allotNames k (mhSrc hdr) p) || (there && (s.mirrorPeer p).1 == mhSrc hdr)
  | 3 => there && decide (8 < data.length) && s.udSpanOk p (exportAddr data) (exportBytes data).length
  | _ => there

/-- Groups of the partition that a FLOW can name (R257, R295): by the low byte of their identifier. -/
def State.flowGroups (s : State) (p flow : Nat) : List Nat :=
  (upto 4).filter (fun g => s.o (kCY_GROUP_ID (4 * p + g)) % 256 == flow / 2 ^ 17 % 256)

/-- Ranks of a group that a node holds. -/
def State.ranksOf (s : State) (p g node : Nat) : List Nat :=
  (upto (s.cySize p g)).filter (fun r => r != s.cyRank p g && s.blobNum (kCY_MEMBERS (4 * p + g)) (16 * r) 8 == node)

/-- A segment unit from its bytes (R250): those of its prefix alone carry no codes (R256). -/
def unitOf (down : Bool) (tag parity epoch sender : Nat) (d : List Byte) : SegUnit :=
  { down := down, tag := tag, parity := parity, epoch := epoch, sender := sender, index := leNat (d.take 4)
    amax := BitVec.ofNat 32 (leNat ((d.drop 4).take 4))
    sbs := ((d.drop 16).take 128).map BitVec.toNat, codes := ((d.drop 144).take 4096).map BitVec.toNat }

/-- The state of an outcome that is always a next state. -/
def nextOf (s : State) (o : Out) : State := match o with | .next t => t | _ => s

/-- A message of a REDUCE (R250, R257, R264): a header, or a unit whose sender is the child of its segment that the source node
holds, or else the parent. Bamen's header names no rank, and a unit carries no epoch: the current one is taken (DEDUCED, log entry
26). -/
def State.takeReduce (s : State) (link p g : Nat) (b : Bucket) (src : Nat) (d : List Byte) : State :=
  if d.length = 64 then nextOf s (execBucketHeader p g { hdr := BitVec.ofNat 512 (leNat d), link := link } s)
  else if d.length ≠ 16 && d.length ≠ 4352 then s.discard p link
  else
    let j := leNat (d.take 4)
    let rs := s.ranksOf p g src
    let unit (down : Bool) (r : Nat) : State :=
      nextOf s (execSegmentUnit p g { unit := unitOf down (bdTag b.desc) (bdStep b.desc % 2) (s.cyEpoch p g) r d, link := link } s)
    match (s.segKids b j).find? (fun r => rs.contains r && !b.landed.any (fun u => u.index == j && u.sender == r)) with
    | some r => unit false r
    | none => match rs.find? (fun r => s.segParent b j == some r) with
      | some r => unit true r
      | none => s.discard p link

/-- Bytes of a chunk that have come from a rank (R266). -/
def Bucket.comingOf (b : Bucket) (r : Nat) : List Byte := tget [] b.coming r

/-- A message of an ALL_TO_ALL or ALL_GATHER (R266, R267): the next bytes of the sender's chunk, then its header. -/
def State.takeChunk (s : State) (link p g : Nat) (b : Bucket) (src : Nat) (d : List Byte) : State :=
  match (s.ranksOf p g src).find? (fun r => !b.chunks.contains r) with
  | some r =>
    let got := b.comingOf r ++ d
    if bdChunk b.desc < got.length then s.discard p link
    else if got.length < bdChunk b.desc then s.setBucket { b with coming := tset [] b.coming r got }
    else
      let s := s.setBucket { b with coming := terase b.coming r }
      nextOf s (execChunkLanded p g (bdTag b.desc) (bdStep b.desc % 2) r (s.cyEpoch p g) { data := got, link := link } s)
  | none =>
    if d.length = 64 then nextOf s (execBucketHeader p g { hdr := BitVec.ofNat 512 (leNat d), link := link } s)
    else s.discard p link

/-- A message under TAG 0xFFFF (R243, R259): a header of the verdict exchange, or a message of the handshake or its result in the
model's layout (DESIGN CHOICE, log entry 26). -/
def State.takeExchange (s : State) (link p g src : Nat) (d : List Byte) : State :=
  let hdr := BitVec.ofNat 512 (leNat d)
  if d.length = 64 then
    if bhDown hdr then nextOf s (execVerdictResult p g hdr link s)
    else nextOf s (execVerdictExchangeUp p g { hdr := hdr, link := link } s)
  else if d.length = 37 then
    match (s.ranksOf p g src).find? (fun r => (s.grpKids p g).contains r) with
    | some r => nextOf s (execHandshakeUp p g r (BitVec.ofNat 256 (leNat (d.take 32))) (leNat ((d.drop 32).take 4))
        (d.getD 36 0 != 0) s)
    | none => s.discard p link
  else if d.length = 5 then nextOf s (execHandshakeResult p g (leNat (d.take 4)) (d.getD 4 0 != 0) s)
  else s.discard p link

/-- The open bucket that a FLOW names (R246, R264, R295). -/
def State.flowBucket (s : State) (p g flow : Nat) : Option Bucket :=
  (s.groupBuckets p g).find? (fun b => bdTag b.desc == flow / 2 % 2 ^ 16 && bdStep b.desc % 2 == flow % 2)

/-- The carry unit takes a message (R250, R257, R264, R266). -/
def State.takeCarry (s : State) (link : Nat) (hdr : BitVec 256) (d : List Byte) : State :=
  let p := mhPart hdr
  let flow := mhFlow hdr
  let src := mhSrc hdr
  let gs := (s.flowGroups p flow).filter (fun g => !(s.ranksOf p g src).isEmpty)
  if flow / 2 % 2 ^ 16 = 0xFFFF then
    match gs with
    | g :: _ => s.takeExchange link p g src d
    | [] => s.discard p link
  else match gs.filterMap (fun g => (s.flowBucket p g flow).map (fun b => (g, b))) with
    | (g, b) :: _ => if bdOp b.desc = 1 then s.takeReduce link p g b src d else s.takeChunk link p g b src d
    | [] => s.discard p link

/-- The carry unit's areas are not free for a message's bucket yet (R38, R131, R145). -/
def State.carryHolds (s : State) (hdr : BitVec 256) : Bool :=
  mhKind hdr == 1 && (s.flowGroups (mhPart hdr) (mhFlow hdr)).any (fun g =>
    match s.flowBucket (mhPart hdr) g (mhFlow hdr) with
    | some b => s.carryWaits b
    | none => false)

/-- The stack whose mirror buffer takes what a port lands (R268): that of the port's die, stack 1 for die 0, which has none (DESIGN
CHOICE, log entry 51). -/
def bufferStack (port : Nat) : Nat := max 1 (rodDie ((edgeRods port).getD 0 0))

/-- The mirror host, or a mirror client, takes a message (R268 to R272): bytes of a copy; a restore request, which is answered with
the latest mirror; an export request, which sends it to its target; bytes of the mirror that a restoring partition has asked for; the
host's word that a copy is committed (R274). The spec does not give the layout of any but the first: in the model's own a request is
one byte, or one byte and the 16 of the target, the first the allotment (DESIGN CHOICE, log entry 51). -/
def State.takeMirror (s : State) (link : Nat) (hdr : BitVec 256) (d : List Byte) : State :=
  let node := mhSrc hdr
  let p := mhPart hdr
  let m := s.mirror p
  let mine := decide (p < 16) && (s.mirrorPeer p).1 == node
  let k := leNat (d.take 1)
  let send (s : State) (f : List Byte → CarryMsg) : State :=
    match (if k < 8 && s.allotNames k node p then s.latestMirror k else none) with
    | some x => x.1.cySend (f x.2)
    | none => s
  if mine && m.restoring then s.setMirror p { m with inbox := m.inbox ++ d }
  else if mine && d.length = 8 then s.setO (kCY_MIRROR_LAST p) (leNat d)
  else if d.length = 1 then send s (fun bs => .mirrorOut node p bs)
  else if d.length = 17 then
    send s (fun bs => .exported (leNat ((d.drop 1).take 8)) (leNat ((d.drop 9).take 1)) (64 * leNat ((d.drop 13).take 4)) bs)
  else match (upto 8).find? (fun k => s.allotNames k node p) with
    | some k => s.copyPiece (bufferStack (link / 4)) k (mhFlow hdr) d
    | none => s.countEvent link ctDISCARD

/-- A message stands in the upper deck: the unit that KIND names takes it (R283). The bytes of an export are already at their
target. -/
def State.takeMessage (s : State) (m : Landing) : State :=
  match mhKind m.hdr with
  | 1 => s.takeCarry m.link m.hdr m.data
  | 2 => s.takeMirror m.link m.hdr m.data
  | _ => s

/-! Landing (R28, R29, R283). -/

/-- The rod at which a message lands that goes to no upper-deck address of its own (R268, R283): the first slice of the destination
partition's table, or the first rod of the die whose stack holds the mirror buffer. The spec gives these messages no upper-deck
address (DESIGN CHOICE, log entry 26). -/
def State.landRod (s : State) (link : Nat) (hdr : BitVec 256) : Nat :=
  if mhKind hdr = 2 then ((upto 576).find? (fun r => rodDie r == bufferStack (link / 4))).getD 0
  else (((s.part (mhPart hdr)).slices.find? (fun q => bit q.2 15)).map (fun q => bits q.2 9 0)).getD 0

/-- Send a landing message's packets of at most 4 KiB, each over the next attached port of its edge group (R24, R28, R29). -/
def State.startLanding (s : State) (link : Nat) (hdr : BitVec 256) (data : List Byte) : State :=
  let p := mhPart hdr
  let export_ := mhKind hdr == 3
  let body := if export_ then exportBytes data else data
  let base := if export_ then exportAddr data else 0
  let n := s.op.nextLand
  let cs := packets4k body.length
  let s := { s with op := { s.op with
    nextLand := n + 1, landing := s.op.landing ++ [{ id := n, link := link, hdr := hdr, data := data, left := cs.length }] } }
  cs.foldl (fun (s : State) c =>
    let x := s.edgeNext (link / 4)
    let rod := if export_ then ((x.1.udPhys p (base + c.1) c.2 true).getD 0) / 2 ^ 29 else x.1.landRod link hdr
    let id := x.1.mesh.nextId
    { x.1 with mesh := { x.1.mesh with nextId := id + 1 } }.outstanding2 id p (x.2.getD ((edgeRods (link / 4)).getD 0 0)) rod
      (base + c.1) c.2 (.edge n) false) s

/-- A landing message is given up: discarded, and counted against its link (R28). -/
def State.dropLanding (s : State) (n : Nat) : State :=
  match s.op.landing.find? (fun m => m.id == n) with
  | none => s
  | some m => { s with op := { s.op with landing := s.op.landing.filter (fun x => x.id != n) } }.countEvent m.link ctDISCARD

/-- Write the bytes of an export's packet at their target (R272); a span that no longer takes them gives the message up. -/
def State.landExport (s : State) (m : Landing) (r : MeshReq) : State :=
  let bs := ((exportBytes m.data).drop (r.addr - exportAddr m.data)).take r.len
  let x := s.udPut (mhPart m.hdr) r.addr bs
  if x.2 = 0 then x.1 else x.1.dropLanding m.id

/-- A packet of a landing message is written and acknowledged; with the last one the unit takes the message (R28, R283). -/
def State.landPacket (s : State) (n : Nat) (r : MeshReq) : State :=
  match s.op.landing.find? (fun m => m.id == n) with
  | none => s.ackDone r.id
  | some m =>
    let s := (if mhKind m.hdr = 3 then s.landExport m r else s).sendAck r.id
    if s.mesh.vc2.any (fun x => x.id == r.id && x.gone) then s
    else
      let s := s.ackDone r.id
      if m.left ≤ 1 then
        { s with op := { s.op with landing := s.op.landing.filter (fun x => x.id != n) } }.takeMessage m
      else { s with op := { s.op with landing := s.op.landing.map (fun x => if x.id = n then { x with left := x.left - 1 } else x) } }

/-- A packet of a landing message waits: for a row copy or a zeroing at its target (R131, R145), or, the last one, for the carry unit's
areas. -/
def State.landWaits (s : State) (n : Nat) (r : MeshReq) : Bool :=
  match s.op.landing.find? (fun m => m.id == n) with
  | none => false
  | some m =>
    (mhKind m.hdr == 3 && s.decks.busy ((s.udPhys (mhPart m.hdr) r.addr r.len true).getD (2 ^ 40)) r.len)
      || (decide (m.left ≤ 1) && s.carryHolds m.hdr)

/-- Take the oldest whole DATA message of a hop class, if it is this one. -/
def State.takeData (s : State) (l hops : Nat) (hdr : BitVec 256) (data : List Byte) : Option (State × Nat) :=
  let x := s.link l
  match x.inbox.find? (fun m => m.cls == hops) with
  | some m =>
    if 1 ≤ hops && m.hdr == hdr && m.data == data then
      some (s.setLink l { x with inbox := x.inbox.eraseP (fun m => m.cls == hops) }, m.flits)
    else none
  | none => none

/-- A message dropped on arrival is counted by its kind of drop and as a discard (R284, R290). -/
def State.dropArrival (s : State) (l c : Nat) : State :=
  let x := s.link l
  (s.setLink l { x with totals := tset 0 x.totals c (satAdd 64 (tget 0 x.totals c) 1) }).countEvent l ctDISCARD

/-- BAMEN_MESSAGE (R28, R268, R283, R284): a DATA message that has come whole lands for its unit over the port's edge group, or is kept
for forwarding, or is dropped and counted. -/
def execBamenMessage (l hops : Nat) (hdr : BitVec 256) (data : List Byte) (s : State) : Out :=
  match s.takeData l hops hdr data with
  | none => .next s
  | some (s, n) =>
    if mhDst hdr = ownNode then
      let s := s.oweCredits l hops n
      .next (if s.accepts hdr data then s.startLanding l hdr data else s.countEvent l ctDISCARD)
    else if hops = 1 then .next ((s.oweCredits l hops n).dropArrival l ctHOPS)
    else if (s.nextHops (mhDst hdr)).isEmpty then .next ((s.oweCredits l hops n).dropArrival l ctNO_ROUTE)
    else
      let k := 8 * (l / 4) + (hops - 1)
      let q := tget [] s.op.transit k
      let m : Transit := { inLink := l, flits := max n (flitsOf data.length), inside := false, hdr := hdr, data := data }
      .next (State.admitTransit k (q.length + 1) { s with op := { s.op with transit := tset [] s.op.transit k (q ++ [m]) } })

/-- The first message of a transit class enters a stage of its way. -/
def State.stageTransit (s : State) (k st : Nat) : State :=
  { s with op := { s.op with transit := tset [] s.op.transit k ((tget [] s.op.transit k).modify 0 (fun m => { m with stage := st })) } }

/-- The first message of a transit class is handed to its link; it leaves the buffer with its last flit (R284). -/
def State.forward (s : State) (k hops : Nat) : State :=
  match tget [] s.op.transit k with
  | [] => s
  | m :: _ => ((s.stageTransit k 2).route1 hops { sent := 0, hdr := m.hdr, data := m.data, via := k + 1 }).1

/-- TRANSIT_SEND (R24, R29, R284): the first message of a transit class goes on with its decreased HOPS once the link of its next hop has
credit and sends nothing else of the class: to another port it crosses the mesh on VC2 first. One whose route has gone is dropped and
counted. -/
def execTransitSend (port hop : Nat) (s : State) : Out :=
  let k := 8 * port + hop
  match tget [] s.op.transit k with
  | [] => .next s
  | m :: _ =>
    if !m.inside || 16 ≤ port || 8 ≤ hop || m.stage ≠ 0 then .next s
    else match s.chooseLink m.hdr with
      | none => .next ((s.popTransit k).dropArrival m.inLink ctNO_ROUTE)
      | some out =>
        if tget 0 (s.link out).credits hop = 0 || !(tget [] (s.link out).queue hop).isEmpty then .next s
        else if out / 4 = port then .next (s.forward k hop)
        else
          .next ((packets4k (32 + m.data.length)).foldl (fun (s : State) c =>
            let a := s.edgeNext port
            let b := a.1.edgeNext (out / 4)
            let id := b.1.mesh.nextId
            { b.1 with mesh := { b.1.mesh with nextId := id + 1 } }.outstanding2 id 16 (a.2.getD ((edgeRods port).getD 0 0))
              (b.2.getD ((edgeRods (out / 4)).getD 0 0)) c.1 c.2 (.transit k) false) (s.stageTransit k 1))

/-- A packet of a message in transit has crossed the mesh; with the last one the message goes to its link. -/
def State.transitPacket (s : State) (k : Nat) (r : MeshReq) : State :=
  let s := s.sendAck r.id
  if s.mesh.vc2.any (fun x => x.id == r.id && x.gone) then s
  else
    let s := s.ackDone r.id
    if s.mesh.vc2.any (fun x => x.writer == Writer.transit k) then s else s.forward k (k % 8)

/-- A packet of a message in transit is lost: the message is given up, and counted as a landing one would be (DEDUCED from R28, log
entry 26). -/
def State.dropTransit (s : State) (k : Nat) : State :=
  match tget [] s.op.transit k with
  | m :: _ =>
    if m.stage = 1 then
      ({ s with mesh := { s.mesh with vc2 := s.mesh.vc2.filter (fun x => x.writer != Writer.transit k) } }.popTransit k).countEvent
        m.inLink ctDISCARD
    else s
  | [] => s

/-- VC2_ACKNOWLEDGEMENT (R28): the destination has written the packet's data, and its acknowledgement reaches the writer. A
stager's packet is moved now, and the stager sends its next; a packet of an optical message stands where it goes; while the rows are
being copied both wait (R145). A packet that the mesh holds or has lost is not acknowledged (R33, R38). -/
def execVc2Acknowledgement (id : Nat) (s : State) : Out := polled <|
  match s.mesh.vc2.find? (fun r => r.id == id) with
  | none => .next s
  | some r =>
    if r.held || r.gone then .next s
    else match r.writer with
      | .stager p e row off len =>
        if s.unitBusy p e row off len then .next s
        else
          let s := (s.landStage p e row off len).sendAck id
          .next (if s.mesh.vc2.any (fun r => r.id == id && r.gone) then s else (s.ackDone id).pumpStages)
      | .edge n => .next (if s.landWaits n r then s else s.landPacket n r)
      | .transit k => .next (s.transitPacket k r)
      | _ => if r.written then .next (s.ackDone id) else .next s

end Sys2Proof.Machine
end

