-- ==== Sys2Proof/Machine/Resets.lean ====
section
/-! DEFINITION. The reset commands (R468 to R471), and the losses and fences that end in records (R28, R38, R146). -/

namespace Sys2Proof.Machine

open Sys2Proof

/-- DEVICE_RESET_HOLD_END (R469): after 10 ms the sequence of R438 runs from its time 0. -/
def execDeviceResetHoldEnd (s : State) : Out :=
  .next (if s.boot.holding && s.boot.at_ + 10000000 ≤ s.ns then s.startBoot else s)

/-- The numerics objects of a partition at their defaults (R195). -/
def State.clearNum (s : State) (p : Nat) : State :=
  ((upto 18).map (· + 2)).foldl (fun (s : State) sub => s.clearO ((0x4840 + p) * 256 + sub)) (s.setNum p {})

/-- PARTITION_RESET_KEYS (R471): a new key; system area, slots and stage fences at reset values; numerics IDLE; masks and
tables zero. -/
def execPartitionResetKeys (p : Nat) (s : State) : Out :=
  if 16 ≤ p || s.fatal || s.o (kPT_STATE p) ≠ 4 || (s.part p).reset ≠ 1 then .next s
  else
    let s := { s with decks := s.decks.newKey p }.clearNum p
    let x := s.part p
    let s := s.setPart p { x with slots := [], slotLog := [], stageQ := [], fences := [], fenceSt := [], reset := 2, zeroAt := s.ns }
    let s := (s.partRods p).foldl (fun (s : State) r => s.setRod r { s.rod r with masks := [], luts := [] }) s
    .next (s.startZero (maskFrames (s.frames p ||| (s.part p).removing.toNat)))

/-- PARTITION_RESET_END (R470, R471): caches and slices are zero, a removal completes, and the partition is ACTIVE. -/
def execPartitionResetEnd (p : Nat) (s : State) : Out :=
  if 16 ≤ p || s.fatal || s.o (kPT_STATE p) ≠ 4 || (s.part p).reset ≠ 2 then .next s
  else
    let gone := maskFrames (s.part p).removing.toNat
    let s := ((s.endZero (s.partFrames p)).endZero gone).ownFrames gone 0xFF
    let s := s.setPart p { s.part p with reset := 0, quiesce := 0, removing := 0 }
    let m := s.o kERR_FATAL_PARTS
    let s := s.setO kERR_FATAL_PARTS (if m.testBit p then m - 2 ^ p else m)
    let s := (upto 8).foldl (fun (s : State) c => s.setCtx p c { s.ctx p c with vtime := {} }) s
    .next (s.setO (kPT_STATE p) 2).pollAll

/-- MGMT_WATCHDOG (R463, R469): a cold reset. -/
def execMgmtWatchdog (s : State) : Out :=
  .next (if 3 ≤ s.boot.stage then
      let s := s.lost 4 false
      { s with boot := { s.boot with wdog := true } }
    else s)

/-! Losses (R28, R146). -/

/-- What the loss of a packet means to its writer (R28). -/
def State.packetLost (s : State) (r : MeshReq) : State :=
  match r.writer with
  | .stager p id _ _ _ => (s.failStage p id stMESH_LOST).pumpStages
  | .tally n seq _ => (s.failIssuer r stMESH_LOST).publishVoid n seq
  | .carry id =>
    match s.cy.buckets.find? (fun b => b.id == id) with
    | some b => s.loseBucket b (s.o (kCY_GROUP_RANK (4 * b.part + b.g)))
    | none => s
  | .edge n => s.dropLanding n
  | .transit k => s.dropTransit k
  | .mover _ _ => s.failRequest r stMESH_LOST
  | .fetch _ => s.failIssuer r stMESH_LOST

/-- VC2_ACK_TIMEOUT (R28). -/
def execVc2AckTimeout (id : Nat) (s : State) : Out := polled <|
  match s.mesh.vc2.find? (fun r => r.id == id) with
  | none => .next s
  | some r =>
    if s.cycle < r.issued + meshTimeout || r.held then .next s
    else
      let s := { s with mesh := { s.mesh with vc2 := s.mesh.vc2.filter (fun x => x.id != id) } }
      .next ((s.errRec (lostRec r)).packetLost r)

/-- LD_PACKAGE_FAIL (R146): a package that stops responding, or fails for the seventeenth time within 1,000 strokes. -/
def execLdPackageFail (pkg : Nat) (stopped : Bool) (s : State) : Out :=
  let d := s.decks
  if 32 ≤ pkg || s.boot.stage ≠ 6 || tget 0 d.pkg pkg ≠ 0 then .next s
  else
    let es := recent s.stroke 1000 (tget [] d.pkgErrs pkg) ++ [s.stroke]
    if !stopped && es.length ≤ 16 then .next { s with decks := { d with pkgErrs := tset [] d.pkgErrs pkg es } }
    else
      let s := { s with decks := { d with pkgErrs := tset [] d.pkgErrs pkg es, pkg := tset 0 d.pkg pkg 1 } }
      .next (s.fatalRec { cls := 4, code := rcDK_PKG_FAILED })

/-! Route epochs (R38, R129). -/

/-- A fully fenced rod's slice leaves every table that holds it, and its contents are lost (R129). -/
def State.loseSlice (s : State) (rod : Nat) : State :=
  let s := if s.inTables (rod * 2 ^ 29) sliceBytes then s.svLost else s
  let cut (e : BitVec 16) : BitVec 16 := if bit e 15 && bits e 9 0 = rod then e &&& 0x7FFF else e
  let s := (upto 16).foldl (fun (s : State) p =>
    let x := s.part p
    (s.setPart p { x with slices := x.slices.foldl (fun t q => tset 0 t q.1 (cut q.2)) [] }).cutStages p) s
  { s with decks := s.decks.zeroSlice rod }

/-- ROUTE_EPOCH_END (R38): tables are loaded, the rods are FULL_FENCED, and the epoch number increments. -/
def execRouteEpochEnd (s : State) : Out := polled <|
  let m := s.mesh
  if m.phase ≠ 3 then .next s
  else
    let tables := m.newTables.foldl (fun (t : Tab Nat) q => tset 0 t q.1 q.2) []
    let left := m.fencing.filter (fun r => !m.epochRods.contains r)
    let s := { s with mesh := { m with tables := tables, newTables := [], fencing := left, epochRods := [], order := []
                                       phase := if left.isEmpty then 0 else 1, phaseAt := s.cycle } }
    let s := m.epochRods.foldl (fun (s : State) r => (s.setRod r { s.rod r with st := .fullFenced }).loseSlice r) s
    .next (s.releaseHeld.setO kROUTE_EPOCH ((s.o kROUTE_EPOCH + 1) % 2 ^ 32))

end Sys2Proof.Machine
end

