-- ==== Sys2Proof/Machine/Control.lean ====
section
/-! DEFINITION. The commands that software gives by writing a control object of the dictionary, each in its turn among the accesses of
every path (R404, R410, R411). -/

namespace Sys2Proof.Machine

open Sys2Proof

/-! Rods and fences. -/

/-- FENCE_REQUEST (R34, R35). -/
def execFenceRequest (path : Path) (value : BitVec 32) (s : State) : Out :=
  .next (s.access path (fun s => s.fenceRequest value))

/-! Tally. -/

/-- FORM (R155). -/
def execForm (path : Path) (n : Nat) (s : State) : Out :=
  .next (if n < 8 then s.access path (fun s => s.tyForm n) else s)

/-- CLOSE (R155, R156). -/
def execClose (path : Path) (n : Nat) (s : State) : Out := polled <|
  .next (if n < 8 then s.access path (fun s => s.tyClose n) else s)

/-- ATTACH (R180). -/
def execAttach (path : Path) (n part : Nat) (s : State) : Out :=
  .next (if n < 8 then s.access path (fun s => s.tyAttach n part) else s)

/-- DETACH (R180). -/
def execDetach (path : Path) (n part : Nat) (s : State) : Out := polled <|
  .next (if n < 8 then s.access path (fun s => s.tyDetach n part) else s)

/-- REBALANCE toward a student (R183). -/
def execRebalanceToStudent (path : Path) (n frame part : Nat) (s : State) : Out :=
  .next (if n < 8 then s.access path (fun s => s.tyRebal n true frame part) else s)

/-- REBALANCE toward the teacher (R183). -/
def execRebalanceToTeacher (path : Path) (n frame part : Nat) (s : State) : Out :=
  .next (if n < 8 then s.access path (fun s => s.tyRebal n false frame part) else s)

/-- TY_HV_ENABLE (R192). -/
def execTyHvEnable (path : Path) (part value : Nat) (s : State) : Out :=
  .next (if part < 16 then s.access path (fun s => s.hvEnable path part value) else s)

/-! Numerics. -/

/-- START_RUN (R195). -/
def execStartRun (path : Path) (part : Nat) (s : State) : Out := polled <|
  .next (if part < 16 then s.access path (fun s => s.startRun part) else s)

/-- END_RUN (R195). -/
def execEndRun (path : Path) (part : Nat) (s : State) : Out := polled <|
  .next (if part < 16 then s.access path (fun s => s.endRunNum part) else s)

/-! Reckoner. -/

/-- RK_GROUPS_WRITE (R226). -/
def execRkGroupsWrite (path : Path) (part k : Nat) (entry : BitVec 512) (s : State) : Out :=
  .next (if part < 16 && k < 256 then s.access path (fun s => s.groupsWrite path part k entry) else s)

/-! Carry groups and mirrors. -/

/-- GROUP_FORM (R243). -/
def execGroupForm (path : Path) (part g : Nat) (s : State) : Out :=
  .next (if grpOk part g then s.access path (fun s => s.formGroup part g) else s)

/-- GROUP_LEAVE (R243). -/
def execGroupLeave (path : Path) (part g : Nat) (s : State) : Out := polled <|
  .next (if grpOk part g then s.access path (fun s => s.leaveGroup part g) else s)

/-- MIRROR_ENABLE (R269). -/
def execMirrorEnable (path : Path) (part : Nat) (s : State) : Out :=
  .next (if part < 16 then s.access path (fun s => s.mirrorOn part true) else s)

/-- MIRROR_DISABLE (R269). -/
def execMirrorDisable (path : Path) (part : Nat) (s : State) : Out :=
  .next (if part < 16 then s.access path (fun s => s.mirrorOn part false) else s)

/-- MIRROR_RESTORE (R271). -/
def execMirrorRestore (path : Path) (part : Nat) (s : State) : Out :=
  .next (if part < 16 then s.access path (fun s => s.mirrorAsk part) else s)

/-- MIRROR_EXPORT (R272). -/
def execMirrorExport (path : Path) (part : Nat) (s : State) : Out :=
  .next (if part < 16 then s.access path (fun s => s.mirrorSendAway part) else s)

/-! Optical links. -/

/-- LINK_ENABLE (R293, R455). -/
def execLinkEnable (path : Path) (l : Nat) (s : State) : Out :=
  .next (if l < 64 then s.access path (fun s => s.linkEnable l) else s)

/-- LINK_DISABLE (R293, R457). -/
def execLinkDisable (path : Path) (l : Nat) (s : State) : Out :=
  .next (if l < 64 then s.access path (fun s => s.linkDisable l) else s)

/-- LINK_RETRAIN (R293). -/
def execLinkRetrain (path : Path) (l : Nat) (s : State) : Out :=
  .next (if l < 64 then s.access path (fun s => s.linkRetrain l) else s)

/-- LINK_RELEASE (R292, R293). -/
def execLinkRelease (path : Path) (l : Nat) (s : State) : Out :=
  .next (if l < 64 then s.access path (fun s => s.linkRelease l) else s)

/-! Partitions and contexts. -/

/-- PT_CREATE (R337). -/
def execPtCreate (path : Path) (p : Nat) (s : State) : Out :=
  .next (if p < 16 then s.access path (fun s => s.ptCreate p) else s)

/-- PT_ADD (R474). -/
def execPtAdd (path : Path) (p : Nat) (s : State) : Out :=
  .next (if p < 16 then s.access path (fun s => s.ptAdd p) else s)

/-- PT_REMOVE (R338). -/
def execPtRemove (path : Path) (p : Nat) (s : State) : Out :=
  .next (if p < 16 then s.access path (fun s => s.ptRemove p) else s)

/-- PT_DESTROY (R338). -/
def execPtDestroy (path : Path) (p : Nat) (s : State) : Out :=
  .next (if p < 16 then s.access path (fun s => s.ptDestroy p) else s)

/-- CTX_ENABLE (R343). -/
def execCtxEnable (path : Path) (p c : Nat) (s : State) : Out :=
  .next (if p < 16 && c < 8 then s.access path (fun s => s.ctxEnable p c) else s)

/-- CTX_DISABLE (R343). -/
def execCtxDisable (path : Path) (p c : Nat) (s : State) : Out :=
  .next (if p < 16 && c < 8 then s.access path (fun s => s.ctxDisable p c) else s)

/-- CTX_YIELD (R343). -/
def execCtxYield (path : Path) (p c : Nat) (s : State) : Out :=
  .next (if p < 16 && c < 8 then s.access path (fun s => s.ctxYield p c) else s)

/-- CTX_EVICT (R343). -/
def execCtxEvict (path : Path) (p c : Nat) (s : State) : Out :=
  .next (if p < 16 && c < 8 then s.access path (fun s => s.ctxEvict p c) else s)

/-! Serving. -/

/-- SV_START (R300). -/
def execSvStart (path : Path) (s : State) : Out := .next (s.access path State.svStart)

/-- SV_STOP (R302). -/
def execSvStop (path : Path) (s : State) : Out := .next (s.access path State.svStop)

/-- SV_DRAIN (R302). -/
def execSvDrain (path : Path) (s : State) : Out := .next (s.access path State.svDrain)

/-- RING_CHANGE (R325). -/
def execRingChange (path : Path) (c : Nat) (base entries : Option Nat) (s : State) : Out :=
  .next (if c < 24 then s.access path (fun s => s.ringChange path c base entries) else s)

/-! Window. -/

/-- CQ_WIN_EXTENTS (R397). The row stands for both registers by which host software sets up the window; the decoder is reached
through the physical function's configuration space alone. -/
def execCqWinExtents (path : Path) (win : WinSetup) (s : State) : Out :=
  match win with
  | .extents n =>
    .next (s.access path (fun s =>
      let r := s.winExtents n
      (r.1, if r.2 = stMB_PARAM then invalidParam path else r.2)))
  | .decoder base commit => .next (if s.fnUp 0 then s.setDecoder base commit else s)

/-! Resets. -/

/-- COLD_RESET (R469). -/
def execColdReset (path : Path) (s : State) : Out := .next (s.access path State.coldReset)

/-- DEVICE_RESET (R469). -/
def execDeviceReset (path : Path) (s : State) : Out := .next (s.access path State.deviceReset)

/-- PARTITION_RESET (R470, R471). -/
def execPartitionReset (path : Path) (p : Nat) (s : State) : Out := .next (s.access path (fun s => s.partReset path p))

/-- FUNCTION_RESET (R400, R469). -/
def execFunctionReset (path : Path) (fn : Nat) (s : State) : Out := .next (s.access path (fun s => s.funcReset path fn))

/-- PORT_RESET (R276, R469). -/
def execPortReset (path : Path) (port : Nat) (s : State) : Out := .next (s.access path (fun s => s.portReset path port))

/-! Firmware. -/

/-- WRITE_IMAGE (R451). -/
def execWriteImage (path : Path) (image bank : Nat) (s : State) : Out :=
  .next (s.access path (fun s => s.writeImage path image bank))

/-- SELECT_BANK (R452). -/
def execSelectBank (path : Path) (bank : Nat) (s : State) : Out :=
  .next (s.access path (fun s => s.selectBank path bank))

/-- COMMIT_SVN (R453). -/
def execCommitSvn (path : Path) (s : State) : Out := .next (s.access path State.commitSvn)

end Sys2Proof.Machine
end

