-- ==== Sys2Proof/Machine/Monitor.lean ====
section
/-! DEFINITION. The Thihiso monitor (R426 to R430): its commands, and the characters of its line. A row of the table brings a whole line,
already read; the row LOGIN brings characters too (log entry 183). -/

namespace Sys2Proof.Machine

open Sys2Proof

/-- Answer a command: its lines, then the prompt (R426, R428). -/
def State.say (s : State) (l : List MonLine) : State :=
  { s with mon := s.mon.send s.ns (l ++ [.prompt s.mon.level]) }

/-! Commands (R427, R428). -/

/-- Commands that HELP lists (R428). -/
def monCommands : List String :=
  ["HELP", "INFO", "LOGIN", "LOGOUT", "CHALLENGE", "VENDOR", "READ", "WRITE", "LOG", "WATCH ON", "WATCH OFF", "RESET"]

/-- HELP. -/
def State.monHelp (s : State) : State := s.say (.ok :: monCommands.map .command)

/-- A whole object as a monitor line. -/
def State.monField (s : State) (q : String × Nat) : MonLine :=
  match dirFind q.2 with
  | some r => .field q.1 r.ty ((upto r.size).map (fun i => s.objByte r q.2 i))
  | none => .err stMB_PARAM

/-- What INFO prints (R428). -/
def infoObjects : List (String × Nat) :=
  [("PART_NUMBER", kPART_NUMBER), ("SERIAL", kSERIAL), ("STEPPING", kSTEPPING), ("OP_NODE_ID", kOP_NODE_ID), ("ST_STATE", kST_STATE),
   ("PW_LEVEL", kPW_LEVEL), ("PW_TJ", kPW_TJ)]

/-- INFO. -/
def State.monInfo (s : State) : State :=
  s.say (.ok :: infoObjects.map s.monField
    ++ [.field "RESTRICTED" 7 (leBytes 1 (bnat s.restricted)), .field "LEVEL" 1 (leBytes 1 s.mon.level)])

def State.setLevel (s : State) (l : Nat) : State := { s with mon := { s.mon with level := l } }

/-- A failed LOGIN or VENDOR (R430). -/
def State.monFail (s : State) : State := s.addO 32 kMON_FAILS 1

/-- LOGIN (R427). -/
def State.monLogin (s : State) (phrase : List Byte) : State :=
  let hash := (upto 32).map (fun i => s.blob kMON_PASS_HASH i)
  let m := s.mon
  if m.lockAt ≠ 0 then s.say [.locked]
  else if phrase.length < 8 || 64 < phrase.length then s.say [.err stMB_PARAM]
  else if hash.any (· != 0) && sha256 phrase == hash then
    { s with mon := { m with fails := 0, level := max 1 m.level } }.say [.ok]
  else
    let n := m.fails + 1
    ({ s with mon := { m with fails := n, lockAt := if 5 ≤ n then s.ns + 1 else 0 } }.monFail).say [.err stMB_DENIED]

/-- LOGOUT (R427). -/
def State.monLogout (s : State) : State := (s.setLevel 0).say [.ok]

/-- Value of the nonce drawn as number `k`. -/
def nonceValue (k : Nat) : BitVec 256 := Config.freeKey k

/-- CHALLENGE (R427): a fresh nonce. -/
def State.monChallenge (s : State) : State :=
  let k := s.draws
  let s := { s with draws := k + 1, mon := { s.mon with nonce := some (k, s.ns) } }
  s.say [.ok, .nonce (nonceValue k)]

/-- A hex digit, in either case. -/
def hexValue (c : Byte) : Option Nat :=
  let n := c.toNat
  if 48 ≤ n && n < 58 then some (n - 48)
  else if 65 ≤ n && n < 71 then some (n - 55)
  else if 97 ≤ n && n < 103 then some (n - 87)
  else none

/-- Characters as hex bytes, two digits each. -/
def hexBytes : List Byte → Option (List Byte)
  | [] => some []
  | [_] => none
  | a :: b :: t =>
    match hexValue a, hexValue b, hexBytes t with
    | some x, some y, some m => some (BitVec.ofNat 8 (16 * x + y) :: m)
    | _, _, _ => none

/-- The signature that the 16 lines of VENDOR form, none if one is not 48 hex digits (R427). -/
def vendorSignature (lines : List (List Byte)) : Option (List Byte) :=
  if lines.length = 16 && lines.all (fun l => l.length == 48) then hexBytes lines.flatten else none

/-- What the vendor signature covers: the nonce, then OP_NODE_ID (R427). -/
def vendorSigned (k : Nat) : List Byte := leBytes 32 (nonceValue k).toNat ++ leBytes 8 ownNode

/-- VENDOR given at time `at_` with its lines (R427, R432, R446): one attempt for each nonce, within 60 s; success extends register 7 with
the nonce's digest. -/
def State.monVendor (s : State) (at_ : Nat) (lines : List (List Byte)) : State :=
  let m := s.mon
  let s := { s with mon := { m with nonce := none, vend := none } }
  match vendorSignature lines with
  | none => s.monFail.say [.err stMB_PARAM]
  | some sig =>
    match m.nonce with
    | some (k, t) =>
      if at_ ≤ t + 60000000000 && Config.pssVerify Config.vendorKey (vendorSigned k) sig then
        let s := { s with boot := { s.boot with debug := true } }
        ((s.extend 7 (digestOf (leBytes 32 (nonceValue k).toNat))).setLevel 2).say [.ok]
      else s.monFail.say [.err stMB_DENIED]
    | none => s.monFail.say [.err stMB_DENIED]

/-- READ (R428): up to 64 bytes, in its turn (R411). -/
def State.monRead (s : State) (idx sub off len : Nat) : State :=
  if 65536 ≤ idx || 256 ≤ sub || 64 < len then s.say [.err stMB_PARAM]
  else
    let key := idx * 256 + sub
    let s := s.ringBefore .monitor
    if !s.dictUp then s
    else match s.readObject .monitor key off len false with
    | .error st => (s.report .monitor st).say [.err st]
    | .ok (s, bs) =>
      let ty := match dirFind key with | some r => r.ty | none => 0
      ({ s with readData := tset [] s.readData (pathCode .monitor) bs }.report .monitor 0).say [.ok, .value ty bs]

/-- The lines that answer a WRITE: a written baud rate takes effect once the OK line has been sent, before the prompt (R426). -/
def State.sayWritten (s : State) (key st : Nat) : State :=
  if st = 0 && key = kMON_BAUD then
    let m := s.mon.send s.ns [.ok]
    let m := { m with baud := m.rate s.ns, next := some (s.o kMON_BAUD, m.outEnd) }
    { s with mon := m.send s.ns [.prompt m.level] }
  else s.say [if st = 0 then .ok else .err st]

/-- WRITE (R428): operator level, in its turn (R411). -/
def State.monWrite (s : State) (idx sub off : Nat) (data : List Byte) : State :=
  if s.mon.level = 0 then s.say [.err stMB_DENIED]
  else if 65536 ≤ idx || 256 ≤ sub || 64 < data.length then s.say [.err stMB_PARAM]
  else
    let s := s.ringBefore .monitor
    if !s.dictUp then s
    else
      let r := s.writeObject .monitor (idx * 256 + sub) off data
      if !r.1.dictUp then r.1 else (r.1.report .monitor r.2).sayWritten (idx * 256 + sub) r.2

/-- LOG (R428): at most 16 records. -/
def State.monLog (s : State) (n : Nat) : State :=
  if n = 0 || 16 < n then s.say [.err stMB_PARAM]
  else s.say (.ok :: (s.errs.newest n).map (fun r => .record (leBytes 64 r.toBits.toNat)))

/-- WATCH (R428). -/
def State.monWatch (s : State) (on_ : Bool) : State := { s with mon := { s.mon with watch := on_ } }.say [.ok]

/-- RESET (R428, R468): operator level, in its turn (R411). -/
def State.monReset (s : State) (kind inst : Nat) : State :=
  if s.mon.level = 0 then s.say [.err stMB_DENIED]
  else if 16 ≤ kind || 65536 ≤ inst then s.say [.err stMB_PARAM]
  else
    let s := s.ringBefore .monitor
    if !s.dictUp then s
    else
      let r := s.resetControl .monitor (kind + 256 * inst)
      if r.2 ≠ 0 then (s.report .monitor r.2).say [.err r.2]
      else if !r.1.dictUp then r.1
      else (r.1.report .monitor 0).say [.ok]

/-! Reading a line (R428): words between spaces, case ignored, numbers in decimal or 0x hex. -/

/-- A lower-case letter as its capital. -/
def upChar (c : Byte) : Byte := if 97 ≤ c.toNat && c.toNat ≤ 122 then c - 32 else c

/-- The words of a line. -/
def monWords (line : List Byte) : List (List Byte) :=
  let r := line.foldl (fun (a : List (List Byte) × List Byte) c =>
    if c = 0x20 then (if a.2.isEmpty then a else (a.1 ++ [a.2], [])) else (a.1, a.2 ++ [c])) ([], [])
  if r.2.isEmpty then r.1 else r.1 ++ [r.2]

/-- Digits as a number in a base. -/
def digitsValue (base : Nat) (w : List Byte) : Option Nat :=
  if w.isEmpty then none
  else w.foldl (fun a c => match a, hexValue c with
    | some n, some d => if d < base then some (base * n + d) else none
    | _, _ => none) (some 0)

/-- A number in decimal or 0x hex. -/
def numValue (w : List Byte) : Option Nat :=
  if (w.take 2).map upChar == asciiBytes "0X" then digitsValue 16 (w.drop 2) else digitsValue 10 w

/-- The object that i:s names, in hexadecimal as R15 writes it, with or without 0x. -/
def objValue (w : List Byte) : Option (Nat × Nat) :=
  let w := if (w.take 2).map upChar == asciiBytes "0X" then w.drop 2 else w
  let i := w.takeWhile (· != 0x3A)
  let t := w.drop (i.length + 1)
  if i.length = 4 && t.length = 2 then
    match digitsValue 16 i, digitsValue 16 t with
    | some a, some b => some (a, b)
    | _, _ => none
  else none

/-- A decimal fraction, with or without a sign and an exponent, as an F32. -/
def fractionValue (w : List Byte) : Option F32 :=
  let neg := w.head? == some 0x2D
  let w := (if neg then w.drop 1 else w).map upChar
  let m := w.takeWhile (· != 0x45)
  let e := w.drop (m.length + 1)
  let eneg := e.head? == some 0x2D
  let e := if eneg || e.head? == some 0x2B then e.drop 1 else e
  let a := m.takeWhile (· != 0x2E)
  let b := m.drop (a.length + 1)
  match digitsValue 10 (a ++ b), (if m.length = w.length then some 0 else digitsValue 10 e) with
  | some n, some k =>
    if 60 < k then none
    else some (if eneg then f32ofRat neg n (10 ^ (b.length + k)) else f32ofRat neg (n * 10 ^ k) (10 ^ b.length))
  | _, _ => none

/-- The bytes that a number stands for in an object of a type and size; none if it does not fit. -/
def numberBytes (ty size : Nat) (w : List Byte) : Option (List Byte) :=
  let fit (n : Option Nat) : Option (List Byte) := n.bind (fun v => if v < 256 ^ size then some (leBytes size v) else none)
  if ty = 5 && w.head? == some 0x2D then
    (digitsValue 10 (w.drop 1)).bind (fun v => if v ≤ 2 ^ 31 then some (leBytes size (2 ^ 32 - v)) else none)
  else if ty = 6 && (w.take 2).map upChar != asciiBytes "0X" then (fractionValue w).map (fun x => leBytes size x.toNat)
  else fit (numValue w)

/-- A quoted text to the end of a line. -/
def quotedValue (line : List Byte) : Option (List Byte) :=
  let q := (line.dropWhile (· != 0x22)).reverse.dropWhile (· == 0x20)
  match q with
  | c :: t => if c = 0x22 && t.getLast? == some 0x22 then some t.dropLast.reverse else none
  | [] => none

/-- Words as hex bytes, two digits each. -/
def byteWords (ws : List (List Byte)) : Option (List Byte) :=
  if ws.isEmpty || ws.any (fun w => w.length != 2) then none else hexBytes ws.flatten

/-- Offset and bytes of a WRITE, from the words after i:s and the whole line: a first word of a BLOB's value that is not two characters
long is its offset (DESIGN CHOICE, log entry 183). -/
def writeValue (r : DirRow) (ws : List (List Byte)) (line : List Byte) : Option (Nat × List Byte) :=
  if r.ty = 8 then
    let before := ws.takeWhile (fun w => w.head? != some 0x22)
    match before, quotedValue line with
    | [], some m => some (0, m)
    | [o], some m => (numValue o).map (fun n => (n, m))
    | _, _ => none
  else if r.ty = 9 then
    match ws with
    | w :: t => if w.length = 2 then (byteWords ws).map (fun m => (0, m))
        else match numValue w, byteWords t with
          | some o, some m => some (o, m)
          | _, _ => none
    | [] => none
  else match ws with
    | [v] => (numberBytes r.ty r.size v).map (fun m => (0, m))
    | [o, v] => match numValue o, numberBytes r.ty r.size v with
      | some n, some m => some (n, m)
      | _, _ => none
    | _ => none

/-- A line of the monitor, read. -/
inductive MonCmd where
  | help
  | info
  | login (phrase : List Byte)
  | logout
  | challenge
  | vendor
  | read (idx sub off len : Nat)
  | write (idx sub off : Nat) (data : List Byte)
  | log (n : Nat)
  | watch (on_ : Bool)
  | reset (kind inst : Nat)
  deriving DecidableEq, Repr

/-- Reset kinds by name (R468). -/
def resetKinds : List (String × Nat) := [("COLD", 1), ("DEVICE", 2), ("PARTITION", 3), ("FUNCTION", 4), ("PORT", 5)]

/-- READ's arguments: the whole object, or its first 64 bytes, without off and len. -/
def readArgs (ws : List (List Byte)) : Option MonCmd :=
  match ws with
  | w :: t =>
    match objValue w with
    | none => none
    | some (i, b) =>
      match t with
      | [] =>
        let n := match dirFind (i * 256 + b) with | some r => min 64 r.size | none => 1
        some (.read i b 0 n)
      | [o, l] => match numValue o, numValue l with
        | some o, some l => some (.read i b o l)
        | _, _ => none
      | _ => none
  | [] => none

/-- WRITE's arguments; an unknown object is left to the access itself. -/
def writeArgs (ws all : List (List Byte)) (text : List Byte) : Option MonCmd :=
  match ws with
  | w :: t =>
    match objValue w with
    | none => none
    | some (i, b) =>
      match dirFind (i * 256 + b) with
      | none => if all.length < 3 then none else some (.write i b 0 [])
      | some r => (writeValue r t text).map (fun q => .write i b q.1 q.2)
  | [] => none

/-- RESET's arguments. -/
def resetArgs (ws : List (List Byte)) : Option MonCmd :=
  match ws with
  | w :: t =>
    match resetKinds.find? (fun k => asciiBytes k.1 == w.map upChar) with
    | none => none
    | some k =>
      match t with
      | [] => some (.reset k.2 0)
      | [n] => (numValue n).map (fun v => .reset k.2 v)
      | _ => none
  | [] => none

/-- The command that a line holds, none if it is unknown or an argument is malformed (R428). -/
def monParse (line : List Byte) : Option MonCmd :=
  let ws := monWords line
  let t := ws.drop 1
  let word (c : String) : Bool := (ws.headD []).map upChar == asciiBytes c
  let bare (c : MonCmd) : Option MonCmd := if t.isEmpty then some c else none
  if word "HELP" then bare .help
  else if word "INFO" then bare .info
  else if word "LOGIN" then some (.login ((line.dropWhile (· == 0x20)).drop 6))
  else if word "LOGOUT" then bare .logout
  else if word "CHALLENGE" then bare .challenge
  else if word "VENDOR" then bare .vendor
  else if word "READ" then readArgs t
  else if word "WRITE" then writeArgs t ws line
  else if word "LOG" then
    match t with
    | [n] => (numValue n).map .log
    | _ => none
  else if word "WATCH" then
    match t with
    | [w] => if w.map upChar == asciiBytes "ON" then some (.watch true)
        else if w.map upChar == asciiBytes "OFF" then some (.watch false) else none
    | _ => none
  else if word "RESET" then resetArgs t
  else none

/-- Carry out a command (R427, R428); VENDOR is followed by its lines. -/
def State.monDo (s : State) : MonCmd → State
  | .help => s.monHelp
  | .info => s.monInfo
  | .login p => s.monLogin p
  | .logout => s.monLogout
  | .challenge => s.monChallenge
  | .vendor => { s with mon := { s.mon with vend := some (s.ns, []) } }
  | .read i b o n => s.monRead i b o n
  | .write i b o m => s.monWrite i b o m
  | .log n => s.monLog n
  | .watch w => s.monWatch w
  | .reset k n => s.monReset k n

/-- A whole line has been received (R427, R428): a line of VENDOR's signature, or a command. -/
def State.monLine (s : State) (line : List Byte) : State :=
  match s.mon.vend with
  | some (t, ls) =>
    if ls.length = 15 then s.monVendor t (ls ++ [line]) else { s with mon := { s.mon with vend := some (t, ls ++ [line]) } }
  | none =>
    if 255 < line.length then s.say [.err stMB_PARAM]
    else match monParse line with
    | some c => s.monDo c
    | none => s.say [.err stMB_PARAM]

/-- Size of the input buffer (R429). -/
def monInputSize : Nat := 1024

/-- A character arrives (R426, R429): CR, LF or CR LF ends the line; one that finds the buffer full is discarded, and the line is answered
with ERR OVERRUN. -/
def State.monChar (s : State) (c : Byte) : State :=
  let m := s.mon
  if !s.dictUp then s
  else if c = 0x0A && m.afterCr then { s with mon := { m with afterCr := false } }
  else if c = 0x0D || c = 0x0A then
    let s' := { s with mon := { m with input := [], overrun := false, afterCr := c == 0x0D } }
    if m.overrun then s'.say [.overrun] else s'.monLine m.input
  else if monInputSize ≤ m.input.length then { s with mon := { m with overrun := true, afterCr := false } }
  else { s with mon := { m with input := m.input ++ [c], afterCr := false } }

/-- Input has been received: it is acted on once the dictionary is reachable (R413, R427). -/
def State.heard (s : State) (f : State → State) : State :=
  if !s.dictUp then s else f { s with mon := { s.mon with inputAt := s.ns } }

/-- A whole line brought by a row of the table; while VENDOR's lines are awaited it is one of them, and none that has 48 hex digits. -/
def State.monitor (s : State) (f : State → State) : State :=
  s.heard (fun s => if s.mon.vend.isSome then s.monLine [] else f s)

/-! The rows. -/

/-- MON_HELP (R428). -/
def execMonHelp (s : State) : Out := .next (s.monitor State.monHelp)

/-- MON_INFO (R428). -/
def execMonInfo (s : State) : Out := .next (s.monitor State.monInfo)

/-- LOGIN (R427); the row brings characters of the line too (R426, R429). -/
def execLogin (input : MonInput) (s : State) : Out :=
  .next (match input with
    | .phrase p => s.monitor (fun s => s.monLogin p)
    | .chars c => s.heard (fun s => c.foldl State.monChar s))

/-- LOGOUT (R427). -/
def execLogout (s : State) : Out := .next (s.monitor State.monLogout)

/-- CHALLENGE (R427). -/
def execChallenge (s : State) : Out := .next (s.monitor State.monChallenge)

/-- VENDOR with the lines that follow it (R427). -/
def execVendor (lines : List (List Byte)) (s : State) : Out := .next (s.monitor (fun s => s.monVendor s.ns lines))

/-- MON_READ (R428). -/
def execMonRead (idx sub off len : Nat) (s : State) : Out := .next (s.monitor (fun s => s.monRead idx sub off len))

/-- MON_WRITE (R428). -/
def execMonWrite (idx sub off : Nat) (data : List Byte) (s : State) : Out :=
  .next (s.monitor (fun s => s.monWrite idx sub off data))

/-- MON_LOG (R428). -/
def execMonLog (n : Nat) (s : State) : Out := .next (s.monitor (fun s => s.monLog n))

/-- WATCH_ON and WATCH_OFF (R428). -/
def execWatchOn (s : State) : Out := .next (s.monitor (fun s => s.monWatch true))

def execWatchOff (s : State) : Out := .next (s.monitor (fun s => s.monWatch false))

/-- MON_RESET (R428, R468). -/
def execMonReset (kind inst : Nat) (s : State) : Out := .next (s.monitor (fun s => s.monReset kind inst))

/-- MONITOR_BREAK (R429): base rate, observer level, both buffers empty. -/
def execMonitorBreak (s : State) : Out := .next (if s.dictUp then { s with mon := s.mon.breakLine s.ns } else s)

/-- MON_IDLE_TIMEOUT (R427). -/
def execMonIdleTimeout (s : State) : Out :=
  .next (if s.dictUp && s.mon.inputAt + s.o kMON_IDLE_S * 1000000000 ≤ s.ns then s.setLevel 0 else s)

/-- LOGIN_LOCK_END (R427). -/
def execLoginLockEnd (s : State) : Out :=
  .next (if s.mon.lockAt ≠ 0 && s.mon.lockAt + 60000000000 ≤ s.ns + 1 then { s with mon := { s.mon with lockAt := 0 } } else s)

/-- CHALLENGE_EXPIRY (R427). -/
def execChallengeExpiry (s : State) : Out :=
  match s.mon.nonce with
  | some (_, t) => .next (if t + 60000000000 ≤ s.ns then { s with mon := { s.mon with nonce := none } } else s)
  | none => .next s

end Sys2Proof.Machine
end

