-- ==== Sys2Proof/Machine/Stroke.lean ====
section
/-! DEFINITION. Strokes without a frame, and samples of power, supply and heat (R356, R357, R371 to R373). -/

namespace Sys2Proof.Machine

open Sys2Proof

/-- HOLDOVER_ENTRY (R357): no valid frame of a higher number for 1.5 P since stroke M began. -/
def execHoldoverEntry (s : State) : Out :=
  .next (if s.timebaseUp && s.o kST_STATE == tbLOCKED && decide (s.st.beganAt + 1500 * s.st.period ≤ s.ns) then
      s.holdoverStroke (s.stroke + 1)
    else s)

/-- HOLDOVER_STROKE (R357): P since stroke M began. -/
def execHoldoverStroke (s : State) : Out :=
  .next (if s.timebaseUp && s.o kST_STATE == tbHOLDOVER && decide (s.st.beganAt + 1000 * s.st.period ≤ s.ns) then
      s.holdoverStroke (s.stroke + 1)
    else s)

/-- FIRST_WAIT_EXPIRY (R357): ST_FIRST_WAIT_MS in WAITING; stroke 0 begins. -/
def execFirstWaitExpiry (s : State) : Out :=
  .next (if s.timebaseUp && s.o kST_STATE == tbWAITING
      && decide (s.st.waitFrom + 1000000 * s.o kST_FIRST_WAIT_MS ≤ s.ns) then
      s.holdoverStroke 0
    else s)

/-- REJOIN_TIMEOUT (R357): 1.5 P since the latest valid frame. -/
def execRejoinTimeout (s : State) : Out :=
  .next (if s.timebaseUp && s.o kST_STATE == tbREJOIN && decide (s.st.frameAt + 1500 * s.st.period ≤ s.ns) then
      s.holdoverStroke (s.stroke + 1)
    else s)

/-! The power governor (R371). -/

/-- POWER_SAMPLE (R371): a sample above 7,200 W takes the limit 2 levels below the effective level, an average over 10 ms that
comes to exceed 6,400 W takes it 1 level below. -/
def execPowerSample (mw : Nat) (s : State) : Out :=
  if s.boot.stage = 0 then .next s
  else
    let t := s.st
    let was := avgAbove t.power 6400000
    let power := (mw :: t.power).take 1000
    let now := avgAbove power 6400000
    let s := { s with st := { t with power := power, curMeasured := t.curMeasured + 10 * mw
                                     overs := t.overs || decide (7200000 < mw)
                                     govAt := if now && !was then s.ns else t.govAt } }
    let s := if 7200000 < mw then s.governDown 2 else s
    .next (if now && !was then s.governDown 1 else s)

/-- GOVERNOR_REPEAT (R371): every 1 ms while the average stays above 6,400 W. -/
def execGovernorRepeat (s : State) : Out :=
  .next (if s.boot.stage != 0 && avgAbove s.st.power 6400000 && decide (s.st.govAt + 1000000 ≤ s.ns) then
      { s with st := { s.st with govAt := s.ns } }.governDown 1
    else s)

/-! The supply (R372). -/

/-- Since when a condition holds, ns + 1. -/
def since (now held : Nat) (c : Bool) : Nat := if !c then 0 else if held = 0 then now + 1 else held

/-- A condition of the samples taken so far that shuts the part down (R372): below 37.0 V for 1 ms, a sample below 35.0 V, or above
60.0 V for 100 µs. -/
def Strokes.mustShut (t : Strokes) (ns : Nat) : Bool :=
  t.sag || decide (t.vin < 35000) || (t.vinLow != 0 && decide (t.vinLow + 1000000 ≤ ns + 1))
    || (t.vinHigh != 0 && decide (t.vinHigh + 100000 ≤ ns + 1))

/-- The regulators are on: the part is not dark (R372); a device reset holds every block but them (R469). -/
def State.powered (s : State) : Bool := s.boot.stage != 0 || s.boot.holding

/-- VOLTAGE_SAMPLE (R372): below 40.0 V the supply limit is level 0 at once, with one record for the episode; above 65 V the
part may be damaged, and the spec says no more. -/
def execVoltageSample (mv : Nat) (s : State) : Out :=
  if 65000 < mv then .fault .damaged
  else
    let t := s.st
    let s := { s with st := { t with
      sag := s.powered && (t.mustShut s.ns || decide (mv < 35000))
      vin := mv, vins := (mv :: t.vins).take 100, vinOk := since s.ns t.vinOk (decide (41000 ≤ mv)), vinLow := since s.ns t.vinLow (decide (mv < 37000))
      vinHigh := since s.ns t.vinHigh (decide (60000 < mv))
      vinIn := since s.ns t.vinIn (decide (40000 ≤ mv) && decide (mv ≤ 58000)) } }
    if s.boot.stage = 0 || 40000 ≤ mv then .next s
    else
      let s := { s with st := { s.st with supply := 0 } }.noteLevel
      if s.st.underEp then .next s
      else .next ({ s with st := { s.st with underEp := true } }.errRec { cls := 2, code := rcPW_UNDERVOLT })

/-- UNDERVOLT_RELEASE (R372): 41.0 V or above for 10 ms. -/
def execUndervoltRelease (s : State) : Out :=
  let t := s.st
  .next (if t.underEp && t.vinOk != 0 && decide (t.vinOk + 10000000 ≤ s.ns + 1) then
      { s with st := { t with supply := 24, underEp := false } }
    else s)

/-- SUPPLY_SHUTDOWN (R372): the regulators shut down and the part goes dark. -/
def execSupplyShutdown (s : State) : Out := .next (if s.powered && s.st.mustShut s.ns then s.lost 1 false else s)

/-! Heat (R373). -/

/-- The compute dies and stacks are powered off (R373): every rod is OFF (R31) and has lost what it held, but for the count of
discards, which the management firmware keeps (R39), and the upper deck has lost its contents. -/
def State.powerOff (s : State) : State :=
  { s with rods := (s.rods.map (fun q => (q.1, ({ discards := q.2.discards } : Rod)))).filter (fun q => q.2 != {})
           decks := { s.decks with ud := [], udBad := [] } }

/-- THERMAL_SAMPLE (R373): the hottest sensor of each die, in tenths of a degree. -/
def execThermalSample (dieTenths : List Nat) (s : State) : Out :=
  if s.boot.stage = 0 then .next s
  else
    let t := s.st
    let s := { s with st := { t with tj := dieTenths.zipIdx.foldl (fun x (d : Nat × Nat) => tset 0 x d.2 d.1) t.tj } }
    let tj := s.junction
    let hot := decide (1000 ≤ tj) && decide (tj < 1050)
    let onset := hot && !t.episode
    let lim := if 1050 ≤ tj then 0 else if onset then t.thermal - 1 else t.thermal
    let s := { s with st := { s.st with
      thermal := lim, curTj := max t.curTj tj, episode := decide (1000 ≤ tj) && (t.episode || hot)
      limitEp := decide (1050 ≤ tj), hotAt := if onset then s.ns + 1 else t.hotAt
      coolAt := since s.ns t.coolAt (decide (tj < 970)) } }.noteLevel
    let s := { s with st := { s.st with hot105 := since s.ns t.hot105 (decide (1050 ≤ tj) && s.level == 0) } }
    let h := s.st.hot105
    let trip := decide (1100 ≤ tj) || (h != 0 && decide (h + 100000000 ≤ s.ns + 1))
    let s := if onset then (s.errRec { cls := 1, code := rcPW_THROTTLE }).addO 32 kPW_THROTTLE_COUNT 1 else s
    if trip then
      if s.st.tripped then .next s
      else .next ({ s with st := { s.st with tripped := true } }.fatalRec { cls := 4, code := rcPW_THERMAL_TRIP }).powerOff
    else if 1050 ≤ tj && !t.limitEp then .next (s.errRec { cls := 2, code := rcPW_TJ_LIMIT })
    else .next s

/-- THROTTLE_STEP (R373): every 1 ms from 100.0 to 105.0 the limit falls by 1, every 10 ms below 97.0 it rises by 1. -/
def execThrottleStep (s : State) : Out :=
  let t := s.st
  let tj := s.junction
  if s.boot.stage = 0 then .next s
  else if 1000 ≤ tj && tj < 1050 && t.hotAt + 1000000 ≤ s.ns + 1 then
    .next { s with st := { t with thermal := t.thermal - 1, hotAt := s.ns + 1 } }.noteLevel
  else if tj < 970 && t.coolAt != 0 && decide (t.coolAt + 10000000 ≤ s.ns + 1) then
    .next { s with st := { t with thermal := min 24 (t.thermal + 1), coolAt := s.ns + 1 } }.noteLevel
  else .next s

end Sys2Proof.Machine
end

