-- ==== Sys2Proof/Machine/Dispatch.lean ====
section
/-! DEFINITION. One arm for each command: a direct call of its meaning. -/

namespace Sys2Proof.Machine

open Sys2Proof

def exec (i : Instr) (s : State) : Host.Outcome State Fault Refusal :=
  match i with
  -- Mesh
  | .meshPacketDelivery pkt => Sys2Proof.Machine.execMeshPacketDelivery pkt s
  | .vc0RequestTimeout id => Sys2Proof.Machine.execVc0RequestTimeout id s
  | .vc2Acknowledgement id => Sys2Proof.Machine.execVc2Acknowledgement id s
  | .vc2AckTimeout id => Sys2Proof.Machine.execVc2AckTimeout id s
  | .flitError rod => Sys2Proof.Machine.execFlitError rod s
  | .routerSelfCheckFail rod => Sys2Proof.Machine.execRouterSelfCheckFail rod s
  | .controlCoreWatchdog rod => Sys2Proof.Machine.execControlCoreWatchdog rod s
  | .fenceRequest path value => Sys2Proof.Machine.execFenceRequest path value s
  | .routeTablesComputed tables => Sys2Proof.Machine.execRouteTablesComputed tables s
  | .routeEpochDrainEnd => Sys2Proof.Machine.execRouteEpochDrainEnd s
  | .routeEpochEnd => Sys2Proof.Machine.execRouteEpochEnd s
  | .coreFenceComplete rod => Sys2Proof.Machine.execCoreFenceComplete rod s
  -- Matrix
  | .matmul rod desc draw => Sys2Proof.Machine.execMatmul rod desc draw s
  | .readout rod desc draw => Sys2Proof.Machine.execReadout rod desc draw s
  | .clear rod desc => Sys2Proof.Machine.execClear rod desc s
  | .matmulStreamStart rod ecc => Sys2Proof.Machine.execMatmulStreamStart rod ecc s
  | .bankComplete rod ecc => Sys2Proof.Machine.execBankComplete rod ecc s
  | .readoutEnd fin => Sys2Proof.Machine.execReadoutEnd fin s
  -- Vector
  | .chain rod desc draw => Sys2Proof.Machine.execChain rod desc draw s
  | .permute rod desc => Sys2Proof.Machine.execPermute rod desc s
  | .shuffle rod desc => Sys2Proof.Machine.execShuffle rod desc s
  | .pack rod desc => Sys2Proof.Machine.execPack rod desc s
  | .unpack rod desc => Sys2Proof.Machine.execUnpack rod desc s
  | .compress rod desc => Sys2Proof.Machine.execCompress rod desc s
  | .expand rod desc => Sys2Proof.Machine.execExpand rod desc s
  | .tload rod desc => Sys2Proof.Machine.execTload rod desc s
  | .fill rod desc => Sys2Proof.Machine.execFill rod desc s
  | .spill rod desc => Sys2Proof.Machine.execSpill rod desc s
  | .chainStart rod err => Sys2Proof.Machine.execChainStart rod err s
  | .chainComplete rod => Sys2Proof.Machine.execChainComplete rod s
  | .deckMoveComplete rod => Sys2Proof.Machine.execDeckMoveComplete rod s
  -- Deck
  | .sliceAccess rod deckPort mesh reckoner => Sys2Proof.Machine.execSliceAccess rod deckPort mesh reckoner s
  | .rowSpareCopyEnd rod row => Sys2Proof.Machine.execRowSpareCopyEnd rod row s
  | .ldPackageFail pkg stopped => Sys2Proof.Machine.execLdPackageFail pkg stopped s
  | .patrolScrub lower addr ecc => Sys2Proof.Machine.execPatrolScrub lower addr ecc s
  | .sliceZeroingEnd rod => Sys2Proof.Machine.execSliceZeroingEnd rod s
  | .extentZeroFillEnd done => Sys2Proof.Machine.execExtentZeroFillEnd done s
  | .stagePush rod desc => Sys2Proof.Machine.execStagePush rod desc s
  | .stageStart go => Sys2Proof.Machine.execStageStart go s
  | .stageEnd part id => Sys2Proof.Machine.execStageEnd part id s
  | .stageFenceWait rod fence value => Sys2Proof.Machine.execStageFenceWait rod fence value s
  -- Tally
  | .form path n => Sys2Proof.Machine.execForm path n s
  | .close path n => Sys2Proof.Machine.execClose path n s
  | .rebalanceToStudent path n frame part => Sys2Proof.Machine.execRebalanceToStudent path n frame part s
  | .rebalanceToTeacher path n frame part => Sys2Proof.Machine.execRebalanceToTeacher path n frame part s
  | .attach path n part => Sys2Proof.Machine.execAttach path n part s
  | .detach path n part => Sys2Proof.Machine.execDetach path n part s
  | .acquire rod => Sys2Proof.Machine.execAcquire rod s
  | .acquireSlotFree n => Sys2Proof.Machine.execAcquireSlotFree n s
  | .publish rod call => Sys2Proof.Machine.execPublish rod call s
  | .publishHeaderWrite n seq => Sys2Proof.Machine.execPublishHeaderWrite n seq s
  | .wait rod seq => Sys2Proof.Machine.execWait rod seq s
  | .waitRecordPublished rod => Sys2Proof.Machine.execWaitRecordPublished rod s
  | .release rod seq parts => Sys2Proof.Machine.execRelease rod seq parts s
  | .lossKernel rod call => Sys2Proof.Machine.execLossKernel rod call s
  | .tyStall rod => Sys2Proof.Machine.execTyStall rod s
  | .tyTimeout rod => Sys2Proof.Machine.execTyTimeout rod s
  | .rebalMoving n => Sys2Proof.Machine.execRebalMoving n s
  | .rebalMoveComplete n => Sys2Proof.Machine.execRebalMoveComplete n s
  | .tyRebalAbandoned n => Sys2Proof.Machine.execTyRebalAbandoned n s
  | .pairingFree n => Sys2Proof.Machine.execPairingFree n s
  | .tyHvEnable path part value => Sys2Proof.Machine.execTyHvEnable path part value s
  | .harvestRecordCopy part => Sys2Proof.Machine.execHarvestRecordCopy part s
  -- Numerics
  | .startRun path part => Sys2Proof.Machine.execStartRun path part s
  | .endRun path part => Sys2Proof.Machine.execEndRun path part s
  | .numericsStateRead rod ask => Sys2Proof.Machine.execNumericsStateRead rod ask s
  | .numericsStateWaitEnd rod => Sys2Proof.Machine.execNumericsStateWaitEnd rod s
  | .slotTsQuery rod slot => Sys2Proof.Machine.execSlotTsQuery rod slot s
  | .phaseMark rod backward => Sys2Proof.Machine.execPhaseMark rod backward s
  -- Reckoner
  | .updatePush rod desc => Sys2Proof.Machine.execUpdatePush rod desc s
  | .passStart reck => Sys2Proof.Machine.execPassStart reck s
  | .passEnd reck => Sys2Proof.Machine.execPassEnd reck s
  | .tensorUpdateComplete part slot => Sys2Proof.Machine.execTensorUpdateComplete part slot s
  | .rootJobStart reck => Sys2Proof.Machine.execRootJobStart reck s
  | .rootJobEnd reck fb => Sys2Proof.Machine.execRootJobEnd reck fb s
  | .rootQuery rod fb step => Sys2Proof.Machine.execRootQuery rod fb step s
  | .rkGroupsWrite path part k entry => Sys2Proof.Machine.execRkGroupsWrite path part k entry s
  -- Carry
  | .groupForm path part g => Sys2Proof.Machine.execGroupForm path part g s
  | .groupLeave path part g => Sys2Proof.Machine.execGroupLeave path part g s
  | .handshakeUp part g child digest epoch mismatch => Sys2Proof.Machine.execHandshakeUp part g child digest epoch mismatch s
  | .handshakeResult part g epoch matched => Sys2Proof.Machine.execHandshakeResult part g epoch matched s
  | .cyFormTimeout part g => Sys2Proof.Machine.execCyFormTimeout part g s
  | .reduce rod push => Sys2Proof.Machine.execReduce rod push s
  | .allToAll rod push => Sys2Proof.Machine.execAllToAll rod push s
  | .allGather rod push => Sys2Proof.Machine.execAllGather rod push s
  | .closeStep rod push => Sys2Proof.Machine.execCloseStep rod push s
  | .carryTile => Sys2Proof.Machine.execCarryTile s
  | .layerSourceRead bkt => Sys2Proof.Machine.execLayerSourceRead bkt s
  | .segmentUnit part g arr => Sys2Proof.Machine.execSegmentUnit part g arr s
  | .segmentCombine bkt seg => Sys2Proof.Machine.execSegmentCombine bkt seg s
  | .bucketHeader part g arr => Sys2Proof.Machine.execBucketHeader part g arr s
  | .bucketComplete bkt => Sys2Proof.Machine.execBucketComplete bkt s
  | .chunkLanded part g tag parity sender epoch arr => Sys2Proof.Machine.execChunkLanded part g tag parity sender epoch arr s
  | .bucketTimeout bkt => Sys2Proof.Machine.execBucketTimeout bkt s
  | .verdictExchangeStart part g => Sys2Proof.Machine.execVerdictExchangeStart part g s
  | .verdictExchangeUp part g arr => Sys2Proof.Machine.execVerdictExchangeUp part g arr s
  | .verdictResult part g hdr link => Sys2Proof.Machine.execVerdictResult part g hdr link s
  | .mirrorEnable path part => Sys2Proof.Machine.execMirrorEnable path part s
  | .mirrorDisable path part => Sys2Proof.Machine.execMirrorDisable path part s
  | .mirrorRestore path part => Sys2Proof.Machine.execMirrorRestore path part s
  | .mirrorExport path part => Sys2Proof.Machine.execMirrorExport path part s
  | .mirrorCopyEnd part ok => Sys2Proof.Machine.execMirrorCopyEnd part ok s
  | .mirrorCommit k client copy digest => Sys2Proof.Machine.execMirrorCommit k client copy digest s
  | .mirrorRestoreEnd part copy digest => Sys2Proof.Machine.execMirrorRestoreEnd part copy digest s
  -- Optical
  | .lightDetected l => Sys2Proof.Machine.execLightDetected l s
  | .lightLost l => Sys2Proof.Machine.execLightLost l s
  | .trainingHoldEnd l => Sys2Proof.Machine.execTrainingHoldEnd l s
  | .trainingComplete l lanes bamen => Sys2Proof.Machine.execTrainingComplete l lanes bamen s
  | .trainingTimeout l => Sys2Proof.Machine.execTrainingTimeout l s
  | .hello l node fabric enc nonce => Sys2Proof.Machine.execHello l node fabric enc nonce s
  | .cert l device issuers => Sys2Proof.Machine.execCert l device issuers s
  | .proof l msg => Sys2Proof.Machine.execProof l msg s
  | .confirm l msg => Sys2Proof.Machine.execConfirm l msg s
  | .authTimeout l => Sys2Proof.Machine.execAuthTimeout l s
  | .flitReceive l f => Sys2Proof.Machine.execFlitReceive l f s
  | .retryReq l ack => Sys2Proof.Machine.execRetryReq l ack s
  | .idleAckTimer l => Sys2Proof.Machine.execIdleAckTimer l s
  | .ackTimeout l => Sys2Proof.Machine.execAckTimeout l s
  | .creditStall l => Sys2Proof.Machine.execCreditStall l s
  | .laneLockLoss l working => Sys2Proof.Machine.execLaneLockLoss l working s
  | .bamenMessage l hops hdr data => Sys2Proof.Machine.execBamenMessage l hops hdr data s
  | .transitSend port hop => Sys2Proof.Machine.execTransitSend port hop s
  | .routeAdvertisement l adv => Sys2Proof.Machine.execRouteAdvertisement l adv s
  | .routeAdvertTimer => Sys2Proof.Machine.execRouteAdvertTimer s
  | .routeExpiry node l => Sys2Proof.Machine.execRouteExpiry node l s
  | .degradedRecovery l => Sys2Proof.Machine.execDegradedRecovery l s
  | .quarantineHoldEnd l => Sys2Proof.Machine.execQuarantineHoldEnd l s
  | .keyEpochSwitch l => Sys2Proof.Machine.execKeyEpochSwitch l s
  | .linkEnable path l => Sys2Proof.Machine.execLinkEnable path l s
  | .linkDisable path l => Sys2Proof.Machine.execLinkDisable path l s
  | .linkRetrain path l => Sys2Proof.Machine.execLinkRetrain path l s
  | .linkRelease path l => Sys2Proof.Machine.execLinkRelease path l s
  | .linkShutdownEnd l => Sys2Proof.Machine.execLinkShutdownEnd l s
  | .slotAlignmentLoss l => Sys2Proof.Machine.execSlotAlignmentLoss l s
  | .flowHoldExpiry flow => Sys2Proof.Machine.execFlowHoldExpiry flow s
  -- Serving
  | .svStart path => Sys2Proof.Machine.execSvStart path s
  | .svStop path => Sys2Proof.Machine.execSvStop path s
  | .svDrain path => Sys2Proof.Machine.execSvDrain path s
  | .svSubmit fn q => Sys2Proof.Machine.execSvSubmit fn q s
  | .svCancel fn q => Sys2Proof.Machine.execSvCancel fn q s
  | .servingBoundary => Sys2Proof.Machine.execServingBoundary s
  | .demotionCopyEnd d => Sys2Proof.Machine.execDemotionCopyEnd d s
  | .draftPhase => Sys2Proof.Machine.execDraftPhase s
  | .verifyPhase => Sys2Proof.Machine.execVerifyPhase s
  | .delivery => Sys2Proof.Machine.execDelivery s
  | .jettonRow rod row => Sys2Proof.Machine.execJettonRow rod row s
  | .jettonRowDone die => Sys2Proof.Machine.execJettonRowDone die s
  | .ringChange path c base entries => Sys2Proof.Machine.execRingChange path c base entries s
  | .cqChTail fn c value => Sys2Proof.Machine.execCqChTail fn c value s
  -- Partition
  | .ptCreate path p => Sys2Proof.Machine.execPtCreate path p s
  | .ptDestroy path p => Sys2Proof.Machine.execPtDestroy path p s
  | .ptAdd path p => Sys2Proof.Machine.execPtAdd path p s
  | .ptRemove path p => Sys2Proof.Machine.execPtRemove path p s
  | .createZeroingEnd p => Sys2Proof.Machine.execCreateZeroingEnd p s
  | .addZeroingEnd p => Sys2Proof.Machine.execAddZeroingEnd p s
  | .quiesceEnd p => Sys2Proof.Machine.execQuiesceEnd p s
  | .removeZeroingEnd p => Sys2Proof.Machine.execRemoveZeroingEnd p s
  | .ctxEnable path p c => Sys2Proof.Machine.execCtxEnable path p c s
  | .ctxDisable path p c => Sys2Proof.Machine.execCtxDisable path p c s
  | .ctxYield path p c => Sys2Proof.Machine.execCtxYield path p c s
  | .ctxEvict path p c => Sys2Proof.Machine.execCtxEvict path p c s
  | .sliceExpiry p => Sys2Proof.Machine.execSliceExpiry p s
  | .yieldGraceExpiry p => Sys2Proof.Machine.execYieldGraceExpiry p s
  | .waitSwitchTimeout p => Sys2Proof.Machine.execWaitSwitchTimeout p s
  | .hardSwitchSave p => Sys2Proof.Machine.execHardSwitchSave p s
  | .hardSwitchEnd p => Sys2Proof.Machine.execHardSwitchEnd p s
  | .iiWindowEnd p routers grants twice => Sys2Proof.Machine.execIiWindowEnd p routers grants twice s
  -- Stroke
  | .ringFrame bytes => Sys2Proof.Machine.execRingFrame bytes s
  | .holdoverEntry => Sys2Proof.Machine.execHoldoverEntry s
  | .holdoverStroke => Sys2Proof.Machine.execHoldoverStroke s
  | .firstWaitExpiry => Sys2Proof.Machine.execFirstWaitExpiry s
  | .rejoinTimeout => Sys2Proof.Machine.execRejoinTimeout s
  | .powerSample mw => Sys2Proof.Machine.execPowerSample mw s
  | .governorRepeat => Sys2Proof.Machine.execGovernorRepeat s
  | .voltageSample mv => Sys2Proof.Machine.execVoltageSample mv s
  | .undervoltRelease => Sys2Proof.Machine.execUndervoltRelease s
  | .supplyShutdown => Sys2Proof.Machine.execSupplyShutdown s
  | .thermalSample dieTenths => Sys2Proof.Machine.execThermalSample dieTenths s
  | .throttleStep => Sys2Proof.Machine.execThrottleStep s
  -- Host
  | .hostLinkTrained rate width => Sys2Proof.Machine.execHostLinkTrained rate width s
  | .hostLinkDown => Sys2Proof.Machine.execHostLinkDown s
  | .cqSqTail fn q value => Sys2Proof.Machine.execCqSqTail fn q value s
  | .cqCqHead fn q value => Sys2Proof.Machine.execCqCqHead fn q value s
  | .cqFuncCtrl fn wr => Sys2Proof.Machine.execCqFuncCtrl fn wr s
  | .funcShutdownEnd fn => Sys2Proof.Machine.execFuncShutdownEnd fn s
  | .mailboxRead fn regs => Sys2Proof.Machine.execMailboxRead fn regs s
  | .mailboxWrite fn regs data => Sys2Proof.Machine.execMailboxWrite fn regs data s
  | .sqConfigWrite fn q entry => Sys2Proof.Machine.execSqConfigWrite fn q entry s
  | .cqConfigWrite fn q entry => Sys2Proof.Machine.execCqConfigWrite fn q entry s
  | .sqDrainEnd fn q => Sys2Proof.Machine.execSqDrainEnd fn q s
  | .commandFetch fn q cmd => Sys2Proof.Machine.execCommandFetch fn q cmd s
  | .run fn q prog => Sys2Proof.Machine.execRun fn q prog s
  | .runComplete p => Sys2Proof.Machine.execRunComplete p s
  | .dmaIn fn q data => Sys2Proof.Machine.execDmaIn fn q data s
  | .dmaOut fn q => Sys2Proof.Machine.execDmaOut fn q s
  | .dmaComplete id hostAbort => Sys2Proof.Machine.execDmaComplete id hostAbort s
  | .stage fn q => Sys2Proof.Machine.execStage fn q s
  | .update fn q => Sys2Proof.Machine.execUpdate fn q s
  | .carry fn q => Sys2Proof.Machine.execCarry fn q s
  | .slotRead fn qa => Sys2Proof.Machine.execSlotRead fn qa s
  | .slotWrite fn q data => Sys2Proof.Machine.execSlotWrite fn q data s
  | .exportMirror fn q copy => Sys2Proof.Machine.execExportMirror fn q copy s
  | .coalTimeout fn q => Sys2Proof.Machine.execCoalTimeout fn q s
  | .windowAccess acc => Sys2Proof.Machine.execWindowAccess acc s
  | .windowBlockFill => Sys2Proof.Machine.execWindowBlockFill s
  | .windowWriteback block => Sys2Proof.Machine.execWindowWriteback block s
  | .cqWinExtents path win => Sys2Proof.Machine.execCqWinExtents path win s
  | .windowOpen => Sys2Proof.Machine.execWindowOpen s
  | .functionLevelReset fn => Sys2Proof.Machine.execFunctionLevelReset fn s
  | .flrRegistersReset fn => Sys2Proof.Machine.execFlrRegistersReset fn s
  | .flrEnd fn => Sys2Proof.Machine.execFlrEnd fn s
  | .spdmRequest fn req => Sys2Proof.Machine.execSpdmRequest fn req s
  | .msixVectorUnmask fn w => Sys2Proof.Machine.execMsixVectorUnmask fn w s
  | .cqChShadow fn value => Sys2Proof.Machine.execCqChShadow fn value s
  | .vfEnable numVfs enable => Sys2Proof.Machine.execVfEnable numVfs enable s
  -- Dictionary
  | .objectWrite path idx sub off data => Sys2Proof.Machine.execObjectWrite path idx sub off data s
  | .rwpCommit => Sys2Proof.Machine.execRwpCommit s
  | .defaults path => Sys2Proof.Machine.execDefaults path s
  | .ringRead => Sys2Proof.Machine.execRingRead s
  | .ringWrite => Sys2Proof.Machine.execRingWrite s
  | .ringStage => Sys2Proof.Machine.execRingStage s
  | .ringCommit => Sys2Proof.Machine.execRingCommit s
  | .ringSnap => Sys2Proof.Machine.execRingSnap s
  | .ringPeek => Sys2Proof.Machine.execRingPeek s
  | .ringKey path key => Sys2Proof.Machine.execRingKey path key s
  | .monHelp => Sys2Proof.Machine.execMonHelp s
  | .monInfo => Sys2Proof.Machine.execMonInfo s
  | .login input => Sys2Proof.Machine.execLogin input s
  | .logout => Sys2Proof.Machine.execLogout s
  | .challenge => Sys2Proof.Machine.execChallenge s
  | .vendor lines => Sys2Proof.Machine.execVendor lines s
  | .monRead idx sub off len => Sys2Proof.Machine.execMonRead idx sub off len s
  | .monWrite idx sub off data => Sys2Proof.Machine.execMonWrite idx sub off data s
  | .monLog n => Sys2Proof.Machine.execMonLog n s
  | .watchOn => Sys2Proof.Machine.execWatchOn s
  | .watchOff => Sys2Proof.Machine.execWatchOff s
  | .monReset kind inst => Sys2Proof.Machine.execMonReset kind inst s
  | .monitorBreak => Sys2Proof.Machine.execMonitorBreak s
  | .monIdleTimeout => Sys2Proof.Machine.execMonIdleTimeout s
  | .loginLockEnd => Sys2Proof.Machine.execLoginLockEnd s
  | .challengeExpiry => Sys2Proof.Machine.execChallengeExpiry s
  -- Boot
  | .powerGood => Sys2Proof.Machine.execPowerGood s
  | .secFirmwareStart => Sys2Proof.Machine.execSecFirmwareStart s
  | .mgmtComplexStart identityOk => Sys2Proof.Machine.execMgmtComplexStart identityOk s
  | .mgmtReady => Sys2Proof.Machine.execMgmtReady s
  | .imagesVerified => Sys2Proof.Machine.execImagesVerified s
  | .computeReady selfTestFails pkgFails => Sys2Proof.Machine.execComputeReady selfTestFails pkgFails s
  | .writeImage path image bank => Sys2Proof.Machine.execWriteImage path image bank s
  | .writeImageEnd flashOk => Sys2Proof.Machine.execWriteImageEnd flashOk s
  | .selectBank path bank => Sys2Proof.Machine.execSelectBank path bank s
  | .commitSvn path => Sys2Proof.Machine.execCommitSvn path s
  | .attReport path => Sys2Proof.Machine.execAttReport path s
  | .coldReset path => Sys2Proof.Machine.execColdReset path s
  | .deviceReset path => Sys2Proof.Machine.execDeviceReset path s
  | .deviceResetHoldEnd => Sys2Proof.Machine.execDeviceResetHoldEnd s
  | .partitionReset path p => Sys2Proof.Machine.execPartitionReset path p s
  | .partitionResetKeys p => Sys2Proof.Machine.execPartitionResetKeys p s
  | .partitionResetEnd p => Sys2Proof.Machine.execPartitionResetEnd p s
  | .functionReset path fn => Sys2Proof.Machine.execFunctionReset path fn s
  | .portReset path port => Sys2Proof.Machine.execPortReset path port s
  | .mgmtWatchdog => Sys2Proof.Machine.execMgmtWatchdog s

end Sys2Proof.Machine
end

