-- ==== Sys2Proof/Safety.lean ====
section
/-! DEFINITION. What claims call a safe step: it stops for no fault. -/

namespace Sys2Proof

open Sys2Proof.Machine

/-- The step neither faults nor is refused. -/
def Safe (s : State) : Prop := ∃ t, step s = .next t

end Sys2Proof
end

