-- ==== Sys2Proof/Certificates/Slice0/Obligations.lean ====
section
/-! DEFINITION. The statements for the provers. A clause about a command says under which conditions on the state and the
operands alone the command completes, and what the next state holds; `t = { s with … }` says what else it leaves alone. -/

open Sys2Proof Sys2Proof.Machine

/-- A step carries out the command at the front of the queue: With command c at the front of the queue, a step is exec of
c on the state with the queue's rest (the queue is the model's, log entry 2). (98_reader.md SCOPE;
95_what_each_step_holds.md What each step holds) -/
def Obligations.StepRunsFrontCommand : Prop :=
  ∀ (s : State) (c : Instr) (rest : List Instr), s.pending = c :: rest → step s = exec c { s with pending := rest }

/-- With no command waiting, a step lets one nanosecond pass: On an empty queue a step answers a next state in which one
nanosecond has passed and 1.2 + level / 10 rod cycles have run (in tenths), and nothing else changes; that idling is a
tick is the model's choice (log entry 2), the rate is that of the clock level in force. (13_strokes_energy_and_heat.md
Clock levels) -/
def Obligations.IdleStepIsOneNanosecond : Prop :=
  ∀ s : State, s.pending = [] →
    step s = .next { s with ns := s.ns + 1, rodTenths := s.rodTenths + (12 + s.level) }

/-- A mesh packet acts where its partition may, and is discarded, counted and recorded elsewhere: Take a packet that the
mesh carries (legal rods, channel, kind and length), not held back by a route epoch, that the mesh brings to its
destination by a route of hops and die crossings, at or after the time that the route costs, with no later packet of
its source, destination and channel delivered, and to rows that are neither zeroed nor copied. If the destination's
slice serves its partition: a response takes its request out of the list of outstanding ones (one that was held or
lost stays); an acknowledgement on its way does the same for its write; both change nothing else but the order of the
channel. A write to readable words that touches no closed ring slot stores its bytes from the address under the
destination rod, every other byte of the upper deck stays, and on VC2 the acknowledgement is on its way if the mesh
brings it back. A packet that the mesh discards counts at the router that discarded it, and nothing else changes. If
it serves another partition (and the channel is not VC3): PT_ISOLATION_DROPS of the owner rises by one (saturating),
an error record, PT_ISOLATION of class 2 naming the source rod, is in the ring, and on VC1 and VC2 both decks stay.
(12_partitions_and_preemption.md Isolation; 01_panel_package_and_rod_mesh.md The mesh) -/
def Obligations.MeshPacketActsOnlyWhereItMay : Prop :=
  (∀ (pkt : MeshPacket) (s : State) (hops cross : Nat), packetOk pkt = true → s.heldBack pkt = false →
    s.fate pkt.src pkt.dst pkt.sent pkt.len = .ok (hops, cross) → s.packetWaits pkt = false →
    pkt.sent + routeCost hops cross pkt.len ≤ s.cycle →
    tget 0 s.mesh.order ((pkt.src * 576 + pkt.dst) * 4 + pkt.vc) ≤ pkt.sent →
    s.mayDeliver pkt.part pkt.dst = true →
      (∀ id, pkt.kind = .response id → ∃ t, exec (.meshPacketDelivery pkt) s = .next t ∧
        t.mesh.vc0 = s.mesh.vc0.filter (fun r => r.id != id || r.gone || r.held) ∧
        t = { s with mesh := { s.mesh with vc0 := t.mesh.vc0, order := t.mesh.order } }) ∧
      (∀ id, pkt.kind = .ack id → id ∈ s.mesh.acks → ∃ t, exec (.meshPacketDelivery pkt) s = .next t ∧
        t.mesh.vc2 = s.mesh.vc2.filter (fun r => r.id != id) ∧ id ∉ t.mesh.acks ∧
        t = { s with mesh := { s.mesh with vc2 := t.mesh.vc2, acks := t.mesh.acks, order := t.mesh.order } }) ∧
      (∀ addr id data, pkt.kind = .write addr id data → addr + data.length ≤ sliceBytes →
        s.physOk pkt.part (pkt.dst * 2 ^ 29 + addr) data.length = true →
        s.decks.udBadIn (pkt.dst * 2 ^ 29 + addr) data.length = false →
        ∃ t, exec (.meshPacketDelivery pkt) s = .next t ∧
          t.decks.udRead (pkt.dst * 2 ^ 29 + addr) data.length = data ∧
          (∀ a, (a < pkt.dst * 2 ^ 29 + addr ∨ pkt.dst * 2 ^ 29 + addr + data.length ≤ a) →
            mget t.decks.ud a = mget s.decks.ud a) ∧
          (∀ r way, pkt.vc = 2 → s.mesh.vc2.find? (fun x => x.id == id) = some r → r.gone = false →
            s.fate r.dst r.src s.cycle 64 = .ok way → id ∈ t.mesh.acks ∧ t.rods = s.rods) ∧
          (pkt.vc = 0 → t.mesh.acks = s.mesh.acks ∧ t.mesh.vc2 = s.mesh.vc2 ∧ t.rods = s.rods) ∧
          t = { s with mesh := { s.mesh with order := t.mesh.order, acks := t.mesh.acks, vc2 := t.mesh.vc2 }
                       decks := { s.decks with ud := t.decks.ud }, rods := t.rods })) ∧
  (∀ (pkt : MeshPacket) (s : State) (at_ : Option Nat), packetOk pkt = true → s.heldBack pkt = false →
    s.fate pkt.src pkt.dst pkt.sent pkt.len = .error at_ →
    (∀ r, at_ = some r → exec (.meshPacketDelivery pkt) s = .next (s.setRod r { s.rod r with discards := min ((s.rod r).discards + 1) (2 ^ 32 - 1) })) ∧
    (at_ = none → exec (.meshPacketDelivery pkt) s = .next s)) ∧
  (∀ (pkt : MeshPacket) (s : State) (hops cross : Nat), packetOk pkt = true → s.heldBack pkt = false →
    pkt.vc ≠ 3 → s.fate pkt.src pkt.dst pkt.sent pkt.len = .ok (hops, cross) → s.packetWaits pkt = false →
    pkt.sent + routeCost hops cross pkt.len ≤ s.cycle →
    tget 0 s.mesh.order ((pkt.src * 576 + pkt.dst) * 4 + pkt.vc) ≤ pkt.sent →
    s.mayDeliver pkt.part pkt.dst = false →
      ∃ t, exec (.meshPacketDelivery pkt) s = .next t ∧ (pkt.vc ≠ 0 → t.decks = s.decks) ∧
        (s.owner pkt.dst < 16 →
          t.o (kPT_ISOLATION_DROPS (s.owner pkt.dst)) = min (s.o (kPT_ISOLATION_DROPS (s.owner pkt.dst)) + 1) (2 ^ 32 - 1)) ∧
        (∃ r k, tget none t.errs.ring k = some r ∧ r.cls = 2 ∧ r.code = rcPT_ISOLATION ∧ r.rod = pkt.src))

/-- Requests and writes that the mesh lost are settled, and acknowledged writes are done: A VC0 request that the mesh has
taken and that is outstanding for 65,536 cycles or more is dropped, the command that issued it (resident or not) ends
with MESH_LOST if it has no status, a record, MESH_LOST of class 2 naming the destination rod, is in the ring, a deck
move that it served is marked lost, and no other rod changes; a request of no deck move leaves decks, rods and
objects. An acknowledgement of an engine's write whose bytes stand takes it out of the outstanding ones and changes
nothing else; one of a write whose bytes do not stand yet, or that is held or lost, changes nothing. A write of a
stager without acknowledgement after 65,536 cycles is dropped with a record in the same way, its stage is marked to
end with MESH_LOST unless it has a status, no packet of that stage is left, and the bytes of both decks stay. After
each of the VC2 events the waits that it may end are looked at (pollAll). (01_panel_package_and_rod_mesh.md The mesh) -/
def Obligations.MeshLossIsSettled : Prop :=
  (∀ (id : Nat) (s : State) (r : MeshReq), s.mesh.vc0.find? (fun x => x.id == id) = some r → r.held = false →
    r.issued + 65536 ≤ s.cycle →
    ∃ t, exec (.vc0RequestTimeout id) s = .next t ∧ (∀ x ∈ t.mesh.vc0, x.id ≠ id) ∧
      (∀ c, r.part < 16 → r.ctx < 8 → (s.ctx r.part r.ctx).run = some c → c.cmd.status = 0 →
        ∃ c', (t.ctx r.part r.ctx).run = some c' ∧ c'.cmd.status = stMESH_LOST) ∧
      (∃ e k, tget none t.errs.ring k = some e ∧ e.cls = 2 ∧ e.code = stMESH_LOST ∧ e.rod = r.dst) ∧
      (∀ k q e, r.writer = .mover k q → (s.rod k).dq.find? (fun x => x.seq == q) = some e →
        ∃ e' ∈ (t.rod k).dq, e'.seq = q ∧ e'.lost = true) ∧
      (∀ k, (∀ q, r.writer ≠ .mover k q) → t.rod k = s.rod k) ∧
      ((∀ k q, r.writer ≠ .mover k q) →
        t = { s with mesh := { s.mesh with vc0 := t.mesh.vc0 }, ctxs := t.ctxs, errs := t.errs, mon := t.mon, host := t.host })) ∧
  (∀ (id : Nat) (s : State), (∀ r, s.mesh.vc0.find? (fun x => x.id == id) = some r → r.held = true) →
    exec (.vc0RequestTimeout id) s = .next s) ∧
  (∀ (id : Nat) (s : State) (r : MeshReq), s.mesh.vc2.find? (fun x => x.id == id) = some r →
    (∀ p e row off len, r.writer ≠ .stager p e row off len) → (∀ n, r.writer ≠ .edge n) → (∀ k, r.writer ≠ .transit k) →
    (r.held = false → r.gone = false → r.written = true → exec (.vc2Acknowledgement id) s = .next
      ({ s with mesh := { s.mesh with vc2 := s.mesh.vc2.filter (fun r => r.id != id), acks := s.mesh.acks.filter (· != id) } } : State).pollAll) ∧
    (r.written = false → exec (.vc2Acknowledgement id) s = .next s.pollAll)) ∧
  (∀ (id : Nat) (s : State) (r : MeshReq), s.mesh.vc2.find? (fun x => x.id == id) = some r → (r.held = true ∨ r.gone = true) →
    exec (.vc2Acknowledgement id) s = .next s.pollAll) ∧
  (∀ (id : Nat) (s : State) (r : MeshReq) (p g row off len : Nat), s.mesh.vc2.find? (fun x => x.id == id) = some r →
    (∀ x ∈ s.mesh.vc2, x.id < s.mesh.nextId) → r.held = false →
    r.issued + 65536 ≤ s.cycle → r.writer = .stager p g row off len →
    ∃ t : State, exec (.vc2AckTimeout id) s = .next t.pollAll ∧ (∀ x ∈ t.mesh.vc2, x.id ≠ id ∧ stagePacket p g x = false) ∧
      (∀ e ∈ (s.part p).stageQ, e.id = g → e.fail = 0 → { e with fail := stMESH_LOST } ∈ (t.part p).stageQ) ∧
      t.errs.seq = s.errs.seq + 1 ∧
      (∃ e k, tget none t.errs.ring k = some e ∧ e.cls = 2 ∧ e.code = stMESH_LOST ∧ e.rod = r.dst) ∧
      t = { s with mesh := t.mesh, decks := { s.decks with stagers := t.decks.stagers }, rods := t.rods
                   parts := t.parts, errs := t.errs, mon := t.mon, host := t.host })

/-- Errors fence a rod at their threshold, and requests fence it at once: On a rod that is not OFF, a flit error below the
fourth and a watchdog expiry below the third within 1,000 strokes are only noted on the rod. The fourth flit error, a
router's failed self-check (full) and the third watchdog expiry (core) put a rod without a fence into FENCING at that
level with at least one more error record. A FENCE_REQUEST, once the ring's requests that reached the firmware earlier
are performed, by a path that may write, for an unfenced rod with the part compute-ready, a core fence or a full fence
that the mesh allows, puts the rod into FENCING with the level asked for and reports success; one with LEVEL 0 or 3 or
a rod above 575 reports FENCE_REFUSED and changes nothing else. (01_panel_package_and_rod_mesh.md Fencing) -/
def Obligations.FencesBeginAtTheirThresholds : Prop :=
  (∀ (rod : Nat) (s : State), rod < 576 → (s.rod rod).st ≠ .off → (recent s.stroke 1000 (s.rod rod).flitErrs).length < 3 →
    ∃ t, exec (.flitError rod) s = .next t ∧
      (t.rod rod).flitErrs = recent s.stroke 1000 (s.rod rod).flitErrs ++ [s.stroke] ∧
      (t.rod rod).st = (s.rod rod).st ∧ (∀ r, r ≠ rod → t.rod r = s.rod r) ∧ t = { s with rods := t.rods }) ∧
  (∀ (rod : Nat) (s : State), rod < 576 → (s.rod rod).st ≠ .off → 3 ≤ (recent s.stroke 1000 (s.rod rod).flitErrs).length →
    (s.rod rod).fenceLevel = 0 →
    ∃ t, exec (.flitError rod) s = .next t ∧ (t.rod rod).st = .fencing ∧ (t.rod rod).target = 2 ∧
      s.errs.seq < t.errs.seq ∧ rod ∈ t.mesh.fencing) ∧
  (∀ (rod : Nat) (s : State), rod < 576 → (s.rod rod).st ≠ .off → (s.rod rod).fenceLevel = 0 →
    ∃ t, exec (.routerSelfCheckFail rod) s = .next t ∧ (t.rod rod).st = .fencing ∧ (t.rod rod).target = 2 ∧
      s.errs.seq < t.errs.seq ∧ rod ∈ t.mesh.fencing) ∧
  (∀ (rod : Nat) (s : State), rod < 576 → (s.rod rod).st ≠ .off → (recent s.stroke 1000 (s.rod rod).wdogs).length < 2 →
    ∃ t, exec (.controlCoreWatchdog rod) s = .next t ∧
      (t.rod rod).wdogs = recent s.stroke 1000 (s.rod rod).wdogs ++ [s.stroke] ∧
      (t.rod rod).st = (s.rod rod).st ∧ (∀ r, r ≠ rod → t.rod r = s.rod r) ∧ t = { s with rods := t.rods }) ∧
  (∀ (rod : Nat) (s : State), rod < 576 → (s.rod rod).st ≠ .off → 2 ≤ (recent s.stroke 1000 (s.rod rod).wdogs).length →
    (s.rod rod).fenceLevel = 0 →
    ∃ t, exec (.controlCoreWatchdog rod) s = .next t ∧ (t.rod rod).st = .fencing ∧ (t.rod rod).target = 1 ∧
      s.errs.seq < t.errs.seq ∧
      t.mesh.fencing = s.mesh.fencing ∧ t.mesh.phase = s.mesh.phase) ∧
  (∀ (path : Path) (value : BitVec 32) (s : State), let v := s.ringBefore path
    v.dictUp = true → v.mayWrite path = true → v.computeUp = true →
    bits value 9 0 < 576 → (v.rod (bits value 9 0)).fenceLevel = 0 →
    (bits value 17 16 = 1 ∨ bits value 17 16 = 2 ∧ v.fenceAllowed (bits value 9 0) = true) →
    ∃ t, exec (.fenceRequest path value) s = .next t ∧ (t.rod (bits value 9 0)).st = .fencing ∧
      (t.rod (bits value 9 0)).target = bits value 17 16 ∧ tget 0 t.status (pathCode path) = 0) ∧
  (∀ (path : Path) (value : BitVec 32) (s : State), let v := s.ringBefore path
    v.dictUp = true → v.mayWrite path = true →
    (bits value 17 16 = 0 ∨ bits value 17 16 = 3 ∨ 576 ≤ bits value 9 0) →
    exec (.fenceRequest path value) s = .next (v.report path stFENCE_REFUSED))

/-- A route epoch runs from computed tables to new tables, and its rods end fully fenced: While tables are awaited, the
computed ones are kept and the epoch begins with injection held (phase 2); the end of the drain starts the loading
(phase 3); the end of the epoch makes every rod of the epoch FULL_FENCED, raises ROUTE_EPOCH by one modulo 2^32, and
leaves no table waiting to be loaded; then waits that this may end are looked at (pollAll). A rod in FENCING for a
core fence that no command names becomes CORE_FENCED; every other rod and the rest of the state stay.
(01_panel_package_and_rod_mesh.md Fencing) -/
def Obligations.RouteEpochEndsInFullFences : Prop :=
  (∀ (tables : List (Nat × Nat)) (s : State), s.mesh.phase = 1 →
    exec (.routeTablesComputed tables) s = .next { s with mesh := { s.mesh with phase := 2, phaseAt := s.cycle, newTables := tables, epochRods := s.mesh.fencing } }) ∧
  (∀ s : State, s.mesh.phase = 2 →
    exec .routeEpochDrainEnd s = .next { s with mesh := { s.mesh with phase := 3 } }) ∧
  (∀ s : State, s.mesh.phase = 3 →
    ∃ t : State, exec .routeEpochEnd s = .next t.pollAll ∧ (∀ r ∈ s.mesh.epochRods, (t.rod r).st = .fullFenced) ∧
      t.o kROUTE_EPOCH = (s.o kROUTE_EPOCH + 1) % 2 ^ 32 ∧ t.mesh.newTables = [] ∧ t.mesh.epochRods = []) ∧
  (∀ (rod : Nat) (s : State), (s.rod rod).st = .fencing → (s.rod rod).target = 1 → s.runsOn rod = false →
    ∃ t, exec (.coreFenceComplete rod) s = .next t ∧ (t.rod rod).st = .coreFenced ∧ (∀ r, r ≠ rod → t.rod r = s.rod r) ∧
      t = { s with rods := t.rods })

/-- Matrix descriptors are queued in issue order, a CLEAR zeroes its bank, a bad descriptor ends the command: What has
become due on the rod is done first and again afterwards (settleRod). On a rod that then issues, with fewer than four
descriptors queued, a MATMUL, READOUT or CLEAR descriptor that passes its checks becomes the last entry of the matrix
queue, queued now and numbered by the rod's issue count, which rises by one; other rods stay, and so does the state
but for the running command's list of slots read. With four queued nothing is accepted. A CLEAR alone in the queue has
taken its effect 16 cycles after it could begin, and the next event of the rod finds it so: every element of its bank
is +0, the bank's status word is 0, the other bank keeps its elements, and the queue is empty. A descriptor that fails
its checks (for each of the three) is not queued: the rod ends, and a command without a status gets that of the check.
(03_matrix_array.md The matrix descriptor; 03_matrix_array.md Accumulator banks; 03_matrix_array.md Timing) -/
def Obligations.MatrixDescriptorsAreQueued : Prop :=
  (∀ (rod : Nat) (desc : BitVec 512) (draw : DrawDecl) (s : State), let w := s.settleRod rod
    w.issues rod = true → ((w.rod rod).mq.filter (fun e => e.phase = .queued)).length < 4 →
    w.matCheck (w.owner rod) desc = 0 →
    ∀ i, (i = .matmul rod desc draw ∧ mdOp desc = 1 ∨ i = .readout rod desc draw ∧ mdOp desc = 2 ∨
        i = .clear rod desc ∧ mdOp desc = 3) →
      ∃ (t : State) (e : MatOp), exec i s = .next (t.settleRod rod) ∧ (t.rod rod).mq = (w.rod rod).mq ++ [e] ∧
        e.desc = desc ∧ (mdOp desc ≠ 3 → e.draw = draw) ∧ e.phase = .queued ∧ e.accepted = s.cycle ∧
        e.seq = (w.rod rod).issue ∧ (t.rod rod).issue = (w.rod rod).issue + 1 ∧ (∀ r, r ≠ rod → t.rod r = w.rod r) ∧
        t = { w with rods := t.rods, ctxs := t.ctxs }) ∧
  (∀ (rod : Nat) (desc : BitVec 512) (draw : DrawDecl) (s : State),
    4 ≤ (((s.settleRod rod).rod rod).mq.filter (fun e => e.phase = .queued)).length →
    (mdOp desc = 1 → exec (.matmul rod desc draw) s = .next (s.settleRod rod)) ∧
    (mdOp desc = 2 → exec (.readout rod desc draw) s = .next (s.settleRod rod)) ∧
    (mdOp desc = 3 → exec (.clear rod desc) s = .next (s.settleRod rod))) ∧
  (∀ (rod : Nat) (s : State) (e : MatOp) (ecc : Ecc), (s.rod rod).mq = [e] → mdOp e.desc = 3 → e.phase = .queued →
    (∀ x ∈ (s.rod rod).dq, x.going = true) → s.switching rod = false →
    (s.rod rod).chainReads s.cycle (mdBank e.desc) e.seq = false → (s.rod rod).bankFrom e + 16 ≤ s.cycle →
    ∃ t, exec (.bankComplete rod ecc) s = .next t ∧ (t.rod rod).mq = [] ∧
      (∀ i, i < 4096 → tget 0 (t.rod rod).banks (4096 * mdBank e.desc + i) = 0) ∧
      tget 0 (t.rod rod).bsw (mdBank e.desc) = 0 ∧
      (∀ i, i < 4096 → tget 0 (t.rod rod).banks (4096 * (1 - mdBank e.desc) + i)
        = tget 0 (s.rod rod).banks (4096 * (1 - mdBank e.desc) + i)) ∧
      (∀ r, r ≠ rod → t.rod r = s.rod r) ∧ t = { s with rods := t.rods }) ∧
  (∀ (rod : Nat) (desc : BitVec 512) (draw : DrawDecl) (s : State), let w := s.settleRod rod
    w.issues rod = true → ((w.rod rod).mq.filter (fun e => e.phase = .queued)).length < 4 →
    w.matCheck (w.owner rod) desc ≠ 0 →
    (∀ i, (i = .matmul rod desc draw ∧ mdOp desc = 1 ∨ i = .readout rod desc draw ∧ mdOp desc = 2 ∨
        i = .clear rod desc ∧ mdOp desc ≠ 1 ∧ mdOp desc ≠ 2) →
      ∃ t, exec i s = .next t ∧ (t.rod rod).mq = (w.rod rod).mq ∧ (t.rod rod).ended = true ∧
        (∀ c, w.runCmd (w.owner rod) = some c → c.cmd.status = 0 →
          (t.runCmd (w.owner rod)).map (fun c => c.cmd.status) = some (w.matCheck (w.owner rod) desc)) ∧
        t = { w with rods := t.rods, ctxs := t.ctxs }))

/-- A MATMUL accumulates each output element as the ordered sum of its contributions: What has become due on the rod is
done first (settleRod). When the queued MATMUL that may then stream starts and its reads find no uncorrectable word,
each of its M by N output elements (M and N up to 64) becomes the sum, one rounded addition after another in ascending
order, of the contributions of its reduction indices or blocks, onto what the bank held, or onto +0 without ACC; the
other bank's elements stay; the descriptor is streaming from this cycle, the array is occupied for the streaming
cycles of its pairing, and cache, decks and other rods stay. With an uncorrectable word (below the third within 1,000
strokes) it leaves the queue with its bank at +0, the rod ends, and one record, OPC_UNCORR naming the rod, is in the
ring. (03_matrix_array.md Accumulation; 03_matrix_array.md Timing) -/
def Obligations.MatmulAccumulatesInOrder : Prop :=
  ∀ (rod : Nat) (s : State) (e : MatOp), let w := s.settleRod rod
    w.mayStream rod = some e → mdM e.desc ≤ 64 → mdN e.desc ≤ 64 →
    (∀ ecc, ecc ≠ .uncorr → ∃ t, exec (.matmulStreamStart rod ecc) s = .next t ∧
      (∀ m n, m < mdM e.desc → n < mdN e.desc →
        tget 0 (t.rod rod).banks (4096 * mdBank e.desc + 64 * m + n)
          = (elemContribs (w.rod rod).cache e.desc m n).foldl (fun a c => (accAdd a c.1).1)
              (if mdAcc e.desc then tget 0 (w.rod rod).banks (4096 * mdBank e.desc + 64 * m + n) else 0)) ∧
      (∀ i, i < 4096 → tget 0 (t.rod rod).banks (4096 * (1 - mdBank e.desc) + i)
        = tget 0 (w.rod rod).banks (4096 * (1 - mdBank e.desc) + i)) ∧
      (∃ x ∈ (t.rod rod).mq, x.seq = e.seq ∧ x.phase = .streaming ∧ x.start = s.cycle) ∧
      (t.rod rod).streamEnd = s.cycle + mdStream e.desc ∧ (t.rod rod).cache = (w.rod rod).cache ∧
      (∀ r, r ≠ rod → t.rod r = w.rod r) ∧ t = { w with rods := t.rods, ctxs := t.ctxs }) ∧
    ((recent w.stroke 1000 (w.rod rod).opcErrs).length < 2 →
      ∃ t, exec (.matmulStreamStart rod .uncorr) s = .next t ∧ (∀ x ∈ (t.rod rod).mq, x.seq ≠ e.seq) ∧
        (∀ i, i < 4096 → tget 0 (t.rod rod).banks (4096 * mdBank e.desc + i) = 0) ∧ (t.rod rod).ended = true ∧
        t.errs.seq = s.errs.seq + 1 ∧
        (∃ r k, tget none t.errs.ring k = some r ∧ r.cls = 2 ∧ r.code = stOPC_UNCORR ∧ r.rod = rod))

/-- A MATMUL completes after its drain, and a read-out completes after its cycles: What has become due on the rod is done
first and again afterwards (settleRod). The oldest streaming MATMUL, 65 cycles after its streaming ended, without an
uncorrectable accumulator word: with a read-out it holds its result for the read-out, which may begin from now on, and
nothing else of the state changes but its rod; without one it leaves the queue and the command's numeric status word
takes in that of the bank. With an uncorrectable word it leaves the queue with its bank at +0, the rod ends, and one
record, ACC_UNCORR naming the rod, is in the ring. The first read-out that has run its cycles, of which no row has to
wait for a slice or the mesh, leaves the queue: one directed to the carry unit hands it the M by N tile, in row order,
with the tag and index it names; an F32 one to the cache, whose rows do not overlap, has each row of N elements of the
bank at its address, and no other byte of the cache changes. (03_matrix_array.md Accumulator banks; 03_matrix_array.md
Read-out; 03_matrix_array.md Timing) -/
def Obligations.MatrixWorkCompletes : Prop :=
  (∀ (rod : Nat) (s : State) (e : MatOp) (ecc : Ecc), let w := s.settleRod rod
    (w.rod rod).mq.find? (fun x => x.phase = .streaming) = some e →
    e.start + mdStream e.desc + 65 ≤ s.cycle → mdRoEn e.desc = true → ecc ≠ .uncorr →
    ∃ t : State, exec (.bankComplete rod ecc) s = .next (t.settleRod rod) ∧
      (∃ x ∈ (t.rod rod).mq, x.seq = e.seq ∧ x.phase = .held ∧ x.start = s.cycle) ∧
      (t.rod rod).banks = (w.rod rod).banks ∧ (∀ r, r ≠ rod → t.rod r = w.rod r) ∧ t = { w with rods := t.rods }) ∧
  (∀ (rod : Nat) (s : State) (e : MatOp) (c : RunCmd) (ecc : Ecc), let w := s.settleRod rod
    (w.rod rod).mq.find? (fun x => x.phase = .streaming) = some e →
    e.start + mdStream e.desc + 65 ≤ s.cycle → mdRoEn e.desc = false → w.runCmd (w.owner rod) = some c → ecc ≠ .uncorr →
    ∃ t : State, exec (.bankComplete rod ecc) s = .next (t.settleRod rod) ∧ (∀ x ∈ (t.rod rod).mq, x.seq ≠ e.seq) ∧
      (t.runCmd (w.owner rod)).map (fun c => c.cmd.nsw) = some (c.cmd.nsw ||| tget 0 (w.rod rod).bsw (mdBank e.desc)) ∧
      (∀ r, r ≠ rod → t.rod r = w.rod r) ∧ t = { w with rods := t.rods, ctxs := t.ctxs }) ∧
  (∀ (rod : Nat) (s : State) (e : MatOp), let w := s.settleRod rod
    (w.rod rod).mq.find? (fun x => x.phase = .streaming) = some e →
    ∃ t : State, exec (.bankComplete rod .uncorr) s = .next (t.settleRod rod) ∧ (∀ x ∈ (t.rod rod).mq, x.seq ≠ e.seq) ∧
      (∀ i, i < 4096 → tget 0 (t.rod rod).banks (4096 * mdBank e.desc + i) = 0) ∧ (t.rod rod).ended = true ∧
      t.errs.seq = s.errs.seq + 1 ∧
      (∃ r k, tget none t.errs.ring k = some r ∧ r.cls = 2 ∧ r.code = stACC_UNCORR ∧ r.rod = rod)) ∧
  (∀ (rod : Nat) (s : State) (e : MatOp) (ecc : Ecc), let w := s.settleRod rod
    (w.rod rod).mq.find? (fun e => e.readEnds s.cycle) = some e → w.roWaits (w.owner rod) rod e.desc = false → ecc ≠ .uncorr →
    ∃ t : State, exec (.readoutEnd ⟨rod, ecc⟩) s = .next (t.settleRod rod) ∧ (∀ x ∈ (t.rod rod).mq, x.seq ≠ e.seq) ∧
      (mdRoDest e.desc = 2 → ∃ y, t.cy.tiles = w.cy.tiles ++ [y] ∧ y.rod = rod ∧ y.part = w.owner rod ∧
        y.tag = mdRo e.desc % 2 ^ 16 ∧ y.index = nbits (mdRo e.desc) 16 24 ∧ y.m = mdM e.desc ∧ y.n = mdN e.desc ∧
        y.data = (upto (mdM e.desc)).flatMap (fun m => (upto (mdN e.desc)).map (fun n =>
          tget 0 (w.rod rod).banks (4096 * mdBank e.desc + 64 * m + n))) ∧ t.decks = w.decks) ∧
      (mdRoDest e.desc = 0 → cwDst (mdCcw e.desc) = 0 → (mdM e.desc ≤ 1 ∨ 4 * mdN e.desc ≤ mdRoStr e.desc) →
        (∀ m, m < mdM e.desc → mread (t.rod rod).cache (mdRo e.desc + m * mdRoStr e.desc) (4 * mdN e.desc)
          = (upto (mdN e.desc)).flatMap (fun n =>
              leBytes 4 (tget (0 : F32) (w.rod rod).banks (4096 * mdBank e.desc + 64 * m + n)).toNat)) ∧
        (∀ a, (∀ m, m < mdM e.desc → a < mdRo e.desc + m * mdRoStr e.desc ∨
            mdRo e.desc + m * mdRoStr e.desc + 4 * mdN e.desc ≤ a) →
          mget (t.rod rod).cache a = mget (w.rod rod).cache a) ∧ t.decks = w.decks))

/-- Vector descriptors and deck moves are queued in issue order, and refused ones end the command: On a rod that issues,
with fewer than four vector operations queued and no wait on a scalar register, a CHAIN, PERMUTE, SHUFFLE, PACK,
UNPACK, COMPRESS, EXPAND or TLOAD descriptor (each under its own OP, 1 to 8) that passes its checks becomes the last
entry of the vector queue with the scalar registers it names captured, and the issue count rises by one; nothing else
changes. A FILL or SPILL (OP 9, 10) with fewer than eight queued does the same in the deck mover's queue, and what is
due on the rod then happens (settleRod): behind another begun move, in a hard switch, or where an earlier operation
still holds its cache banks, the oldest move does not begin; otherwise it begins; in its own slice it makes no
request; in another rod's, where no packet of it is a SPILL into a ring slot, one VC0 request of the mover for each
packet of at most 4 KiB is outstanding from now. A descriptor that fails its checks is not queued: the rod ends, and a
command without a status gets that of the check. (04_vector_engine.md The chain descriptor; 04_vector_engine.md Cross-
lane operations; 04_vector_engine.md Operand cache; 04_vector_engine.md Checks and faults) -/
def Obligations.VectorDescriptorsAreQueued : Prop :=
  (∀ (rod : Nat) (desc : BitVec 1536) (draw : DrawDecl) (s : State) (i : Instr), s.issues rod = true →
    (s.rod rod).vq.length < 4 → (s.rod rod).regStall desc = false → s.vecCheck (s.owner rod) desc = 0 →
    (i = .chain rod desc draw ∧ vdOp desc = 1 ∨ i = .permute rod desc ∧ vdOp desc = 2 ∨
      i = .shuffle rod desc ∧ vdOp desc = 3 ∨ i = .pack rod desc ∧ vdOp desc = 4 ∨ i = .unpack rod desc ∧ vdOp desc = 5 ∨
      i = .compress rod desc ∧ vdOp desc = 6 ∨ i = .expand rod desc ∧ vdOp desc = 7 ∨ i = .tload rod desc ∧ vdOp desc = 8) →
    ∃ t e, exec i s = .next t ∧ (t.rod rod).vq = (s.rod rod).vq ++ [e] ∧ e.desc = desc ∧ e.accepted = s.cycle ∧
      e.seq = (s.rod rod).issue ∧ e.regs = vdRegs (s.rod rod) desc ∧ (vdOp desc = 1 → e.draw = draw) ∧
      (t.rod rod).issue = (s.rod rod).issue + 1 ∧ (∀ r, r ≠ rod → t.rod r = s.rod r) ∧ t = { s with rods := t.rods }) ∧
  (∀ (rod : Nat) (desc : BitVec 1536) (s : State) (i : Instr), s.issues rod = true → (s.rod rod).dq.length < 8 →
    s.vecCheck (s.owner rod) desc = 0 → (i = .fill rod desc ∧ vdOp desc = 9 ∨ i = .spill rod desc ∧ vdOp desc = 10) →
    ∃ (t : State) (e : DeckMove), exec i s = .next (t.settleRod rod) ∧ (t.rod rod).dq = (s.rod rod).dq ++ [e] ∧ e.desc = desc ∧
      e.accepted = s.cycle ∧ e.seq = (s.rod rod).issue ∧ e.going = false ∧ e.req = [] ∧ e.lost = false ∧
      (t.rod rod).issue = (s.rod rod).issue + 1 ∧
      (∀ r, r ≠ rod → t.rod r = s.rod r) ∧ t = { s with rods := t.rods }) ∧
  (∀ (rod : Nat) (s : State) (e : DeckMove) (rest : List DeckMove),
    let w := s.setRod rod ((s.rod rod).settleAt s.cycle (!s.switching rod))
    let held := (w.rod rod).clash s.cycle e.seq (vdReads e.desc) (vdWrites e.desc)
    (s.rod rod).dq = e :: rest →
    ((e.going = true ∨ s.switching rod = true ∨ held = true) → s.settleRod rod = w) ∧
    (∀ x, e.going = false → s.switching rod = false → held = false →
      s.udPhys (s.owner rod) (vdDeck e.desc) 64 false = some x →
      (x / 2 ^ 29 = rod →
        s.settleRod rod = w.setRod rod { w.rod rod with dq := { e with going := true } :: rest }) ∧
      (x / 2 ^ 29 ≠ rod →
        (vdOp e.desc = 9 ∨ ∀ c ∈ packets4k (vdBytes e.desc), s.ringTouch (s.owner rod) (vdDeck e.desc + c.1) c.2 = []) →
        ∃ e' qs, ((s.settleRod rod).rod rod).dq = e' :: rest ∧ e'.seq = e.seq ∧ e'.desc = e.desc ∧ e'.going = true ∧
          (s.settleRod rod).mesh.vc0 = s.mesh.vc0 ++ qs ∧ qs.map (fun (q : MeshReq) => q.id) = e'.req ∧
          qs.map (fun (q : MeshReq) => (q.addr, q.len)) = (packets4k (vdBytes e.desc)).map (fun c => (vdDeck e.desc + c.1, c.2)) ∧
          (∀ q ∈ qs, q.dst = x / 2 ^ 29 ∧ q.src = rod ∧ q.issued = s.cycle ∧ q.writer = .mover rod e.seq)))) ∧
  (∀ (rod : Nat) (desc : BitVec 1536) (draw : DrawDecl) (s : State) (i : Instr), s.issues rod = true →
    s.vecCheck (s.owner rod) desc ≠ 0 →
    ((i = .chain rod desc draw ∧ (vdOp desc = 1 ∨ vdOp desc = 0 ∨ 10 < vdOp desc) ∨ i = .permute rod desc ∧ vdOp desc = 2 ∨
      i = .shuffle rod desc ∧ vdOp desc = 3 ∨ i = .pack rod desc ∧ vdOp desc = 4 ∨ i = .unpack rod desc ∧ vdOp desc = 5 ∨
      i = .compress rod desc ∧ vdOp desc = 6 ∨ i = .expand rod desc ∧ vdOp desc = 7 ∨ i = .tload rod desc ∧ vdOp desc = 8) ∧
        (s.rod rod).vq.length < 4 ∧ (s.rod rod).regStall desc = false ∨
      (i = .fill rod desc ∧ vdOp desc = 9 ∨ i = .spill rod desc ∧ vdOp desc = 10) ∧ (s.rod rod).dq.length < 8) →
    ∃ t, exec i s = .next t ∧ (t.rod rod).vq = (s.rod rod).vq ∧ (t.rod rod).dq = (s.rod rod).dq ∧ (t.rod rod).ended = true ∧
      (∀ c, s.runCmd (s.owner rod) = some c → c.cmd.status = 0 →
        (t.runCmd (s.owner rod)).map (fun c => c.cmd.status) = some (s.vecCheck (s.owner rod) desc)) ∧
      t = { s with rods := t.rods, ctxs := t.ctxs })

/-- Vector operations start in order and write when they complete; deck moves copy bytes: What has become due on the rod
is done first and, at a completion, again afterwards (settleRod). The CHAIN that may then start (its reads finding at
most corrected words) leaves the queue and runs, due after its cycles. When a running operation is due it leaves the
engine: the cache bytes, masks, table entries and scalar register it computed are written, and the numeric status word
is taken into the command's. The oldest deck move, begun and not lost, when its bytes resolve and nothing of its slice
or packets makes it wait: a FILL from readable upper-deck bytes writes exactly these into the cache and leaves the
rest of the cache; a SPILL to readable words that no closed ring slot bars, none of whose writes the mesh has lost,
writes the cache bytes to the upper deck and leaves every other byte of it. Both leave the mover's queue to the moves
behind them. (04_vector_engine.md Operand cache; 04_vector_engine.md Timing and rates; 04_vector_engine.md Checks and
faults) -/
def Obligations.VectorWorkTakesEffect : Prop :=
  (∀ (rod : Nat) (s : State) (e : VecOp), let w := s.settleRod rod
    w.mayChain rod = some e → vdOp e.desc = 1 →
    ∀ err, (err = .none ∨ err = .corrected) → ∃ t v, exec (.chainStart rod err) s = .next t ∧ (t.rod rod).vrun = some v ∧ v.op = e ∧
      v.done = s.cycle + vecCycles e.desc ∧ (t.rod rod).vq = (w.rod rod).vq.drop 1 ∧ (t.rod rod).cache = (w.rod rod).cache ∧
      (∀ r, r ≠ rod → t.rod r = w.rod r) ∧ t = { w with rods := t.rods, ctxs := t.ctxs }) ∧
  (∀ (rod : Nat) (s : State) (v : VecRun) (c : RunCmd), let w := s.settleRod rod
    (w.rod rod).vrun = some v → v.done ≤ s.cycle → w.runCmd (w.owner rod) = some c →
    ∃ t : State, exec (.chainComplete rod) s = .next (t.settleRod rod) ∧ (t.rod rod).vrun = none ∧
      (t.rod rod).cache = putBytes (w.rod rod).cache v.writes ∧
      (∀ i, (∀ x ∈ v.writes, x.1 ≠ i) → mget (t.rod rod).cache i = mget (w.rod rod).cache i) ∧
      (∀ k x, v.scalar = some (k, x) → tget 0 (t.rod rod).sregs k = x) ∧
      (v.masks = [] → (t.rod rod).masks = (w.rod rod).masks) ∧ (v.lut = [] → (t.rod rod).luts = (w.rod rod).luts) ∧
      (t.runCmd (w.owner rod)).map (fun c => c.cmd.nsw) = some (c.cmd.nsw ||| v.nsw) ∧
      (∀ r, r ≠ rod → t.rod r = w.rod r) ∧ t = { w with rods := t.rods, ctxs := t.ctxs }) ∧
  (∀ (rod : Nat) (s : State) (e : DeckMove) (rest : List DeckMove) (x : Nat), let w := s.settleRod rod
    let p := w.owner rod
    (w.rod rod).dq = e :: rest → e.going = true → e.lost = false → w.moveWaits p rod e = false →
    w.udPhys p (vdDeck e.desc) (vdBytes e.desc) (vdOp e.desc == 10) = some x →
    w.decks.udBadIn x (vdBytes e.desc) = false →
      (vdOp e.desc = 9 → ∃ t : State, exec (.deckMoveComplete rod) s = .next (t.settleRod rod) ∧ (t.rod rod).dq = rest ∧
        mread (t.rod rod).cache (vdDst e.desc) (vdBytes e.desc) = w.decks.udRead x (vdBytes e.desc) ∧
        (∀ a, (a < vdDst e.desc ∨ vdDst e.desc + vdBytes e.desc ≤ a) →
          mget (t.rod rod).cache a = mget (w.rod rod).cache a) ∧
        (∀ r, r ≠ rod → t.rod r = w.rod r) ∧
        t = { w with rods := t.rods, ctxs := t.ctxs, mesh := { w.mesh with vc0 := t.mesh.vc0 } }) ∧
      (vdOp e.desc = 10 → w.ringOk p (vdDeck e.desc) (vdBytes e.desc) = true → (∀ q ∈ w.rodWrites rod, q.gone = false) →
        ∃ t : State, exec (.deckMoveComplete rod) s = .next (t.settleRod rod) ∧ (t.rod rod).dq = rest ∧
          (t.rod rod).cache = (w.rod rod).cache ∧
          t.decks.udRead x (vdBytes e.desc) = mread (w.rod rod).cache (vdAddr e.desc 0) (vdBytes e.desc) ∧
          (∀ a, (a < x ∨ x + vdBytes e.desc ≤ a) → mget t.decks.ud a = mget w.decks.ud a)))

/-- A slice grants its cycles in the pattern deck port, mesh, deck port, reckoner, and idle cycles to the next in it: On a
slice in service: in a deck-port cycle a waiting deck-port write to readable words outside closed ring slots is
granted whoever else waits: its bytes are stored, every other byte of the upper deck stays, and the pattern advances
by one. (A write of a part of a 32-byte word reads that word first, without finding an error.) In the mesh cycle a
waiting mesh read of readable bytes is granted their values and the deck stays. When only the reckoner waits, its read
is granted in any cycle. Which row an access lies in is the model's choice (log entry 17). (05_upper_and_lower_deck.md
Upper-deck organisation) -/
def Obligations.SliceGrantsFollowThePattern : Prop :=
  (∀ (rod : Nat) (q : SliceReq) (mesh reckoner : Option SliceReq) (bs : List Byte) (s : State), rod < 576 →
    (s.rod rod).st ≠ .off → (s.rod rod).st ≠ .fullFenced → tget 0 s.decks.rot rod % 2 = 0 →
    s.sliceWaits rod (some q) = some q → q.data = some bs →
    (q.ecc = .ok ∨ partWords (rod * 2 ^ 29 + q.off) q.len = []) →
    s.physOk (s.owner rod) (rod * 2 ^ 29 + q.off) q.len = true → s.decks.udBadIn (rod * 2 ^ 29 + q.off) q.len = false →
    ∃ t, exec (.sliceAccess rod (some q) mesh reckoner) s = .next t ∧
      t.decks.udRead (rod * 2 ^ 29 + q.off) q.len = bs ∧
      (∀ a, (a < rod * 2 ^ 29 + q.off ∨ rod * 2 ^ 29 + q.off + q.len ≤ a) → mget t.decks.ud a = mget s.decks.ud a) ∧
      t.decks.granted = some (rod, 0, []) ∧ tget 0 t.decks.rot rod = (tget 0 s.decks.rot rod + 1) % 4 ∧
      t = { s with decks := { s.decks with ud := t.decks.ud, granted := t.decks.granted, rot := t.decks.rot } }) ∧
  (∀ (rod : Nat) (q : SliceReq) (deckPort reckoner : Option SliceReq) (s : State), rod < 576 →
    (s.rod rod).st ≠ .off → (s.rod rod).st ≠ .fullFenced → tget 0 s.decks.rot rod % 4 = 1 →
    s.sliceWaits rod (some q) = some q → q.data = none → q.ecc = .ok →
    s.decks.udBadIn (rod * 2 ^ 29 + q.off) q.len = false →
    ∃ t, exec (.sliceAccess rod deckPort (some q) reckoner) s = .next t ∧
      t.decks.granted = some (rod, 1, s.decks.udRead (rod * 2 ^ 29 + q.off) q.len) ∧
      t = { s with decks := { s.decks with granted := t.decks.granted, rot := t.decks.rot } }) ∧
  (∀ (rod : Nat) (q : SliceReq) (s : State), rod < 576 → (s.rod rod).st ≠ .off → (s.rod rod).st ≠ .fullFenced →
    s.sliceWaits rod (some q) = some q → q.data = none → q.ecc = .ok →
    s.decks.udBadIn (rod * 2 ^ 29 + q.off) q.len = false →
    ∃ t, exec (.sliceAccess rod none none (some q)) s = .next t ∧
      t.decks.granted = some (rod, 2, s.decks.udRead (rod * 2 ^ 29 + q.off) q.len) ∧
      t = { s with decks := { s.decks with granted := t.decks.granted, rot := t.decks.rot } })

/-- Deck errors are corrected, recorded or fatal, and zeroing hands over slices and extents that read as zero: The end of
a row's copy takes one spare row and clears the copy and the row's errors; when that was the slice's last one, one
more record says so, once. A lower-deck package that fails short of the seventeenth failure in 1,000 strokes is only
noted; one that stops responding is marked failed, and the fatal-device state holds. Scrubbing: a corrected lower-deck
word is counted, a corrected upper-deck word is counted on its rod; an uncorrectable lower-deck word is marked
unreadable with one more record, and so is an upper-deck word outside the server's tables. The end of a slice's
zeroing leaves every byte of the slice zero and every byte outside it alone; a zero-fill that the firmware begins for
an ACTIVE partition bars a free extent (owner 0xFE); the end of an extent's zero-fill for a partition makes the extent
read as zeros, owned by the partition, and valid at its lowest free local number. That the command begins the fill for
a partition is the model's choice (log entry 63). (05_upper_and_lower_deck.md Errors; 05_upper_and_lower_deck.md
Upper-deck addresses; 05_upper_and_lower_deck.md Lower-deck organisation) -/
def Obligations.DeckErrorsAndZeroing : Prop :=
  (∀ (rod row : Nat) (s : State), tget false s.decks.rowCopy (rod * 2 ^ 32 + row) = true →
    (tget 0 s.decks.spareUsed rod + 1 < Config.spareRows ∨ tget false s.decks.sparesOut rod = true) →
    ∃ t, exec (.rowSpareCopyEnd rod row) s = .next t ∧ tget false t.decks.rowCopy (rod * 2 ^ 32 + row) = false ∧
      tget [] t.decks.rowErrs (rod * 2 ^ 32 + row) = [] ∧ tget 0 t.decks.spareUsed rod = tget 0 s.decks.spareUsed rod + 1 ∧
      t = { s with decks := { s.decks with rowCopy := t.decks.rowCopy, rowErrs := t.decks.rowErrs, spareUsed := t.decks.spareUsed } }) ∧
  (∀ (rod row : Nat) (s : State), tget false s.decks.rowCopy (rod * 2 ^ 32 + row) = true →
    Config.spareRows ≤ tget 0 s.decks.spareUsed rod + 1 → tget false s.decks.sparesOut rod = false →
    ∃ t, exec (.rowSpareCopyEnd rod row) s = .next t ∧ tget false t.decks.rowCopy (rod * 2 ^ 32 + row) = false ∧
      tget 0 t.decks.spareUsed rod = tget 0 s.decks.spareUsed rod + 1 ∧ tget false t.decks.sparesOut rod = true ∧
      t.errs.seq = s.errs.seq + 1 ∧ t.decks.ud = s.decks.ud) ∧
  (∀ (pkg : Nat) (s : State), pkg < 32 → s.boot.stage = 6 → tget 0 s.decks.pkg pkg = 0 →
    (recent s.stroke 1000 (tget [] s.decks.pkgErrs pkg)).length < 16 →
    ∃ t, exec (.ldPackageFail pkg false) s = .next t ∧
      tget [] t.decks.pkgErrs pkg = recent s.stroke 1000 (tget [] s.decks.pkgErrs pkg) ++ [s.stroke] ∧
      t = { s with decks := { s.decks with pkgErrs := t.decks.pkgErrs } }) ∧
  (∀ (pkg : Nat) (s : State), pkg < 32 → s.boot.stage = 6 → tget 0 s.decks.pkg pkg = 0 →
    ∃ t, exec (.ldPackageFail pkg true) s = .next t ∧ tget 0 t.decks.pkg pkg = 1 ∧ t.fatal = true) ∧
  (∀ (addr : Nat) (s : State), addr < 2 ^ 40 → exec (.patrolScrub true addr .corrected) s =
    .next { s with decks := { s.decks with ldCorrected := s.decks.ldCorrected + 1 } }) ∧
  (∀ (addr : Nat) (s : State), addr < 2 ^ 40 →
    ∃ t, exec (.patrolScrub true addr .uncorr) s = .next t ∧ tget false t.decks.ldBad (addr / 64) = true ∧
      t.errs.seq = s.errs.seq + 1 ∧ t.decks.ld = s.decks.ld) ∧
  (∀ (addr : Nat) (s : State), addr / 2 ^ 29 < 576 → addr % 2 ^ 29 < sliceBytes →
    ∃ t, exec (.patrolScrub false addr .corrected) s = .next t ∧
      (t.rod (addr / 2 ^ 29)).corrected = (s.rod (addr / 2 ^ 29)).corrected + 1 ∧ t.decks.ud = s.decks.ud) ∧
  (∀ (addr : Nat) (s : State), addr / 2 ^ 29 < 576 → addr % 2 ^ 29 < sliceBytes → s.inTables addr 32 = false →
    ∃ t, exec (.patrolScrub false addr .uncorr) s = .next t ∧ tget false t.decks.udBad (addr / 32) = true ∧
      t.errs.seq = s.errs.seq + 1 ∧ t.decks.ud = s.decks.ud ∧ t.rods = s.rods) ∧
  (∀ (rod : Nat) (s : State), tget 0 s.decks.zeroing rod ≠ 0 →
    ∃ t, exec (.sliceZeroingEnd rod) s = .next t ∧ tget 0 t.decks.zeroing rod = 0 ∧
      (∀ a, rod * 2 ^ 29 ≤ a → a < (rod + 1) * 2 ^ 29 → mget t.decks.ud a = 0) ∧
      (∀ a, (a < rod * 2 ^ 29 ∨ (rod + 1) * 2 ^ 29 ≤ a) → mget t.decks.ud a = mget s.decks.ud a) ∧
      t = { s with decks := { s.decks with ud := t.decks.ud, udBad := t.decks.udBad, zeroing := t.decks.zeroing } }) ∧
  (∀ (ext o : Nat) (s : State), ext < 1023 → o < 16 → tget 0xFF s.decks.owner ext = 0xFF → s.o (kPT_STATE o) = 2 →
    ∃ t, exec (.extentZeroFillEnd ⟨ext, o, true⟩) s = .next t ∧ tget 0xFF t.decks.owner ext = 0xFE ∧
      t.decks.filling = s.decks.filling ++ [(ext, o)] ∧
      t = { s with decks := { s.decks with owner := t.decks.owner, filling := t.decks.filling } }) ∧
  (∀ (ext q o j : Nat) (s : State), s.decks.filling.find? (fun f => f.1 == ext) = some (ext, o) → o < 16 → ext < 1024 →
    (upto 1024).find? (fun j => !bit (tget 0 (s.part o).extents j) 15) = some j →
    ∃ t, exec (.extentZeroFillEnd ⟨ext, q, false⟩) s = .next t ∧ tget 0xFF t.decks.owner ext = o ∧
      (∀ a, ext * 2 ^ 30 ≤ a → a < (ext + 1) * 2 ^ 30 → t.decks.ldByte a = 0) ∧
      bit (tget 0 (t.part o).extents j) 15 = true ∧ bits (tget 0 (t.part o).extents j) 9 0 = ext ∧
      (∀ i, i ≠ j → tget 0 (t.part o).extents i = tget 0 (s.part o).extents i) ∧ t.decks.ud = s.decks.ud ∧
      (∀ f ∈ t.decks.filling, f.1 ≠ ext) ∧ t = { s with decks := t.decks, parts := t.parts })

/-- Stages are queued, checked before any byte moves, moved, and counted into their fence; fence waits answer the count: A
stage pushed by a rod that issues, with fewer than 256 queued, is the last of its partition's queue and has a number
of its own; with 256 queued the rod waits with it. The first queued stage starts when fewer than 16 are in progress
and it passes its checks: unless it then meets a status, each of its units whose lower-deck address resolves is in the
queue of the stager of its package's edge group or on its way as a VC2 write, and both decks' bytes stay; one that
fails the checks moves nothing. The acknowledgement of a 64-byte packet of the only stage of a queue, none of whose
rows is being zeroed or copied: of a LOAD, from a readable unit into a word that no closed ring slot bars, it leaves
the unit's bytes in the upper deck and every other byte of it; of a STORE, from readable bytes, it leaves them in the
lower deck and the upper deck as it was; and if the mesh brings the acknowledgement back, no write of its number is
outstanding. When the only stage of a queue ends with no unit left and no rod waiting to push, its fence counts it
modulo 2^32 and the decks stay. A wait on a fence value that the counter has reached returns the counter; any other
wait holds the rod. What waits on these events is looked at after them (pollAll). That a counter has reached a value
when the difference modulo 2^32 is below 2^31 is the model's reading (log entry 16). (05_upper_and_lower_deck.md
Staging) -/
def Obligations.StagesMoveAndCount : Prop :=
  (∀ (rod : Nat) (desc : BitVec 512) (s : State), s.issues rod = true →
    ((s.part (s.owner rod)).stageQ.length < 256 →
      ∃ t e, exec (.stagePush rod desc) s = .next t ∧ (t.part (s.owner rod)).stageQ = (s.part (s.owner rod)).stageQ ++ [e] ∧
        e.id = s.mesh.nextId ∧ e.desc = desc ∧ e.phase = 0 ∧ e.cmd = none ∧ t.mesh.nextId = s.mesh.nextId + 1 ∧
        (∀ p, p ≠ s.owner rod → t.part p = s.part p) ∧
        t = { s with parts := t.parts, mesh := { s.mesh with nextId := t.mesh.nextId } }) ∧
    (256 ≤ (s.part (s.owner rod)).stageQ.length →
      ∃ t, exec (.stagePush rod desc) s = .next t ∧ (t.rod rod).wait = .stagePush desc ∧ t.issues rod = false ∧
        (∀ r, r ≠ rod → t.rod r = s.rod r) ∧ t = { s with rods := t.rods })) ∧
  (∀ (part : Nat) (finds : List (Nat × LdEcc)) (s : State) (e : Stage), s.fatal = false →
    ((s.part part).stageQ.filter (fun x => x.phase == 1)).length < 16 →
    (s.part part).stageQ.find? (fun x => x.phase == 0) = some e →
      (s.stageCheck part e.desc = 0 → ∃ t : State, exec (.stageStart ⟨part, finds⟩) s = .next t.pollAll ∧
        (∃ y ∈ (t.part part).stageQ, y.id = e.id ∧ y.phase = 1) ∧
        ((∀ y ∈ (t.part part).stageQ, y.id = e.id → y.fail = 0) →
          ∀ c ∈ sgPackets e.desc, ∀ la, s.ldPhys part (sgLd e.desc c.1 + c.2.1) = some la →
            (∃ u ∈ (t.stager (ldGroup la)).q, u.part = part ∧ u.id = e.id ∧ u.row = c.1 ∧ u.off = c.2.1 ∧ u.len = c.2.2) ∨
            (∃ q ∈ t.mesh.vc2, q.writer = .stager part e.id c.1 c.2.1 c.2.2)) ∧
        t.decks.ud = s.decks.ud ∧ t.decks.ld = s.decks.ld ∧
        t = { s with parts := t.parts, mesh := t.mesh, decks := t.decks, rods := t.rods }) ∧
      (s.stageCheck part e.desc ≠ 0 → ∃ t : State, exec (.stageStart ⟨part, finds⟩) s = .next t.pollAll ∧ t.decks = s.decks)) ∧
  (∀ (part id : Nat) (s : State) (e : Stage) (r : MeshReq) (row off x y : Nat), (s.part part).stageQ = [e] → e.phase = 1 →
    sgRowBytes e.desc % 64 = 0 → off % 64 = 0 → off < sgRowBytes e.desc → (sgLd e.desc row + off) % 64 = 0 →
    s.mesh.vc2.find? (fun q => q.id == id) = some r → r.held = false → r.gone = false → r.writer = .stager part e.id row off 64 →
    s.unitBusy part e.id row off 64 = false → (∀ q ∈ s.mesh.vc2, q.id < s.mesh.nextId) →
    s.udPhys part (sgUd e.desc row + off) 64 (sgOp e.desc == 1) = some x → s.ldPhys part (sgLd e.desc row + off) = some y →
    s.decks.udBadIn x 64 = false →
      (sgOp e.desc = 1 → s.ringOk part (sgUd e.desc row + off) 64 = true → s.ldBadIn part (sgLd e.desc row + off) 64 = false →
        ∃ t : State, exec (.vc2Acknowledgement id) s = .next t.pollAll ∧
          t.decks.udRead x 64 = s.ldRead part (sgLd e.desc row + off) 64 ∧
          (∀ a, (a < x ∨ x + 64 ≤ a) → mget t.decks.ud a = mget s.decks.ud a) ∧ t.decks.ld = s.decks.ld ∧
          (∀ way, s.fate r.dst r.src s.cycle 64 = .ok way → ∀ q ∈ t.mesh.vc2, q.id ≠ id)) ∧
      (sgOp e.desc = 2 → ∃ t : State, exec (.vc2Acknowledgement id) s = .next t.pollAll ∧
          t.decks.ud = s.decks.ud ∧ (∀ i, i < 64 → t.decks.ldByte (y + i) = mget s.decks.ud (x + i)) ∧
          (∀ way, s.fate r.dst r.src s.cycle 64 = .ok way → ∀ q ∈ t.mesh.vc2, q.id ≠ id))) ∧
  (∀ (part id : Nat) (s : State) (e : Stage), (s.part part).stageQ = [e] → e.id = id → e.phase = 1 → e.cmd = none →
    (∀ r ∈ s.mesh.vc2, ∀ a b c, r.writer ≠ .stager part id a b c) →
    (∀ g ∈ s.decks.stagers, ∀ u ∈ g.2.q, u.part = part → u.id ≠ id) →
    (∀ r d, (s.rod r).wait ≠ .stagePush d) →
    ∃ t : State, exec (.stageEnd part id) s = .next t.pollAll ∧ (t.part part).stageQ = [] ∧
      tget 0 (t.part part).fences (sgFence e.desc) = (tget 0 (s.part part).fences (sgFence e.desc) + 1) % 2 ^ 32 ∧
      t.decks = s.decks) ∧
  (∀ (rod fence value : Nat) (s : State), s.issues rod = true → fence < 64 →
    exec (.stageFenceWait rod fence value) s = .next (s.setRod rod
      (if fenceMet (tget 0 (s.part (s.owner rod)).fences fence) value then
        { s.rod rod with ret := tget 0 (s.part (s.owner rod)).fences fence }
       else { s.rod rod with wait := .fence fence value, waitStrokes := 0, waitSince := s.ns })))

/-- Pairings form, take and lose students, close and become free: By a path that may write, in its turn behind the ring's
requests that reached the firmware earlier (ringBefore): FORM of a FREE pairing that passes the checks makes it ACTIVE
with an empty ring whose counters are 0 and gives its students the indices in ascending partition number; FORM that
fails a check reports that status and changes nothing else. CLOSE of an ACTIVE, DRAINING or BROKEN pairing makes it
CLOSING. ATTACH that passes its checks is held pending and nothing else changes; DETACH of the pending partition drops
it, and DETACH of a student of an ACTIVE pairing frees the student's index. A CLOSING pairing that no rod waits on,
with no FORM pending, becomes FREE without records or students. All that succeed report 0; what waits on a CLOSE, a
DETACH or a freed pairing is looked at after it (pollAll). (06_tally_and_distillation.md Pairings;
06_tally_and_distillation.md Pre-emption and partners that leave) -/
def Obligations.PairingsFormAndClose : Prop :=
  (∀ (path : Path) (n : Nat) (s : State), let v := s.ringBefore path
    n < 8 → v.dictUp = true → v.mayWrite path = true → v.tyState n = tyFREE → v.formCheck n = 0 →
    ∃ t, exec (.form path n) s = .next t ∧ t.tyState n = tyACTIVE ∧ (t.pairing n).recs = [] ∧
      (t.pairing n).students = (setBits (v.o (kTY_STUDENTS n)) 16).zipIdx.map (fun q => (q.2, q.1 + 1)) ∧
      t.o (kTY_SEQ_PUBLISHED n) = 0 ∧ t.o (kTY_SEQ_RELEASED n) = 0 ∧ tget 0 t.status (pathCode path) = 0 ∧
      t.decks = v.decks ∧ t.rods = v.rods) ∧
  (∀ (path : Path) (n : Nat) (s : State), let v := s.ringBefore path
    n < 8 → v.dictUp = true → v.mayWrite path = true → v.tyState n = tyFREE →
    v.formCheck n ≠ 0 → exec (.form path n) s = .next (v.report path (v.formCheck n))) ∧
  (∀ (path : Path) (n : Nat) (s : State), let v := s.ringBefore path
    n < 8 → v.dictUp = true → v.mayWrite path = true →
    (v.tyState n = tyACTIVE ∨ v.tyState n = tyDRAINING ∨ v.tyState n = tyBROKEN) →
    ∃ t : State, exec (.close path n) s = .next t.pollAll ∧ t.tyState n = tyCLOSING ∧ tget 0 t.status (pathCode path) = 0) ∧
  (∀ (path : Path) (n p : Nat) (s : State), let v := s.ringBefore path
    n < 8 → v.dictUp = true → v.mayWrite path = true → v.tyState n = tyACTIVE → v.attachCheck n p = 0 →
    exec (.attach path n p) s = .next ((v.setPairing n { v.pairing n with attach := p + 1 }).report path 0)) ∧
  (∀ (path : Path) (n p : Nat) (s : State), let v := s.ringBefore path
    n < 8 → v.dictUp = true → v.mayWrite path = true → v.tyState n = tyACTIVE → (v.pairing n).attach = p + 1 →
    exec (.detach path n p) s = .next ((v.setPairing n { v.pairing n with attach := 0 }).report path 0).pollAll) ∧
  (∀ (path : Path) (n p i : Nat) (s : State), let v := s.ringBefore path
    n < 8 → v.dictUp = true → v.mayWrite path = true → v.tyState n = tyACTIVE →
    (v.pairing n).attach ≠ p + 1 → v.studentIdx n p = some i →
    ∃ t : State, exec (.detach path n p) s = .next t.pollAll ∧ tget 0 (t.pairing n).students i = 0 ∧
      tget 0 t.status (pathCode path) = 0) ∧
  (∀ (n : Nat) (s : State), s.tyState n = tyCLOSING → (∀ r, r < 576 → tallyWait n (s.rod r).wait = false) →
    (∀ e ∈ s.pend, ¬(e.kind = 6 ∧ e.inst = n)) →
    exec (.pairingFree n) s = .next ((s.setPairing n { stats := (s.pairing n).stats, loss := (s.pairing n).loss }).setO
      (kTY_STATE n) tyFREE).pollAll)

/-- Rebalancing moves one frame, by way of zeroing, or is abandoned: A REBALANCE command (either direction), in its turn
among the accesses of its path, for an ACTIVE pairing without a move, naming a student and a frame that fits, is
accepted as pending and nothing else changes. Once it is draining, every record up to its END_OF_STEP is released and
no command of either partition is running or switched out, the frame is marked as zeroing, the operand caches of its
rods are empty, the donor still lists it, and the pairing is MOVING. The end of the move takes the frame from the
donor, gives it to the recipient and counts one move; without effects held during the move the pairing is ACTIVE
again. A drain that has lasted TY_REBAL_LIMIT strokes is abandoned: ACTIVE, no move, one more record. What waits on
these steps of a move is looked at after them (pollAll). (06_tally_and_distillation.md Frame rebalancing) -/
def Obligations.RebalancingMovesOneFrame : Prop :=
  (∀ (path : Path) (n f p : Nat) (toStudent : Bool) (i : Instr) (s : State), let v := s.ringBefore path
    n < 8 → v.dictUp = true → v.mayWrite path = true → v.tyState n = tyACTIVE → (v.pairing n).move = none →
    (v.studentIdx n p).isSome = true → v.moveFits n toStudent f p = true →
    (i = .rebalanceToStudent path n f p ∧ toStudent = true ∨ i = .rebalanceToTeacher path n f p ∧ toStudent = false) →
    exec i s = .next ((v.setPairing n { v.pairing n with move := some { toStudent := toStudent, frame := f, student := p, eos := 0, strokeB := 0, movingAt := 0 } }).report path 0)) ∧
  (∀ (n : Nat) (m : Move) (s : State), n < 8 → (s.moveEnds n m).1 < 16 → (s.pairing n).move = some m →
    s.tyState n = tyDRAINING → (∀ r ∈ (s.pairing n).recs, seqDist r.seq m.eos ≤ 0 → r.released = true) →
    s.anyRun (s.moveEnds n m).1 = false → s.anyRun (s.moveEnds n m).2 = false →
    ∃ t : State, exec (.rebalMoving n) s = .next t.pollAll ∧ t.tyState n = tyMOVING ∧
      t.frames (s.moveEnds n m).1 = s.frames (s.moveEnds n m).1 ∧
      tget 0xFF t.frameOwner m.frame = 0xFE ∧ (∀ r ∈ frameRods m.frame, (t.rod r).cache = [])) ∧
  (∀ (n : Nat) (m : Move) (s : State), n < 8 → (s.moveEnds n m).1 < 16 → (s.moveEnds n m).2 < 16 →
    (s.pairing n).move = some m → s.tyState n = tyMOVING →
    ∃ t : State, exec (.rebalMoveComplete n) s = .next t.pollAll ∧
      t.frames (s.moveEnds n m).2 = s.frames (s.moveEnds n m).2 ||| 2 ^ m.frame ∧
      ((s.moveEnds n m).1 ≠ (s.moveEnds n m).2 →
        t.frames (s.moveEnds n m).1 = s.frames (s.moveEnds n m).1 ^^^ 2 ^ m.frame) ∧
      tget 0xFF t.frameOwner m.frame = (s.moveEnds n m).2 ∧
      t.o (kTY_REBAL_COUNT n) = min (s.o (kTY_REBAL_COUNT n) + 1) (2 ^ 32 - 1) ∧
      ((s.pairing n).lostHeld = [] → (s.pairing n).closeHeld = false → (∀ e ∈ s.pend, e.kind ≠ 7) →
        t.tyState n = tyACTIVE ∧ (t.pairing n).move = none)) ∧
  (∀ (n : Nat) (m : Move) (s : State), (s.pairing n).move = some m → s.tyState n = tyDRAINING →
    m.strokeB + s.o (kTY_REBAL_LIMIT n) ≤ s.stroke →
    ∃ t : State, exec (.tyRebalAbandoned n) s = .next t.pollAll ∧ t.tyState n = tyACTIVE ∧ (t.pairing n).move = none ∧
      t.errs.seq = s.errs.seq + 1)

/-- Records are reserved, published part by part, and published whole with their header: For the teacher's bound context,
not after its END_OF_STEP, with no reservation that still lacks PUBLISH calls TY_LEAD or more behind and no ACQUIRE
waiting: ACQUIRE with a free slot reserves the next number, which advances modulo 2^32, and returns it with its slot's
address; without a free slot the rod waits for it. A waiting ACQUIRE returns the same way once its slot is free. A
PUBLISH call on an open record of the command, within the sequence limit and repeating the fields of earlier calls,
adds one part and its status word, and with the last part the record awaits its header. The header write of such a
record whose writes are visible publishes it: its mask is that of the attached students it names (but for those that
joined after its step ended), the 64 header bytes in the teacher's slot carry its number, step, tokens and status, and
END_OF_STEP ends further ACQUIREs of the command (log entry 3: how a call answers its program is the model's own
encoding). (06_tally_and_distillation.md Tally operations and credits; 06_tally_and_distillation.md The ring and its
records) -/
def Obligations.RecordsArePublishedWhole : Prop :=
  (∀ (rod n : Nat) (c : RunCmd) (s : State), s.issues rod = true → s.tallyCaller rod = some (n, none) →
    s.runCmd (s.owner rod) = some c → s.resident (s.owner rod) = 0 → c.ended = false →
    (∀ k ∈ s.partRods (s.owner rod), acquireWait n (s.rod k).wait = false) → (s.pairing n).nextSeq < 2 ^ 32 →
    (∀ q ∈ c.reserved, ∀ r, (s.pairing n).rec? q = some r → r.phase = 0 →
      -(s.o (kTY_LEAD n) : Int) < seqDist q (s.pairing n).nextSeq) →
    s.tyState n ≠ tyBROKEN → s.tyState n ≠ tyCLOSING →
      (s.slotFree n (s.pairing n).nextSeq = true → ∃ t, exec (.acquire rod) s = .next t ∧
        (t.pairing n).nextSeq = ((s.pairing n).nextSeq + 1) % 2 ^ 32 ∧
        (∃ r ∈ (t.pairing n).recs, r.seq = (s.pairing n).nextSeq ∧ r.phase = 0 ∧ r.calls = 0) ∧
        (t.rod rod).ret = tallyRet 0 (s.pairing n).nextSeq (s.slotAddr n (s.pairing n).nextSeq) ∧
        (t.rod rod).wait = .none ∧ t.decks = s.decks) ∧
      (s.slotFree n (s.pairing n).nextSeq = false → ∃ t, exec (.acquire rod) s = .next t ∧
        (t.rod rod).wait = .acquire n (s.pairing n).nextSeq ∧ (t.pairing n).nextSeq = (s.pairing n).nextSeq ∧
        t.decks = s.decks)) ∧
  (∀ (rod n : Nat) (s : State), (s.partRods (s.o (kTY_TEACHER n))).find? (fun r => decide ((s.rod r).wait = .acquire n (s.pairing n).nextSeq)) = some rod →
    s.resident (s.o (kTY_TEACHER n)) = 0 → (s.runCmd (s.o (kTY_TEACHER n))).isSome = true → s.tyState n ≠ tyFREE →
    s.slotFree n (s.pairing n).nextSeq = true →
    ∃ t, exec (.acquireSlotFree n) s = .next t ∧ (t.rod rod).wait = .none ∧
      (t.rod rod).ret = tallyRet 0 (s.pairing n).nextSeq (s.slotAddr n (s.pairing n).nextSeq) ∧
      (t.pairing n).nextSeq = ((s.pairing n).nextSeq + 1) % 2 ^ 32) ∧
  (∀ (rod n : Nat) (call : PublishCall) (c : RunCmd) (r : Record) (s : State), s.issues rod = true →
    s.tallyCaller rod = some (n, none) → s.runCmd (s.owner rod) = some c → s.resident (s.owner rod) = 0 →
    s.tyState n ≠ tyBROKEN → s.tyState n ≠ tyCLOSING → call.seq ∈ c.reserved →
    (s.pairing n).rec? call.seq = some r → r.phase = 0 → (∀ f, r.fields = some f → sameFields f call = true) →
    (call.feat = true → ∃ f ∈ s.features n, f.2.1 ≠ 0) → call.position + call.tokens ≤ 131072 →
    ∃ t r', exec (.publish rod call) s = .next t ∧ (t.pairing n).rec? call.seq = some r' ∧ r'.calls = r.calls + 1 ∧
      r'.nsw = r.nsw ||| call.nsw ∧ r'.fields = some (r.fields.getD call) ∧
      r'.phase = (if call.parts ≤ r.calls + 1 then 1 else 0) ∧ (∀ m, m ≠ n → t.pairing m = s.pairing m) ∧
      t = { s with pairings := t.pairings }) ∧
  (∀ (n seq : Nat) (c : PublishCall) (r : Record) (s : State), (s.pairing n).rec? seq = some r → r.fields = some c →
    r.phase = 1 → s.writesVisible n r = true →
    ∃ (t : State) (r' : Record), exec (.publishHeaderWrite n seq) s = .next t.pollAll ∧ (t.pairing n).rec? seq = some r' ∧ r'.phase = 2 ∧
      r'.pubMask = (((s.pairing n).members.map (·.1)).filter (fun i => c.mask.testBit i && !r.gone.contains i)) ∧
      (∀ x, s.udPhys (s.o (kTY_TEACHER n)) (s.slotAddr n seq) 64 false = some x →
        ∃ h : RecHeader, t.decks.udRead x 64 = h.bytes ∧ h.seq = seq ∧ h.step = c.step ∧ h.tokens = c.tokens ∧
          h.status = r.nsw ∧ h.eos = c.eos ∧ h.stroke = s.stroke) ∧
      (∀ k, (s.ctx (s.o (kTY_TEACHER n)) 0).run = some k → seq ∈ k.reserved → c.eos = true →
        ∃ k', (t.ctx (s.o (kTY_TEACHER n)) 0).run = some k' ∧ k'.ended = true))

/-- A student waits for a record, holds it, works on it and releases it: For a student's bound context in a pairing
neither CLOSING nor BROKEN, with no held record TY_NREC minus TY_LEAD or more behind: WAIT on a record it has not
finished with, within range: a VOID record answers VOID, one published without this student's bit answers SKIP, one
with it answers READY with its address and a hold; an unpublished one makes the rod wait. A waiting WAIT returns READY
the same way. RELEASE of a held record with the last part ends the student's hold and clears its bit. The loss kernel,
with tensor scales that R48 allows, on a held record that is not bad leaves one gradient row and one hidden-state
gradient per token, and one projection gradient per vocabulary entry, on the rod and adds one contribution for the
record to the pairing's step sums; on a bad record it counts TY_BAD_RECORDS. (06_tally_and_distillation.md Tally
operations and credits; 06_tally_and_distillation.md The vocabulary loss) -/
def Obligations.StudentsHoldRecords : Prop :=
  (∀ (rod n i seq : Nat) (c : RunCmd) (s : State), s.issues rod = true → s.tallyCaller rod = some (n, some i) →
    s.runCmd (s.owner rod) = some c → s.resident (s.owner rod) = 0 →
    (∀ y ∈ c.holds, -((s.o (kTY_NREC n) - s.o (kTY_LEAD n) : Nat) : Int) < seqDist y seq) →
    seq ∉ tget [] (s.pairing n).seen i → -(s.o (kTY_NREC n) : Int) ≤ seqDist seq (s.pairing n).nextSeq →
    seqDist seq (s.pairing n).nextSeq ≤ (s.o (kTY_NREC n) : Int) - 2 → s.tyState n ≠ tyCLOSING → s.tyState n ≠ tyBROKEN →
      (∀ r, (s.pairing n).rec? seq = some r → r.phase = 2 →
        (r.isVoid = true → ∃ t, exec (.wait rod seq) s = .next t ∧ (t.rod rod).ret = tallyRet 2 r.seq 0 ∧
          (t.rod rod).wait = .none ∧ t.decks = s.decks) ∧
        (r.isVoid = false → i ∉ r.pubMask → ∃ t, exec (.wait rod seq) s = .next t ∧
          (t.rod rod).ret = tallyRet 1 r.seq 0 ∧ (t.rod rod).wait = .none ∧ t.decks = s.decks) ∧
        (r.isVoid = false → i ∈ r.pubMask → ∃ t r', exec (.wait rod seq) s = .next t ∧
          (t.rod rod).ret = tallyRet 0 r.seq (s.slotAddrFor n i r.seq) ∧ (t.rod rod).wait = .none ∧
          (t.pairing n).rec? seq = some r' ∧ i ∈ r'.holds ∧ t.decks = s.decks)) ∧
      ((∀ r, (s.pairing n).rec? seq = some r → r.phase ≠ 2) → ∃ t, exec (.wait rod seq) s = .next t ∧
        (t.rod rod).wait = .wait n seq ∧ t.decks = s.decks)) ∧
  (∀ (rod n i seq : Nat) (r : Record) (s : State), (s.rod rod).wait = .wait n seq →
    (s.pairing n).rec? seq = some r → r.phase = 2 → r.isVoid = false → i ∈ r.pubMask → s.studentIdx n (s.owner rod) = some i →
    ∃ t, exec (.waitRecordPublished rod) s = .next t ∧ (t.rod rod).wait = .none ∧
      (t.rod rod).ret = tallyRet 0 r.seq (s.slotAddrFor n i r.seq) ∧ t.decks = s.decks) ∧
  (∀ (rod n i seq parts : Nat) (c : RunCmd) (r : Record) (s : State), s.issues rod = true →
    s.tallyCaller rod = some (n, some i) → s.runCmd (s.owner rod) = some c → s.resident (s.owner rod) = 0 → seq ∈ c.holds →
    (s.pairing n).rec? seq = some r →
    ((tget (0, 0) r.rel i).1 = 0 ∨ (tget (0, 0) r.rel i).2 = parts) → parts ≤ (tget (0, 0) r.rel i).1 + 1 →
    s.tyState n ≠ tyCLOSING → s.tyState n ≠ tyBROKEN →
    ∃ (t : State) (r' : Record), exec (.release rod seq parts) s = .next t.pollAll ∧ (t.pairing n).rec? seq = some r' ∧ i ∉ r'.holds ∧ i ∉ r'.mask ∧
      t.decks = s.decks) ∧
  (∀ (rod n i a : Nat) (call : KernelCall) (c : RunCmd) (r : Record) (f : PublishCall) (s : State), s.issues rod = true →
    s.tallyCaller rod = some (n, some i) → s.runCmd (s.owner rod) = some c → s.resident (s.owner rod) = 0 →
    call.seq ∈ c.holds → (s.pairing n).rec? call.seq = some r → r.fields = some f →
    s.udPhys (s.owner rod) (s.slotAddrFor n i call.seq) 64 false = some a → s.tyState n ≠ tyCLOSING → s.tyState n ≠ tyBROKEN →
    scaleOk call.tsH = true → scaleOk call.tsW = true → (s.tyStream n = true → scaleOk call.tsT = true) →
    ∃ t, exec (.lossKernel rod call) s = .next t ∧ (t.rod rod).grad.length = f.tokens ∧
      (t.rod rod).gradHidden.length = f.tokens ∧ (t.rod rod).gradProj.length = s.o (kTY_VOCAB n) ∧ t.decks = s.decks ∧
      (s.recordBad n a r f = false → ∃ kl ft, (i, f.seq, kl, ft) ∈ (t.pairing n).contrib) ∧
      (s.recordBad n a r f = true → t.o (kTY_BAD_RECORDS n) = min (s.o (kTY_BAD_RECORDS n) + 1) (2 ^ 32 - 1)))

/-- Long tally waits are recorded, then end their command; harvest copies captured records in order: A tally wait, on a
rod or switched out with the bound context, that has reached TY_STALL_STROKES (not 0) without a record yet is marked
and recorded once, and the wait goes on; one that has reached TY_ABORT_STROKES (not 0) ends, and the rod's program
with it, and a command without a status gets TY_TIMEOUT. By a path that may write, in its turn: TY_HV_ENABLE 1 with
settings that fit starts the harvest with an empty buffer at HEAD 0, 0 clears it, and a value above 1 is refused with
the path's invalid-parameter status. The oldest captured record, when the region has room for it and it is readable,
is copied from the buffer to the region at HEAD, which advances by its size, leaves the buffer and is counted.
(06_tally_and_distillation.md Pre-emption and partners that leave; 06_tally_and_distillation.md Harvest mode) -/
def Obligations.TallyWaitsEndAndHarvestCopies : Prop :=
  (∀ (rod n : Nat) (r : Rod) (s : State), s.tallyWaiter rod = some r → waitPairing r.wait = some n →
    s.o (kTY_STALL_STROKES n) ≠ 0 → s.o (kTY_STALL_STROKES n) ≤ r.waitStrokes → r.stalled = false →
    ∃ t, exec (.tyStall rod) s = .next t ∧ t.tallyWaiter rod = some { r with stalled := true } ∧
      t.errs.seq = s.errs.seq + 1 ∧
      (∃ e k, tget none t.errs.ring k = some e ∧ e.cls = 2 ∧ e.code = rcTY_STALL ∧ e.arg0 = n) ∧
      t = { s with rods := t.rods, ctxs := t.ctxs, errs := t.errs, mon := t.mon, host := t.host }) ∧
  (∀ (rod n : Nat) (r : Rod) (s : State), s.tallyWaiter rod = some r → waitPairing r.wait = some n →
    s.o (kTY_ABORT_STROKES n) ≠ 0 → s.o (kTY_ABORT_STROKES n) ≤ r.waitStrokes →
    ∃ t, exec (.tyTimeout rod) s = .next t ∧ t.decks = s.decks ∧
      ((waitPairing (s.rod rod).wait).isSome = true → t.rod rod = { r with wait := .none, ended := true }) ∧
      ((waitPairing (s.rod rod).wait).isSome = false → t.rods = s.rods ∧
        (t.ctx (s.owner rod) 0).savedRods.find? (fun q => q.1 == rod) = some (rod, { r with wait := .none, ended := true })) ∧
      (∀ c, s.owner rod < 16 → (s.ctx (s.owner rod) 0).run = some c → c.cmd.status = 0 →
        ∃ c', (t.ctx (s.owner rod) 0).run = some c' ∧ c'.cmd.status = stTY_TIMEOUT)) ∧
  (∀ (path : Path) (p : Nat) (s : State), let v := s.ringBefore path
    p < 16 → v.dictUp = true → v.mayWrite path = true →
    exec (.tyHvEnable path p 0) s = .next ((v.setO (kTY_HV_ENABLE p) 0).report path 0) ∧
    (v.o (kTY_HV_ENABLE p) ≠ 1 → v.hvBad p = false → ∃ t, exec (.tyHvEnable path p 1) s = .next t ∧
      t.o (kTY_HV_ENABLE p) = 1 ∧ t.o (kTY_HV_HEAD p) = 0 ∧ t.o (kTY_HV_RSIZE p) = v.hvSize p ∧ t.harvest p = {}) ∧
    (∀ k, 2 ≤ k → exec (.tyHvEnable path p k) s = .next (v.report path (invalidParam path)))) ∧
  (∀ (p off x y : Nat) (rest : List Nat) (s : State), (s.harvest p).buf = off :: rest →
    s.o (kTY_HV_HEAD p) + s.o (kTY_HV_RSIZE p) ≤ s.o (kTY_HV_BYTES p) →
    s.udPhys p (s.o (kTY_HV_BUF p) + off) (s.o (kTY_HV_RSIZE p)) false = some x → 0 < s.o (kTY_HV_RSIZE p) →
    s.o (kTY_HV_RSIZE p) % 64 = 0 → s.decks.udBadIn x (s.o (kTY_HV_RSIZE p)) = false →
    s.ldPhys p (s.o (kTY_HV_BASE p) + s.o (kTY_HV_HEAD p)) = some y →
    (s.o (kTY_HV_BASE p) + s.o (kTY_HV_HEAD p)) % 2 ^ 30 + s.o (kTY_HV_RSIZE p) ≤ 2 ^ 30 →
    ∃ t, exec (.harvestRecordCopy p) s = .next t ∧ (t.harvest p).buf = rest ∧
      t.o (kTY_HV_HEAD p) = s.o (kTY_HV_HEAD p) + s.o (kTY_HV_RSIZE p) ∧
      t.o (kTY_HV_RECORDS p) = min (s.o (kTY_HV_RECORDS p) + 1) (2 ^ 64 - 1) ∧
      t.decks.ldByte y = mget s.decks.ud x ∧ t.decks.ud = s.decks.ud)

/-- Runs start and end, and the numerics state of a step is read when it is fixed: By a path that may write, in its turn
behind the ring's earlier requests, with no run and no command of the partition (running, switched out or with a
unit): START_RUN makes it RUNNING at the step RUN_STEP with LOSS_SCALE as that step's loss scale, and reports 0; while
RUNNING or with a command running it reports NUM_BUSY and nothing else changes. END_RUN while RUNNING makes it IDLE
and keeps RUN_STEP, LOSS_SCALE and GOOD_STEP_COUNT; while IDLE it only reports 0; what waits is looked at after both
(pollAll). A program's read of a fixed step returns its loss scale and guard bit, of the next step waits or, for
GUARDED alone, returns the bit at once, of any other ends the command with NUM_STEP_RANGE; a waiting read returns once
its step is fixed and ends while IDLE. (07_student_numerics.md R193; 07_student_numerics.md R195;
07_student_numerics.md R196) -/
def Obligations.RunsStartAndEnd : Prop :=
  (∀ (path : Path) (p : Nat) (s : State), let v := s.ringBefore path
    p < 16 → v.dictUp = true → v.mayWrite path = true →
    (v.running p = false → v.anyCommand p = false → ∃ t : State, exec (.startRun path p) s = .next t.pollAll ∧ t.running p = true ∧
      t.runStep p = v.runStep p ∧ t.lossScale p (v.runStep p) = BitVec.ofNat 32 (v.o (kLOSS_SCALE p)) ∧
      (t.num p).fixedStep = v.runStep p ∧ (t.num p).s0 = v.runStep p ∧ (∀ q, q ≠ p → t.num q = v.num q) ∧
      tget 0 t.status (pathCode path) = 0 ∧
      t = { v with objs := t.objs, nums := t.nums, reck := t.reck, status := t.status }) ∧
    (v.running p = true ∨ v.anyCommand p = true → exec (.startRun path p) s = .next (v.report path stNUM_BUSY).pollAll) ∧
    (v.running p = false → exec (.endRun path p) s = .next (v.report path 0).pollAll) ∧
    (v.running p = true → ∃ t : State, exec (.endRun path p) s = .next t.pollAll ∧ t.running p = false ∧ t.runStep p = v.runStep p ∧
      t.o (kLOSS_SCALE p) = v.o (kLOSS_SCALE p) ∧ t.o (kGOOD_STEP_COUNT p) = v.o (kGOOD_STEP_COUNT p) ∧
      tget 0 t.status (pathCode path) = 0)) ∧
  (∀ (rod step : Nat) (s : State), s.issues rod = true →
    (s.running (s.owner rod) = true → s.fixed (s.owner rod) step = true →
      ∀ g, exec (.numericsStateRead rod ⟨step, g⟩) s
        = .next (s.setRod rod { s.rod rod with ret := s.numState (s.owner rod) step })) ∧
    (s.running (s.owner rod) = true → s.fixed (s.owner rod) step = false → step = (s.num (s.owner rod)).fixedStep + 1 →
      exec (.numericsStateRead rod ⟨step, true⟩) s = .next (s.setRod rod { s.rod rod with
        ret := if s.guarded (s.owner rod) step then 2 ^ 32 else 0 }) ∧
      ∃ t, exec (.numericsStateRead rod ⟨step, false⟩) s = .next t ∧ (t.rod rod).wait = .numerics step ∧
        t = { s with rods := t.rods }) ∧
    (s.running (s.owner rod) = false ∨ s.fixed (s.owner rod) step = false ∧ step ≠ (s.num (s.owner rod)).fixedStep + 1 →
      ∀ g, ∃ t, exec (.numericsStateRead rod ⟨step, g⟩) s = .next t ∧ (t.rod rod).ended = true ∧
        (∀ c, s.runCmd (s.owner rod) = some c → c.cmd.status = 0 →
          (t.runCmd (s.owner rod)).map (fun c => c.cmd.status) = some stNUM_STEP_RANGE) ∧
        t = { s with rods := t.rods, ctxs := t.ctxs })) ∧
  (∀ (rod step : Nat) (s : State), (s.rod rod).wait = .numerics step →
    (s.running (s.owner rod) = true → s.fixed (s.owner rod) step = true →
      exec (.numericsStateWaitEnd rod) s
        = .next (s.setRod rod { s.rod rod with wait := .none, ret := s.numState (s.owner rod) step })) ∧
    (s.running (s.owner rod) = false → ∃ t, exec (.numericsStateWaitEnd rod) s = .next t ∧ (t.rod rod).wait = .none ∧
      (t.rod rod).ended = true ∧ t = { s with rods := t.rods, ctxs := t.ctxs }))

/-- Programs query slots, mark phases and push passes; the head pass starts, waits or ends without effect: On a rod that
issues: a slot query returns the TS that the slot supplied to the command, or its TS now if the command has not read
it; a phase mark sets the command's mark. A push of a descriptor that passes its checks, with room in the queue,
appends one queued pass on the reckoner of its die; one that fails records the status and ends a command without a
status with it; with the queue full the rod waits with it. On a free reckoner the head pass: waits while its step's
verdict is open; runs when it is applied, nothing holds it its weight scale word is not being copied or zeroed, and
its tensor update admits it, and then waiting pushes enter the queue (admitPasses); one that differs from the tensor
update in force leaves the queue with RK_ORDER; and one that may not run (if it came behind its step's END_OF_STEP:
with no tensor update in progress) leaves it with its status in RK_LAST_ERROR, a skipped one counted in
RK_SKIPPED_PASSES. (07_student_numerics.md R208; 07_student_numerics.md R214; 08_reckoner.md R219; 08_reckoner.md
R220; 08_reckoner.md R221; 08_reckoner.md R223) -/
def Obligations.PassesArePushedAndStarted : Prop :=
  (∀ (rod slot : Nat) (c : RunCmd) (s : State), s.issues rod = true → slot < 4096 → s.runCmd (s.owner rod) = some c →
    exec (.slotTsQuery rod slot) s = .next (s.setRod rod { s.rod rod with
      ret := (slotTs (if slot ∈ c.slotRead then tget slotReset c.slots slot else s.slot (s.owner rod) slot)).toNat })) ∧
  (∀ (rod : Nat) (backward : Bool) (s : State), s.issues rod = true →
    ∃ t, exec (.phaseMark rod backward) s = .next t ∧
      (t.runCmd (s.owner rod)).map (fun c => c.mark) = some (if backward then 2 else 1) ∧
      t = { s with nums := t.nums, ctxs := t.ctxs }) ∧
  (∀ (rod : Nat) (desc : BitVec 512) (s : State), s.issues rod = true → s.queueFill (s.owner rod) < 4096 →
    (∀ die, s.passCheck (s.owner rod) desc = .ok die → ∃ t x, exec (.updatePush rod desc) s = .next t ∧
      t.reck.q = s.reck.q ++ [x] ∧ x.desc = desc ∧ x.part = s.owner rod ∧
      x.run = (s.num (s.owner rod)).runs ∧ x.step = s.fullStep (s.owner rod) (udStep desc) ∧ x.reck = die ∧ x.phase = 0 ∧ x.cmd = none ∧
      t = { s with reck := t.reck }) ∧
    (∀ e, s.passCheck (s.owner rod) desc = .error e → e ≠ 0 → ∃ t, exec (.updatePush rod desc) s = .next t ∧
      t.reck = s.reck ∧ (t.rod rod).ended = true ∧ t.errs.seq = s.errs.seq + 1 ∧
      (∀ c, s.runCmd (s.owner rod) = some c → c.cmd.status = 0 →
        (t.runCmd (s.owner rod)).map (fun c => c.cmd.status) = some e))) ∧
  (∀ (rod : Nat) (desc : BitVec 512) (s : State), s.issues rod = true → 4096 ≤ s.queueFill (s.owner rod) →
    ∃ t, exec (.updatePush rod desc) s = .next t ∧ (t.rod rod).wait = .updatePush desc ∧ t = { s with rods := t.rods }) ∧
  (∀ (reck : Nat) (x : Pass) (s : State), (∀ y ∈ s.reck.q, y.reck = reck → y.phase = 0) →
    s.reck.q.find? (fun y => y.reck == reck) = some x →
    (s.passOutcome x = none → exec (.passStart reck) s = .next s) ∧
    (∀ s', s.passOutcome x = some 0 → s.mirrorHolds x.part = false →
      (gRule (s.rkGroup x.part (udGroup x.desc)) = 1 → s.rootPending x.part x.run (udFb x.desc) x.step = false) →
      s.streamBusy x.part (udWs x.desc, 0, 4) = false → s.joinTensor x = .ok s' →
      ∃ t : State, exec (.passStart reck) s = .next (State.admitPasses x.part 4096 t) ∧ (∃ y ∈ t.reck.q, y.id = x.id ∧ y.phase = 1) ∧
        (s.tensorOf x.part x.desc = none → ∃ u ∈ t.reck.tensors, u.part = x.part ∧ u.slot = udSlot x.desc ∧
          u.tsn = slotTs (s.slot x.part (udSlot x.desc)) ∧ u.done = 0) ∧
        t = { s with reck := t.reck }) ∧
    (∀ a, s.passOutcome x = some 0 → s.mirrorHolds x.part = false →
      (gRule (s.rkGroup x.part (udGroup x.desc)) = 1 → s.rootPending x.part x.run (udFb x.desc) x.step = false) →
      s.streamBusy x.part (udWs x.desc, 0, 4) = false → s.joinTensor x = .error (stRK_ORDER, a) →
      x.part < 16 → x.id < s.reck.nextId →
      ∃ t, exec (.passStart reck) s = .next t ∧ (∀ y ∈ t.reck.q, y.id ≠ x.id) ∧
        t.blobNum (kRK_LAST_ERROR x.part) 0 4 = stRK_ORDER ∧ t.o (kRK_PASSES x.part) = s.o (kRK_PASSES x.part)) ∧
    (∀ st, s.passOutcome x = some st → st ≠ 0 → st < 2 ^ 16 → (x.late = false ∨ s.tensorOf x.part x.desc = none) →
      x.part < 16 → x.id < s.reck.nextId →
      ∃ t, exec (.passStart reck) s = .next t ∧ (∀ y ∈ t.reck.q, y.id ≠ x.id) ∧
        t.blobNum (kRK_LAST_ERROR x.part) 0 4 = st ∧ t.o (kRK_PASSES x.part) = s.o (kRK_PASSES x.part) ∧
        (st = stRK_SKIPPED → t.o (kRK_SKIPPED_PASSES x.part) = min (s.o (kRK_SKIPPED_PASSES x.part) + 1) (2 ^ 32 - 1))))

/-- A pass updates its elements by the element rule, and the last part ends its tensor update: The running pass of a
reckoner, all of whose words can be read, ends while no mirror copy holds its partition and no slice it uses is being
copied or zeroed. If other parts of its tensor update remain, it leaves the queue and RK_PASSES counts it. The last
part of an update that no part has failed goes on to write its word; for an element-rule pass of one element at
disjoint readable addresses, that element's weight, first and second moment are then those of the element rule applied
to the gradient divided by the loss scale (0 if that is not finite), rounded with the pass's own draws at the new
tensor scale. The end of the tensor update then writes that scale into the weight scale word, records the update's
measurements in the slot (no other event of the slot in this cycle), and removes the update (with no host write held
and no roots to install). (08_reckoner.md R222; 08_reckoner.md R223; 08_reckoner.md R224; 08_reckoner.md R225;
08_reckoner.md R238; 07_student_numerics.md R198) -/
def Obligations.PassesUpdateElements : Prop :=
  (∀ (reck : Nat) (x : Pass) (c : PassCtx) (s : State), x.part < 16 → x.id < s.reck.nextId → s.mirrorHolds x.part = false →
    s.passBusy x = false → s.reck.q.find? (fun y => y.reck == reck && y.phase == 1) = some x → s.passCtx x = some c →
    (s.passWork c (s.passRounds c)).2.2.2.1 = 0 → c.t.done + 1 < c.t.parts →
    ∃ t, exec (.passEnd reck) s = .next t ∧ (∀ y ∈ t.reck.q, y.id ≠ x.id) ∧
      t.o (kRK_PASSES x.part) = min (s.o (kRK_PASSES x.part) + 1) (2 ^ 64 - 1)) ∧
  (∀ (reck aw am av ag : Nat) (x : Pass) (c : PassCtx) (s : State),
    s.reck.q.find? (fun y => y.reck == reck && y.phase == 1) = some x → s.passCtx x = some c → c.t.parts ≤ c.t.done + 1 →
    c.t.fail = 0 → s.mirrorHolds x.part = false → s.passBusy x = false →
    gRule c.e ≠ 1 → udCount x.desc = 1 →
    s.rkItem x.part (udW x.desc) (udSpread x.desc) 0 2 true = .ok aw → s.rkItem x.part (udM x.desc) (udSpread x.desc) 0 4 true = .ok am →
    s.rkItem x.part (udV x.desc) (udSpread x.desc) 0 4 true = .ok av → s.rkItem x.part (udG x.desc) (udSpread x.desc) 0 2 false = .ok ag →
    (aw + 2 ≤ am ∨ am + 4 ≤ aw) → (aw + 2 ≤ av ∨ av + 4 ≤ aw) → (am + 4 ≤ av ∨ av + 4 ≤ am) →
    ∃ t, exec (.passEnd reck) s = .next t ∧ (∃ y ∈ t.reck.q, y.id = x.id ∧ y.phase = 2 ∧ y.status = 0) ∧
      (let g0 := f32div (hb16to32 (s.num16 ag)) c.v.l
       let r := elementRule c.e c.sc.lr c.sc.c1 c.sc.c2 (if f32isFin g0 then g0 else 0) (s.num32 am) (s.num32 av)
         (weightOf c.t.tsw (s.num16 aw)).1
       let dr := weightDraw c.v.seed x.step (udWid x.desc)
       t.num16 aw = (storeWeight c.t.tsn (.sr (dr.elem (udBase x.desc))) r.2.2.1).1 ∧
       (f32isNan r.1.1 = false → t.num32 am = r.1.1) ∧ (f32isNan r.2.1.1 = false → t.num32 av = r.2.1.1)) ∧
      (∀ a, ¬(aw ≤ a ∧ a < aw + 2) → ¬(am ≤ a ∧ a < am + 4) → ¬(av ≤ a ∧ a < av + 4) →
        mget t.decks.ud a = mget s.decks.ud a)) ∧
  (∀ (part slot a : Nat) (u : TensorUpd) (s : State),
    s.reck.tensors.find? (fun y => y.part == part && y.slot == slot && decide (y.parts ≤ y.done)) = some u →
    s.rkWrite part u.ws 4 = .ok a → s.streamBusy part (u.ws, 0, 4) = false → u.held = none → u.part = part → u.slot = slot →
    s.reck.ready = [] → (∀ e ∈ (s.part part).slotLog, ¬(e.slot = slot ∧ e.cycle = s.cycle)) →
    ∃ t, exec (.tensorUpdateComplete part slot) s = .next t ∧ t.num32 a = u.tsn ∧
      t.slot part slot = slotRecord (s.slot part slot) u.acc ∧
      (∀ y ∈ t.reck.tensors, ¬(y.part = part ∧ y.slot = slot)))

/-- Root jobs run in order and end good or failed, programs learn which roots are in force, group writes are held: The
head root job of a reckoner starts when no mirror copy holds its partition. A running job whose slices are neither
copied nor zeroed, with no earlier roots of its block waiting, whose work yields roots leaves the queue, they wait for
its installation step, and RK_ROOT_JOBS and RK_ROOT_RETRIES count it; one whose work fails, as it does where the
factor block cannot be read, leaves no new roots, adds one to RK_ROOT_FALLBACKS and at least one record; what waits is
looked at then (pollAll). A root query answers whether roots are in force and in which buffer, or waits while a job
due by that step has not ended, and is then answered. By a path that may write, in its turn: an invalid group entry is
refused with the path's parameter status; a change of T while RUNNING with NUM_BUSY; any other write reports 0 and is
held, the entry in force being unchanged. (08_reckoner.md R226; 08_reckoner.md R231; 08_reckoner.md R232;
08_reckoner.md R234; 08_reckoner.md R235) -/
def Obligations.RootJobsAndGroups : Prop :=
  (∀ (reck : Nat) (j : RootJob) (q : List RootJob) (s : State), tget [] s.reck.roots reck = j :: q → j.running = false →
    s.mirrorHolds j.part = false →
    ∃ t, exec (.rootJobStart reck) s = .next t ∧ tget [] t.reck.roots reck = { j with running := true } :: q ∧
      t = { s with reck := t.reck }) ∧
  (∀ (reck n : Nat) (j : RootJob) (q : List RootJob) (s : State), j.part < 16 →
    tget [] s.reck.roots reck = j :: q → j.running = true → s.mirrorHolds j.part = false →
    s.rootsWait j = false → s.rootBusy j = false →
    (∀ s' d, { s with reck := { s.reck with roots := tset [] s.reck.roots reck q } }.rootWork j = (s', n, .ok d) →
      ∃ (t : State) (x : RootInst), exec (.rootJobEnd reck j.fb) s = .next t.pollAll ∧
        tget [] t.reck.roots reck = q ∧ t.reck.ready = s.reck.ready ++ [x] ∧ x.part = j.part ∧ x.fb = j.fb ∧
        x.run = j.run ∧ x.install = j.install ∧ (d.1 = d.2 → x.damp = d.1) ∧
        t.o (kRK_ROOT_JOBS j.part) = min (s.o (kRK_ROOT_JOBS j.part) + 1) (2 ^ 32 - 1) ∧
        t.o (kRK_ROOT_RETRIES j.part) = min (s.o (kRK_ROOT_RETRIES j.part) + n) (2 ^ 32 - 1)) ∧
    ((∃ s' c, { s with reck := { s.reck with roots := tset [] s.reck.roots reck q } }.rootWork j = (s', n, .error c)) ∨
        s.factorBad j.part j.fb ≠ 0 →
      ∃ t : State, exec (.rootJobEnd reck j.fb) s = .next t.pollAll ∧ tget [] t.reck.roots reck = q ∧ t.reck.ready = s.reck.ready ∧
        t.o (kRK_ROOT_FALLBACKS j.part) = min (s.o (kRK_ROOT_FALLBACKS j.part) + 1) (2 ^ 32 - 1) ∧
        s.errs.seq < t.errs.seq)) ∧
  (∀ (rod fb step : Nat) (s : State), s.issues rod = true →
    (s.rootPending (s.owner rod) (s.num (s.owner rod)).runs fb step = false →
      exec (.rootQuery rod fb step) s = .next (s.setRod rod { s.rod rod with wait := .none
                                                                             ret := rootRet (s.rootsInForce (s.owner rod) (s.num (s.owner rod)).runs fb step) })) ∧
    (s.rootPending (s.owner rod) (s.num (s.owner rod)).runs fb step = true → (s.rod rod).wait ≠ .rootQuery fb step →
      ∃ t, exec (.rootQuery rod fb step) s = .next t ∧ (t.rod rod).wait = .rootQuery fb step ∧ t = { s with rods := t.rods })) ∧
  (∀ (rod fb step : Nat) (s : State), (s.rod rod).wait = .rootQuery fb step → s.rootPending (s.owner rod) (s.num (s.owner rod)).runs fb step = false →
    ∃ t, exec (.rootQuery rod fb step) s = .next t ∧ (t.rod rod).wait = .none ∧
      (t.rod rod).ret = rootRet (s.rootsInForce (s.owner rod) (s.num (s.owner rod)).runs fb step) ∧ t = { s with rods := t.rods }) ∧
  (∀ (path : Path) (p k : Nat) (e : BitVec 512) (s : State), let v := s.ringBefore path
    p < 16 → k < 256 → v.dictUp = true → v.mayWrite path = true →
    (groupBad e = true → exec (.rkGroupsWrite path p k e) s = .next (v.report path (invalidParam path))) ∧
    (groupBad e = false → v.running p = true → gT e ≠ gT (v.groupImage p k) →
      exec (.rkGroupsWrite path p k e) s = .next (v.report path stNUM_BUSY)) ∧
    (groupBad e = false → (v.running p = false ∨ gT e = gT (v.groupImage p k)) →
      ∃ t, exec (.rkGroupsWrite path p k e) s = .next t ∧ tget 0 t.status (pathCode path) = 0 ∧ t.rkGroup p k = v.rkGroup p k ∧
        gPeak (t.groupImage p k) = gPeak e ∧ gT (t.groupImage p k) = gT e ∧
        t = { v with reck := t.reck, status := t.status }))

/-- Carry groups form by a handshake over the tree, time out, and are left: By a path that may write, in its turn behind
the ring's requests that reached the firmware earlier (ringBefore), with the group IDLE and its settings valid: FORM
of a group of one makes it READY with the next epoch; FORM of a member with silent children makes it FORMING; FORM of
a leaf also sends its parent its epoch and the digest of its settings. Invalid settings report CY_CONFIG, another
state CY_BUSY, and nothing else changes. A child's message is kept while others are missing; the last one, all digests
equal, makes the root READY with one more than the greatest epoch. A result makes a waiting member READY with that
epoch, or IDLE with one record. A FORMING member returns to IDLE with one record after CY_FORM_STROKES. LEAVE without
open buckets empties the group and makes it IDLE; with one it reports CY_BUSY; what waits is looked at then (pollAll).
(09_carry_unit.md R243; 09_carry_unit.md R254) -/
def Obligations.CarryGroupsForm : Prop :=
  (∀ (path : Path) (p g : Nat) (s : State), let v := s.ringBefore path
    p < 16 → g < 4 → v.dictUp = true → v.mayWrite path = true →
    (v.cyState p g ≠ cyIDLE → exec (.groupForm path p g) s = .next (v.report path stCY_BUSY)) ∧
    (v.cyState p g = cyIDLE → v.formOk p g = false → exec (.groupForm path p g) s = .next (v.report path stCY_CONFIG)) ∧
    (v.cyState p g = cyIDLE → v.formOk p g = true →
      (v.cySize p g = 1 → ∃ t, exec (.groupForm path p g) s = .next t ∧ t.cyState p g = cyREADY ∧
        t.cyEpoch p g = (v.cyEpoch p g + 1) % 2 ^ 32 ∧ tget 0 t.status (pathCode path) = 0 ∧
        t = { v with objs := t.objs, status := t.status }) ∧
      (v.cySize p g ≠ 1 → (∃ k ∈ v.grpKids p g, ∀ h ∈ (v.group p g).heard, h.child ≠ k) →
        ∃ t, exec (.groupForm path p g) s = .next t ∧ t.cyState p g = cyFORMING ∧ (t.group p g).formAt = v.stroke ∧
          t.cy.sent = v.cy.sent ∧ t = { v with objs := t.objs, cy := t.cy, status := t.status }) ∧
      (∀ r, v.cySize p g ≠ 1 → v.grpKids p g = [] → (v.group p g).heard = [] → v.grpParent p g = some r →
        ∃ t, exec (.groupForm path p g) s = .next t ∧ t.cyState p g = cyFORMING ∧ (t.group p g).helloUp = true ∧
          t.cy.sent = v.cy.sent ++ [.handshake p g r (v.cyEpoch p g) (v.groupDigest p g) false])) ∧
    (v.groupBuckets p g = [] → ∃ t : State, exec (.groupLeave path p g) s = .next t.pollAll ∧ t.cyState p g = cyIDLE ∧
      t.group p g = {} ∧ tget 0 t.status (pathCode path) = 0) ∧
    (v.groupBuckets p g ≠ [] → exec (.groupLeave path p g) s = .next (v.report path stCY_BUSY).pollAll)) ∧
  (∀ (p g child : Nat) (digest : BitVec 256) (epoch : Nat) (mismatch : Bool) (s : State), p < 16 → g < 4 →
    (s.cyState p g = cyIDLE ∨ s.cyState p g = cyFORMING) → (s.group p g).helloUp = false →
    (∀ h ∈ (s.group p g).heard, h.child ≠ child) →
    (let hs := (s.group p g).heard ++ [{ child := child, digest := digest, epoch := epoch % 2 ^ 32, mismatch := mismatch }]
     (s.cyState p g = cyIDLE ∨ (∃ k ∈ s.grpKids p g, ∀ h ∈ hs, h.child ≠ k) →
       exec (.handshakeUp p g child digest epoch mismatch) s = .next (s.setGroup p g { s.group p g with heard := hs })) ∧
     (s.cyState p g = cyFORMING → (∀ k ∈ s.grpKids p g, ∃ h ∈ hs, h.child = k) → s.grpParent p g = none →
       (∀ h ∈ hs, h.mismatch = false ∧ h.digest = s.groupDigest p g) →
       ∃ t, exec (.handshakeUp p g child digest epoch mismatch) s = .next t ∧ t.cyState p g = cyREADY ∧
         t.cyEpoch p g = (hs.foldl (fun a h => max a h.epoch) (s.cyEpoch p g) + 1) % 2 ^ 32))) ∧
  (∀ (p g epoch : Nat) (s : State), p < 16 → g < 4 → s.cyState p g = cyFORMING → (s.group p g).helloUp = true →
    (∃ t, exec (.handshakeResult p g epoch true) s = .next t ∧ t.cyState p g = cyREADY ∧ t.cyEpoch p g = epoch % 2 ^ 32 ∧
      (t.group p g).heard = []) ∧
    (∃ t, exec (.handshakeResult p g epoch false) s = .next t ∧ t.cyState p g = cyIDLE ∧ t.errs.seq = s.errs.seq + 1)) ∧
  (∀ (p g : Nat) (s : State), p < 16 → g < 4 → s.cyState p g = cyFORMING →
    (s.group p g).formAt + s.o (kCY_FORM_STROKES (4 * p + g)) ≤ s.stroke →
    ∃ t, exec (.cyFormTimeout p g) s = .next t ∧ t.cyState p g = cyIDLE ∧ t.errs.seq = s.errs.seq + 1 ∧ t.decks = s.decks)

/-- Rod programs push carry operations, and a refused descriptor ends the command: On a rod that issues, a descriptor that
passes its checks: a REDUCE whose scales can be taken opens one bucket with nothing contributed, and CY_OPEN counts
the partition's open buckets; an ALL_TO_ALL or ALL_GATHER (with a fresh number) opens one in which the member's own
chunk has landed; a CLOSE_STEP joins its group's pending ones. A program that holds then waits on its operation;
another goes on. A descriptor that fails its checks ends the rod, and a command without a status gets that of the
first failed check; nothing is queued. (09_carry_unit.md R244; 09_carry_unit.md R245; 09_carry_unit.md R246;
09_carry_unit.md R259; 09_carry_unit.md R266; 09_carry_unit.md R267) -/
def Obligations.CarryOperationsArePushed : Prop :=
  (∀ (rod : Nat) (d : BitVec 512) (hold : Bool) (s : State), s.issues rod = true → s.bucketCheck (s.owner rod) d = 0 →
    (bdOp d = 1 → (s.cySize (s.owner rod) (bdGroup d) = 1 ∨ ∃ r, s.readScales (s.owner rod) d = .ok r) →
      ∃ t b, exec (.reduce rod ⟨d, hold⟩) s = .next t ∧ t.cy.buckets = s.cy.buckets ++ [b] ∧ b.desc = d ∧ b.part = s.owner rod ∧
        b.g = bdGroup d ∧ b.given = [] ∧ b.cmd = none ∧ b.ready = false ∧
        t.o (kCY_OPEN (s.owner rod)) = (t.cy.buckets.filter (fun x => x.part == s.owner rod)).length ∧
        (t.rod rod).wait = (if hold then .bucket s.cy.nextId else (s.rod rod).wait) ∧ (∀ r, r ≠ rod → t.rod r = s.rod r) ∧
        t = { s with objs := t.objs, ctxs := t.ctxs, nums := t.nums, cy := t.cy, rods := t.rods, errs := t.errs, mon := t.mon,
                     host := t.host }) ∧
    (∀ i, (bdOp d = 2 ∧ i = .allToAll rod ⟨d, hold⟩ ∨ bdOp d = 3 ∧ i = .allGather rod ⟨d, hold⟩) →
      (∀ y ∈ s.cy.buckets, y.id ≠ s.cy.nextId) →
      ∃ t b, exec i s = .next t ∧ b ∈ t.cy.buckets ∧ b.id = s.cy.nextId ∧ b.desc = d ∧ b.part = s.owner rod ∧
        (hold = true → (t.rod rod).wait = .bucket s.cy.nextId) ∧
        (s.cyRank (s.owner rod) (bdGroup d) < s.cySize (s.owner rod) (bdGroup d) →
          s.cyRank (s.owner rod) (bdGroup d) ∈ b.chunks)) ∧
    (bdOp d = 4 → ∃ t, exec (.closeStep rod ⟨d, hold⟩) s = .next t ∧
      (t.group (s.owner rod) (bdGroup d)).closes = (s.group (s.owner rod) (bdGroup d)).closes ++ [{ step := bdStep d }] ∧
      (t.rod rod).wait = (if hold then .carry (bdGroup d) (bdStep d) else (s.rod rod).wait) ∧ (∀ r, r ≠ rod → t.rod r = s.rod r) ∧
      t = { s with rods := t.rods, nums := t.nums, cy := t.cy })) ∧
  (∀ (rod : Nat) (d : BitVec 512) (hold : Bool) (i : Instr) (s : State), s.issues rod = true → s.bucketCheck (s.owner rod) d ≠ 0 →
    (i = .reduce rod ⟨d, hold⟩ ∧ (bdOp d < 2 ∨ 4 < bdOp d) ∨ i = .allToAll rod ⟨d, hold⟩ ∧ bdOp d = 2 ∨
      i = .allGather rod ⟨d, hold⟩ ∧ bdOp d = 3 ∨ i = .closeStep rod ⟨d, hold⟩ ∧ bdOp d = 4) →
    ∃ t, exec i s = .next t ∧ (t.rod rod).ended = true ∧
      (∀ c, s.runCmd (s.owner rod) = some c → c.cmd.status = 0 →
        (t.runCmd (s.owner rod)).map (fun c => c.cmd.status) = some (s.bucketCheck (s.owner rod) d)) ∧
      t = { s with rods := t.rods, ctxs := t.ctxs })

/-- Segments are contributed once, units are kept or discarded, and each segment is combined and passed on: While the
bucket's areas are neither zeroed nor copied and the mesh takes packets: the oldest tile becomes one encoded segment
of the open tile-path REDUCE of its partition and TAG in a group of more than one; with no such bucket its command
ends with CY_NO_BUCKET. A layer-path bucket whose source may be read contributes every segment. A unit of no open
REDUCE is discarded and counted, against its link too, and nothing else changes; a child's first unit of a segment,
and the parent's final unit, are kept. A segment whose own contribution and children's units are there is combined
once: at the tree's root of the segment it is final, elsewhere a unit of it goes up to the parent. (09_carry_unit.md
R247; 09_carry_unit.md R248; 09_carry_unit.md R249; 09_carry_unit.md R255; 09_carry_unit.md R264) -/
def Obligations.SegmentsAreContributedAndCombined : Prop :=
  (∀ (x : Tile) (rest : List Tile) (b : Bucket) (s : State), s.cy.tiles = x :: rest →
    s.cy.buckets.filter (fun b => b.part == x.part && bdOp b.desc == 1 && !bdPath b.desc && bdTag b.desc == x.tag) = [b] →
    x.index ∉ b.poison → x.index ∉ b.given → x.index < bdSegs b.desc → s.cySize b.part b.g ≠ 1 → s.carryWaits b = false →
    ∃ t b', exec .carryTile s = .next t ∧ t.cy.tiles = rest ∧ b' ∈ t.cy.buckets ∧ b'.id = b.id ∧
      b'.given = b.given ++ [x.index] ∧ b'.own = b.own ++ [SegUnitBare (s.cyEncode b 0 x.index x.elems).1] ∧
      t = { s with cy := t.cy, mesh := t.mesh, decks := t.decks, errs := t.errs, objs := t.objs, mon := t.mon,
                   host := t.host, rods := t.rods }) ∧
  (∀ (x : Tile) (rest : List Tile) (s : State), s.cy.tiles = x :: rest →
    (∀ b ∈ s.cy.buckets, ¬(b.part = x.part ∧ bdOp b.desc = 1 ∧ bdPath b.desc = false ∧ bdTag b.desc = x.tag)) →
    ∃ t, exec .carryTile s = .next t ∧ t.cy.tiles = rest ∧ (t.rod x.rod).ended = true ∧
      ((s.runCmd (s.owner x.rod)).map (fun c => c.cmd.status) = some 0 →
        (t.runCmd (s.owner x.rod)).map (fun c => c.cmd.status) = some stCY_NO_BUCKET)) ∧
  (∀ (bkt : Nat) (b : Bucket) (s : State), s.bucket? bkt = some b → bdOp b.desc = 1 → bdPath b.desc = true → b.ready = true →
    s.carryWaits b = false →
    ∃ t b', exec (.layerSourceRead bkt) s = .next t ∧ t.bucket? bkt = some b' ∧ (∀ j, j < bdSegs b.desc → j ∈ b'.given) ∧
      b'.desc = b.desc) ∧
  (∀ (p g link : Nat) (u : SegUnit) (s : State), p < 16 → g < 4 →
    (s.reduceOf p g u.tag u.parity u.epoch = none →
      (64 ≤ link → exec (.segmentUnit p g ⟨u, link⟩) s = .next (s.addO 32 (kCY_DISCARDS p) 1)) ∧
      (link < 64 →
        exec (.segmentUnit p g ⟨u, link⟩) s = .next ((s.addO 32 (kCY_DISCARDS p) 1).countEvent link ctDISCARD))) ∧
    (∀ b, s.reduceOf p g u.tag u.parity u.epoch = some b → u.index < bdSegs b.desc → s.carryWaits b = false →
      (u.down = false → u.sender ∈ s.segKids b u.index → (∀ x ∈ b.landed, ¬(x.index = u.index ∧ x.sender = u.sender)) →
        ∃ t b', exec (.segmentUnit p g ⟨u, link⟩) s = .next t ∧ b' ∈ t.cy.buckets ∧ b'.id = b.id ∧ b'.landed = b.landed ++ [SegUnitBare u]) ∧
      (u.down = true → s.segParent b u.index = some u.sender → (∀ x ∈ b.finals, x.index ≠ u.index) →
        ∃ t b', exec (.segmentUnit p g ⟨u, link⟩) s = .next t ∧ b' ∈ t.cy.buckets ∧ b'.id = b.id ∧ b'.finals = b.finals ++ [SegUnitBare u]))) ∧
  (∀ (bkt seg : Nat) (b : Bucket) (own : SegUnit) (s : State), s.bucket? bkt = some b →
    b.own.find? (fun u => u.index == seg) = some own → seg ∉ b.combined → s.carryWaits b = false →
    (∀ c ∈ s.segKids b seg, ∃ u ∈ b.landed, u.index = seg ∧ u.sender = c) →
    ∃ t b', exec (.segmentCombine bkt seg) s = .next t ∧ t.bucket? bkt = some b' ∧ b'.combined = b.combined ++ [seg] ∧
      (s.segParent b seg = none → ∃ u ∈ b'.finals, u.index = seg) ∧
      (∀ r, s.segParent b seg = some r → ∃ u, .unit b.part b.g r u ∈ t.cy.sent ∧ u.index = seg))

/-- Headers and chunks land, and a bucket completes or is lost: For an open REDUCE, the first header with the group's
GROUP_ID_LOW of an expected child is kept with the up headers, the first of an expected parent with the down headers;
a header of another group or of no open operation is discarded and counted; that of a chunk is kept with its sender. A
chunk of the length and epoch of its open operation, from a rank that has sent none, is noted with its rank; one of a
single packet that the mesh does not lose then stands at its place in DST (while the areas are neither zeroed nor
copied). A bucket whose own contribution is complete, that misses nothing and whose writes are done stores its scales,
and leaves the table once no write of theirs is left, CY_OPEN then counting those left. One that misses something
CY_TIMEOUT_STROKES after its own contribution leaves the table, its group is BROKEN, its partition's fatal bit is set
and one record is written. What waits is looked at after the last three (pollAll). (09_carry_unit.md R257;
09_carry_unit.md R258; 09_carry_unit.md R263; 09_carry_unit.md R264; 09_carry_unit.md R266; 09_carry_unit.md R267) -/
def Obligations.BucketsCompleteOrAreLost : Prop :=
  (∀ (p g : Nat) (h : BitVec 512) (link : Nat) (s : State), p < 16 → g < 4 → bhKind h = 0 →
    (s.ofGroup p g h = false ∨ s.reduceOf p g (bhTag h) (bhParity h) (bhEpoch h) = none →
      exec (.bucketHeader p g ⟨h, link⟩) s = .next (s.discard p link)) ∧
    (∀ b, s.ofGroup p g h = true → s.reduceOf p g (bhTag h) (bhParity h) (bhEpoch h) = some b →
      (bhDown h = false → (∃ j, j < bdSegs b.desc ∧ bhSender h ∈ s.segKids b j) → (∀ x ∈ b.upHdrs, x.1 ≠ bhSender h) →
        ∃ t b', exec (.bucketHeader p g ⟨h, link⟩) s = .next t ∧ b' ∈ t.cy.buckets ∧ b'.id = b.id ∧
          b'.upHdrs = b.upHdrs ++ [(bhSender h, h)] ∧ t = { s with cy := t.cy, op := t.op }) ∧
      (bhDown h = true → (∃ j, j < bdSegs b.desc ∧ s.segParent b j = some (bhSender h)) →
        (∀ x ∈ b.downHdrs, x.1 ≠ bhSender h) →
        ∃ t b', exec (.bucketHeader p g ⟨h, link⟩) s = .next t ∧ b' ∈ t.cy.buckets ∧ b'.id = b.id ∧
          b'.downHdrs = b.downHdrs ++ [(bhSender h, h)] ∧ t = { s with cy := t.cy, op := t.op }))) ∧
  (∀ (p g : Nat) (h : BitVec 512) (link : Nat) (s : State), p < 16 → g < 4 → (bhKind h = 1 ∨ bhKind h = 2) →
    (s.ofGroup p g h = false ∨
        (∀ b ∈ s.groupBuckets p g, ¬(bdOp b.desc = bhKind h + 1 ∧ bdTag b.desc = bhTag h ∧ bdStep b.desc % 2 = bhParity h)) →
      exec (.bucketHeader p g ⟨h, link⟩) s = .next (s.discard p link)) ∧
    (∀ b, (s.groupBuckets p g).find? (fun b => bdOp b.desc == bhKind h + 1 && bdTag b.desc == bhTag h
        && bdStep b.desc % 2 == bhParity h) = some b →
      s.ofGroup p g h = true → s.cyEpoch p g = bhEpoch h → bhSender h < s.cySize p g → bhSender h ≠ s.cyRank p g →
      (∀ x ∈ b.upHdrs, x.1 ≠ bhSender h) →
      ∃ t b', exec (.bucketHeader p g ⟨h, link⟩) s = .next t ∧ b' ∈ t.cy.buckets ∧ b'.id = b.id ∧
        b'.upHdrs = b.upHdrs ++ [(bhSender h, h)] ∧ t = { s with cy := t.cy })) ∧
  (∀ (p g tag parity sender link : Nat) (data : List Byte) (b : Bucket) (a : Nat) (s : State), p < 16 → g < 4 →
    (s.groupBuckets p g).find? (fun b => bdOp b.desc != 1 && bdTag b.desc == tag && bdStep b.desc % 2 == parity) = some b →
    sender < s.cySize p g → sender ∉ b.chunks → data.length = bdChunk b.desc → s.carryWaits b = false →
    ∃ (t : State) (b' : Bucket), exec (.chunkLanded p g tag parity sender (s.cyEpoch p g) ⟨data, link⟩) s = .next t.pollAll ∧
      b' ∈ t.cy.buckets ∧ b'.id = b.id ∧ b'.chunks = b.chunks ++ [sender] ∧
      (s.udPhys p (bdDst b.desc + sender * bdChunk b.desc) data.length true = some a →
        s.ringOk p (bdDst b.desc + sender * bdChunk b.desc) data.length = true → 0 < data.length → data.length ≤ 4096 →
        s.arrives (bdHome b.desc) (a / 2 ^ 29) data.length = true → t.decks.udRead a data.length = data)) ∧
  (∀ (bkt : Nat) (b : Bucket) (s : State), s.bucket? bkt = some b → b.ownAt ≠ 0 → s.missing b = [] → s.writesDone b = true →
    s.carryWaits b = false →
    ∃ t : State, exec (.bucketComplete bkt) s = .next t.pollAll ∧
      (t.bucket? bkt = none ∧ t.o (kCY_OPEN b.part) = (t.cy.buckets.filter (fun x => x.part == b.part)).length ∨
        ∃ b', t.bucket? bkt = some b' ∧ b.stored = false ∧ b'.stored = true ∧ t.writesDone b' = false) ∧
      (b.stored = true ∨ b.finals = [] ∧ b.poison = [] → t.bucket? bkt = none)) ∧
  (∀ (bkt r : Nat) (l : List Nat) (b : Bucket) (s : State), bkt < 2 ^ 32 → s.bucket? bkt = some b → b.part < 16 → b.g < 4 →
    b.ownAt ≠ 0 → b.ownAt - 1 + s.o (kCY_TIMEOUT_STROKES (4 * b.part + b.g)) ≤ s.stroke → s.missing b = r :: l →
    ∃ t : State, exec (.bucketTimeout bkt) s = .next t.pollAll ∧ t.bucket? bkt = none ∧ t.cyState b.part b.g = cyBROKEN ∧
      t.errs.seq = s.errs.seq + 1 ∧ (t.o kERR_FATAL_PARTS).testBit b.part = true ∧ t.decks = s.decks)

/-- Verdicts are exchanged over the tree and advance the run step: A CLOSE_STEP that may go ahead: outside the verdict
group it is answered with its group's own status; in a verdict group of one the verdict is known at once. In a larger
one the exchange starts, and a member with silent children waits. A child's part with the group's GROUP_ID_LOW, of a
step whose verdict is still open, is kept until this member has started. A verdict that comes from the parent to a
member that has sent its part up is known; any other is discarded and counted. Once known, CY_VERDICT holds it (with
NONFINITE where MISMATCH, LOST or UNCORR is set), CY_VERDICT_STEP its step, CLOSE_STEPs of the step are pending only
in other groups that have not finished theirs, and a partition RUNNING at that step goes to the next; what waits is
looked at after all three (pollAll). (09_carry_unit.md R259; 09_carry_unit.md R260; 09_carry_unit.md R261;
07_student_numerics.md R193) -/
def Obligations.VerdictsAreExchanged : Prop :=
  let known (p g step : Nat) (v : BitVec 16) (s t : State) : Prop :=
    t.o (kCY_VERDICT p) = (csNorm v).toNat ∧ t.o (kCY_VERDICT_STEP p) = step % 2 ^ 64 ∧
      (∀ h, h < 4 → ∀ c ∈ (t.group p h).closes, c.step = step →
        h ≠ g ∧ ∃ y ∈ (s.group p h).closes, y.step = step ∧ y.res = none) ∧
      (s.running p = true → s.runStep p = step → t.runStep p = (step + 1) % 2 ^ 64) ∧
      (s.running p = true → s.runStep p ≠ step → t.runStep p = s.runStep p)
  (∀ (p g : Nat) (c : Close) (s : State), p < 16 → g < 4 → s.closeReady p g = some c →
    (g ≠ s.verdictGroup p → ∃ t : State, exec (.verdictExchangeStart p g) s = .next t.pollAll ∧
      (∀ y ∈ (t.group p g).closes, y.step = c.step → y.res = some (tget 0 (s.group p g).stepOr c.step)) ∧
      t.objs = s.objs ∧ t.decks = s.decks) ∧
    (g = s.verdictGroup p → s.cySize p g = 1 → (∀ h, h < 4 → h ≠ g → (s.group p h).closes = []) →
      ∃ t : State, exec (.verdictExchangeStart p g) s = .next t.pollAll ∧ known p g c.step (tget 0 (s.group p g).stepOr c.step) s t) ∧
    (g = s.verdictGroup p → s.cySize p g ≠ 1 →
      (∃ k ∈ s.grpKids p g, ∀ y ∈ ((s.group p g).exch c.step).kids, y.1 ≠ k) →
      ∃ t : State, exec (.verdictExchangeStart p g) s = .next t.pollAll ∧ ((t.group p g).exch c.step).at_ = s.stroke + 1 ∧
        t = { s with cy := t.cy })) ∧
  (∀ (p g link : Nat) (h : BitVec 512) (s : State), p < 16 → g < 4 → s.cyEpoch p g = bhEpoch h → bhKind h = 3 →
    bhDown h = false → bhTag h = 0xFFFF → (s.cyState p g = cyREADY ∨ s.cyState p g = cyBROKEN) →
    bhSender h ∈ s.grpKids p g → (∀ k ∈ ((s.group p g).exch (bhStep h)).kids, k.1 ≠ bhSender h) →
    s.verdictTaken p g (bhStep h) = false → s.ofGroup p g h = true → ((s.group p g).exch (bhStep h)).at_ = 0 →
    ∃ t : State, exec (.verdictExchangeUp p g ⟨h, link⟩) s = .next t.pollAll ∧ ((t.group p g).exch (bhStep h)).kids
        = ((s.group p g).exch (bhStep h)).kids ++ [(bhSender h, bhStatus h, bhMin h, bhMax h)] ∧ t = { s with cy := t.cy }) ∧
  (∀ (p g link : Nat) (h : BitVec 512) (s : State), p < 16 → g < 4 →
    let good := s.cyEpoch p g = bhEpoch h ∧ bhKind h = 3 ∧ bhDown h = true ∧ bhTag h = 0xFFFF ∧
      s.ofGroup p g h = true ∧ s.grpParent p g = some (bhSender h) ∧ ((s.group p g).exch (bhStep h)).up = true
    (good → ∃ t : State, exec (.verdictResult p g h link) s = .next t.pollAll ∧ known p g (bhStep h) (bhStatus h) s t) ∧
    (¬good → exec (.verdictResult p g h link) s = .next (s.discard p link).pollAll))

/-- Checkpoint mirrors are switched, copied, committed and restored only on a matching digest: By a path that may write,
in its turn (ringBefore): MIRROR_ENABLE and MIRROR_DISABLE switch the mirror client's scheduled copies; MIRROR_RESTORE
asks the mirror host for the latest mirror and MIRROR_EXPORT asks it to send that away; each reports 0. A copy that
ends well before its next scheduled stroke, with all regions readable, sends one image with its digest; any other is
recorded; either way the passes that waited may go on. The first bytes of a client's copy clear VALID of a generation
that is not the latest mirror. Once a copy has come whole and what the mirror buffers hold is written, its generation
is valid if the bytes read back have the digest sent with it, and the client is told; otherwise it stays invalid; from
any client but the one named, or with nothing under way, nothing changes. A restore whose bytes have come, with a
matching digest, writes the run step back; with another only one record is written. (09_carry_unit.md R268;
09_carry_unit.md R269; 09_carry_unit.md R270; 09_carry_unit.md R271; 09_carry_unit.md R272) -/
def Obligations.MirrorsAreCopiedAndRestored : Prop :=
  (∀ (path : Path) (p : Nat) (s : State), let v := s.ringBefore path
    p < 16 → v.dictUp = true → v.mayWrite path = true →
    exec (.mirrorEnable path p) s = .next ((v.setMirror p { v.mirror p with on := true }).report path 0) ∧
    exec (.mirrorDisable path p) s = .next ((v.setMirror p { v.mirror p with on := false }).report path 0) ∧
    (∃ t, exec (.mirrorRestore path p) s = .next t ∧ (t.mirror p).restoring = true ∧ (t.mirror p).inbox = [] ∧
      t.cy.sent = v.cy.sent ++ [.restoreReq p (v.o (kCY_MIRROR_PEER p)) (v.o (kCY_MIRROR_ALLOT p))] ∧
      tget 0 t.status (pathCode path) = 0 ∧ t = { v with cy := t.cy, op := t.op, status := t.status }) ∧
    (∃ t, exec (.mirrorExport path p) s = .next t ∧
      t.cy.sent = v.cy.sent ++ [.exportReq p (v.o (kCY_MIRROR_PEER p)) (v.o (kCY_MIRROR_ALLOT p))
        ((upto 16).map (fun i => v.blob (kCY_EXPORT_TARGET p) i))] ∧
      tget 0 t.status (pathCode path) = 0 ∧ t = { v with cy := t.cy, op := t.op, status := t.status })) ∧
  (∀ (p step stroke : Nat) (ok : Bool) (s : State), (s.mirror p).copy = some (step, stroke) →
    (ok = true → (∀ r ∈ s.mirrorRegions p, s.regionOk p false r = true) → s.stroke < s.o (kCY_MIRROR_NEXT p) →
      ∃ t img, exec (.mirrorCopyEnd p ok) s = .next t ∧ t.mirrorHolds p = false ∧ img.step = step ∧ img.stroke = stroke ∧
        img.regions = s.mirrorRegions p ∧ img.hdr = (s.mirror p).hdr ∧
        t.cy.sent = s.cy.sent ++ [.mirror p (s.o (kCY_MIRROR_PEER p)) (s.o (kCY_MIRROR_ALLOT p)) img
          (digestOf (mirrorStream img))] ∧ t.decks = s.decks) ∧
    (ok = false ∨ s.o (kCY_MIRROR_NEXT p) ≤ s.stroke ∨ (∃ r ∈ s.mirrorRegions p, s.regionOk p false r = false) →
      ∃ t, exec (.mirrorCopyEnd p ok) s = .next t ∧ t.mirrorHolds p = false ∧ s.errs.seq < t.errs.seq ∧
        t.cy.sent = s.cy.sent ∧ t.decks = s.decks)) ∧
  (∀ (d k flow : Nat) (data : List Byte) (s : State), (s.allot k).coming = none →
    (s.o (kCY_ALLOT_SLOTS k) ≠ 1 → s.latestGen k ≠ some (s.inactiveGen k)) ∧
    (let t := s.copyPiece d k flow data
     bit (tget 0 (t.allot k).hdrs (s.inactiveGen k)) 0 = false ∧
     (∀ g, g ≠ s.inactiveGen k → tget 0 (t.allot k).hdrs g = tget 0 (s.allot k).hdrs g) ∧
     (data.length ≤ s.genBytes k → s.allotGranted k = true →
       (t.allot k).coming = some (flow, s.inactiveGen k, data.length)))) ∧
  (∀ (k node client : Nat) (img : MirrorImage) (d : BitVec 256) (s : State), k < 8 →
    (s.allotNames k node client = false ∨ (s.allot k).coming = none →
      exec (.mirrorCommit k ⟨node, client⟩ img d) s = .next s) ∧
    (∀ flow gen, s.allotNames k node client = true → s.allotGranted k = true →
      (s.allot k).coming = some (flow, gen, 64 + mirrorSize img) →
      tget 0 (s.allot k).hdrs gen = setField (mirrorHeader img d) 0 1 0 →
      ∃ t, exec (.mirrorCommit k ⟨node, client⟩ img d) s = .next t ∧ (t.allot k).coming = none ∧
        (let w := (upto 16).foldl (fun (s : State) d => s.drainBuffer d) s
         let read := (w.genRead k gen 64 (mirrorSize img)).2
         (digestOf read = d → tget 0 (t.allot k).hdrs gen = mirrorHeader img d ∧ bit (mirrorHeader img d) 0 = true ∧
           t.cy.sent = s.cy.sent ++ [.committed node client img.step]) ∧
         (digestOf read ≠ d → tget 0 (t.allot k).hdrs gen = setField (mirrorHeader img d) 0 1 0 ∧ t.cy.sent = s.cy.sent)) ∧
        (∀ g, g ≠ gen → tget 0 (t.allot k).hdrs g = tget 0 (s.allot k).hdrs g) ∧
        t = { s with cy := t.cy, decks := t.decks, op := t.op, errs := t.errs, mon := t.mon, host := t.host })) ∧
  (∀ (p : Nat) (img : MirrorImage) (d : BitVec 256) (s : State), (s.mirror p).restoring = false →
    exec (.mirrorRestoreEnd p img d) s = .next s) ∧
  (∀ (p : Nat) (img : MirrorImage) (d : BitVec 256) (s : State), p < 16 → (s.mirror p).restoring = true →
    (s.mirror p).inbox = leBytes 64 (mirrorHeader img d).toNat ++ mirrorStream img →
    (digestOf (mirrorStream img) = d → (∀ r ∈ img.regions, s.regionOk p true r = true) →
      ∃ t, exec (.mirrorRestoreEnd p img d) s = .next t ∧ (t.mirror p).restoring = false ∧
        t.runStep p = leNat ((img.hdr.drop (hdrSlots + hdrGroups + 8)).take 8) ∧ t.errs = s.errs) ∧
    (digestOf (mirrorStream img) ≠ d → ∃ t, exec (.mirrorRestoreEnd p img d) s = .next t ∧
      (t.mirror p).restoring = false ∧ t.errs.seq = s.errs.seq + 1 ∧ t.decks = s.decks ∧ t.parts = s.parts ∧ t.objs = s.objs))

/-- Links see light, train, authenticate in four steps and become active, or fail: For a link that may leave ABSENT: light
makes an ABSENT link LIGHT, or TRAINING when no hold runs; its loss makes any link ABSENT. The end of the hold starts
training. Training at the expected width with agreeing levels leads to AUTHENTICATING; another width, or 500 ms
without an end, is one more failure and LIGHT; disagreeing levels mean LIGHT and one record. In its turn, the message
having come whole (takeControl): HELLO of another node notes it and sends the certificate chain, of the own node means
LIGHT and one record; a CERT whose chain verifies and gives the HELLO's node sends a PROOF signed over the transcript
with a share; a PROOF whose signature verifies and whose share opens derives the link keys and sends CONFIRM; a
CONFIRM of a permitted partner makes the link ACTIVE (DEGRADED while narrowed), of another quarantines it, with its
partner's node either way. A bad CERT or PROOF quarantines it with one record. A step whose message has not come
changes nothing. The fourth timeout in a row quarantines, an earlier one leads to LIGHT or TRAINING.
(10_optical_ports_and_partners.md R285; 10_optical_ports_and_partners.md R286; 10_optical_ports_and_partners.md R287;
10_optical_ports_and_partners.md R290) -/
def Obligations.LinksTrainAndAuthenticate : Prop :=
  (∀ (l : Nat) (s : State), s.linkLive l = true → s.lkState l = lkABSENT →
    ∃ t, exec (.lightDetected l) s = .next t ∧ (t.link l).light = true ∧
      t.lkState l = (if (s.link l).hold ≤ s.ns then lkTRAINING else lkLIGHT)) ∧
  (∀ (l : Nat) (s : State), l < 64 → s.lkState l ≠ lkABSENT → ∃ t, exec (.lightLost l) s = .next t ∧
    t.lkState l = lkABSENT ∧ (t.link l).light = false ∧ t.o (kOP_PEER_NODE l) = 0) ∧
  (∀ (l : Nat) (s : State), s.linkLive l = true → s.lkState l = lkLIGHT → (s.link l).hold ≤ s.ns →
    ∃ t, exec (.trainingHoldEnd l) s = .next t ∧ t.lkState l = lkTRAINING) ∧
  (∀ (l lanes : Nat) (bamen : BitVec 64) (s : State), s.linkLive l = true → s.lkState l = lkTRAINING →
    s.ns ≤ (s.link l).since + 500000000 →
    (lanes = (if (s.link l).narrow = 0 then s.linkWidth l else (s.link l).narrow) →
      (levelsAgree (levelEntry (s.imageLevels 4) 0x10) (levelEntry [bamen] 0x10) = true →
        ∃ t, exec (.trainingComplete l lanes bamen) s = .next t ∧ t.lkState l = lkAUTH ∧ (t.link l).lanes = lanes ∧
          t.o (kOP_LINK_LANES l) = lanes ∧ (t.link l).trainFails = 0) ∧
      (levelsAgree (levelEntry (s.imageLevels 4) 0x10) (levelEntry [bamen] 0x10) = false →
        ∃ t, exec (.trainingComplete l lanes bamen) s = .next t ∧ t.lkState l = lkLIGHT ∧ t.errs.seq = s.errs.seq + 1)) ∧
    (lanes ≠ (if (s.link l).narrow = 0 then s.linkWidth l else (s.link l).narrow) →
      ∃ t, exec (.trainingComplete l lanes bamen) s = .next t ∧ t.lkState l = lkLIGHT ∧
        (t.link l).trainFails = (s.link l).trainFails + 1)) ∧
  (∀ (l : Nat) (s : State), s.linkLive l = true → s.lkState l = lkTRAINING → (s.link l).since + 500000000 ≤ s.ns →
    ∃ t, exec (.trainingTimeout l) s = .next t ∧ t.lkState l = lkLIGHT ∧ (t.link l).trainFails = (s.link l).trainFails + 1) ∧
  (∀ (l node fabric : Nat) (enc : Bool) (nonce : BitVec 256) (s : State),
    (s.takeControl l 0x10 (helloData node fabric enc nonce) = none → exec (.hello l node fabric enc nonce) s = .next s) ∧
    (∀ w, s.authAt l 0 = true → s.takeControl l 0x10 (helloData node fabric enc nonce) = some w →
      (node ≠ ownNode → ∃ u : State, exec (.hello l node fabric enc nonce) s
          = .next (u.sendControl l 0x10 (certData identityChain)) ∧ (u.link l).node = node ∧ (u.link l).fabric = fabric ∧
        (u.link l).nonce = nonce ∧ u.authAt l 1 = true ∧ u = { s with op := u.op }) ∧
      (node = ownNode → ∃ t, exec (.hello l node fabric enc nonce) s = .next t ∧ t.lkState l = lkLIGHT ∧
        t.errs.seq = s.errs.seq + 1))) ∧
  (∀ (l : Nat) (device issuers : List Byte) (s : State),
    (s.takeControl l 0x10 (certData (device ++ issuers)) = none → exec (.cert l device issuers) s = .next s) ∧
    (∀ w, s.authAt l 1 = true → s.takeControl l 0x10 (certData (device ++ issuers)) = some w →
      (Config.chainOk Config.rootKey (device ++ issuers) = true → keyNode (Config.chainKey (device ++ issuers)) = (s.link l).node →
        ∃ (u : State) (m : ProofMsg), exec (.cert l device issuers) s = .next (u.sendControl l 0x10 (proofData m)) ∧
          m.sig = (upto 384).map (fun i => Config.attSign s.draws (u.link l).transcript i) ∧
          (u.link l).peerChain = device ++ issuers ∧ u.authAt l 2 = true ∧ u = { s with op := u.op, draws := u.draws }) ∧
      (Config.chainOk Config.rootKey (device ++ issuers) = false ∨ keyNode (Config.chainKey (device ++ issuers)) ≠ (s.link l).node →
        ∃ t, exec (.cert l device issuers) s = .next t ∧ t.lkState l = lkQUARANTINED ∧ t.o (kOP_LINK_CAUSE l) = ctAUTH_FAIL ∧
          t.errs.seq = s.errs.seq + 1))) ∧
  (∀ (l : Nat) (m : ProofMsg) (s : State), let good := Config.pssVerify (Config.chainKey (s.link l).peerChain) (s.link l).transcript m.sig
    (s.takeControl l 0x10 (proofData m) = none → exec (.proof l m) s = .next s) ∧
    (∀ w, s.authAt l 2 = true → s.takeControl l 0x10 (proofData m) = some w →
      (∀ k, good = true → Config.oaepOpen m.share = some k →
        ∃ u : State, exec (.proof l m) s = .next (u.sendControl l 0x10 confirmData) ∧ (u.link l).peerShare = k ∧
          (u.link l).txKey = (u.link l).linkKey ownNode (s.link l).node ∧ (u.link l).rxKey = (u.link l).linkKey (s.link l).node ownNode ∧
          (u.link l).txKeyed = true ∧ u.authAt l 3 = true ∧ u = { s with op := u.op }) ∧
      (good = false ∨ Config.oaepOpen m.share = none →
        ∃ t, exec (.proof l m) s = .next t ∧ t.lkState l = lkQUARANTINED ∧ t.o (kOP_LINK_CAUSE l) = ctAUTH_FAIL ∧
          t.errs.seq = s.errs.seq + 1))) ∧
  (∀ (l : Nat) (m : List Byte) (s : State),
    (m ≠ confirmData ∨ s.takeControl l 0x10 m = none → exec (.confirm l m) s = .next s) ∧
    (∀ w, m = confirmData → s.authAt l 3 = true → s.takeControl l 0x10 m = some w →
      (s.permitted (s.link l).node (s.link l).fabric = true →
        ∃ t, exec (.confirm l m) s = .next t ∧ t.o (kOP_PEER_NODE l) = (s.link l).node ∧
          t.lkState l = (if (s.link l).narrow = 0 then lkACTIVE else lkDEGRADED)) ∧
      (s.permitted (s.link l).node (s.link l).fabric = false →
        ∃ t, exec (.confirm l m) s = .next t ∧ t.o (kOP_PEER_NODE l) = (s.link l).node ∧ t.lkState l = lkQUARANTINED ∧
          t.o (kOP_LINK_CAUSE l) = ctNOT_PERMITTED ∧ t.errs.seq = s.errs.seq + 1))) ∧
  (∀ (l : Nat) (s : State), s.linkLive l = true → s.lkState l = lkAUTH → (s.link l).turnAt ≠ 0 →
    (s.link l).turnAt - 1 + 2000000000 ≤ s.ns →
    (3 ≤ (s.link l).authTimeouts → ∃ t, exec (.authTimeout l) s = .next t ∧ t.lkState l = lkQUARANTINED ∧
      t.o (kOP_LINK_CAUSE l) = ctAUTH_TIMEOUT) ∧
    ((s.link l).authTimeouts < 3 → ∃ t, exec (.authTimeout l) s = .next t ∧
      (t.link l).authTimeouts = (s.link l).authTimeouts + 1 ∧
      t.lkState l = (if (s.link l).hold ≤ s.ns then lkTRAINING else lkLIGHT)))

/-- Flits are taken in sequence, damaged ones asked for again, and silent links retrained: A DATA flit of 256 B on an
ACTIVE or DEGRADED link under its keys, with good CRC and tag, the expected SEQ and room in its class: its credits and
ACK count, the expected SEQ advances by one modulo 2^16, one flit of the class is used, and its payload joins the
class's message; so does a CONTROL flit before CONFIRM while authenticating. A FIRST flit begins a message; the LAST
of one whose data fit its header completes it. A flit with a bad CRC asks once for retransmission with a RETRY_REQ
flit; while one is awaited it changes nothing but the slot count; a bad tag also counts one TAG. The retransmission
that such a request asked for resends every flit left in the retry buffer. After 1 us without sending an IDLE flit
goes out, also from a quarantined link; after 1 ms without an acknowledgement of kept flits the link trains. A credit
stall counts STALL, once an episode. A loss of lane lock retrains the link at the greatest power of two of its working
lanes, or below a quarter of its width takes it to LIGHT or, without a hold, to TRAINING.
(10_optical_ports_and_partners.md R280; 10_optical_ports_and_partners.md R281; 10_optical_ports_and_partners.md R282;
10_optical_ports_and_partners.md R283; 10_optical_ports_and_partners.md R288; 10_optical_ports_and_partners.md R290) -/
def Obligations.FlitsAreTakenInSequence : Prop :=
  (∀ (l : Nat) (f : Flit) (s : State), s.linkLive l = true → f.bytes.length = 256 → flitCrcOk f.bytes = true →
    let x := s.link l
    let h := flitHdr f.bytes
    let slot := x.rxSlot + f.gap
    let key := keyAt x.rxKey x.rxEpoch (slot / 2 ^ 31)
    let keyed := s.setLink l
      { x with rxKeyed := true, rxSlot := slot + 1, rxKey := key, rxEpoch := max x.rxEpoch (slot / 2 ^ 31) }
    let taken (v : State) : State :=
      ((v.setLink l { v.link l with dropping := false }).takeCredits l h.crData h.crCtrl).takeAck l h.ack
    let counted (w : State) : State := w.setLink l { w.link l with rxSeq := ((w.link l).rxSeq + 1) % 2 ^ 16 }
    let joined (w : State) : State := (counted w).setLink l { (counted w).link l with
      rxUsed := tset 0 (w.link l).rxUsed h.hops (tget 0 (w.link l).rxUsed h.hops + 1) }
    h.seq = x.rxSeq → h.len ≤ 224 →
    (s.linkUp l = true → x.rxKeyed = true → flitTagOk key slot f.bytes = true → h.kind = 1 → 1 ≤ h.hops → h.hops ≤ 8 →
      tget 0 ((taken keyed).link l).rxUsed h.hops < (taken keyed).classCredit l h.hops →
      exec (.flitReceive l f) s = .next ((joined (taken keyed)).joinMessage l h.hops h (flitBody (some key) slot f.bytes))) ∧
    (s.lkState l = lkAUTH → x.rxKeyed = false → x.authStep ≠ 3 → h.kind = 2 → h.hops = 0 →
      tget 0 ((taken s).link l).rxUsed 0 < (taken s).classCredit l 0 →
      exec (.flitReceive l f) s = .next ((joined (taken s)).joinMessage l 0 h (flitBody none 0 f.bytes)))) ∧
  (∀ (l cls : Nat) (h : FlitHdr) (body : List Byte) (s : State),
    (tget none (s.link l).rxPart cls = none → h.first = true → h.last = false →
      ∃ t, t = s.joinMessage l cls h body ∧
        tget none (t.link l).rxPart cls = some { msg := h.msg, bytes := body.take h.len, flits := 1 } ∧ t = { s with op := t.op }) ∧
    (∀ p, tget none (s.link l).rxPart cls = some p → h.first = false → p.msg = h.msg → h.last = true → 1 ≤ cls →
      let b := p.bytes ++ body.take h.len
      let hdr := BitVec.ofNat 256 (leNat (b.take 32))
      messageOk hdr (b.drop 32) = true → 1 ≤ mhKind hdr → mhKind hdr ≤ 3 →
      ∃ t, t = s.joinMessage l cls h body ∧ tget none (t.link l).rxPart cls = none ∧
        (t.link l).inbox = (s.link l).inbox ++ [{ cls := cls, hdr := hdr, data := b.drop 32, flits := p.flits + 1 }] ∧
        t = { s with op := t.op })) ∧
  (∀ (l : Nat) (f : Flit) (s : State), s.linkLive l = true → s.linkUp l = true → f.bytes.length = 256 →
    let x := s.link l
    let slot := x.rxSlot + f.gap
    (flitCrcOk f.bytes = false →
      (x.dropping = false → ∃ t b, exec (.flitReceive l f) s = .next t ∧ .flit l b ∈ t.op.out ∧ (flitHdr b).kind = 3) ∧
      (x.dropping = true →
        exec (.flitReceive l f) s = .next (if x.rxKeyed then s.setLink l { x with rxSlot := slot + 1 } else s))) ∧
    (flitCrcOk f.bytes = true → x.rxKeyed = true → flitTagOk (keyAt x.rxKey x.rxEpoch (slot / 2 ^ 31)) slot f.bytes = false →
      ∃ t, exec (.flitReceive l f) s = .next t ∧
        tget 0 (t.link l).totals ctTAG = min (tget 0 x.totals ctTAG + 1) (2 ^ 64 - 1))) ∧
  (∀ (l : Nat) (s : State), s.linkLive l = true → s.linkUp l = true →
    (∀ (ack : Nat), ((s.link l).asked = some (ack % 2 ^ 16) → ∃ t, exec (.retryReq l ack) s = .next t ∧
        (∀ q ∈ (s.link l).retry, ∃ b, .flit l b ∈ t.op.out ∧ (flitHdr b).seq = q.seq % 2 ^ 16) ∧ (t.link l).asked = none ∧
        t = { s with op := t.op }) ∧
      ((s.link l).asked ≠ some (ack % 2 ^ 16) → exec (.retryReq l ack) s = .next s)) ∧
    ((s.link l).retry ≠ [] → (s.link l).ackAt + 1000000 ≤ s.ns → ∃ t, exec (.ackTimeout l) s = .next t ∧
      t.lkState l = lkTRAINING) ∧
    (∀ (h a : Nat), 1 ≤ h → h ≤ 8 → tget 0 (s.link l).stallAt h = a + 1 → a + s.o kOP_STALL_US * 1000 < s.ns →
      h ∉ (s.link l).stallHit → ∃ t, exec (.creditStall l) s = .next t ∧ h ∈ (t.link l).stallHit ∧
        (tget 0 (s.link l).totals ctSTALL < tget 0 (t.link l).totals ctSTALL ∨ 2 ^ 64 - 1 ≤ tget 0 (s.link l).totals ctSTALL)) ∧
    (∀ (working : Nat), ∃ t, exec (.laneLockLoss l working) s = .next t ∧
      (working * 4 < s.linkWidth l → t.lkState l = (if (s.link l).hold ≤ s.ns then lkTRAINING else lkLIGHT)) ∧
      (s.linkWidth l ≤ working * 4 → t.lkState l = lkTRAINING ∧
        (t.link l).narrow = (if 2 ^ Nat.log2 working < s.linkWidth l then 2 ^ Nat.log2 working else 0)))) ∧
  (∀ (l : Nat) (s : State), s.linkLive l = true →
    (s.linkUp l = true ∨ s.lkState l = lkAUTH ∨ s.lkState l = lkQUARANTINED) → (s.link l).sentAt + 1000 ≤ s.ns →
    ∃ t b, exec (.idleAckTimer l) s = .next t ∧ t.op.out = s.op.out ++ [.flit l b] ∧ (flitHdr b).kind = 0 ∧
      (flitHdr b).seq = (s.link l).txSeq % 2 ^ 16 ∧ (t.link l).sentAt = s.ns ∧ t = { s with op := t.op })

/-- Messages land, are forwarded or dropped, and routes are learnt, advertised and forgotten: A DATA message that has come
whole on a link (takeData): one for this node that a unit takes is landed in VC2 packets of at most 4 KiB of the
port's edge group, which its landing counts; one that no unit takes counts a DISCARD. One for another node with hops
and a route left joins its transit class; the last hop's counts a HOPS expiry and one without a route a NO_ROUTE, each
also a DISCARD. The head of a transit class waits while its next link has no credit or sends another message of the
class; then it goes to a link of its own port, or crosses the mesh in VC2 packets to another's. An advertised
destination within 8 hops is kept with the advertised cost plus the link's (while the table has room), one beyond is
no longer reached over the link. When due, the change is settled; a link is told every destination, those it taught
and those withdrawn as unreachable. A next hop not advertised for 400 strokes is removed. A flow held for 1 ms goes
on. (10_optical_ports_and_partners.md R283; 10_optical_ports_and_partners.md R284; 10_optical_ports_and_partners.md
R294; 10_optical_ports_and_partners.md R295) -/
def Obligations.MessagesAndRoutes : Prop :=
  (∀ (l hops n : Nat) (hdr : BitVec 256) (data : List Byte) (s w : State), s.takeData l hops hdr data = some (w, n) →
    (mhDst hdr = ownNode → s.accepts hdr data = true →
      ∃ t rs m, exec (.bamenMessage l hops hdr data) s = .next t ∧ t.op.landing = s.op.landing ++ [m] ∧ m.hdr = hdr ∧
        m.data = data ∧ m.left = rs.length ∧
        rs.length = ((if mhKind hdr = 3 then data.length - 8 else data.length) + 4095) / 4096 ∧
        t.mesh.vc2 = s.mesh.vc2 ++ rs ∧ (∀ r ∈ rs, r.part = mhPart hdr ∧ r.writer = .edge m.id ∧ r.len ≤ 4096) ∧
        t = { s with mesh := t.mesh, op := t.op, rods := t.rods }) ∧
    (mhDst hdr = ownNode → s.accepts hdr data = false → ∃ t, exec (.bamenMessage l hops hdr data) s = .next t ∧
      tget 0 (t.link l).totals ctDISCARD = min (tget 0 (s.link l).totals ctDISCARD + 1) (2 ^ 64 - 1) ∧ t.mesh = s.mesh) ∧
    (mhDst hdr ≠ ownNode → hops = 1 → ∃ t, exec (.bamenMessage l hops hdr data) s = .next t ∧
      tget 0 (t.link l).totals ctHOPS = min (tget 0 (s.link l).totals ctHOPS + 1) (2 ^ 64 - 1) ∧
      tget 0 (t.link l).totals ctDISCARD = min (tget 0 (s.link l).totals ctDISCARD + 1) (2 ^ 64 - 1)) ∧
    (mhDst hdr ≠ ownNode → hops ≠ 1 → s.nextHops (mhDst hdr) = [] →
      ∃ t, exec (.bamenMessage l hops hdr data) s = .next t ∧
        tget 0 (t.link l).totals ctNO_ROUTE = min (tget 0 (s.link l).totals ctNO_ROUTE + 1) (2 ^ 64 - 1) ∧
        tget 0 (t.link l).totals ctDISCARD = min (tget 0 (s.link l).totals ctDISCARD + 1) (2 ^ 64 - 1)) ∧
    (mhDst hdr ≠ ownNode → hops ≠ 1 → s.nextHops (mhDst hdr) ≠ [] →
      ∃ t, exec (.bamenMessage l hops hdr data) s = .next t ∧
        (tget [] t.op.transit (8 * (l / 4) + (hops - 1))).map (·.hdr)
          = (tget [] s.op.transit (8 * (l / 4) + (hops - 1))).map (·.hdr) ++ [hdr] ∧ t = { s with op := t.op })) ∧
  (∀ (l hops : Nat) (hdr : BitVec 256) (data : List Byte) (s : State), s.takeData l hops hdr data = none →
    exec (.bamenMessage l hops hdr data) s = .next s) ∧
  (∀ (port hop : Nat) (m : Transit) (rest : List Transit) (s : State), port < 16 → hop < 8 →
    tget [] s.op.transit (8 * port + hop) = m :: rest → m.inside = true → m.stage = 0 →
    (∀ out, s.chooseLink m.hdr = some out →
      (tget 0 (s.link out).credits hop = 0 ∨ tget [] (s.link out).queue hop ≠ [] → exec (.transitSend port hop) s = .next s) ∧
      (tget 0 (s.link out).credits hop ≠ 0 → tget [] (s.link out).queue hop = [] →
        (out / 4 = port → exec (.transitSend port hop) s = .next (s.forward (8 * port + hop) hop)) ∧
        (out / 4 ≠ port → ∃ t rs, exec (.transitSend port hop) s = .next t ∧
          tget [] t.op.transit (8 * port + hop) = { m with stage := 1 } :: rest ∧ t.mesh.vc2 = s.mesh.vc2 ++ rs ∧
          rs.length = (32 + m.data.length + 4095) / 4096 ∧ (∀ r ∈ rs, r.writer = .transit (8 * port + hop) ∧ r.len ≤ 4096) ∧
          t = { s with mesh := t.mesh, op := t.op, rods := t.rods }))) ∧
    (s.chooseLink m.hdr = none → ∃ t, exec (.transitSend port hop) s = .next t ∧
      tget 0 (t.link m.inLink).totals ctNO_ROUTE = min (tget 0 (s.link m.inLink).totals ctNO_ROUTE + 1) (2 ^ 64 - 1))) ∧
  (∀ (l : Nat) (adv : List RouteAdv) (a : RouteAdv) (s w : State), s.linkLive l = true → s.linkUp l = true →
    s.takeControl l 0x11 (advertData (adv ++ [a])) = some w → a.node ≠ ownNode → a.node ≠ s.o (kOP_PEER_NODE l) →
    ∃ t, exec (.routeAdvertisement l (adv ++ [a])) s = .next t ∧
      (8 < a.hops + 1 ∨ 0xFFFF ≤ a.cost + s.linkCost l →
        ∀ r ∈ t.op.routes, r.node = a.node → ∀ v ∈ r.vias, v.link ≠ l) ∧
      (a.hops + 1 ≤ 8 → a.cost + s.linkCost l < 0xFFFF → s.op.routes.length + adv.length < 16384 →
        ∃ r ∈ t.op.routes, r.node = a.node ∧
          { link := l, cost := a.cost + s.linkCost l, hops := a.hops + 1, seen := some s.stroke } ∈ r.vias)) ∧
  (∀ (s : State), (s.op.changed = true ∨ s.op.advAt + 100 ≤ s.stroke) → ∃ t, exec .routeAdvertTimer s = .next t ∧
    t.op.changed = false ∧ t.op.withdrawn = [] ∧ t.op.advAt = s.stroke ∧ t.op.routes = s.op.routes ∧ t = { s with op := t.op }) ∧
  (∀ (l : Nat) (s : State),
    (∀ r ∈ s.op.routes, ∃ a ∈ s.advert l, a.node = r.node ∧
      (l ∈ r.hops → (∃ v ∈ r.vias, v.link = l) → a.cost = 0xFFFF ∧ a.hops = 0xFF)) ∧
    (∀ n ∈ s.op.withdrawn, (∀ r ∈ s.op.routes, r.node ≠ n) → ∃ a ∈ s.advert l, a.node = n ∧ a.cost = 0xFFFF)) ∧
  (∀ (node l : Nat) (s : State), ∃ t, exec (.routeExpiry node l) s = .next t ∧
    (∀ r ∈ t.op.routes, r.node = node → ∀ v ∈ r.vias, v.link = l → ∀ x, v.seen = some x → s.stroke < x + 400) ∧
    t = { s with objs := t.objs, op := t.op }) ∧
  (∀ (flow : Nat) (f : Flow) (s : State), s.op.flows.find? (fun f => f.key == flow) = some f → f.heldAt + 1000000 ≤ s.ns →
    ∃ t, exec (.flowHoldExpiry flow) s = .next t ∧ (∀ g ∈ t.op.flows, g.key ≠ flow) ∧ t = { s with op := t.op })

/-- Links recover, change keys, are retrained, released, disabled and enabled: For a live link: a DEGRADED one at full
width, 10,000 strokes after its latest threshold, is ACTIVE again; a quarantine ends in LIGHT, or in TRAINING without
a hold; the key epoch advances by one when its flit slots have passed, and the sending key derives from the old one; a
loss of slot alignment retrains. By a path that may write, in its turn (ringBefore), each reporting 0: ENABLE of a
link that is not shutting down enables it, and during a shut-down is held; DISABLE of an enabled link begins its shut-
down; RETRAIN takes an ACTIVE or DEGRADED link to TRAINING at full width; RELEASE ends a quarantine. The end of a
shut-down leaves the link ABSENT and dark, and enabled again if an enable was held. (10_optical_ports_and_partners.md
R288; 10_optical_ports_and_partners.md R291; 10_optical_ports_and_partners.md R292; 10_optical_ports_and_partners.md
R293; 16_boot_firmware_trust.md R455; 16_boot_firmware_trust.md R456) -/
def Obligations.LinksRecoverAndAreControlled : Prop :=
  (∀ (l : Nat) (s : State), s.linkLive l = true →
    (s.lkState l = lkDEGRADED → (s.link l).narrow = 0 → max (s.link l).lastHit (s.link l).sinceStroke + 10000 ≤ s.stroke →
      ∃ t, exec (.degradedRecovery l) s = .next t ∧ t.lkState l = lkACTIVE ∧ (t.link l).limited = false ∧
        t = { s with objs := t.objs, op := t.op }) ∧
    (s.lkState l = lkQUARANTINED → (s.link l).quarEnd ≤ s.stroke → ∃ t, exec (.quarantineHoldEnd l) s = .next t ∧
      t.lkState l = (if (s.link l).hold ≤ s.ns then lkTRAINING else lkLIGHT)) ∧
    (s.linkUp l = true → 2 ^ 31 * (s.o (kOP_KEY_EPOCH l) + 1) ≤ max (s.link l).txSlot (s.slotsGone l) →
      exec (.keyEpochSwitch l) s = .next ((s.setLink l { s.link l with
        txKey := nextKey (s.link l).txKey (s.o (kOP_KEY_EPOCH l) + 1) }).setO (kOP_KEY_EPOCH l)
          ((s.o (kOP_KEY_EPOCH l) + 1) % 2 ^ 32))) ∧
    (s.linkUp l = true ∨ s.lkState l = lkAUTH → ∃ t, exec (.slotAlignmentLoss l) s = .next t ∧ t.lkState l = lkTRAINING)) ∧
  (∀ (path : Path) (l : Nat) (s : State), let v := s.ringBefore path
    l < 64 → v.dictUp = true → v.mayWrite path = true →
    ((v.link l).downAt = 0 →
      exec (.linkEnable path l) s = .next ((v.setLink l { v.link l with disabled := false }).report path 0)) ∧
    ((v.link l).downAt ≠ 0 → exec (.linkEnable path l) s = .next ((v.pendEnable 3 l).report path 0)) ∧
    ((v.link l).downAt = 0 → (v.link l).disabled = false → exec (.linkDisable path l) s
      = .next ((v.setLink l { v.link l with disabled := true, downAt := v.ns + 1 }).report path 0)) ∧
    ((v.link l).downAt ≠ 0 → exec (.linkDisable path l) s = .next ((v.dropPending 3 l).report path 0)) ∧
    (v.linkLive l = true → v.linkUp l = true → ∃ t, exec (.linkRetrain path l) s = .next t ∧ t.lkState l = lkTRAINING ∧
      (t.link l).narrow = 0 ∧ tget 0 t.status (pathCode path) = 0) ∧
    (v.linkLive l = true → v.lkState l = lkQUARANTINED → ∃ t, exec (.linkRelease path l) s = .next t ∧
      t.lkState l = (if (v.link l).hold ≤ v.ns then lkTRAINING else lkLIGHT) ∧ (t.link l).doubling = 0 ∧
      tget 0 t.op.doubling (v.link l).node = 0 ∧ tget 0 t.status (pathCode path) = 0) ∧
    (v.lkState l ≠ lkQUARANTINED → exec (.linkRelease path l) s = .next (v.report path 0))) ∧
  (∀ (l : Nat) (s : State), l < 64 → (s.link l).downAt ≠ 0 → ∃ t, exec (.linkShutdownEnd l) s = .next t ∧
    t.lkState l = lkABSENT ∧ (t.link l).light = false ∧ (t.link l).downAt = 0 ∧ .dark l ∈ t.op.out ∧
    ((∃ e ∈ s.pend, e.kind = 3 ∧ e.inst = l) → (t.link l).disabled = false) ∧
    ((∀ e ∈ s.pend, ¬(e.kind = 3 ∧ e.inst = l)) → (t.link l).disabled = (s.link l).disabled))

/-- The server starts, stops and drains, and requests are submitted and cancelled: By a path that may write, in its turn
(ringBefore): START of a STOPPED server with valid settings leaves it RUNNING at step 0 with no request; while not
STOPPED it reports SV_BUSY, with invalid settings SV_CONFIG, and nothing else changes. STOP of a server that runs is
noted, DRAIN makes a RUNNING one DRAINING; each reports 0. A SUBMIT command at the head of a served queue whose
request passes the checks makes its entry QUEUED with DRAFT_K = DRAFT_MAX and the request joins its account's queue;
one that fails a check changes no table. A CANCEL that names the tag of an entry in use sets CANCEL once and fixes the
cancel step; one that does not changes no table. (11_serving_and_jetton.md R300; 11_serving_and_jetton.md R301;
11_serving_and_jetton.md R302; 11_serving_and_jetton.md R305; 11_serving_and_jetton.md R326; 14_host_port.md R391) -/
def Obligations.ServerAndRequests : Prop :=
  (∀ (path : Path) (s : State), let v := s.ringBefore path
    v.dictUp = true → v.mayWrite path = true →
    (v.svState = svSTOPPED → v.fwGate = 0 → v.svConfigOk = true → ∃ t, exec (.svStart path) s = .next t ∧
      t.svState = svRUNNING ∧ t.o kSV_STEP = 0 ∧ t.sv.reqs = [] ∧ t.sv.pages = [] ∧ t.sv.phase = 0 ∧ t.o kSV_QUEUED = 0 ∧
      tget 0 t.status (pathCode path) = 0 ∧ t = { v with objs := t.objs, decks := t.decks, sv := t.sv, status := t.status }) ∧
    (v.svState ≠ svSTOPPED → exec (.svStart path) s = .next (v.report path stSV_BUSY)) ∧
    (v.svState = svSTOPPED → v.fwGate = 0 → v.svConfigOk = false →
      exec (.svStart path) s = .next (v.report path stSV_CONFIG)) ∧
    (v.svState ≠ svSTOPPED →
      exec (.svStop path) s = .next ({ v with sv := { v.sv with stopping := true } }.report path 0)) ∧
    (v.svState = svSTOPPED → exec (.svStop path) s = .next (v.report path 0)) ∧
    (v.svState = svRUNNING → exec (.svDrain path) s = .next ((v.setO kSV_STATE svDRAINING).report path 0)) ∧
    (v.svState ≠ svRUNNING → exec (.svDrain path) s = .next (v.report path 0))) ∧
  (∀ (fn q : Nat) (h : BitVec 1024) (s : State), s.headReady fn q = some h → s.fatal = false → s.commonCheck fn h = 0 →
    s.partServed (cmdPart fn h) = true → hcArg h 0 < 65536 → (fn = 0 ∨ fn = s.svTeacher + 1) →
    (hcOpcode h = 10 →
      (s.submitCheck (hcArg h 0) (Req.ofDesc (hcDesc h)) = 0 → ∃ t, exec (.svSubmit fn q) s = .next t ∧
        t.req (hcArg h 0) = { Req.ofDesc (hcDesc h) with state := rqQUEUED, draftK := (Req.ofDesc (hcDesc h)).draftMax } ∧
        hcArg h 0 ∈ (t.acct (Req.ofDesc (hcDesc h)).account).queued ∧
        (∀ i, i ≠ hcArg h 0 → t.req i = s.req i) ∧ t.rods = s.rods) ∧
      (s.submitCheck (hcArg h 0) (Req.ofDesc (hcDesc h)) ≠ 0 → ∃ t, exec (.svSubmit fn q) s = .next t ∧ t.sv = s.sv ∧
        t.decks = s.decks)) ∧
    (hcOpcode h = 11 →
      ((s.req (hcArg h 0)).state ≠ rqFREE → (s.req (hcArg h 0)).hostTag = hcArg h 1 → (s.req (hcArg h 0)).cancel = false →
        ∃ t, exec (.svCancel fn q) s = .next t ∧ t.req (hcArg h 0) = { s.req (hcArg h 0) with cancel := true } ∧
          (t.rx (hcArg h 0)).cancelStep = s.o kSV_STEP + 1 ∧ (∀ i, i ≠ hcArg h 0 → t.req i = s.req i)) ∧
      ((s.req (hcArg h 0)).state = rqFREE ∨ (s.req (hcArg h 0)).hostTag ≠ hcArg h 1 → ∃ t, exec (.svCancel fn q) s = .next t ∧
        t.sv = s.sv ∧ t.decks = s.decks)))

/-- A serving step passes from its boundary through draft, verify and delivery: A due boundary with a STOP pending leaves
the server STOPPED with every entry FREE; otherwise a RUNNING server goes to its draft phase. The draft phase ends
once every drafting request has its draft tokens and no row is in a unit; it changes nothing else, but a drafting
request with an unreadable draft page is LEAVING with DECK_UNCORR and one record; the verify phase once every
request's rows are decided. A request alone in the step, whose reads met no fault, then has its chunk or its accepted
drafts and one more token in LENGTH, the tokens emitted in GENERATED, and is LEAVING if one was its last. The delivery
ends the step: SV_STEP is one more and the next boundary is due. The end of a demotion's copies marks it copied when
every word could be read, and failed otherwise. (11_serving_and_jetton.md R302; 11_serving_and_jetton.md R309;
11_serving_and_jetton.md R310; 11_serving_and_jetton.md R311; 11_serving_and_jetton.md R315; 11_serving_and_jetton.md
R316; 11_serving_and_jetton.md R322; 11_serving_and_jetton.md R323) -/
def Obligations.ServingStepsInFourPhases : Prop :=
  (∀ (s : State), s.svState ≠ svSTOPPED → s.sv.phase = 0 →
    (s.sv.stopping = true → ∃ t, exec .servingBoundary s = .next t ∧ t.svState = svSTOPPED ∧ t.sv.stopping = false ∧
      t.sv.phase = 0 ∧ (∀ i, (t.req i).state = rqFREE)) ∧
    (s.sv.stopping = false → s.svState = svRUNNING → ∃ t, exec .servingBoundary s = .next t ∧ t.svState = svRUNNING ∧
      t.sv.phase = 1)) ∧
  (∀ (s : State), s.svState ≠ svSTOPPED → s.sv.phase = 1 → s.sv.rows = [] →
    (∀ i ∈ s.inPhase, (s.rx i).drafts.length = (s.rx i).k) →
    ((∀ i ∈ s.inPhase, 0 < (s.rx i).k → s.pagesBad true i = []) →
      exec .draftPhase s = .next { s with sv := { s.sv with phase := 2 } }) ∧
    (∀ i a l, s.inPhase = [i] → 0 < (s.rx i).k → s.pagesBad true i = a :: l → ∃ t, exec .draftPhase s = .next t ∧
      t.sv.phase = 2 ∧ (t.req i).state = rqLEAVING ∧ (t.req i).result = rsDECK_UNCORR ∧ t.errs.seq = s.errs.seq + 1)) ∧
  (∀ (s : State), s.svState ≠ svSTOPPED → s.sv.phase = 2 → s.sv.rows = [] →
    (∀ i ∈ s.inPhase, (s.rx i).decided = true ∨ ((s.rx i).prefill = true ∧ s.reaches i = false)) →
    ∃ t, exec .verifyPhase s = .next t ∧ t.sv.phase = 3 ∧ t.o kSV_STEP = s.o kSV_STEP ∧
      (∀ i, s.inPhase = [i] → (s.readFault i).1 = 0 →
        (t.req i).length = (s.req i).length + (if (s.rx i).prefill then (s.rx i).chunk else (s.rx i).accepted + 1) ∧
        (t.req i).generated = (s.req i).generated + (s.rx i).emitted.length ∧
        ((s.rx i).last ≠ 0 → (t.req i).state = rqLEAVING ∧ (t.req i).result = (s.rx i).last) ∧
        ((s.rx i).last = 0 → (s.rx i).decided = true → (t.req i).state = rqDECODE))) ∧
  (∀ (s : State), s.svState ≠ svSTOPPED → s.sv.phase = 3 → ∃ t, exec .delivery s = .next t ∧ t.sv.phase = 0 ∧
    t.o kSV_STEP = s.o kSV_STEP + 1 ∧ t.svState = s.svState ∧ t.rods = s.rods) ∧
  (∀ (d : Nat) (m : Demotion) (s : State), s.sv.demotions.find? (fun m => m.d == d && m.phase == 0) = some m →
    ∃ t m', exec (.demotionCopyEnd d) s = .next t ∧ m' ∈ t.sv.demotions ∧ m'.d = d ∧ m'.req = m.req ∧
      (∀ a, s.hasDraft = false → s.udPhys s.svTeacher (s.pageSlot false d).2.2.1 (s.pageSlot false d).2.2.2 false = some a →
        m'.phase = (if s.decks.udBadIn a (s.pageSlot false d).2.2.2 then 2 else 1)))

/-- Rows go through the jetton units, and channels change rings and are consumed: A due row of a program of the row's
partition joins the unit of its slice's die; one in a hole ends a command without a status with DECK_RANGE. The unit
finishes its oldest row and counts it: a draft row's token joins the request's drafts and is returned to the program;
the row of a completed prefill emits its token and decides the request; a row at fault makes its request LEAVING with
that result. By a path that may write, in its turn, a valid ring change of a STOPPED server is in force at once with
HEAD and TAIL 0, and of another is held pending; an invalid one is refused. A tail within what the ring holds is
taken; one beyond, or by another function, is ignored, counted and marked in the function's DB_ERR; while the function
is being reset nothing happens. (Log entry 3 names the values the spec leaves open.) (11_serving_and_jetton.md R316;
11_serving_and_jetton.md R319; 11_serving_and_jetton.md R321; 11_serving_and_jetton.md R325; 11_serving_and_jetton.md
R329; 14_host_port.md R396; 11_serving_and_jetton.md R330) -/
def Obligations.RowsAndChannels : Prop :=
  (∀ (rod : Nat) (row : JettonReq) (s : State), s.issues rod = true → s.svState ≠ svSTOPPED →
    s.owner rod = (if row.teacher then s.svTeacher else s.svDraft) →
    (∀ a, s.udPhys (s.owner rod) row.addr (4 * s.o kSV_VOCAB) false = some a → s.rowDue row = true →
      ∃ t q, exec (.jettonRow rod row) s = .next t ∧ t.sv.rows = s.sv.rows ++ [q] ∧ q.row = row ∧ q.rod = rod ∧ q.phys = a ∧
        q.die = rodDie (a / 2 ^ 29) ∧ t = { s with sv := t.sv }) ∧
    (s.udPhys (s.owner rod) row.addr (4 * s.o kSV_VOCAB) false = none → ∃ t, exec (.jettonRow rod row) s = .next t ∧
      (t.rod rod).ended = true ∧ (∀ c, s.runCmd (s.owner rod) = some c → c.cmd.status = 0 →
        (t.runCmd (s.owner rod)).map (fun c => c.cmd.status) = some stDECK_RANGE) ∧
      t = { s with rods := t.rods, ctxs := t.ctxs })) ∧
  (∀ (die : Nat) (q : JRow) (s : State), s.sv.rows.find? (fun q => q.die == die) = some q →
    ∃ t, exec (.jettonRowDone die) s = .next t ∧ t.sv.rows = s.sv.rows.erase q ∧
      tget 0 t.sv.jtRows die = min (tget 0 s.sv.jtRows die + 1) (2 ^ 64 - 1) ∧
      (((s.req q.row.req).state = rqPREFILL ∨ (s.req q.row.req).state = rqDECODE) → (s.rx q.row.req).inStep = true →
        (∀ e, { s with sv := { s.sv with rows := s.sv.rows.erase q } }.rowOutcome q = .error e →
          (t.req q.row.req).state = rqLEAVING ∧ (t.req q.row.req).result = e) ∧
        (∀ u tok, { s with sv := { s.sv with rows := s.sv.rows.erase q } }.rowOutcome q = .ok (u, false, tok, false) →
          (t.rod q.rod).ret = tok ∧
          (q.row.teacher = false → (t.rx q.row.req).drafts = (s.rx q.row.req).drafts ++ [(tok, q.phys)]) ∧
          (q.row.teacher = true → (s.rx q.row.req).prefill = true → (s.rx q.row.req).results = [] →
            (s.rx q.row.req).accepted = 0 → (s.rx q.row.req).decided = false → (s.rx q.row.req).last = 0 →
            (t.rx q.row.req).emitted = (s.rx q.row.req).emitted ++ [(tok, false)] ∧ (t.rx q.row.req).decided = true)))) ∧
  (∀ (path : Path) (c : Nat) (base entries : Option Nat) (s : State), let v := s.ringBefore path
    c < 24 → v.dictUp = true → v.mayWrite path = true →
    (((∃ b, base = some b ∧ (b % 4096 ≠ 0 ∨ 2 ^ 64 ≤ b)) ∨ (∃ n, entries = some n ∧ entriesOk n = false)) →
      exec (.ringChange path c base entries) s = .next (v.report path (invalidParam path))) ∧
    ((∀ b, base = some b → b % 4096 = 0 ∧ b < 2 ^ 64) → (∀ n, entries = some n → entriesOk n = true) →
      (v.svState = svSTOPPED → (v.chan c).held = [] → (v.chan c).beyond = [] → (v.chan c).change = none →
        ∃ t, exec (.ringChange path c base entries) s = .next t ∧
          t.o (kSV_CH_BASE c) = base.getD (v.o (kSV_CH_BASE c)) ∧ t.o (kSV_CH_ENTRIES c) = entries.getD (v.o (kSV_CH_ENTRIES c)) ∧
          t.o (kSV_CH_HEAD c) = 0 ∧ t.o (kSV_CH_TAIL c) = 0 ∧ tget 0 t.status (pathCode path) = 0) ∧
      (v.svState ≠ svSTOPPED → (v.chan c).change = none → exec (.ringChange path c base entries) s
        = .next ((v.setChan c { v.chan c with change := some (base.getD (v.o (kSV_CH_BASE c)),
                                                                entries.getD (v.o (kSV_CH_ENTRIES c))) }).report path 0)))) ∧
  (∀ (fn c value : Nat) (s : State), c < 24 → s.fnUp fn = true →
    (fn = s.svTeacher + 1 → (value + 2 ^ 32 - s.o (kSV_CH_TAIL c) % 2 ^ 32) % 2 ^ 32 ≤ s.ringCount c →
      ∃ t, exec (.cqChTail fn c value) s = .next t ∧ t.o (kSV_CH_TAIL c) = value % 2 ^ 32 ∧
        t.o kCQ_DB_ERRORS = s.o kCQ_DB_ERRORS) ∧
    ((fn ≠ s.svTeacher + 1 ∨ s.ringCount c < (value + 2 ^ 32 - s.o (kSV_CH_TAIL c) % 2 ^ 32) % 2 ^ 32) →
      ∃ t, exec (.cqChTail fn c value) s = .next t ∧ t.o (kSV_CH_TAIL c) = s.o (kSV_CH_TAIL c) ∧
        t.o kCQ_DB_ERRORS = min (s.o kCQ_DB_ERRORS + 1) (2 ^ 32 - 1) ∧ (t.func fn).dbErr = true ∧ t.sv = s.sv ∧
        t.host.mem = s.host.mem)) ∧
  (∀ (fn c value : Nat) (s : State), s.fnUp fn = false → exec (.cqChTail fn c value) s = .next s)

/-- Partitions are created, reshaped and destroyed, and zeroing completes each change: By a path that may write, in its
turn (ringBefore): CREATE of a NONE partition with a tenant and a valid mask makes it ZEROING, owning those frames,
with no context RESIDENT or in use; without a tenant it reports PT_TENANT, with a bad mask PT_FRAMES, of another
PT_BUSY, and nothing else changes. ADD to an ACTIVE, unbound partition marks the frames 0xFE and leaves its own;
REMOVE makes it QUIESCING with the frames to leave; DESTROY makes it QUIESCING with no command and no RESIDENT
context. The end of CREATE's zeroing makes it ACTIVE with empty caches and zero slices; that of ADD's adds the frames
to it. Once no command runs, REMOVE's frames leave it and DESTROY leaves it none; the end of that zeroing frees the
frames, and it is ACTIVE again, or NONE without an enable held. (12_partitions_and_preemption.md R336;
12_partitions_and_preemption.md R337; 12_partitions_and_preemption.md R338; 12_partitions_and_preemption.md R474) -/
def Obligations.PartitionsAreCreatedAndDestroyed : Prop :=
  (∀ (path : Path) (p : Nat) (s : State), let v := s.ringBefore path
    p < 16 → v.dictUp = true → v.mayWrite path = true →
    (v.fwGate = 0 → (v.part p).quiesce ≠ 2 → (v.part p).quiesce ≠ 4 →
      (v.o (kPT_STATE p) ≠ 0 → exec (.ptCreate path p) s = .next (v.report path stPT_BUSY)) ∧
      (v.o (kPT_STATE p) = 0 → v.o (kPT_TENANT p) = 0 → exec (.ptCreate path p) s = .next (v.report path stPT_TENANT)) ∧
      (v.o (kPT_STATE p) = 0 → v.o (kPT_TENANT p) ≠ 0 → v.framesOk (v.o (kPT_FRAME_ARG p)) 0 = false →
        exec (.ptCreate path p) s = .next (v.report path stPT_FRAMES)) ∧
      (v.o (kPT_STATE p) = 0 → v.o (kPT_TENANT p) ≠ 0 → v.framesOk (v.o (kPT_FRAME_ARG p)) 0 = true →
        ∃ t, exec (.ptCreate path p) s = .next t ∧ t.o (kPT_STATE p) = 1 ∧ t.frames p = v.o (kPT_FRAME_ARG p) ∧
          t.resident p = 0xFF ∧ (∀ f ∈ maskFrames (v.o (kPT_FRAME_ARG p)), tget 0xFF t.frameOwner f = p ∧
            ∀ r ∈ frameRods f, tget 0 t.decks.zeroing r = v.ns + 1) ∧ (∀ c, c < 8 → t.ctx p c = {}) ∧
          tget 0 t.status (pathCode path) = 0 ∧ t.rods = v.rods)) ∧
    (v.o (kPT_STATE p) = 2 → v.partBound p = false → v.framesOk (v.o (kPT_FRAME_ARG p)) (v.frames p ||| v.adding p) = true →
      ∃ t, exec (.ptAdd path p) s = .next t ∧ t.frames p = v.frames p ∧ t.o (kPT_STATE p) = 2 ∧
        (∀ f ∈ maskFrames (v.o (kPT_FRAME_ARG p)), tget 0xFF t.frameOwner f = 0xFE) ∧
        (t.part p).adds = (v.part p).adds ++ [(BitVec.ofNat 64 (v.o (kPT_FRAME_ARG p)), v.ns)] ∧
        tget 0 t.status (pathCode path) = 0 ∧ t.rods = v.rods) ∧
    (v.o (kPT_STATE p) = 2 → v.partBound p = false → v.o (kPT_FRAME_ARG p) ≠ 0 →
      v.frames p &&& v.o (kPT_FRAME_ARG p) = v.o (kPT_FRAME_ARG p) →
      gridConnected 8 (v.frames p ^^^ v.o (kPT_FRAME_ARG p)) = true →
      ∃ t, exec (.ptRemove path p) s = .next t ∧ t.o (kPT_STATE p) = 3 ∧ t.frames p = v.frames p ∧ (t.part p).quiesce = 1 ∧
        (t.part p).removing = BitVec.ofNat 64 (v.o (kPT_FRAME_ARG p)) ∧ tget 0 t.status (pathCode path) = 0 ∧
        t.ctxs = v.ctxs) ∧
    (∀ i, (i = .ptAdd path p ∨ i = .ptRemove path p) → v.o (kPT_STATE p) ≠ 2 ∨ v.partBound p = true →
      exec i s = .next (v.report path stPT_BUSY)) ∧
    (v.o (kPT_STATE p) ≠ 0 → (v.part p).quiesce ≠ 2 → (v.part p).quiesce ≠ 4 → ∃ t, exec (.ptDestroy path p) s = .next t ∧
      t.o (kPT_STATE p) = 3 ∧ (t.part p).quiesce = 2 ∧ t.resident p = 0xFF ∧ (∀ c, c < 8 → (t.ctx p c).run = none) ∧
      tget 0 t.status (pathCode path) = 0)) ∧
  (∀ (p : Nat) (s : State), p < 16 → s.o (kPT_STATE p) = 1 → ∃ t : State,
    exec (.createZeroingEnd p) s = .next t.pollAll ∧
    t.o (kPT_STATE p) = 2 ∧ (∀ f ∈ s.partFrames p, ∀ r ∈ frameRods f, (t.rod r).cache = [] ∧
      ∀ a, r * 2 ^ 29 ≤ a → a < (r + 1) * 2 ^ 29 → mget t.decks.ud a = 0)) ∧
  (∀ (p b : Nat) (m : BitVec 64) (l : List (BitVec 64 × Nat)) (s : State), p < 16 → (s.part p).adds = (m, b) :: l →
    ∃ t, exec (.addZeroingEnd p) s = .next t ∧ t.frames p = s.frames p ||| m.toNat ∧ (t.part p).adds = l ∧
      (∀ f ∈ maskFrames m.toNat, tget 0xFF t.frameOwner f = p)) ∧
  (∀ (p : Nat) (s : State), p < 16 → s.o (kPT_STATE p) = 3 → s.noRuns p = true →
    ((s.part p).quiesce = 1 → ∃ t, exec (.quiesceEnd p) s = .next t ∧ (t.part p).quiesce = 3 ∧
      t.frames p = s.frames p ^^^ (s.part p).removing.toNat ∧
      (∀ f ∈ maskFrames (s.part p).removing.toNat, tget 0xFF t.frameOwner f = 0xFE)) ∧
    ((s.part p).quiesce = 2 → ∃ t, exec (.quiesceEnd p) s = .next t ∧ (t.part p).quiesce = 4 ∧ t.frames p = 0 ∧
      (∀ c, c < 8 → t.ctx p c = {}))) ∧
  (∀ (p : Nat) (s : State), p < 16 → (s.part p).reset = 0 →
    ((s.part p).quiesce = 3 → ∃ t : State, exec (.removeZeroingEnd p) s = .next t.pollAll ∧ t.o (kPT_STATE p) = 2 ∧ (t.part p).quiesce = 0 ∧
      (∀ f ∈ maskFrames (s.part p).removing.toNat, tget 0xFF t.frameOwner f = 0xFF)) ∧
    ((s.part p).quiesce = 4 → (∀ e ∈ s.pend, ¬(e.kind = 1 ∧ e.inst = p)) → ∃ t, exec (.removeZeroingEnd p) s = .next t ∧
      t.o (kPT_STATE p) = 0 ∧ (t.part p).quiesce = 0 ∧
      (∀ f ∈ maskFrames (s.part p).removing.toNat, tget 0xFF t.frameOwner f = 0xFF)))

/-- Contexts are enabled, disabled, asked to yield and evicted: By a path that may write, in its turn (ringBefore). ENABLE
of a DISABLED context whose save area overlaps no other enabled one's enables it, and what can then start is decided
(pollAll); where one overlaps, it reports PT_CONFIG; during the context's shut-down it is held. DISABLE takes a held
ENABLE back; of a context without a command, or with one that is switched out, it disables it at once, and that
command ends; with a command on the rods it waits for its end. YIELD of the RESIDENT context, or of one that a switch
brings in, is noted. EVICT of one that runs a command with a save area begins a hard switch away from it, and acts as
YIELD without an area or a command; of an incoming one it is noted for the switch's end. YIELD and EVICT of a context
that is neither RESIDENT nor coming in report 0 and change nothing else. (12_partitions_and_preemption.md R343;
12_partitions_and_preemption.md R350; 16_boot_firmware_trust.md R455; 16_boot_firmware_trust.md R457) -/
def Obligations.ContextsAreControlled : Prop :=
  ∀ (path : Path) (p c : Nat) (s : State), let v := s.ringBefore path
    p < 16 → c < 8 → v.dictUp = true → v.mayWrite path = true →
    ((v.ctx p c).disabling = true → exec (.ctxEnable path p c) s = .next ((v.pendEnable 2 (8 * p + c)).report path 0)) ∧
    ((v.ctx p c).disabling = false → (v.ctx p c).enabled = false →
      ((∀ k a b, k < 8 → k ≠ c → (v.ctx p k).enabled = true → v.saveArea p c = some a → v.saveArea p k = some b →
          a + saveBytes ≤ b ∨ b + saveBytes ≤ a) →
        exec (.ctxEnable path p c) s
          = .next ((v.setCtx p c { v.ctx p c with enabled := true, ready := false }).pollAll.report path 0)) ∧
      (∀ k a b, k < 8 → k ≠ c → (v.ctx p k).enabled = true → v.saveArea p c = some a → v.saveArea p k = some b →
        a < b + saveBytes → b < a + saveBytes → exec (.ctxEnable path p c) s = .next (v.report path stPT_CONFIG))) ∧
    ((v.ctx p c).enabled = true → (v.ctx p c).run = none →
      ∃ u : State, exec (.ctxDisable path p c) s = .next (u.pollAll.report path 0) ∧ (u.ctx p c).enabled = false ∧
        u.resident p ≠ c ∧ (∀ e ∈ u.pend, ¬(e.kind = 2 ∧ e.inst = 8 * p + c)) ∧ u.rods = v.rods) ∧
    ((v.ctx p c).enabled = true → (v.ctx p c).run.isSome = true → v.resident p ≠ c → v.residentNow p ≠ c →
      ∃ u : State, exec (.ctxDisable path p c) s = .next (u.pollAll.report path 0) ∧ (u.ctx p c).enabled = false ∧
        (u.ctx p c).run = none) ∧
    ((v.ctx p c).enabled = true → (v.ctx p c).run.isSome = true → (v.resident p = c ∨ v.residentNow p = c) →
      exec (.ctxDisable path p c) s
        = .next (((v.dropPending 2 (8 * p + c)).setCtx p c { v.ctx p c with disabling := true }).report path 0)) ∧
    ((v.resident p = c ∨ v.incoming p c = true) →
      exec (.ctxYield path p c) s = .next ((v.setCtx p c { v.ctx p c with yieldReq := 1 }).report path 0)) ∧
    (v.incoming p c = true →
      exec (.ctxEvict path p c) s = .next ((v.setCtx p c { v.ctx p c with yieldReq := 2 }).report path 0)) ∧
    (v.resident p = c → v.incoming p c = false →
      (v.saveArea p c = none ∨ (v.ctx p c).run = none → exec (.ctxEvict path p c) s
        = .next ((v.setCtx p c { v.ctx p c with yieldReq := 1 }).report path 0)) ∧
      ((v.saveArea p c).isSome = true → (v.ctx p c).run.isSome = true → (v.part p).switch = none →
        ∃ t w, exec (.ctxEvict path p c) s = .next t ∧ (t.part p).switch = some w ∧ w.out = c ∧ w.inn ≠ c ∧
          w.saved = false ∧ (t.ctx p c).run = (v.ctx p c).run ∧ t.rods = v.rods)) ∧
    (v.resident p ≠ c → v.incoming p c = false → exec (.ctxYield path p c) s = .next (v.report path 0) ∧
      exec (.ctxEvict path p c) s = .next (v.report path 0))

/-- Slices expire into decisions, hard switches save and restore, and the interference index is written: While the
resident command runs: at the end of its slice a new slice begins if the decision names its context or none, and the
grace time begins if it names another. At the end of the grace time, with a save area, a hard switch to the named
context begins, or the grace ends if that is the resident one. A wait of PT_WAIT_SWITCH_US leads to a hard switch to
the ready context of lowest virtual time if that is lower than its own. Once the rods' work has ended, the outgoing
context's rods are saved. After the save the switch ends, a new slice begins, and what can start is decided (pollAll).
At the end of a window of PT_II_WINDOW strokes, with C the counted cycles in which a context was RESIDENT and X those
that the parts of the other partitions sum to, less those counted twice (log entry 137), the index is X / (C - X), 0
when C = X, with the partition of the largest part as its source, and both counts begin again; when it exceeds a
PT_II_WARN above 0 one record is written. (12_partitions_and_preemption.md R344; 12_partitions_and_preemption.md R345;
12_partitions_and_preemption.md R347; 12_partitions_and_preemption.md R348; 12_partitions_and_preemption.md R350;
12_partitions_and_preemption.md R352) -/
def Obligations.DecisionsAndHardSwitches : Prop :=
  (∀ (p : Nat) (s : State), p < 16 → s.runsNow p = true → (s.part p).graceAt = 0 →
    (s.part p).sliceAt + 1000 * (s.part p).sliceUs ≤ s.ns → ∃ t, exec (.sliceExpiry p) s = .next t ∧
      t.resident p = s.resident p ∧ t.rods = s.rods ∧
      (((s.latchSched p).noteReady p).pickCtx p 8 = some (s.resident p) ∨ ((s.latchSched p).noteReady p).pickCtx p 8 = none →
        (t.part p).sliceAt = s.ns ∧ (t.part p).graceAt = 0) ∧
      (∀ k, ((s.latchSched p).noteReady p).pickCtx p 8 = some k → k ≠ s.resident p → (t.part p).graceAt = s.ns + 1)) ∧
  (∀ (p k : Nat) (s : State), p < 16 → s.runsNow p = true → (s.part p).graceAt ≠ 0 →
    (s.part p).graceAt + 1000 * (s.part p).graceUs ≤ s.ns + 1 → (s.saveArea p (s.resident p)).isSome = true →
    ((s.latchSched p).noteReady p).pickCtx p 8 = some k → ∃ t, exec (.yieldGraceExpiry p) s = .next t ∧
      (t.part p).graceAt = 0 ∧ t.rods = s.rods ∧ (k = s.resident p → (t.part p).switch = none) ∧
      (k ≠ s.resident p → (t.part p).switch = some { out := s.resident p, inn := k, at_ := s.ns, saved := false })) ∧
  (∀ (p k : Nat) (s : State), p < 16 → s.runsNow p = true → s.o (kPT_WAIT_SWITCH_US p) ≠ 0xFFFFFFFF →
    s.hasWaited p (1000 * s.o (kPT_WAIT_SWITCH_US p)) = true → (s.saveArea p (s.resident p)).isSome = true →
    ((s.latchSched p).noteReady p).pickCtx p (s.resident p) = some k →
    (((s.latchSched p).noteReady p).ctx p k).vtime.lt (((s.latchSched p).noteReady p).ctx p (s.resident p)).vtime = true →
    ∃ t, exec (.waitSwitchTimeout p) s = .next t ∧
      (t.part p).switch = some { out := s.resident p, inn := k, at_ := s.ns, saved := false } ∧ t.rods = s.rods) ∧
  (∀ (p : Nat) (w : Switch) (s : State), p < 16 → (s.part p).switch = some w → w.saved = false →
    (∀ r ∈ s.switchRods p, s.rodDrained r = true) → ∃ t, exec (.hardSwitchSave p) s = .next t ∧
      (t.part p).switch = some { w with saved := true } ∧
      (w.out < 8 → w.inn ≠ w.out → (w.inn < 8 → (s.ctx p w.inn).run = none) →
        (t.ctx p w.out).savedRods = (s.switchRods p).map (fun r => (r, (s.rod r).settleAt s.cycle false)))) ∧
  (∀ (p : Nat) (w : Switch) (s : State), p < 16 → (s.part p).switch = some w → w.saved = true →
    (w.inn < 8 → s.resident p = w.inn → (s.ctx p w.inn).yieldReq ≠ 2) → ∃ t : State, exec (.hardSwitchEnd p) s = .next t.pollAll ∧
      (t.part p).switch = none ∧ (t.part p).sliceAt = s.ns ∧ (t.part p).graceAt = 0 ∧ t.resident p = s.resident p ∧
      t.rods = s.rods) ∧
  (∀ (p twice : Nat) (routers grants : List (Nat × Nat)) (s : State), p < 16 →
    (s.part p).iiFrom + (s.part p).iiWindow ≤ s.stroke →
    let parts := (upto 16).map (fun k => if k = p then 0
      else (((routers ++ grants).filter (fun d => d.1 == k)).map (·.2)).sum)
    let x := parts.sum - twice
    let c := (s.part p).iiRes + (if s.resident p < 8 then s.cycle - (s.part p).iiMark else 0)
    let i : F32 := if c = x then 0 else f32ofRat false x (c - x)
    let warn : F32 := BitVec.ofNat 32 (s.o (kPT_II_WARN p))
    x ≤ c → ∃ t src, exec (.iiWindowEnd p routers grants twice) s = .next t ∧ (t.part p).iiFrom = s.stroke ∧
      (t.part p).iiRes = 0 ∧ (t.part p).iiMark = s.cycle ∧ t.o (kPT_II p) = i.toNat ∧ t.o (kPT_II_SOURCE p) = src ∧
      (x = 0 → src = 0xFF) ∧ (0 < x → src < 16 ∧ src ≠ p ∧ ∀ k, k < 16 → parts.getD k 0 ≤ parts.getD src 0) ∧
      t.errs.seq = s.errs.seq + (if f32lt 0 warn && f32lt warn i then 1 else 0) ∧ t.rods = s.rods)

/-- Strokes without a frame begin when their wait is over, with the holdover grant: LOCKED 1.5 P and HOLDOVER 1 P after
stroke M began, REJOIN 1.5 P after the latest valid frame: stroke M + 1 begins; WAITING after ST_FIRST_WAIT_MS: stroke
0. It is HOLDOVER; the balance becomes min(E, ST_CARRY_UJ) plus the allowance of the grant ST_HOLDOVER_W x P, limited
to 6.4 P; the record of the stroke just ended stands at ST_LEDGER_HEAD, which advances; the stroke counts in
ST_HOLDOVER_STROKES. Scheduling decisions follow (pollAll). In any other state, or earlier, the commands change
nothing. (13_strokes_energy_and_heat.md R356; 13_strokes_energy_and_heat.md R357; 13_strokes_energy_and_heat.md R363;
13_strokes_energy_and_heat.md R366; 13_strokes_energy_and_heat.md R369) -/
def Obligations.SilentStrokesBegin : Prop :=
  (∀ (i : Instr) (n : Nat) (s : State), s.timebaseUp = true →
    (i = .holdoverEntry ∧ s.o kST_STATE = 1 ∧ s.st.beganAt + 1500 * s.st.period ≤ s.ns ∧ n = s.stroke + 1 ∨
      i = .holdoverStroke ∧ s.o kST_STATE = 2 ∧ s.st.beganAt + 1000 * s.st.period ≤ s.ns ∧ n = s.stroke + 1 ∨
      i = .rejoinTimeout ∧ s.o kST_STATE = 3 ∧ s.st.frameAt + 1500 * s.st.period ≤ s.ns ∧ n = s.stroke + 1 ∨
      i = .firstWaitExpiry ∧ s.o kST_STATE = 0 ∧ s.st.waitFrom + 1000000 * s.o kST_FIRST_WAIT_MS ≤ s.ns ∧ n = 0) →
    ∃ t : State, exec i s = .next t.pollAll ∧ t.stroke = n % 2 ^ 64 ∧ t.o kST_STATE = 2 ∧
      t.o kST_HOLDOVER_STROKES = satAdd 64 (s.o kST_HOLDOVER_STROKES) 1 ∧
      t.st.begun = true ∧ t.st.beganAt = s.ns ∧ t.st.period = s.o kST_PERIOD_US ∧ t.st.curHold = true ∧ t.st.curDebit = 0 ∧
      t.st.balance = min s.st.balance (s.o kST_CARRY_UJ : Nat) +
        ((min (s.o kST_HOLDOVER_W * s.o kST_PERIOD_US) (6400 * s.o kST_PERIOD_US) : Nat) : Int) -
        ((s.o kPW_BASE_W * s.o kST_PERIOD_US : Nat) : Int) ∧
      (s.st.begun = true → tget 0 t.st.ledger (s.o kST_LEDGER_HEAD) = s.st.record s.stroke ∧
        t.o kST_LEDGER_HEAD = (s.o kST_LEDGER_HEAD + 1) % 256) ∧
      t.flash = s.flash ∧ t.ns = s.ns) ∧
  (∀ (s : State),
    (s.o kST_STATE ≠ 1 ∨ s.ns < s.st.beganAt + 1500 * s.st.period → exec .holdoverEntry s = .next s) ∧
    (s.o kST_STATE ≠ 2 ∨ s.ns < s.st.beganAt + 1000 * s.st.period → exec .holdoverStroke s = .next s) ∧
    (s.o kST_STATE ≠ 3 ∨ s.ns < s.st.frameAt + 1500 * s.st.period → exec .rejoinTimeout s = .next s) ∧
    (s.o kST_STATE ≠ 0 ∨ s.ns < s.st.waitFrom + 1000000 * s.o kST_FIRST_WAIT_MS → exec .firstWaitExpiry s = .next s))

/-- A ring frame is checked, authenticated, and begins its stroke: With management ready and no bypass: a frame with a bad
FCS counts in RING_FCS_ERRORS, one of another EtherType, length, version or ring in RING_FOREIGN; it does nothing else
but take the part's IDLE response where its version and ring are the part's. An accepted frame counts in RING_FRAMES
and sets RING_POS; under RING_AUTH it is authenticated if its tag is right and its number above RING_SEQ_FLOOR, which
it raises, and otherwise counts in RING_TAG_FAILS. A valid stroke frame of a higher number, or any in WAITING, begins
its stroke: LOCKED, the grant limited to 6.4 P, the numbers between counted in ST_SKIPPED. One of N not above M counts
in ST_STALE and begins none; in HOLDOVER it leads to REJOIN within ST_REJOIN_MAX. Then the slot is served, and the
frame goes on with POS one higher and the part's response; with the bypass, or management not ready, it goes on as it
came. (13_strokes_energy_and_heat.md R357; 13_strokes_energy_and_heat.md R363; 15_object_dictionary_and_ring.md R415;
15_object_dictionary_and_ring.md R420; 15_object_dictionary_and_ring.md R421) -/
def Obligations.RingFramesBeginStrokes : Prop :=
  (∀ (f : List Byte) (s : State), s.dictUp = false ∨ s.ring.bypass = true →
    exec (.ringFrame f) s = .next (s.ringForward f)) ∧
  ∀ (f : List Byte) (s : State), s.dictUp = true → s.ring.bypass = false →
    let h := rfHdr f
    let slot := s.ringSlot (rhPos h)
    let key := if rfFcsOk f then kRING_FOREIGN else kRING_FCS_ERRORS
    (rfFcsOk f = false ∨ rfShaped f = false ∨ s.headerOk f = false →
      ∃ (u : State) (resp : Option (Nat × BitVec 96)),
        exec (.ringFrame f) s = .next (u.ringForward (passedFrame f (rfShaped f || s.headerOk f) resp)) ∧
        u.o key = satAdd 32 (s.o key) 1 ∧ u.o kRING_FRAMES = s.o kRING_FRAMES ∧ u.stroke = s.stroke ∧ u.st = s.st ∧
        u.ring = { s.ring with out := u.ring.out, conflictAt := u.ring.conflictAt } ∧ u.rods = s.rods ∧ u.decks = s.decks ∧
        (s.headerOk f = false → u = s.addO 32 key 1 ∧ resp = none) ∧
        (s.headerOk f = true → slot ≤ 63 → rfResponse slot + 16 ≤ f.length → rfNum f (rfResponse slot) 1 % 16 = 0 →
          resp = some (slot, responseSlot s.stroke 0 0 (rhPos h) s.restricted (s.o kST_STATE != 1) 9))) ∧
    (rfFcsOk f = true → rfShaped f = true → s.headerOk f = true →
      ∃ (u : State) (a : Bool), exec (.ringFrame f) s
          = .next ((u.serveSlot f true a).1.ringForward (passedFrame f true (u.serveSlot f true a).2)) ∧
        (a = true ↔ s.o kRING_AUTH ≠ 0 ∧ s.tagOk f = true ∧ s.o kRING_SEQ_FLOOR < rhSeq h) ∧
        (rhStroke h = false ∨ (a = false ∧ s.o kRING_AUTH = 1) →
          u = { s with objs := u.objs } ∧ u.o kRING_FRAMES = satAdd 64 (s.o kRING_FRAMES) 1 ∧ u.o kRING_POS = rhPos h ∧
          u.o kRING_SEQ_FLOOR = (if a then rhSeq h else s.o kRING_SEQ_FLOOR) ∧
          u.o kRING_TAG_FAILS = (if s.o kRING_AUTH = 0 ∨ a = true then s.o kRING_TAG_FAILS
            else satAdd 32 (s.o kRING_TAG_FAILS) 1) ∧ u.o kST_STALE = s.o kST_STALE) ∧
        (rhStroke h = true → (a = true ∨ s.o kRING_AUTH ≠ 1) →
          (s.o kST_STATE = 0 ∨ s.stroke < rhStrokeN h → ∃ v : State, u = v.pollAll ∧ v.stroke = rhStrokeN h ∧ v.o kST_STATE = 1 ∧
            v.st.beganAt = s.ns ∧ v.st.frameAt = s.ns ∧ v.st.curHold = false ∧
            v.o kST_SKIPPED = satAdd 64 (s.o kST_SKIPPED)
              (if s.o kST_STATE = 0 then 0 else rhStrokeN h - s.stroke - 1) ∧
            v.st.balance = min s.st.balance (s.o kST_CARRY_UJ : Nat) +
              ((min (1000 * rhGrant h) (6400 * s.o kST_PERIOD_US) : Nat) : Int) -
              ((s.o kPW_BASE_W * s.o kST_PERIOD_US : Nat) : Int) ∧
            v.o kST_GRANT_CLAMPED = (if 6400 * s.o kST_PERIOD_US < 1000 * rhGrant h
              then satAdd 32 (s.o kST_GRANT_CLAMPED) 1 else s.o kST_GRANT_CLAMPED) ∧ v.flash = s.flash) ∧
          (s.o kST_STATE ≠ 0 → rhStrokeN h ≤ s.stroke → u.stroke = s.stroke ∧ u.st.frameAt = s.ns ∧
            u.st.balance = s.st.balance ∧ u.o kST_STALE = satAdd 32 (s.o kST_STALE) 1 ∧
            u.o kST_STATE = (if s.o kST_STATE = 2 ∧ s.stroke ≤ rhStrokeN h + s.o kST_REJOIN_MAX then 3 else s.o kST_STATE) ∧
            u.rods = s.rods ∧ u.decks = s.decks)))

/-- Power, voltage and heat lower the level limits, and release them: A power sample joins the last 1,000; above 7,200 W
it takes the governor limit 2 below the effective level, an average that comes to exceed 6,400 W takes it 1 below,
again every 1 ms. A voltage below 40.0 V takes the supply limit to 0 with one PW_UNDERVOLT record an episode, released
after 10 ms at 41.0 V; after a sample below 35.0 V, for 1 ms below 37.0 V or for 100 us above 60.0 V the part goes
dark, in the hold of a device reset too. From 100.0 to 105.0 degrees the thermal limit falls 1 at once, with
PW_THROTTLE once an episode, then 1 every 1 ms; from 105.0 it is 0, with PW_TJ_LIMIT; at 110.0 the part is fatal, its
rods OFF and its upper deck's contents lost; below 97.0 it rises 1 every 10 ms up to 24.
(13_strokes_energy_and_heat.md R371; 13_strokes_energy_and_heat.md R372; 13_strokes_energy_and_heat.md R373) -/
def Obligations.LimitsFollowPowerSupplyAndHeat : Prop :=
  (∀ (mw : Nat) (s : State), s.boot.stage ≠ 0 → ∃ t, exec (.powerSample mw) s = .next t ∧
    t.st.power = (mw :: s.st.power).take 1000 ∧ t.st.curMeasured = s.st.curMeasured + 10 * mw ∧
    t.st.governor = (match decide (7200000 < mw),
        avgAbove ((mw :: s.st.power).take 1000) 6400000 && !avgAbove s.st.power 6400000 with
      | true, true => s.level - 3
      | true, false => s.level - 2
      | false, true => s.level - 1
      | false, false => s.st.governor) ∧
    t = { s with st := { s.st with power := t.st.power, curMeasured := t.st.curMeasured, overs := t.st.overs, govAt := t.st.govAt
                                   governor := t.st.governor, curMin := t.st.curMin, curThermal := t.st.curThermal
                                   curGovernor := t.st.curGovernor } }) ∧
  (∀ (s : State), s.boot.stage ≠ 0 → avgAbove s.st.power 6400000 = true → s.st.govAt + 1000000 ≤ s.ns →
    ∃ t, exec .governorRepeat s = .next t ∧ t.st.governor = s.level - 1 ∧ t.st.govAt = s.ns ∧ t.objs = s.objs) ∧
  (∀ (mv : Nat) (s : State), mv ≤ 65000 → s.boot.stage ≠ 0 → ∃ t, exec (.voltageSample mv) s = .next t ∧ t.st.vin = mv ∧
    (mv < 35000 → t.st.sag = true) ∧
    (40000 ≤ mv → t = { s with st := t.st } ∧ t.st.supply = s.st.supply ∧ t.st.underEp = s.st.underEp) ∧
    (mv < 40000 → t.st.supply = 0 ∧ t.st.underEp = true ∧ t.level = 0 ∧
      (s.st.underEp = true → t = { s with st := t.st }) ∧
      (s.st.underEp = false → t.errs.seq = s.errs.seq + 1 ∧
        ∃ e k, tget none t.errs.ring k = some e ∧ e.cls = 2 ∧ e.code = rcPW_UNDERVOLT))) ∧
  (∀ (mv : Nat) (s : State), 65000 < mv → exec (.voltageSample mv) s = .fault .damaged) ∧
  (∀ (s : State), s.st.underEp = true → s.st.vinOk ≠ 0 → s.st.vinOk + 10000000 ≤ s.ns + 1 →
    exec .undervoltRelease s = .next { s with st := { s.st with supply := 24, underEp := false } }) ∧
  (∀ (s : State), s.boot.stage ≠ 0 ∨ s.boot.holding = true →
    (s.st.sag = true ∨ s.st.vin < 35000 ∨ s.st.vinLow ≠ 0 ∧ s.st.vinLow + 1000000 ≤ s.ns + 1 ∨
      s.st.vinHigh ≠ 0 ∧ s.st.vinHigh + 100000 ≤ s.ns + 1) → exec .supplyShutdown s = .next (s.lost 1 false)) ∧
  (∀ (d : List Nat) (j : Nat) (s : State), s.boot.stage ≠ 0 → d.length = 16 → d.foldl max 0 = j →
    ∃ t, exec (.thermalSample d) s = .next t ∧ (∀ k, k < 16 → tget 0 t.st.tj k = d.getD k 0) ∧ t.junction = j ∧
      (j < 1000 → t.st.thermal = s.st.thermal ∧ t.st.episode = false ∧ t = { s with st := t.st }) ∧
      (1000 ≤ j → j < 1050 → s.st.episode = true → t.st.thermal = s.st.thermal ∧ t = { s with st := t.st }) ∧
      (1000 ≤ j → j < 1050 → s.st.episode = false → t.st.thermal = s.st.thermal - 1 ∧ t.st.episode = true ∧
        t.st.hotAt = s.ns + 1 ∧ t.o kPW_THROTTLE_COUNT = satAdd 32 (s.o kPW_THROTTLE_COUNT) 1 ∧
        t.errs.seq = s.errs.seq + 1 ∧
        (∃ e k, tget none t.errs.ring k = some e ∧ e.cls = 1 ∧ e.code = rcPW_THROTTLE)) ∧
      (1050 ≤ j → t.st.thermal = 0) ∧
      (1050 ≤ j → j < 1100 → s.st.hot105 = 0 → s.st.limitEp = false → t.errs.seq = s.errs.seq + 1 ∧ t.fatal = s.fatal ∧
        (∃ e k, tget none t.errs.ring k = some e ∧ e.cls = 2 ∧ e.code = rcPW_TJ_LIMIT)) ∧
      (1100 ≤ j → s.st.tripped = false → t.fatal = true ∧ t.st.tripped = true ∧
        (∀ r, (t.rod r).st = .off) ∧ t.decks.ud = [])) ∧
  (∀ (s : State), s.boot.stage ≠ 0 →
    (1000 ≤ s.junction → s.junction < 1050 → s.st.hotAt + 1000000 ≤ s.ns + 1 →
      ∃ t, exec .throttleStep s = .next t ∧ t.st.thermal = s.st.thermal - 1 ∧ t.st.hotAt = s.ns + 1 ∧ t = { s with st := t.st }) ∧
    (s.junction < 970 → s.st.coolAt ≠ 0 → s.st.coolAt + 10000000 ≤ s.ns + 1 →
      ∃ t, exec .throttleStep s = .next t ∧ t.st.thermal = min 24 (s.st.thermal + 1) ∧ t.st.coolAt = s.ns + 1 ∧
        t = { s with st := t.st }))

/-- The host link, functions and interrupt vectors follow their events and registers: Link training below 32 GT/s or x4
leaves CXL.io only, a closed window and one deferred record; better training opens the window that is filled, and
leaves one that still fills FILLING. VF Enable with n functions makes 1 to n exist and no other. EN = 1 enables a
function, and is held while its shut-down or reset lasts; EN = 0 stops it, with a shut-down while accepted commands
are left; at its end a held enable is carried out. A 1 written to DB_ERR or CFG_ERR clears it, and a read of
CQ_FUNC_STATUS answers READY, DB_ERR, CFG_ERR and LINK_IO_ONLY. CQ_CH_SHADOW takes multiples of 256 only. A write of a
vector's MSI-X entry stands in it, and one that unmasks it sends it if it is pending. COAL_US after the first
unsignalled entry the queue's vector is signalled. (14_host_port.md R380; 14_host_port.md R382; 14_host_port.md R384;
14_host_port.md R395; 14_host_port.md R396) -/
def Obligations.LinkFunctionsAndVectors : Prop :=
  (∀ (rate width : Nat) (s : State), s.dictUp = true →
    (rate < 32 ∨ width < 4 → ∃ t, exec (.hostLinkTrained rate width) s = .next t ∧ t.o kCQ_LINK_STATE = 2 ∧
      t.o kCQ_WIN_STATE = winCLOSED ∧ t.o kCQ_LINK_RATE = rate ∧ t.o kCQ_LINK_WIDTH = width ∧ t.host.winWait = [] ∧
      t.errs.seq = s.errs.seq + 1 ∧ t.host.ioOnly = true ∧ t.rods = s.rods ∧ t.decks = s.decks) ∧
    (32 ≤ rate → 4 ≤ width → ∃ t, exec (.hostLinkTrained rate width) s = .next t ∧ t.o kCQ_LINK_STATE = 1 ∧
      t.o kCQ_LINK_RATE = rate ∧ t.o kCQ_LINK_WIDTH = width ∧
      t.host = { s.host with ioOnly := false } ∧
      t.o kCQ_WIN_STATE = (if s.fatal = true ∨ s.host.winExt = [] then s.o kCQ_WIN_STATE
        else if ∃ f ∈ s.decks.filling, f.2 = 0x10 then winFILLING else winOPEN) ∧
      t = { s with objs := t.objs, host := t.host })) ∧
  (∀ (s : State), ∃ t, exec .hostLinkDown s = .next t ∧ t.o kCQ_LINK_STATE = 0 ∧ t.o kCQ_LINK_RATE = 0 ∧
    (∀ k, k ≠ kCQ_LINK_STATE → k ≠ kCQ_LINK_RATE → t.o k = s.o k) ∧ t = { s with objs := t.objs }) ∧
  (∀ (n : Nat) (en : Bool) (s : State),
    (s.computeUp = true → n ≤ 16 → ∃ t : State, exec (.vfEnable n en) s = .next t.pollAll ∧
      t.o kCQ_VF_COUNT = (if en then n else 0) ∧
      ∀ f, 1 ≤ f → f ≤ 16 → (t.func f).vf = (en && decide (f ≤ n))) ∧
    (s.computeUp = false ∨ 16 < n → exec (.vfEnable n en) s = .next s)) ∧
  (∀ (fn : Nat) (v w : BitVec 32) (l : List BarRead) (s : State), s.dictUp = true → fn ≤ 16 → fn = 0 ∨ (s.func fn).vf = true →
    let f := s.func fn
    let x := if f.flr = 0 then { f with dbErr := f.dbErr && !bit w 1, cfgErr := f.cfgErr && !bit w 2 } else f
    let rd (u : State) : State := if f.flr = 0 then l.foldl (fun s r => s.barRead fn r) u else u
    (bit v 0 = true → f.down = true ∨ f.flr ≠ 0 → ∃ t, exec (.cqFuncCtrl fn ⟨some v, w, l⟩) s = .next (rd t) ∧ t.func fn = x ∧
      (∃ e ∈ t.pend, e.kind = 4 ∧ e.inst = fn) ∧ t = { s with host := t.host, pend := t.pend }) ∧
    (bit v 0 = true → f.down = false → f.flr = 0 → ∃ t : State, exec (.cqFuncCtrl fn ⟨some v, w, l⟩) s = .next (rd t.pollAll) ∧
      t.func fn = { x with en := true } ∧ t = { s with host := t.host }) ∧
    (bit v 0 = false → ∃ t, exec (.cqFuncCtrl fn ⟨some v, w, l⟩) s = .next (rd t) ∧
      t.func fn = (if f.en = true ∧ f.flr = 0 then { x with en := false, down := decide (f.liveCmds ≠ 0) } else x) ∧
      (∀ e ∈ t.pend, ¬(e.kind = 4 ∧ e.inst = fn)) ∧ t = { s with host := t.host, pend := t.pend }) ∧
    (f.flr = 0 → ∃ t, exec (.cqFuncCtrl fn ⟨none, w, [⟨false, 0x10⟩]⟩) s = .next t ∧ t.func fn = x ∧
      t.host.barOut = s.host.barOut ++ [(fn, ⟨false, 0x10⟩, bnat (f.en && !f.down) + 2 * bnat x.dbErr + 4 * bnat x.cfgErr
        + 8 * bnat s.host.ioOnly)] ∧ t = { s with host := t.host })) ∧
  (∀ (fn : Nat) (s : State), (s.func fn).down = true → (s.func fn).liveCmds = 0 → (s.func fn).flr = 0 →
    ((∀ e ∈ s.pend, ¬(e.kind = 4 ∧ e.inst = fn)) → ∃ t, exec (.funcShutdownEnd fn) s = .next t ∧
      t.func fn = { s.func fn with down := false } ∧ t = { s with host := t.host }) ∧
    (∀ e ∈ s.pend, e.kind = 4 → e.inst = fn → ∃ t : State, exec (.funcShutdownEnd fn) s = .next t.pollAll ∧
      t.func fn = { s.func fn with down := false, en := true } ∧ e ∉ t.pend)) ∧
  (∀ (fn : Nat) (v : BitVec 64) (s : State), s.fnUp fn = true → ∃ t, exec (.cqChShadow fn v) s = .next t ∧
    (v.toNat % 256 = 0 → t.func fn = { s.func fn with shadow := v.toNat }) ∧
    (v.toNat % 256 ≠ 0 → t.func fn = { s.func fn with cfgErr := true }) ∧ t = { s with host := t.host }) ∧
  (∀ (fn : Nat) (w : MsixWrite) (s : State), s.fnUp fn = true → w.vector < 256 → ∃ t, exec (.msixVectorUnmask fn w) s = .next t ∧
    tget true (t.func fn).masked w.vector = w.masked ∧ tget 0 (t.func fn).msixAddr w.vector = w.addr ∧
    tget 0 (t.func fn).msixData w.vector = w.data ∧
    tget false (t.func fn).pend w.vector = (tget false (s.func fn).pend w.vector && w.masked) ∧
    t.host.irqs = s.host.irqs ++ (if tget false (s.func fn).pend w.vector = true ∧ w.masked = false then [(fn, w.vector)] else []) ∧
    t = { s with host := t.host }) ∧
  (∀ (fn q : Nat) (s : State), ((s.func fn).cq q).unsig ≠ 0 →
    ((s.func fn).cq q).unsigAt + 1000 * ((s.func fn).cq q).forceUs ≤ s.ns → ∃ t, exec (.coalTimeout fn q) s = .next t ∧
      (t.func fn).cq q = { (s.func fn).cq q with unsig := 0 } ∧ t = { s with host := t.host } ∧
      (tget true (s.func fn).masked ((s.func fn).cq q).vector = false →
        t.host.irqs = s.host.irqs ++ [(fn, ((s.func fn).cq q).vector)]) ∧
      (tget true (s.func fn).masked ((s.func fn).cq q).vector = true →
        tget false (t.func fn).pend ((s.func fn).cq q).vector = true ∧ t.host.irqs = s.host.irqs))

/-- Queues are configured, rung, filled and drained as their rules say: A queue write that moves an enabled queue, has a
bad BASE or COAL_US, or enables what may not be, changes nothing but CFG_ERR. Enabling a submission queue empties it;
enabling a completion queue sets TAIL to 0 and its phase to 1. Clearing EN of a submission queue drops what was
fetched and not accepted, and it stays active while accepted commands are left; then it ends. An enable while it
drains is held, changes no field until then, and is carried out at its end. A doorbell within range sets its tail or
head; another sets DB_ERR and counts; a disabled queue ignores it. A new head may let commands that waited for an
entry be accepted. A command is fetched while the queue has one, is served, and its completion queue has a free entry.
(14_host_port.md R386; 14_host_port.md R387; 14_host_port.md R388; 14_host_port.md R389) -/
def Obligations.QueuesAreConfiguredAndServed : Prop :=
  (∀ (fn q : Nat) (e : BitVec 256) (s : State), s.fnUp fn = true → q < 64 → let x := (s.func fn).sq q
    (¬(x.en = false ∧ x.active = true ∧ qcEn e = true) →
      (x.en = true ∧ (qcBase e ≠ x.base ∨ qcSize e ≠ x.size ∨ qcCqid e ≠ x.cqid)) ∨ qcBase e % 4096 ≠ 0 ∨
        (x.en = false ∧ qcEn e = true ∧ (qcSize e = 0 ∨ ((s.func fn).cq (qcCqid e)).en = false)) →
      ∃ t : State, exec (.sqConfigWrite fn q e) s = .next t.pollAll ∧ t.func fn = { s.func fn with cfgErr := true } ∧
        t = { s with host := t.host }) ∧
    (x.en = false → qcBase e % 4096 = 0 → qcEn e = false → ∃ t : State, exec (.sqConfigWrite fn q e) s = .next t.pollAll ∧
      (t.func fn).sq q = { x with base := qcBase e, size := qcSize e, cqid := qcCqid e, next := none } ∧
      (∀ r ∈ t.pend, ¬(r.kind = 5 ∧ r.inst = 64 * fn + q)) ∧ t = { s with host := t.host, pend := t.pend }) ∧
    (x.en = false → x.active = false → qcBase e % 4096 = 0 → qcEn e = true → qcSize e ≠ 0 →
      ((s.func fn).cq (qcCqid e)).en = true → ∃ t : State, exec (.sqConfigWrite fn q e) s = .next t.pollAll ∧
        (t.func fn).sq q = { x with base := qcBase e, size := qcSize e, cqid := qcCqid e, next := none, en := true, active := true
                                    head := 0, tail := 0, fetched := [] } ∧ t = { s with host := t.host }) ∧
    (x.en = false → x.active = true → qcEn e = true →
      ∃ t : State, exec (.sqConfigWrite fn q e) s = .next t.pollAll ∧ (∃ r ∈ t.pend, r.kind = 5 ∧ r.inst = 64 * fn + q) ∧
        (t.func fn).sq q = { x with next := some e } ∧ t = { s with host := t.host, pend := t.pend }) ∧
    (x.en = true → qcBase e = x.base → qcSize e = x.size → qcCqid e = x.cqid → qcBase e % 4096 = 0 →
      (qcEn e = true → exec (.sqConfigWrite fn q e) s = .next s.pollAll) ∧
      (qcEn e = false → ∃ t : State, exec (.sqConfigWrite fn q e) s = .next t.pollAll ∧
        (t.func fn).sq q = { x with en := false, active := decide (x.live ≠ 0), fetched := [] } ∧
        (t.func fn).cqs = (s.func fn).cqs ∧ (fn, q) ∉ t.st.queue))) ∧
  (∀ (fn q : Nat) (e : BitVec 256) (s : State), s.fnUp fn = true → q < 64 → let x := (s.func fn).cq q
    ((x.en = true ∧ (qcBase e ≠ x.base ∨ qcSize e ≠ x.size ∨ qcVector e ≠ x.vector)) ∨ qcBase e % 4096 ≠ 0 ∨ 1000 < qcUs e ∨
      (x.en = true ∧ qcEn e = false ∧ (s.func fn).cqBound q = true) ∨ (x.en = false ∧ qcEn e = true ∧ qcSize e = 0) →
      ∃ t, exec (.cqConfigWrite fn q e) s = .next t ∧ t.func fn = { s.func fn with cfgErr := true } ∧
        t = { s with host := t.host }) ∧
    (x.en = false → qcBase e % 4096 = 0 → qcUs e ≤ 1000 → qcSize e ≠ 0 → qcEn e = true →
      ∃ t, exec (.cqConfigWrite fn q e) s = .next t ∧ t = { s with host := t.host } ∧
        (t.func fn).cq q = { x with base := qcBase e, size := qcSize e, vector := qcVector e, coalUs := qcUs e
                                    coalCount := qcCount e, en := true, active := true, tail := 0, head := 0, phase := true
                                    reserved := 0, unsig := 0 }) ∧
    (x.en = true → qcBase e = x.base → qcSize e = x.size → qcVector e = x.vector → qcBase e % 4096 = 0 → qcUs e ≤ 1000 →
      qcEn e = true ∨ (s.func fn).cqBound q = false → ∃ t, exec (.cqConfigWrite fn q e) s = .next t ∧
        t = { s with host := t.host } ∧
        (t.func fn).cq q = { x with coalUs := qcUs e, coalCount := qcCount e, en := qcEn e, active := qcEn e })) ∧
  (∀ (fn q : Nat) (v : BitVec 32) (s : State), s.fnUp fn = true → q < 64 →
    (((s.func fn).sq q).en = true → bits v 15 0 ≤ ((s.func fn).sq q).size → ∃ t, exec (.cqSqTail fn q v) s = .next t ∧
      (t.func fn).sq q = { (s.func fn).sq q with tail := bits v 15 0 } ∧ t = { s with host := t.host }) ∧
    (((s.func fn).sq q).en = true → ((s.func fn).sq q).size < bits v 15 0 → ∃ t, exec (.cqSqTail fn q v) s = .next t ∧
      t.func fn = { s.func fn with dbErr := true } ∧ t.o kCQ_DB_ERRORS = satAdd 32 (s.o kCQ_DB_ERRORS) 1) ∧
    (((s.func fn).sq q).en = false → exec (.cqSqTail fn q v) s = .next s) ∧
    (((s.func fn).cq q).en = true → bits v 15 0 ≤ ((s.func fn).cq q).size →
      (bits v 15 0 + ((s.func fn).cq q).size + 1 - ((s.func fn).cq q).head) % (((s.func fn).cq q).size + 1)
        ≤ ((s.func fn).cq q).unreleased → ∃ t : State, exec (.cqCqHead fn q v) s
          = .next ((upto 64).foldl (fun s k => if ((s.func fn).sq k).cqid = q then s.flushQueue fn k else s) t).pollAll ∧
      (t.func fn).cq q = { (s.func fn).cq q with head := bits v 15 0 } ∧ t = { s with host := t.host }) ∧
    (((s.func fn).cq q).en = true → ((s.func fn).cq q).size < bits v 15 0 ∨ ((s.func fn).cq q).unreleased <
      (bits v 15 0 + ((s.func fn).cq q).size + 1 - ((s.func fn).cq q).head) % (((s.func fn).cq q).size + 1) →
      ∃ t, exec (.cqCqHead fn q v) s = .next t ∧ t.func fn = { s.func fn with dbErr := true } ∧
        t.o kCQ_DB_ERRORS = satAdd 32 (s.o kCQ_DB_ERRORS) 1) ∧
    (((s.func fn).cq q).en = false → exec (.cqCqHead fn q v) s = .next s)) ∧
  (∀ (fn q : Nat) (s : State), ((s.func fn).sq q).en = false → ((s.func fn).sq q).active = true →
    ((s.func fn).sq q).live = 0 → (∀ e ∈ s.pend, ¬(e.kind = 5 ∧ e.inst = 64 * fn + q)) →
    ∃ t, exec (.sqDrainEnd fn q) s = .next t ∧ (t.func fn).sq q = { (s.func fn).sq q with active := false } ∧
      t = { s with host := t.host }) ∧
  (∀ (fn q : Nat) (e : BitVec 256) (b : PendEnable) (s : State), let x := (s.func fn).sq q
    x.en = false → x.active = true → x.live = 0 → x.next = some e → b ∈ s.pend → b.kind = 5 → b.inst = 64 * fn + q →
    qcBase e % 4096 = 0 → qcSize e ≠ 0 → ((s.func fn).cq (qcCqid e)).en = true →
    ∃ t, exec (.sqDrainEnd fn q) s = .next t ∧ b ∉ t.pend ∧ t = { s with host := t.host, pend := t.pend } ∧
      (t.func fn).sq q = { x with base := qcBase e, size := qcSize e, cqid := qcCqid e, next := none, en := true, active := true
                                  head := 0, tail := 0, fetched := [] }) ∧
  (∀ (fn q : Nat) (cmd : BitVec 1024) (s : State), s.fnUp fn = true → q < 64 → (s.func fn).en = true →
    ((s.func fn).sq q).en = true → fn = 0 ∨ s.fatal = true ∨ (s.partServed (fn - 1) = true ∧ s.serves fn q = true) →
    let x := (s.func fn).sq q
    let c := (s.func fn).cq x.cqid
    (x.head ≠ x.tail → c.unreleased + c.reserved < c.size →
      ∃ t : State, exec (.commandFetch fn q cmd) s = .next (t.flushQueue fn q).pollAll ∧ t = { s with host := t.host } ∧
        (t.func fn).sq q = { x with head := if x.head = x.size then 0 else x.head + 1, fetched := x.fetched ++ [cmd] } ∧
        (t.func fn).cqs = (s.func fn).cqs) ∧
    (x.head = x.tail ∨ c.size ≤ c.unreleased + c.reserved → exec (.commandFetch fn q cmd) s = .next s))

/-- Immediate commands are accepted in order, act, and write their completion entry: A command at the head of a queue that
fails a common check (an ENERGY_UJ, a DMA length, slot span or EXPORT length out of range or misaligned) ends with its
status. One that passes, of a partition that is served: a DMA span outside the partition ends with DECK_RANGE; else it
is kept while its bytes move, and at its end exactly those stand in the upper deck, or in host memory; a host that
stops it aborts it. STAGE joins its queue, and waits while that is full; UPDATE waits likewise, CARRY joins its group.
SLOT_READ puts the slots into host memory and clears their RC fields, as far as an abort lets it. A host that ends a
SLOT_WRITE short aborts it. EXPORT of more bytes than the buffer holds is invalid. The entry written at TAIL carries
phase, status, result, CID and debit; TAIL advances and the phase toggles at its wrap. (14_host_port.md R389;
14_host_port.md R391; 14_host_port.md R392; 14_host_port.md R393) -/
def Obligations.ImmediateCommands : Prop :=
  (∀ (i : Instr) (fn q op : Nat) (qa : QueueAbort) (data : List Byte) (copy : ExportCopy) (h : BitVec 1024) (s : State),
    s.headReady fn q = some h → hcOpcode h = op → s.fatal = false → s.commonCheck fn h ≠ 0 → qa.q = q →
    (i = .dmaIn fn q data ∧ op = 2 ∨ i = .dmaOut fn q ∧ op = 3 ∨ i = .stage fn q ∧ op = 4 ∨ i = .update fn q ∧ op = 5 ∨
      i = .carry fn q ∧ op = 6 ∨ i = .slotRead fn qa ∧ op = 7 ∨ i = .slotWrite fn q data ∧ op = 8 ∨
      i = .exportMirror fn q copy ∧ op = 9) →
    exec i s = .next (((s.acceptHead fn q).complete (mkCmd s fn q h) (s.commonCheck fn h) 0 0).flushQueue fn q)) ∧
  (∀ (fn : Nat) (h : BitVec 1024) (s : State), let n := hcArg h 2
    (hcEnergy h ≠ 0 ∨ ((hcOpcode h = 2 ∨ hcOpcode h = 3) ∧ (n < 64 ∨ 2 ^ 30 < n ∨ n % 64 ≠ 0)) ∨
      ((hcOpcode h = 7 ∨ hcOpcode h = 8) ∧ (hcArg h 1 = 0 ∨ 4096 < hcArg h 0 + hcArg h 1)) ∨
      (hcOpcode h = 9 ∧ hcArg h 1 % 64 ≠ 0) → s.commonCheck fn h = stCMD_INVALID) ∧
    (hcEnergy h = 0 → argBad h = false → fn = 0 → hcPart h < 16 → s.o (kPT_STATE (hcPart h)) = 0 →
      s.commonCheck fn h = stCMD_PARTITION)) ∧
  (∀ (i : Instr) (fn q op : Nat) (data : List Byte) (copy : ExportCopy) (h : BitVec 1024) (s : State),
    s.headReady fn q = some h → hcOpcode h = op → s.fatal = false → s.commonCheck fn h = 0 → s.partServed (cmdPart fn h) = true →
    let c := mkCmd s fn q h
    let n := hcArg h 2
    let a := s.acceptHead fn q
    (i = .dmaIn fn q data → op = 2 →
      (s.udPhys (cmdPart fn h) (hcArg h 1) n true = none →
        exec i s = .next ((a.complete c stDECK_RANGE 0 0).flushQueue fn q)) ∧
      ((s.udPhys (cmdPart fn h) (hcArg h 1) n true).isSome = true → ∃ t : State, exec i s = .next (t.flushQueue fn q) ∧
        t.host.live = s.host.live ++ [{ id := s.host.nextId, cmd := c, data := data }] ∧
        (t.func fn).sq q = { (s.func fn).sq q with fetched := ((s.func fn).sq q).fetched.drop 1
                                                   live := ((s.func fn).sq q).live + 1 } ∧
        ((t.func fn).cq ((s.func fn).sq q).cqid).reserved = ((s.func fn).cq ((s.func fn).sq q).cqid).reserved + 1 ∧
        t = { s with host := t.host })) ∧
    (i = .dmaOut fn q → op = 3 →
      (s.udPhys (cmdPart fn h) (hcArg h 1) n false = none →
        exec i s = .next ((a.complete c stDECK_RANGE 0 0).flushQueue fn q)) ∧
      ((s.udPhys (cmdPart fn h) (hcArg h 1) n false).isSome = true → ∃ t : State, exec i s = .next (t.flushQueue fn q) ∧
        t.host.live = s.host.live ++ [{ id := s.host.nextId, cmd := c, data := [] }] ∧ t = { s with host := t.host })) ∧
    (i = .stage fn q → op = 4 →
      (256 ≤ (s.part (cmdPart fn h)).stageQ.length → exec i s = .next s) ∧
      ((s.part (cmdPart fn h)).stageQ.length < 256 → ∃ (t : State) (e : Stage), exec i s = .next (t.flushQueue fn q) ∧
        (t.part (cmdPart fn h)).stageQ = (s.part (cmdPart fn h)).stageQ ++ [e] ∧ e.desc = hcDesc h ∧
        e.cmd = some s.host.nextId ∧ e.phase = 0 ∧
        t.host.live = s.host.live ++ [{ id := s.host.nextId, cmd := c, data := [] }])) ∧
    (i = .update fn q → op = 5 →
      (4096 ≤ s.queueFill (cmdPart fn h) → exec i s = .next s) ∧
      (∀ t : State, s.queueFill (cmdPart fn h) < 4096 →
        (a.keepLive c []).pushPass (cmdPart fn h) (hcDesc h) (some s.host.nextId) = .ok t →
        exec i s = .next (t.flushQueue fn q)) ∧
      (∀ e, s.queueFill (cmdPart fn h) < 4096 →
        (a.keepLive c []).pushPass (cmdPart fn h) (hcDesc h) (some s.host.nextId) = .error e → ∃ t : State,
        exec i s = .next ((t.complete c e 0 0).flushQueue fn q) ∧ t.errs.seq = s.errs.seq + 1 ∧ t.reck = s.reck ∧ t.decks = s.decks)) ∧
    (i = .carry fn q → op = 6 →
      (∀ t : State, (a.keepLive c []).pushBucket (cmdPart fn h) (hcDesc h) (some s.host.nextId) = .ok t →
        exec i s = .next (t.flushQueue fn q)) ∧
      (∀ e, (a.keepLive c []).pushBucket (cmdPart fn h) (hcDesc h) (some s.host.nextId) = .error e →
        exec i s = .next ((a.complete c e 0 0).flushQueue fn q))) ∧
    (i = .slotRead fn ⟨q, false⟩ → op = 7 →
      ∃ t : State, exec i s = .next ((t.complete c 0 (hcArg h 1) 0).flushQueue fn q) ∧
        mread t.host.mem n (128 * hcArg h 1)
          = (upto (hcArg h 1)).flatMap (fun k => leBytes 128 (s.slot (cmdPart fn h) (hcArg h 0 + k)).toNat) ∧
        (∀ k, hcArg h 0 ≤ k → k < hcArg h 0 + hcArg h 1 →
          t.slot (cmdPart fn h) k = slotCleared (s.slot (cmdPart fn h) k)) ∧ t.decks = s.decks) ∧
    (i = .slotRead fn ⟨q, true⟩ → op = 7 →
      ∃ (t : State) (m : Nat), exec i s = .next ((t.complete c stHOST_ABORT m 0).flushQueue fn q) ∧ m < hcArg h 1 ∧
        mread t.host.mem n (128 * m)
          = (upto m).flatMap (fun k => leBytes 128 (s.slot (cmdPart fn h) (hcArg h 0 + k)).toNat) ∧
        (∀ k, hcArg h 0 + m ≤ k → t.slot (cmdPart fn h) k = s.slot (cmdPart fn h) k) ∧ t.decks = s.decks) ∧
    (i = .slotWrite fn q data → op = 8 →
      (data.length < 128 * hcArg h 1 → exec i s = .next ((a.complete c stHOST_ABORT 0 0).flushQueue fn q)) ∧
      (128 * hcArg h 1 ≤ data.length → (∀ t ∈ s.reck.tensors, t.part ≠ cmdPart fn h) →
        (∀ k, k < hcArg h 1 → slotWriteCheck (BitVec.ofNat 1024 (leNat ((data.drop (128 * k)).take 128))) = 0) →
        ∃ t : State, exec i s = .next ((t.settleSlotWrites (cmdPart fn h)).flushQueue fn q) ∧
          ∀ k, k < hcArg h 1 → t.slot (cmdPart fn h) (hcArg h 0 + k) = slotWrite (s.slot (cmdPart fn h) (hcArg h 0 + k))
            (BitVec.ofNat 1024 (leNat ((data.drop (128 * k)).take 128))))) ∧
    (i = .exportMirror fn q copy → op = 9 → copy.image.hdr = [] →
      exec i s = .next ((a.complete c 0 0 0).flushQueue fn q))) ∧
  (∀ (fn q : Nat) (copy : ExportCopy) (h : BitVec 1024) (s : State), s.headReady fn q = some h → hcOpcode h = 9 →
    s.fatal = false → s.commonCheck fn h = 0 → s.partServed (cmdPart fn h) = true → copy.image.hdr ≠ [] →
    let bs := leBytes 64 (mirrorHeader copy.image (digestOf (mirrorStream copy.image))).toNat ++ mirrorStream copy.image
    (hcArg h 1 < bs.length → exec (.exportMirror fn q copy) s
      = .next (((s.acceptHead fn q).complete (mkCmd s fn q h) stCMD_INVALID 0 0).flushQueue fn q)) ∧
    (bs.length ≤ hcArg h 1 → ∃ (t : State) (m : Nat), exec (.exportMirror fn q copy) s
        = .next ((t.complete (mkCmd s fn q h) (if copy.abort then stHOST_ABORT else 0) m 0).flushQueue fn q) ∧
      (copy.abort = false → m = bs.length) ∧ (copy.abort = true → m < bs.length) ∧
      mread t.host.mem (hcArg h 0) m = bs.take m ∧ t.decks = s.decks)) ∧
  (∀ (id a : Nat) (l : Live) (s : State), s.host.live.find? (fun x => x.id == id) = some l → let n := hcArg l.cmd.hdr 2
    (∀ wr, hcOpcode l.cmd.hdr = (if wr then 2 else 3) → s.udPhys l.cmd.part (hcArg l.cmd.hdr 1) n wr = some a →
      s.decks.busy a n = true → ∀ ab, exec (.dmaComplete id ab) s = .next s) ∧
    (∀ ab, hcOpcode l.cmd.hdr = 2 → s.udPhys l.cmd.part (hcArg l.cmd.hdr 1) n true = some a → s.decks.busy a n = false →
      s.ringOk l.cmd.part (hcArg l.cmd.hdr 1) n = true → (s.decks.udWrite a (l.data.take n)).2 = false →
      let m := min n l.data.length
      ∃ t : State, exec (.dmaComplete id ab) s
          = .next (t.completeLive id (if ab = true ∨ m < n then stHOST_ABORT else 0) m 0) ∧
        (∀ k, k < m → mget t.decks.ud (a + k) = l.data.getD k 0) ∧
        (∀ b, b < a ∨ a + m ≤ b → mget t.decks.ud b = mget s.decks.ud b) ∧ t = { s with decks := t.decks, mesh := t.mesh }) ∧
    (hcOpcode l.cmd.hdr = 3 → s.udPhys l.cmd.part (hcArg l.cmd.hdr 1) n false = some a → s.decks.busy a n = false →
      s.decks.udBadIn a n = false →
      ∃ t : State, exec (.dmaComplete id false) s = .next (t.completeLive id 0 n 0) ∧
        (∀ k, k < n → mget t.host.mem (hcArg l.cmd.hdr 0 + k) = mget s.decks.ud (a + k)) ∧
        (∀ b, b < hcArg l.cmd.hdr 0 ∨ hcArg l.cmd.hdr 0 + n ≤ b → mget t.host.mem b = mget s.host.mem b) ∧
        t = { s with host := t.host, mesh := t.mesh })) ∧
  (∀ (c : Cmd) (st r : Nat) (nsw : Nsw) (s : State), c.mute = false →
    let x := (s.func c.fn).cq c.cq
    let t := s.complete c st r nsw
    let e := BitVec.ofNat 256 (leNat (mread t.host.mem (x.base + 32 * x.tail) 32))
    bit e 0 = x.phase ∧ bits e 127 112 = st % 2 ^ 16 ∧ bits e 255 192 = r % 2 ^ 64 ∧ bits e 111 96 = hcCid c.hdr ∧
      bits e 191 160 = c.debit % 2 ^ 32 ∧ bits e 143 128 = nsw.toNat ∧
      ((t.func c.fn).cq c.cq).tail = (if x.tail = x.size then 0 else x.tail + 1) ∧
      ((t.func c.fn).cq c.cq).phase = (if x.tail = x.size then !x.phase else x.phase) ∧
      ((t.func c.fn).cq c.cq).reserved = x.reserved - 1 ∧ ((t.func c.fn).sq c.q).live = ((s.func c.fn).sq c.q).live - 1)

/-- A RUN is dispatched by its context when it meets the ledger, and ends when its rods have: A RUN at the head of a queue
of the physical function is invalid. One that is its context's next command is dispatched once the partition's rods
are idle, its context is chosen and the ledger covers its debit: a failed check completes it with that status; else
its debit leaves the balance and counts in the stroke, and it runs on its rods, none of which has ended or waits. When
every rod of the resident command has ended, with every record published and no tile on its way to a carry unit, or it
has a status, the command ends. (12_partitions_and_preemption.md R342; 13_strokes_energy_and_heat.md R364;
13_strokes_energy_and_heat.md R365; 14_host_port.md R391; 14_host_port.md R392) -/
def Obligations.RunsAreDispatchedAndEnd : Prop :=
  (∀ (q : Nat) (prog : ProgInfo) (h : BitVec 1024) (s : State), s.headReady 0 q = some h → hcOpcode h = 1 → s.fatal = false →
    exec (.run 0 q prog) s = .next (((s.acceptHead 0 q).complete (mkCmd s 0 q h) stCMD_INVALID 0 0).flushQueue 0 q)) ∧
  (∀ (p q : Nat) (prog : ProgInfo) (h : BitVec 1024) (s : State), p < 16 → q < 64 → s.headReady (p + 1) q = some h →
    hcOpcode h = 1 → s.fatal = false → s.pollAll.opens p (q / 8) = true → (s.pollAll.part p).held = false →
    s.pollAll.rodsIdle p = true → s.pollAll.nextRun p (q / 8) = some (q, h) →
    (s.pollAll.decideIdle p).resident p = q / 8 → (s.pollAll.decideIdle p).rodsIdle p = true →
    (s.pollAll.decideIdle p).meets (p + 1) q h = true →
    let u := s.pollAll.decideIdle p
    (u.runCheck p h prog ≠ 0 → exec (.run (p + 1) q prog) s = .next ((((u.takeRun p (q / 8) q).complete (mkCmd u (p + 1) q h)
      (u.runCheck p h prog) 0 0).afterRun p (q / 8)).flushQueue (p + 1) q)) ∧
    (u.runCheck p h prog = 0 → ∃ (t : State) (r : RunCmd), exec (.run (p + 1) q prog) s
        = .next (t.pollAll.flushQueue (p + 1) q) ∧
      (t.ctx p (q / 8)).run = some r ∧ r.rods = prog.rods ∧ r.cmd.hdr = h ∧ r.cmd.debit = u.debit h ∧ r.cmd.status = 0 ∧
      r.ended = false ∧ t.st.balance = u.st.balance - (u.debit h : Nat) ∧ t.st.curDebit = u.st.curDebit + u.debit h ∧
      (p + 1, q) ∉ t.st.queue ∧ (∀ k ∈ prog.rods, (t.rod k).ended = false ∧ (t.rod k).wait = .none) ∧ t.decks = u.decks)) ∧
  (∀ (p q : Nat) (prog : ProgInfo) (h : BitVec 1024) (s : State), p < 16 → s.headReady (p + 1) q = some h → hcOpcode h = 1 →
    s.fatal = false → s.pollAll.rodsIdle p = false → exec (.run (p + 1) q prog) s = .next s.pollAll) ∧
  (∀ (p : Nat) (r : RunCmd) (s : State), p < 16 → s.runCmd p = some r → (s.part p).switch = none →
    r.cmd.status ≠ 0 ∨ ((∀ d ∈ r.rods, (s.rod d).ended = true) ∧ r.reserved = [] ∧
      (∀ x ∈ s.cy.tiles, x.part = p → x.rod ∉ r.rods)) →
    ∃ t, exec (.runComplete p) s = .next t ∧ (t.ctx p (s.resident p)).run = none ∧ (t.part p).graceAt = 0)

/-- Function-level resets, mailboxes and SPDM requests: A function-level reset marks the function, of the physical
function every enabled one too; DMA of it is dropped and its other commands write no completion. Then its registers,
queues, mailbox and vectors are at their reset values, and at last it answers again, disabled. A mailbox operation is
ignored while BUSY is 1, and stays BUSY while the dictionary cannot be reached; else it acts in its turn (ringBefore):
with a bad OP, LENGTH or ADDR it ends with MB_PARAM; a read puts the object's bytes into the host buffer, a write
gives them to the object, and STATUS says how it ended. SPDM requests are answered in the order of a session, and with
an error otherwise; FINISH puts new IDE keys in force. (14_host_port.md R385; 14_host_port.md R400;
16_boot_firmware_trust.md R442) -/
def Obligations.FunctionResetsAndMailboxes : Prop :=
  (∀ (fn : Nat) (s : State), s.dictUp = true → s.fatal = false → fn ≤ 16 → fn = 0 ∨ (s.func fn).vf = true → (s.func fn).flr = 0 →
    ∃ t : State, exec (.functionLevelReset fn) s = .next t.pollAll ∧ (t.func fn).flr = 1 ∧ (t.func fn).flrAt = s.ns ∧
      (∀ l ∈ t.host.live, l.cmd.fn = fn → l.cmd.mute = true ∧ hcOpcode l.cmd.hdr ≠ 2 ∧ hcOpcode l.cmd.hdr ≠ 3) ∧
      (fn = 0 → ∀ f, 1 ≤ f → f ≤ 16 → (s.func f).vf = true → (t.func f).flr ≠ 0)) ∧
  (∀ (fn : Nat) (s : State), (s.func fn).flr = 1 → s.fatal = false → ∃ t, exec (.flrRegistersReset fn) s = .next t ∧
    (t.func fn).flr = 2 ∧ (t.func fn).en = false ∧ (t.func fn).down = false ∧ (∀ q, (t.func fn).sq q = {} ∧ (t.func fn).cq q = {}) ∧
    (t.func fn).shadow = 0 ∧ (t.func fn).mbCmd = 0 ∧ (t.func fn).mbStatus = 0 ∧ (t.func fn).cfgErr = false ∧
    (t.func fn).dbErr = false ∧ (t.func fn).vf = (s.func fn).vf ∧ (∀ v, tget false (t.func fn).pend v = false) ∧
    t = { s with host := t.host }) ∧
  (∀ (fn : Nat) (s : State), (s.func fn).flr = 2 → s.fatal = false → (∀ e ∈ s.pend, ¬(e.kind = 4 ∧ e.inst = fn)) →
    ∃ t, exec (.flrEnd fn) s = .next t ∧ (t.func fn).flr = 0 ∧ (t.func fn).en = (s.func fn).en ∧
      ((s.func fn).retrain = true → t.o kCQ_LINK_STATE = 0) ∧ ((s.func fn).retrain = false → t.objs = s.objs) ∧
      t.rods = s.rods ∧ t.decks = s.decks) ∧
  (∀ (fn : Nat) (r : MbRegs) (data : List Byte) (i : Instr) (s : State),
    (i = .mailboxRead fn r ∧ mbOp r ≠ 2 ∨ i = .mailboxWrite fn r data ∧ mbOp r ≠ 1) → s.mailboxUp fn = true →
    ((s.func fn).busy = true → exec i s = .next s) ∧
    ((s.func fn).busy = false → s.dictUp = false → ∃ t, exec i s = .next t ∧ (t.func fn).mbStatus = 1 ∧
      (∃ x, (t.func fn).mbHeld = some x ∧ x.regs = r ∧ (i = .mailboxWrite fn r data → x.data = data)) ∧
      t = { s with host := t.host }) ∧
    ((s.func fn).busy = false → s.dictUp = true → let v := (s.mailboxRegs fn r).ringBefore (.mailbox fn)
      v.fnUp fn = true → (mbOp r ≠ 1 ∧ mbOp r ≠ 2) ∨ mbLen r = 0 ∨ r.addr.toNat % 64 ≠ 0 → ∃ t, exec i s = .next t ∧
        (t.func fn).mbStatus = BitVec.ofNat 64 (stMB_PARAM * 2 ^ 16) ∧ t.objs = v.objs ∧ t.host.mem = v.host.mem ∧
        tget 0 t.status (pathCode (.mailbox fn)) = stMB_PARAM)) ∧
  (∀ (fn : Nat) (r : MbRegs) (data : List Byte) (u : State) (bs : List Byte) (st : Nat) (s : State),
    s.mailboxUp fn = true → (s.func fn).busy = false → s.dictUp = true →
    let v := (s.mailboxRegs fn r).ringBefore (.mailbox fn)
    v.fnUp fn = true → mbLen r ≠ 0 → r.addr.toNat % 64 = 0 → v.dictUp = true → u.dictUp = true →
    (mbOp r = 1 → v.readObject (.mailbox fn) (mbKey r) r.offset.toNat (mbLen r) false = .ok (u, bs) →
      ∃ t, exec (.mailboxRead fn r) s = .next t ∧ mread t.host.mem r.addr.toNat bs.length = bs ∧
        (t.func fn).mbStatus = BitVec.ofNat 64 (mbLen r * 2 ^ 32) ∧ tget 0 t.status (pathCode (.mailbox fn)) = 0 ∧
        t.objs = u.objs ∧ t.decks = u.decks) ∧
    (mbOp r = 1 → v.readObject (.mailbox fn) (mbKey r) r.offset.toNat (mbLen r) false = .error st →
      ∃ t, exec (.mailboxRead fn r) s = .next t ∧ t.host.mem = v.host.mem ∧
        (t.func fn).mbStatus = BitVec.ofNat 64 (st * 2 ^ 16) ∧ tget 0 t.status (pathCode (.mailbox fn)) = st ∧ t.objs = v.objs) ∧
    (mbOp r = 2 → v.writeObject (.mailbox fn) (mbKey r) r.offset.toNat
        ((upto (mbLen r)).map (fun k => data.getD k 0)) = (u, st) →
      ∃ t, exec (.mailboxWrite fn r data) s = .next t ∧ tget 0 t.status (pathCode (.mailbox fn)) = st ∧
        (t.func fn).mbStatus = BitVec.ofNat 64 (st * 2 ^ 16 + (if st = 0 then mbLen r else 0) * 2 ^ 32) ∧
        t.objs = u.objs ∧ t.decks = u.decks ∧ t.host.mem = u.host.mem)) ∧
  (∀ (fn : Nat) (r : SpdmReq) (s : State), s.fnUp fn = true →
    (r.ok = true → r.kind = .getVersion → ∃ t, exec (.spdmRequest fn r) s = .next t ∧ (t.func fn).spdm = 1 ∧
      t.host.spdmOut = s.host.spdmOut ++ [{ fn := fn, kind := r.kind, error := false, data := [] }]) ∧
    (r.ok = true → r.kind = .getMeasurements → 3 ≤ (s.func fn).spdm → s.boot.identity = true → 1 ≤ r.block → r.block ≤ 8 →
      ∃ t, exec (.spdmRequest fn r) s = .next t ∧ t.host.spdmOut = s.host.spdmOut
        ++ [{ fn := fn, kind := r.kind, error := false, data := leBytes 32 (tget 0 s.boot.regs (r.block - 1)).toNat }] ∧ (t.func fn).spdm = (s.func fn).spdm) ∧
    (r.ok = true → r.kind = .finish → (s.func fn).spdm = 4 → ∃ t, exec (.spdmRequest fn r) s = .next t ∧ (t.func fn).spdm = 5 ∧
      (t.func fn).ideKey = s.host.ideDrawn + 1 ∧ t.host.ideDrawn = s.host.ideDrawn + 1) ∧
    (r.ok = false ∨ (r.kind = .finish ∧ (s.func fn).spdm ≠ 4) ∨ (r.kind = .keyExchange ∧ s.boot.identity = false) →
      ∃ t, exec (.spdmRequest fn r) s = .next t ∧ t.host.spdmOut = s.host.spdmOut
        ++ [{ fn := fn, kind := r.kind, error := true, data := [] }] ∧ t = { s with host := { s.host with spdmOut := t.host.spdmOut } }))

/-- The memory window answers, fills, writes back and is sized: An access outside the range that the committed HDM decoder
gives does nothing. A closed window reads all ones and ignores writes. An access to a block in the buffer acts on its
64 B line and counts a hit; another waits, and counts a miss. The block fill brings the block's bytes from the lower
deck and completes every access that waits for it, oldest first. An unreadable line reads zeros, with a DECK_UNCORR
record, a RAS log entry and a message. A write-back puts every readable or written line of a dirty block into the
lower deck. CQ_WIN_EXTENTS above 256 is refused, and so is one while the HDM decoder is committed; 0 frees the window;
others begin to fill as many extents. The decoder takes base and commit unless one is committed. Once filled, the
window opens unless the link offers CXL.io only. (14_host_port.md R397; 14_host_port.md R398; 14_host_port.md R399) -/
def Obligations.WindowAccesses : Prop :=
  (∀ (w : WinReq) (s : State),
    (s.host.hdm = false ∨ w.addr < s.host.hdmBase ∨ s.host.hdmBase + s.o kCQ_WIN_EXTENTS * 2 ^ 30 ≤ w.addr →
      exec (.windowAccess w) s = .next s) ∧
    (s.host.hdm = true → s.host.hdmBase ≤ w.addr → w.addr < s.host.hdmBase + s.o kCQ_WIN_EXTENTS * 2 ^ 30 →
      let off := (w.addr - s.host.hdmBase) / 64 * 64
      let line := off % 4096 / 64
      (s.o kCQ_WIN_STATE ≠ winOPEN ∨ s.o kCQ_LINK_STATE ≠ 1 →
        (w.write.isSome = true → exec (.windowAccess w) s = .next s) ∧
        (w.write = none → ∃ t, exec (.windowAccess w) s = .next t ∧
          t.host.winOut = s.host.winOut ++ [(off, List.replicate 64 0xFF)] ∧
          t = { s with host := { s.host with winOut := t.host.winOut } })) ∧
      (∀ b, s.o kCQ_WIN_STATE = winOPEN → s.o kCQ_LINK_STATE = 1 → (s.winPhys off).isSome = true →
        s.host.win.find? (fun x => x.block == off / blockBytes) = some b →
        (∀ data, w.write = some data → data.length = 64 → ∃ (t : State) (c : WinBlock), exec (.windowAccess w) s = .next t ∧
          t.host.win = c :: s.host.win.filter (fun x => x.block != b.block) ∧ c.dirty = true ∧ c.block = b.block ∧ line ∉ c.bad ∧
          mread c.bytes (64 * line) 64 = data ∧
          (∀ k, k < 64 * line ∨ 64 * line + 64 ≤ k → mget c.bytes k = mget b.bytes k) ∧
          t.o kCQ_WIN_HITS = satAdd 64 (s.o kCQ_WIN_HITS) 1 ∧ t.decks = s.decks) ∧
        (w.write = none → line ∉ b.bad → ∃ t, exec (.windowAccess w) s = .next t ∧
          t.host.win = b :: s.host.win.filter (fun x => x.block != b.block) ∧
          t.host.winOut = s.host.winOut ++ [(off, mread b.bytes (64 * line) 64)] ∧
          t.o kCQ_WIN_HITS = satAdd 64 (s.o kCQ_WIN_HITS) 1 ∧ t.decks = s.decks ∧ t.errs = s.errs) ∧
        (w.write = none → line ∈ b.bad → ∃ t, exec (.windowAccess w) s = .next t ∧
          t.host.winOut = s.host.winOut ++ [(off, List.replicate 64 0)] ∧ t.errs.seq = s.errs.seq + 1 ∧
          t.host.ras = s.host.ras ++ [(1, w.addr)] ∧ t.host.msgs = s.host.msgs ++ [1] ∧ t.decks = s.decks)) ∧
      (s.o kCQ_WIN_STATE = winOPEN → s.o kCQ_LINK_STATE = 1 → (s.winPhys off).isSome = true →
        s.host.win.find? (fun x => x.block == off / blockBytes) = none → ∃ t, exec (.windowAccess w) s = .next t ∧
          t.host.winWait = s.host.winWait ++ [{ off := off, addr := w.addr, write := w.write, finds := w.finds }] ∧
          t.host.win = s.host.win ∧ t.o kCQ_WIN_MISSES = satAdd 64 (s.o kCQ_WIN_MISSES) 1 ∧ t.decks = s.decks))) ∧
  (∀ (w : WinAccess) (ws : List WinAccess) (a : Nat) (s : State), let d := s.decks.ldFind w.finds
    let k := w.off / blockBytes
    let mine := (w :: ws).filter (fun x => x.off / blockBytes == k)
    s.host.winWait = w :: ws → (∀ x ∈ mine, x.write = none ∧ x.off % 64 = 0) →
    (∀ b ∈ s.host.win, b.block ≠ k) → s.host.win.length < 512 → s.winPhys (k * blockBytes) = some a →
    (∀ j, j < 64 → tget false d.ldBad (a / 64 + j) = false) → ∃ t, exec (.windowBlockFill) s = .next t ∧
      t.host.winWait = ws.filter (fun x => x.off / blockBytes != k) ∧
      (∃ b ∈ t.host.win, b.block = k ∧ b.dirty = false ∧ ∀ j, j < 4096 → mget b.bytes j = d.ldByte (a + j)) ∧
      t.host.winOut = s.host.winOut
        ++ mine.map (fun x => (x.off, (upto 64).map (fun j => d.ldByte (a + x.off % blockBytes + j)))) ∧
      t.decks = d) ∧
  (∀ (k a : Nat) (b : WinBlock) (s : State), s.host.win.find? (fun x => x.block == k) = some b →
    (b.dirty = false → exec (.windowWriteback k) s = .next s) ∧
    (b.dirty = true → s.winPhys (k * blockBytes) = some a → b.bad = [] → ∃ t, exec (.windowWriteback k) s = .next t ∧
      (∀ j, j < 4096 → t.decks.ldByte (a + j) = mget b.bytes j) ∧
      (∀ x, x < a ∨ a + 4096 ≤ x → t.decks.ldByte x = s.decks.ldByte x) ∧
      (∀ x ∈ t.host.win, x.block = k → x.dirty = false) ∧ t.decks.ud = s.decks.ud ∧ t.rods = s.rods)) ∧
  (∀ (path : Path) (n : Nat) (s : State), let v := s.ringBefore path
    v.dictUp = true → v.mayWrite path = true →
    (256 < n → exec (.cqWinExtents path (.extents n)) s = .next (v.report path (invalidParam path))) ∧
    (n ≤ 256 → v.host.hdm = true → exec (.cqWinExtents path (.extents n)) s = .next (v.report path stCQ_BUSY)) ∧
    (v.host.hdm = false → ∃ t, exec (.cqWinExtents path (.extents 0)) s = .next t ∧ t.o kCQ_WIN_EXTENTS = 0 ∧
      t.o kCQ_WIN_STATE = winCLOSED ∧ t.host.winExt = [] ∧ t.host.win = [] ∧ (∀ e, tget 0xFF t.decks.owner e ≠ 0x10) ∧
      tget 0 t.status (pathCode path) = 0) ∧
    (∀ d, 1 ≤ n → n ≤ 256 → v.host.hdm = false → ((v.decks.freeExtents 0x10).newKey 0x10).allocExtents 0x10 n = some d →
      ∃ t, exec (.cqWinExtents path (.extents n)) s = .next t ∧ t.o kCQ_WIN_EXTENTS = n ∧ t.o kCQ_WIN_STATE = winFILLING ∧
        t.host.winExt.length = n ∧ t.host.win = [] ∧ t.decks = d ∧ tget 0 t.status (pathCode path) = 0)) ∧
  (∀ (path : Path) (base : Nat) (commit : Bool) (s : State), s.fnUp 0 = true →
    exec (.cqWinExtents path (.decoder base commit)) s = .next (if s.host.hdm = true ∧ commit = true then s
      else { s with host := { s.host with hdm := commit, hdmBase := base } })) ∧
  (∀ (s : State), s.o kCQ_WIN_STATE = winFILLING → (∀ f ∈ s.decks.filling, f.2 ≠ 0x10) → s.fatal = false →
    ∃ t, exec .windowOpen s = .next t ∧
      t.o kCQ_WIN_STATE = (if s.host.winExt ≠ [] ∧ s.host.ioOnly = false then winOPEN else winCLOSED) ∧
      t = { s with objs := t.objs })

/-- Only rightful paths write the dictionary, and a refused write changes nothing: Before the dictionary is reachable
every dictionary command changes nothing (but for what can start anyway: pollAll). In its turn (ringBefore), a path
without the right to write (a virtual function's mailbox, an observer) gets the access-rights status for every
command, and nothing else changes. A write of no object, or of a span that is none of the object's, gets the invalid-
parameter status; of a RO, CONST or RC object the access-rights status. A persistent scalar in range takes its value
at once, and is marked for the commit; out of range it is refused. A commit leaves one newer copy with a correct CRC
in both flash devices, of a secret one wrapped under the storage key, or none without that key (log entry 181).
DEFAULTS is noted in flash. RING_KEY takes 32 bytes, sets RING_SEQ_FLOOR to 0, and RING_AUTH by whether it is zero.
(15_object_dictionary_and_ring.md R404; 15_object_dictionary_and_ring.md R405; 15_object_dictionary_and_ring.md R408;
15_object_dictionary_and_ring.md R410; 15_object_dictionary_and_ring.md R413; 15_object_dictionary_and_ring.md R420) -/
def Obligations.DictionaryWritesAndRights : Prop :=
  (∀ (path : Path) (a b c : Nat) (v : BitVec 32) (e : BitVec 512) (o o' : Option Nat) (key : List Byte) (i : Instr) (s : State),
    let u := s.ringBefore path
    (i ∈ ([.fenceRequest path v, .svStart path, .svStop path, .svDrain path, .cqWinExtents path (.extents a), .defaults path,
        .ringKey path key, .writeImage path a b, .selectBank path a, .commitSvn path, .coldReset path, .deviceReset path,
        .partitionReset path a, .functionReset path a, .portReset path a] : List Instr) ∨
      a < 8 ∧ i ∈ ([.form path a, .rebalanceToStudent path a b c, .rebalanceToTeacher path a b c, .attach path a b] : List Instr) ∨
      a < 16 ∧ i ∈ ([.tyHvEnable path a b, .mirrorEnable path a, .mirrorDisable path a, .mirrorRestore path a,
        .mirrorExport path a, .ptCreate path a, .ptDestroy path a, .ptAdd path a, .ptRemove path a] : List Instr) ∨
      a < 16 ∧ b < 4 ∧ i = .groupForm path a b ∨
      a < 16 ∧ b < 8 ∧ i ∈ ([.ctxEnable path a b, .ctxDisable path a b, .ctxYield path a b, .ctxEvict path a b] : List Instr) ∨
      a < 16 ∧ b < 256 ∧ i = .rkGroupsWrite path a b e ∨ a < 24 ∧ i = .ringChange path a o o' ∨
      a < 64 ∧ i ∈ ([.linkEnable path a, .linkDisable path a, .linkRetrain path a, .linkRelease path a] : List Instr) →
    (s.dictUp = false → exec i s = .next s) ∧
    (u.dictUp = true → u.mayWrite path = false → exec i s = .next (u.report path (accessDenied path)))) ∧
    (a < 8 ∧ i ∈ ([.close path a, .detach path a b] : List Instr) ∨ a < 16 ∧ i ∈ ([.startRun path a, .endRun path a] : List Instr) ∨
      a < 16 ∧ b < 4 ∧ i = .groupLeave path a b →
    (s.dictUp = false → exec i s = .next s.pollAll) ∧
    (u.dictUp = true → u.mayWrite path = false → exec i s = .next (u.report path (accessDenied path)).pollAll))) ∧
  (∀ (path : Path) (idx sub off : Nat) (data : List Byte) (s : State), let v := s.ringBefore path
    (s.dictUp = false ∨ 65536 ≤ idx ∨ 256 ≤ sub → exec (.objectWrite path idx sub off data) s = .next s) ∧
    (v.dictUp = true → idx < 65536 → sub < 256 →
      (dirFind (idx * 256 + sub) = none →
        exec (.objectWrite path idx sub off data) s = .next (v.report path (invalidParam path))) ∧
      (∀ r, dirFind (idx * 256 + sub) = some r →
        (v.mayWrite path = false ∨ r.acc = 1 ∨ r.acc = 4 ∨ r.acc = 6 →
          exec (.objectWrite path idx sub off data) s = .next (v.report path (accessDenied path))) ∧
        (v.mayWrite path = true → r.acc = 2 ∨ r.acc = 3 ∨ r.acc = 5 →
          data = [] ∨ r.size < off + data.length ∨ (r.ty ≠ 8 ∧ r.ty ≠ 9 ∧ (off ≠ 0 ∨ data.length ≠ r.size)) →
          exec (.objectWrite path idx sub off data) s = .next (v.report path (invalidParam path)))))) ∧
  (∀ (path : Path) (key : Nat) (r : DirRow) (data : List Byte) (s : State), let v := s.ringBefore path
    v.dictUp = true → v.mayWrite path = true →
    key ∈ [kPW_POLICY, kPW_BASE_W, kST_PERIOD_US, kST_HOLDOVER_W, kST_CARRY_UJ, kST_REJOIN_MAX, kST_FIRST_WAIT_MS
      , kOP_QUAR_STROKES] → dirFind key = some r → data.length = r.size →
    (inRange key (leNat data) = true → ∃ t, exec (.objectWrite path (key / 256) (key % 256) 0 data) s = .next t ∧
      t.o key = leNat data ∧ key ∈ t.flash.dirty ∧ (∀ k, k ≠ key → t.o k = v.o k) ∧ tget 0 t.status (pathCode path) = 0 ∧
      t = { v with objs := t.objs, flash := t.flash, status := t.status }) ∧
    (inRange key (leNat data) = false →
      exec (.objectWrite path (key / 256) (key % 256) 0 data) s = .next (v.report path (invalidParam path)))) ∧
  (∀ (s : State), s.dictUp = true → ∃ t, exec .rwpCommit s = .next t ∧ t.flash.dirty = [] ∧
    (∀ key r, key ∈ s.flash.dirty → dirFind key = some r →
      (wrapped key = false ∨ s.boot.identity = true → ∃ c : StoredCopy, t.stored 0 key = some c ∧ t.stored 1 key = some c ∧
        t.newerCopy key = some c ∧ s.storedSeq key < c.seq ∧
        c.bytes = (if wrapped key then wrapValue key c.seq (s.objImage r key) else s.objImage r key)) ∧
      (wrapped key = true → s.boot.identity = false → t.stored 0 key = s.stored 0 key ∧ t.stored 1 key = s.stored 1 key)) ∧
    (∀ key, key ∉ s.flash.dirty → t.stored 0 key = s.stored 0 key ∧ t.stored 1 key = s.stored 1 key) ∧
    t = { s with boot := { s.boot with banks := t.boot.banks }, flash := t.flash }) ∧
  (∀ (path : Path) (s : State), let v := s.ringBefore path
    v.dictUp = true → v.mayWrite path = true → ∃ t, exec (.defaults path) s = .next t ∧
    t.flash.defaults = true ∧ tget 0 t.status (pathCode path) = 0 ∧ t.objs = v.objs ∧ t.rods = v.rods ∧ t.decks = v.decks) ∧
  (∀ (path : Path) (key : List Byte) (s : State), let v := s.ringBefore path
    v.dictUp = true → v.mayWrite path = true → key.length = 32 →
    ∃ t, exec (.ringKey path key) s = .next t ∧ (upto 32).map (fun k => t.blob kRING_KEY k) = key ∧
      t.o kRING_SEQ_FLOOR = 0 ∧ t.o kRING_AUTH = (if ∀ x ∈ key, x = 0 then 0 else 1) ∧ kRING_KEY ∈ t.flash.dirty ∧
      tget 0 t.status (pathCode path) = 0 ∧ t.ring = v.ring)

/-- Ring requests are queued, performed in order, and answered one to a frame: In an accepted frame the part's slot takes
a request while fewer than 16 wait, and counts an overrun otherwise; the frame carries away the oldest response whose
request came 20 us before, or IDLE. Another frame takes IDLE alone. A slot that holds another part's response is left
alone and counted; a slot above 63 does nothing. READ answers the object's bytes, WRITE and COMMIT the status of the
write, SNAP puts the bytes into the snap buffer, PEEK answers from it, STAGE writes the stage buffer; spans beyond a
buffer are refused with RING_PARAM, STAGE by an observer with RING_DENIED. (15_object_dictionary_and_ring.md R418;
15_object_dictionary_and_ring.md R419; 15_object_dictionary_and_ring.md R422; 15_object_dictionary_and_ring.md R423) -/
def Obligations.RingRequestsAreServed : Prop :=
  (∀ (f : List Byte) (acc auth : Bool) (s : State), let slot := s.ringSlot (rhPos (rfHdr f))
    let q := BitVec.ofNat 96 (rfNum f (rfRequest slot) 12)
    let t := (s.serveSlot f acc auth).1
    (63 < slot ∨ f.length < rfResponse slot + 16 → s.serveSlot f acc auth = (s, none)) ∧
    (slot ≤ 63 → rfResponse slot + 16 ≤ f.length → rfNum f (rfResponse slot) 1 % 16 ≠ 0 → t.ring.queue = s.ring.queue ∧
      t.ring.ready = s.ring.ready ∧ t.ring.out = s.ring.out ∧ t.o kRING_CONFLICTS = satAdd 32 (s.o kRING_CONFLICTS) 1 ∧
      (s.serveSlot f acc auth).2 = none) ∧
    (slot ≤ 63 → rfResponse slot + 16 ≤ f.length → rfNum f (rfResponse slot) 1 % 16 = 0 → rqOp q ≤ 6 →
      (∀ r ∈ s.ring.queue, rqOp r.slot ≤ 6) →
      (acc = true → rqOp q ≠ 0 → s.ring.queue.length < 16 → t.ring.queue = s.ring.queue
        ++ [{ seq := rhSeq (rfHdr f), slot := q, auth := auth, at_ := s.ns }]) ∧
      (acc = false ∨ rqOp q = 0 ∨ 16 ≤ s.ring.queue.length → t.ring.queue = s.ring.queue) ∧
      (acc = true → rqOp q ≠ 0 → 16 ≤ s.ring.queue.length → t.o kRING_OVERRUNS = satAdd 32 (s.o kRING_OVERRUNS) 1) ∧
      (∃ x : BitVec 96, t.ring.out = s.ring.out ++ [(slot, x)] ∧ (s.serveSlot f acc auth).2 = some (slot, x) ∧
        bits x 15 8 = rhPos (rfHdr f) ∧ bit x 4 = decide (s.o kST_STATE ≠ 1) ∧ bit x 5 = s.restricted ∧
        (∀ r rs, acc = true → s.ring.ready = r :: rs → r.at_ + 20000 ≤ s.ns → bits x 3 0 = 8 ∧ bits x 47 16 = r.seq % 2 ^ 32 ∧
          bits x 63 48 = r.status % 2 ^ 16 ∧ bits x 95 64 = r.data % 2 ^ 32 ∧ t.ring.ready = rs) ∧
        (acc = false ∨ (∀ r rs, s.ring.ready = r :: rs → s.ns < r.at_ + 20000) → bits x 3 0 = 9 ∧
          bits x 95 64 = s.stroke % 2 ^ 32 ∧ bits x 63 48 = 0 ∧ bits x 47 16 = 0 ∧ t.ring.ready = s.ring.ready)))) ∧
  (∀ (r : RingReq) (rs : List RingReq) (s : State), s.dictUp = true → s.ring.queue = r :: rs →
    (∀ x ∈ rs, rqOp x.slot ≤ 6) →
    let v : State := { s with ring := { s.ring with queue := rs } }
    let done (u : State) (st data : Nat) : List RingResp := u.ring.ready ++ [{ seq := r.seq, status := st, data := data, at_ := r.at_ }]
    (∀ (u : State) (bs : List Byte), rqOp r.slot = 1 → u.dictUp = true → u.ring = v.ring →
      v.readObject (.ring r.auth) (rqKey r.slot) (rqOff r.slot) (rqLen r.slot) true = .ok (u, bs) →
      ∃ t, exec .ringRead s = .next t ∧ t.ring.queue = rs ∧ t.ring.ready = done u 0 (leNat bs) ∧ t.objs = u.objs) ∧
    (∀ st, rqOp r.slot = 1 → v.readObject (.ring r.auth) (rqKey r.slot) (rqOff r.slot) (rqLen r.slot) true = .error st →
      ∃ t, exec .ringRead s = .next t ∧ t.ring.queue = rs ∧ t.ring.ready = done v st 0 ∧ t.objs = s.objs) ∧
    (∀ (u : State) (st : Nat), rqOp r.slot = 2 → u.dictUp = true → u.ring = v.ring → v.ringWrite r = (u, st) →
      ∃ t, exec .ringWrite s = .next t ∧ t.ring.queue = rs ∧ t.ring.ready = done u st 0 ∧ t.objs = u.objs) ∧
    (rqOp r.slot = 3 → ∃ t, exec .ringStage s = .next t ∧ t.ring.queue = rs ∧ t.objs = s.objs ∧
      (s.mayWrite (.ring r.auth) = false → t.ring.ready = done v stRING_DENIED 0 ∧ t.ring.stage = s.ring.stage) ∧
      (s.mayWrite (.ring r.auth) = true → ringBuf < rqOff r.slot + rqLen r.slot →
        t.ring.ready = done v stRING_PARAM 0 ∧ t.ring.stage = s.ring.stage) ∧
      (s.mayWrite (.ring r.auth) = true → rqOff r.slot + rqLen r.slot ≤ ringBuf → t.ring.ready = done v 0 0 ∧
        mread t.ring.stage (rqOff r.slot) (rqLen r.slot) = leBytes (rqLen r.slot) (rqData r.slot) ∧
        (∀ k, k < rqOff r.slot ∨ rqOff r.slot + rqLen r.slot ≤ k → mget t.ring.stage k = mget s.ring.stage k))) ∧
    (∀ (u : State) (st : Nat), rqOp r.slot = 4 → 1 ≤ rqData r.slot → rqData r.slot ≤ ringBuf → u.dictUp = true →
      u.ring = v.ring → v.writeObject (.ring r.auth) (rqKey r.slot) (rqOff r.slot) (mread s.ring.stage 0 (rqData r.slot)) = (u, st) →
      ∃ t, exec .ringCommit s = .next t ∧ t.ring.queue = rs ∧ t.ring.ready = done u st 0 ∧ t.objs = u.objs) ∧
    (∀ i, (i = .ringCommit ∧ rqOp r.slot = 4 ∨ i = .ringSnap ∧ rqOp r.slot = 5) → rqData r.slot = 0 ∨ ringBuf < rqData r.slot →
      ∃ t, exec i s = .next t ∧ t.ring.queue = rs ∧ t.ring.ready = done v stRING_PARAM 0 ∧ t.objs = s.objs) ∧
    (∀ (u : State) (bs : List Byte), rqOp r.slot = 5 → 1 ≤ rqData r.slot → rqData r.slot ≤ ringBuf → u.dictUp = true →
      u.ring = v.ring → v.readObject (.ring r.auth) (rqKey r.slot) (rqOff r.slot) (rqData r.slot) false = .ok (u, bs) →
      ∃ t, exec .ringSnap s = .next t ∧ t.ring.queue = rs ∧ t.ring.ready = done u 0 0 ∧ mread t.ring.snap 0 bs.length = bs) ∧
    (rqOp r.slot = 6 → ∃ t, exec .ringPeek s = .next t ∧ t.ring.queue = rs ∧ t.objs = s.objs ∧ t.ring.snap = s.ring.snap ∧
      t.ring.ready = (if ringBuf < rqOff r.slot + rqLen r.slot then done v stRING_PARAM 0
        else done v 0 (leNat (mread s.ring.snap (rqOff r.slot) (rqLen r.slot))))))

/-- A request of OP NONE takes no queue entry, and no request of a frame that is not accepted is performed: Whatever a
ring frame does besides, the request queue is as it was if the request in the part's slot has OP NONE; and a frame
that is not accepted (before the dictionary is reachable or with the ring bypassed; a bad FCS; another EtherType,
length, version or ring) leaves the requests, the responses and both buffers as they were, and goes on.
(15_object_dictionary_and_ring.md R424) -/
def Obligations.NoRequestWithoutOne : Prop :=
  (∀ (f : List Byte) (s : State), rqOp (BitVec.ofNat 96 (rfNum f (rfRequest (s.ringSlot (rhPos (rfHdr f)))) 12)) = 0 →
    ∃ t, exec (.ringFrame f) s = .next t ∧ t.ring.queue = s.ring.queue) ∧
  (∀ (f : List Byte) (s : State), s.dictUp = false ∨ s.ring.bypass = true ∨ rfFcsOk f = false ∨ rfShaped f = false ∨
    s.headerOk f = false → ∃ t, exec (.ringFrame f) s = .next t ∧
      t.ring = { s.ring with fwd := t.ring.fwd, out := t.ring.out, conflictAt := t.ring.conflictAt } ∧
      t.ring.fwd.length = s.ring.fwd.length + 1 ∧ t.decks = s.decks ∧ t.rods = s.rods ∧ t.blobs = s.blobs)

/-- Scrub periods out of range are refused with the path's invalid-parameter status: A write of DK_SCRUB_UD_HOURS outside
1 to 24, or of DK_SCRUB_LD_HOURS outside 1 to 168, by a path that may write, in its turn (ringBefore), reports the
invalid-parameter status of that path, and the value in force is unchanged. (05_upper_and_lower_deck.md R150) -/
def Obligations.ScrubPeriodsAreHeldToTheirRange : Prop :=
  ∀ (path : Path) (key v : Nat) (s : State), let u := s.ringBefore path
    u.dictUp = true → u.mayWrite path = true → v < 256 →
    (key = kDK_SCRUB_UD_HOURS ∧ (v < 1 ∨ 24 < v) ∨ key = kDK_SCRUB_LD_HOURS ∧ (v < 1 ∨ 168 < v)) →
    ∃ t, exec (.objectWrite path (key / 256) (key % 256) 0 [BitVec.ofNat 8 v]) s = .next t ∧ t.o key = u.o key ∧
      tget 0 t.status (pathCode path) = (match path with | .ring _ => stRING_PARAM | _ => stMB_PARAM) ∧
      t = { u with status := t.status }

/-- The monitor answers its commands, and its level rises and falls as its rules say: While the dictionary is reachable
and no VENDOR lines are awaited: each command ends with the prompt of the session's level. LOGIN with the right
passphrase gives operator and clears the failures; a wrong one counts, and the fifth in a row locks LOGIN until 60 s
have passed; a length outside 8 to 64 is PARAM. LOGOUT, a break and MON_IDLE_S without input return to observer.
CHALLENGE issues a nonce; a VENDOR within 60 s whose signature over it and OP_NODE_ID verifies gives vendor level, any
other counts a failure, and either uses the nonce up. READ answers the object's bytes, WRITE and RESET need operator
level, LOG prints at most 16 records, WATCH is switched. Characters form a line that CR ends: beyond 1 KiB it draws
OVERRUN, beyond 255 characters or malformed PARAM, else its command is carried out; after VENDOR the lines are its
signature's. (The layout of lines: log entry 183.) (15_object_dictionary_and_ring.md R426;
15_object_dictionary_and_ring.md R427; 15_object_dictionary_and_ring.md R428; 15_object_dictionary_and_ring.md R429) -/
def Obligations.MonitorSessions : Prop :=
  (∀ (s : State), s.dictUp = true → s.mon.vend = none →
    let v : State := { s with mon := { s.mon with inputAt := s.ns } }
    (∃ t, exec .monHelp s = .next t ∧ t.mon.out = s.mon.out ++ s.mon.text ((.ok :: monCommands.map .command) ++ [.prompt s.mon.level]) ∧
      t.mon.inputAt = s.ns ∧ t.mon.lost = 0 ∧ t = { s with mon := t.mon }) ∧
    (∃ t, exec .monInfo s = .next t ∧ t = { s with mon := t.mon } ∧ t.mon.out = s.mon.out ++ s.mon.text ((.ok ::
      infoObjects.map v.monField ++ [.field "RESTRICTED" 7 (leBytes 1 (bnat s.restricted)), .field "LEVEL" 1 (leBytes 1 s.mon.level)])
      ++ [.prompt s.mon.level])) ∧
    (∃ t, exec .logout s = .next t ∧ t.mon.level = 0 ∧ t.mon.out = s.mon.out ++ s.mon.text [.ok, .prompt 0] ∧ t = { s with mon := t.mon }) ∧
    (∃ t, exec .challenge s = .next t ∧ t.mon.nonce = some (s.draws, s.ns) ∧ t.draws = s.draws + 1 ∧
      t.mon.out = s.mon.out ++ s.mon.text [.ok, .nonce (nonceValue s.draws), .prompt s.mon.level] ∧
      t.mon.level = s.mon.level ∧ t = { s with mon := t.mon, draws := t.draws }) ∧
    (∃ t, exec .watchOn s = .next t ∧ t.mon.watch = true ∧ t.mon.level = s.mon.level ∧ t = { s with mon := t.mon }) ∧
    (∃ t, exec .watchOff s = .next t ∧ t.mon.watch = false ∧ t.mon.level = s.mon.level ∧ t = { s with mon := t.mon })) ∧
  (∀ (s : State), s.dictUp = true →
    (∃ t, exec .monitorBreak s = .next t ∧ t.mon.baud = 115200 ∧ t.mon.next = none ∧ t.mon.level = 0 ∧ t.mon.input = [] ∧
      t.mon.out = s.mon.sent s.ns ∧ t = { s with mon := t.mon }) ∧
    (s.mon.inputAt + s.o kMON_IDLE_S * 1000000000 ≤ s.ns → ∃ t, exec .monIdleTimeout s = .next t ∧ t.mon.level = 0 ∧
      t = { s with mon := t.mon })) ∧
  (∀ (phrase : List Byte) (s : State), s.dictUp = true → s.mon.vend = none → let hash := (upto 32).map (fun k => s.blob kMON_PASS_HASH k)
    (s.mon.lockAt ≠ 0 → ∃ t, exec (.login (.phrase phrase)) s = .next t ∧ t.mon.level = s.mon.level ∧ t.mon.fails = s.mon.fails ∧
      t.mon.out = s.mon.out ++ s.mon.text [.locked, .prompt s.mon.level] ∧ t = { s with mon := t.mon }) ∧
    (s.mon.lockAt = 0 → phrase.length < 8 ∨ 64 < phrase.length → ∃ t, exec (.login (.phrase phrase)) s = .next t ∧
      t.mon.level = s.mon.level ∧ t.mon.fails = s.mon.fails ∧
      t.mon.out = s.mon.out ++ s.mon.text [.err stMB_PARAM, .prompt s.mon.level] ∧ t = { s with mon := t.mon }) ∧
    (s.mon.lockAt = 0 → 8 ≤ phrase.length → phrase.length ≤ 64 → sha256 phrase = hash → (∃ b ∈ hash, b ≠ 0) →
      ∃ t, exec (.login (.phrase phrase)) s = .next t ∧ t.mon.level = max 1 s.mon.level ∧ t.mon.fails = 0 ∧
        t.mon.out = s.mon.out ++ s.mon.text [.ok, .prompt (max 1 s.mon.level)] ∧ t = { s with mon := t.mon }) ∧
    (s.mon.lockAt = 0 → 8 ≤ phrase.length → phrase.length ≤ 64 → (sha256 phrase ≠ hash ∨ ∀ b ∈ hash, b = 0) →
      ∃ t, exec (.login (.phrase phrase)) s = .next t ∧ t.mon.level = s.mon.level ∧ t.mon.fails = s.mon.fails + 1 ∧
        t.mon.lockAt = (if 5 ≤ s.mon.fails + 1 then s.ns + 1 else 0) ∧
        t.o kMON_FAILS = satAdd 32 (s.o kMON_FAILS) 1 ∧ (∀ k, k ≠ kMON_FAILS → t.o k = s.o k) ∧
        t.mon.out = s.mon.out ++ s.mon.text [.err stMB_DENIED, .prompt s.mon.level] ∧ t = { s with mon := t.mon, objs := t.objs })) ∧
  (∀ (s : State), s.mon.lockAt ≠ 0 → s.mon.lockAt + 60000000000 ≤ s.ns + 1 →
    exec .loginLockEnd s = .next { s with mon := { s.mon with lockAt := 0 } }) ∧
  (∀ (k at_ : Nat) (s : State), s.mon.nonce = some (k, at_) → at_ + 60000000000 ≤ s.ns →
    exec .challengeExpiry s = .next { s with mon := { s.mon with nonce := none } }) ∧
  (∀ (lines : List (List Byte)) (s : State), s.dictUp = true → s.mon.vend = none →
    (vendorSignature lines = none → ∃ t, exec (.vendor lines) s = .next t ∧ t.mon.level = s.mon.level ∧ t.mon.nonce = none ∧
      t.o kMON_FAILS = satAdd 32 (s.o kMON_FAILS) 1 ∧ t.boot = s.boot ∧
      t.mon.out = s.mon.out ++ s.mon.text [.err stMB_PARAM, .prompt s.mon.level]) ∧
    (∀ sig k at_, vendorSignature lines = some sig → s.mon.nonce = some (k, at_) → s.ns ≤ at_ + 60000000000 →
      let good := Config.pssVerify Config.vendorKey (vendorSigned k) sig
      ∃ t, exec (.vendor lines) s = .next t ∧ t.mon.nonce = none ∧
        (good = true → t.mon.level = 2 ∧ t.boot.debug = true ∧ (∀ r, r ≠ 7 → tget 0 t.boot.regs r = tget 0 s.boot.regs r) ∧
          t.mon.out = s.mon.out ++ s.mon.text [.ok, .prompt 2] ∧ t.objs = s.objs ∧ t.rods = s.rods ∧ t.decks = s.decks) ∧
        (good = false → t.mon.level = s.mon.level ∧ t.o kMON_FAILS = satAdd 32 (s.o kMON_FAILS) 1 ∧ t.boot = s.boot ∧
          t.mon.out = s.mon.out ++ s.mon.text [.err stMB_DENIED, .prompt s.mon.level])) ∧
    (∀ sig, vendorSignature lines = some sig → (∀ k at_, s.mon.nonce = some (k, at_) → at_ + 60000000000 < s.ns) →
      ∃ t, exec (.vendor lines) s = .next t ∧ t.mon.level = s.mon.level ∧ t.mon.nonce = none ∧
        t.o kMON_FAILS = satAdd 32 (s.o kMON_FAILS) 1 ∧ t.boot = s.boot ∧
        t.mon.out = s.mon.out ++ s.mon.text [.err stMB_DENIED, .prompt s.mon.level])) ∧
  (∀ (idx sub off len : Nat) (data : List Byte) (s : State), s.dictUp = true → s.mon.vend = none →
    let v := { s with mon := { s.mon with inputAt := s.ns } }.ringBefore .monitor
    (65536 ≤ idx ∨ 256 ≤ sub ∨ 64 < len → ∃ t, exec (.monRead idx sub off len) s = .next t ∧
      t.mon.out = s.mon.out ++ s.mon.text [.err stMB_PARAM, .prompt s.mon.level] ∧ t = { s with mon := t.mon }) ∧
    (∀ (u : State) (bs : List Byte) (r : DirRow), idx < 65536 → sub < 256 → len ≤ 64 → dirFind (idx * 256 + sub) = some r →
      v.dictUp = true → v.readObject .monitor (idx * 256 + sub) off len false = .ok (u, bs) →
      ∃ t, exec (.monRead idx sub off len) s = .next t ∧
        t.mon.out = u.mon.out ++ u.mon.text [.ok, .value r.ty bs, .prompt u.mon.level] ∧
        tget [] t.readData (pathCode .monitor) = bs ∧ t.objs = u.objs ∧ t.decks = u.decks) ∧
    (∀ st, idx < 65536 → sub < 256 → len ≤ 64 → v.dictUp = true →
      v.readObject .monitor (idx * 256 + sub) off len false = .error st →
      ∃ t, exec (.monRead idx sub off len) s = .next t ∧ t.objs = v.objs ∧
        t.mon.out = v.mon.out ++ v.mon.text [.err st, .prompt v.mon.level]) ∧
    (s.mon.level = 0 → ∃ t, exec (.monWrite idx sub off data) s = .next t ∧ t = { s with mon := t.mon } ∧
      t.mon.out = s.mon.out ++ s.mon.text [.err stMB_DENIED, .prompt 0]) ∧
    (∀ (u : State) (st : Nat), s.mon.level ≠ 0 → idx < 65536 → sub < 256 → data.length ≤ 64 → v.dictUp = true →
      v.writeObject .monitor (idx * 256 + sub) off data = (u, st) → u.dictUp = true →
      ∃ t, exec (.monWrite idx sub off data) s = .next t ∧ t.objs = u.objs ∧ t.decks = u.decks ∧
        t.mon.out = u.mon.out ++ u.mon.text [if st = 0 then .ok else .err st, .prompt u.mon.level] ∧
        (st = 0 → idx * 256 + sub = kMON_BAUD → ∃ e, t.mon.baud = u.mon.rate u.ns ∧ t.mon.next = some (u.o kMON_BAUD, e) ∧ u.ns ≤ e))) ∧
  (∀ (n : Nat) (s : State), s.dictUp = true → s.mon.vend = none →
    (n = 0 ∨ 16 < n → ∃ t, exec (.monLog n) s = .next t ∧ t = { s with mon := t.mon } ∧
      t.mon.out = s.mon.out ++ s.mon.text [.err stMB_PARAM, .prompt s.mon.level]) ∧
    (1 ≤ n → n ≤ 16 → ∃ t, exec (.monLog n) s = .next t ∧ t = { s with mon := t.mon } ∧ t.mon.out = s.mon.out
      ++ s.mon.text ((.ok :: (s.errs.newest n).map (fun r => .record (leBytes 64 r.toBits.toNat))) ++ [.prompt s.mon.level]))) ∧
  (∀ (kind inst : Nat) (s : State), s.dictUp = true → s.mon.vend = none →
    let v := { s with mon := { s.mon with inputAt := s.ns } }.ringBefore .monitor
    (s.mon.level = 0 → ∃ t, exec (.monReset kind inst) s = .next t ∧ t = { s with mon := t.mon } ∧
      t.mon.out = s.mon.out ++ s.mon.text [.err stMB_DENIED, .prompt 0]) ∧
    (s.mon.level ≠ 0 → 16 ≤ kind ∨ 65536 ≤ inst → ∃ t, exec (.monReset kind inst) s = .next t ∧ t = { s with mon := t.mon } ∧
      t.mon.out = s.mon.out ++ s.mon.text [.err stMB_PARAM, .prompt s.mon.level]) ∧
    (∀ (u : State) (st : Nat), s.mon.level ≠ 0 → kind < 16 → inst < 65536 → v.dictUp = true →
      v.resetControl .monitor (kind + 256 * inst) = (u, st) →
      (st ≠ 0 → ∃ t, exec (.monReset kind inst) s = .next t ∧ t.objs = v.objs ∧ t.rods = v.rods ∧ t.decks = v.decks ∧
        t.mon.out = v.mon.out ++ v.mon.text [.err st, .prompt v.mon.level]) ∧
      (st = 0 → u.dictUp = false → exec (.monReset kind inst) s = .next u) ∧
      (st = 0 → u.dictUp = true → ∃ t, exec (.monReset kind inst) s = .next t ∧ t.objs = u.objs ∧ t.rods = u.rods ∧
        t.decks = u.decks ∧ t.mon.out = u.mon.out ++ u.mon.text [.ok, .prompt u.mon.level]))) ∧
  (∀ (line : List Byte) (s : State), s.dictUp = true → (∀ c ∈ line, c ≠ 0x0D ∧ c ≠ 0x0A) → s.mon.input = [] → s.mon.overrun = false →
    let u : State := { s with mon := { s.mon with inputAt := s.ns, input := [], overrun := false, afterCr := true } }
    (1024 < line.length → ∃ t, exec (.login (.chars (line ++ [0x0D]))) s = .next t ∧ t = { s with mon := t.mon } ∧
      t.mon.out = s.mon.out ++ s.mon.text [.overrun, .prompt s.mon.level]) ∧
    (line.length ≤ 1024 → s.mon.vend = none →
      (255 < line.length ∨ monParse line = none → ∃ t, exec (.login (.chars (line ++ [0x0D]))) s = .next t ∧
        t = { s with mon := t.mon } ∧ t.mon.out = s.mon.out ++ s.mon.text [.err stMB_PARAM, .prompt s.mon.level]) ∧
      (∀ c, line.length ≤ 255 → monParse line = some c → exec (.login (.chars (line ++ [0x0D]))) s = .next (u.monDo c))) ∧
    (∀ a ls, line.length ≤ 1024 → s.mon.vend = some (a, ls) →
      (ls.length ≠ 15 → exec (.login (.chars (line ++ [0x0D]))) s
        = .next { u with mon := { u.mon with vend := some (a, ls ++ [line]) } }) ∧
      (ls.length = 15 → exec (.login (.chars (line ++ [0x0D]))) s = .next (u.monVendor a (ls ++ [line])))))

/-- The boot sequence chooses a bank, loads, measures, and makes the part ready: With the supply good the boot ROM starts:
the preferred bank is the VALID one of highest generation with trials left, A on a tie, and a trial is counted down.
Image 1, then image 2, is loaded from the preferred bank or else the other, and extends its register; with neither
usable the part halts. Management-ready: the dictionary answers, first the mailbox operations that waited, the ring
bypass ends, the timebase waits, and a watchdog that ran out is recorded. With images 3 to 5 usable and the levels
agreed the sequence goes on; a missing image makes the part RESTRICTED. Compute-ready: the upper deck is zero, every
rod that no fence keeps is ENABLED, TRIES is confirmed; a package that fails training makes the part fatal.
(16_boot_firmware_trust.md R436; 16_boot_firmware_trust.md R437; 16_boot_firmware_trust.md R438;
16_boot_firmware_trust.md R440; 16_boot_firmware_trust.md R449; 15_object_dictionary_and_ring.md R415) -/
def Obligations.BootSequence : Prop :=
  (∀ (s : State), s.boot.stage = 0 → s.boot.holding = false → s.supplyGood = true →
    let good (b : Nat) : Bool := (s.bank b).state == 1 && (s.bank b).tries != 0
    let pref := if good 1 = true ∧ (good 0 = false ∨ (s.bank 0).gen < (s.bank 1).gen) then 1 else 0
    ∃ t, exec .powerGood s = .next t ∧ t.boot.stage = 1 ∧ t.boot.at_ = s.ns ∧ t.o kERR_RESET_CAUSE = s.boot.cause ∧
      t.o kFW_PREFERRED = pref ∧ (t.bank pref).tries = (if 1 ≤ (s.bank pref).tries ∧ (s.bank pref).tries ≤ 3
        then (s.bank pref).tries - 1 else (s.bank pref).tries) ∧ t = { s with boot := t.boot, objs := t.objs }) ∧
  (∀ (s : State), s.boot.stage = 1 → s.boot.halted = false → ∃ t, exec .secFirmwareStart s = .next t ∧
    (s.copyState (s.o kFW_PREFERRED) 1 = imUSABLE → t.boot.stage = 2 ∧ tget 0 t.boot.source 1 = s.o kFW_PREFERRED + 1 ∧
      t.objs = s.objs) ∧
    (s.copyState (s.o kFW_PREFERRED) 1 ≠ imUSABLE → s.copyState (1 - s.o kFW_PREFERRED) 1 = imUSABLE → t.boot.stage = 2 ∧
      tget 0 t.boot.source 1 = 1 - s.o kFW_PREFERRED + 1 ∧ (t.o kFW_FALLBACK).testBit 0 = true) ∧
    (∀ m, s.copyState (s.o kFW_PREFERRED) 1 = imUSABLE → (s.bank (s.o kFW_PREFERRED)).slot 1 = some m →
      tget 0 t.boot.regs 1 = digestOf (leBytes 32 (tget 0 s.boot.regs 1).toNat ++ leBytes 32 m.measure.toNat)) ∧
    (s.copyState (s.o kFW_PREFERRED) 1 ≠ imUSABLE → s.copyState (1 - s.o kFW_PREFERRED) 1 ≠ imUSABLE →
      t.boot.halted = true ∧ t.boot.stage = 1) ∧ t = { s with boot := t.boot, objs := t.objs }) ∧
  (∀ (ok : Bool) (s : State), s.boot.stage = 2 → s.boot.halted = false → ∃ t, exec (.mgmtComplexStart ok) s = .next t ∧
    t.boot.identity = ok ∧ (ok = false → (t.o kFW_RESTRICT_CAUSE).testBit 2 = true ∧ t.errs.seq = s.errs.seq + 1) ∧
    (s.copyState (s.o kFW_PREFERRED) 2 = imUSABLE → t.boot.stage = 3 ∧ tget 0 t.boot.source 2 = s.o kFW_PREFERRED + 1) ∧
    (s.copyState (s.o kFW_PREFERRED) 2 ≠ imUSABLE → s.copyState (1 - s.o kFW_PREFERRED) 2 ≠ imUSABLE →
      t.boot.halted = true ∧ t.boot.stage = 2)) ∧
  (∀ (s : State), s.boot.stage = 3 → ∃ u : State, exec .mgmtReady s = .next u.mailboxRelease ∧ u.boot.stage = 4 ∧
    u.ring.bypass = false ∧ u.st.waitFrom = s.ns ∧ u.boot.wdog = false ∧ u.decks = s.decks ∧
    ((∀ fn, fn < 17 → (s.func fn).mbHeld = none) → u.mailboxRelease = u) ∧
    (s.storedKeys = [] → u.o kFW_STATE = 1 ∧ u.o kST_STATE = s.o kST_STATE ∧ u.st.sched = s.o kPW_LEVEL_MAX ∧
      u.errs.seq = s.errs.seq + (if s.boot.wdog = true then 1 else 0))) ∧
  (∀ (s : State), s.boot.stage = 4 → s.fatal = false → s.boot.holding = false →
    ((∀ k, 3 ≤ k → k ≤ 5 → s.copyState (s.o kFW_PREFERRED) k = imUSABLE) → s.o kFW_RESTRICT_CAUSE = 0 →
      (((s.loadLate 3).loadLate 4).loadLate 5).badPairs = [] → ∃ t, exec .imagesVerified s = .next t ∧ t.boot.stage = 5 ∧
        t.o kFW_STATE = s.o kFW_STATE ∧ t.boot.bootRecord.length = 64 ∧ t.errs = s.errs ∧
        t = { s with boot := t.boot, objs := t.objs }) ∧
    (∀ k, 3 ≤ k → k ≤ 5 → s.copyState (s.o kFW_PREFERRED) k ≠ imUSABLE → s.copyState (1 - s.o kFW_PREFERRED) k ≠ imUSABLE →
      ∃ t, exec .imagesVerified s = .next t ∧ t.boot.stage = 5 ∧ t.o kFW_STATE = 3 ∧
        (t.o kFW_RESTRICT_CAUSE).testBit 1 = true ∧ t.rods = s.rods ∧ t.decks = s.decks)) ∧
  (∀ (s : State) (fails pkgs : List Nat), s.boot.stage = 5 → s.boot.holding = false → s.fatal = false → s.o kFW_STATE = 1 →
    (pkgs ≠ [] → ∃ t, exec (.computeReady fails pkgs) s = .next t ∧ t.fatal = true ∧ t.o kFW_STATE = 1) ∧
    (pkgs = [] → ∃ t : State, exec (.computeReady fails pkgs) s = .next t.pollAll ∧ t.boot.stage = 6 ∧ t.o kFW_STATE = 2 ∧
      (∀ a, mget t.decks.ud a = 0) ∧ t.decks.udBad = [] ∧ (t.bank (s.o kFW_PREFERRED)).tries = 0xFF ∧
      (fails = [] → ∀ r, r < 576 → s.mapLevel r = 0 → (t.rod r).st = .enabled)))

/-- Images are written to a bank, a bank is selected, versions committed, reports signed: By a path that may write, in its
turn (ringBefore). WRITE_IMAGE of no image or bank is a parameter error; of the running copy, or during a write,
FW_BUSY; of a staged image that fails its check, the check's status; otherwise the bank is WRITING and the slot
erased, and at its end the slot holds the image and the status is 0, and the bank is VALID if its other slots are
usable and EMPTY if not, or FW_FLASH if the read-back fails. SELECT_BANK of a bank that is not VALID or is preferred
is FW_BANK, of one whose levels disagree FW_LEVEL; else its generation is the other's plus 1 with 3 trials. COMMIT_SVN
needs compute-ready, no fallback and a confirmed bank, and raises each minimum to the running SVN. A report needs the
identity key, and its first 512 bytes are what it signs. (16_boot_firmware_trust.md R435; 16_boot_firmware_trust.md
R441; 16_boot_firmware_trust.md R451; 16_boot_firmware_trust.md R452; 16_boot_firmware_trust.md R453) -/
def Obligations.FirmwareUpdateAndReports : Prop :=
  (∀ (path : Path) (image bank : Nat) (s : State), let v := s.ringBefore path
    v.dictUp = true → v.mayWrite path = true →
    (image = 0 ∨ 5 < image ∨ 1 < bank → exec (.writeImage path image bank) s = .next (v.report path (invalidParam path))) ∧
    (1 ≤ image → image ≤ 5 → bank ≤ 1 → v.boot.write.isSome = true ∨ tget 0 v.boot.source image = bank + 1 →
      exec (.writeImage path image bank) s = .next (v.report path stFW_BUSY)) ∧
    (1 ≤ image → image ≤ 5 → bank ≤ 1 → v.boot.write = none → tget 0 v.boot.source image ≠ bank + 1 →
      (v.stagedCheck image v.stagedImage ≠ 0 →
        exec (.writeImage path image bank) s = .next (v.report path (v.stagedCheck image v.stagedImage))) ∧
      (v.stagedCheck image v.stagedImage = 0 → ∃ t, exec (.writeImage path image bank) s = .next t ∧
        (t.bank bank).state = 2 ∧ (t.bank bank).slot image = none ∧ (t.bank bank).gen = (v.bank bank).gen ∧
        (t.bank bank).tries = (v.bank bank).tries ∧ (∀ b, b ≠ bank → t.bank b = v.bank b) ∧
        t.boot.write = some (image, bank, v.stagedImage) ∧ t.o kFW_OP_STATUS = 2 ^ 16 ∧
        tget 0 t.status (pathCode path) = 0))) ∧
  (∀ (image bank : Nat) (x : Image) (ok : Bool) (s : State), s.boot.write = some (image, bank, x) → 1 ≤ image → image ≤ 5 →
    ∃ t, exec (.writeImageEnd ok) s = .next t ∧ t.boot.write = none ∧ image ∉ (t.bank bank).writing ∧
      (t.bank bank).gen = (s.bank bank).gen ∧ (t.bank bank).tries = (s.bank bank).tries ∧ (∀ b, b ≠ bank → t.bank b = s.bank b) ∧
      (ok = true → s.imageState image (some x) = imUSABLE → (t.bank bank).slot image = some x ∧ t.o kFW_OP_STATUS = 0 ∧
        ((∀ k, 1 ≤ k → k ≤ 5 → k ≠ image → s.copyState bank k = imUSABLE) → (t.bank bank).state = 1) ∧
        (∀ k, 1 ≤ k → k ≤ 5 → k ≠ image → s.copyState bank k ≠ imUSABLE → (t.bank bank).state = 0)) ∧
      (ok = false → t.o kFW_OP_STATUS = stFW_FLASH ∧ (t.bank bank).state = 0)) ∧
  (∀ (path : Path) (bank : Nat) (s : State), let v := s.ringBefore path
    v.dictUp = true → v.mayWrite path = true →
    let lv (k : Nat) : List (BitVec 64) :=
      if k = 0 then v.boot.romLevels else match (v.bank bank).slot k with | some x => x.levels | none => []
    (1 < bank → exec (.selectBank path bank) s = .next (v.report path (invalidParam path))) ∧
    (bank ≤ 1 → (v.bank bank).state ≠ 1 ∨ v.o kFW_PREFERRED = bank →
      exec (.selectBank path bank) s = .next (v.report path stFW_BANK)) ∧
    (bank ≤ 1 → (v.bank bank).state = 1 → v.o kFW_PREFERRED ≠ bank →
      (∀ q ∈ bootPairs, levelsAgree (levelEntry (lv q.2.1) q.1) (levelEntry (lv q.2.2) q.1) = true) →
      ∃ t, exec (.selectBank path bank) s = .next t ∧ (t.bank bank).gen = ((v.bank (1 - bank)).gen + 1) % 2 ^ 32 ∧
        (t.bank bank).tries = 3 ∧ (t.bank bank).slots = (v.bank bank).slots ∧ t.bank (1 - bank) = v.bank (1 - bank) ∧
        t.o kFW_PREFERRED = v.o kFW_PREFERRED ∧ tget 0 t.status (pathCode path) = 0) ∧
    (∀ q ∈ bootPairs, bank ≤ 1 → (v.bank bank).state = 1 → v.o kFW_PREFERRED ≠ bank →
      levelsAgree (levelEntry (lv q.2.1) q.1) (levelEntry (lv q.2.2) q.1) = false →
      exec (.selectBank path bank) s = .next (v.report path stFW_LEVEL))) ∧
  (∀ (path : Path) (s : State), let v := s.ringBefore path
    v.dictUp = true → v.mayWrite path = true →
    (v.o kFW_STATE ≠ 2 ∨ v.o kFW_FALLBACK ≠ 0 ∨ v.tries ≠ 0xFF →
      exec (.commitSvn path) s = .next (v.report path stFW_BUSY)) ∧
    (v.o kFW_STATE = 2 → v.o kFW_FALLBACK = 0 → v.tries = 0xFF → ∃ t, exec (.commitSvn path) s = .next t ∧
      (∀ k x, 1 ≤ k → k ≤ 5 → tget none v.boot.loaded k = some x →
        tget 0 t.boot.minSvn k = max (tget 0 v.boot.minSvn k) x.svn ∧
        ∀ y : Image, y.svn < x.svn → t.imageState k (some y) ≠ imUSABLE) ∧
      t.boot.banks = v.boot.banks ∧ tget 0 t.status (pathCode path) = 0)) ∧
  (∀ (path : Path) (s : State), let v := s.ringBefore path
    v.dictUp = true → v.mayWrite path = true →
    (v.boot.identity = false → exec (.attReport path) s = .next (v.report path stFW_NO_IDENTITY)) ∧
    (v.boot.identity = true → ∃ t, exec (.attReport path) s = .next t ∧ t.draws = v.draws + 1 ∧
      (tget [] t.readData (pathCode path)).length = 1024 ∧ (tget [] t.readData (pathCode path)).take 512 = v.attSigned ∧
      tget 0 t.status (pathCode path) = 0 ∧ t.objs = v.objs ∧ t.boot = v.boot))

/-- Each reset takes what its kind takes, and keeps the rest: By a path that may write, in its turn. A cold or device
reset loses every volatile state: no rod is enabled, the deck is zero, no key is valid; flash (without its persistent
objects, if DEFAULTS was written), fuses, banks and ERR_PERSIST stay, and the ring of records after a device reset,
which holds the part for 10 ms. After a thermal trip both are refused at 90.0 degrees and above. A partition reset,
which one in progress or a destruction takes in, makes the partition RESETTING without a command, then draws a key and
clears its slots and numerics, and ends ACTIVE with its fatal bit clear. A function reset begins, as does one of the
host port; an optical port's links go ABSENT. In the fatal-device state the last three are refused. The watchdog is a
cold reset. (17_faults_and_resets.md R467; 17_faults_and_resets.md R468; 17_faults_and_resets.md R469;
17_faults_and_resets.md R470; 17_faults_and_resets.md R471; 13_strokes_energy_and_heat.md R373) -/
def Obligations.ResetsTakeTheirScope : Prop :=
  (∀ (path : Path) (s : State), let v := s.ringBefore path
    v.dictUp = true → v.mayWrite path = true →
    (v.tooHot = true → exec (.coldReset path) s = .next (v.report path stDEVICE_FATAL) ∧
      exec (.deviceReset path) s = .next (v.report path stDEVICE_FATAL)) ∧
    (v.tooHot = false → ∀ i, i = .coldReset path ∨ i = .deviceReset path → ∃ t, exec i s = .next t ∧ t.boot.stage = 0 ∧
      t.objs = [] ∧ t.rods = [] ∧ t.parts = [] ∧ t.ctxs = [] ∧ t.pairings = [] ∧ t.nums = [] ∧ t.mesh = {} ∧ t.decks.ud = [] ∧
      t.boot.regs = [] ∧ (v.flash.defaults = false → t.boot.banks = v.boot.banks) ∧
      (v.flash.defaults = true → ∀ b, t.bank b = { v.bank b with objs := [] }) ∧ t.boot.minSvn = v.boot.minSvn ∧
      t.boot.revoked = v.boot.revoked ∧
      t.errs.persist = v.errs.persist ∧ t.mon.level = 0 ∧ t.pend = [] ∧ t.ns = v.ns ∧
      (i = .coldReset path → t.boot.cause = 2 ∧ t.boot.holding = false ∧ t.errs.ring = [] ∧ t.errs.seq = 0) ∧
      (i = .deviceReset path → t.boot.cause = 3 ∧ t.boot.holding = true ∧ t.errs = v.errs))) ∧
  (∀ (s : State), s.boot.holding = true → s.boot.at_ + 10000000 ≤ s.ns → ∃ t, exec .deviceResetHoldEnd s = .next t ∧
    t.boot.stage = 1 ∧ t.boot.holding = false ∧ t.o kERR_RESET_CAUSE = s.boot.cause ∧ t = { s with boot := t.boot, objs := t.objs }) ∧
  (∀ (s : State), (3 ≤ s.boot.stage → ∃ t, exec .mgmtWatchdog s = .next t ∧ t.boot.stage = 0 ∧ t.boot.cause = 4 ∧
      t.boot.wdog = true ∧ t.rods = [] ∧ t.errs.persist = s.errs.persist ∧ t.errs.ring = []) ∧
    (s.boot.stage < 3 → exec .mgmtWatchdog s = .next s)) ∧
  (∀ (path : Path) (p : Nat) (s : State), let v := s.ringBefore path
    v.dictUp = true → v.mayWrite path = true →
    (16 ≤ p → exec (.partitionReset path p) s = .next (v.report path (invalidParam path))) ∧
    (p < 16 → v.fatal = true → exec (.partitionReset path p) s = .next (v.report path stDEVICE_FATAL)) ∧
    (p < 16 → v.fatal = false → v.o (kPT_STATE p) = 0 → exec (.partitionReset path p) s = .next (v.report path stPT_BUSY)) ∧
    (p < 16 → v.fatal = false → v.o (kPT_STATE p) ≠ 0 → (v.part p).quiesce = 2 ∨ (v.part p).quiesce = 4 ∨ (v.part p).reset ≠ 0 →
      exec (.partitionReset path p) s = .next ((v.dropPartPending p).report path 0)) ∧
    (p < 16 → v.fatal = false → v.o (kPT_STATE p) ≠ 0 → (v.part p).quiesce ≠ 2 → (v.part p).quiesce ≠ 4 → (v.part p).reset = 0 →
      ∃ t, exec (.partitionReset path p) s = .next t ∧ t.o (kPT_STATE p) = 4 ∧ (t.part p).reset = 1 ∧
        (∀ c, c < 8 → (t.ctx p c).run = none) ∧ tget 0 t.status (pathCode path) = 0 ∧ t.boot = v.boot)) ∧
  (∀ (p : Nat) (s : State), p < 16 → s.fatal = false → s.o (kPT_STATE p) = 4 → (s.part p).reset = 1 →
    ∃ t, exec (.partitionResetKeys p) s = .next t ∧ (t.part p).reset = 2 ∧ (t.part p).slots = [] ∧ (t.part p).stageQ = [] ∧
      (t.part p).fences = [] ∧ t.num p = {} ∧ tget 0 t.decks.keyGen p = s.decks.keysDrawn + 1 ∧
      (∀ r ∈ s.partRods p, (t.rod r).masks = [] ∧ (t.rod r).luts = []) ∧ t.o (kPT_STATE p) = 4) ∧
  (∀ (p : Nat) (s : State), p < 16 → s.fatal = false → s.o (kPT_STATE p) = 4 → (s.part p).reset = 2 →
    ∃ t : State, exec (.partitionResetEnd p) s = .next t.pollAll ∧ t.o (kPT_STATE p) = 2 ∧ (t.part p).reset = 0 ∧
      (t.part p).quiesce = 0 ∧ (t.o kERR_FATAL_PARTS).testBit p = false ∧ (∀ c, c < 8 → (t.ctx p c).vtime = {}) ∧
      (∀ f ∈ s.partFrames p, ∀ r ∈ frameRods f, (t.rod r).cache = [] ∧
        ∀ a, r * 2 ^ 29 ≤ a → a < (r + 1) * 2 ^ 29 → mget t.decks.ud a = 0)) ∧
  (∀ (path : Path) (n : Nat) (i : Instr) (s : State), let v := s.ringBefore path
    v.dictUp = true → v.mayWrite path = true →
    i = .functionReset path n ∨ i = .portReset path n →
    (16 < n → exec i s = .next (v.report path (invalidParam path))) ∧
    (n ≤ 16 → v.fatal = true → exec i s = .next (v.report path stDEVICE_FATAL)) ∧
    (n ≤ 16 → v.fatal = false → i = .functionReset path n → n ≠ 0 → (v.func n).vf = false →
      exec i s = .next (v.report path 0)) ∧
    (n ≤ 16 → v.fatal = false → i = .functionReset path n → n = 0 ∨ (v.func n).vf = true → ∃ t, exec i s = .next t ∧
      (t.func n).flr ≠ 0 ∧ tget 0 t.status (pathCode path) = 0 ∧ t.boot = v.boot) ∧
    (n = 16 → v.fatal = false → i = .portReset path n → ∃ t, exec i s = .next t ∧ (t.func 0).flr ≠ 0 ∧ (t.func 0).retrain = true ∧
      tget 0 t.status (pathCode path) = 0) ∧
    (n < 16 → v.fatal = false → i = .portReset path n → ∃ t, exec i s = .next t ∧
      (∀ k, k < 4 → t.lkState (4 * n + k) = lkABSENT ∧ (t.link (4 * n + k)).window = []) ∧
      tget 0 t.op.split n = (v.blob kOP_PORT_SPLIT n).toNat ∧ tget 0 t.status (pathCode path) = 0 ∧ t.decks = v.decks))

/-- A step carries out the command at the front of the queue on the state with the queue's rest: For every command and
state with that command at the front of its queue, the step's outcome is that of the command on the state with the
rest of the queue. On an empty queue one nanosecond passes and 1.2 rod cycles plus a tenth of one for each level (the
model's own clock: DESIGN CHOICE, log entry 2), and nothing else changes. (INDEX.md) -/
def Obligations.StepRunsTheFrontCommand : Prop :=
  (∀ (c : Instr) (cs : List Instr) (s : State), s.pending = c :: cs → step s = exec c { s with pending := cs }) ∧
  (∀ (s : State), s.pending = [] → ∃ t, step s = .next t ∧ t.ns = s.ns + 1 ∧ t.rodTenths = s.rodTenths + 12 + s.level ∧
    t = { s with ns := t.ns, rodTenths := t.rodTenths })

/-- What the part holds after a reset: After reset nothing waits and nothing runs: the boot has not begun, no rod is
enabled, the upper deck reads +0 and keeps its canonical form, every partition is NONE, no link is up, no function or
queue is enabled, no record is written, the measurement registers are zero, the balance is 0. Settings hold the
defaults of their chapters: ST_PERIOD_US 1,000, PW_LEVEL_MAX 24, ST_HOLDOVER_W 6,400, RING_SLOT 0xFF, MON_BAUD
115,200. (Settings whose default the spec does not state, and host memory, are the model's choice; no clause is about
them.) (00_scope.md R9; 05_upper_and_lower_deck.md R131; 12_partitions_and_preemption.md R336;
13_strokes_energy_and_heat.md R363; 13_strokes_energy_and_heat.md R376; 15_object_dictionary_and_ring.md R403;
16_boot_firmware_trust.md R440; 17_faults_and_resets.md R462) -/
def Obligations.ResetLeavesNothingRunning : Prop :=
  State.reset.pending = [] ∧ State.reset.boot.stage = 0 ∧ State.reset.dictUp = false ∧ State.reset.fatal = false ∧
  Memory.wf State.reset.decks.ud = true ∧ (∀ a, mget State.reset.decks.ud a = 0) ∧
  (∀ r, (State.reset.rod r).st ≠ .enabled ∧ (State.reset.rod r).cache = []) ∧
  (∀ p, p < 16 → State.reset.o (kPT_STATE p) = 0 ∧ State.reset.frames p = 0 ∧ State.reset.resident p = 0xFF) ∧
  (∀ l, l < 64 → State.reset.lkState l = lkABSENT) ∧
  (∀ f, (State.reset.func f).en = false ∧ ∀ q, ((State.reset.func f).sq q).en = false ∧ ((State.reset.func f).cq q).en = false) ∧
  State.reset.errs.seq = 0 ∧ (∀ k, tget none State.reset.errs.ring k = none) ∧ (∀ k, tget 0 State.reset.boot.regs k = 0) ∧
  State.reset.st.balance = 0 ∧ State.reset.stroke = 0 ∧ State.reset.o kST_STATE = 0 ∧ State.reset.o kST_PERIOD_US = 1000 ∧
  State.reset.o kPW_LEVEL_MAX = 24 ∧ State.reset.o kST_HOLDOVER_W = 6400 ∧ State.reset.o kRING_SLOT = 0xFF ∧
  State.reset.o kMON_BAUD = 115200 ∧ State.reset.mon.level = 0

/-- Only the step takes commands from the queue, and no command adds or loses one: For every state, whatever the command
at the front of the queue does, if the step answers a next state then what waits in it is exactly what waited behind
that command, in the same order; no command reaches into the queue, a reset of the whole part included. (INDEX.md) -/
def Obligations.EveryStepPopsTheQueue : Prop :=
  ∀ (s t : State), step s = .next t → t.pending = s.pending.tail

/-- Every step keeps the upper deck in its canonical form: For every state whose upper deck is listed in rising physical
addresses with no byte that is +0, every step that answers a next state leaves it so, whatever the command: a rod's
write, a stage, a DMA, a reckoner pass, a carry tile, a harvest, a page move, a saved context, the zeroing of a slice,
or a reset. Equal contents of the upper deck are therefore equal data. (05_upper_and_lower_deck.md R126;
05_upper_and_lower_deck.md R131; 05_upper_and_lower_deck.md R147) -/
def Obligations.EveryStepKeepsTheUpperDeck : Prop :=
  ∀ (s t : State), Memory.wf s.decks.ud = true → step s = .next t → Memory.wf t.decks.ud = true
end

