-- ==== Sys2Proof/Laws/Tab.lean ====
section
/-! SUPPORT. The laws of the sparse tables and byte memories: what a read after a write gives, and that every operation
keeps the canonical form. -/

namespace Sys2Proof.Machine

variable {α : Type}

theorem tget_terase_same (d : α) (t : Tab α) (j : Nat) : tget d (terase t j) j = d := by
  induction t with
  | nil => rfl
  | cons x t ih => obtain ⟨k, v⟩ := x; by_cases h : j = k <;> simp [terase, tget, h] <;> (subst_vars; simpa using ih)

theorem tget_terase_ne (d : α) (t : Tab α) {j i : Nat} (h : i ≠ j) : tget d (terase t j) i = tget d t i := by
  induction t with
  | nil => rfl
  | cons x t ih =>
    obtain ⟨k, v⟩ := x
    by_cases hk : j = k
    · subst hk; simp [terase, tget, h, ih]
    · by_cases hi : i = k <;> simp [terase, tget, hk, hi]; simpa using ih

theorem tget_tins_same (d : α) (t : Tab α) (j : Nat) (v : α) : tget d (tins t j v) j = v := by
  induction t with
  | nil => simp [tins, tget]
  | cons x t ih =>
    obtain ⟨k, w⟩ := x
    unfold tins
    split
    · simp [tget]
    · split
      · simp [tget]
      · rename_i _ h; simp [tget, h, ih]

theorem tget_tins_ne (d : α) (t : Tab α) {j i : Nat} (v : α) (h : i ≠ j) : tget d (tins t j v) i = tget d t i := by
  induction t with
  | nil => simp [tins, tget, h]
  | cons x t ih =>
    obtain ⟨k, w⟩ := x
    unfold tins
    split
    · simp [tget, h]
    · split
      · rename_i _ hk; subst hk; simp [tget, h]
      · by_cases hi : i = k <;> simp [tget, hi]; simpa using ih

/-- A read after a write: the value written at its key, the old value elsewhere. -/
@[simp] theorem tget_tset [DecidableEq α] (d : α) (t : Tab α) (j i : Nat) (v : α) :
    tget d (tset d t j v) i = if i = j then v else tget d t i := by
  unfold tset
  by_cases hv : v = d <;> by_cases hi : i = j <;>
    simp [hv, hi, tget_terase_same, tget_terase_ne, tget_tins_same, tget_tins_ne]

/-- A write leaves every other key, whatever an unlisted key reads as. -/
theorem tget_tset_ne [DecidableEq α] (d d' : α) (t : Tab α) {j i : Nat} (v : α) (h : i ≠ j) :
    tget d' (tset d t j v) i = tget d' t i := by
  unfold tset
  split
  · exact tget_terase_ne d' t h
  · exact tget_tins_ne d' t v h

@[simp] theorem tget_nil (d : α) (i : Nat) : tget d [] i = d := rfl

theorem tget_tclear (d : α) (t : Tab α) (a n i : Nat) :
    tget d (tclear t a n) i = if a ≤ i ∧ i < a + n then d else tget d t i := by
  induction t with
  | nil => simp [tclear]
  | cons x t ih =>
    obtain ⟨k, v⟩ := x
    unfold tclear at ih ⊢
    rw [List.filter_cons]
    by_cases hk : (decide (k < a) || decide (a + n ≤ k)) = true
    · rw [if_pos hk]
      by_cases hi : i = k
      · subst hi; simp at hk; simp [tget]; omega
      · simp [tget, hi, ih]
    · rw [if_neg hk, ih]
      simp at hk
      by_cases hi : i = k
      · subst hi; simp [hk]
      · simp [tget, hi]

/-! Canonical form. -/

theorem twf_cons [DecidableEq α] (d : α) (k : Nat) (v : α) (t : Tab α) :
    twf d ((k, v) :: t) = true ↔ v ≠ d ∧ (∀ p ∈ t, k < p.1) ∧ twf d t = true := by
  induction t generalizing k v with
  | nil => simp [twf]
  | cons x t ih =>
    obtain ⟨k', v'⟩ := x
    rw [twf, Bool.and_eq_true, Bool.and_eq_true, decide_eq_true_iff, decide_eq_true_iff]
    constructor
    · rintro ⟨⟨h1, h2⟩, h3⟩
      refine ⟨h1, ?_, h3⟩
      intro p hp
      rcases List.mem_cons.1 hp with rfl | hp
      · exact h2
      · exact lt_trans h2 (((ih k' v').1 h3).2.1 p hp)
    · rintro ⟨h1, h2, h3⟩
      exact ⟨⟨h1, h2 _ (List.mem_cons_self ..)⟩, h3⟩

theorem mem_terase {t : Tab α} {j : Nat} {p : Nat × α} (h : p ∈ terase t j) : p ∈ t := by
  induction t with
  | nil => simp [terase] at h
  | cons x t ih =>
    obtain ⟨k, v⟩ := x
    unfold terase at h
    split at h
    · exact List.mem_cons_of_mem _ (ih h)
    · rcases List.mem_cons.1 h with rfl | h
      · exact List.mem_cons_self ..
      · exact List.mem_cons_of_mem _ (ih h)

theorem mem_tins {t : Tab α} {j : Nat} {v : α} {p : Nat × α} (h : p ∈ tins t j v) : p = (j, v) ∨ p ∈ t := by
  induction t with
  | nil => simpa [tins] using h
  | cons x t ih =>
    obtain ⟨k, w⟩ := x
    unfold tins at h
    split at h
    · simpa using h
    · split at h
      · rcases List.mem_cons.1 h with rfl | h <;> simp_all
      · rcases List.mem_cons.1 h with rfl | h
        · simp
        · rcases ih h with rfl | h <;> simp_all

theorem twf_terase [DecidableEq α] (d : α) {t : Tab α} (h : twf d t = true) (j : Nat) : twf d (terase t j) = true := by
  induction t with
  | nil => rfl
  | cons x t ih =>
    obtain ⟨k, v⟩ := x
    obtain ⟨h1, h2, h3⟩ := (twf_cons d k v t).1 h
    unfold terase
    split
    · exact ih h3
    · exact (twf_cons d k v _).2 ⟨h1, fun p hp => h2 p (mem_terase hp), ih h3⟩

theorem twf_tins [DecidableEq α] (d : α) {t : Tab α} (h : twf d t = true) (j : Nat) {v : α} (hv : v ≠ d) :
    twf d (tins t j v) = true := by
  induction t with
  | nil => simp [tins, twf, hv]
  | cons x t ih =>
    obtain ⟨k, w⟩ := x
    obtain ⟨h1, h2, h3⟩ := (twf_cons d k w t).1 h
    unfold tins
    split
    · rename_i hk
      refine (twf_cons d j v _).2 ⟨hv, ?_, h⟩
      intro p hp
      rcases List.mem_cons.1 hp with rfl | hp
      · exact hk
      · exact lt_trans hk (h2 p hp)
    · split
      · rename_i _ hk; subst hk; exact (twf_cons d j v t).2 ⟨hv, h2, h3⟩
      · refine (twf_cons d k w _).2 ⟨h1, ?_, ih h3⟩
        intro p hp
        rcases mem_tins hp with rfl | hp
        · simp; omega
        · exact h2 p hp

/-- Writing one key keeps the canonical form. -/
theorem twf_tset [DecidableEq α] (d : α) {t : Tab α} (h : twf d t = true) (j : Nat) (v : α) : twf d (tset d t j v) = true := by
  unfold tset
  split
  · exact twf_terase d h j
  · exact twf_tins d h j ‹_›

/-- Keeping some of the entries keeps the canonical form. -/
theorem twf_filter [DecidableEq α] (d : α) {t : Tab α} (h : twf d t = true) (f : Nat × α → Bool) :
    twf d (t.filter f) = true := by
  induction t with
  | nil => rfl
  | cons x t ih =>
    obtain ⟨k, v⟩ := x
    obtain ⟨h1, h2, h3⟩ := (twf_cons d k v t).1 h
    rw [List.filter_cons]
    split
    · exact (twf_cons d k v _).2 ⟨h1, fun p hp => h2 p (List.mem_of_mem_filter hp), ih h3⟩
    · exact ih h3

theorem twf_tclear [DecidableEq α] (d : α) {t : Tab α} (h : twf d t = true) (a n : Nat) : twf d (tclear t a n) = true :=
  twf_filter d h _

/-! Byte memories. -/

theorem mget_mwrite (m : Mem) (a : Nat) (bs : List Byte) (i : Nat) :
    mget (mwrite m a bs) i = if a ≤ i ∧ i < a + bs.length then bs.getD (i - a) 0 else mget m i := by
  induction bs generalizing m a with
  | nil => simp [mwrite]
  | cons b bs ih =>
    rw [mwrite, ih]
    by_cases h : i = a
    · subst h; simp [mget]
    · by_cases h1 : a + 1 ≤ i ∧ i < a + 1 + bs.length
      · rw [if_pos h1, if_pos (by simp; omega)]
        obtain ⟨k, hk⟩ : ∃ k, i - a = k + 1 := ⟨i - a - 1, by omega⟩
        rw [hk, show i - (a + 1) = k by omega]; simp
      · rw [if_neg h1, if_neg (by simp; omega)]; simp [mget, h]

theorem wf_mwrite {m : Mem} (h : Memory.wf m = true) (a : Nat) (bs : List Byte) : Memory.wf (mwrite m a bs) = true := by
  induction bs generalizing m a with
  | nil => exact h
  | cons b bs ih => exact ih (twf_tset 0 h a b) _

theorem wf_tclear {m : Mem} (h : Memory.wf m = true) (a n : Nat) : Memory.wf (tclear m a n) = true := twf_tclear 0 h a n

theorem wf_mput {m : Mem} (h : Memory.wf m = true) (b n : Nat) (x : Mem) : Memory.wf (mput m b n x) = true := by
  unfold mput
  generalize hc : tclear m b n = c
  have hw : Memory.wf c = true := hc ▸ wf_tclear h b n
  clear hc
  induction x generalizing c with
  | nil => exact hw
  | cons p x ih => exact ih _ (twf_tset 0 hw _ _)

/-- Reading `n` bytes gives `n` bytes, each the byte at its address. -/
@[simp] theorem length_mread (m : Mem) (a n : Nat) : (mread m a n).length = n := by
  induction n generalizing a with
  | zero => rfl
  | succ n ih => simp [mread, ih]

theorem getD_mread (m : Mem) (a n i : Nat) (h : i < n) : (mread m a n).getD i 0 = mget m (a + i) := by
  induction n generalizing a i with
  | zero => omega
  | succ n ih =>
    cases i with
    | zero => simp [mread]
    | succ i => rw [mread, List.getD_cons_succ, ih _ _ (by omega)]; congr 1; omega

/-- A wide read of what was written gives it back. -/
theorem mread_mwrite (m : Mem) (a : Nat) (bs : List Byte) : mread (mwrite m a bs) a bs.length = bs := by
  apply List.ext_getElem
  · simp
  · intro i h1 h2
    have h := getD_mread (mwrite m a bs) a bs.length i h2
    rw [mget_mwrite, if_pos (by omega)] at h
    simpa [List.getD_eq_getElem, h1, h2] using h

theorem leNat_leBytes (n v : Nat) : leNat (leBytes n v) = v % 256 ^ n := by
  induction n generalizing v with
  | zero => simp [leBytes, leNat, Nat.mod_one]
  | succ n ih =>
    have h : v % 256 ^ (n + 1) = v % 256 + 256 * (v / 256 % 256 ^ n) := by
      rw [Nat.pow_succ, Nat.mul_comm, Nat.mod_mul]
    rw [h, leBytes, leNat, ih]
    rfl

@[simp] theorem length_leBytes (n v : Nat) : (leBytes n v).length = n := by
  induction n generalizing v with
  | zero => rfl
  | succ n ih => simp [leBytes, ih]

/-- Counting up is the library's range. -/
theorem upto_eq_range (n : Nat) : upto n = List.range n := by
  induction n with
  | zero => rfl
  | succ n ih => rw [upto, ih, List.range_succ]

theorem mem_upto {i n : Nat} : i ∈ upto n ↔ i < n := by rw [upto_eq_range, List.mem_range]

theorem map_getD_upto (l : List Byte) (n : Nat) (h : n ≤ l.length) : (upto n).map (fun i => l.getD i 0) = l.take n := by
  rw [upto_eq_range]
  apply List.ext_getElem
  · simp [h]
  · intro i h1 h2
    simp at h1
    simp [List.getD_eq_getElem?_getD, show i < l.length by omega]

end Sys2Proof.Machine
end

