-- ==== Sys2Proof/Laws/Flit.lean ====
section
/-! SUPPORT. What a sealed flit says: its header's fields, its CRC and its tag (R280, R288). -/

namespace Sys2Proof.Machine

open Sys2Proof

theorem sealFlit_hdr (key : Option (List Byte)) (slot : Nat) (h : FlitHdr) (body : List Byte) :
    flitHdr (sealFlit key slot h body) = .ofNat (h.toNat % 256 ^ 16) := by
  unfold flitHdr sealFlit
  cases key <;> simp only [List.append_assoc] <;> rw [List.take_left' (by simp), leNat_leBytes]

/-- The TYPE of a sealed flit. -/
theorem sealFlit_kind (key : Option (List Byte)) (slot : Nat) (h : FlitHdr) (body : List Byte) :
    (flitHdr (sealFlit key slot h body)).kind = h.kind % 16 := by
  rw [sealFlit_hdr]
  simp only [FlitHdr.ofNat, nbits, FlitHdr.toNat, flag]
  norm_num
  split <;> split <;> split <;> omega

/-- The SEQ of a sealed flit. -/
theorem sealFlit_seq (key : Option (List Byte)) (slot : Nat) (h : FlitHdr) (body : List Byte) :
    (flitHdr (sealFlit key slot h body)).seq = h.seq % 2 ^ 16 := by
  rw [sealFlit_hdr]
  simp only [FlitHdr.ofNat, nbits, FlitHdr.toNat, flag]
  norm_num
  split <;> split <;> split <;> omega

theorem crcBits_lt (poly : Nat) (hp : poly < 2 ^ 32) (n c : Nat) (hc : c < 2 ^ 32) : crcBits poly n c < 2 ^ 32 := by
  induction n generalizing c with
  | zero => exact hc
  | succ n ih =>
    unfold crcBits
    apply ih
    split
    · exact Nat.xor_lt_two_pow (by omega) hp
    · omega

theorem crcWith_lt (poly : Nat) (hp : poly < 2 ^ 32) (m : List Byte) : crcWith poly m < 2 ^ 32 := by
  unfold crcWith
  apply Nat.xor_lt_two_pow _ (by decide)
  suffices h : ∀ (l : List Byte) (a : Nat), a < 2 ^ 32 → l.foldl (fun c b => crcBits poly 8 (c ^^^ b.toNat)) a < 2 ^ 32 from
    h m _ (by decide)
  intro l
  induction l with
  | nil => intro a h; exact h
  | cons b l ih =>
    intro a h
    exact ih _ (crcBits_lt poly hp 8 _ (Nat.xor_lt_two_pow h (by have := b.isLt; omega)))

/-- Bytes followed by their CRC pass the check. -/
theorem flitCrcOk_append (m : List Byte) (h : m.length = 252) : flitCrcOk (m ++ leBytes 4 (crc32c m)) = true := by
  unfold flitCrcOk
  rw [List.take_left' h, List.drop_left' h, List.take_of_length_le (by simp), leNat_leBytes]
  have h2 : crc32c m % 256 ^ 4 = crc32c m := Nat.mod_eq_of_lt (crcWith_lt _ (by decide) m)
  rw [h2]
  exact beq_self_eq_true _

end Sys2Proof.Machine
end

