-- ==== Sys2Proof/Laws/State.lean ====
section
/-! SUPPORT. One lemma per update of the state and field: what it leaves, and what the part it writes reads as after it. -/

namespace Sys2Proof.Machine

open Sys2Proof

variable (s : State)

/-! `setRod` -/

@[simp] theorem setRod_pending (r : Nat) (v : Rod) : (s.setRod r v).pending = s.pending := rfl
@[simp] theorem setRod_draws (r : Nat) (v : Rod) : (s.setRod r v).draws = s.draws := rfl
@[simp] theorem setRod_ns (r : Nat) (v : Rod) : (s.setRod r v).ns = s.ns := rfl
@[simp] theorem setRod_rodTenths (r : Nat) (v : Rod) : (s.setRod r v).rodTenths = s.rodTenths := rfl
@[simp] theorem setRod_objs (r : Nat) (v : Rod) : (s.setRod r v).objs = s.objs := rfl
@[simp] theorem setRod_blobs (r : Nat) (v : Rod) : (s.setRod r v).blobs = s.blobs := rfl
@[simp] theorem setRod_flash (r : Nat) (v : Rod) : (s.setRod r v).flash = s.flash := rfl
@[simp] theorem setRod_status (r : Nat) (v : Rod) : (s.setRod r v).status = s.status := rfl
@[simp] theorem setRod_readData (r : Nat) (v : Rod) : (s.setRod r v).readData = s.readData := rfl
@[simp] theorem setRod_mesh (r : Nat) (v : Rod) : (s.setRod r v).mesh = s.mesh := rfl
@[simp] theorem setRod_decks (r : Nat) (v : Rod) : (s.setRod r v).decks = s.decks := rfl
@[simp] theorem setRod_parts (r : Nat) (v : Rod) : (s.setRod r v).parts = s.parts := rfl
@[simp] theorem setRod_ctxs (r : Nat) (v : Rod) : (s.setRod r v).ctxs = s.ctxs := rfl
@[simp] theorem setRod_frameOwner (r : Nat) (v : Rod) : (s.setRod r v).frameOwner = s.frameOwner := rfl
@[simp] theorem setRod_pairings (r : Nat) (v : Rod) : (s.setRod r v).pairings = s.pairings := rfl
@[simp] theorem setRod_harvests (r : Nat) (v : Rod) : (s.setRod r v).harvests = s.harvests := rfl
@[simp] theorem setRod_nums (r : Nat) (v : Rod) : (s.setRod r v).nums = s.nums := rfl
@[simp] theorem setRod_reck (r : Nat) (v : Rod) : (s.setRod r v).reck = s.reck := rfl
@[simp] theorem setRod_cy (r : Nat) (v : Rod) : (s.setRod r v).cy = s.cy := rfl
@[simp] theorem setRod_op (r : Nat) (v : Rod) : (s.setRod r v).op = s.op := rfl
@[simp] theorem setRod_sv (r : Nat) (v : Rod) : (s.setRod r v).sv = s.sv := rfl
@[simp] theorem setRod_st (r : Nat) (v : Rod) : (s.setRod r v).st = s.st := rfl
@[simp] theorem setRod_host (r : Nat) (v : Rod) : (s.setRod r v).host = s.host := rfl
@[simp] theorem setRod_ring (r : Nat) (v : Rod) : (s.setRod r v).ring = s.ring := rfl
@[simp] theorem setRod_mon (r : Nat) (v : Rod) : (s.setRod r v).mon = s.mon := rfl
@[simp] theorem setRod_errs (r : Nat) (v : Rod) : (s.setRod r v).errs = s.errs := rfl
@[simp] theorem setRod_boot (r : Nat) (v : Rod) : (s.setRod r v).boot = s.boot := rfl
@[simp] theorem setRod_pend (r : Nat) (v : Rod) : (s.setRod r v).pend = s.pend := rfl

@[simp] theorem setRod_part (r : Nat) (v : Rod) (i : Nat) : (s.setRod r v).part i = s.part i := rfl
@[simp] theorem setRod_ctx (r : Nat) (v : Rod) (i j : Nat) : (s.setRod r v).ctx i j = s.ctx i j := rfl
@[simp] theorem setRod_pairing (r : Nat) (v : Rod) (i : Nat) : (s.setRod r v).pairing i = s.pairing i := rfl
@[simp] theorem setRod_harvest (r : Nat) (v : Rod) (i : Nat) : (s.setRod r v).harvest i = s.harvest i := rfl
@[simp] theorem setRod_num (r : Nat) (v : Rod) (i : Nat) : (s.setRod r v).num i = s.num i := rfl
@[simp] theorem setRod_link (r : Nat) (v : Rod) (i : Nat) : (s.setRod r v).link i = s.link i := rfl
@[simp] theorem setRod_group (r : Nat) (v : Rod) (i j : Nat) : (s.setRod r v).group i j = s.group i j := rfl
@[simp] theorem setRod_func (r : Nat) (v : Rod) (i : Nat) : (s.setRod r v).func i = s.func i := rfl
@[simp] theorem setRod_slot (r : Nat) (v : Rod) (i j : Nat) : (s.setRod r v).slot i j = s.slot i j := rfl
@[simp] theorem setRod_o (r : Nat) (v : Rod) (i : Nat) : (s.setRod r v).o i = s.o i := rfl
@[simp] theorem setRod_blob (r : Nat) (v : Rod) (i j : Nat) : (s.setRod r v).blob i j = s.blob i j := rfl
@[simp] theorem setRod_owner (r : Nat) (v : Rod) (i : Nat) : (s.setRod r v).owner i = s.owner i := rfl
@[simp] theorem setRod_stroke (r : Nat) (v : Rod) : (s.setRod r v).stroke = s.stroke := rfl
@[simp] theorem setRod_cycle (r : Nat) (v : Rod) : (s.setRod r v).cycle = s.cycle := rfl
@[simp] theorem setRod_resident (r : Nat) (v : Rod) (i : Nat) : (s.setRod r v).resident i = s.resident i := rfl
@[simp] theorem setRod_frames (r : Nat) (v : Rod) (i : Nat) : (s.setRod r v).frames i = s.frames i := rfl
@[simp] theorem setRod_level (r : Nat) (v : Rod) : (s.setRod r v).level = s.level := rfl

/-! `setPart` -/

@[simp] theorem setPart_pending (p : Nat) (v : Part) : (s.setPart p v).pending = s.pending := rfl
@[simp] theorem setPart_draws (p : Nat) (v : Part) : (s.setPart p v).draws = s.draws := rfl
@[simp] theorem setPart_ns (p : Nat) (v : Part) : (s.setPart p v).ns = s.ns := rfl
@[simp] theorem setPart_rodTenths (p : Nat) (v : Part) : (s.setPart p v).rodTenths = s.rodTenths := rfl
@[simp] theorem setPart_objs (p : Nat) (v : Part) : (s.setPart p v).objs = s.objs := rfl
@[simp] theorem setPart_blobs (p : Nat) (v : Part) : (s.setPart p v).blobs = s.blobs := rfl
@[simp] theorem setPart_flash (p : Nat) (v : Part) : (s.setPart p v).flash = s.flash := rfl
@[simp] theorem setPart_status (p : Nat) (v : Part) : (s.setPart p v).status = s.status := rfl
@[simp] theorem setPart_readData (p : Nat) (v : Part) : (s.setPart p v).readData = s.readData := rfl
@[simp] theorem setPart_rods (p : Nat) (v : Part) : (s.setPart p v).rods = s.rods := rfl
@[simp] theorem setPart_mesh (p : Nat) (v : Part) : (s.setPart p v).mesh = s.mesh := rfl
@[simp] theorem setPart_decks (p : Nat) (v : Part) : (s.setPart p v).decks = s.decks := rfl
@[simp] theorem setPart_ctxs (p : Nat) (v : Part) : (s.setPart p v).ctxs = s.ctxs := rfl
@[simp] theorem setPart_frameOwner (p : Nat) (v : Part) : (s.setPart p v).frameOwner = s.frameOwner := rfl
@[simp] theorem setPart_pairings (p : Nat) (v : Part) : (s.setPart p v).pairings = s.pairings := rfl
@[simp] theorem setPart_harvests (p : Nat) (v : Part) : (s.setPart p v).harvests = s.harvests := rfl
@[simp] theorem setPart_nums (p : Nat) (v : Part) : (s.setPart p v).nums = s.nums := rfl
@[simp] theorem setPart_reck (p : Nat) (v : Part) : (s.setPart p v).reck = s.reck := rfl
@[simp] theorem setPart_cy (p : Nat) (v : Part) : (s.setPart p v).cy = s.cy := rfl
@[simp] theorem setPart_op (p : Nat) (v : Part) : (s.setPart p v).op = s.op := rfl
@[simp] theorem setPart_sv (p : Nat) (v : Part) : (s.setPart p v).sv = s.sv := rfl
@[simp] theorem setPart_st (p : Nat) (v : Part) : (s.setPart p v).st = s.st := rfl
@[simp] theorem setPart_host (p : Nat) (v : Part) : (s.setPart p v).host = s.host := rfl
@[simp] theorem setPart_ring (p : Nat) (v : Part) : (s.setPart p v).ring = s.ring := rfl
@[simp] theorem setPart_mon (p : Nat) (v : Part) : (s.setPart p v).mon = s.mon := rfl
@[simp] theorem setPart_errs (p : Nat) (v : Part) : (s.setPart p v).errs = s.errs := rfl
@[simp] theorem setPart_boot (p : Nat) (v : Part) : (s.setPart p v).boot = s.boot := rfl
@[simp] theorem setPart_pend (p : Nat) (v : Part) : (s.setPart p v).pend = s.pend := rfl

@[simp] theorem setPart_rod (p : Nat) (v : Part) (i : Nat) : (s.setPart p v).rod i = s.rod i := rfl
@[simp] theorem setPart_ctx (p : Nat) (v : Part) (i j : Nat) : (s.setPart p v).ctx i j = s.ctx i j := rfl
@[simp] theorem setPart_pairing (p : Nat) (v : Part) (i : Nat) : (s.setPart p v).pairing i = s.pairing i := rfl
@[simp] theorem setPart_harvest (p : Nat) (v : Part) (i : Nat) : (s.setPart p v).harvest i = s.harvest i := rfl
@[simp] theorem setPart_num (p : Nat) (v : Part) (i : Nat) : (s.setPart p v).num i = s.num i := rfl
@[simp] theorem setPart_link (p : Nat) (v : Part) (i : Nat) : (s.setPart p v).link i = s.link i := rfl
@[simp] theorem setPart_group (p : Nat) (v : Part) (i j : Nat) : (s.setPart p v).group i j = s.group i j := rfl
@[simp] theorem setPart_func (p : Nat) (v : Part) (i : Nat) : (s.setPart p v).func i = s.func i := rfl
@[simp] theorem setPart_o (p : Nat) (v : Part) (i : Nat) : (s.setPart p v).o i = s.o i := rfl
@[simp] theorem setPart_blob (p : Nat) (v : Part) (i j : Nat) : (s.setPart p v).blob i j = s.blob i j := rfl
@[simp] theorem setPart_owner (p : Nat) (v : Part) (i : Nat) : (s.setPart p v).owner i = s.owner i := rfl
@[simp] theorem setPart_stroke (p : Nat) (v : Part) : (s.setPart p v).stroke = s.stroke := rfl
@[simp] theorem setPart_cycle (p : Nat) (v : Part) : (s.setPart p v).cycle = s.cycle := rfl
@[simp] theorem setPart_resident (p : Nat) (v : Part) (i : Nat) : (s.setPart p v).resident i = s.resident i := rfl
@[simp] theorem setPart_frames (p : Nat) (v : Part) (i : Nat) : (s.setPart p v).frames i = s.frames i := rfl
@[simp] theorem setPart_level (p : Nat) (v : Part) : (s.setPart p v).level = s.level := rfl

/-! `setCtx` -/

@[simp] theorem setCtx_pending (p c : Nat) (v : Ctx) : (s.setCtx p c v).pending = s.pending := rfl
@[simp] theorem setCtx_draws (p c : Nat) (v : Ctx) : (s.setCtx p c v).draws = s.draws := rfl
@[simp] theorem setCtx_ns (p c : Nat) (v : Ctx) : (s.setCtx p c v).ns = s.ns := rfl
@[simp] theorem setCtx_rodTenths (p c : Nat) (v : Ctx) : (s.setCtx p c v).rodTenths = s.rodTenths := rfl
@[simp] theorem setCtx_objs (p c : Nat) (v : Ctx) : (s.setCtx p c v).objs = s.objs := rfl
@[simp] theorem setCtx_blobs (p c : Nat) (v : Ctx) : (s.setCtx p c v).blobs = s.blobs := rfl
@[simp] theorem setCtx_flash (p c : Nat) (v : Ctx) : (s.setCtx p c v).flash = s.flash := rfl
@[simp] theorem setCtx_status (p c : Nat) (v : Ctx) : (s.setCtx p c v).status = s.status := rfl
@[simp] theorem setCtx_readData (p c : Nat) (v : Ctx) : (s.setCtx p c v).readData = s.readData := rfl
@[simp] theorem setCtx_rods (p c : Nat) (v : Ctx) : (s.setCtx p c v).rods = s.rods := rfl
@[simp] theorem setCtx_mesh (p c : Nat) (v : Ctx) : (s.setCtx p c v).mesh = s.mesh := rfl
@[simp] theorem setCtx_decks (p c : Nat) (v : Ctx) : (s.setCtx p c v).decks = s.decks := rfl
@[simp] theorem setCtx_parts (p c : Nat) (v : Ctx) : (s.setCtx p c v).parts = s.parts := rfl
@[simp] theorem setCtx_frameOwner (p c : Nat) (v : Ctx) : (s.setCtx p c v).frameOwner = s.frameOwner := rfl
@[simp] theorem setCtx_pairings (p c : Nat) (v : Ctx) : (s.setCtx p c v).pairings = s.pairings := rfl
@[simp] theorem setCtx_harvests (p c : Nat) (v : Ctx) : (s.setCtx p c v).harvests = s.harvests := rfl
@[simp] theorem setCtx_nums (p c : Nat) (v : Ctx) : (s.setCtx p c v).nums = s.nums := rfl
@[simp] theorem setCtx_reck (p c : Nat) (v : Ctx) : (s.setCtx p c v).reck = s.reck := rfl
@[simp] theorem setCtx_cy (p c : Nat) (v : Ctx) : (s.setCtx p c v).cy = s.cy := rfl
@[simp] theorem setCtx_op (p c : Nat) (v : Ctx) : (s.setCtx p c v).op = s.op := rfl
@[simp] theorem setCtx_sv (p c : Nat) (v : Ctx) : (s.setCtx p c v).sv = s.sv := rfl
@[simp] theorem setCtx_st (p c : Nat) (v : Ctx) : (s.setCtx p c v).st = s.st := rfl
@[simp] theorem setCtx_host (p c : Nat) (v : Ctx) : (s.setCtx p c v).host = s.host := rfl
@[simp] theorem setCtx_ring (p c : Nat) (v : Ctx) : (s.setCtx p c v).ring = s.ring := rfl
@[simp] theorem setCtx_mon (p c : Nat) (v : Ctx) : (s.setCtx p c v).mon = s.mon := rfl
@[simp] theorem setCtx_errs (p c : Nat) (v : Ctx) : (s.setCtx p c v).errs = s.errs := rfl
@[simp] theorem setCtx_boot (p c : Nat) (v : Ctx) : (s.setCtx p c v).boot = s.boot := rfl
@[simp] theorem setCtx_pend (p c : Nat) (v : Ctx) : (s.setCtx p c v).pend = s.pend := rfl

@[simp] theorem setCtx_rod (p c : Nat) (v : Ctx) (i : Nat) : (s.setCtx p c v).rod i = s.rod i := rfl
@[simp] theorem setCtx_part (p c : Nat) (v : Ctx) (i : Nat) : (s.setCtx p c v).part i = s.part i := rfl
@[simp] theorem setCtx_pairing (p c : Nat) (v : Ctx) (i : Nat) : (s.setCtx p c v).pairing i = s.pairing i := rfl
@[simp] theorem setCtx_harvest (p c : Nat) (v : Ctx) (i : Nat) : (s.setCtx p c v).harvest i = s.harvest i := rfl
@[simp] theorem setCtx_num (p c : Nat) (v : Ctx) (i : Nat) : (s.setCtx p c v).num i = s.num i := rfl
@[simp] theorem setCtx_link (p c : Nat) (v : Ctx) (i : Nat) : (s.setCtx p c v).link i = s.link i := rfl
@[simp] theorem setCtx_group (p c : Nat) (v : Ctx) (i j : Nat) : (s.setCtx p c v).group i j = s.group i j := rfl
@[simp] theorem setCtx_func (p c : Nat) (v : Ctx) (i : Nat) : (s.setCtx p c v).func i = s.func i := rfl
@[simp] theorem setCtx_slot (p c : Nat) (v : Ctx) (i j : Nat) : (s.setCtx p c v).slot i j = s.slot i j := rfl
@[simp] theorem setCtx_o (p c : Nat) (v : Ctx) (i : Nat) : (s.setCtx p c v).o i = s.o i := rfl
@[simp] theorem setCtx_blob (p c : Nat) (v : Ctx) (i j : Nat) : (s.setCtx p c v).blob i j = s.blob i j := rfl
@[simp] theorem setCtx_owner (p c : Nat) (v : Ctx) (i : Nat) : (s.setCtx p c v).owner i = s.owner i := rfl
@[simp] theorem setCtx_stroke (p c : Nat) (v : Ctx) : (s.setCtx p c v).stroke = s.stroke := rfl
@[simp] theorem setCtx_cycle (p c : Nat) (v : Ctx) : (s.setCtx p c v).cycle = s.cycle := rfl
@[simp] theorem setCtx_resident (p c : Nat) (v : Ctx) (i : Nat) : (s.setCtx p c v).resident i = s.resident i := rfl
@[simp] theorem setCtx_frames (p c : Nat) (v : Ctx) (i : Nat) : (s.setCtx p c v).frames i = s.frames i := rfl
@[simp] theorem setCtx_level (p c : Nat) (v : Ctx) : (s.setCtx p c v).level = s.level := rfl

/-! `setPairing` -/

@[simp] theorem setPairing_pending (n : Nat) (v : Pairing) : (s.setPairing n v).pending = s.pending := rfl
@[simp] theorem setPairing_draws (n : Nat) (v : Pairing) : (s.setPairing n v).draws = s.draws := rfl
@[simp] theorem setPairing_ns (n : Nat) (v : Pairing) : (s.setPairing n v).ns = s.ns := rfl
@[simp] theorem setPairing_rodTenths (n : Nat) (v : Pairing) : (s.setPairing n v).rodTenths = s.rodTenths := rfl
@[simp] theorem setPairing_objs (n : Nat) (v : Pairing) : (s.setPairing n v).objs = s.objs := rfl
@[simp] theorem setPairing_blobs (n : Nat) (v : Pairing) : (s.setPairing n v).blobs = s.blobs := rfl
@[simp] theorem setPairing_flash (n : Nat) (v : Pairing) : (s.setPairing n v).flash = s.flash := rfl
@[simp] theorem setPairing_status (n : Nat) (v : Pairing) : (s.setPairing n v).status = s.status := rfl
@[simp] theorem setPairing_readData (n : Nat) (v : Pairing) : (s.setPairing n v).readData = s.readData := rfl
@[simp] theorem setPairing_rods (n : Nat) (v : Pairing) : (s.setPairing n v).rods = s.rods := rfl
@[simp] theorem setPairing_mesh (n : Nat) (v : Pairing) : (s.setPairing n v).mesh = s.mesh := rfl
@[simp] theorem setPairing_decks (n : Nat) (v : Pairing) : (s.setPairing n v).decks = s.decks := rfl
@[simp] theorem setPairing_parts (n : Nat) (v : Pairing) : (s.setPairing n v).parts = s.parts := rfl
@[simp] theorem setPairing_ctxs (n : Nat) (v : Pairing) : (s.setPairing n v).ctxs = s.ctxs := rfl
@[simp] theorem setPairing_frameOwner (n : Nat) (v : Pairing) : (s.setPairing n v).frameOwner = s.frameOwner := rfl
@[simp] theorem setPairing_harvests (n : Nat) (v : Pairing) : (s.setPairing n v).harvests = s.harvests := rfl
@[simp] theorem setPairing_nums (n : Nat) (v : Pairing) : (s.setPairing n v).nums = s.nums := rfl
@[simp] theorem setPairing_reck (n : Nat) (v : Pairing) : (s.setPairing n v).reck = s.reck := rfl
@[simp] theorem setPairing_cy (n : Nat) (v : Pairing) : (s.setPairing n v).cy = s.cy := rfl
@[simp] theorem setPairing_op (n : Nat) (v : Pairing) : (s.setPairing n v).op = s.op := rfl
@[simp] theorem setPairing_sv (n : Nat) (v : Pairing) : (s.setPairing n v).sv = s.sv := rfl
@[simp] theorem setPairing_st (n : Nat) (v : Pairing) : (s.setPairing n v).st = s.st := rfl
@[simp] theorem setPairing_host (n : Nat) (v : Pairing) : (s.setPairing n v).host = s.host := rfl
@[simp] theorem setPairing_ring (n : Nat) (v : Pairing) : (s.setPairing n v).ring = s.ring := rfl
@[simp] theorem setPairing_mon (n : Nat) (v : Pairing) : (s.setPairing n v).mon = s.mon := rfl
@[simp] theorem setPairing_errs (n : Nat) (v : Pairing) : (s.setPairing n v).errs = s.errs := rfl
@[simp] theorem setPairing_boot (n : Nat) (v : Pairing) : (s.setPairing n v).boot = s.boot := rfl
@[simp] theorem setPairing_pend (n : Nat) (v : Pairing) : (s.setPairing n v).pend = s.pend := rfl

@[simp] theorem setPairing_rod (n : Nat) (v : Pairing) (i : Nat) : (s.setPairing n v).rod i = s.rod i := rfl
@[simp] theorem setPairing_part (n : Nat) (v : Pairing) (i : Nat) : (s.setPairing n v).part i = s.part i := rfl
@[simp] theorem setPairing_ctx (n : Nat) (v : Pairing) (i j : Nat) : (s.setPairing n v).ctx i j = s.ctx i j := rfl
@[simp] theorem setPairing_harvest (n : Nat) (v : Pairing) (i : Nat) : (s.setPairing n v).harvest i = s.harvest i := rfl
@[simp] theorem setPairing_num (n : Nat) (v : Pairing) (i : Nat) : (s.setPairing n v).num i = s.num i := rfl
@[simp] theorem setPairing_link (n : Nat) (v : Pairing) (i : Nat) : (s.setPairing n v).link i = s.link i := rfl
@[simp] theorem setPairing_group (n : Nat) (v : Pairing) (i j : Nat) : (s.setPairing n v).group i j = s.group i j := rfl
@[simp] theorem setPairing_func (n : Nat) (v : Pairing) (i : Nat) : (s.setPairing n v).func i = s.func i := rfl
@[simp] theorem setPairing_slot (n : Nat) (v : Pairing) (i j : Nat) : (s.setPairing n v).slot i j = s.slot i j := rfl
@[simp] theorem setPairing_o (n : Nat) (v : Pairing) (i : Nat) : (s.setPairing n v).o i = s.o i := rfl
@[simp] theorem setPairing_blob (n : Nat) (v : Pairing) (i j : Nat) : (s.setPairing n v).blob i j = s.blob i j := rfl
@[simp] theorem setPairing_owner (n : Nat) (v : Pairing) (i : Nat) : (s.setPairing n v).owner i = s.owner i := rfl
@[simp] theorem setPairing_stroke (n : Nat) (v : Pairing) : (s.setPairing n v).stroke = s.stroke := rfl
@[simp] theorem setPairing_cycle (n : Nat) (v : Pairing) : (s.setPairing n v).cycle = s.cycle := rfl
@[simp] theorem setPairing_resident (n : Nat) (v : Pairing) (i : Nat) : (s.setPairing n v).resident i = s.resident i := rfl
@[simp] theorem setPairing_frames (n : Nat) (v : Pairing) (i : Nat) : (s.setPairing n v).frames i = s.frames i := rfl
@[simp] theorem setPairing_level (n : Nat) (v : Pairing) : (s.setPairing n v).level = s.level := rfl

/-! `setHarvest` -/

@[simp] theorem setHarvest_pending (p : Nat) (v : Harvest) : (s.setHarvest p v).pending = s.pending := rfl
@[simp] theorem setHarvest_draws (p : Nat) (v : Harvest) : (s.setHarvest p v).draws = s.draws := rfl
@[simp] theorem setHarvest_ns (p : Nat) (v : Harvest) : (s.setHarvest p v).ns = s.ns := rfl
@[simp] theorem setHarvest_rodTenths (p : Nat) (v : Harvest) : (s.setHarvest p v).rodTenths = s.rodTenths := rfl
@[simp] theorem setHarvest_objs (p : Nat) (v : Harvest) : (s.setHarvest p v).objs = s.objs := rfl
@[simp] theorem setHarvest_blobs (p : Nat) (v : Harvest) : (s.setHarvest p v).blobs = s.blobs := rfl
@[simp] theorem setHarvest_flash (p : Nat) (v : Harvest) : (s.setHarvest p v).flash = s.flash := rfl
@[simp] theorem setHarvest_status (p : Nat) (v : Harvest) : (s.setHarvest p v).status = s.status := rfl
@[simp] theorem setHarvest_readData (p : Nat) (v : Harvest) : (s.setHarvest p v).readData = s.readData := rfl
@[simp] theorem setHarvest_rods (p : Nat) (v : Harvest) : (s.setHarvest p v).rods = s.rods := rfl
@[simp] theorem setHarvest_mesh (p : Nat) (v : Harvest) : (s.setHarvest p v).mesh = s.mesh := rfl
@[simp] theorem setHarvest_decks (p : Nat) (v : Harvest) : (s.setHarvest p v).decks = s.decks := rfl
@[simp] theorem setHarvest_parts (p : Nat) (v : Harvest) : (s.setHarvest p v).parts = s.parts := rfl
@[simp] theorem setHarvest_ctxs (p : Nat) (v : Harvest) : (s.setHarvest p v).ctxs = s.ctxs := rfl
@[simp] theorem setHarvest_frameOwner (p : Nat) (v : Harvest) : (s.setHarvest p v).frameOwner = s.frameOwner := rfl
@[simp] theorem setHarvest_pairings (p : Nat) (v : Harvest) : (s.setHarvest p v).pairings = s.pairings := rfl
@[simp] theorem setHarvest_nums (p : Nat) (v : Harvest) : (s.setHarvest p v).nums = s.nums := rfl
@[simp] theorem setHarvest_reck (p : Nat) (v : Harvest) : (s.setHarvest p v).reck = s.reck := rfl
@[simp] theorem setHarvest_cy (p : Nat) (v : Harvest) : (s.setHarvest p v).cy = s.cy := rfl
@[simp] theorem setHarvest_op (p : Nat) (v : Harvest) : (s.setHarvest p v).op = s.op := rfl
@[simp] theorem setHarvest_sv (p : Nat) (v : Harvest) : (s.setHarvest p v).sv = s.sv := rfl
@[simp] theorem setHarvest_st (p : Nat) (v : Harvest) : (s.setHarvest p v).st = s.st := rfl
@[simp] theorem setHarvest_host (p : Nat) (v : Harvest) : (s.setHarvest p v).host = s.host := rfl
@[simp] theorem setHarvest_ring (p : Nat) (v : Harvest) : (s.setHarvest p v).ring = s.ring := rfl
@[simp] theorem setHarvest_mon (p : Nat) (v : Harvest) : (s.setHarvest p v).mon = s.mon := rfl
@[simp] theorem setHarvest_errs (p : Nat) (v : Harvest) : (s.setHarvest p v).errs = s.errs := rfl
@[simp] theorem setHarvest_boot (p : Nat) (v : Harvest) : (s.setHarvest p v).boot = s.boot := rfl
@[simp] theorem setHarvest_pend (p : Nat) (v : Harvest) : (s.setHarvest p v).pend = s.pend := rfl

@[simp] theorem setHarvest_rod (p : Nat) (v : Harvest) (i : Nat) : (s.setHarvest p v).rod i = s.rod i := rfl
@[simp] theorem setHarvest_part (p : Nat) (v : Harvest) (i : Nat) : (s.setHarvest p v).part i = s.part i := rfl
@[simp] theorem setHarvest_ctx (p : Nat) (v : Harvest) (i j : Nat) : (s.setHarvest p v).ctx i j = s.ctx i j := rfl
@[simp] theorem setHarvest_pairing (p : Nat) (v : Harvest) (i : Nat) : (s.setHarvest p v).pairing i = s.pairing i := rfl
@[simp] theorem setHarvest_num (p : Nat) (v : Harvest) (i : Nat) : (s.setHarvest p v).num i = s.num i := rfl
@[simp] theorem setHarvest_link (p : Nat) (v : Harvest) (i : Nat) : (s.setHarvest p v).link i = s.link i := rfl
@[simp] theorem setHarvest_group (p : Nat) (v : Harvest) (i j : Nat) : (s.setHarvest p v).group i j = s.group i j := rfl
@[simp] theorem setHarvest_func (p : Nat) (v : Harvest) (i : Nat) : (s.setHarvest p v).func i = s.func i := rfl
@[simp] theorem setHarvest_slot (p : Nat) (v : Harvest) (i j : Nat) : (s.setHarvest p v).slot i j = s.slot i j := rfl
@[simp] theorem setHarvest_o (p : Nat) (v : Harvest) (i : Nat) : (s.setHarvest p v).o i = s.o i := rfl
@[simp] theorem setHarvest_blob (p : Nat) (v : Harvest) (i j : Nat) : (s.setHarvest p v).blob i j = s.blob i j := rfl
@[simp] theorem setHarvest_owner (p : Nat) (v : Harvest) (i : Nat) : (s.setHarvest p v).owner i = s.owner i := rfl
@[simp] theorem setHarvest_stroke (p : Nat) (v : Harvest) : (s.setHarvest p v).stroke = s.stroke := rfl
@[simp] theorem setHarvest_cycle (p : Nat) (v : Harvest) : (s.setHarvest p v).cycle = s.cycle := rfl
@[simp] theorem setHarvest_resident (p : Nat) (v : Harvest) (i : Nat) : (s.setHarvest p v).resident i = s.resident i := rfl
@[simp] theorem setHarvest_frames (p : Nat) (v : Harvest) (i : Nat) : (s.setHarvest p v).frames i = s.frames i := rfl
@[simp] theorem setHarvest_level (p : Nat) (v : Harvest) : (s.setHarvest p v).level = s.level := rfl

/-! `setNum` -/

@[simp] theorem setNum_pending (p : Nat) (v : Num) : (s.setNum p v).pending = s.pending := rfl
@[simp] theorem setNum_draws (p : Nat) (v : Num) : (s.setNum p v).draws = s.draws := rfl
@[simp] theorem setNum_ns (p : Nat) (v : Num) : (s.setNum p v).ns = s.ns := rfl
@[simp] theorem setNum_rodTenths (p : Nat) (v : Num) : (s.setNum p v).rodTenths = s.rodTenths := rfl
@[simp] theorem setNum_objs (p : Nat) (v : Num) : (s.setNum p v).objs = s.objs := rfl
@[simp] theorem setNum_blobs (p : Nat) (v : Num) : (s.setNum p v).blobs = s.blobs := rfl
@[simp] theorem setNum_flash (p : Nat) (v : Num) : (s.setNum p v).flash = s.flash := rfl
@[simp] theorem setNum_status (p : Nat) (v : Num) : (s.setNum p v).status = s.status := rfl
@[simp] theorem setNum_readData (p : Nat) (v : Num) : (s.setNum p v).readData = s.readData := rfl
@[simp] theorem setNum_rods (p : Nat) (v : Num) : (s.setNum p v).rods = s.rods := rfl
@[simp] theorem setNum_mesh (p : Nat) (v : Num) : (s.setNum p v).mesh = s.mesh := rfl
@[simp] theorem setNum_decks (p : Nat) (v : Num) : (s.setNum p v).decks = s.decks := rfl
@[simp] theorem setNum_parts (p : Nat) (v : Num) : (s.setNum p v).parts = s.parts := rfl
@[simp] theorem setNum_ctxs (p : Nat) (v : Num) : (s.setNum p v).ctxs = s.ctxs := rfl
@[simp] theorem setNum_frameOwner (p : Nat) (v : Num) : (s.setNum p v).frameOwner = s.frameOwner := rfl
@[simp] theorem setNum_pairings (p : Nat) (v : Num) : (s.setNum p v).pairings = s.pairings := rfl
@[simp] theorem setNum_harvests (p : Nat) (v : Num) : (s.setNum p v).harvests = s.harvests := rfl
@[simp] theorem setNum_reck (p : Nat) (v : Num) : (s.setNum p v).reck = s.reck := rfl
@[simp] theorem setNum_cy (p : Nat) (v : Num) : (s.setNum p v).cy = s.cy := rfl
@[simp] theorem setNum_op (p : Nat) (v : Num) : (s.setNum p v).op = s.op := rfl
@[simp] theorem setNum_sv (p : Nat) (v : Num) : (s.setNum p v).sv = s.sv := rfl
@[simp] theorem setNum_st (p : Nat) (v : Num) : (s.setNum p v).st = s.st := rfl
@[simp] theorem setNum_host (p : Nat) (v : Num) : (s.setNum p v).host = s.host := rfl
@[simp] theorem setNum_ring (p : Nat) (v : Num) : (s.setNum p v).ring = s.ring := rfl
@[simp] theorem setNum_mon (p : Nat) (v : Num) : (s.setNum p v).mon = s.mon := rfl
@[simp] theorem setNum_errs (p : Nat) (v : Num) : (s.setNum p v).errs = s.errs := rfl
@[simp] theorem setNum_boot (p : Nat) (v : Num) : (s.setNum p v).boot = s.boot := rfl
@[simp] theorem setNum_pend (p : Nat) (v : Num) : (s.setNum p v).pend = s.pend := rfl

@[simp] theorem setNum_rod (p : Nat) (v : Num) (i : Nat) : (s.setNum p v).rod i = s.rod i := rfl
@[simp] theorem setNum_part (p : Nat) (v : Num) (i : Nat) : (s.setNum p v).part i = s.part i := rfl
@[simp] theorem setNum_ctx (p : Nat) (v : Num) (i j : Nat) : (s.setNum p v).ctx i j = s.ctx i j := rfl
@[simp] theorem setNum_pairing (p : Nat) (v : Num) (i : Nat) : (s.setNum p v).pairing i = s.pairing i := rfl
@[simp] theorem setNum_harvest (p : Nat) (v : Num) (i : Nat) : (s.setNum p v).harvest i = s.harvest i := rfl
@[simp] theorem setNum_link (p : Nat) (v : Num) (i : Nat) : (s.setNum p v).link i = s.link i := rfl
@[simp] theorem setNum_group (p : Nat) (v : Num) (i j : Nat) : (s.setNum p v).group i j = s.group i j := rfl
@[simp] theorem setNum_func (p : Nat) (v : Num) (i : Nat) : (s.setNum p v).func i = s.func i := rfl
@[simp] theorem setNum_slot (p : Nat) (v : Num) (i j : Nat) : (s.setNum p v).slot i j = s.slot i j := rfl
@[simp] theorem setNum_o (p : Nat) (v : Num) (i : Nat) : (s.setNum p v).o i = s.o i := rfl
@[simp] theorem setNum_blob (p : Nat) (v : Num) (i j : Nat) : (s.setNum p v).blob i j = s.blob i j := rfl
@[simp] theorem setNum_owner (p : Nat) (v : Num) (i : Nat) : (s.setNum p v).owner i = s.owner i := rfl
@[simp] theorem setNum_stroke (p : Nat) (v : Num) : (s.setNum p v).stroke = s.stroke := rfl
@[simp] theorem setNum_cycle (p : Nat) (v : Num) : (s.setNum p v).cycle = s.cycle := rfl
@[simp] theorem setNum_resident (p : Nat) (v : Num) (i : Nat) : (s.setNum p v).resident i = s.resident i := rfl
@[simp] theorem setNum_frames (p : Nat) (v : Num) (i : Nat) : (s.setNum p v).frames i = s.frames i := rfl
@[simp] theorem setNum_level (p : Nat) (v : Num) : (s.setNum p v).level = s.level := rfl

/-! `setLink` -/

@[simp] theorem setLink_pending (l : Nat) (v : Link) : (s.setLink l v).pending = s.pending := rfl
@[simp] theorem setLink_draws (l : Nat) (v : Link) : (s.setLink l v).draws = s.draws := rfl
@[simp] theorem setLink_ns (l : Nat) (v : Link) : (s.setLink l v).ns = s.ns := rfl
@[simp] theorem setLink_rodTenths (l : Nat) (v : Link) : (s.setLink l v).rodTenths = s.rodTenths := rfl
@[simp] theorem setLink_objs (l : Nat) (v : Link) : (s.setLink l v).objs = s.objs := rfl
@[simp] theorem setLink_blobs (l : Nat) (v : Link) : (s.setLink l v).blobs = s.blobs := rfl
@[simp] theorem setLink_flash (l : Nat) (v : Link) : (s.setLink l v).flash = s.flash := rfl
@[simp] theorem setLink_status (l : Nat) (v : Link) : (s.setLink l v).status = s.status := rfl
@[simp] theorem setLink_readData (l : Nat) (v : Link) : (s.setLink l v).readData = s.readData := rfl
@[simp] theorem setLink_rods (l : Nat) (v : Link) : (s.setLink l v).rods = s.rods := rfl
@[simp] theorem setLink_mesh (l : Nat) (v : Link) : (s.setLink l v).mesh = s.mesh := rfl
@[simp] theorem setLink_decks (l : Nat) (v : Link) : (s.setLink l v).decks = s.decks := rfl
@[simp] theorem setLink_parts (l : Nat) (v : Link) : (s.setLink l v).parts = s.parts := rfl
@[simp] theorem setLink_ctxs (l : Nat) (v : Link) : (s.setLink l v).ctxs = s.ctxs := rfl
@[simp] theorem setLink_frameOwner (l : Nat) (v : Link) : (s.setLink l v).frameOwner = s.frameOwner := rfl
@[simp] theorem setLink_pairings (l : Nat) (v : Link) : (s.setLink l v).pairings = s.pairings := rfl
@[simp] theorem setLink_harvests (l : Nat) (v : Link) : (s.setLink l v).harvests = s.harvests := rfl
@[simp] theorem setLink_nums (l : Nat) (v : Link) : (s.setLink l v).nums = s.nums := rfl
@[simp] theorem setLink_reck (l : Nat) (v : Link) : (s.setLink l v).reck = s.reck := rfl
@[simp] theorem setLink_cy (l : Nat) (v : Link) : (s.setLink l v).cy = s.cy := rfl
@[simp] theorem setLink_sv (l : Nat) (v : Link) : (s.setLink l v).sv = s.sv := rfl
@[simp] theorem setLink_st (l : Nat) (v : Link) : (s.setLink l v).st = s.st := rfl
@[simp] theorem setLink_host (l : Nat) (v : Link) : (s.setLink l v).host = s.host := rfl
@[simp] theorem setLink_ring (l : Nat) (v : Link) : (s.setLink l v).ring = s.ring := rfl
@[simp] theorem setLink_mon (l : Nat) (v : Link) : (s.setLink l v).mon = s.mon := rfl
@[simp] theorem setLink_errs (l : Nat) (v : Link) : (s.setLink l v).errs = s.errs := rfl
@[simp] theorem setLink_boot (l : Nat) (v : Link) : (s.setLink l v).boot = s.boot := rfl
@[simp] theorem setLink_pend (l : Nat) (v : Link) : (s.setLink l v).pend = s.pend := rfl

@[simp] theorem setLink_rod (l : Nat) (v : Link) (i : Nat) : (s.setLink l v).rod i = s.rod i := rfl
@[simp] theorem setLink_part (l : Nat) (v : Link) (i : Nat) : (s.setLink l v).part i = s.part i := rfl
@[simp] theorem setLink_ctx (l : Nat) (v : Link) (i j : Nat) : (s.setLink l v).ctx i j = s.ctx i j := rfl
@[simp] theorem setLink_pairing (l : Nat) (v : Link) (i : Nat) : (s.setLink l v).pairing i = s.pairing i := rfl
@[simp] theorem setLink_harvest (l : Nat) (v : Link) (i : Nat) : (s.setLink l v).harvest i = s.harvest i := rfl
@[simp] theorem setLink_num (l : Nat) (v : Link) (i : Nat) : (s.setLink l v).num i = s.num i := rfl
@[simp] theorem setLink_group (l : Nat) (v : Link) (i j : Nat) : (s.setLink l v).group i j = s.group i j := rfl
@[simp] theorem setLink_func (l : Nat) (v : Link) (i : Nat) : (s.setLink l v).func i = s.func i := rfl
@[simp] theorem setLink_slot (l : Nat) (v : Link) (i j : Nat) : (s.setLink l v).slot i j = s.slot i j := rfl
@[simp] theorem setLink_o (l : Nat) (v : Link) (i : Nat) : (s.setLink l v).o i = s.o i := rfl
@[simp] theorem setLink_blob (l : Nat) (v : Link) (i j : Nat) : (s.setLink l v).blob i j = s.blob i j := rfl
@[simp] theorem setLink_owner (l : Nat) (v : Link) (i : Nat) : (s.setLink l v).owner i = s.owner i := rfl
@[simp] theorem setLink_stroke (l : Nat) (v : Link) : (s.setLink l v).stroke = s.stroke := rfl
@[simp] theorem setLink_cycle (l : Nat) (v : Link) : (s.setLink l v).cycle = s.cycle := rfl
@[simp] theorem setLink_resident (l : Nat) (v : Link) (i : Nat) : (s.setLink l v).resident i = s.resident i := rfl
@[simp] theorem setLink_frames (l : Nat) (v : Link) (i : Nat) : (s.setLink l v).frames i = s.frames i := rfl
@[simp] theorem setLink_level (l : Nat) (v : Link) : (s.setLink l v).level = s.level := rfl

/-! `setGroup` -/

@[simp] theorem setGroup_pending (p g : Nat) (v : Group) : (s.setGroup p g v).pending = s.pending := rfl
@[simp] theorem setGroup_draws (p g : Nat) (v : Group) : (s.setGroup p g v).draws = s.draws := rfl
@[simp] theorem setGroup_ns (p g : Nat) (v : Group) : (s.setGroup p g v).ns = s.ns := rfl
@[simp] theorem setGroup_rodTenths (p g : Nat) (v : Group) : (s.setGroup p g v).rodTenths = s.rodTenths := rfl
@[simp] theorem setGroup_objs (p g : Nat) (v : Group) : (s.setGroup p g v).objs = s.objs := rfl
@[simp] theorem setGroup_blobs (p g : Nat) (v : Group) : (s.setGroup p g v).blobs = s.blobs := rfl
@[simp] theorem setGroup_flash (p g : Nat) (v : Group) : (s.setGroup p g v).flash = s.flash := rfl
@[simp] theorem setGroup_status (p g : Nat) (v : Group) : (s.setGroup p g v).status = s.status := rfl
@[simp] theorem setGroup_readData (p g : Nat) (v : Group) : (s.setGroup p g v).readData = s.readData := rfl
@[simp] theorem setGroup_rods (p g : Nat) (v : Group) : (s.setGroup p g v).rods = s.rods := rfl
@[simp] theorem setGroup_mesh (p g : Nat) (v : Group) : (s.setGroup p g v).mesh = s.mesh := rfl
@[simp] theorem setGroup_decks (p g : Nat) (v : Group) : (s.setGroup p g v).decks = s.decks := rfl
@[simp] theorem setGroup_parts (p g : Nat) (v : Group) : (s.setGroup p g v).parts = s.parts := rfl
@[simp] theorem setGroup_ctxs (p g : Nat) (v : Group) : (s.setGroup p g v).ctxs = s.ctxs := rfl
@[simp] theorem setGroup_frameOwner (p g : Nat) (v : Group) : (s.setGroup p g v).frameOwner = s.frameOwner := rfl
@[simp] theorem setGroup_pairings (p g : Nat) (v : Group) : (s.setGroup p g v).pairings = s.pairings := rfl
@[simp] theorem setGroup_harvests (p g : Nat) (v : Group) : (s.setGroup p g v).harvests = s.harvests := rfl
@[simp] theorem setGroup_nums (p g : Nat) (v : Group) : (s.setGroup p g v).nums = s.nums := rfl
@[simp] theorem setGroup_reck (p g : Nat) (v : Group) : (s.setGroup p g v).reck = s.reck := rfl
@[simp] theorem setGroup_op (p g : Nat) (v : Group) : (s.setGroup p g v).op = s.op := rfl
@[simp] theorem setGroup_sv (p g : Nat) (v : Group) : (s.setGroup p g v).sv = s.sv := rfl
@[simp] theorem setGroup_st (p g : Nat) (v : Group) : (s.setGroup p g v).st = s.st := rfl
@[simp] theorem setGroup_host (p g : Nat) (v : Group) : (s.setGroup p g v).host = s.host := rfl
@[simp] theorem setGroup_ring (p g : Nat) (v : Group) : (s.setGroup p g v).ring = s.ring := rfl
@[simp] theorem setGroup_mon (p g : Nat) (v : Group) : (s.setGroup p g v).mon = s.mon := rfl
@[simp] theorem setGroup_errs (p g : Nat) (v : Group) : (s.setGroup p g v).errs = s.errs := rfl
@[simp] theorem setGroup_boot (p g : Nat) (v : Group) : (s.setGroup p g v).boot = s.boot := rfl
@[simp] theorem setGroup_pend (p g : Nat) (v : Group) : (s.setGroup p g v).pend = s.pend := rfl

@[simp] theorem setGroup_rod (p g : Nat) (v : Group) (i : Nat) : (s.setGroup p g v).rod i = s.rod i := rfl
@[simp] theorem setGroup_part (p g : Nat) (v : Group) (i : Nat) : (s.setGroup p g v).part i = s.part i := rfl
@[simp] theorem setGroup_ctx (p g : Nat) (v : Group) (i j : Nat) : (s.setGroup p g v).ctx i j = s.ctx i j := rfl
@[simp] theorem setGroup_pairing (p g : Nat) (v : Group) (i : Nat) : (s.setGroup p g v).pairing i = s.pairing i := rfl
@[simp] theorem setGroup_harvest (p g : Nat) (v : Group) (i : Nat) : (s.setGroup p g v).harvest i = s.harvest i := rfl
@[simp] theorem setGroup_num (p g : Nat) (v : Group) (i : Nat) : (s.setGroup p g v).num i = s.num i := rfl
@[simp] theorem setGroup_link (p g : Nat) (v : Group) (i : Nat) : (s.setGroup p g v).link i = s.link i := rfl
@[simp] theorem setGroup_func (p g : Nat) (v : Group) (i : Nat) : (s.setGroup p g v).func i = s.func i := rfl
@[simp] theorem setGroup_slot (p g : Nat) (v : Group) (i j : Nat) : (s.setGroup p g v).slot i j = s.slot i j := rfl
@[simp] theorem setGroup_o (p g : Nat) (v : Group) (i : Nat) : (s.setGroup p g v).o i = s.o i := rfl
@[simp] theorem setGroup_blob (p g : Nat) (v : Group) (i j : Nat) : (s.setGroup p g v).blob i j = s.blob i j := rfl
@[simp] theorem setGroup_owner (p g : Nat) (v : Group) (i : Nat) : (s.setGroup p g v).owner i = s.owner i := rfl
@[simp] theorem setGroup_stroke (p g : Nat) (v : Group) : (s.setGroup p g v).stroke = s.stroke := rfl
@[simp] theorem setGroup_cycle (p g : Nat) (v : Group) : (s.setGroup p g v).cycle = s.cycle := rfl
@[simp] theorem setGroup_resident (p g : Nat) (v : Group) (i : Nat) : (s.setGroup p g v).resident i = s.resident i := rfl
@[simp] theorem setGroup_frames (p g : Nat) (v : Group) (i : Nat) : (s.setGroup p g v).frames i = s.frames i := rfl
@[simp] theorem setGroup_level (p g : Nat) (v : Group) : (s.setGroup p g v).level = s.level := rfl

/-! `setFunc` -/

@[simp] theorem setFunc_pending (f : Nat) (v : Func) : (s.setFunc f v).pending = s.pending := rfl
@[simp] theorem setFunc_draws (f : Nat) (v : Func) : (s.setFunc f v).draws = s.draws := rfl
@[simp] theorem setFunc_ns (f : Nat) (v : Func) : (s.setFunc f v).ns = s.ns := rfl
@[simp] theorem setFunc_rodTenths (f : Nat) (v : Func) : (s.setFunc f v).rodTenths = s.rodTenths := rfl
@[simp] theorem setFunc_objs (f : Nat) (v : Func) : (s.setFunc f v).objs = s.objs := rfl
@[simp] theorem setFunc_blobs (f : Nat) (v : Func) : (s.setFunc f v).blobs = s.blobs := rfl
@[simp] theorem setFunc_flash (f : Nat) (v : Func) : (s.setFunc f v).flash = s.flash := rfl
@[simp] theorem setFunc_status (f : Nat) (v : Func) : (s.setFunc f v).status = s.status := rfl
@[simp] theorem setFunc_readData (f : Nat) (v : Func) : (s.setFunc f v).readData = s.readData := rfl
@[simp] theorem setFunc_rods (f : Nat) (v : Func) : (s.setFunc f v).rods = s.rods := rfl
@[simp] theorem setFunc_mesh (f : Nat) (v : Func) : (s.setFunc f v).mesh = s.mesh := rfl
@[simp] theorem setFunc_decks (f : Nat) (v : Func) : (s.setFunc f v).decks = s.decks := rfl
@[simp] theorem setFunc_parts (f : Nat) (v : Func) : (s.setFunc f v).parts = s.parts := rfl
@[simp] theorem setFunc_ctxs (f : Nat) (v : Func) : (s.setFunc f v).ctxs = s.ctxs := rfl
@[simp] theorem setFunc_frameOwner (f : Nat) (v : Func) : (s.setFunc f v).frameOwner = s.frameOwner := rfl
@[simp] theorem setFunc_pairings (f : Nat) (v : Func) : (s.setFunc f v).pairings = s.pairings := rfl
@[simp] theorem setFunc_harvests (f : Nat) (v : Func) : (s.setFunc f v).harvests = s.harvests := rfl
@[simp] theorem setFunc_nums (f : Nat) (v : Func) : (s.setFunc f v).nums = s.nums := rfl
@[simp] theorem setFunc_reck (f : Nat) (v : Func) : (s.setFunc f v).reck = s.reck := rfl
@[simp] theorem setFunc_cy (f : Nat) (v : Func) : (s.setFunc f v).cy = s.cy := rfl
@[simp] theorem setFunc_op (f : Nat) (v : Func) : (s.setFunc f v).op = s.op := rfl
@[simp] theorem setFunc_sv (f : Nat) (v : Func) : (s.setFunc f v).sv = s.sv := rfl
@[simp] theorem setFunc_st (f : Nat) (v : Func) : (s.setFunc f v).st = s.st := rfl
@[simp] theorem setFunc_ring (f : Nat) (v : Func) : (s.setFunc f v).ring = s.ring := rfl
@[simp] theorem setFunc_mon (f : Nat) (v : Func) : (s.setFunc f v).mon = s.mon := rfl
@[simp] theorem setFunc_errs (f : Nat) (v : Func) : (s.setFunc f v).errs = s.errs := rfl
@[simp] theorem setFunc_boot (f : Nat) (v : Func) : (s.setFunc f v).boot = s.boot := rfl
@[simp] theorem setFunc_pend (f : Nat) (v : Func) : (s.setFunc f v).pend = s.pend := rfl

@[simp] theorem setFunc_rod (f : Nat) (v : Func) (i : Nat) : (s.setFunc f v).rod i = s.rod i := rfl
@[simp] theorem setFunc_part (f : Nat) (v : Func) (i : Nat) : (s.setFunc f v).part i = s.part i := rfl
@[simp] theorem setFunc_ctx (f : Nat) (v : Func) (i j : Nat) : (s.setFunc f v).ctx i j = s.ctx i j := rfl
@[simp] theorem setFunc_pairing (f : Nat) (v : Func) (i : Nat) : (s.setFunc f v).pairing i = s.pairing i := rfl
@[simp] theorem setFunc_harvest (f : Nat) (v : Func) (i : Nat) : (s.setFunc f v).harvest i = s.harvest i := rfl
@[simp] theorem setFunc_num (f : Nat) (v : Func) (i : Nat) : (s.setFunc f v).num i = s.num i := rfl
@[simp] theorem setFunc_link (f : Nat) (v : Func) (i : Nat) : (s.setFunc f v).link i = s.link i := rfl
@[simp] theorem setFunc_group (f : Nat) (v : Func) (i j : Nat) : (s.setFunc f v).group i j = s.group i j := rfl
@[simp] theorem setFunc_slot (f : Nat) (v : Func) (i j : Nat) : (s.setFunc f v).slot i j = s.slot i j := rfl
@[simp] theorem setFunc_o (f : Nat) (v : Func) (i : Nat) : (s.setFunc f v).o i = s.o i := rfl
@[simp] theorem setFunc_blob (f : Nat) (v : Func) (i j : Nat) : (s.setFunc f v).blob i j = s.blob i j := rfl
@[simp] theorem setFunc_owner (f : Nat) (v : Func) (i : Nat) : (s.setFunc f v).owner i = s.owner i := rfl
@[simp] theorem setFunc_stroke (f : Nat) (v : Func) : (s.setFunc f v).stroke = s.stroke := rfl
@[simp] theorem setFunc_cycle (f : Nat) (v : Func) : (s.setFunc f v).cycle = s.cycle := rfl
@[simp] theorem setFunc_resident (f : Nat) (v : Func) (i : Nat) : (s.setFunc f v).resident i = s.resident i := rfl
@[simp] theorem setFunc_frames (f : Nat) (v : Func) (i : Nat) : (s.setFunc f v).frames i = s.frames i := rfl
@[simp] theorem setFunc_level (f : Nat) (v : Func) : (s.setFunc f v).level = s.level := rfl

/-! `setSlot` -/

@[simp] theorem setSlot_pending (p n : Nat) (v : BitVec 1024) : (s.setSlot p n v).pending = s.pending := rfl
@[simp] theorem setSlot_draws (p n : Nat) (v : BitVec 1024) : (s.setSlot p n v).draws = s.draws := rfl
@[simp] theorem setSlot_ns (p n : Nat) (v : BitVec 1024) : (s.setSlot p n v).ns = s.ns := rfl
@[simp] theorem setSlot_rodTenths (p n : Nat) (v : BitVec 1024) : (s.setSlot p n v).rodTenths = s.rodTenths := rfl
@[simp] theorem setSlot_objs (p n : Nat) (v : BitVec 1024) : (s.setSlot p n v).objs = s.objs := rfl
@[simp] theorem setSlot_blobs (p n : Nat) (v : BitVec 1024) : (s.setSlot p n v).blobs = s.blobs := rfl
@[simp] theorem setSlot_flash (p n : Nat) (v : BitVec 1024) : (s.setSlot p n v).flash = s.flash := rfl
@[simp] theorem setSlot_status (p n : Nat) (v : BitVec 1024) : (s.setSlot p n v).status = s.status := rfl
@[simp] theorem setSlot_readData (p n : Nat) (v : BitVec 1024) : (s.setSlot p n v).readData = s.readData := rfl
@[simp] theorem setSlot_rods (p n : Nat) (v : BitVec 1024) : (s.setSlot p n v).rods = s.rods := rfl
@[simp] theorem setSlot_mesh (p n : Nat) (v : BitVec 1024) : (s.setSlot p n v).mesh = s.mesh := rfl
@[simp] theorem setSlot_decks (p n : Nat) (v : BitVec 1024) : (s.setSlot p n v).decks = s.decks := rfl
@[simp] theorem setSlot_ctxs (p n : Nat) (v : BitVec 1024) : (s.setSlot p n v).ctxs = s.ctxs := rfl
@[simp] theorem setSlot_frameOwner (p n : Nat) (v : BitVec 1024) : (s.setSlot p n v).frameOwner = s.frameOwner := rfl
@[simp] theorem setSlot_pairings (p n : Nat) (v : BitVec 1024) : (s.setSlot p n v).pairings = s.pairings := rfl
@[simp] theorem setSlot_harvests (p n : Nat) (v : BitVec 1024) : (s.setSlot p n v).harvests = s.harvests := rfl
@[simp] theorem setSlot_nums (p n : Nat) (v : BitVec 1024) : (s.setSlot p n v).nums = s.nums := rfl
@[simp] theorem setSlot_reck (p n : Nat) (v : BitVec 1024) : (s.setSlot p n v).reck = s.reck := rfl
@[simp] theorem setSlot_cy (p n : Nat) (v : BitVec 1024) : (s.setSlot p n v).cy = s.cy := rfl
@[simp] theorem setSlot_op (p n : Nat) (v : BitVec 1024) : (s.setSlot p n v).op = s.op := rfl
@[simp] theorem setSlot_sv (p n : Nat) (v : BitVec 1024) : (s.setSlot p n v).sv = s.sv := rfl
@[simp] theorem setSlot_st (p n : Nat) (v : BitVec 1024) : (s.setSlot p n v).st = s.st := rfl
@[simp] theorem setSlot_host (p n : Nat) (v : BitVec 1024) : (s.setSlot p n v).host = s.host := rfl
@[simp] theorem setSlot_ring (p n : Nat) (v : BitVec 1024) : (s.setSlot p n v).ring = s.ring := rfl
@[simp] theorem setSlot_mon (p n : Nat) (v : BitVec 1024) : (s.setSlot p n v).mon = s.mon := rfl
@[simp] theorem setSlot_errs (p n : Nat) (v : BitVec 1024) : (s.setSlot p n v).errs = s.errs := rfl
@[simp] theorem setSlot_boot (p n : Nat) (v : BitVec 1024) : (s.setSlot p n v).boot = s.boot := rfl
@[simp] theorem setSlot_pend (p n : Nat) (v : BitVec 1024) : (s.setSlot p n v).pend = s.pend := rfl

@[simp] theorem setSlot_rod (p n : Nat) (v : BitVec 1024) (i : Nat) : (s.setSlot p n v).rod i = s.rod i := rfl
@[simp] theorem setSlot_ctx (p n : Nat) (v : BitVec 1024) (i j : Nat) : (s.setSlot p n v).ctx i j = s.ctx i j := rfl
@[simp] theorem setSlot_pairing (p n : Nat) (v : BitVec 1024) (i : Nat) : (s.setSlot p n v).pairing i = s.pairing i := rfl
@[simp] theorem setSlot_harvest (p n : Nat) (v : BitVec 1024) (i : Nat) : (s.setSlot p n v).harvest i = s.harvest i := rfl
@[simp] theorem setSlot_num (p n : Nat) (v : BitVec 1024) (i : Nat) : (s.setSlot p n v).num i = s.num i := rfl
@[simp] theorem setSlot_link (p n : Nat) (v : BitVec 1024) (i : Nat) : (s.setSlot p n v).link i = s.link i := rfl
@[simp] theorem setSlot_group (p n : Nat) (v : BitVec 1024) (i j : Nat) : (s.setSlot p n v).group i j = s.group i j := rfl
@[simp] theorem setSlot_func (p n : Nat) (v : BitVec 1024) (i : Nat) : (s.setSlot p n v).func i = s.func i := rfl
@[simp] theorem setSlot_o (p n : Nat) (v : BitVec 1024) (i : Nat) : (s.setSlot p n v).o i = s.o i := rfl
@[simp] theorem setSlot_blob (p n : Nat) (v : BitVec 1024) (i j : Nat) : (s.setSlot p n v).blob i j = s.blob i j := rfl
@[simp] theorem setSlot_owner (p n : Nat) (v : BitVec 1024) (i : Nat) : (s.setSlot p n v).owner i = s.owner i := rfl
@[simp] theorem setSlot_stroke (p n : Nat) (v : BitVec 1024) : (s.setSlot p n v).stroke = s.stroke := rfl
@[simp] theorem setSlot_cycle (p n : Nat) (v : BitVec 1024) : (s.setSlot p n v).cycle = s.cycle := rfl
@[simp] theorem setSlot_resident (p n : Nat) (v : BitVec 1024) (i : Nat) : (s.setSlot p n v).resident i = s.resident i := rfl
@[simp] theorem setSlot_frames (p n : Nat) (v : BitVec 1024) (i : Nat) : (s.setSlot p n v).frames i = s.frames i := rfl
@[simp] theorem setSlot_level (p n : Nat) (v : BitVec 1024) : (s.setSlot p n v).level = s.level := rfl

/-! `setO` -/

@[simp] theorem setO_pending (k v : Nat) : (s.setO k v).pending = s.pending := rfl
@[simp] theorem setO_draws (k v : Nat) : (s.setO k v).draws = s.draws := rfl
@[simp] theorem setO_ns (k v : Nat) : (s.setO k v).ns = s.ns := rfl
@[simp] theorem setO_rodTenths (k v : Nat) : (s.setO k v).rodTenths = s.rodTenths := rfl
@[simp] theorem setO_blobs (k v : Nat) : (s.setO k v).blobs = s.blobs := rfl
@[simp] theorem setO_flash (k v : Nat) : (s.setO k v).flash = s.flash := rfl
@[simp] theorem setO_status (k v : Nat) : (s.setO k v).status = s.status := rfl
@[simp] theorem setO_readData (k v : Nat) : (s.setO k v).readData = s.readData := rfl
@[simp] theorem setO_rods (k v : Nat) : (s.setO k v).rods = s.rods := rfl
@[simp] theorem setO_mesh (k v : Nat) : (s.setO k v).mesh = s.mesh := rfl
@[simp] theorem setO_decks (k v : Nat) : (s.setO k v).decks = s.decks := rfl
@[simp] theorem setO_parts (k v : Nat) : (s.setO k v).parts = s.parts := rfl
@[simp] theorem setO_ctxs (k v : Nat) : (s.setO k v).ctxs = s.ctxs := rfl
@[simp] theorem setO_frameOwner (k v : Nat) : (s.setO k v).frameOwner = s.frameOwner := rfl
@[simp] theorem setO_pairings (k v : Nat) : (s.setO k v).pairings = s.pairings := rfl
@[simp] theorem setO_harvests (k v : Nat) : (s.setO k v).harvests = s.harvests := rfl
@[simp] theorem setO_nums (k v : Nat) : (s.setO k v).nums = s.nums := rfl
@[simp] theorem setO_reck (k v : Nat) : (s.setO k v).reck = s.reck := rfl
@[simp] theorem setO_cy (k v : Nat) : (s.setO k v).cy = s.cy := rfl
@[simp] theorem setO_op (k v : Nat) : (s.setO k v).op = s.op := rfl
@[simp] theorem setO_sv (k v : Nat) : (s.setO k v).sv = s.sv := rfl
@[simp] theorem setO_st (k v : Nat) : (s.setO k v).st = s.st := rfl
@[simp] theorem setO_host (k v : Nat) : (s.setO k v).host = s.host := rfl
@[simp] theorem setO_ring (k v : Nat) : (s.setO k v).ring = s.ring := rfl
@[simp] theorem setO_mon (k v : Nat) : (s.setO k v).mon = s.mon := rfl
@[simp] theorem setO_errs (k v : Nat) : (s.setO k v).errs = s.errs := rfl
@[simp] theorem setO_boot (k v : Nat) : (s.setO k v).boot = s.boot := rfl
@[simp] theorem setO_pend (k v : Nat) : (s.setO k v).pend = s.pend := rfl

@[simp] theorem setO_rod (k v : Nat) (i : Nat) : (s.setO k v).rod i = s.rod i := rfl
@[simp] theorem setO_part (k v : Nat) (i : Nat) : (s.setO k v).part i = s.part i := rfl
@[simp] theorem setO_ctx (k v : Nat) (i j : Nat) : (s.setO k v).ctx i j = s.ctx i j := rfl
@[simp] theorem setO_pairing (k v : Nat) (i : Nat) : (s.setO k v).pairing i = s.pairing i := rfl
@[simp] theorem setO_harvest (k v : Nat) (i : Nat) : (s.setO k v).harvest i = s.harvest i := rfl
@[simp] theorem setO_num (k v : Nat) (i : Nat) : (s.setO k v).num i = s.num i := rfl
@[simp] theorem setO_link (k v : Nat) (i : Nat) : (s.setO k v).link i = s.link i := rfl
@[simp] theorem setO_group (k v : Nat) (i j : Nat) : (s.setO k v).group i j = s.group i j := rfl
@[simp] theorem setO_func (k v : Nat) (i : Nat) : (s.setO k v).func i = s.func i := rfl
@[simp] theorem setO_slot (k v : Nat) (i j : Nat) : (s.setO k v).slot i j = s.slot i j := rfl
@[simp] theorem setO_blob (k v : Nat) (i j : Nat) : (s.setO k v).blob i j = s.blob i j := rfl
@[simp] theorem setO_owner (k v : Nat) (i : Nat) : (s.setO k v).owner i = s.owner i := rfl
@[simp] theorem setO_cycle (k v : Nat) : (s.setO k v).cycle = s.cycle := rfl
@[simp] theorem setO_level (k v : Nat) : (s.setO k v).level = s.level := rfl

/-! `addO` -/

@[simp] theorem addO_pending (w k n : Nat) : (s.addO w k n).pending = s.pending := rfl
@[simp] theorem addO_draws (w k n : Nat) : (s.addO w k n).draws = s.draws := rfl
@[simp] theorem addO_ns (w k n : Nat) : (s.addO w k n).ns = s.ns := rfl
@[simp] theorem addO_rodTenths (w k n : Nat) : (s.addO w k n).rodTenths = s.rodTenths := rfl
@[simp] theorem addO_blobs (w k n : Nat) : (s.addO w k n).blobs = s.blobs := rfl
@[simp] theorem addO_flash (w k n : Nat) : (s.addO w k n).flash = s.flash := rfl
@[simp] theorem addO_status (w k n : Nat) : (s.addO w k n).status = s.status := rfl
@[simp] theorem addO_readData (w k n : Nat) : (s.addO w k n).readData = s.readData := rfl
@[simp] theorem addO_rods (w k n : Nat) : (s.addO w k n).rods = s.rods := rfl
@[simp] theorem addO_mesh (w k n : Nat) : (s.addO w k n).mesh = s.mesh := rfl
@[simp] theorem addO_decks (w k n : Nat) : (s.addO w k n).decks = s.decks := rfl
@[simp] theorem addO_parts (w k n : Nat) : (s.addO w k n).parts = s.parts := rfl
@[simp] theorem addO_ctxs (w k n : Nat) : (s.addO w k n).ctxs = s.ctxs := rfl
@[simp] theorem addO_frameOwner (w k n : Nat) : (s.addO w k n).frameOwner = s.frameOwner := rfl
@[simp] theorem addO_pairings (w k n : Nat) : (s.addO w k n).pairings = s.pairings := rfl
@[simp] theorem addO_harvests (w k n : Nat) : (s.addO w k n).harvests = s.harvests := rfl
@[simp] theorem addO_nums (w k n : Nat) : (s.addO w k n).nums = s.nums := rfl
@[simp] theorem addO_reck (w k n : Nat) : (s.addO w k n).reck = s.reck := rfl
@[simp] theorem addO_cy (w k n : Nat) : (s.addO w k n).cy = s.cy := rfl
@[simp] theorem addO_op (w k n : Nat) : (s.addO w k n).op = s.op := rfl
@[simp] theorem addO_sv (w k n : Nat) : (s.addO w k n).sv = s.sv := rfl
@[simp] theorem addO_st (w k n : Nat) : (s.addO w k n).st = s.st := rfl
@[simp] theorem addO_host (w k n : Nat) : (s.addO w k n).host = s.host := rfl
@[simp] theorem addO_ring (w k n : Nat) : (s.addO w k n).ring = s.ring := rfl
@[simp] theorem addO_mon (w k n : Nat) : (s.addO w k n).mon = s.mon := rfl
@[simp] theorem addO_errs (w k n : Nat) : (s.addO w k n).errs = s.errs := rfl
@[simp] theorem addO_boot (w k n : Nat) : (s.addO w k n).boot = s.boot := rfl
@[simp] theorem addO_pend (w k n : Nat) : (s.addO w k n).pend = s.pend := rfl

@[simp] theorem addO_rod (w k n : Nat) (i : Nat) : (s.addO w k n).rod i = s.rod i := rfl
@[simp] theorem addO_part (w k n : Nat) (i : Nat) : (s.addO w k n).part i = s.part i := rfl
@[simp] theorem addO_ctx (w k n : Nat) (i j : Nat) : (s.addO w k n).ctx i j = s.ctx i j := rfl
@[simp] theorem addO_pairing (w k n : Nat) (i : Nat) : (s.addO w k n).pairing i = s.pairing i := rfl
@[simp] theorem addO_harvest (w k n : Nat) (i : Nat) : (s.addO w k n).harvest i = s.harvest i := rfl
@[simp] theorem addO_num (w k n : Nat) (i : Nat) : (s.addO w k n).num i = s.num i := rfl
@[simp] theorem addO_link (w k n : Nat) (i : Nat) : (s.addO w k n).link i = s.link i := rfl
@[simp] theorem addO_group (w k n : Nat) (i j : Nat) : (s.addO w k n).group i j = s.group i j := rfl
@[simp] theorem addO_func (w k n : Nat) (i : Nat) : (s.addO w k n).func i = s.func i := rfl
@[simp] theorem addO_slot (w k n : Nat) (i j : Nat) : (s.addO w k n).slot i j = s.slot i j := rfl
@[simp] theorem addO_blob (w k n : Nat) (i j : Nat) : (s.addO w k n).blob i j = s.blob i j := rfl
@[simp] theorem addO_owner (w k n : Nat) (i : Nat) : (s.addO w k n).owner i = s.owner i := rfl
@[simp] theorem addO_cycle (w k n : Nat) : (s.addO w k n).cycle = s.cycle := rfl
@[simp] theorem addO_level (w k n : Nat) : (s.addO w k n).level = s.level := rfl

/-! `clearO` -/

@[simp] theorem clearO_pending (k : Nat) : (s.clearO k).pending = s.pending := rfl
@[simp] theorem clearO_draws (k : Nat) : (s.clearO k).draws = s.draws := rfl
@[simp] theorem clearO_ns (k : Nat) : (s.clearO k).ns = s.ns := rfl
@[simp] theorem clearO_rodTenths (k : Nat) : (s.clearO k).rodTenths = s.rodTenths := rfl
@[simp] theorem clearO_blobs (k : Nat) : (s.clearO k).blobs = s.blobs := rfl
@[simp] theorem clearO_flash (k : Nat) : (s.clearO k).flash = s.flash := rfl
@[simp] theorem clearO_status (k : Nat) : (s.clearO k).status = s.status := rfl
@[simp] theorem clearO_readData (k : Nat) : (s.clearO k).readData = s.readData := rfl
@[simp] theorem clearO_rods (k : Nat) : (s.clearO k).rods = s.rods := rfl
@[simp] theorem clearO_mesh (k : Nat) : (s.clearO k).mesh = s.mesh := rfl
@[simp] theorem clearO_decks (k : Nat) : (s.clearO k).decks = s.decks := rfl
@[simp] theorem clearO_parts (k : Nat) : (s.clearO k).parts = s.parts := rfl
@[simp] theorem clearO_ctxs (k : Nat) : (s.clearO k).ctxs = s.ctxs := rfl
@[simp] theorem clearO_frameOwner (k : Nat) : (s.clearO k).frameOwner = s.frameOwner := rfl
@[simp] theorem clearO_pairings (k : Nat) : (s.clearO k).pairings = s.pairings := rfl
@[simp] theorem clearO_harvests (k : Nat) : (s.clearO k).harvests = s.harvests := rfl
@[simp] theorem clearO_nums (k : Nat) : (s.clearO k).nums = s.nums := rfl
@[simp] theorem clearO_reck (k : Nat) : (s.clearO k).reck = s.reck := rfl
@[simp] theorem clearO_cy (k : Nat) : (s.clearO k).cy = s.cy := rfl
@[simp] theorem clearO_op (k : Nat) : (s.clearO k).op = s.op := rfl
@[simp] theorem clearO_sv (k : Nat) : (s.clearO k).sv = s.sv := rfl
@[simp] theorem clearO_st (k : Nat) : (s.clearO k).st = s.st := rfl
@[simp] theorem clearO_host (k : Nat) : (s.clearO k).host = s.host := rfl
@[simp] theorem clearO_ring (k : Nat) : (s.clearO k).ring = s.ring := rfl
@[simp] theorem clearO_mon (k : Nat) : (s.clearO k).mon = s.mon := rfl
@[simp] theorem clearO_errs (k : Nat) : (s.clearO k).errs = s.errs := rfl
@[simp] theorem clearO_boot (k : Nat) : (s.clearO k).boot = s.boot := rfl
@[simp] theorem clearO_pend (k : Nat) : (s.clearO k).pend = s.pend := rfl

@[simp] theorem clearO_rod (k : Nat) (i : Nat) : (s.clearO k).rod i = s.rod i := rfl
@[simp] theorem clearO_part (k : Nat) (i : Nat) : (s.clearO k).part i = s.part i := rfl
@[simp] theorem clearO_ctx (k : Nat) (i j : Nat) : (s.clearO k).ctx i j = s.ctx i j := rfl
@[simp] theorem clearO_pairing (k : Nat) (i : Nat) : (s.clearO k).pairing i = s.pairing i := rfl
@[simp] theorem clearO_harvest (k : Nat) (i : Nat) : (s.clearO k).harvest i = s.harvest i := rfl
@[simp] theorem clearO_num (k : Nat) (i : Nat) : (s.clearO k).num i = s.num i := rfl
@[simp] theorem clearO_link (k : Nat) (i : Nat) : (s.clearO k).link i = s.link i := rfl
@[simp] theorem clearO_group (k : Nat) (i j : Nat) : (s.clearO k).group i j = s.group i j := rfl
@[simp] theorem clearO_func (k : Nat) (i : Nat) : (s.clearO k).func i = s.func i := rfl
@[simp] theorem clearO_slot (k : Nat) (i j : Nat) : (s.clearO k).slot i j = s.slot i j := rfl
@[simp] theorem clearO_blob (k : Nat) (i j : Nat) : (s.clearO k).blob i j = s.blob i j := rfl
@[simp] theorem clearO_owner (k : Nat) (i : Nat) : (s.clearO k).owner i = s.owner i := rfl
@[simp] theorem clearO_cycle (k : Nat) : (s.clearO k).cycle = s.cycle := rfl
@[simp] theorem clearO_level (k : Nat) : (s.clearO k).level = s.level := rfl

/-! `clearBlob` -/

@[simp] theorem clearBlob_pending (k : Nat) : (s.clearBlob k).pending = s.pending := rfl
@[simp] theorem clearBlob_draws (k : Nat) : (s.clearBlob k).draws = s.draws := rfl
@[simp] theorem clearBlob_ns (k : Nat) : (s.clearBlob k).ns = s.ns := rfl
@[simp] theorem clearBlob_rodTenths (k : Nat) : (s.clearBlob k).rodTenths = s.rodTenths := rfl
@[simp] theorem clearBlob_objs (k : Nat) : (s.clearBlob k).objs = s.objs := rfl
@[simp] theorem clearBlob_flash (k : Nat) : (s.clearBlob k).flash = s.flash := rfl
@[simp] theorem clearBlob_status (k : Nat) : (s.clearBlob k).status = s.status := rfl
@[simp] theorem clearBlob_readData (k : Nat) : (s.clearBlob k).readData = s.readData := rfl
@[simp] theorem clearBlob_rods (k : Nat) : (s.clearBlob k).rods = s.rods := rfl
@[simp] theorem clearBlob_mesh (k : Nat) : (s.clearBlob k).mesh = s.mesh := rfl
@[simp] theorem clearBlob_decks (k : Nat) : (s.clearBlob k).decks = s.decks := rfl
@[simp] theorem clearBlob_parts (k : Nat) : (s.clearBlob k).parts = s.parts := rfl
@[simp] theorem clearBlob_ctxs (k : Nat) : (s.clearBlob k).ctxs = s.ctxs := rfl
@[simp] theorem clearBlob_frameOwner (k : Nat) : (s.clearBlob k).frameOwner = s.frameOwner := rfl
@[simp] theorem clearBlob_pairings (k : Nat) : (s.clearBlob k).pairings = s.pairings := rfl
@[simp] theorem clearBlob_harvests (k : Nat) : (s.clearBlob k).harvests = s.harvests := rfl
@[simp] theorem clearBlob_nums (k : Nat) : (s.clearBlob k).nums = s.nums := rfl
@[simp] theorem clearBlob_reck (k : Nat) : (s.clearBlob k).reck = s.reck := rfl
@[simp] theorem clearBlob_cy (k : Nat) : (s.clearBlob k).cy = s.cy := rfl
@[simp] theorem clearBlob_op (k : Nat) : (s.clearBlob k).op = s.op := rfl
@[simp] theorem clearBlob_sv (k : Nat) : (s.clearBlob k).sv = s.sv := rfl
@[simp] theorem clearBlob_st (k : Nat) : (s.clearBlob k).st = s.st := rfl
@[simp] theorem clearBlob_host (k : Nat) : (s.clearBlob k).host = s.host := rfl
@[simp] theorem clearBlob_ring (k : Nat) : (s.clearBlob k).ring = s.ring := rfl
@[simp] theorem clearBlob_mon (k : Nat) : (s.clearBlob k).mon = s.mon := rfl
@[simp] theorem clearBlob_errs (k : Nat) : (s.clearBlob k).errs = s.errs := rfl
@[simp] theorem clearBlob_boot (k : Nat) : (s.clearBlob k).boot = s.boot := rfl
@[simp] theorem clearBlob_pend (k : Nat) : (s.clearBlob k).pend = s.pend := rfl

@[simp] theorem clearBlob_rod (k : Nat) (i : Nat) : (s.clearBlob k).rod i = s.rod i := rfl
@[simp] theorem clearBlob_part (k : Nat) (i : Nat) : (s.clearBlob k).part i = s.part i := rfl
@[simp] theorem clearBlob_ctx (k : Nat) (i j : Nat) : (s.clearBlob k).ctx i j = s.ctx i j := rfl
@[simp] theorem clearBlob_pairing (k : Nat) (i : Nat) : (s.clearBlob k).pairing i = s.pairing i := rfl
@[simp] theorem clearBlob_harvest (k : Nat) (i : Nat) : (s.clearBlob k).harvest i = s.harvest i := rfl
@[simp] theorem clearBlob_num (k : Nat) (i : Nat) : (s.clearBlob k).num i = s.num i := rfl
@[simp] theorem clearBlob_link (k : Nat) (i : Nat) : (s.clearBlob k).link i = s.link i := rfl
@[simp] theorem clearBlob_group (k : Nat) (i j : Nat) : (s.clearBlob k).group i j = s.group i j := rfl
@[simp] theorem clearBlob_func (k : Nat) (i : Nat) : (s.clearBlob k).func i = s.func i := rfl
@[simp] theorem clearBlob_slot (k : Nat) (i j : Nat) : (s.clearBlob k).slot i j = s.slot i j := rfl
@[simp] theorem clearBlob_o (k : Nat) (i : Nat) : (s.clearBlob k).o i = s.o i := rfl
@[simp] theorem clearBlob_owner (k : Nat) (i : Nat) : (s.clearBlob k).owner i = s.owner i := rfl
@[simp] theorem clearBlob_stroke (k : Nat) : (s.clearBlob k).stroke = s.stroke := rfl
@[simp] theorem clearBlob_cycle (k : Nat) : (s.clearBlob k).cycle = s.cycle := rfl
@[simp] theorem clearBlob_resident (k : Nat) (i : Nat) : (s.clearBlob k).resident i = s.resident i := rfl
@[simp] theorem clearBlob_frames (k : Nat) (i : Nat) : (s.clearBlob k).frames i = s.frames i := rfl
@[simp] theorem clearBlob_level (k : Nat) : (s.clearBlob k).level = s.level := rfl

/-! `markRwp` -/

@[simp] theorem markRwp_pending (k : Nat) : (s.markRwp k).pending = s.pending := rfl
@[simp] theorem markRwp_draws (k : Nat) : (s.markRwp k).draws = s.draws := rfl
@[simp] theorem markRwp_ns (k : Nat) : (s.markRwp k).ns = s.ns := rfl
@[simp] theorem markRwp_rodTenths (k : Nat) : (s.markRwp k).rodTenths = s.rodTenths := rfl
@[simp] theorem markRwp_objs (k : Nat) : (s.markRwp k).objs = s.objs := rfl
@[simp] theorem markRwp_blobs (k : Nat) : (s.markRwp k).blobs = s.blobs := rfl
@[simp] theorem markRwp_status (k : Nat) : (s.markRwp k).status = s.status := rfl
@[simp] theorem markRwp_readData (k : Nat) : (s.markRwp k).readData = s.readData := rfl
@[simp] theorem markRwp_rods (k : Nat) : (s.markRwp k).rods = s.rods := rfl
@[simp] theorem markRwp_mesh (k : Nat) : (s.markRwp k).mesh = s.mesh := rfl
@[simp] theorem markRwp_decks (k : Nat) : (s.markRwp k).decks = s.decks := rfl
@[simp] theorem markRwp_parts (k : Nat) : (s.markRwp k).parts = s.parts := rfl
@[simp] theorem markRwp_ctxs (k : Nat) : (s.markRwp k).ctxs = s.ctxs := rfl
@[simp] theorem markRwp_frameOwner (k : Nat) : (s.markRwp k).frameOwner = s.frameOwner := rfl
@[simp] theorem markRwp_pairings (k : Nat) : (s.markRwp k).pairings = s.pairings := rfl
@[simp] theorem markRwp_harvests (k : Nat) : (s.markRwp k).harvests = s.harvests := rfl
@[simp] theorem markRwp_nums (k : Nat) : (s.markRwp k).nums = s.nums := rfl
@[simp] theorem markRwp_reck (k : Nat) : (s.markRwp k).reck = s.reck := rfl
@[simp] theorem markRwp_cy (k : Nat) : (s.markRwp k).cy = s.cy := rfl
@[simp] theorem markRwp_op (k : Nat) : (s.markRwp k).op = s.op := rfl
@[simp] theorem markRwp_sv (k : Nat) : (s.markRwp k).sv = s.sv := rfl
@[simp] theorem markRwp_st (k : Nat) : (s.markRwp k).st = s.st := rfl
@[simp] theorem markRwp_host (k : Nat) : (s.markRwp k).host = s.host := rfl
@[simp] theorem markRwp_ring (k : Nat) : (s.markRwp k).ring = s.ring := rfl
@[simp] theorem markRwp_mon (k : Nat) : (s.markRwp k).mon = s.mon := rfl
@[simp] theorem markRwp_errs (k : Nat) : (s.markRwp k).errs = s.errs := rfl
@[simp] theorem markRwp_boot (k : Nat) : (s.markRwp k).boot = s.boot := rfl
@[simp] theorem markRwp_pend (k : Nat) : (s.markRwp k).pend = s.pend := rfl

@[simp] theorem markRwp_rod (k : Nat) (i : Nat) : (s.markRwp k).rod i = s.rod i := rfl
@[simp] theorem markRwp_part (k : Nat) (i : Nat) : (s.markRwp k).part i = s.part i := rfl
@[simp] theorem markRwp_ctx (k : Nat) (i j : Nat) : (s.markRwp k).ctx i j = s.ctx i j := rfl
@[simp] theorem markRwp_pairing (k : Nat) (i : Nat) : (s.markRwp k).pairing i = s.pairing i := rfl
@[simp] theorem markRwp_harvest (k : Nat) (i : Nat) : (s.markRwp k).harvest i = s.harvest i := rfl
@[simp] theorem markRwp_num (k : Nat) (i : Nat) : (s.markRwp k).num i = s.num i := rfl
@[simp] theorem markRwp_link (k : Nat) (i : Nat) : (s.markRwp k).link i = s.link i := rfl
@[simp] theorem markRwp_group (k : Nat) (i j : Nat) : (s.markRwp k).group i j = s.group i j := rfl
@[simp] theorem markRwp_func (k : Nat) (i : Nat) : (s.markRwp k).func i = s.func i := rfl
@[simp] theorem markRwp_slot (k : Nat) (i j : Nat) : (s.markRwp k).slot i j = s.slot i j := rfl
@[simp] theorem markRwp_o (k : Nat) (i : Nat) : (s.markRwp k).o i = s.o i := rfl
@[simp] theorem markRwp_blob (k : Nat) (i j : Nat) : (s.markRwp k).blob i j = s.blob i j := rfl
@[simp] theorem markRwp_owner (k : Nat) (i : Nat) : (s.markRwp k).owner i = s.owner i := rfl
@[simp] theorem markRwp_stroke (k : Nat) : (s.markRwp k).stroke = s.stroke := rfl
@[simp] theorem markRwp_cycle (k : Nat) : (s.markRwp k).cycle = s.cycle := rfl
@[simp] theorem markRwp_resident (k : Nat) (i : Nat) : (s.markRwp k).resident i = s.resident i := rfl
@[simp] theorem markRwp_frames (k : Nat) (i : Nat) : (s.markRwp k).frames i = s.frames i := rfl
@[simp] theorem markRwp_level (k : Nat) : (s.markRwp k).level = s.level := rfl

/-! `report` -/

@[simp] theorem report_pending (p : Path) (x : Nat) : (s.report p x).pending = s.pending := rfl
@[simp] theorem report_draws (p : Path) (x : Nat) : (s.report p x).draws = s.draws := rfl
@[simp] theorem report_ns (p : Path) (x : Nat) : (s.report p x).ns = s.ns := rfl
@[simp] theorem report_rodTenths (p : Path) (x : Nat) : (s.report p x).rodTenths = s.rodTenths := rfl
@[simp] theorem report_objs (p : Path) (x : Nat) : (s.report p x).objs = s.objs := rfl
@[simp] theorem report_blobs (p : Path) (x : Nat) : (s.report p x).blobs = s.blobs := rfl
@[simp] theorem report_flash (p : Path) (x : Nat) : (s.report p x).flash = s.flash := rfl
@[simp] theorem report_readData (p : Path) (x : Nat) : (s.report p x).readData = s.readData := rfl
@[simp] theorem report_rods (p : Path) (x : Nat) : (s.report p x).rods = s.rods := rfl
@[simp] theorem report_mesh (p : Path) (x : Nat) : (s.report p x).mesh = s.mesh := rfl
@[simp] theorem report_decks (p : Path) (x : Nat) : (s.report p x).decks = s.decks := rfl
@[simp] theorem report_parts (p : Path) (x : Nat) : (s.report p x).parts = s.parts := rfl
@[simp] theorem report_ctxs (p : Path) (x : Nat) : (s.report p x).ctxs = s.ctxs := rfl
@[simp] theorem report_frameOwner (p : Path) (x : Nat) : (s.report p x).frameOwner = s.frameOwner := rfl
@[simp] theorem report_pairings (p : Path) (x : Nat) : (s.report p x).pairings = s.pairings := rfl
@[simp] theorem report_harvests (p : Path) (x : Nat) : (s.report p x).harvests = s.harvests := rfl
@[simp] theorem report_nums (p : Path) (x : Nat) : (s.report p x).nums = s.nums := rfl
@[simp] theorem report_reck (p : Path) (x : Nat) : (s.report p x).reck = s.reck := rfl
@[simp] theorem report_cy (p : Path) (x : Nat) : (s.report p x).cy = s.cy := rfl
@[simp] theorem report_op (p : Path) (x : Nat) : (s.report p x).op = s.op := rfl
@[simp] theorem report_sv (p : Path) (x : Nat) : (s.report p x).sv = s.sv := rfl
@[simp] theorem report_st (p : Path) (x : Nat) : (s.report p x).st = s.st := rfl
@[simp] theorem report_host (p : Path) (x : Nat) : (s.report p x).host = s.host := rfl
@[simp] theorem report_ring (p : Path) (x : Nat) : (s.report p x).ring = s.ring := rfl
@[simp] theorem report_mon (p : Path) (x : Nat) : (s.report p x).mon = s.mon := rfl
@[simp] theorem report_errs (p : Path) (x : Nat) : (s.report p x).errs = s.errs := rfl
@[simp] theorem report_boot (p : Path) (x : Nat) : (s.report p x).boot = s.boot := rfl
@[simp] theorem report_pend (p : Path) (x : Nat) : (s.report p x).pend = s.pend := rfl

@[simp] theorem report_rod (p : Path) (x : Nat) (i : Nat) : (s.report p x).rod i = s.rod i := rfl
@[simp] theorem report_part (p : Path) (x : Nat) (i : Nat) : (s.report p x).part i = s.part i := rfl
@[simp] theorem report_ctx (p : Path) (x : Nat) (i j : Nat) : (s.report p x).ctx i j = s.ctx i j := rfl
@[simp] theorem report_pairing (p : Path) (x : Nat) (i : Nat) : (s.report p x).pairing i = s.pairing i := rfl
@[simp] theorem report_harvest (p : Path) (x : Nat) (i : Nat) : (s.report p x).harvest i = s.harvest i := rfl
@[simp] theorem report_num (p : Path) (x : Nat) (i : Nat) : (s.report p x).num i = s.num i := rfl
@[simp] theorem report_link (p : Path) (x : Nat) (i : Nat) : (s.report p x).link i = s.link i := rfl
@[simp] theorem report_group (p : Path) (x : Nat) (i j : Nat) : (s.report p x).group i j = s.group i j := rfl
@[simp] theorem report_func (p : Path) (x : Nat) (i : Nat) : (s.report p x).func i = s.func i := rfl
@[simp] theorem report_slot (p : Path) (x : Nat) (i j : Nat) : (s.report p x).slot i j = s.slot i j := rfl
@[simp] theorem report_o (p : Path) (x : Nat) (i : Nat) : (s.report p x).o i = s.o i := rfl
@[simp] theorem report_blob (p : Path) (x : Nat) (i j : Nat) : (s.report p x).blob i j = s.blob i j := rfl
@[simp] theorem report_owner (p : Path) (x : Nat) (i : Nat) : (s.report p x).owner i = s.owner i := rfl
@[simp] theorem report_stroke (p : Path) (x : Nat) : (s.report p x).stroke = s.stroke := rfl
@[simp] theorem report_cycle (p : Path) (x : Nat) : (s.report p x).cycle = s.cycle := rfl
@[simp] theorem report_resident (p : Path) (x : Nat) (i : Nat) : (s.report p x).resident i = s.resident i := rfl
@[simp] theorem report_frames (p : Path) (x : Nat) (i : Nat) : (s.report p x).frames i = s.frames i := rfl
@[simp] theorem report_level (p : Path) (x : Nat) : (s.report p x).level = s.level := rfl

/-! `dropPending` -/

@[simp] theorem dropPending_pending (k e : Nat) : (s.dropPending k e).pending = s.pending := rfl
@[simp] theorem dropPending_draws (k e : Nat) : (s.dropPending k e).draws = s.draws := rfl
@[simp] theorem dropPending_ns (k e : Nat) : (s.dropPending k e).ns = s.ns := rfl
@[simp] theorem dropPending_rodTenths (k e : Nat) : (s.dropPending k e).rodTenths = s.rodTenths := rfl
@[simp] theorem dropPending_objs (k e : Nat) : (s.dropPending k e).objs = s.objs := rfl
@[simp] theorem dropPending_blobs (k e : Nat) : (s.dropPending k e).blobs = s.blobs := rfl
@[simp] theorem dropPending_flash (k e : Nat) : (s.dropPending k e).flash = s.flash := rfl
@[simp] theorem dropPending_status (k e : Nat) : (s.dropPending k e).status = s.status := rfl
@[simp] theorem dropPending_readData (k e : Nat) : (s.dropPending k e).readData = s.readData := rfl
@[simp] theorem dropPending_rods (k e : Nat) : (s.dropPending k e).rods = s.rods := rfl
@[simp] theorem dropPending_mesh (k e : Nat) : (s.dropPending k e).mesh = s.mesh := rfl
@[simp] theorem dropPending_decks (k e : Nat) : (s.dropPending k e).decks = s.decks := rfl
@[simp] theorem dropPending_parts (k e : Nat) : (s.dropPending k e).parts = s.parts := rfl
@[simp] theorem dropPending_ctxs (k e : Nat) : (s.dropPending k e).ctxs = s.ctxs := rfl
@[simp] theorem dropPending_frameOwner (k e : Nat) : (s.dropPending k e).frameOwner = s.frameOwner := rfl
@[simp] theorem dropPending_pairings (k e : Nat) : (s.dropPending k e).pairings = s.pairings := rfl
@[simp] theorem dropPending_harvests (k e : Nat) : (s.dropPending k e).harvests = s.harvests := rfl
@[simp] theorem dropPending_nums (k e : Nat) : (s.dropPending k e).nums = s.nums := rfl
@[simp] theorem dropPending_reck (k e : Nat) : (s.dropPending k e).reck = s.reck := rfl
@[simp] theorem dropPending_cy (k e : Nat) : (s.dropPending k e).cy = s.cy := rfl
@[simp] theorem dropPending_op (k e : Nat) : (s.dropPending k e).op = s.op := rfl
@[simp] theorem dropPending_sv (k e : Nat) : (s.dropPending k e).sv = s.sv := rfl
@[simp] theorem dropPending_st (k e : Nat) : (s.dropPending k e).st = s.st := rfl
@[simp] theorem dropPending_host (k e : Nat) : (s.dropPending k e).host = s.host := rfl
@[simp] theorem dropPending_ring (k e : Nat) : (s.dropPending k e).ring = s.ring := rfl
@[simp] theorem dropPending_mon (k e : Nat) : (s.dropPending k e).mon = s.mon := rfl
@[simp] theorem dropPending_errs (k e : Nat) : (s.dropPending k e).errs = s.errs := rfl
@[simp] theorem dropPending_boot (k e : Nat) : (s.dropPending k e).boot = s.boot := rfl

@[simp] theorem dropPending_rod (k e : Nat) (i : Nat) : (s.dropPending k e).rod i = s.rod i := rfl
@[simp] theorem dropPending_part (k e : Nat) (i : Nat) : (s.dropPending k e).part i = s.part i := rfl
@[simp] theorem dropPending_ctx (k e : Nat) (i j : Nat) : (s.dropPending k e).ctx i j = s.ctx i j := rfl
@[simp] theorem dropPending_pairing (k e : Nat) (i : Nat) : (s.dropPending k e).pairing i = s.pairing i := rfl
@[simp] theorem dropPending_harvest (k e : Nat) (i : Nat) : (s.dropPending k e).harvest i = s.harvest i := rfl
@[simp] theorem dropPending_num (k e : Nat) (i : Nat) : (s.dropPending k e).num i = s.num i := rfl
@[simp] theorem dropPending_link (k e : Nat) (i : Nat) : (s.dropPending k e).link i = s.link i := rfl
@[simp] theorem dropPending_group (k e : Nat) (i j : Nat) : (s.dropPending k e).group i j = s.group i j := rfl
@[simp] theorem dropPending_func (k e : Nat) (i : Nat) : (s.dropPending k e).func i = s.func i := rfl
@[simp] theorem dropPending_slot (k e : Nat) (i j : Nat) : (s.dropPending k e).slot i j = s.slot i j := rfl
@[simp] theorem dropPending_o (k e : Nat) (i : Nat) : (s.dropPending k e).o i = s.o i := rfl
@[simp] theorem dropPending_blob (k e : Nat) (i j : Nat) : (s.dropPending k e).blob i j = s.blob i j := rfl
@[simp] theorem dropPending_owner (k e : Nat) (i : Nat) : (s.dropPending k e).owner i = s.owner i := rfl
@[simp] theorem dropPending_stroke (k e : Nat) : (s.dropPending k e).stroke = s.stroke := rfl
@[simp] theorem dropPending_cycle (k e : Nat) : (s.dropPending k e).cycle = s.cycle := rfl
@[simp] theorem dropPending_resident (k e : Nat) (i : Nat) : (s.dropPending k e).resident i = s.resident i := rfl
@[simp] theorem dropPending_frames (k e : Nat) (i : Nat) : (s.dropPending k e).frames i = s.frames i := rfl
@[simp] theorem dropPending_level (k e : Nat) : (s.dropPending k e).level = s.level := rfl

/-! `pendEnable` -/

@[simp] theorem pendEnable_pending (k e : Nat) : (s.pendEnable k e).pending = s.pending := by unfold State.pendEnable; split <;> rfl
@[simp] theorem pendEnable_draws (k e : Nat) : (s.pendEnable k e).draws = s.draws := by unfold State.pendEnable; split <;> rfl
@[simp] theorem pendEnable_ns (k e : Nat) : (s.pendEnable k e).ns = s.ns := by unfold State.pendEnable; split <;> rfl
@[simp] theorem pendEnable_rodTenths (k e : Nat) : (s.pendEnable k e).rodTenths = s.rodTenths := by unfold State.pendEnable; split <;> rfl
@[simp] theorem pendEnable_objs (k e : Nat) : (s.pendEnable k e).objs = s.objs := by unfold State.pendEnable; split <;> rfl
@[simp] theorem pendEnable_blobs (k e : Nat) : (s.pendEnable k e).blobs = s.blobs := by unfold State.pendEnable; split <;> rfl
@[simp] theorem pendEnable_flash (k e : Nat) : (s.pendEnable k e).flash = s.flash := by unfold State.pendEnable; split <;> rfl
@[simp] theorem pendEnable_status (k e : Nat) : (s.pendEnable k e).status = s.status := by unfold State.pendEnable; split <;> rfl
@[simp] theorem pendEnable_readData (k e : Nat) : (s.pendEnable k e).readData = s.readData := by unfold State.pendEnable; split <;> rfl
@[simp] theorem pendEnable_rods (k e : Nat) : (s.pendEnable k e).rods = s.rods := by unfold State.pendEnable; split <;> rfl
@[simp] theorem pendEnable_mesh (k e : Nat) : (s.pendEnable k e).mesh = s.mesh := by unfold State.pendEnable; split <;> rfl
@[simp] theorem pendEnable_decks (k e : Nat) : (s.pendEnable k e).decks = s.decks := by unfold State.pendEnable; split <;> rfl
@[simp] theorem pendEnable_parts (k e : Nat) : (s.pendEnable k e).parts = s.parts := by unfold State.pendEnable; split <;> rfl
@[simp] theorem pendEnable_ctxs (k e : Nat) : (s.pendEnable k e).ctxs = s.ctxs := by unfold State.pendEnable; split <;> rfl
@[simp] theorem pendEnable_frameOwner (k e : Nat) : (s.pendEnable k e).frameOwner = s.frameOwner := by unfold State.pendEnable; split <;> rfl
@[simp] theorem pendEnable_pairings (k e : Nat) : (s.pendEnable k e).pairings = s.pairings := by unfold State.pendEnable; split <;> rfl
@[simp] theorem pendEnable_harvests (k e : Nat) : (s.pendEnable k e).harvests = s.harvests := by unfold State.pendEnable; split <;> rfl
@[simp] theorem pendEnable_nums (k e : Nat) : (s.pendEnable k e).nums = s.nums := by unfold State.pendEnable; split <;> rfl
@[simp] theorem pendEnable_reck (k e : Nat) : (s.pendEnable k e).reck = s.reck := by unfold State.pendEnable; split <;> rfl
@[simp] theorem pendEnable_cy (k e : Nat) : (s.pendEnable k e).cy = s.cy := by unfold State.pendEnable; split <;> rfl
@[simp] theorem pendEnable_op (k e : Nat) : (s.pendEnable k e).op = s.op := by unfold State.pendEnable; split <;> rfl
@[simp] theorem pendEnable_sv (k e : Nat) : (s.pendEnable k e).sv = s.sv := by unfold State.pendEnable; split <;> rfl
@[simp] theorem pendEnable_st (k e : Nat) : (s.pendEnable k e).st = s.st := by unfold State.pendEnable; split <;> rfl
@[simp] theorem pendEnable_host (k e : Nat) : (s.pendEnable k e).host = s.host := by unfold State.pendEnable; split <;> rfl
@[simp] theorem pendEnable_ring (k e : Nat) : (s.pendEnable k e).ring = s.ring := by unfold State.pendEnable; split <;> rfl
@[simp] theorem pendEnable_mon (k e : Nat) : (s.pendEnable k e).mon = s.mon := by unfold State.pendEnable; split <;> rfl
@[simp] theorem pendEnable_errs (k e : Nat) : (s.pendEnable k e).errs = s.errs := by unfold State.pendEnable; split <;> rfl
@[simp] theorem pendEnable_boot (k e : Nat) : (s.pendEnable k e).boot = s.boot := by unfold State.pendEnable; split <;> rfl

@[simp] theorem pendEnable_rod (k e : Nat) (i : Nat) : (s.pendEnable k e).rod i = s.rod i := by simp [State.rod]
@[simp] theorem pendEnable_part (k e : Nat) (i : Nat) : (s.pendEnable k e).part i = s.part i := by simp [State.part]
@[simp] theorem pendEnable_ctx (k e : Nat) (i j : Nat) : (s.pendEnable k e).ctx i j = s.ctx i j := by simp [State.ctx]
@[simp] theorem pendEnable_pairing (k e : Nat) (i : Nat) : (s.pendEnable k e).pairing i = s.pairing i := by simp [State.pairing]
@[simp] theorem pendEnable_harvest (k e : Nat) (i : Nat) : (s.pendEnable k e).harvest i = s.harvest i := by simp [State.harvest]
@[simp] theorem pendEnable_num (k e : Nat) (i : Nat) : (s.pendEnable k e).num i = s.num i := by simp [State.num]
@[simp] theorem pendEnable_link (k e : Nat) (i : Nat) : (s.pendEnable k e).link i = s.link i := by simp [State.link]
@[simp] theorem pendEnable_group (k e : Nat) (i j : Nat) : (s.pendEnable k e).group i j = s.group i j := by simp [State.group]
@[simp] theorem pendEnable_func (k e : Nat) (i : Nat) : (s.pendEnable k e).func i = s.func i := by simp [State.func]
@[simp] theorem pendEnable_slot (k e : Nat) (i j : Nat) : (s.pendEnable k e).slot i j = s.slot i j := by simp [State.slot]
@[simp] theorem pendEnable_o (k e : Nat) (i : Nat) : (s.pendEnable k e).o i = s.o i := by simp [State.o]
@[simp] theorem pendEnable_blob (k e : Nat) (i j : Nat) : (s.pendEnable k e).blob i j = s.blob i j := by simp [State.blob]
@[simp] theorem pendEnable_owner (k e : Nat) (i : Nat) : (s.pendEnable k e).owner i = s.owner i := by simp [State.owner]
@[simp] theorem pendEnable_stroke (k e : Nat) : (s.pendEnable k e).stroke = s.stroke := by simp [State.stroke, State.o]
@[simp] theorem pendEnable_cycle (k e : Nat) : (s.pendEnable k e).cycle = s.cycle := by simp [State.cycle]
@[simp] theorem pendEnable_resident (k e : Nat) (i : Nat) : (s.pendEnable k e).resident i = s.resident i := by simp [State.resident, State.o]
@[simp] theorem pendEnable_frames (k e : Nat) (i : Nat) : (s.pendEnable k e).frames i = s.frames i := by simp [State.frames, State.o]
@[simp] theorem pendEnable_level (k e : Nat) : (s.pendEnable k e).level = s.level := by simp [State.level]

/-! `msix` -/

@[simp] theorem msix_pending (fn v : Nat) : (s.msix fn v).pending = s.pending := by unfold State.msix; dsimp only; split <;> rfl
@[simp] theorem msix_draws (fn v : Nat) : (s.msix fn v).draws = s.draws := by unfold State.msix; dsimp only; split <;> rfl
@[simp] theorem msix_ns (fn v : Nat) : (s.msix fn v).ns = s.ns := by unfold State.msix; dsimp only; split <;> rfl
@[simp] theorem msix_rodTenths (fn v : Nat) : (s.msix fn v).rodTenths = s.rodTenths := by unfold State.msix; dsimp only; split <;> rfl
@[simp] theorem msix_objs (fn v : Nat) : (s.msix fn v).objs = s.objs := by unfold State.msix; dsimp only; split <;> rfl
@[simp] theorem msix_blobs (fn v : Nat) : (s.msix fn v).blobs = s.blobs := by unfold State.msix; dsimp only; split <;> rfl
@[simp] theorem msix_flash (fn v : Nat) : (s.msix fn v).flash = s.flash := by unfold State.msix; dsimp only; split <;> rfl
@[simp] theorem msix_status (fn v : Nat) : (s.msix fn v).status = s.status := by unfold State.msix; dsimp only; split <;> rfl
@[simp] theorem msix_readData (fn v : Nat) : (s.msix fn v).readData = s.readData := by unfold State.msix; dsimp only; split <;> rfl
@[simp] theorem msix_rods (fn v : Nat) : (s.msix fn v).rods = s.rods := by unfold State.msix; dsimp only; split <;> rfl
@[simp] theorem msix_mesh (fn v : Nat) : (s.msix fn v).mesh = s.mesh := by unfold State.msix; dsimp only; split <;> rfl
@[simp] theorem msix_decks (fn v : Nat) : (s.msix fn v).decks = s.decks := by unfold State.msix; dsimp only; split <;> rfl
@[simp] theorem msix_parts (fn v : Nat) : (s.msix fn v).parts = s.parts := by unfold State.msix; dsimp only; split <;> rfl
@[simp] theorem msix_ctxs (fn v : Nat) : (s.msix fn v).ctxs = s.ctxs := by unfold State.msix; dsimp only; split <;> rfl
@[simp] theorem msix_frameOwner (fn v : Nat) : (s.msix fn v).frameOwner = s.frameOwner := by unfold State.msix; dsimp only; split <;> rfl
@[simp] theorem msix_pairings (fn v : Nat) : (s.msix fn v).pairings = s.pairings := by unfold State.msix; dsimp only; split <;> rfl
@[simp] theorem msix_harvests (fn v : Nat) : (s.msix fn v).harvests = s.harvests := by unfold State.msix; dsimp only; split <;> rfl
@[simp] theorem msix_nums (fn v : Nat) : (s.msix fn v).nums = s.nums := by unfold State.msix; dsimp only; split <;> rfl
@[simp] theorem msix_reck (fn v : Nat) : (s.msix fn v).reck = s.reck := by unfold State.msix; dsimp only; split <;> rfl
@[simp] theorem msix_cy (fn v : Nat) : (s.msix fn v).cy = s.cy := by unfold State.msix; dsimp only; split <;> rfl
@[simp] theorem msix_op (fn v : Nat) : (s.msix fn v).op = s.op := by unfold State.msix; dsimp only; split <;> rfl
@[simp] theorem msix_sv (fn v : Nat) : (s.msix fn v).sv = s.sv := by unfold State.msix; dsimp only; split <;> rfl
@[simp] theorem msix_st (fn v : Nat) : (s.msix fn v).st = s.st := by unfold State.msix; dsimp only; split <;> rfl
@[simp] theorem msix_ring (fn v : Nat) : (s.msix fn v).ring = s.ring := by unfold State.msix; dsimp only; split <;> rfl
@[simp] theorem msix_mon (fn v : Nat) : (s.msix fn v).mon = s.mon := by unfold State.msix; dsimp only; split <;> rfl
@[simp] theorem msix_errs (fn v : Nat) : (s.msix fn v).errs = s.errs := by unfold State.msix; dsimp only; split <;> rfl
@[simp] theorem msix_boot (fn v : Nat) : (s.msix fn v).boot = s.boot := by unfold State.msix; dsimp only; split <;> rfl
@[simp] theorem msix_pend (fn v : Nat) : (s.msix fn v).pend = s.pend := by unfold State.msix; dsimp only; split <;> rfl

@[simp] theorem msix_rod (fn v : Nat) (i : Nat) : (s.msix fn v).rod i = s.rod i := by simp [State.rod]
@[simp] theorem msix_part (fn v : Nat) (i : Nat) : (s.msix fn v).part i = s.part i := by simp [State.part]
@[simp] theorem msix_ctx (fn v : Nat) (i j : Nat) : (s.msix fn v).ctx i j = s.ctx i j := by simp [State.ctx]
@[simp] theorem msix_pairing (fn v : Nat) (i : Nat) : (s.msix fn v).pairing i = s.pairing i := by simp [State.pairing]
@[simp] theorem msix_harvest (fn v : Nat) (i : Nat) : (s.msix fn v).harvest i = s.harvest i := by simp [State.harvest]
@[simp] theorem msix_num (fn v : Nat) (i : Nat) : (s.msix fn v).num i = s.num i := by simp [State.num]
@[simp] theorem msix_link (fn v : Nat) (i : Nat) : (s.msix fn v).link i = s.link i := by simp [State.link]
@[simp] theorem msix_group (fn v : Nat) (i j : Nat) : (s.msix fn v).group i j = s.group i j := by simp [State.group]
@[simp] theorem msix_slot (fn v : Nat) (i j : Nat) : (s.msix fn v).slot i j = s.slot i j := by simp [State.slot]
@[simp] theorem msix_o (fn v : Nat) (i : Nat) : (s.msix fn v).o i = s.o i := by simp [State.o]
@[simp] theorem msix_blob (fn v : Nat) (i j : Nat) : (s.msix fn v).blob i j = s.blob i j := by simp [State.blob]
@[simp] theorem msix_owner (fn v : Nat) (i : Nat) : (s.msix fn v).owner i = s.owner i := by simp [State.owner]
@[simp] theorem msix_stroke (fn v : Nat) : (s.msix fn v).stroke = s.stroke := by simp [State.stroke, State.o]
@[simp] theorem msix_cycle (fn v : Nat) : (s.msix fn v).cycle = s.cycle := by simp [State.cycle]
@[simp] theorem msix_resident (fn v : Nat) (i : Nat) : (s.msix fn v).resident i = s.resident i := by simp [State.resident, State.o]
@[simp] theorem msix_frames (fn v : Nat) (i : Nat) : (s.msix fn v).frames i = s.frames i := by simp [State.frames, State.o]
@[simp] theorem msix_level (fn v : Nat) : (s.msix fn v).level = s.level := by simp [State.level]

/-! `setRunCmd` -/

@[simp] theorem setRunCmd_pending (p : Nat) (f : RunCmd → RunCmd) : (s.setRunCmd p f).pending = s.pending := by unfold State.setRunCmd; split <;> rfl
@[simp] theorem setRunCmd_draws (p : Nat) (f : RunCmd → RunCmd) : (s.setRunCmd p f).draws = s.draws := by unfold State.setRunCmd; split <;> rfl
@[simp] theorem setRunCmd_ns (p : Nat) (f : RunCmd → RunCmd) : (s.setRunCmd p f).ns = s.ns := by unfold State.setRunCmd; split <;> rfl
@[simp] theorem setRunCmd_rodTenths (p : Nat) (f : RunCmd → RunCmd) : (s.setRunCmd p f).rodTenths = s.rodTenths := by unfold State.setRunCmd; split <;> rfl
@[simp] theorem setRunCmd_objs (p : Nat) (f : RunCmd → RunCmd) : (s.setRunCmd p f).objs = s.objs := by unfold State.setRunCmd; split <;> rfl
@[simp] theorem setRunCmd_blobs (p : Nat) (f : RunCmd → RunCmd) : (s.setRunCmd p f).blobs = s.blobs := by unfold State.setRunCmd; split <;> rfl
@[simp] theorem setRunCmd_flash (p : Nat) (f : RunCmd → RunCmd) : (s.setRunCmd p f).flash = s.flash := by unfold State.setRunCmd; split <;> rfl
@[simp] theorem setRunCmd_status (p : Nat) (f : RunCmd → RunCmd) : (s.setRunCmd p f).status = s.status := by unfold State.setRunCmd; split <;> rfl
@[simp] theorem setRunCmd_readData (p : Nat) (f : RunCmd → RunCmd) : (s.setRunCmd p f).readData = s.readData := by unfold State.setRunCmd; split <;> rfl
@[simp] theorem setRunCmd_rods (p : Nat) (f : RunCmd → RunCmd) : (s.setRunCmd p f).rods = s.rods := by unfold State.setRunCmd; split <;> rfl
@[simp] theorem setRunCmd_mesh (p : Nat) (f : RunCmd → RunCmd) : (s.setRunCmd p f).mesh = s.mesh := by unfold State.setRunCmd; split <;> rfl
@[simp] theorem setRunCmd_decks (p : Nat) (f : RunCmd → RunCmd) : (s.setRunCmd p f).decks = s.decks := by unfold State.setRunCmd; split <;> rfl
@[simp] theorem setRunCmd_parts (p : Nat) (f : RunCmd → RunCmd) : (s.setRunCmd p f).parts = s.parts := by unfold State.setRunCmd; split <;> rfl
@[simp] theorem setRunCmd_frameOwner (p : Nat) (f : RunCmd → RunCmd) : (s.setRunCmd p f).frameOwner = s.frameOwner := by unfold State.setRunCmd; split <;> rfl
@[simp] theorem setRunCmd_pairings (p : Nat) (f : RunCmd → RunCmd) : (s.setRunCmd p f).pairings = s.pairings := by unfold State.setRunCmd; split <;> rfl
@[simp] theorem setRunCmd_harvests (p : Nat) (f : RunCmd → RunCmd) : (s.setRunCmd p f).harvests = s.harvests := by unfold State.setRunCmd; split <;> rfl
@[simp] theorem setRunCmd_nums (p : Nat) (f : RunCmd → RunCmd) : (s.setRunCmd p f).nums = s.nums := by unfold State.setRunCmd; split <;> rfl
@[simp] theorem setRunCmd_reck (p : Nat) (f : RunCmd → RunCmd) : (s.setRunCmd p f).reck = s.reck := by unfold State.setRunCmd; split <;> rfl
@[simp] theorem setRunCmd_cy (p : Nat) (f : RunCmd → RunCmd) : (s.setRunCmd p f).cy = s.cy := by unfold State.setRunCmd; split <;> rfl
@[simp] theorem setRunCmd_op (p : Nat) (f : RunCmd → RunCmd) : (s.setRunCmd p f).op = s.op := by unfold State.setRunCmd; split <;> rfl
@[simp] theorem setRunCmd_sv (p : Nat) (f : RunCmd → RunCmd) : (s.setRunCmd p f).sv = s.sv := by unfold State.setRunCmd; split <;> rfl
@[simp] theorem setRunCmd_st (p : Nat) (f : RunCmd → RunCmd) : (s.setRunCmd p f).st = s.st := by unfold State.setRunCmd; split <;> rfl
@[simp] theorem setRunCmd_host (p : Nat) (f : RunCmd → RunCmd) : (s.setRunCmd p f).host = s.host := by unfold State.setRunCmd; split <;> rfl
@[simp] theorem setRunCmd_ring (p : Nat) (f : RunCmd → RunCmd) : (s.setRunCmd p f).ring = s.ring := by unfold State.setRunCmd; split <;> rfl
@[simp] theorem setRunCmd_mon (p : Nat) (f : RunCmd → RunCmd) : (s.setRunCmd p f).mon = s.mon := by unfold State.setRunCmd; split <;> rfl
@[simp] theorem setRunCmd_errs (p : Nat) (f : RunCmd → RunCmd) : (s.setRunCmd p f).errs = s.errs := by unfold State.setRunCmd; split <;> rfl
@[simp] theorem setRunCmd_boot (p : Nat) (f : RunCmd → RunCmd) : (s.setRunCmd p f).boot = s.boot := by unfold State.setRunCmd; split <;> rfl
@[simp] theorem setRunCmd_pend (p : Nat) (f : RunCmd → RunCmd) : (s.setRunCmd p f).pend = s.pend := by unfold State.setRunCmd; split <;> rfl

@[simp] theorem setRunCmd_rod (p : Nat) (f : RunCmd → RunCmd) (i : Nat) : (s.setRunCmd p f).rod i = s.rod i := by simp [State.rod]
@[simp] theorem setRunCmd_part (p : Nat) (f : RunCmd → RunCmd) (i : Nat) : (s.setRunCmd p f).part i = s.part i := by simp [State.part]
@[simp] theorem setRunCmd_pairing (p : Nat) (f : RunCmd → RunCmd) (i : Nat) : (s.setRunCmd p f).pairing i = s.pairing i := by simp [State.pairing]
@[simp] theorem setRunCmd_harvest (p : Nat) (f : RunCmd → RunCmd) (i : Nat) : (s.setRunCmd p f).harvest i = s.harvest i := by simp [State.harvest]
@[simp] theorem setRunCmd_num (p : Nat) (f : RunCmd → RunCmd) (i : Nat) : (s.setRunCmd p f).num i = s.num i := by simp [State.num]
@[simp] theorem setRunCmd_link (p : Nat) (f : RunCmd → RunCmd) (i : Nat) : (s.setRunCmd p f).link i = s.link i := by simp [State.link]
@[simp] theorem setRunCmd_group (p : Nat) (f : RunCmd → RunCmd) (i j : Nat) : (s.setRunCmd p f).group i j = s.group i j := by simp [State.group]
@[simp] theorem setRunCmd_func (p : Nat) (f : RunCmd → RunCmd) (i : Nat) : (s.setRunCmd p f).func i = s.func i := by simp [State.func]
@[simp] theorem setRunCmd_slot (p : Nat) (f : RunCmd → RunCmd) (i j : Nat) : (s.setRunCmd p f).slot i j = s.slot i j := by simp [State.slot]
@[simp] theorem setRunCmd_o (p : Nat) (f : RunCmd → RunCmd) (i : Nat) : (s.setRunCmd p f).o i = s.o i := by simp [State.o]
@[simp] theorem setRunCmd_blob (p : Nat) (f : RunCmd → RunCmd) (i j : Nat) : (s.setRunCmd p f).blob i j = s.blob i j := by simp [State.blob]
@[simp] theorem setRunCmd_owner (p : Nat) (f : RunCmd → RunCmd) (i : Nat) : (s.setRunCmd p f).owner i = s.owner i := by simp [State.owner]
@[simp] theorem setRunCmd_stroke (p : Nat) (f : RunCmd → RunCmd) : (s.setRunCmd p f).stroke = s.stroke := by simp [State.stroke, State.o]
@[simp] theorem setRunCmd_cycle (p : Nat) (f : RunCmd → RunCmd) : (s.setRunCmd p f).cycle = s.cycle := by simp [State.cycle]
@[simp] theorem setRunCmd_resident (p : Nat) (f : RunCmd → RunCmd) (i : Nat) : (s.setRunCmd p f).resident i = s.resident i := by simp [State.resident, State.o]
@[simp] theorem setRunCmd_frames (p : Nat) (f : RunCmd → RunCmd) (i : Nat) : (s.setRunCmd p f).frames i = s.frames i := by simp [State.frames, State.o]
@[simp] theorem setRunCmd_level (p : Nat) (f : RunCmd → RunCmd) : (s.setRunCmd p f).level = s.level := by simp [State.level]

/-! `failRun` -/

@[simp] theorem failRun_pending (p x r : Nat) : (s.failRun p x r).pending = s.pending := by simp [State.failRun]
@[simp] theorem failRun_draws (p x r : Nat) : (s.failRun p x r).draws = s.draws := by simp [State.failRun]
@[simp] theorem failRun_ns (p x r : Nat) : (s.failRun p x r).ns = s.ns := by simp [State.failRun]
@[simp] theorem failRun_rodTenths (p x r : Nat) : (s.failRun p x r).rodTenths = s.rodTenths := by simp [State.failRun]
@[simp] theorem failRun_objs (p x r : Nat) : (s.failRun p x r).objs = s.objs := by simp [State.failRun]
@[simp] theorem failRun_blobs (p x r : Nat) : (s.failRun p x r).blobs = s.blobs := by simp [State.failRun]
@[simp] theorem failRun_flash (p x r : Nat) : (s.failRun p x r).flash = s.flash := by simp [State.failRun]
@[simp] theorem failRun_status (p x r : Nat) : (s.failRun p x r).status = s.status := by simp [State.failRun]
@[simp] theorem failRun_readData (p x r : Nat) : (s.failRun p x r).readData = s.readData := by simp [State.failRun]
@[simp] theorem failRun_rods (p x r : Nat) : (s.failRun p x r).rods = s.rods := by simp [State.failRun]
@[simp] theorem failRun_mesh (p x r : Nat) : (s.failRun p x r).mesh = s.mesh := by simp [State.failRun]
@[simp] theorem failRun_decks (p x r : Nat) : (s.failRun p x r).decks = s.decks := by simp [State.failRun]
@[simp] theorem failRun_parts (p x r : Nat) : (s.failRun p x r).parts = s.parts := by simp [State.failRun]
@[simp] theorem failRun_frameOwner (p x r : Nat) : (s.failRun p x r).frameOwner = s.frameOwner := by simp [State.failRun]
@[simp] theorem failRun_pairings (p x r : Nat) : (s.failRun p x r).pairings = s.pairings := by simp [State.failRun]
@[simp] theorem failRun_harvests (p x r : Nat) : (s.failRun p x r).harvests = s.harvests := by simp [State.failRun]
@[simp] theorem failRun_nums (p x r : Nat) : (s.failRun p x r).nums = s.nums := by simp [State.failRun]
@[simp] theorem failRun_reck (p x r : Nat) : (s.failRun p x r).reck = s.reck := by simp [State.failRun]
@[simp] theorem failRun_cy (p x r : Nat) : (s.failRun p x r).cy = s.cy := by simp [State.failRun]
@[simp] theorem failRun_op (p x r : Nat) : (s.failRun p x r).op = s.op := by simp [State.failRun]
@[simp] theorem failRun_sv (p x r : Nat) : (s.failRun p x r).sv = s.sv := by simp [State.failRun]
@[simp] theorem failRun_st (p x r : Nat) : (s.failRun p x r).st = s.st := by simp [State.failRun]
@[simp] theorem failRun_host (p x r : Nat) : (s.failRun p x r).host = s.host := by simp [State.failRun]
@[simp] theorem failRun_ring (p x r : Nat) : (s.failRun p x r).ring = s.ring := by simp [State.failRun]
@[simp] theorem failRun_mon (p x r : Nat) : (s.failRun p x r).mon = s.mon := by simp [State.failRun]
@[simp] theorem failRun_errs (p x r : Nat) : (s.failRun p x r).errs = s.errs := by simp [State.failRun]
@[simp] theorem failRun_boot (p x r : Nat) : (s.failRun p x r).boot = s.boot := by simp [State.failRun]
@[simp] theorem failRun_pend (p x r : Nat) : (s.failRun p x r).pend = s.pend := by simp [State.failRun]

@[simp] theorem failRun_rod (p x r : Nat) (i : Nat) : (s.failRun p x r).rod i = s.rod i := by simp [State.rod]
@[simp] theorem failRun_part (p x r : Nat) (i : Nat) : (s.failRun p x r).part i = s.part i := by simp [State.part]
@[simp] theorem failRun_pairing (p x r : Nat) (i : Nat) : (s.failRun p x r).pairing i = s.pairing i := by simp [State.pairing]
@[simp] theorem failRun_harvest (p x r : Nat) (i : Nat) : (s.failRun p x r).harvest i = s.harvest i := by simp [State.harvest]
@[simp] theorem failRun_num (p x r : Nat) (i : Nat) : (s.failRun p x r).num i = s.num i := by simp [State.num]
@[simp] theorem failRun_link (p x r : Nat) (i : Nat) : (s.failRun p x r).link i = s.link i := by simp [State.link]
@[simp] theorem failRun_group (p x r : Nat) (i j : Nat) : (s.failRun p x r).group i j = s.group i j := by simp [State.group]
@[simp] theorem failRun_func (p x r : Nat) (i : Nat) : (s.failRun p x r).func i = s.func i := by simp [State.func]
@[simp] theorem failRun_slot (p x r : Nat) (i j : Nat) : (s.failRun p x r).slot i j = s.slot i j := by simp [State.slot]
@[simp] theorem failRun_o (p x r : Nat) (i : Nat) : (s.failRun p x r).o i = s.o i := by simp [State.o]
@[simp] theorem failRun_blob (p x r : Nat) (i j : Nat) : (s.failRun p x r).blob i j = s.blob i j := by simp [State.blob]
@[simp] theorem failRun_owner (p x r : Nat) (i : Nat) : (s.failRun p x r).owner i = s.owner i := by simp [State.owner]
@[simp] theorem failRun_stroke (p x r : Nat) : (s.failRun p x r).stroke = s.stroke := by simp [State.stroke, State.o]
@[simp] theorem failRun_cycle (p x r : Nat) : (s.failRun p x r).cycle = s.cycle := by simp [State.cycle]
@[simp] theorem failRun_resident (p x r : Nat) (i : Nat) : (s.failRun p x r).resident i = s.resident i := by simp [State.resident, State.o]
@[simp] theorem failRun_frames (p x r : Nat) (i : Nat) : (s.failRun p x r).frames i = s.frames i := by simp [State.frames, State.o]
@[simp] theorem failRun_level (p x r : Nat) : (s.failRun p x r).level = s.level := by simp [State.level]

/-! `orNsw` -/

@[simp] theorem orNsw_pending (p : Nat) (w : Nsw) : (s.orNsw p w).pending = s.pending := by simp [State.orNsw]
@[simp] theorem orNsw_draws (p : Nat) (w : Nsw) : (s.orNsw p w).draws = s.draws := by simp [State.orNsw]
@[simp] theorem orNsw_ns (p : Nat) (w : Nsw) : (s.orNsw p w).ns = s.ns := by simp [State.orNsw]
@[simp] theorem orNsw_rodTenths (p : Nat) (w : Nsw) : (s.orNsw p w).rodTenths = s.rodTenths := by simp [State.orNsw]
@[simp] theorem orNsw_objs (p : Nat) (w : Nsw) : (s.orNsw p w).objs = s.objs := by simp [State.orNsw]
@[simp] theorem orNsw_blobs (p : Nat) (w : Nsw) : (s.orNsw p w).blobs = s.blobs := by simp [State.orNsw]
@[simp] theorem orNsw_flash (p : Nat) (w : Nsw) : (s.orNsw p w).flash = s.flash := by simp [State.orNsw]
@[simp] theorem orNsw_status (p : Nat) (w : Nsw) : (s.orNsw p w).status = s.status := by simp [State.orNsw]
@[simp] theorem orNsw_readData (p : Nat) (w : Nsw) : (s.orNsw p w).readData = s.readData := by simp [State.orNsw]
@[simp] theorem orNsw_rods (p : Nat) (w : Nsw) : (s.orNsw p w).rods = s.rods := by simp [State.orNsw]
@[simp] theorem orNsw_mesh (p : Nat) (w : Nsw) : (s.orNsw p w).mesh = s.mesh := by simp [State.orNsw]
@[simp] theorem orNsw_decks (p : Nat) (w : Nsw) : (s.orNsw p w).decks = s.decks := by simp [State.orNsw]
@[simp] theorem orNsw_parts (p : Nat) (w : Nsw) : (s.orNsw p w).parts = s.parts := by simp [State.orNsw]
@[simp] theorem orNsw_frameOwner (p : Nat) (w : Nsw) : (s.orNsw p w).frameOwner = s.frameOwner := by simp [State.orNsw]
@[simp] theorem orNsw_pairings (p : Nat) (w : Nsw) : (s.orNsw p w).pairings = s.pairings := by simp [State.orNsw]
@[simp] theorem orNsw_harvests (p : Nat) (w : Nsw) : (s.orNsw p w).harvests = s.harvests := by simp [State.orNsw]
@[simp] theorem orNsw_nums (p : Nat) (w : Nsw) : (s.orNsw p w).nums = s.nums := by simp [State.orNsw]
@[simp] theorem orNsw_reck (p : Nat) (w : Nsw) : (s.orNsw p w).reck = s.reck := by simp [State.orNsw]
@[simp] theorem orNsw_cy (p : Nat) (w : Nsw) : (s.orNsw p w).cy = s.cy := by simp [State.orNsw]
@[simp] theorem orNsw_op (p : Nat) (w : Nsw) : (s.orNsw p w).op = s.op := by simp [State.orNsw]
@[simp] theorem orNsw_sv (p : Nat) (w : Nsw) : (s.orNsw p w).sv = s.sv := by simp [State.orNsw]
@[simp] theorem orNsw_st (p : Nat) (w : Nsw) : (s.orNsw p w).st = s.st := by simp [State.orNsw]
@[simp] theorem orNsw_host (p : Nat) (w : Nsw) : (s.orNsw p w).host = s.host := by simp [State.orNsw]
@[simp] theorem orNsw_ring (p : Nat) (w : Nsw) : (s.orNsw p w).ring = s.ring := by simp [State.orNsw]
@[simp] theorem orNsw_mon (p : Nat) (w : Nsw) : (s.orNsw p w).mon = s.mon := by simp [State.orNsw]
@[simp] theorem orNsw_errs (p : Nat) (w : Nsw) : (s.orNsw p w).errs = s.errs := by simp [State.orNsw]
@[simp] theorem orNsw_boot (p : Nat) (w : Nsw) : (s.orNsw p w).boot = s.boot := by simp [State.orNsw]
@[simp] theorem orNsw_pend (p : Nat) (w : Nsw) : (s.orNsw p w).pend = s.pend := by simp [State.orNsw]

@[simp] theorem orNsw_rod (p : Nat) (w : Nsw) (i : Nat) : (s.orNsw p w).rod i = s.rod i := by simp [State.rod]
@[simp] theorem orNsw_part (p : Nat) (w : Nsw) (i : Nat) : (s.orNsw p w).part i = s.part i := by simp [State.part]
@[simp] theorem orNsw_pairing (p : Nat) (w : Nsw) (i : Nat) : (s.orNsw p w).pairing i = s.pairing i := by simp [State.pairing]
@[simp] theorem orNsw_harvest (p : Nat) (w : Nsw) (i : Nat) : (s.orNsw p w).harvest i = s.harvest i := by simp [State.harvest]
@[simp] theorem orNsw_num (p : Nat) (w : Nsw) (i : Nat) : (s.orNsw p w).num i = s.num i := by simp [State.num]
@[simp] theorem orNsw_link (p : Nat) (w : Nsw) (i : Nat) : (s.orNsw p w).link i = s.link i := by simp [State.link]
@[simp] theorem orNsw_group (p : Nat) (w : Nsw) (i j : Nat) : (s.orNsw p w).group i j = s.group i j := by simp [State.group]
@[simp] theorem orNsw_func (p : Nat) (w : Nsw) (i : Nat) : (s.orNsw p w).func i = s.func i := by simp [State.func]
@[simp] theorem orNsw_slot (p : Nat) (w : Nsw) (i j : Nat) : (s.orNsw p w).slot i j = s.slot i j := by simp [State.slot]
@[simp] theorem orNsw_o (p : Nat) (w : Nsw) (i : Nat) : (s.orNsw p w).o i = s.o i := by simp [State.o]
@[simp] theorem orNsw_blob (p : Nat) (w : Nsw) (i j : Nat) : (s.orNsw p w).blob i j = s.blob i j := by simp [State.blob]
@[simp] theorem orNsw_owner (p : Nat) (w : Nsw) (i : Nat) : (s.orNsw p w).owner i = s.owner i := by simp [State.owner]
@[simp] theorem orNsw_stroke (p : Nat) (w : Nsw) : (s.orNsw p w).stroke = s.stroke := by simp [State.stroke, State.o]
@[simp] theorem orNsw_cycle (p : Nat) (w : Nsw) : (s.orNsw p w).cycle = s.cycle := by simp [State.cycle]
@[simp] theorem orNsw_resident (p : Nat) (w : Nsw) (i : Nat) : (s.orNsw p w).resident i = s.resident i := by simp [State.resident, State.o]
@[simp] theorem orNsw_frames (p : Nat) (w : Nsw) (i : Nat) : (s.orNsw p w).frames i = s.frames i := by simp [State.frames, State.o]
@[simp] theorem orNsw_level (p : Nat) (w : Nsw) : (s.orNsw p w).level = s.level := by simp [State.level]

/-! `errStore` -/

@[simp] theorem errStore_pending (r : ErrRec) : (s.errStore r).pending = s.pending := rfl
@[simp] theorem errStore_draws (r : ErrRec) : (s.errStore r).draws = s.draws := rfl
@[simp] theorem errStore_ns (r : ErrRec) : (s.errStore r).ns = s.ns := rfl
@[simp] theorem errStore_rodTenths (r : ErrRec) : (s.errStore r).rodTenths = s.rodTenths := rfl
@[simp] theorem errStore_objs (r : ErrRec) : (s.errStore r).objs = s.objs := rfl
@[simp] theorem errStore_blobs (r : ErrRec) : (s.errStore r).blobs = s.blobs := rfl
@[simp] theorem errStore_flash (r : ErrRec) : (s.errStore r).flash = s.flash := rfl
@[simp] theorem errStore_status (r : ErrRec) : (s.errStore r).status = s.status := rfl
@[simp] theorem errStore_readData (r : ErrRec) : (s.errStore r).readData = s.readData := rfl
@[simp] theorem errStore_rods (r : ErrRec) : (s.errStore r).rods = s.rods := rfl
@[simp] theorem errStore_mesh (r : ErrRec) : (s.errStore r).mesh = s.mesh := rfl
@[simp] theorem errStore_decks (r : ErrRec) : (s.errStore r).decks = s.decks := rfl
@[simp] theorem errStore_parts (r : ErrRec) : (s.errStore r).parts = s.parts := rfl
@[simp] theorem errStore_ctxs (r : ErrRec) : (s.errStore r).ctxs = s.ctxs := rfl
@[simp] theorem errStore_frameOwner (r : ErrRec) : (s.errStore r).frameOwner = s.frameOwner := rfl
@[simp] theorem errStore_pairings (r : ErrRec) : (s.errStore r).pairings = s.pairings := rfl
@[simp] theorem errStore_harvests (r : ErrRec) : (s.errStore r).harvests = s.harvests := rfl
@[simp] theorem errStore_nums (r : ErrRec) : (s.errStore r).nums = s.nums := rfl
@[simp] theorem errStore_reck (r : ErrRec) : (s.errStore r).reck = s.reck := rfl
@[simp] theorem errStore_cy (r : ErrRec) : (s.errStore r).cy = s.cy := rfl
@[simp] theorem errStore_op (r : ErrRec) : (s.errStore r).op = s.op := rfl
@[simp] theorem errStore_sv (r : ErrRec) : (s.errStore r).sv = s.sv := rfl
@[simp] theorem errStore_st (r : ErrRec) : (s.errStore r).st = s.st := rfl
@[simp] theorem errStore_host (r : ErrRec) : (s.errStore r).host = s.host := rfl
@[simp] theorem errStore_ring (r : ErrRec) : (s.errStore r).ring = s.ring := rfl
@[simp] theorem errStore_mon (r : ErrRec) : (s.errStore r).mon = s.mon := rfl
@[simp] theorem errStore_boot (r : ErrRec) : (s.errStore r).boot = s.boot := rfl
@[simp] theorem errStore_pend (r : ErrRec) : (s.errStore r).pend = s.pend := rfl

@[simp] theorem errStore_rod (r : ErrRec) (i : Nat) : (s.errStore r).rod i = s.rod i := rfl
@[simp] theorem errStore_part (r : ErrRec) (i : Nat) : (s.errStore r).part i = s.part i := rfl
@[simp] theorem errStore_ctx (r : ErrRec) (i j : Nat) : (s.errStore r).ctx i j = s.ctx i j := rfl
@[simp] theorem errStore_pairing (r : ErrRec) (i : Nat) : (s.errStore r).pairing i = s.pairing i := rfl
@[simp] theorem errStore_harvest (r : ErrRec) (i : Nat) : (s.errStore r).harvest i = s.harvest i := rfl
@[simp] theorem errStore_num (r : ErrRec) (i : Nat) : (s.errStore r).num i = s.num i := rfl
@[simp] theorem errStore_link (r : ErrRec) (i : Nat) : (s.errStore r).link i = s.link i := rfl
@[simp] theorem errStore_group (r : ErrRec) (i j : Nat) : (s.errStore r).group i j = s.group i j := rfl
@[simp] theorem errStore_func (r : ErrRec) (i : Nat) : (s.errStore r).func i = s.func i := rfl
@[simp] theorem errStore_slot (r : ErrRec) (i j : Nat) : (s.errStore r).slot i j = s.slot i j := rfl
@[simp] theorem errStore_o (r : ErrRec) (i : Nat) : (s.errStore r).o i = s.o i := rfl
@[simp] theorem errStore_blob (r : ErrRec) (i j : Nat) : (s.errStore r).blob i j = s.blob i j := rfl
@[simp] theorem errStore_owner (r : ErrRec) (i : Nat) : (s.errStore r).owner i = s.owner i := rfl
@[simp] theorem errStore_stroke (r : ErrRec) : (s.errStore r).stroke = s.stroke := rfl
@[simp] theorem errStore_cycle (r : ErrRec) : (s.errStore r).cycle = s.cycle := rfl
@[simp] theorem errStore_resident (r : ErrRec) (i : Nat) : (s.errStore r).resident i = s.resident i := rfl
@[simp] theorem errStore_frames (r : ErrRec) (i : Nat) : (s.errStore r).frames i = s.frames i := rfl
@[simp] theorem errStore_level (r : ErrRec) : (s.errStore r).level = s.level := rfl

/-! `errPart` -/

@[simp] theorem errPart_pending (r : ErrRec) : (s.errPart r).pending = s.pending := by unfold State.errPart; split <;> rfl
@[simp] theorem errPart_draws (r : ErrRec) : (s.errPart r).draws = s.draws := by unfold State.errPart; split <;> rfl
@[simp] theorem errPart_ns (r : ErrRec) : (s.errPart r).ns = s.ns := by unfold State.errPart; split <;> rfl
@[simp] theorem errPart_rodTenths (r : ErrRec) : (s.errPart r).rodTenths = s.rodTenths := by unfold State.errPart; split <;> rfl
@[simp] theorem errPart_blobs (r : ErrRec) : (s.errPart r).blobs = s.blobs := by unfold State.errPart; split <;> rfl
@[simp] theorem errPart_flash (r : ErrRec) : (s.errPart r).flash = s.flash := by unfold State.errPart; split <;> rfl
@[simp] theorem errPart_status (r : ErrRec) : (s.errPart r).status = s.status := by unfold State.errPart; split <;> rfl
@[simp] theorem errPart_readData (r : ErrRec) : (s.errPart r).readData = s.readData := by unfold State.errPart; split <;> rfl
@[simp] theorem errPart_rods (r : ErrRec) : (s.errPart r).rods = s.rods := by unfold State.errPart; split <;> rfl
@[simp] theorem errPart_mesh (r : ErrRec) : (s.errPart r).mesh = s.mesh := by unfold State.errPart; split <;> rfl
@[simp] theorem errPart_decks (r : ErrRec) : (s.errPart r).decks = s.decks := by unfold State.errPart; split <;> rfl
@[simp] theorem errPart_parts (r : ErrRec) : (s.errPart r).parts = s.parts := by unfold State.errPart; split <;> rfl
@[simp] theorem errPart_ctxs (r : ErrRec) : (s.errPart r).ctxs = s.ctxs := by unfold State.errPart; split <;> rfl
@[simp] theorem errPart_frameOwner (r : ErrRec) : (s.errPart r).frameOwner = s.frameOwner := by unfold State.errPart; split <;> rfl
@[simp] theorem errPart_pairings (r : ErrRec) : (s.errPart r).pairings = s.pairings := by unfold State.errPart; split <;> rfl
@[simp] theorem errPart_harvests (r : ErrRec) : (s.errPart r).harvests = s.harvests := by unfold State.errPart; split <;> rfl
@[simp] theorem errPart_nums (r : ErrRec) : (s.errPart r).nums = s.nums := by unfold State.errPart; split <;> rfl
@[simp] theorem errPart_reck (r : ErrRec) : (s.errPart r).reck = s.reck := by unfold State.errPart; split <;> rfl
@[simp] theorem errPart_cy (r : ErrRec) : (s.errPart r).cy = s.cy := by unfold State.errPart; split <;> rfl
@[simp] theorem errPart_op (r : ErrRec) : (s.errPart r).op = s.op := by unfold State.errPart; split <;> rfl
@[simp] theorem errPart_sv (r : ErrRec) : (s.errPart r).sv = s.sv := by unfold State.errPart; split <;> rfl
@[simp] theorem errPart_st (r : ErrRec) : (s.errPart r).st = s.st := by unfold State.errPart; split <;> rfl
@[simp] theorem errPart_host (r : ErrRec) : (s.errPart r).host = s.host := by unfold State.errPart; split <;> rfl
@[simp] theorem errPart_ring (r : ErrRec) : (s.errPart r).ring = s.ring := by unfold State.errPart; split <;> rfl
@[simp] theorem errPart_mon (r : ErrRec) : (s.errPart r).mon = s.mon := by unfold State.errPart; split <;> rfl
@[simp] theorem errPart_errs (r : ErrRec) : (s.errPart r).errs = s.errs := by unfold State.errPart; split <;> rfl
@[simp] theorem errPart_boot (r : ErrRec) : (s.errPart r).boot = s.boot := by unfold State.errPart; split <;> rfl
@[simp] theorem errPart_pend (r : ErrRec) : (s.errPart r).pend = s.pend := by unfold State.errPart; split <;> rfl

@[simp] theorem errPart_rod (r : ErrRec) (i : Nat) : (s.errPart r).rod i = s.rod i := by simp [State.rod]
@[simp] theorem errPart_part (r : ErrRec) (i : Nat) : (s.errPart r).part i = s.part i := by simp [State.part]
@[simp] theorem errPart_ctx (r : ErrRec) (i j : Nat) : (s.errPart r).ctx i j = s.ctx i j := by simp [State.ctx]
@[simp] theorem errPart_pairing (r : ErrRec) (i : Nat) : (s.errPart r).pairing i = s.pairing i := by simp [State.pairing]
@[simp] theorem errPart_harvest (r : ErrRec) (i : Nat) : (s.errPart r).harvest i = s.harvest i := by simp [State.harvest]
@[simp] theorem errPart_num (r : ErrRec) (i : Nat) : (s.errPart r).num i = s.num i := by simp [State.num]
@[simp] theorem errPart_link (r : ErrRec) (i : Nat) : (s.errPart r).link i = s.link i := by simp [State.link]
@[simp] theorem errPart_group (r : ErrRec) (i j : Nat) : (s.errPart r).group i j = s.group i j := by simp [State.group]
@[simp] theorem errPart_func (r : ErrRec) (i : Nat) : (s.errPart r).func i = s.func i := by simp [State.func]
@[simp] theorem errPart_slot (r : ErrRec) (i j : Nat) : (s.errPart r).slot i j = s.slot i j := by simp [State.slot]
@[simp] theorem errPart_blob (r : ErrRec) (i j : Nat) : (s.errPart r).blob i j = s.blob i j := by simp [State.blob]
@[simp] theorem errPart_owner (r : ErrRec) (i : Nat) : (s.errPart r).owner i = s.owner i := by simp [State.owner]
@[simp] theorem errPart_cycle (r : ErrRec) : (s.errPart r).cycle = s.cycle := by simp [State.cycle]
@[simp] theorem errPart_level (r : ErrRec) : (s.errPart r).level = s.level := by simp [State.level]

/-! `errWatch` -/

@[simp] theorem errWatch_pending (r : ErrRec) : (s.errWatch r).pending = s.pending := by unfold State.errWatch; split <;> rfl
@[simp] theorem errWatch_draws (r : ErrRec) : (s.errWatch r).draws = s.draws := by unfold State.errWatch; split <;> rfl
@[simp] theorem errWatch_ns (r : ErrRec) : (s.errWatch r).ns = s.ns := by unfold State.errWatch; split <;> rfl
@[simp] theorem errWatch_rodTenths (r : ErrRec) : (s.errWatch r).rodTenths = s.rodTenths := by unfold State.errWatch; split <;> rfl
@[simp] theorem errWatch_objs (r : ErrRec) : (s.errWatch r).objs = s.objs := by unfold State.errWatch; split <;> rfl
@[simp] theorem errWatch_blobs (r : ErrRec) : (s.errWatch r).blobs = s.blobs := by unfold State.errWatch; split <;> rfl
@[simp] theorem errWatch_flash (r : ErrRec) : (s.errWatch r).flash = s.flash := by unfold State.errWatch; split <;> rfl
@[simp] theorem errWatch_status (r : ErrRec) : (s.errWatch r).status = s.status := by unfold State.errWatch; split <;> rfl
@[simp] theorem errWatch_readData (r : ErrRec) : (s.errWatch r).readData = s.readData := by unfold State.errWatch; split <;> rfl
@[simp] theorem errWatch_rods (r : ErrRec) : (s.errWatch r).rods = s.rods := by unfold State.errWatch; split <;> rfl
@[simp] theorem errWatch_mesh (r : ErrRec) : (s.errWatch r).mesh = s.mesh := by unfold State.errWatch; split <;> rfl
@[simp] theorem errWatch_decks (r : ErrRec) : (s.errWatch r).decks = s.decks := by unfold State.errWatch; split <;> rfl
@[simp] theorem errWatch_parts (r : ErrRec) : (s.errWatch r).parts = s.parts := by unfold State.errWatch; split <;> rfl
@[simp] theorem errWatch_ctxs (r : ErrRec) : (s.errWatch r).ctxs = s.ctxs := by unfold State.errWatch; split <;> rfl
@[simp] theorem errWatch_frameOwner (r : ErrRec) : (s.errWatch r).frameOwner = s.frameOwner := by unfold State.errWatch; split <;> rfl
@[simp] theorem errWatch_pairings (r : ErrRec) : (s.errWatch r).pairings = s.pairings := by unfold State.errWatch; split <;> rfl
@[simp] theorem errWatch_harvests (r : ErrRec) : (s.errWatch r).harvests = s.harvests := by unfold State.errWatch; split <;> rfl
@[simp] theorem errWatch_nums (r : ErrRec) : (s.errWatch r).nums = s.nums := by unfold State.errWatch; split <;> rfl
@[simp] theorem errWatch_reck (r : ErrRec) : (s.errWatch r).reck = s.reck := by unfold State.errWatch; split <;> rfl
@[simp] theorem errWatch_cy (r : ErrRec) : (s.errWatch r).cy = s.cy := by unfold State.errWatch; split <;> rfl
@[simp] theorem errWatch_op (r : ErrRec) : (s.errWatch r).op = s.op := by unfold State.errWatch; split <;> rfl
@[simp] theorem errWatch_sv (r : ErrRec) : (s.errWatch r).sv = s.sv := by unfold State.errWatch; split <;> rfl
@[simp] theorem errWatch_st (r : ErrRec) : (s.errWatch r).st = s.st := by unfold State.errWatch; split <;> rfl
@[simp] theorem errWatch_host (r : ErrRec) : (s.errWatch r).host = s.host := by unfold State.errWatch; split <;> rfl
@[simp] theorem errWatch_ring (r : ErrRec) : (s.errWatch r).ring = s.ring := by unfold State.errWatch; split <;> rfl
@[simp] theorem errWatch_errs (r : ErrRec) : (s.errWatch r).errs = s.errs := by unfold State.errWatch; split <;> rfl
@[simp] theorem errWatch_boot (r : ErrRec) : (s.errWatch r).boot = s.boot := by unfold State.errWatch; split <;> rfl
@[simp] theorem errWatch_pend (r : ErrRec) : (s.errWatch r).pend = s.pend := by unfold State.errWatch; split <;> rfl

@[simp] theorem errWatch_rod (r : ErrRec) (i : Nat) : (s.errWatch r).rod i = s.rod i := by simp [State.rod]
@[simp] theorem errWatch_part (r : ErrRec) (i : Nat) : (s.errWatch r).part i = s.part i := by simp [State.part]
@[simp] theorem errWatch_ctx (r : ErrRec) (i j : Nat) : (s.errWatch r).ctx i j = s.ctx i j := by simp [State.ctx]
@[simp] theorem errWatch_pairing (r : ErrRec) (i : Nat) : (s.errWatch r).pairing i = s.pairing i := by simp [State.pairing]
@[simp] theorem errWatch_harvest (r : ErrRec) (i : Nat) : (s.errWatch r).harvest i = s.harvest i := by simp [State.harvest]
@[simp] theorem errWatch_num (r : ErrRec) (i : Nat) : (s.errWatch r).num i = s.num i := by simp [State.num]
@[simp] theorem errWatch_link (r : ErrRec) (i : Nat) : (s.errWatch r).link i = s.link i := by simp [State.link]
@[simp] theorem errWatch_group (r : ErrRec) (i j : Nat) : (s.errWatch r).group i j = s.group i j := by simp [State.group]
@[simp] theorem errWatch_func (r : ErrRec) (i : Nat) : (s.errWatch r).func i = s.func i := by simp [State.func]
@[simp] theorem errWatch_slot (r : ErrRec) (i j : Nat) : (s.errWatch r).slot i j = s.slot i j := by simp [State.slot]
@[simp] theorem errWatch_o (r : ErrRec) (i : Nat) : (s.errWatch r).o i = s.o i := by simp [State.o]
@[simp] theorem errWatch_blob (r : ErrRec) (i j : Nat) : (s.errWatch r).blob i j = s.blob i j := by simp [State.blob]
@[simp] theorem errWatch_owner (r : ErrRec) (i : Nat) : (s.errWatch r).owner i = s.owner i := by simp [State.owner]
@[simp] theorem errWatch_stroke (r : ErrRec) : (s.errWatch r).stroke = s.stroke := by simp [State.stroke, State.o]
@[simp] theorem errWatch_cycle (r : ErrRec) : (s.errWatch r).cycle = s.cycle := by simp [State.cycle]
@[simp] theorem errWatch_resident (r : ErrRec) (i : Nat) : (s.errWatch r).resident i = s.resident i := by simp [State.resident, State.o]
@[simp] theorem errWatch_frames (r : ErrRec) (i : Nat) : (s.errWatch r).frames i = s.frames i := by simp [State.frames, State.o]
@[simp] theorem errWatch_level (r : ErrRec) : (s.errWatch r).level = s.level := by simp [State.level]

/-! `errSignal` -/

@[simp] theorem errSignal_pending (r : ErrRec) : (s.errSignal r).pending = s.pending := by unfold State.errSignal; split <;> simp
@[simp] theorem errSignal_draws (r : ErrRec) : (s.errSignal r).draws = s.draws := by unfold State.errSignal; split <;> simp
@[simp] theorem errSignal_ns (r : ErrRec) : (s.errSignal r).ns = s.ns := by unfold State.errSignal; split <;> simp
@[simp] theorem errSignal_rodTenths (r : ErrRec) : (s.errSignal r).rodTenths = s.rodTenths := by unfold State.errSignal; split <;> simp
@[simp] theorem errSignal_objs (r : ErrRec) : (s.errSignal r).objs = s.objs := by unfold State.errSignal; split <;> simp
@[simp] theorem errSignal_blobs (r : ErrRec) : (s.errSignal r).blobs = s.blobs := by unfold State.errSignal; split <;> simp
@[simp] theorem errSignal_flash (r : ErrRec) : (s.errSignal r).flash = s.flash := by unfold State.errSignal; split <;> simp
@[simp] theorem errSignal_status (r : ErrRec) : (s.errSignal r).status = s.status := by unfold State.errSignal; split <;> simp
@[simp] theorem errSignal_readData (r : ErrRec) : (s.errSignal r).readData = s.readData := by unfold State.errSignal; split <;> simp
@[simp] theorem errSignal_rods (r : ErrRec) : (s.errSignal r).rods = s.rods := by unfold State.errSignal; split <;> simp
@[simp] theorem errSignal_mesh (r : ErrRec) : (s.errSignal r).mesh = s.mesh := by unfold State.errSignal; split <;> simp
@[simp] theorem errSignal_decks (r : ErrRec) : (s.errSignal r).decks = s.decks := by unfold State.errSignal; split <;> simp
@[simp] theorem errSignal_parts (r : ErrRec) : (s.errSignal r).parts = s.parts := by unfold State.errSignal; split <;> simp
@[simp] theorem errSignal_ctxs (r : ErrRec) : (s.errSignal r).ctxs = s.ctxs := by unfold State.errSignal; split <;> simp
@[simp] theorem errSignal_frameOwner (r : ErrRec) : (s.errSignal r).frameOwner = s.frameOwner := by unfold State.errSignal; split <;> simp
@[simp] theorem errSignal_pairings (r : ErrRec) : (s.errSignal r).pairings = s.pairings := by unfold State.errSignal; split <;> simp
@[simp] theorem errSignal_harvests (r : ErrRec) : (s.errSignal r).harvests = s.harvests := by unfold State.errSignal; split <;> simp
@[simp] theorem errSignal_nums (r : ErrRec) : (s.errSignal r).nums = s.nums := by unfold State.errSignal; split <;> simp
@[simp] theorem errSignal_reck (r : ErrRec) : (s.errSignal r).reck = s.reck := by unfold State.errSignal; split <;> simp
@[simp] theorem errSignal_cy (r : ErrRec) : (s.errSignal r).cy = s.cy := by unfold State.errSignal; split <;> simp
@[simp] theorem errSignal_op (r : ErrRec) : (s.errSignal r).op = s.op := by unfold State.errSignal; split <;> simp
@[simp] theorem errSignal_sv (r : ErrRec) : (s.errSignal r).sv = s.sv := by unfold State.errSignal; split <;> simp
@[simp] theorem errSignal_st (r : ErrRec) : (s.errSignal r).st = s.st := by unfold State.errSignal; split <;> simp
@[simp] theorem errSignal_ring (r : ErrRec) : (s.errSignal r).ring = s.ring := by unfold State.errSignal; split <;> simp
@[simp] theorem errSignal_mon (r : ErrRec) : (s.errSignal r).mon = s.mon := by unfold State.errSignal; split <;> simp
@[simp] theorem errSignal_errs (r : ErrRec) : (s.errSignal r).errs = s.errs := by unfold State.errSignal; split <;> simp
@[simp] theorem errSignal_boot (r : ErrRec) : (s.errSignal r).boot = s.boot := by unfold State.errSignal; split <;> simp
@[simp] theorem errSignal_pend (r : ErrRec) : (s.errSignal r).pend = s.pend := by unfold State.errSignal; split <;> simp

@[simp] theorem errSignal_rod (r : ErrRec) (i : Nat) : (s.errSignal r).rod i = s.rod i := by simp [State.rod]
@[simp] theorem errSignal_part (r : ErrRec) (i : Nat) : (s.errSignal r).part i = s.part i := by simp [State.part]
@[simp] theorem errSignal_ctx (r : ErrRec) (i j : Nat) : (s.errSignal r).ctx i j = s.ctx i j := by simp [State.ctx]
@[simp] theorem errSignal_pairing (r : ErrRec) (i : Nat) : (s.errSignal r).pairing i = s.pairing i := by simp [State.pairing]
@[simp] theorem errSignal_harvest (r : ErrRec) (i : Nat) : (s.errSignal r).harvest i = s.harvest i := by simp [State.harvest]
@[simp] theorem errSignal_num (r : ErrRec) (i : Nat) : (s.errSignal r).num i = s.num i := by simp [State.num]
@[simp] theorem errSignal_link (r : ErrRec) (i : Nat) : (s.errSignal r).link i = s.link i := by simp [State.link]
@[simp] theorem errSignal_group (r : ErrRec) (i j : Nat) : (s.errSignal r).group i j = s.group i j := by simp [State.group]
@[simp] theorem errSignal_slot (r : ErrRec) (i j : Nat) : (s.errSignal r).slot i j = s.slot i j := by simp [State.slot]
@[simp] theorem errSignal_o (r : ErrRec) (i : Nat) : (s.errSignal r).o i = s.o i := by simp [State.o]
@[simp] theorem errSignal_blob (r : ErrRec) (i j : Nat) : (s.errSignal r).blob i j = s.blob i j := by simp [State.blob]
@[simp] theorem errSignal_owner (r : ErrRec) (i : Nat) : (s.errSignal r).owner i = s.owner i := by simp [State.owner]
@[simp] theorem errSignal_stroke (r : ErrRec) : (s.errSignal r).stroke = s.stroke := by simp [State.stroke, State.o]
@[simp] theorem errSignal_cycle (r : ErrRec) : (s.errSignal r).cycle = s.cycle := by simp [State.cycle]
@[simp] theorem errSignal_resident (r : ErrRec) (i : Nat) : (s.errSignal r).resident i = s.resident i := by simp [State.resident, State.o]
@[simp] theorem errSignal_frames (r : ErrRec) (i : Nat) : (s.errSignal r).frames i = s.frames i := by simp [State.frames, State.o]
@[simp] theorem errSignal_level (r : ErrRec) : (s.errSignal r).level = s.level := by simp [State.level]

/-! `errRec` -/

@[simp] theorem errRec_pending (r : ErrRec) : (s.errRec r).pending = s.pending := by simp [State.errRec]
@[simp] theorem errRec_draws (r : ErrRec) : (s.errRec r).draws = s.draws := by simp [State.errRec]
@[simp] theorem errRec_ns (r : ErrRec) : (s.errRec r).ns = s.ns := by simp [State.errRec]
@[simp] theorem errRec_rodTenths (r : ErrRec) : (s.errRec r).rodTenths = s.rodTenths := by simp [State.errRec]
@[simp] theorem errRec_blobs (r : ErrRec) : (s.errRec r).blobs = s.blobs := by simp [State.errRec]
@[simp] theorem errRec_flash (r : ErrRec) : (s.errRec r).flash = s.flash := by simp [State.errRec]
@[simp] theorem errRec_status (r : ErrRec) : (s.errRec r).status = s.status := by simp [State.errRec]
@[simp] theorem errRec_readData (r : ErrRec) : (s.errRec r).readData = s.readData := by simp [State.errRec]
@[simp] theorem errRec_rods (r : ErrRec) : (s.errRec r).rods = s.rods := by simp [State.errRec]
@[simp] theorem errRec_mesh (r : ErrRec) : (s.errRec r).mesh = s.mesh := by simp [State.errRec]
@[simp] theorem errRec_decks (r : ErrRec) : (s.errRec r).decks = s.decks := by simp [State.errRec]
@[simp] theorem errRec_parts (r : ErrRec) : (s.errRec r).parts = s.parts := by simp [State.errRec]
@[simp] theorem errRec_ctxs (r : ErrRec) : (s.errRec r).ctxs = s.ctxs := by simp [State.errRec]
@[simp] theorem errRec_frameOwner (r : ErrRec) : (s.errRec r).frameOwner = s.frameOwner := by simp [State.errRec]
@[simp] theorem errRec_pairings (r : ErrRec) : (s.errRec r).pairings = s.pairings := by simp [State.errRec]
@[simp] theorem errRec_harvests (r : ErrRec) : (s.errRec r).harvests = s.harvests := by simp [State.errRec]
@[simp] theorem errRec_nums (r : ErrRec) : (s.errRec r).nums = s.nums := by simp [State.errRec]
@[simp] theorem errRec_reck (r : ErrRec) : (s.errRec r).reck = s.reck := by simp [State.errRec]
@[simp] theorem errRec_cy (r : ErrRec) : (s.errRec r).cy = s.cy := by simp [State.errRec]
@[simp] theorem errRec_op (r : ErrRec) : (s.errRec r).op = s.op := by simp [State.errRec]
@[simp] theorem errRec_sv (r : ErrRec) : (s.errRec r).sv = s.sv := by simp [State.errRec]
@[simp] theorem errRec_st (r : ErrRec) : (s.errRec r).st = s.st := by simp [State.errRec]
@[simp] theorem errRec_ring (r : ErrRec) : (s.errRec r).ring = s.ring := by simp [State.errRec]
@[simp] theorem errRec_boot (r : ErrRec) : (s.errRec r).boot = s.boot := by simp [State.errRec]
@[simp] theorem errRec_pend (r : ErrRec) : (s.errRec r).pend = s.pend := by simp [State.errRec]

@[simp] theorem errRec_rod (r : ErrRec) (i : Nat) : (s.errRec r).rod i = s.rod i := by simp [State.rod]
@[simp] theorem errRec_part (r : ErrRec) (i : Nat) : (s.errRec r).part i = s.part i := by simp [State.part]
@[simp] theorem errRec_ctx (r : ErrRec) (i j : Nat) : (s.errRec r).ctx i j = s.ctx i j := by simp [State.ctx]
@[simp] theorem errRec_pairing (r : ErrRec) (i : Nat) : (s.errRec r).pairing i = s.pairing i := by simp [State.pairing]
@[simp] theorem errRec_harvest (r : ErrRec) (i : Nat) : (s.errRec r).harvest i = s.harvest i := by simp [State.harvest]
@[simp] theorem errRec_num (r : ErrRec) (i : Nat) : (s.errRec r).num i = s.num i := by simp [State.num]
@[simp] theorem errRec_link (r : ErrRec) (i : Nat) : (s.errRec r).link i = s.link i := by simp [State.link]
@[simp] theorem errRec_group (r : ErrRec) (i j : Nat) : (s.errRec r).group i j = s.group i j := by simp [State.group]
@[simp] theorem errRec_slot (r : ErrRec) (i j : Nat) : (s.errRec r).slot i j = s.slot i j := by simp [State.slot]
@[simp] theorem errRec_blob (r : ErrRec) (i j : Nat) : (s.errRec r).blob i j = s.blob i j := by simp [State.blob]
@[simp] theorem errRec_owner (r : ErrRec) (i : Nat) : (s.errRec r).owner i = s.owner i := by simp [State.owner]
@[simp] theorem errRec_cycle (r : ErrRec) : (s.errRec r).cycle = s.cycle := by simp [State.cycle]
@[simp] theorem errRec_level (r : ErrRec) : (s.errRec r).level = s.level := by simp [State.level]

/-! What is written is read back, and its neighbours are kept. -/

@[simp] theorem rod_setRod (r i : Nat) (v : Rod) : (s.setRod r v).rod i = if i = r then v else s.rod i := tget_tset ..
@[simp] theorem part_setPart (p i : Nat) (v : Part) : (s.setPart p v).part i = if i = p then v else s.part i := tget_tset ..
@[simp] theorem pairing_setPairing (n i : Nat) (v : Pairing) : (s.setPairing n v).pairing i = if i = n then v else s.pairing i :=
  tget_tset ..
@[simp] theorem harvest_setHarvest (p i : Nat) (v : Harvest) : (s.setHarvest p v).harvest i = if i = p then v else s.harvest i :=
  tget_tset ..
@[simp] theorem num_setNum (p i : Nat) (v : Num) : (s.setNum p v).num i = if i = p then v else s.num i := tget_tset ..
@[simp] theorem link_setLink (l i : Nat) (v : Link) : (s.setLink l v).link i = if i = l then v else s.link i := tget_tset ..
@[simp] theorem func_setFunc (f i : Nat) (v : Func) : (s.setFunc f v).func i = if i = f then v else s.func i := tget_tset ..
@[simp] theorem ctx_setCtx (p c i j : Nat) (v : Ctx) :
    (s.setCtx p c v).ctx i j = if 8 * i + j = 8 * p + c then v else s.ctx i j := tget_tset ..
@[simp] theorem group_setGroup (p g i j : Nat) (v : Group) :
    (s.setGroup p g v).group i j = if 4 * i + j = 4 * p + g then v else s.group i j := tget_tset ..

@[simp] theorem slot_setSlot (p n i j : Nat) (v : BitVec 1024) :
    (s.setSlot p n v).slot i j = if i = p ∧ j = n then v else s.slot i j := by
  by_cases hi : i = p
  · subst hi; by_cases hj : j = n <;> simp [State.slot, State.setSlot, hj]
  · simp [State.slot, State.setSlot, hi]

@[simp] theorem o_setO (k v i : Nat) : (s.setO k v).o i = if i = k then v else s.o i := by
  by_cases h : i = k
  · subst h; simp [State.o, State.setO]
  · rw [if_neg h]; exact tget_tset_ne _ _ _ _ h

@[simp] theorem o_addO (w k n i : Nat) : (s.addO w k n).o i = if i = k then satAdd w (s.o k) n else s.o i := by
  simp [State.addO]

@[simp] theorem o_clearO (k i : Nat) : (s.clearO k).o i = if i = k then objDefault k else s.o i := by
  by_cases h : i = k
  · subst h; simp [State.o, State.clearO, tget_terase_same]
  · simp [State.o, State.clearO, h, tget_terase_ne]

/-! `setBlob` writes the bytes one by one. -/

@[simp] theorem setBlob_pending (k off : Nat) (bs : List Byte) : (s.setBlob k off bs).pending = s.pending := by
  induction bs generalizing s off with
  | nil => rfl
  | cons b bs ih => exact ih _ _
@[simp] theorem setBlob_draws (k off : Nat) (bs : List Byte) : (s.setBlob k off bs).draws = s.draws := by
  induction bs generalizing s off with
  | nil => rfl
  | cons b bs ih => exact ih _ _
@[simp] theorem setBlob_ns (k off : Nat) (bs : List Byte) : (s.setBlob k off bs).ns = s.ns := by
  induction bs generalizing s off with
  | nil => rfl
  | cons b bs ih => exact ih _ _
@[simp] theorem setBlob_rodTenths (k off : Nat) (bs : List Byte) : (s.setBlob k off bs).rodTenths = s.rodTenths := by
  induction bs generalizing s off with
  | nil => rfl
  | cons b bs ih => exact ih _ _
@[simp] theorem setBlob_objs (k off : Nat) (bs : List Byte) : (s.setBlob k off bs).objs = s.objs := by
  induction bs generalizing s off with
  | nil => rfl
  | cons b bs ih => exact ih _ _
@[simp] theorem setBlob_flash (k off : Nat) (bs : List Byte) : (s.setBlob k off bs).flash = s.flash := by
  induction bs generalizing s off with
  | nil => rfl
  | cons b bs ih => exact ih _ _
@[simp] theorem setBlob_status (k off : Nat) (bs : List Byte) : (s.setBlob k off bs).status = s.status := by
  induction bs generalizing s off with
  | nil => rfl
  | cons b bs ih => exact ih _ _
@[simp] theorem setBlob_readData (k off : Nat) (bs : List Byte) : (s.setBlob k off bs).readData = s.readData := by
  induction bs generalizing s off with
  | nil => rfl
  | cons b bs ih => exact ih _ _
@[simp] theorem setBlob_rods (k off : Nat) (bs : List Byte) : (s.setBlob k off bs).rods = s.rods := by
  induction bs generalizing s off with
  | nil => rfl
  | cons b bs ih => exact ih _ _
@[simp] theorem setBlob_mesh (k off : Nat) (bs : List Byte) : (s.setBlob k off bs).mesh = s.mesh := by
  induction bs generalizing s off with
  | nil => rfl
  | cons b bs ih => exact ih _ _
@[simp] theorem setBlob_decks (k off : Nat) (bs : List Byte) : (s.setBlob k off bs).decks = s.decks := by
  induction bs generalizing s off with
  | nil => rfl
  | cons b bs ih => exact ih _ _
@[simp] theorem setBlob_parts (k off : Nat) (bs : List Byte) : (s.setBlob k off bs).parts = s.parts := by
  induction bs generalizing s off with
  | nil => rfl
  | cons b bs ih => exact ih _ _
@[simp] theorem setBlob_ctxs (k off : Nat) (bs : List Byte) : (s.setBlob k off bs).ctxs = s.ctxs := by
  induction bs generalizing s off with
  | nil => rfl
  | cons b bs ih => exact ih _ _
@[simp] theorem setBlob_frameOwner (k off : Nat) (bs : List Byte) : (s.setBlob k off bs).frameOwner = s.frameOwner := by
  induction bs generalizing s off with
  | nil => rfl
  | cons b bs ih => exact ih _ _
@[simp] theorem setBlob_pairings (k off : Nat) (bs : List Byte) : (s.setBlob k off bs).pairings = s.pairings := by
  induction bs generalizing s off with
  | nil => rfl
  | cons b bs ih => exact ih _ _
@[simp] theorem setBlob_harvests (k off : Nat) (bs : List Byte) : (s.setBlob k off bs).harvests = s.harvests := by
  induction bs generalizing s off with
  | nil => rfl
  | cons b bs ih => exact ih _ _
@[simp] theorem setBlob_nums (k off : Nat) (bs : List Byte) : (s.setBlob k off bs).nums = s.nums := by
  induction bs generalizing s off with
  | nil => rfl
  | cons b bs ih => exact ih _ _
@[simp] theorem setBlob_reck (k off : Nat) (bs : List Byte) : (s.setBlob k off bs).reck = s.reck := by
  induction bs generalizing s off with
  | nil => rfl
  | cons b bs ih => exact ih _ _
@[simp] theorem setBlob_cy (k off : Nat) (bs : List Byte) : (s.setBlob k off bs).cy = s.cy := by
  induction bs generalizing s off with
  | nil => rfl
  | cons b bs ih => exact ih _ _
@[simp] theorem setBlob_op (k off : Nat) (bs : List Byte) : (s.setBlob k off bs).op = s.op := by
  induction bs generalizing s off with
  | nil => rfl
  | cons b bs ih => exact ih _ _
@[simp] theorem setBlob_sv (k off : Nat) (bs : List Byte) : (s.setBlob k off bs).sv = s.sv := by
  induction bs generalizing s off with
  | nil => rfl
  | cons b bs ih => exact ih _ _
@[simp] theorem setBlob_st (k off : Nat) (bs : List Byte) : (s.setBlob k off bs).st = s.st := by
  induction bs generalizing s off with
  | nil => rfl
  | cons b bs ih => exact ih _ _
@[simp] theorem setBlob_host (k off : Nat) (bs : List Byte) : (s.setBlob k off bs).host = s.host := by
  induction bs generalizing s off with
  | nil => rfl
  | cons b bs ih => exact ih _ _
@[simp] theorem setBlob_ring (k off : Nat) (bs : List Byte) : (s.setBlob k off bs).ring = s.ring := by
  induction bs generalizing s off with
  | nil => rfl
  | cons b bs ih => exact ih _ _
@[simp] theorem setBlob_mon (k off : Nat) (bs : List Byte) : (s.setBlob k off bs).mon = s.mon := by
  induction bs generalizing s off with
  | nil => rfl
  | cons b bs ih => exact ih _ _
@[simp] theorem setBlob_errs (k off : Nat) (bs : List Byte) : (s.setBlob k off bs).errs = s.errs := by
  induction bs generalizing s off with
  | nil => rfl
  | cons b bs ih => exact ih _ _
@[simp] theorem setBlob_boot (k off : Nat) (bs : List Byte) : (s.setBlob k off bs).boot = s.boot := by
  induction bs generalizing s off with
  | nil => rfl
  | cons b bs ih => exact ih _ _
@[simp] theorem setBlob_pend (k off : Nat) (bs : List Byte) : (s.setBlob k off bs).pend = s.pend := by
  induction bs generalizing s off with
  | nil => rfl
  | cons b bs ih => exact ih _ _
@[simp] theorem setBlob_rod (k off : Nat) (bs : List Byte) (i : Nat) : (s.setBlob k off bs).rod i = s.rod i := by
  simp [State.rod]
@[simp] theorem setBlob_part (k off : Nat) (bs : List Byte) (i : Nat) : (s.setBlob k off bs).part i = s.part i := by
  simp [State.part]
@[simp] theorem setBlob_ctx (k off : Nat) (bs : List Byte) (i j : Nat) : (s.setBlob k off bs).ctx i j = s.ctx i j := by
  simp [State.ctx]
@[simp] theorem setBlob_pairing (k off : Nat) (bs : List Byte) (i : Nat) : (s.setBlob k off bs).pairing i = s.pairing i := by
  simp [State.pairing]
@[simp] theorem setBlob_harvest (k off : Nat) (bs : List Byte) (i : Nat) : (s.setBlob k off bs).harvest i = s.harvest i := by
  simp [State.harvest]
@[simp] theorem setBlob_num (k off : Nat) (bs : List Byte) (i : Nat) : (s.setBlob k off bs).num i = s.num i := by
  simp [State.num]
@[simp] theorem setBlob_link (k off : Nat) (bs : List Byte) (i : Nat) : (s.setBlob k off bs).link i = s.link i := by
  simp [State.link]
@[simp] theorem setBlob_group (k off : Nat) (bs : List Byte) (i j : Nat) : (s.setBlob k off bs).group i j = s.group i j := by
  simp [State.group]
@[simp] theorem setBlob_func (k off : Nat) (bs : List Byte) (i : Nat) : (s.setBlob k off bs).func i = s.func i := by
  simp [State.func]
@[simp] theorem setBlob_slot (k off : Nat) (bs : List Byte) (i j : Nat) : (s.setBlob k off bs).slot i j = s.slot i j := by
  simp [State.slot]
@[simp] theorem setBlob_o (k off : Nat) (bs : List Byte) (i : Nat) : (s.setBlob k off bs).o i = s.o i := by
  simp [State.o]
@[simp] theorem setBlob_owner (k off : Nat) (bs : List Byte) (i : Nat) : (s.setBlob k off bs).owner i = s.owner i := by
  simp [State.owner]
@[simp] theorem setBlob_stroke (k off : Nat) (bs : List Byte) : (s.setBlob k off bs).stroke = s.stroke := by
  simp [State.stroke, State.o]
@[simp] theorem setBlob_cycle (k off : Nat) (bs : List Byte) : (s.setBlob k off bs).cycle = s.cycle := by
  simp [State.cycle]
@[simp] theorem setBlob_resident (k off : Nat) (bs : List Byte) (i : Nat) : (s.setBlob k off bs).resident i = s.resident i := by
  simp [State.resident, State.o]
@[simp] theorem setBlob_frames (k off : Nat) (bs : List Byte) (i : Nat) : (s.setBlob k off bs).frames i = s.frames i := by
  simp [State.frames, State.o]
@[simp] theorem setBlob_level (k off : Nat) (bs : List Byte) : (s.setBlob k off bs).level = s.level := by
  simp [State.level]

/-! Composite updates. -/

@[simp] theorem report_get (p : Path) (x : Nat) : tget 0 (s.report p x).status (pathCode p) = x := by simp [State.report]

/-- A refused dictionary command reports its status and does nothing else (R404, R410). -/
theorem control_refused {p : Path} {f : State → State × Nat} (hu : s.dictUp = true) (hw : s.mayWrite p = true)
    (h : (f s).2 ≠ 0) : s.control p f = s.report p (f s).2 := by
  simp [State.control, hu, hw, h]

/-- An accepted dictionary command has its effect and reports success (R410). -/
theorem control_accepted {p : Path} {f : State → State × Nat} {t : State} (hu : s.dictUp = true) (hw : s.mayWrite p = true)
    (h : f s = (t, 0)) : s.control p f = t.report p 0 := by
  simp [State.control, hu, hw, h]

/-- A path without the right to write is told so, and nothing else happens (R404, R408). -/
theorem control_denied {p : Path} {f : State → State × Nat} (hu : s.dictUp = true) (hw : s.mayWrite p = false) :
    s.control p f = s.report p (accessDenied p) := by
  simp [State.control, hu, hw]

/-- Nothing happens before the dictionary is reachable (R413). -/
theorem control_unreachable {p : Path} {f : State → State × Nat} (hu : s.dictUp = false) : s.control p f = s := by
  simp [State.control, hu]

/-- One error record more: its number is the next, and the ring holds it (R464). -/
@[simp] theorem errRec_seq (r : ErrRec) : (s.errRec r).errs.seq = s.errs.seq + 1 := by
  simp [State.errRec, State.errStore]

/-- A byte of a STR or BLOB object after a write of some of its bytes. -/
theorem blob_setBlob (k off : Nat) (bs : List Byte) (k' i : Nat) (hi : i < blobSpan) (ho : off + bs.length ≤ blobSpan) :
    (s.setBlob k off bs).blob k' i = if k' = k ∧ off ≤ i ∧ i < off + bs.length then bs.getD (i - off) 0 else s.blob k' i := by
  induction bs generalizing s off with
  | nil => simp [State.setBlob]
  | cons b bs ih =>
    simp only [List.length_cons] at ho ⊢
    rw [State.setBlob, ih _ _ (by omega)]
    simp only [blobSpan] at hi ho
    by_cases hk : k' = k
    · subst hk
      by_cases h0 : i = off
      · subst h0
        simp [State.blob]
      · by_cases h1 : off + 1 ≤ i ∧ i < off + 1 + bs.length
        · rw [if_pos ⟨rfl, h1.1, h1.2⟩, if_pos ⟨rfl, by omega, by omega⟩]
          obtain ⟨j, hj⟩ : ∃ j, i - off = j + 1 := ⟨i - off - 1, by omega⟩
          rw [hj, List.getD_cons_succ, show i - (off + 1) = j by omega]
        · rw [if_neg (by omega), if_neg (by omega)]
          simp only [State.blob]
          exact tget_tset_ne _ _ _ _ (by omega)
    · rw [if_neg (by simp [hk]), if_neg (by simp [hk])]
      simp only [State.blob, blobSpan]
      exact tget_tset_ne _ _ _ _ (by
        intro h
        apply hk
        omega)

/-- A number read where it was written. -/
theorem blobNum_setBlob (k off n : Nat) (bs : List Byte) (hn : n ≤ bs.length) (ho : off + bs.length ≤ blobSpan) :
    (s.setBlob k off bs).blobNum k off n = leNat (bs.take n) := by
  rw [State.blobNum, ← map_getD_upto bs n hn]
  congr 1
  apply List.map_congr_left
  intro i hi
  rw [mem_upto] at hi
  rw [blob_setBlob s k off bs k (off + i) (by omega) ho, if_pos ⟨rfl, by omega, by omega⟩, Nat.add_sub_cancel_left]

end Sys2Proof.Machine
end

