-- ==== Sys2Proof/Laws/Ops.lean ====
section
/-! SUPPORT. What the shared operations do, once: a dictionary command in its turn (R404, R410, R411), an error record (R464 to
R466), and a bank record (R436). -/

namespace Sys2Proof.Machine

open Sys2Proof

/-! A dictionary command. -/

/-- With no request of the ring waiting, an access is at once. -/
theorem ringBefore_nil (s : State) (p : Path) (h : s.ring.queue = []) : s.ringBefore p = s := by
  unfold State.ringBefore State.drainRing
  simp [h]

/-- Before the dictionary is reachable, no request of the ring is performed. -/
theorem ringBefore_down (s : State) (p : Path) (h : s.dictUp = false) : s.ringBefore p = s := by
  unfold State.ringBefore State.drainRing
  split <;> simp [h]

/-- Everything a dictionary command can do, by the state in which its turn comes. -/
theorem access_cases (s : State) (p : Path) (f : State → State × Nat) :
    let v := s.ringBefore p
    (v.dictUp = false ∧ s.access p f = v) ∨
    (v.dictUp = true ∧ v.mayWrite p = false ∧ s.access p f = v.report p (accessDenied p)) ∨
    (v.dictUp = true ∧ v.mayWrite p = true ∧ (f v).2 = 0 ∧ s.access p f = (f v).1.report p 0) ∨
    (v.dictUp = true ∧ v.mayWrite p = true ∧ (f v).2 ≠ 0 ∧ s.access p f = v.report p (f v).2) := by
  intro v
  unfold State.access
  cases hd : v.dictUp with
  | false => exact .inl ⟨rfl, control_unreachable v hd⟩
  | true =>
    cases hw : v.mayWrite p with
    | false => exact .inr (.inl ⟨rfl, rfl, control_denied v hd hw⟩)
    | true =>
      by_cases hf : (f v).2 = 0
      · exact .inr (.inr (.inl ⟨rfl, rfl, hf, control_accepted v hd hw (Prod.ext rfl hf)⟩))
      · exact .inr (.inr (.inr ⟨rfl, rfl, hf, control_refused v hd hw hf⟩))

/-! Error records. -/

/-- A record changes the record store, the monitor's output, the interrupts and, of class 3, ERR_FATAL_PARTS alone. -/
theorem errRec_frame (s : State) (r : ErrRec) :
    s.errRec r = { s with errs := (s.errRec r).errs, mon := (s.errRec r).mon, host := (s.errRec r).host
                          objs := (s.errRec r).objs } := by
  have h0 := errRec_pending s r
  have h1 := errRec_draws s r
  have h2 := errRec_ns s r
  have h3 := errRec_rodTenths s r
  have h4 := errRec_blobs s r
  have h5 := errRec_flash s r
  have h6 := errRec_status s r
  have h7 := errRec_readData s r
  have h8 := errRec_rods s r
  have h9 := errRec_mesh s r
  have h10 := errRec_decks s r
  have h11 := errRec_parts s r
  have h12 := errRec_ctxs s r
  have h13 := errRec_frameOwner s r
  have h14 := errRec_pairings s r
  have h15 := errRec_harvests s r
  have h16 := errRec_nums s r
  have h17 := errRec_reck s r
  have h18 := errRec_cy s r
  have h19 := errRec_op s r
  have h20 := errRec_sv s r
  have h21 := errRec_st s r
  have h22 := errRec_ring s r
  have h23 := errRec_boot s r
  have h24 := errRec_pend s r
  generalize s.errRec r = t at *
  cases t
  simp_all

/-- A record of another class than 3 leaves the dictionary's objects. -/
theorem errRec_objs (s : State) (r : ErrRec) (h : r.cls ≠ 3) : (s.errRec r).objs = s.objs := by
  simp [State.errRec, State.errPart, State.errFill, h]

theorem errRec_errs (s : State) (r : ErrRec) : (s.errRec r).errs = (s.errStore (s.errFill r)).errs := by
  simp [State.errRec]

theorem mem_insertRec (r : ErrRec) (l : List ErrRec) : r ∈ insertRec r l := by
  induction l with
  | nil => simp [insertRec]
  | cons x t ih => unfold insertRec; split <;> simp [ih]

theorem length_insertRec (r : ErrRec) (l : List ErrRec) : (insertRec r l).length = l.length + 1 := by
  induction l with
  | nil => rfl
  | cons x t ih => unfold insertRec; split <;> simp [ih]

/-- Numbered records that are stored one after another, no more than the ring holds, all stand in it. -/
theorem mem_numbered (l : List ErrRec) (n : Nat) (ring : Tab (Option ErrRec)) (hn : 1 ≤ n) (hl : l.length ≤ 4096) (i : Nat)
    (hi : i < l.length) :
    tget none ((numberRecs n l).foldl (fun t x => tset none t ((x.seq - 1) % 4096) (some x)) ring) ((n + i - 1) % 4096)
      = some { l[i] with seq := n + i } := by
  have hlen : (numberRecs n l).length = l.length := by simp [numberRecs]
  have hget : ∀ j (h : j < l.length), (numberRecs n l)[j]'(by omega) = { l[j] with seq := n + j } := by
    intro j h; simp [numberRecs]
  suffices H : ∀ m, m ≤ l.length → ∀ j (h : j < m),
      tget none (((numberRecs n l).take m).foldl (fun t x => tset none t ((x.seq - 1) % 4096) (some x)) ring) ((n + j - 1) % 4096)
        = (numberRecs n l)[j]? by
    have := H l.length (le_refl _) i hi
    rw [List.take_of_length_le (by omega)] at this
    rw [this, List.getElem?_eq_getElem (by omega), hget i hi]
  intro m
  induction m with
  | zero => intro _ j h; omega
  | succ m ih =>
    intro hm j h
    have hmlt : m < (numberRecs n l).length := by omega
    rw [List.take_add_one, List.getElem?_eq_getElem hmlt, Option.toList_some, List.foldl_append, List.foldl_cons, List.foldl_nil, hget m (by omega),
      tget_tset]
    by_cases hj : j = m
    · subst hj; rw [if_pos rfl, List.getElem?_eq_getElem hmlt, hget j (by omega)]
    · rw [if_neg (by simp only; omega)]
      exact ih (by omega) j (by omega)

/-- A record stands in the ring, with its fields, its number apart. -/
theorem errRec_stored (s : State) (r : ErrRec) :
    ∃ e k, tget none (s.errRec r).errs.ring k = some e ∧ e = { s.errFill r with seq := e.seq } := by
  rw [errRec_errs]
  unfold State.errStore
  simp only
  generalize ho : (if s.errs.cycle = s.cycle + 1 then s.errs.newest (min s.errs.same 4095) else []) = old
  have hol : old.length ≤ 4095 := by
    subst ho
    split
    · unfold Errors.newest
      refine (List.length_filterMap_le _ _).trans ?_
      rw [upto_eq_range, List.length_range]; omega
    · simp
  obtain ⟨i, hi, he⟩ := List.getElem_of_mem (mem_insertRec (s.errFill r) old)
  have := mem_numbered (insertRec (s.errFill r) old) (s.errs.seq - old.length + 1) s.errs.ring (by omega)
    (by rw [length_insertRec]; omega) i hi
  exact ⟨_, _, this, by rw [he]⟩

/-! Bank records. -/

theorem leNat_append (a b : List Byte) : leNat (a ++ b) = leNat a + 256 ^ a.length * leNat b := by
  induction a with
  | nil => simp [leNat]
  | cons x t ih => simp only [List.cons_append, leNat, ih, List.length_cons, pow_succ]; ring

theorem leNat_lt (l : List Byte) : leNat l < 256 ^ l.length := by
  induction l with
  | nil => simp [leNat]
  | cons x t ih =>
    simp only [leNat, List.length_cons, pow_succ]
    have := x.isLt
    omega

theorem leBytes_leNat (l : List Byte) (k : Nat) : leBytes l.length (leNat l + 256 ^ l.length * k) = l := by
  induction l generalizing k with
  | nil => rfl
  | cons x t ih =>
    have hx := x.isLt
    have e : leNat (x :: t) + 256 ^ (x :: t).length * k = x.toNat + 256 * (leNat t + 256 ^ t.length * k) := by
      simp only [leNat, List.length_cons, pow_succ]; ring
    rw [e, List.length_cons, leBytes]
    have h1 : (x.toNat + 256 * (leNat t + 256 ^ t.length * k)) / 256 = leNat t + 256 ^ t.length * k := by omega
    rw [h1, ih]
    congr 1
    apply BitVec.eq_of_toNat_eq
    simp
    omega

/-- What a bank record holds: its 60 bytes and their CRC. -/
theorem bankRecord_toNat (st gen tr : Nat) :
    (bankRecord st gen tr).toNat = gen % 2 ^ 32 + 2 ^ 32 * (st % 256) + 2 ^ 40 * (tr % 256)
      + 2 ^ 480 * crc32c (leBytes 4 gen ++ leBytes 1 st ++ leBytes 1 tr ++ List.replicate 54 0) := by
  unfold bankRecord
  simp only
  generalize hc : crc32c _ = c
  have hlt : c < 2 ^ 32 := hc ▸ crcWith_lt _ (by decide) _
  have hz : leNat (List.replicate 54 (0 : Byte)) = 0 := by decide
  rw [BitVec.toNat_ofNat]
  simp only [leNat_append, leNat_leBytes, length_leBytes, List.length_append, List.length_replicate, hz]
  rw [Nat.mod_eq_of_lt (a := c) (by omega)]
  norm_num
  omega

theorem pow480 : (2 : Nat) ^ 480 = 256 ^ 60 := by
  rw [show (256 : Nat) = 2 ^ 8 by norm_num, ← pow_mul]

theorem recordOk_bankRecord (st gen tr : Nat) : recordOk (bankRecord st gen tr) = true := by
  unfold recordOk
  rw [bankRecord_toNat]
  generalize hb : leBytes 4 gen ++ leBytes 1 st ++ leBytes 1 tr ++ List.replicate 54 (0 : Byte) = body
  have hlen : body.length = 60 := by subst hb; simp
  have hn : leNat body = gen % 2 ^ 32 + 2 ^ 32 * (st % 256) + 2 ^ 40 * (tr % 256) := by
    subst hb
    have hz : leNat (List.replicate 54 (0 : Byte)) = 0 := by decide
    simp only [leNat_append, leNat_leBytes, length_leBytes, List.length_append, hz]
    norm_num
  have hl : leBytes 60 (leNat body + 2 ^ 480 * crc32c body) = body := by
    have := leBytes_leNat body (crc32c body)
    rw [hlen] at this
    rw [pow480]
    exact this
  rw [← hn, hl]
  have hlt := leNat_lt body
  rw [hlen] at hlt
  have : (leNat body + 2 ^ 480 * crc32c body) / 2 ^ 480 = crc32c body := by
    rw [Nat.add_mul_div_left _ _ (by positivity), Nat.div_eq_of_lt (by rw [pow480]; exact hlt)]
    omega
  rw [this]
  exact beq_self_eq_true _

/-- What is written as a bank record is what is read (R436). -/
theorem record_writeRec (b : Bank) (st gen tr : Nat) : (b.writeRec st gen tr).record = some (bankRecord st gen tr) := by
  have hg : ∀ n, 0 < n → tget 0 ((upto n).foldl (fun t k => tset 0 t k (bankRecord st gen tr)) b.recs) 0 = bankRecord st gen tr := by
    intro n hn
    induction n with
    | zero => omega
    | succ n ih =>
      simp only [upto, List.foldl_append, List.foldl_cons, List.foldl_nil, tget_tset]
      split
      · rfl
      · exact ih (by omega)
  unfold Bank.record
  have hu : upto recCopies = 0 :: (upto recCopies).tail := by decide
  rw [hu, List.map_cons, List.find?_cons]
  have h16 : 0 < recCopies := by unfold recCopies; omega
  have : tget 0 (b.writeRec st gen tr).recs 0 = bankRecord st gen tr := by
    simp only [Bank.writeRec]
    exact hg _ h16
  rw [this, recordOk_bankRecord]

@[simp] theorem state_writeRec (b : Bank) (st gen tr : Nat) : (b.writeRec st gen tr).state = st % 256 := by
  simp only [Bank.state, record_writeRec, bankRecord_toNat]
  norm_num
  omega

@[simp] theorem gen_writeRec (b : Bank) (st gen tr : Nat) : (b.writeRec st gen tr).gen = gen % 2 ^ 32 := by
  simp only [Bank.gen, record_writeRec, bankRecord_toNat]
  norm_num
  omega

@[simp] theorem tries_writeRec (b : Bank) (st gen tr : Nat) : (b.writeRec st gen tr).tries = tr % 256 := by
  simp only [Bank.tries, record_writeRec, bankRecord_toNat]
  norm_num
  omega

end Sys2Proof.Machine
end

