-- ==== Sys2Proof/WellFormed.lean ====
section
/-! DEFINITION. Operand ranges of the commands: instance numbers that the spec gives the part. -/

namespace Sys2Proof

/-- The command names instances that exist (rods of R18, partitions of R333, links of R276, functions of R382 and so on). -/
def Instr.wf (i : Instr) : Bool :=
  match i with
  | .meshPacketDelivery pkt => decide (pkt.src < 576 ∧ pkt.dst < 576 ∧ pkt.vc < 4)
  | .vc0RequestTimeout _ => true
  | .vc2Acknowledgement _ => true
  | .vc2AckTimeout _ => true
  | .flitError rod => decide (rod < 576)
  | .routerSelfCheckFail rod => decide (rod < 576)
  | .controlCoreWatchdog rod => decide (rod < 576)
  | .fenceRequest _ _ => true
  | .routeTablesComputed _ => true
  | .routeEpochDrainEnd => true
  | .routeEpochEnd => true
  | .coreFenceComplete rod => decide (rod < 576)
  | .matmul rod _ _ => decide (rod < 576)
  | .readout rod _ _ => decide (rod < 576)
  | .clear rod _ => decide (rod < 576)
  | .matmulStreamStart rod _ => decide (rod < 576)
  | .bankComplete rod _ => decide (rod < 576)
  | .readoutEnd fin => decide (fin.rod < 576)
  | .chain rod _ _ => decide (rod < 576)
  | .permute rod _ => decide (rod < 576)
  | .shuffle rod _ => decide (rod < 576)
  | .pack rod _ => decide (rod < 576)
  | .unpack rod _ => decide (rod < 576)
  | .compress rod _ => decide (rod < 576)
  | .expand rod _ => decide (rod < 576)
  | .tload rod _ => decide (rod < 576)
  | .fill rod _ => decide (rod < 576)
  | .spill rod _ => decide (rod < 576)
  | .chainStart rod _ => decide (rod < 576)
  | .chainComplete rod => decide (rod < 576)
  | .deckMoveComplete rod => decide (rod < 576)
  | .sliceAccess rod _ _ _ => decide (rod < 576)
  | .rowSpareCopyEnd rod _ => decide (rod < 576)
  | .ldPackageFail pkg _ => decide (pkg < 32)
  | .patrolScrub _ _ _ => true
  | .sliceZeroingEnd rod => decide (rod < 576)
  | .extentZeroFillEnd done => decide (done.ext < 1024)
  | .stagePush rod _ => decide (rod < 576)
  | .stageStart go => decide (go.part < 16)
  | .stageEnd part _ => decide (part < 16)
  | .stageFenceWait rod _ _ => decide (rod < 576)
  | .form _ n => decide (n < 8)
  | .close _ n => decide (n < 8)
  | .rebalanceToStudent _ n frame part => decide (n < 8 ∧ frame < 64 ∧ part < 16)
  | .rebalanceToTeacher _ n frame part => decide (n < 8 ∧ frame < 64 ∧ part < 16)
  | .attach _ n part => decide (n < 8 ∧ part < 16)
  | .detach _ n part => decide (n < 8 ∧ part < 16)
  | .acquire rod => decide (rod < 576)
  | .acquireSlotFree n => decide (n < 8)
  | .publish rod _ => decide (rod < 576)
  | .publishHeaderWrite n _ => decide (n < 8)
  | .wait rod _ => decide (rod < 576)
  | .waitRecordPublished rod => decide (rod < 576)
  | .release rod _ _ => decide (rod < 576)
  | .lossKernel rod _ => decide (rod < 576)
  | .tyStall rod => decide (rod < 576)
  | .tyTimeout rod => decide (rod < 576)
  | .rebalMoving n => decide (n < 8)
  | .rebalMoveComplete n => decide (n < 8)
  | .tyRebalAbandoned n => decide (n < 8)
  | .pairingFree n => decide (n < 8)
  | .tyHvEnable _ part _ => decide (part < 16)
  | .harvestRecordCopy part => decide (part < 16)
  | .startRun _ part => decide (part < 16)
  | .endRun _ part => decide (part < 16)
  | .numericsStateRead rod _ => decide (rod < 576)
  | .numericsStateWaitEnd rod => decide (rod < 576)
  | .slotTsQuery rod _ => decide (rod < 576)
  | .phaseMark rod _ => decide (rod < 576)
  | .updatePush rod _ => decide (rod < 576)
  | .passStart reck => decide (reck < 16)
  | .passEnd reck => decide (reck < 16)
  | .tensorUpdateComplete part _ => decide (part < 16)
  | .rootJobStart reck => decide (reck < 16)
  | .rootJobEnd reck _ => decide (reck < 16)
  | .rootQuery rod _ _ => decide (rod < 576)
  | .rkGroupsWrite _ part k _ => decide (part < 16 ∧ k < 256)
  | .groupForm _ part g => decide (part < 16 ∧ g < 4)
  | .groupLeave _ part g => decide (part < 16 ∧ g < 4)
  | .handshakeUp part g _ _ _ _ => decide (part < 16 ∧ g < 4)
  | .handshakeResult part g _ _ => decide (part < 16 ∧ g < 4)
  | .cyFormTimeout part g => decide (part < 16 ∧ g < 4)
  | .reduce rod _ => decide (rod < 576)
  | .allToAll rod _ => decide (rod < 576)
  | .allGather rod _ => decide (rod < 576)
  | .closeStep rod _ => decide (rod < 576)
  | .carryTile => true
  | .layerSourceRead _ => true
  | .segmentUnit part g _ => decide (part < 16 ∧ g < 4)
  | .segmentCombine _ _ => true
  | .bucketHeader part g _ => decide (part < 16 ∧ g < 4)
  | .bucketComplete _ => true
  | .chunkLanded part g _ _ _ _ _ => decide (part < 16 ∧ g < 4)
  | .bucketTimeout _ => true
  | .verdictExchangeStart part g => decide (part < 16 ∧ g < 4)
  | .verdictExchangeUp part g _ => decide (part < 16 ∧ g < 4)
  | .verdictResult part g _ _ => decide (part < 16 ∧ g < 4)
  | .mirrorEnable _ part => decide (part < 16)
  | .mirrorDisable _ part => decide (part < 16)
  | .mirrorRestore _ part => decide (part < 16)
  | .mirrorExport _ part => decide (part < 16)
  | .mirrorCopyEnd part _ => decide (part < 16)
  | .mirrorCommit k _ _ _ => decide (k < 8)
  | .mirrorRestoreEnd part _ _ => decide (part < 16)
  | .lightDetected l => decide (l < 64)
  | .lightLost l => decide (l < 64)
  | .trainingHoldEnd l => decide (l < 64)
  | .trainingComplete l _ _ => decide (l < 64)
  | .trainingTimeout l => decide (l < 64)
  | .hello l _ _ _ _ => decide (l < 64)
  | .cert l _ _ => decide (l < 64)
  | .proof l _ => decide (l < 64)
  | .confirm l _ => decide (l < 64)
  | .authTimeout l => decide (l < 64)
  | .flitReceive l _ => decide (l < 64)
  | .retryReq l _ => decide (l < 64)
  | .idleAckTimer l => decide (l < 64)
  | .ackTimeout l => decide (l < 64)
  | .creditStall l => decide (l < 64)
  | .laneLockLoss l _ => decide (l < 64)
  | .bamenMessage l _ _ _ => decide (l < 64)
  | .transitSend port _ => decide (port < 16)
  | .routeAdvertisement l _ => decide (l < 64)
  | .routeAdvertTimer => true
  | .routeExpiry _ l => decide (l < 64)
  | .degradedRecovery l => decide (l < 64)
  | .quarantineHoldEnd l => decide (l < 64)
  | .keyEpochSwitch l => decide (l < 64)
  | .linkEnable _ l => decide (l < 64)
  | .linkDisable _ l => decide (l < 64)
  | .linkRetrain _ l => decide (l < 64)
  | .linkRelease _ l => decide (l < 64)
  | .linkShutdownEnd l => decide (l < 64)
  | .slotAlignmentLoss l => decide (l < 64)
  | .flowHoldExpiry _ => true
  | .svStart _ => true
  | .svStop _ => true
  | .svDrain _ => true
  | .svSubmit fn q => decide (fn < 17 ∧ q < 64)
  | .svCancel fn q => decide (fn < 17 ∧ q < 64)
  | .servingBoundary => true
  | .demotionCopyEnd _ => true
  | .draftPhase => true
  | .verifyPhase => true
  | .delivery => true
  | .jettonRow rod _ => decide (rod < 576)
  | .jettonRowDone die => decide (die < 16)
  | .ringChange _ c _ _ => decide (c < 24)
  | .cqChTail fn c _ => decide (fn < 17 ∧ c < 24)
  | .ptCreate _ p => decide (p < 16)
  | .ptDestroy _ p => decide (p < 16)
  | .ptAdd _ p => decide (p < 16)
  | .ptRemove _ p => decide (p < 16)
  | .createZeroingEnd p => decide (p < 16)
  | .addZeroingEnd p => decide (p < 16)
  | .quiesceEnd p => decide (p < 16)
  | .removeZeroingEnd p => decide (p < 16)
  | .ctxEnable _ p c => decide (p < 16 ∧ c < 8)
  | .ctxDisable _ p c => decide (p < 16 ∧ c < 8)
  | .ctxYield _ p c => decide (p < 16 ∧ c < 8)
  | .ctxEvict _ p c => decide (p < 16 ∧ c < 8)
  | .sliceExpiry p => decide (p < 16)
  | .yieldGraceExpiry p => decide (p < 16)
  | .waitSwitchTimeout p => decide (p < 16)
  | .hardSwitchSave p => decide (p < 16)
  | .hardSwitchEnd p => decide (p < 16)
  | .iiWindowEnd p _ _ _ => decide (p < 16)
  | .ringFrame _ => true
  | .holdoverEntry => true
  | .holdoverStroke => true
  | .firstWaitExpiry => true
  | .rejoinTimeout => true
  | .powerSample _ => true
  | .governorRepeat => true
  | .voltageSample _ => true
  | .undervoltRelease => true
  | .supplyShutdown => true
  | .thermalSample _ => true
  | .throttleStep => true
  | .hostLinkTrained _ _ => true
  | .hostLinkDown => true
  | .cqSqTail fn q _ => decide (fn < 17 ∧ q < 64)
  | .cqCqHead fn q _ => decide (fn < 17 ∧ q < 64)
  | .cqFuncCtrl fn _ => decide (fn < 17)
  | .funcShutdownEnd fn => decide (fn < 17)
  | .mailboxRead fn _ => decide (fn < 17)
  | .mailboxWrite fn _ _ => decide (fn < 17)
  | .sqConfigWrite fn q _ => decide (fn < 17 ∧ q < 64)
  | .cqConfigWrite fn q _ => decide (fn < 17 ∧ q < 64)
  | .sqDrainEnd fn q => decide (fn < 17 ∧ q < 64)
  | .commandFetch fn q _ => decide (fn < 17 ∧ q < 64)
  | .run fn q _ => decide (fn < 17 ∧ q < 64)
  | .runComplete p => decide (p < 16)
  | .dmaIn fn q _ => decide (fn < 17 ∧ q < 64)
  | .dmaOut fn q => decide (fn < 17 ∧ q < 64)
  | .dmaComplete _ _ => true
  | .stage fn q => decide (fn < 17 ∧ q < 64)
  | .update fn q => decide (fn < 17 ∧ q < 64)
  | .carry fn q => decide (fn < 17 ∧ q < 64)
  | .slotRead fn qa => decide (fn < 17 ∧ qa.q < 64)
  | .slotWrite fn q _ => decide (fn < 17 ∧ q < 64)
  | .exportMirror fn q _ => decide (fn < 17 ∧ q < 64)
  | .coalTimeout fn q => decide (fn < 17 ∧ q < 64)
  | .windowAccess _ => true
  | .windowBlockFill => true
  | .windowWriteback _ => true
  | .cqWinExtents _ _ => true
  | .windowOpen => true
  | .functionLevelReset fn => decide (fn < 17)
  | .flrRegistersReset fn => decide (fn < 17)
  | .flrEnd fn => decide (fn < 17)
  | .spdmRequest fn _ => decide (fn < 17)
  | .msixVectorUnmask fn w => decide (fn < 17 ∧ w.vector < 256)
  | .cqChShadow fn _ => decide (fn < 17)
  | .vfEnable _ _ => true
  | .objectWrite _ idx sub _ _ => decide (idx < 65536 ∧ sub < 256)
  | .rwpCommit => true
  | .defaults _ => true
  | .ringRead => true
  | .ringWrite => true
  | .ringStage => true
  | .ringCommit => true
  | .ringSnap => true
  | .ringPeek => true
  | .ringKey _ _ => true
  | .monHelp => true
  | .monInfo => true
  | .login _ => true
  | .logout => true
  | .challenge => true
  | .vendor lines => decide (lines.length = 16)
  | .monRead idx sub _ _ => decide (idx < 65536 ∧ sub < 256)
  | .monWrite idx sub _ _ => decide (idx < 65536 ∧ sub < 256)
  | .monLog n => decide (n ≤ 16)
  | .watchOn => true
  | .watchOff => true
  | .monReset _ _ => true
  | .monitorBreak => true
  | .monIdleTimeout => true
  | .loginLockEnd => true
  | .challengeExpiry => true
  | .powerGood => true
  | .secFirmwareStart => true
  | .mgmtComplexStart _ => true
  | .mgmtReady => true
  | .imagesVerified => true
  | .computeReady _ _ => true
  | .writeImage _ image bank => decide (image < 6 ∧ bank < 2)
  | .writeImageEnd _ => true
  | .selectBank _ bank => decide (bank < 2)
  | .commitSvn _ => true
  | .attReport _ => true
  | .coldReset _ => true
  | .deviceReset _ => true
  | .deviceResetHoldEnd => true
  | .partitionReset _ p => decide (p < 16)
  | .partitionResetKeys p => decide (p < 16)
  | .partitionResetEnd p => decide (p < 16)
  | .functionReset _ fn => decide (fn < 17)
  | .portReset _ port => decide (port < 17)
  | .mgmtWatchdog => true

end Sys2Proof
end

