-- ==== Sys2Proof/Tests/Slice0.lean ====
section
/-! SUPPORT. Tests: ill-formed commands that WellFormed refuses, single steps against the spec's own figures, and for each
statement with hypotheses a state and operands that meet them (`wit_…`, clause by clause). -/

namespace Sys2Proof.Tests

set_option Elab.async false

open Sys2Proof Sys2Proof.Machine

/-- A part whose compute is ready, with some scalar objects set. -/
def up (l : List (Nat × Nat)) : State :=
  l.foldl (fun s x => s.setO x.1 x.2) { (State.reset.setO kFW_STATE 2) with boot := { stage := 6 } }

/-- `up`, with partition 0 owning frame 0 and context 0 resident, running a command without status on rods 0 to 2. -/
def run0 : RunCmd :=
  { cmd := { fn := 1, q := 0, cq := 0, hdr := 0, part := 0, status := 0, nsw := 0, debit := 0, result := 0, mute := false }
    rods := [0, 1, 2], slots := [], slotRead := [], reserved := [], holds := [], ended := false, layer := [], mark := 0, began := 0
    ran := 0, pubSteps := [], convs := [], sub := 0 }

def busy (l : List (Nat × Nat)) : State :=
  { up ([(kPT_STATE 0, 2), (kPT_FRAMES 0, 1), (kPT_RESIDENT 0, 0)] ++ l) with
    frameOwner := [(0, 0)], ctxs := [(0, { run := some run0, enabled := true })]
    rods := [(0, { st := .enabled }), (1, { st := .enabled }), (2, { st := .enabled })]
    parts := [(0, { slices := [(0, 0x8000), (1, 0x8001), (2, 0x8002)] })] }

/-- Rod 0 of `busy` issues operations. -/
theorem test_busy_issues : (busy []).issues 0 = true := by decide +kernel

/-- A number with values placed at bit positions. -/
def fl (l : List (Nat × Nat)) : Nat := l.foldl (fun a x => a + x.2 * 2 ^ x.1) 0

/-- `busy` with rod 0 changed. -/
def withRod (f : Rod → Rod) : State := (busy []).setRod 0 (f { st := .enabled })

/-- `busy`, so long after its start that every timer of an engine is over. -/
def later (s : State) : State := { s with rodTenths := 10000000 }

/-- Two partitions that run commands, partition 0 on frame 0 and partition 1 on frame 1; pairing 0 joins them as teacher and
student, with a ring of four slots in the teacher's slice 0 and its grant at the student's entry 9. -/
def duo (l : List (Nat × Nat)) (x : Pairing) (c0 c1 : RunCmd → RunCmd) : State :=
  { (up ([(kPT_STATE 0, 2), (kPT_STATE 1, 2), (kPT_FRAMES 0, 1), (kPT_FRAMES 1, 2), (kPT_RESIDENT 0, 0), (kPT_RESIDENT 1, 0),
      (kTY_STATE 0, 1), (kTY_TEACHER 0, 0), (kTY_NREC 0, 4), (kTY_LEAD 0, 2), (kTY_RSIZE 0, 128)] ++ l)).setBlob (kTY_RING 0) 0 [0, 0] with
    frameOwner := [(0, 0), (1, 1)]
    ctxs := [(0, { run := some (c0 run0), enabled := true }), (8, { run := some (c1 { run0 with rods := [3] }), enabled := true })]
    rods := [(0, { st := .enabled }), (3, { st := .enabled })]
    parts := [(0, { slices := [(0, 0x8000)] }), (1, { slices := [(0, 0x8003), (9, 0xE000)] })]
    pairings := [(0, { x with students := [(0, 2)], grants := [(0, 9)] })] }


/-! Mesh. -/

def pkt0 (k : MeshKind) (p : Nat) : MeshPacket := { src := 1, dst := 0, part := p, vc := 2, len := 64, seq := 0, sent := 0, kind := k }

theorem wit_StepRunsFrontCommand : ({ State.reset with pending := [.logout] } : State).pending = .logout :: [] := rfl

theorem wit_IdleStepIsOneNanosecond : State.reset.pending = [] := rfl

def mesh0 : State := { busy [] with rodTenths := 1000 }

/-- A write from rod 0 to rod 1. -/
def sent0 : MeshReq := { id := 7, part := 0, src := 0, dst := 1, issued := 0, writer := .carry 2, ctx := 0, written := false }

theorem wit_MeshPacketActsOnlyWhereItMay :
    mesh0.fate 1 0 0 64 = .ok (1, 0) ∧ 0 + routeCost 1 0 64 ≤ mesh0.cycle ∧ mesh0.mayDeliver 0 0 = true ∧
      mesh0.mayDeliver 1 0 = false ∧ mesh0.decks.udBadIn 16 64 = false ∧ mesh0.physOk 0 16 64 = true ∧ mesh0.owner 0 < 16 ∧
      packetOk (pkt0 (.write 16 0 (List.replicate 64 1)) 0) = true ∧
      packetOk { pkt0 (.response 7) 0 with vc := 1 } = true ∧ packetOk { pkt0 (.ack 7) 0 with vc := 1 } = true ∧
      mesh0.heldBack (pkt0 (.write 16 0 (List.replicate 64 1)) 0) = false ∧
      mesh0.packetWaits (pkt0 (.write 16 0 (List.replicate 64 1)) 0) = false ∧
      tget 0 mesh0.mesh.order ((1 * 576 + 0) * 4 + 2) ≤ (pkt0 (.ack 7) 0).sent ∧
      ({ mesh0 with mesh := { acks := [7], vc2 := [{ sent0 with id := 0 }] } } : State).mesh.vc2.find? (fun x => x.id == 0)
        = some { sent0 with id := 0 } ∧
      sent0.gone = false ∧ mesh0.fate 1 0 0 64 = mesh0.fate sent0.dst sent0.src 0 64 := by
  refine ⟨rfl, ?_⟩; decide +kernel

/-- A router inside a full fence discards what comes for it, and one that does not run loses what it holds. -/
theorem wit_MeshPacketLost :
    ((mesh0.setRod 0 { mesh0.rod 0 with closedAt := 1 }).fate 1 0 50 64 = .error (some 1)) ∧
      (State.reset.fate 1 0 0 64 = .error none) := by
  exact ⟨rfl, rfl⟩

def lost0 (w : Writer) : MeshReq := { id := 7, part := 0, src := 0, dst := 1, issued := 0, writer := w, ctx := 0, written := false }
def mesh1 (w : Writer) : State :=
  { busy [] with rodTenths := 655360, mesh := { vc0 := [lost0 w], vc2 := [lost0 w] } }

theorem wit_MeshLossIsSettled :
    (mesh1 (.mover 0 1)).mesh.vc0.find? (fun x => x.id == 7) = some (lost0 (.mover 0 1)) ∧
      (mesh1 (.stager 0 3 0 0 64)).mesh.vc2.find? (fun x => x.id == 7) = some (lost0 (.stager 0 3 0 0 64)) ∧
      (mesh1 (.carry 2)).mesh.vc2.find? (fun x => x.id == 7) = some (lost0 (.carry 2)) ∧
      (let r : MeshReq := { lost0 (.carry 2) with written := true }
       ({ up [] with mesh := { vc2 := [r] } } : State).mesh.vc2.find? (fun x => x.id == 7) = some r ∧ r.held = false ∧
         r.gone = false ∧ (lost0 (.carry 2)).written = false) ∧
      (∀ x ∈ (mesh1 (.stager 0 3 0 0 64)).mesh.vc2, x.id < 8) ∧
      ({ up [] with mesh := { vc2 := [{ lost0 (.carry 2) with held := true }] } } : State).mesh.vc2.any (·.held) = true ∧
      0 + 65536 ≤ (mesh1 (.mover 0 1)).cycle ∧ ((mesh1 (.mover 0 1)).ctx 0 0).run.map (·.cmd.status) = some 0 := by
  decide +kernel

theorem wit_FencesBeginAtTheirThresholds :
    (recent (up []).stroke 1000 ((up []).rod 5).flitErrs).length < 3 ∧
      (recent (up []).stroke 1000 ((up []).rod 5).wdogs).length < 2 ∧ ((up []).rod 5).fenceLevel = 0 ∧
      (let s := { up [] with rods := [(5, { flitErrs := [0, 0, 0], wdogs := [0, 0] })] }
       3 ≤ (recent s.stroke 1000 (s.rod 5).flitErrs).length ∧ 2 ≤ (recent s.stroke 1000 (s.rod 5).wdogs).length ∧
         (s.rod 5).fenceLevel = 0) ∧
      (up []).dictUp = true ∧ (up []).mayWrite (.mailbox 0) = true ∧ (up []).computeUp = true ∧
      bits (0x10005 : BitVec 32) 9 0 = 5 ∧ bits (0x10005 : BitVec 32) 17 16 = 1 ∧
      bits (0x20005 : BitVec 32) 17 16 = 2 ∧ (up []).fenceAllowed 5 = true ∧
      bits (0x00005 : BitVec 32) 17 16 = 0 ∧ bits (0x30005 : BitVec 32) 17 16 = 3 ∧ 576 ≤ bits (0x10240 : BitVec 32) 9 0 := by
  decide +kernel

theorem wit_RouteEpochEndsInFullFences :
    ({ up [] with mesh := { phase := 1 } } : State).mesh.phase = 1 ∧ ({ up [] with mesh := { phase := 2 } } : State).mesh.phase = 2 ∧
      ({ up [] with mesh := { phase := 3, epochRods := [5] } } : State).mesh.phase = 3 ∧
      (let s := { up [] with rods := [(5, { st := .fencing, target := 1 })] }
       (s.rod 5).st = .fencing ∧ (s.rod 5).target = 1 ∧ s.runsOn 5 = false) := by
  decide +kernel

/-! Matrix array. -/

/-- 1 × 1 × 1 in HB16, 1 × 1 read-outs, CLEAR of bank 1. -/
def mm : BitVec 512 := BitVec.ofNat 512 (fl [(0, 1), (19, 1), (26, 1), (33, 1), (64, 0x3F800000), (96, 0x3F800000)])
def mmRo : BitVec 512 := mm ||| 0x10000
def ro (dest : Nat) : BitVec 512 := BitVec.ofNat 512 (fl [(0, 2), (17, dest), (19, 1), (26, 1)])
def cl : BitVec 512 := BitVec.ofNat 512 (fl [(0, 3), (12, 1)])
def matOp (d : BitVec 512) (ph : MatPhase) : MatOp :=
  { seq := 4, desc := d, draw := noDraw, accepted := 0, phase := ph, start := 0, ts := 0 }

theorem wit_MatrixDescriptorsAreQueued :
    (busy []).issues 0 = true ∧ (((busy []).rod 0).mq.filter (fun e => e.phase = .queued)).length < 4 ∧
      (busy []).settleRod 0 = busy [] ∧
      (4 ≤ ((((withRod (fun r => { r with mq := List.replicate 4 (matOp mm .queued) })).settleRod 0).rod 0).mq.filter
        (fun e => e.phase = .queued)).length) ∧
      (∀ c, (busy []).runCmd ((busy []).owner 0) = some c → c.cmd.status = 0) ∧ (busy []).matCheck ((busy []).owner 0) mm = 0 ∧ mdOp mm = 1 ∧
      (busy []).matCheck ((busy []).owner 0) (ro 0) = 0 ∧ mdOp (ro 0) = 2 ∧
      (busy []).matCheck ((busy []).owner 0) cl = 0 ∧ mdOp cl = 3 ∧
      (let s := later (withRod (fun r => { r with mq := [matOp cl .queued] }))
       (s.rod 0).mq = [matOp cl .queued] ∧ s.switching 0 = false ∧ (s.rod 0).chainReads s.cycle (mdBank cl) 4 = false ∧
         (s.rod 0).bankFrom (matOp cl .queued) + 16 ≤ s.cycle) ∧
      ((busy []).rod 0).dq = [] ∧
      (busy []).matCheck ((busy []).owner 0) 1 ≠ 0 ∧ (busy []).matCheck ((busy []).owner 0) 2 ≠ 0 ∧
      (busy []).matCheck ((busy []).owner 0) 4 ≠ 0 ∧ mdOp 4 ≠ 1 ∧ mdOp 4 ≠ 2 := by
  decide +kernel

theorem wit_MatmulAccumulatesInOrder :
    ((later (withRod (fun r => { r with mq := [matOp mm .queued] }))).settleRod 0).mayStream 0 = some (matOp mm .queued) ∧
      mdM mm ≤ 64 ∧ mdN mm ≤ 64 ∧ mdOp mm ≠ 3 ∧ (recent (busy []).stroke 1000 ((busy []).rod 0).opcErrs).length < 2 := by
  decide +kernel

theorem wit_MatrixWorkCompletes :
    (let s := later (withRod (fun r => { r with mq := [matOp mmRo .streaming] }))
     ((s.settleRod 0).rod 0).mq.find? (fun x => x.phase = .streaming) = some (matOp mmRo .streaming) ∧ 0 + mdStream mmRo + 65 ≤ s.cycle ∧
       mdRoEn mmRo = true) ∧
    (let s := later (withRod (fun r => { r with mq := [matOp mm .streaming] }))
     ((s.settleRod 0).rod 0).mq.find? (fun x => x.phase = .streaming) = some (matOp mm .streaming) ∧ 0 + mdStream mm + 65 ≤ s.cycle ∧
       mdRoEn mm = false ∧ (s.settleRod 0).runCmd ((s.settleRod 0).owner 0) = some run0) ∧
    ([0, 2].all (fun d =>
      let w := (later (withRod (fun r => { r with mq := [matOp (ro d) .reading] }))).settleRod 0
      (w.rod 0).mq.find? (fun x => x.readEnds w.cycle) == some (matOp (ro d) .reading) && !w.roWaits (w.owner 0) 0 (ro d) &&
        mdRoDest (ro d) == d && cwDst (mdCcw (ro d)) == 0 && decide (mdM (ro d) ≤ 1))) = true := by
  decide +kernel

/-! Vector engine. -/

/-- One element x + x in F32; cross-lane descriptors of 64 elements; 64-byte moves at deck address 0. -/
def ch : BitVec 1536 := BitVec.ofNat 1536 (fl [(0, 1), (16, 1), (32, 1), (41, 1), (42, 1), (136, 64), (512, 1)])
def cross (op : Nat) : BitVec 1536 :=
  BitVec.ofNat 1536 (fl [(0, op), (16, 64), (32, 1), (35, if op = 2 || op = 4 then 1 else 0), (41, 1), (42, 1), (136, 4096),
    (88, 2048)])
def move (op deck : Nat) : BitVec 1536 := BitVec.ofNat 1536 (fl [(0, op), (16, 1), (42, 1), (136, 64), (400, deck), (440, 64)])
def vecOp (d : BitVec 1536) : VecOp := { seq := 4, desc := d, draw := noDraw, accepted := 0, regs := [] }
def moveOp (d : BitVec 1536) (r : List Nat) : DeckMove := { seq := 4, desc := d, accepted := 0, going := true, req := r, lost := false }

theorem wit_VectorDescriptorsAreQueued :
    (busy []).issues 0 = true ∧ ((busy []).rod 0).vq.length < 4 ∧ ((busy []).rod 0).dq.length < 8 ∧
      ((busy []).rod 0).regStall ch = false ∧ (busy []).vecCheck ((busy []).owner 0) ch = 0 ∧ vdOp ch = 1 ∧
      ([2, 3, 4, 5, 6, 7, 8].all (fun o => ((busy []).vecCheck ((busy []).owner 0) (cross o) == 0) && vdOp (cross o) == o &&
        !((busy []).rod 0).regStall (cross o))) = true ∧
      ([9, 10].all (fun o => ((busy []).vecCheck ((busy []).owner 0) (move o 0) == 0) && vdOp (move o 0) == o)) = true ∧
      (busy []).udPhys ((busy []).owner 0) (vdDeck (move 9 0)) 64 false = some 0 ∧
      (busy []).udPhys ((busy []).owner 0) (vdDeck (move 9 (2 ^ 29))) 64 false = some (2 ^ 29) ∧
      (busy []).vecCheck ((busy []).owner 0) (move 9 (2 ^ 29)) = 0 ∧
      (busy []).vecCheck ((busy []).owner 0) 0 ≠ 0 ∧ (busy []).vecCheck ((busy []).owner 0) 1 ≠ 0 ∧
      (busy []).vecCheck ((busy []).owner 0) 2 ≠ 0 ∧ (busy []).vecCheck ((busy []).owner 0) 9 ≠ 0 ∧
      ([0, 2 ^ 29].all (fun a =>
        let e := { moveOp (move 10 a) [] with going := false }
        let s := withRod (fun r => { r with dq := [e] })
        let w := s.setRod 0 ((s.rod 0).settleAt s.cycle (!s.switching 0))
        decide ((s.rod 0).dq = e :: []) && !s.switching 0 && !(w.rod 0).clash s.cycle e.seq (vdReads e.desc) (vdWrites e.desc) &&
          (packets4k (vdBytes e.desc)).all (fun c => (s.ringTouch (s.owner 0) (vdDeck e.desc + c.1) c.2).isEmpty) &&
          s.udPhys (s.owner 0) (vdDeck e.desc) 64 false == some a)) = true ∧
      ((busy []).rod 0).regStall 0 = false ∧ ((busy []).rod 0).regStall 1 = false ∧ ((busy []).rod 0).regStall 2 = false := by
  decide +kernel

theorem wit_VectorWorkTakesEffect :
    ((later (withRod (fun r => { r with vq := [vecOp ch] }))).settleRod 0).mayChain 0 = some (vecOp ch) ∧
    (let v : VecRun := { op := vecOp ch, start := 0, done := 9, writes := [(64, 1)], masks := [], scalar := some (3, 5), lut := []
                         nsw := 1, conv := none }
     let s := (later (withRod (fun r => { r with vrun := some v }))).settleRod 0
     (s.rod 0).vrun = some v ∧ v.done ≤ s.cycle ∧ s.runCmd (s.owner 0) = some run0) ∧
    ([9, 10].all (fun o =>
      let e := moveOp (move o 0) []
      let s := (later (withRod (fun r => { r with dq := [e] }))).settleRod 0
      decide ((s.rod 0).dq = e :: []) && e.going && !e.lost && !s.moveWaits (s.owner 0) 0 e && (s.rodWrites 0).isEmpty &&
        decide (s.udPhys (s.owner 0) (vdDeck e.desc) (vdBytes e.desc) (vdOp e.desc == 10) = some 0) &&
        !s.decks.udBadIn 0 (vdBytes e.desc) && vdOp e.desc == o && s.ringOk (s.owner 0) (vdDeck e.desc) (vdBytes e.desc))) = true := by
  decide +kernel

/-! Decks. -/

def req (d : Option (List Byte)) : SliceReq := { off := 64, len := 64, data := d, ecc := .ok }
def rot (n : Nat) : State := { busy [] with decks := { rot := [(0, n)] } }

theorem wit_SliceGrantsFollowThePattern :
    ((rot 2).rod 0).st ≠ .off ∧ ((rot 2).rod 0).st ≠ .fullFenced ∧ tget 0 (rot 2).decks.rot 0 % 2 = 0 ∧
      tget 0 (rot 1).decks.rot 0 % 4 = 1 ∧ (rot 2).sliceWaits 0 (some (req (some (List.replicate 64 1)))) = some (req (some (List.replicate 64 1))) ∧
      (rot 1).sliceWaits 0 (some (req none)) = some (req none) ∧ (rot 2).decks.udBadIn (0 * 2 ^ 29 + 64) 64 = false ∧
      (rot 1).decks.udBadIn (0 * 2 ^ 29 + 64) 64 = false ∧ partWords (0 * 2 ^ 29 + 64) 64 = [] ∧ (req none).ecc = .ok ∧ (rot 2).physOk ((rot 2).owner 0) (0 * 2 ^ 29 + 64) 64 = true := by
  decide +kernel

theorem wit_DeckErrorsAndZeroing :
    tget false ({ up [] with decks := { rowCopy := [(5, true)], sparesOut := [(0, true)] } } : State).decks.rowCopy (0 * 2 ^ 32 + 5) = true ∧
      tget false ({ up [] with decks := { rowCopy := [(5, true)], sparesOut := [(0, true)] } } : State).decks.sparesOut 0 = true ∧
      tget false ({ up [] with decks := { rowCopy := [(5, true)] } } : State).decks.sparesOut 0 = false ∧
      (up []).boot.stage = 6 ∧ tget 0 (up []).decks.pkg 3 = 0 ∧
      (recent (up []).stroke 1000 (tget [] (up []).decks.pkgErrs 3)).length < 16 ∧ (up []).inTables 0 32 = false ∧
      tget 0 ({ up [] with decks := { zeroing := [(4, 1)] } } : State).decks.zeroing 4 ≠ 0 ∧
      (let s := { busy [] with decks := { filling := [(7, 0)] } }
       s.decks.filling.find? (fun f => f.1 == 7) = some (7, 0) ∧ tget 0xFF s.decks.owner 9 = 0xFF ∧ s.o (kPT_STATE 0) = 2 ∧
       (upto 1024).find? (fun j => !bit (tget 0 (s.part 0).extents j) 15) = some 0) := by
  decide +kernel

def ld1 : BitVec 512 := BitVec.ofNat 512 (fl [(0, 1), (8, 1), (40, 3), (64, 64), (208, 64), (248, 64)])
def st1 : BitVec 512 := BitVec.ofNat 512 (fl [(0, 2), (8, 1), (40, 3), (64, 64), (208, 64), (248, 64)])
def stg (n : Nat) (d : BitVec 512) : Stage := { id := 9, desc := d, phase := n, status := 0, cmd := none, fail := 0, ctx := 0 }
def staged (n : Nat) (d : BitVec 512) : State :=
  (busy []).setPart 0 { slices := [(0, 0x8000)], extents := [(0, 0x8005)], stageQ := [stg n d] }

theorem wit_spareRowsUsed :
    Config.spareRows ≤ tget 0 ({ up [] with decks := { rowCopy := [(5, true)], spareUsed := [(0, Config.spareRows)] } } : State).decks.spareUsed 0 + 1 :=
  Nat.le_succ _

def stagedUnit (d : BitVec 512) : State :=
  { staged 1 d with mesh := { nextId := 4, vc2 := [{ id := 3, part := 0, src := 0, dst := 0, issued := 0, writer := .stager 0 9 0 0 64, ctx := 8, written := false }] } }

theorem wit_StagesMoveAndCount :
    (busy []).issues 0 = true ∧ ((busy []).part ((busy []).owner 0)).stageQ.length < 256 ∧ (staged 0 ld1).fatal = false ∧
      (((staged 0 ld1).part 0).stageQ.filter (fun x => x.phase == 1)).length < 16 ∧
      ((staged 0 ld1).part 0).stageQ.find? (fun x => x.phase == 0) = some (stg 0 ld1) ∧
      (staged 0 ld1).stageCheck 0 ld1 = 0 ∧ sgOp ld1 = 1 ∧ sgPackets ld1 = [(0, 0, 64)] ∧
      ((staged 0 0).part 0).stageQ.find? (fun x => x.phase == 0) = some (stg 0 0) ∧ (staged 0 0).stageCheck 0 0 ≠ 0 ∧
      ((staged 1 ld1).part 0).stageQ = [stg 1 ld1] ∧ (staged 1 ld1).mesh.vc2 = [] ∧ (staged 1 ld1).udPhys 0 (sgUd ld1 0) 64 true = some 0 ∧
      (staged 1 ld1).ldPhys 0 (sgLd ld1 0) = some (5 * 2 ^ 30) ∧ (staged 1 ld1).ringOk 0 (sgUd ld1 0) 64 = true ∧
      (staged 1 ld1).ldBadIn 0 (sgLd ld1 0) 64 = false := by
  decide +kernel

theorem wit_StagePackets :
    ([(1, ld1), (2, st1)].all (fun c =>
      let s := stagedUnit c.2
      decide ((s.part 0).stageQ = [stg 1 c.2]) && sgOp c.2 == c.1 && sgRowBytes c.2 % 64 == 0 && decide (0 < sgRowBytes c.2) &&
        (sgLd c.2 0 + 0) % 64 == 0 && s.mesh.vc2.find? (fun q => q.id == 3) == s.mesh.vc2.head? &&
        s.mesh.vc2.all (fun q => !q.held && !q.gone && decide (q.writer = .stager 0 9 0 0 64) && decide (q.id < s.mesh.nextId)) &&
        !s.unitBusy 0 9 0 0 64 && s.udPhys 0 (sgUd c.2 0 + 0) 64 (c.1 == 1) == some 0 &&
        s.ldPhys 0 (sgLd c.2 0 + 0) == some (5 * 2 ^ 30) && !s.decks.udBadIn 0 64 && s.ringOk 0 (sgUd c.2 0 + 0) 64 &&
        !s.ldBadIn 0 (sgLd c.2 0 + 0) 64)) = true ∧ (staged 1 ld1).decks.stagers = [] ∧
      (match (stagedUnit ld1).fate 0 0 0 64 with | .ok _ => true | .error _ => false) = true := by
  decide +kernel

theorem wit_NoPushWaits (n : Nat) (d : BitVec 512) (h : ((staged n d).rods.all (fun q => q.2.wait == .none)) = true) :
    ∀ r x, ((staged n d).rod r).wait ≠ .stagePush x := by
  intro r x
  simp only [State.rod]
  revert h
  generalize (staged n d).rods = t
  intro h
  induction t with
  | nil => simp [tget]
  | cons a t ih =>
    simp only [List.all_cons, Bool.and_eq_true] at h
    simp only [tget]
    split
    · have := h.1; simp at this; simp [this]
    · exact ih h.2

/-! Tally. -/

def fn0 : Path := .mailbox 0

/-- A part with partitions 0 and 1 of one tenant and a pairing's settings that FORM accepts. -/
def formable : State :=
  { (up [(kPT_STATE 0, 2), (kPT_STATE 1, 2), (kTY_TEACHER 0, 0), (kTY_STUDENTS 0, 2), (kTY_VOCAB 0, 4096), (kTY_HIDDEN 0, 1024),
      (kTY_GROUP 0, 1), (kTY_NREC 0, 4), (kTY_LEAD 0, 2), (kTY_TEMP 0, 0x3F800000), (kTY_WEIGHT 0, 0x3F800000),
      (kTY_STEP_TOKENS 0, 1)]).setBlob (kTY_RING 0) 0 [0, 0] with
    parts := [(0, { slices := [(0, 0x8000)] }), (1, { slices := [(0, 0x8003)] })] }

theorem wit_PairingsFormAndClose :
    formable.ringBefore fn0 = formable ∧ (up []).ringBefore fn0 = up [] ∧ (duo [] {} id id).ringBefore fn0 = duo [] {} id id ∧
      formable.dictUp = true ∧ formable.mayWrite fn0 = true ∧ formable.tyState 0 = tyFREE ∧ formable.formCheck 0 = 0 ∧
      (up []).formCheck 0 ≠ 0 ∧ (up []).tyState 0 = tyFREE ∧
      (duo [] {} id id).tyState 0 = tyACTIVE ∧ (duo [(kTY_STATE 0, 2)] {} id id).tyState 0 = tyDRAINING ∧
      (duo [(kTY_STATE 0, 4)] {} id id).tyState 0 = tyBROKEN ∧ (duo [(kPT_STATE 2, 2)] {} id id).attachCheck 0 2 = 0 ∧
      ((duo [] { attach := 3 } id id).pairing 0).attach = 2 + 1 ∧ ((duo [] {} id id).pairing 0).attach ≠ 1 + 1 ∧
      (duo [] {} id id).studentIdx 0 1 = some 0 ∧ (duo [(kTY_STATE 0, 5)] {} id id).tyState 0 = tyCLOSING ∧
      ((upto 576).all (fun r => !tallyWait 0 ((duo [(kTY_STATE 0, 5)] {} id id).rod r).wait)) = true ∧
      (∀ e ∈ (duo [(kTY_STATE 0, 5)] {} id id).pend, ¬(e.kind = 6 ∧ e.inst = 0)) := by
  decide +kernel

def mv1 : Move := { toStudent := false, frame := 1, student := 1, eos := 0, strokeB := 0, movingAt := 0 }
/-- `duo` with frames 0 and 8 for the teacher and 1 and 9 for the student. -/
def duo2 (l : List (Nat × Nat)) (x : Pairing) : State :=
  { duo ([(kPT_FRAMES 0, 0x101), (kPT_FRAMES 1, 0x202)] ++ l) x id id with ctxs := [] }

theorem wit_RebalancingMovesOneFrame :
    (duo2 [] {}).ringBefore fn0 = duo2 [] {} ∧ (duo2 [] {}).dictUp = true ∧ (duo2 [] {}).mayWrite fn0 = true ∧ (duo2 [] {}).tyState 0 = tyACTIVE ∧ ((duo2 [] {}).pairing 0).move = none ∧ ((duo2 [] {}).studentIdx 0 1).isSome = true ∧
      (duo2 [] {}).moveFits 0 true 8 1 = true ∧ (duo2 [] {}).moveFits 0 false 1 1 = true ∧
      (let s := duo2 [(kTY_STATE 0, 2)] { move := some mv1 }
       (s.pairing 0).move = some mv1 ∧ s.tyState 0 = tyDRAINING ∧
       (∀ r ∈ (s.pairing 0).recs, seqDist r.seq mv1.eos ≤ 0 → r.released = true) ∧ (s.moveEnds 0 mv1).1 < 16 ∧
       s.anyRun (s.moveEnds 0 mv1).1 = false ∧ s.anyRun (s.moveEnds 0 mv1).2 = false) ∧
      (let s := duo2 [(kTY_STATE 0, 3)] { move := some mv1 }
       (s.pairing 0).move = some mv1 ∧ s.tyState 0 = tyMOVING ∧ (s.moveEnds 0 mv1).1 < 16 ∧ (s.moveEnds 0 mv1).2 < 16 ∧ (s.moveEnds 0 mv1).1 ≠ (s.moveEnds 0 mv1).2 ∧
       (s.pairing 0).lostHeld = [] ∧ (s.pairing 0).closeHeld = false ∧ (∀ e ∈ s.pend, e.kind ≠ 7)) ∧
      (let s := duo2 [(kTY_STATE 0, 2), (kST_NUMBER, 100), (kTY_REBAL_LIMIT 0, 50)] { move := some mv1 }
       (s.pairing 0).move = some mv1 ∧ s.tyState 0 = tyDRAINING ∧ mv1.strokeB + s.o (kTY_REBAL_LIMIT 0) ≤ s.stroke) := by
  decide +kernel

def call0 (feat : Bool) : PublishCall :=
  { seq := 0, parts := 1, tokens := 1, mask := 1, step := 5, token0 := 0, position := 0, eos := true, feat := feat, nsw := 0 }
def rec0 (ph : Nat) : Record := { seq := 0, phase := ph }
def reserved0 (c : RunCmd) : RunCmd := { c with reserved := [0] }

theorem wit_RecordsArePublishedWhole :
    (let s := duo [] {} id id
     s.issues 0 = true ∧ s.tallyCaller 0 = some (0, none) ∧ s.runCmd (s.owner 0) = some run0 ∧ s.resident (s.owner 0) = 0 ∧
     run0.ended = false ∧ run0.reserved = [] ∧ (s.pairing 0).nextSeq < 2 ^ 32 ∧
     (s.partRods (s.owner 0)).all (fun k => !acquireWait 0 (s.rod k).wait) = true ∧ s.tyState 0 ≠ tyBROKEN ∧ s.tyState 0 ≠ tyCLOSING ∧
     s.slotFree 0 (s.pairing 0).nextSeq = true) ∧
    (duo [] { nextSeq := 4, recs := [rec0 0] } id id).slotFree 0 4 = false ∧
    (let s := (duo [] {} id id).setRod 0 { st := .enabled, wait := .acquire 0 0 }
     (s.partRods (s.o (kTY_TEACHER 0))).find? (fun r => decide ((s.rod r).wait = .acquire 0 (s.pairing 0).nextSeq)) = some 0 ∧
     s.resident (s.o (kTY_TEACHER 0)) = 0 ∧ (s.runCmd (s.o (kTY_TEACHER 0))).isSome = true ∧ s.tyState 0 ≠ tyFREE ∧
     s.slotFree 0 (s.pairing 0).nextSeq = true) ∧
    (let s := duo [] { nextSeq := 1, recs := [rec0 0] } reserved0 id
     s.issues 0 = true ∧ s.tallyCaller 0 = some (0, none) ∧ s.runCmd (s.owner 0) = some (reserved0 run0) ∧
     (call0 false).seq ∈ (reserved0 run0).reserved ∧ (s.pairing 0).rec? 0 = some (rec0 0) ∧ (rec0 0).phase = 0 ∧
     (rec0 0).fields = none ∧ (call0 false).position + (call0 false).tokens ≤ 131072) ∧
    (let r : Record := { rec0 1 with calls := 1, fields := some (call0 false), callers := [(0, 0)] }
     let s := duo [] { nextSeq := 1, recs := [r] } reserved0 id
     (s.pairing 0).rec? 0 = some r ∧ r.fields = some (call0 false) ∧ r.phase = 1 ∧ s.writesVisible 0 r = true ∧
     s.udPhys (s.o (kTY_TEACHER 0)) (s.slotAddr 0 0) 64 false = some 0 ∧
     (s.ctx (s.o (kTY_TEACHER 0)) 0).run = some (reserved0 run0) ∧ 0 ∈ (reserved0 run0).reserved ∧ (call0 false).eos = true) := by
  decide +kernel

def pub (v : Bool) (m : List Nat) : Record :=
  { seq := 0, phase := 2, fields := some (call0 false), isVoid := v, pubMask := m, mask := m }
def held0 (c : RunCmd) : RunCmd := { c with holds := [0] }
def cmd1 : RunCmd := { run0 with rods := [3] }

theorem wit_StudentsHoldRecords :
    ([pub true [0], pub false [], pub false [0], rec0 0].all (fun r =>
      let s := duo [] { nextSeq := 1, recs := [r] } id id
      s.issues 3 && decide (s.tallyCaller 3 = some (0, some 0)) && decide (s.runCmd (s.owner 3) = some cmd1) &&
        s.resident (s.owner 3) == 0 && cmd1.holds.isEmpty && (tget [] (s.pairing 0).seen 0).isEmpty &&
        decide (-(s.o (kTY_NREC 0) : Int) ≤ seqDist 0 (s.pairing 0).nextSeq) &&
        decide (seqDist 0 (s.pairing 0).nextSeq ≤ (s.o (kTY_NREC 0) : Int) - 2) && s.tyState 0 != tyCLOSING &&
        s.tyState 0 != tyBROKEN && decide ((s.pairing 0).rec? 0 = some r))) = true ∧
    (let s := (duo [] { nextSeq := 1, recs := [pub false [0]] } id id).setRod 3 { st := .enabled, wait := .wait 0 0 }
     (s.rod 3).wait = .wait 0 0 ∧ (s.pairing 0).rec? 0 = some (pub false [0]) ∧ s.studentIdx 0 (s.owner 3) = some 0) ∧
    (let s := duo [] { nextSeq := 1, recs := [pub false [0]] } id held0
     s.issues 3 = true ∧ s.tallyCaller 3 = some (0, some 0) ∧ s.runCmd (s.owner 3) = some (held0 cmd1) ∧
     0 ∈ (held0 cmd1).holds ∧ (s.pairing 0).rec? 0 = some (pub false [0]) ∧ (tget (0, 0) (pub false [0]).rel 0).1 = 0 ∧
     s.udPhys (s.owner 3) (s.slotAddrFor 0 0 0) 64 false = some 0 ∧ (pub false [0]).fields = some (call0 false) ∧ s.recordBad 0 0 (pub false [0]) (call0 false) = false ∧ scaleOk 0x3F800000 = true ∧
     s.recordBad 0 0 { pub false [0] with nsw := nsInvalid } (call0 false) = true) := by
  decide +kernel

/-- A harvest of 4,096-byte region and 1 MiB buffer in the decks of partition 0. -/
def hv (l : List (Nat × Nat)) : State :=
  { busy ([(kTY_HV_FORM 0, 1), (kTY_HV_HIDDEN 0, 1024), (kTY_HV_BYTES 0, 2 ^ 20), (kTY_HV_BUF_BYTES 0, 2 ^ 20),
      (kTY_HV_TEMP 0, 0x3F800000)] ++ l) with
    parts := [(0, { slices := [(0, 0x8000)], extents := [(0, 0x8005)] })], harvests := [(0, { buf := [0] })] }

theorem wit_TallyWaitsEndAndHarvestCopies :
    ([(3, RodWait.wait 0 0), (0, RodWait.acquire 0 0)].all (fun c =>
      let r : Rod := { st := .enabled, wait := c.2, waitStrokes := 5 }
      let s := duo [(kTY_STALL_STROKES 0, 5), (kTY_ABORT_STROKES 0, 5)] {} id id
      let l := s.setRod c.1 r
      let x := s.ctx (s.owner c.1) 0
      let k := s.setCtx (s.owner c.1) 0 { x with savedRods := [(c.1, r)] }
      decide (l.tallyWaiter c.1 = some r) && decide (k.tallyWaiter c.1 = some r) && decide (waitPairing r.wait = some 0) &&
        l.o (kTY_STALL_STROKES 0) != 0 && decide (l.o (kTY_STALL_STROKES 0) ≤ r.waitStrokes) && !r.stalled &&
        k.o (kTY_ABORT_STROKES 0) != 0 && decide (k.o (kTY_ABORT_STROKES 0) ≤ r.waitStrokes) &&
        (waitPairing (l.rod c.1).wait).isSome && !(waitPairing (k.rod c.1).wait).isSome && decide (k.owner c.1 < 16) &&
        (k.ctx (k.owner c.1) 0).run.any (fun c => c.cmd.status == 0))) = true ∧
    (hv []).ringBefore fn0 = hv [] ∧ (hv []).dictUp = true ∧ (hv []).mayWrite fn0 = true ∧ (hv []).o (kTY_HV_ENABLE 0) ≠ 1 ∧ (hv []).hvBad 0 = false ∧
    (let s := hv [(kTY_HV_RSIZE 0, 18496)]
     (s.harvest 0).buf = 0 :: [] ∧ s.o (kTY_HV_HEAD 0) + s.o (kTY_HV_RSIZE 0) ≤ s.o (kTY_HV_BYTES 0) ∧
     s.udPhys 0 (s.o (kTY_HV_BUF 0) + 0) (s.o (kTY_HV_RSIZE 0)) false = some 0 ∧ 0 < s.o (kTY_HV_RSIZE 0) ∧
     s.o (kTY_HV_RSIZE 0) % 64 = 0 ∧ s.decks.udBadIn 0 (s.o (kTY_HV_RSIZE 0)) = false ∧
     s.ldPhys 0 (s.o (kTY_HV_BASE 0) + s.o (kTY_HV_HEAD 0)) = some (5 * 2 ^ 30) ∧
     (s.o (kTY_HV_BASE 0) + s.o (kTY_HV_HEAD 0)) % 2 ^ 30 + s.o (kTY_HV_RSIZE 0) ≤ 2 ^ 30) := by
  decide +kernel

/-! Numerics and reckoner. -/

def waitNum : State := (busy []).setRod 0 { st := .enabled, wait := .numerics 0 }
def fixed0 (s : State) : State := s.setNum 0 { scales := [(0, 0x3F800000)], fixedStep := 0 }

theorem wit_RunsStartAndEnd :
    (up []).ringBefore fn0 = up [] ∧ (busy []).ringBefore fn0 = busy [] ∧
      (up [(kRUN_STATE 0, 1)]).ringBefore fn0 = up [(kRUN_STATE 0, 1)] ∧ (up [(kRUN_STATE 0, 1)]).dictUp = true ∧
      (busy []).dictUp = true ∧ (busy []).mayWrite fn0 = true ∧ (up []).dictUp = true ∧ (up []).mayWrite fn0 = true ∧ (up []).running 0 = false ∧ (up []).anyCommand 0 = false ∧
      (up [(kRUN_STATE 0, 1)]).running 0 = true ∧ (busy []).anyCommand 0 = true ∧
      (let s := fixed0 (busy [(kRUN_STATE 0, 1)])
       s.issues 0 = true ∧ s.running (s.owner 0) = true ∧ s.fixed (s.owner 0) 0 = true ∧ s.fixed (s.owner 0) 1 = false ∧
       1 = (s.num (s.owner 0)).fixedStep + 1 ∧ s.fixed (s.owner 0) 2 = false ∧ 2 ≠ (s.num (s.owner 0)).fixedStep + 1) ∧
      (busy []).running ((busy []).owner 0) = false ∧ (waitNum.rod 0).wait = .numerics 0 ∧
      waitNum.running (waitNum.owner 0) = false ∧ (∀ c, (busy []).runCmd ((busy []).owner 0) = some c → c.cmd.status = 0) ∧
      (let s := fixed0 (waitNum.setO (kRUN_STATE 0) 1)
       (s.rod 0).wait = .numerics 0 ∧ s.running (s.owner 0) = true ∧ s.fixed (s.owner 0) 0 = true) := by
  decide +kernel

/-- An update descriptor: one element of slot 1, W, M, V and G at 64 B steps, WS at 0x100, of step 0, in `n` parts. -/
def ud (n g : Nat) : BitVec 512 :=
  BitVec.ofNat 512 (fl [(0, 1), (24, g), (32, n), (40, 1), (64, 1), (160, 0x100), (200, 0), (240, 0x40), (280, 0x80), (320, 0xC0)])

def pass0 (n ph : Nat) : Pass := { id := 0, part := 0, desc := ud n 0, run := 0, step := 0, cmd := none, reck := 0, phase := ph, late := false }
def ver (a : Bool) : Verdict := { part := 0, run := 0, step := 0, applied := a, l := 0x3F800000, seed := 7 }
def ten (n done : Nat) : TensorUpd :=
  { part := 0, run := 0, slot := 1, ws := 0x100, group := 0, parts := n, step := 0, sub := 0, tsn := 0x3F800000, tsw := 0x3F800000, done := done }
def sch0 : Sched := { part := 0, run := 0, step := 0, group := 0, t := 1, lr := 0x3A83126F, c1 := 0x3F800000, c2 := 0x3F800000 }

/-- `busy`, RUNNING, with a reckoner state, slot 1 for HB16, and 1.0 as weight scale, weight and gradient. -/
def rk (l : List (Nat × Nat)) (r : Reck) : State :=
  { busy ([(kRUN_STATE 0, 1)] ++ l) with
    reck := r
    parts := [(0, { slices := [(0, 0x8000), (1, 0x8001), (2, 0x8002)]
                    slots := [(1, BitVec.ofNat 1024 (0x3F800000 * 2 ^ 512 + 2 * 2 ^ 544))] })]
    decks := { ud := [(1, 0x3C), (0xC1, 0x3C), (0x102, 0x80), (0x103, 0x3F)] } }

theorem wit_PassesArePushedAndStarted :
    (rk [] {}).issues 0 = true ∧ (rk [] {}).runCmd ((rk [] {}).owner 0) = some run0 ∧ (rk [] {}).owner 0 = 0 ∧
      (rk [] {}).queueFill 0 < 4096 ∧ (rk [] {}).passCheck 0 (ud 1 0) = .ok 0 ∧
      (rk [] {}).passCheck 0 (ud 0 0) = .error stDESC_INVALID ∧ stDESC_INVALID ≠ 0 ∧
      (let s := rk [] { nextId := 1, q := [pass0 1 0] }
       (∀ y ∈ s.reck.q, y.reck = 0 → y.phase = 0) ∧ s.reck.q.find? (fun y => y.reck == 0) = some (pass0 1 0) ∧
       s.passOutcome (pass0 1 0) = none) ∧
      (let s := rk [] { nextId := 1, q := [pass0 1 0], verdicts := [ver true], sched := [sch0] }
       s.passOutcome (pass0 1 0) = some 0 ∧ s.mirrorHolds 0 = false ∧ s.streamBusy 0 (udWs (ud 1 0), 0, 4) = false ∧ gRule (s.rkGroup 0 (udGroup (pass0 1 0).desc)) ≠ 1 ∧
       (match s.joinTensor (pass0 1 0) with | .ok t => t.reck.tensors == [ten 1 0] | .error _ => false) = true ∧
       s.tensorOf 0 (ud 1 0) = none) ∧
      (let s := rk [] { nextId := 1, q := [pass0 1 0], verdicts := [ver true], sched := [sch0], tensors := [ten 2 1] }
       s.passOutcome (pass0 1 0) = some 0 ∧ s.streamBusy 0 (udWs (ud 1 0), 0, 4) = false ∧ s.mirrorHolds 0 = false ∧
       (match s.joinTensor (pass0 1 0) with | .ok _ => false | .error e => e.1 == stRK_ORDER) = true) ∧
      (rk [] { nextId := 1, q := [{ pass0 1 0 with late := true }] }).passOutcome { pass0 1 0 with late := true } = some stRK_STEP_RANGE ∧
      (rk [] { nextId := 1, q := [pass0 1 0], verdicts := [ver false] }).passOutcome (pass0 1 0) = some stRK_SKIPPED ∧
      stRK_SKIPPED < 2 ^ 16 ∧ stRK_SKIPPED ≠ 0 := by
  decide +kernel

theorem wit_full_update_queue : 4096 ≤ (rk [] { q := List.replicate 4096 (pass0 1 0) }).queueFill 0 := by
  have h : (pass0 1 0).part = 0 ∧ (pass0 1 0).phase = 0 := by decide +kernel
  show 4096 ≤ ((List.replicate 4096 (pass0 1 0)).filter (fun x => x.part == 0 && x.phase == 0)).length
  rw [List.filter_replicate, if_pos (by rw [h.1, h.2]; decide), List.length_replicate]

def rkRun (n done ph : Nat) : State :=
  rk [] { nextId := 1, q := [pass0 n ph], verdicts := [ver true], sched := [sch0], tensors := [ten n done] }

theorem wit_PassesUpdateElements :
    (let s := rkRun 2 0 1
     s.reck.q.find? (fun y => y.reck == 0 && y.phase == 1) = some (pass0 2 1) ∧ s.mirrorHolds 0 = false ∧ s.passBusy (pass0 2 1) = false ∧ 0 < s.reck.nextId ∧
     (match s.passCtx (pass0 2 1) with
      | some c => c.d == ud 2 0 && c.t == ten 2 0 && (s.passWork c (s.passRounds c)).2.2.2.1 == 0 && decide (c.t.done + 1 < c.t.parts)
      | none => false) = true) ∧
    (let s := rkRun 1 0 1
     s.reck.q.find? (fun y => y.reck == 0 && y.phase == 1) = some (pass0 1 1) ∧ s.passBusy (pass0 1 1) = false ∧ (ten 1 0).fail = 0 ∧
     (match s.passCtx (pass0 1 1) with
      | some c => c.t == ten 1 0 && decide (c.t.parts ≤ c.t.done + 1) && gRule c.e != 1 | none => false) = true ∧
     udCount (ud 1 0) = 1 ∧
     ([(udW (ud 1 0), 2, 0, true), (udM (ud 1 0), 4, 0x40, true), (udV (ud 1 0), 4, 0x80, true), (udG (ud 1 0), 2, 0xC0, false)].all (fun q =>
       match s.rkItem 0 q.1 0 0 q.2.1 q.2.2.2 with | .ok a => a == q.2.2.1 | .error _ => false)) = true) ∧
    (let s := rkRun 1 1 2
     s.reck.tensors.find? (fun y => y.part == 0 && y.slot == 1 && decide (y.parts ≤ y.done)) = some (ten 1 1) ∧
     (match s.rkWrite 0 0x100 4 with | .ok a => a == 0x100 | .error _ => false) = true ∧ s.streamBusy 0 (0x100, 0, 4) = false ∧
     (s.part 0).slotLog = [] ∧ (ten 1 1).held = none ∧ s.reck.ready = []) := by
  decide +kernel

def job0 (r : Bool) : RootJob :=
  { part := 0, fb := 0, group := 0, layer := 0, wid := 0, trigger := 0, install := 20, running := r, run := 0, damp := 0x3F800000, facL := [(0, 0x3F800000)], facR := [(0, 0x3F800000)] }
/-- A factor block at address 0 with 1 by 1 factors at address 0x40. -/
def rkRoots (r : Bool) : State :=
  { rk [] { roots := [(0, [job0 r])] } with decks := { ud := mwrite [] 0 (leBytes 64 (fl [(0, 0x40), (40, 0x40), (272, 1), (288, 1)])) } }
def entry0 (t : Nat) : BitVec 512 := groupReset + BitVec.ofNat 512 (t * 2 ^ 384)

theorem wit_RootJobsAndGroups :
    tget [] (rkRoots false).reck.roots 0 = job0 false :: [] ∧ (rkRoots false).mirrorHolds 0 = false ∧
      tget [] (rkRoots true).reck.roots 0 = job0 true :: [] ∧
      (rkRoots true).mirrorHolds 0 = false ∧ (rkRoots true).rootsWait (job0 true) = false ∧ (rkRoots true).rootBusy (job0 true) = false ∧
      (rk [] {}).ringBefore fn0 = rk [] {} ∧ (rk [] {}).dictUp = true ∧ (rk [] {}).mayWrite fn0 = true ∧
      (rk [] { roots := [(0, [{ job0 true with fb := 2 ^ 38 }])] }).rootBusy { job0 true with fb := 2 ^ 38 } = false ∧
      (match ({ rkRoots true with reck := { (rkRoots true).reck with roots := tset [] (rkRoots true).reck.roots 0 [] } } : State).rootWork
          (job0 true) with | (_, _, .ok _) => true | _ => false) = true ∧
      (rk [] { roots := [(0, [{ job0 true with fb := 2 ^ 38 }])] }).factorBad 0 (2 ^ 38) ≠ 0 ∧
      (((rkRoots false).setRod 0 { st := .enabled, wait := .rootQuery 0 10 }).rod 0).wait = .rootQuery 0 10 ∧
      ((rkRoots false).setRod 0 { st := .enabled, wait := .rootQuery 0 10 }).rootPending 0 0 0 10 = false ∧
      (rk [] {}).issues 0 = true ∧ (rk [] {}).rootPending 0 0 0 20 = false ∧ (rkRoots true).rootPending 0 0 0 20 = true ∧
      ((rkRoots true).rod 0).wait ≠ .rootQuery 0 20 ∧ (up []).dictUp = true ∧ (up []).mayWrite fn0 = true ∧ groupBad 0 = true ∧
      groupBad (entry0 0) = false ∧ groupBad (entry0 1) = false ∧ (rk [] {}).running 0 = true ∧
      gT (entry0 1) ≠ gT ((rk [] {}).groupImage 0 0) ∧ gT (entry0 0) = gT ((rk [] {}).groupImage 0 0) := by
  decide +kernel

/-! Carry. -/

/-- A member at rank `r` of group 0 of partition 0, with `n` members in all. -/
def grp (n r : Nat) : State :=
  (up [(kCY_GROUP_SIZE 0, n), (kCY_GROUP_RANK 0, r), (kCY_FANIN 0, 2)]).setBlob (kCY_MEMBERS 0) (16 * r)
    (leBytes 8 ownNode ++ [0])

theorem grp_formOk (n r : Nat) (hr : r < 2)
    (h : (let s := up [(kCY_GROUP_SIZE 0, n), (kCY_GROUP_RANK 0, r), (kCY_FANIN 0, 2)]
          decide (1 ≤ s.cySize 0 0) && decide (s.cySize 0 0 ≤ 8192) && decide (s.cyRank 0 0 < s.cySize 0 0) &&
          decide (2 ≤ s.cyFanin 0 0) && decide (s.cyFanin 0 0 ≤ 16) && decide (s.o (kCY_HEADROOM 0) ≤ 16) &&
          decide (s.cyRank 0 0 = r)) = true) : (grp n r).formOk 0 0 = true := by
  simp only [Bool.and_eq_true, decide_eq_true_eq] at h
  have e0 (k : Nat) : (grp n r).o k = (up [(kCY_GROUP_SIZE 0, n), (kCY_GROUP_RANK 0, r), (kCY_FANIN 0, 2)]).o k := by
    simp [grp]
  have h1 : (grp n r).blobNum (kCY_MEMBERS 0) (16 * r) 8 = ownNode := by
    rw [grp, blobNum_setBlob _ _ _ _ _ (by simp) (by simp [blobSpan]; omega), List.take_left' (by simp), leNat_leBytes]
    exact Nat.mod_eq_of_lt (by have := ownNode_lt; omega)
  have h2 : (grp n r).blobNum (kCY_MEMBERS 0) (16 * r + 8) 1 = 0 := by
    have hb : (grp n r).blob (kCY_MEMBERS 0) (16 * r + 8) = 0 := by
      rw [grp, blob_setBlob _ _ _ _ _ _ (by simp [blobSpan]; omega) (by simp [blobSpan]; omega),
        if_pos ⟨rfl, by omega, by simp⟩]
      simp [List.getD_eq_getElem?_getD]
    simp [State.blobNum, upto, leNat, hb]
  have e1 : (grp n r).cyRank 0 0 = r := by rw [State.cyRank, e0]; exact h.2
  unfold State.formOk
  simp only [Nat.mul_zero, Nat.add_zero, e1, h1, h2]
  simp only [State.cySize, State.cyFanin, e0] at h ⊢
  simp only [State.cyRank, Nat.mul_zero, Nat.add_zero] at h ⊢
  simp [h]
  omega

theorem wit_CarryGroupsForm :
    (∀ n r, (grp n r).ringBefore fn0 = grp n r) ∧ (grp 1 0).formOk 0 0 = true ∧ (grp 3 0).formOk 0 0 = true ∧ (grp 3 1).formOk 0 0 = true := by
  refine ⟨fun _ _ => rfl, grp_formOk 1 0 (by decide) (by decide +kernel), grp_formOk 3 0 (by decide) (by decide +kernel),
    grp_formOk 3 1 (by decide) (by decide +kernel)⟩

/-- The child with rank `k` has been heard with a digest. -/
def heard (k : Nat) (d : BitVec 256) : Hello := { child := k, digest := d, epoch := 4, mismatch := false }

theorem wit_CarryGroupsForm_rest :
    (grp 3 0).dictUp = true ∧ (grp 3 0).mayWrite fn0 = true ∧ (grp 3 0).cyState 0 0 = cyIDLE ∧ (up [(kCY_GROUP_SIZE 0, 9000)]).formOk 0 0 = false ∧
      (grp 1 0).cySize 0 0 = 1 ∧ (grp 3 0).cySize 0 0 ≠ 1 ∧ (grp 3 0).grpKids 0 0 = [1, 2] ∧ ((grp 3 0).group 0 0).heard = [] ∧
      (grp 3 1).grpKids 0 0 = [] ∧ (grp 3 1).grpParent 0 0 = some 0 ∧ (grp 3 0).groupBuckets 0 0 = [] ∧
      (grp 3 0).grpParent 0 0 = none ∧
      (let s := ((grp 3 1).setCyState 0 0 cyFORMING).setGroup 0 0 { helloUp := true }
       s.cyState 0 0 = cyFORMING ∧ (s.group 0 0).helloUp = true) ∧
      (let s := (up [(kCY_GROUP_STATE 0, 1), (kST_NUMBER, 10 ^ 9)])
       (s.group 0 0).formAt + s.o (kCY_FORM_STROKES 0) ≤ s.stroke ∧ s.cyState 0 0 = cyFORMING) := by
  decide +kernel

/-- All children of a forming root have been heard, with equal digests. -/
theorem wit_CarryGroupsForm_root : ∃ s : State, ∃ d, s.cyState 0 0 = cyFORMING ∧ (s.group 0 0).helloUp = false ∧
    (∀ h ∈ (s.group 0 0).heard, h.child ≠ 2) ∧ s.grpParent 0 0 = none ∧
    (let hs := (s.group 0 0).heard ++ [heard 2 d]
     (∀ k ∈ s.grpKids 0 0, ∃ h ∈ hs, h.child = k) ∧ ∀ h ∈ hs, h.mismatch = false ∧ h.digest = s.groupDigest 0 0) := by
  let s0 : State := (grp 3 0).setCyState 0 0 cyFORMING
  let d := s0.groupDigest 0 0
  have hk : s0.grpKids 0 0 = [1, 2] ∧ s0.cyState 0 0 = cyFORMING ∧ s0.grpParent 0 0 = none := by decide +kernel
  refine ⟨s0.setGroup 0 0 { heard := [heard 1 d] }, d, hk.2.1, ?_, ?_, hk.2.2, ?_⟩
  · simp
  · simp [heard]
  · have e : (s0.setGroup 0 0 { heard := [heard 1 d] }).grpKids 0 0 = [1, 2] := hk.1
    have e2 : (s0.setGroup 0 0 { heard := [heard 1 d] }).groupDigest 0 0 = d := rfl
    rw [e, e2]
    simp [heard]

/-- A carry descriptor: operation, segments, chunk, and layer path; DST, WORK, SCALE and SRC lie in slice 0. -/
def bd (op segs chunk path : Nat) : BitVec 512 :=
  BitVec.ofNat 512 (fl [(0, op), (8, path), (48, segs), (160, 0x500000), (200, 0), (240, 0x800000), (280, 0x300000), (320, chunk)])

/-- `busy` with group 0 READY, of `n` members, this one at rank `r`, and carry state `c`. -/
def gp (n r : Nat) (l : List (Nat × Nat)) (c : CarryS) : State :=
  { busy ([(kCY_GROUP_STATE 0, 2), (kCY_GROUP_SIZE 0, n), (kCY_GROUP_RANK 0, r), (kCY_FANIN 0, 2)] ++ l) with cy := c }

theorem wit_CarryOperationsArePushed :
    (gp 1 0 [] {}).issues 0 = true ∧ (gp 1 0 [] {}).owner 0 = 0 ∧ (gp 1 0 [] {}).bucketCheck 0 (bd 1 256 0 0) = 0 ∧
      (gp 1 0 [] {}).cySize 0 0 = 1 ∧ bdOp (bd 1 256 0 0) = 1 ∧ (gp 1 0 [] {}).bucketCheck 0 (bd 2 0 64 0) = 0 ∧
      (gp 1 0 [] {}).bucketCheck 0 (bd 3 0 64 0) = 0 ∧ (∀ y ∈ (gp 1 0 [] {}).cy.buckets, y.id ≠ (gp 1 0 [] {}).cy.nextId) ∧
      (gp 1 0 [] {}).cyRank 0 0 < (gp 1 0 [] {}).cySize 0 0 ∧ (gp 1 0 [] {}).bucketCheck 0 (bd 4 0 0 0) = 0 ∧
      (gp 1 0 [] {}).bucketCheck 0 (bd 0 0 0 0) ≠ 0 ∧ (gp 1 0 [] {}).bucketCheck 0 (bd 2 0 0 0) ≠ 0 ∧
      (gp 1 0 [] {}).bucketCheck 0 (bd 3 0 0 0) ≠ 0 ∧ (gp 1 0 [(kCY_GROUP_STATE 0, 0)] {}).bucketCheck 0 (bd 4 0 0 0) ≠ 0 := by
  decide +kernel

def bkt0 (op segs chunk path : Nat) : Bucket := { id := 5, part := 0, g := 0, desc := bd op segs chunk path }
def tile0 : Tile := { part := 0, rod := 0, tag := 0, index := 3, m := 1, n := 1, data := [], bsw := 0 }
def unit0 (down : Bool) (j : Nat) : SegUnit :=
  { down := down, tag := 0, parity := 0, epoch := 0, sender := 1, index := j, amax := 0, sbs := [], codes := [] }

theorem wit_SegmentsAreContributedAndCombined :
    (let b := bkt0 1 256 0 0
     let s := gp 2 0 [] { buckets := [b], tiles := [tile0] }
     s.cy.tiles = tile0 :: [] ∧
     s.cy.buckets.filter (fun b => b.part == tile0.part && bdOp b.desc == 1 && !bdPath b.desc && bdTag b.desc == tile0.tag) = [b] ∧
     tile0.index ∉ b.poison ∧ tile0.index ∉ b.given ∧ tile0.index < bdSegs b.desc ∧ s.cySize 0 0 ≠ 1 ∧
     s.carryWaits b = false ∧ s.reduceOf 0 0 0 0 0 = some b ∧ 1 ∈ s.segKids b 0 ∧ s.segParent b 1 = some 1 ∧ s.reduceOf 0 0 7 0 0 = none) ∧
    (let b := { bkt0 1 256 0 1 with ready := true }
     let s := gp 2 0 [] { buckets := [b], tiles := [tile0] }
     s.carryWaits b = false ∧ s.bucket? 5 = some b ∧ bdOp b.desc = 1 ∧ bdPath b.desc = true ∧ (∀ x ∈ s.cy.buckets, bdPath x.desc ≠ false)) ∧
    (let b := { bkt0 1 256 0 0 with own := [unit0 false 0, unit0 false 1], landed := [unit0 false 0] }
     let s := gp 2 0 [] { buckets := [b] }
     s.carryWaits b = false ∧ s.bucket? 5 = some b ∧ b.own.find? (fun u => u.index == 0) = some (unit0 false 0) ∧
     b.own.find? (fun u => u.index == 1) = some (unit0 false 1) ∧ s.segKids b 0 = [1] ∧ s.segKids b 1 = [] ∧
     s.segParent b 0 = none ∧ s.segParent b 1 = some 1) := by
  decide +kernel

def hdr0 (down : Nat) : BitVec 512 := BitVec.ofNat 512 (fl [(17, down), (64, 1)])
/-- Header of a chunk of an ALL_TO_ALL from rank 1. -/
def hdr1 : BitVec 512 := BitVec.ofNat 512 (fl [(18, 1), (64, 1)])
/-- Header of the verdict exchange, between ranks 0 and 1. -/
def hdr3 (down sender : Nat) : BitVec 512 := BitVec.ofNat 512 (fl [(0, 0xFFFF), (17, down), (18, 3), (64, sender)])

theorem wit_BucketsCompleteOrAreLost :
    (let b := bkt0 1 256 0 0
     let s := gp 2 0 [] { buckets := [b] }
     s.ofGroup 0 0 (hdr0 0) = true ∧ s.ofGroup 0 0 (hdr0 1) = true ∧ bhKind (hdr0 0) = 0 ∧ s.reduceOf 0 0 (bhTag (hdr0 0)) (bhParity (hdr0 0)) (bhEpoch (hdr0 0)) = some b ∧
     bhDown (hdr0 0) = false ∧ bhSender (hdr0 0) ∈ s.segKids b 0 ∧ bhDown (hdr0 1) = true ∧
     s.segParent b 1 = some (bhSender (hdr0 1)) ∧ (gp 2 0 [] {}).reduceOf 0 0 0 0 0 = none) ∧
    (let b := { bkt0 2 0 64 0 with ownAt := 1 }
     let s := gp 2 0 [(kST_NUMBER, 10 ^ 9)] { buckets := [b] }
     (s.groupBuckets 0 0).find? (fun b => bdOp b.desc != 1 && bdTag b.desc == 0 && bdStep b.desc % 2 == 0) = some b ∧
     s.carryWaits b = false ∧ s.arrives (bdHome b.desc) (64 / 2 ^ 29) 64 = true ∧ s.ofGroup 0 0 hdr1 = true ∧
     1 < s.cySize 0 0 ∧ bdChunk b.desc = 64 ∧ s.udPhys 0 (bdDst b.desc + 1 * bdChunk b.desc) 64 true = some 64 ∧
     s.ringOk 0 (bdDst b.desc + 1 * bdChunk b.desc) 64 = true ∧ s.missing b = 0 :: [1] ∧
     b.ownAt - 1 + s.o (kCY_TIMEOUT_STROKES 0) ≤ s.stroke ∧ s.bucket? 5 = some b ∧ bhKind hdr1 = 1 ∧
     (s.groupBuckets 0 0).find? (fun b => bdOp b.desc == bhKind hdr1 + 1 && bdTag b.desc == bhTag hdr1
       && bdStep b.desc % 2 == bhParity hdr1) = some b ∧ s.cyEpoch 0 0 = bhEpoch hdr1 ∧
     bhSender hdr1 < s.cySize 0 0 ∧ bhSender hdr1 ≠ s.cyRank 0 0 ∧ b.upHdrs = []) ∧
    (let b := { bkt0 1 256 0 0 with ownAt := 1 }
     let s := gp 1 0 [] { buckets := [b] }
     s.carryWaits b = false ∧ s.bucket? 5 = some b ∧ b.ownAt ≠ 0 ∧ s.missing b = [] ∧ s.writesDone b = true ∧ b.finals = [] ∧ b.poison = [] ∧
     { b with stored := true }.stored = true) := by
  decide +kernel

def cls0 : Group := { closes := [{ step := 0 }] }

theorem wit_VerdictsAreExchanged :
    (let s := gp 1 0 [(kCY_GROUP_STATE 1, 2), (kCY_VERDICT_GROUP 0, 1)] { groups := [(0, cls0)] }
     s.closeReady 0 0 = some { step := 0 } ∧ (0 : Nat) ≠ s.verdictGroup 0) ∧
    (let s := gp 1 0 [(kRUN_STATE 0, 1)] { groups := [(0, cls0)] }
     s.closeReady 0 0 = some { step := 0 } ∧ 0 = s.verdictGroup 0 ∧ s.cySize 0 0 = 1 ∧ (s.group 0 1).closes = [] ∧
     (s.group 0 2).closes = [] ∧ (s.group 0 3).closes = [] ∧ s.running 0 = true ∧ s.runStep 0 = 0) ∧
    (let s := gp 2 0 [] { groups := [(0, cls0)] }
     s.closeReady 0 0 = some { step := 0 } ∧ 0 = s.verdictGroup 0 ∧ s.cySize 0 0 ≠ 1 ∧ s.grpKids 0 0 = [1] ∧
     ((s.group 0 0).exch 0).kids = [] ∧ s.cyEpoch 0 0 = bhEpoch (hdr3 0 1) ∧ s.cyState 0 0 = cyREADY ∧
     bhKind (hdr3 0 1) = 3 ∧ bhDown (hdr3 0 1) = false ∧ bhTag (hdr3 0 1) = 0xFFFF ∧
     bhSender (hdr3 0 1) ∈ s.grpKids 0 0 ∧ s.verdictTaken 0 0 (bhStep (hdr3 0 1)) = false ∧ s.ofGroup 0 0 (hdr3 0 1) = true ∧
     ((s.group 0 0).exch (bhStep (hdr3 0 1))).at_ = 0) ∧
    (let s := gp 2 1 [] { groups := [(0, { cls0 with exchs := [{ step := 0, at_ := 1, up := true }] })] }
     s.cyEpoch 0 0 = bhEpoch (hdr3 1 0) ∧ bhKind (hdr3 1 0) = 3 ∧ bhDown (hdr3 1 0) = true ∧ bhTag (hdr3 1 0) = 0xFFFF ∧
     s.ofGroup 0 0 (hdr3 1 0) = true ∧ s.grpParent 0 0 = some (bhSender (hdr3 1 0)) ∧ ((s.group 0 0).exch (bhStep (hdr3 1 0))).up = true ∧
     s.grpParent 0 0 ≠ some (bhSender (hdr3 1 1))) := by
  decide +kernel

/-- A mirror host whose allotment 0 of partition 3 of node 9 holds a whole copy with digest `d`. -/
def mhost (d : BitVec 256) : State :=
  (up [(kCY_ALLOT_SLOTS 0, 2), (kCY_ALLOT_EXTENTS 0, 1), (kCY_ALLOT_CLIENT 0, 9), (kCY_ALLOT_PART 0, 3)]).setAllot 0
    { coming := some (7, 1, 64), hdrs := [(1, setField (mirrorHeader .blank d) 0 1 0)] }

theorem wit_MirrorsAreCopiedAndRestored :
    (up []).ringBefore fn0 = up [] ∧ (up []).dictUp = true ∧ (up []).mayWrite fn0 = true ∧
      (let s := (up [(kCY_MIRROR_NEXT 0, 5)]).setMirror 0 { copy := some (1, 0) }
       (s.mirror 0).copy = some (1, 0) ∧ s.mirrorRegions 0 = [] ∧ s.stroke < s.o (kCY_MIRROR_NEXT 0)) ∧
      ((up []).allot 0).coming = none ∧ 0 ≤ (up []).genBytes 0 ∧ (up []).allotGranted 0 = true ∧
      (mhost 0).allotNames 0 9 3 = true ∧ (mhost 0).allotGranted 0 = true ∧ (mhost 0).allotNames 0 9 4 = false ∧
      (mhost 0).o (kCY_ALLOT_SLOTS 0) ≠ 1 ∧ ((mhost 0).allot 0).coming = some (7, 1, 64 + mirrorSize .blank) ∧
      tget 0 ((mhost 0).allot 0).hdrs 1 = setField (mirrorHeader .blank 0) 0 1 0 ∧ digestOf [] ≠ 0 ∧
      ((up []).mirror 0).restoring = false ∧
      (let s := (up []).setMirror 0 { restoring := true, inbox := leBytes 64 (mirrorHeader .blank 0).toNat ++ mirrorStream .blank }
       (s.mirror 0).restoring = true ∧ (s.mirror 0).inbox = leBytes 64 (mirrorHeader .blank 0).toNat ++ mirrorStream .blank) ∧
      MirrorImage.blank.regions = [] := by
  decide +kernel

/-! Optical ports. -/

/-- Link 0 in a state, with its machinery. -/
def lk (st : Nat) (x : Link) (l : List (Nat × Nat)) (o : Optical) : State :=
  { up ([(kOP_LINK_STATE 0, st), (kOP_LINK_LANES 0, 32)] ++ l) with op := { o with links := [(0, x)] }, ns := 10 ^ 10 }

/-- Levels of the optical engines' image that agree with a partner's. -/
def lvl : BitVec 64 := BitVec.ofNat 64 (0x10 + 2 ^ 16 + 2 ^ 32 + 2 ^ 48)

def img4 : Image :=
  { magicOk := true, hdrVersion := 1, imageId := 4, len := 0, keyIdx := 0, sigOk := true, svn := 0, version := 0, levels := [lvl]
    digest := 0, bodyOk := true, measure := 0 }

theorem wit_LinksTrainAndAuthenticate :
    (lk 0 {} [] {}).linkLive 0 = true ∧ (lk 0 {} [] {}).lkState 0 = lkABSENT ∧ (lk 4 {} [] {}).lkState 0 ≠ lkABSENT ∧
      (lk 1 {} [] {}).lkState 0 = lkLIGHT ∧ ((lk 1 {} [] {}).link 0).hold ≤ (lk 1 {} [] {}).ns ∧
      (let s := { lk 2 { since := 10 ^ 10 } [] {} with boot := { stage := 6, loaded := [(4, some img4)] } }
       s.linkLive 0 = true ∧ s.lkState 0 = lkTRAINING ∧ s.ns ≤ (s.link 0).since + 500000000 ∧
       32 = (if (s.link 0).narrow = 0 then s.linkWidth 0 else (s.link 0).narrow) ∧
       16 ≠ (if (s.link 0).narrow = 0 then s.linkWidth 0 else (s.link 0).narrow) ∧
       levelsAgree (levelEntry (s.imageLevels 4) 0x10) (levelEntry [lvl] 0x10) = true ∧
       levelsAgree (levelEntry (s.imageLevels 4) 0x10) (levelEntry [0] 0x10) = false) ∧
      ((lk 2 {} [] {}).link 0).since + 500000000 ≤ (lk 2 {} [] {}).ns ∧
      (let s := lk 3 { turnAt := 1, authStep := 3, node := 7 } [] {}
       s.permitted (s.link 0).node (s.link 0).fabric = true ∧ s.permitted (s.link 0).node 5 = false) ∧
      (lk 3 {} [] {}).takeControl 0 0x10 confirmData = none ∧ confirmData ≠ [] ∧
      (let s := lk 3 { turnAt := 1, authTimeouts := 3 } [] {}
       s.lkState 0 = lkAUTH ∧ (s.link 0).turnAt - 1 + 2000000000 ≤ s.ns ∧ 3 ≤ (s.link 0).authTimeouts) ∧
      ((lk 3 { turnAt := 1 } [] {}).link 0).authTimeouts < 3 := by
  decide +kernel

/-- A link in its turn at step `k`, a CONTROL message with these data having come whole. -/
def authHdr : BitVec 256 := BitVec.ofNat 256 (0x10 * 2 ^ 184)
def authMsg (data : List Byte) : RxMsg := { cls := 0, hdr := authHdr, data := data, flits := 0 }
def authLink (k : Nat) (data : List Byte) : Link := { turnAt := 10 ^ 10, authStep := k, node := 7, inbox := [authMsg data] }
def auth (k : Nat) (data : List Byte) : State := lk 3 (authLink k data) [] {}

theorem wit_authentication (k : Nat) (data : List Byte) :
    (auth k data).authAt 0 k = true ∧ ∃ w, (auth k data).takeControl 0 0x10 data = some w := by
  have hl : (auth k data).link 0 = authLink k data := rfl
  refine ⟨?_, ?_⟩
  · have h : (lk 3 { turnAt := 10 ^ 10 } [] {}).authAt 0 0 = true := by decide +kernel
    simp only [State.authAt, Bool.and_eq_true] at h ⊢
    refine ⟨⟨⟨⟨h.1.1.1.1, h.1.1.1.2⟩, h.1.1.2⟩, ?_⟩, h.2⟩
    rw [hl]; exact beq_self_eq_true k
  · have hk : mhKind authHdr = 0x10 := by decide +kernel
    unfold State.takeControl
    rw [hl]
    simp only [authLink, authMsg, List.find?_cons, beq_self_eq_true, hk, Bool.and_self, decide_true, if_true]
    exact ⟨_, rfl⟩

/-- Some node identifier is not the part's own. -/
theorem wit_other_node : (7 : Nat) ≠ ownNode ∨ (8 : Nat) ≠ ownNode := by omega

/-- An unkeyed CONTROL flit of a message of one flit, and a DATA flit; the tags are zeros. -/
def flit0 (kind hops : Nat) : Flit :=
  { gap := 0, bytes := sealFlit none 0 { msg := 0, len := 33, hops := hops, ack := 0, seq := 0, crData := 0, crCtrl := 0, first := true
                                         last := false, enc := false, kind := kind } [] }
/-- The same flit with its last byte changed. -/
def flit1 : Flit := { gap := 0, bytes := (flit0 1 8).bytes.take 255 ++ [(flit0 1 8).bytes.getD 255 0 + 1] }

theorem wit_FlitsAreTakenInSequence :
    (let s := lk 4 { retry := [{ seq := 0, kind := 1, hops := 8, msg := 0, len := 1, first := true, last := true, body := [1], flow := 0 }]
                     stallAt := [(8, 1)], asked := some 0 } [] {}
     s.linkLive 0 = true ∧ s.linkUp 0 = true ∧ (s.link 0).dropping = false ∧ (s.link 0).sentAt + 1000 ≤ s.ns ∧
     (s.link 0).retry ≠ [] ∧ (s.link 0).ackAt + 1000000 ≤ s.ns ∧ tget 0 (s.link 0).stallAt 8 = 0 + 1 ∧
     0 + s.o kOP_STALL_US * 1000 < s.ns ∧ 8 ∉ (s.link 0).stallHit ∧ 0 * 4 < s.linkWidth 0 ∧ s.linkWidth 0 ≤ 16 * 4 ∧
     (s.link 0).asked = some (0 % 2 ^ 16) ∧ (s.link 0).asked ≠ some (1 % 2 ^ 16)) ∧
    ((lk 4 { dropping := true } [] {}).link 0).dropping = true ∧ (lk 6 {} [] {}).lkState 0 = lkQUARANTINED ∧
    flit1.bytes.length = 256 ∧ flitCrcOk flit1.bytes = false := by
  decide +kernel

/-- The CONTROL flit is taken before CONFIRM. -/
theorem wit_control_flit :
    (let s := lk 3 {} [] {}
     let f := flit0 2 0
     s.linkLive 0 = true ∧ s.lkState 0 = lkAUTH ∧ f.bytes.length = 256 ∧ flitCrcOk f.bytes = true ∧
     (flitHdr f.bytes).seq = (s.link 0).rxSeq ∧ (flitHdr f.bytes).len ≤ 224 ∧ (flitHdr f.bytes).kind = 2 ∧ (flitHdr f.bytes).hops = 0 ∧
     (s.link 0).rxKeyed = false ∧ (s.link 0).authStep ≠ 3 ∧
     (let w := ((s.setLink 0 { s.link 0 with dropping := false }).takeCredits 0 0 0).takeAck 0 0
      tget 0 (w.link 0).rxUsed 0 < w.classCredit 0 0)) := by
  decide +kernel

/-! A sealed DATA flit, and one whose tag does not verify. -/

def key0 : List Byte := List.replicate 32 1
def hdK : FlitHdr :=
  { msg := 0, len := 40, hops := 8, ack := 0, seq := 0, crData := 0, crCtrl := 0, first := true, last := true, enc := false, kind := 1 }
/-- Header and payload, tag and flit; the tag is changed by `d` in each byte. -/
def hdB : List Byte := leBytes 16 hdK.toNat
def tagK : List Byte := gcmTag key0 (flitNonce 0) hdB (List.replicate 224 0)
def bodyK (d : Byte) : List Byte := hdB ++ List.replicate 224 0 ++ tagK.map (· + d)
def flitK (d : Byte) : Flit := { gap := 0, bytes := bodyK d ++ leBytes 4 (crc32c (bodyK d)) }

theorem tagK_length : tagK.length = 12 := by
  have h : ((((aesSched key0).reverse).drop (4 * 14)).take 4).flatten.length = 16 := by decide +kernel
  have hb (b : List Byte) : (aesBlock key0 b).length = 16 := by
    unfold aesBlock
    simp only [xorBytes, List.length_zipWith, h]
    simp [upto_eq_range]
  have hg (a : List Byte) (bs : List (List Byte)) : (ghash a bs).length = 16 := by
    simp only [ghash, beBytes, List.length_reverse, length_leBytes]
  simp only [tagK, gcmTag, xorBytes, List.length_take, List.length_zipWith, hb, hg]
  rfl

theorem bodyK_length (d : Byte) : (bodyK d).length = 252 := by
  simp only [bodyK, hdB, List.length_append, length_leBytes, List.length_replicate, List.length_map, tagK_length]

theorem flitK_parts (d : Byte) : (flitK d).bytes.take 16 = hdB ∧ ((flitK d).bytes.drop 16).take 224 = List.replicate 224 0 ∧
    ((flitK d).bytes.drop 240).take 12 = tagK.map (· + d) := by
  have h0 : hdB.length = 16 := length_leBytes 16 _
  have h1 : (List.replicate 224 (0 : Byte)).length = 224 := List.length_replicate
  have h2 : (tagK.map (· + d)).length = 12 := by rw [List.length_map, tagK_length]
  unfold flitK bodyK
  dsimp only
  generalize leBytes 4 _ = e
  rw [List.append_assoc, List.append_assoc]
  refine ⟨List.take_left' h0, ?_, ?_⟩
  · rw [List.drop_left' h0, List.take_left' h1]
  · rw [show (240 : Nat) = 16 + 224 from rfl, ← List.drop_drop, List.drop_left' h0, List.drop_left' h1, List.take_left' h2]

theorem flitK_tag (d : Byte) : flitTagOk key0 0 (flitK d).bytes = (tagK == tagK.map (· + d)) := by
  obtain ⟨h1, h2, h3⟩ := flitK_parts d
  unfold flitTagOk
  rw [h1, h2, h3]
  rfl

theorem wit_sealed_flit : (∀ d, (flitK d).bytes.length = 256 ∧ flitCrcOk (flitK d).bytes = true ∧ flitHdr (flitK d).bytes = hdK) ∧
    flitTagOk (keyAt key0 0 (0 / 2 ^ 31)) 0 (flitK 0).bytes = true ∧
    flitTagOk (keyAt key0 0 (0 / 2 ^ 31)) 0 (flitK 1).bytes = false ∧ hdK.kind = 1 ∧ hdK.hops = 8 ∧ hdK.len ≤ 224 := by
  have hk : keyAt key0 0 (0 / 2 ^ 31) = key0 := rfl
  refine ⟨fun d => ⟨by simp only [flitK, List.length_append, bodyK_length, length_leBytes], flitCrcOk_append _ (bodyK_length d), ?_⟩, ?_, ?_, rfl, rfl, by decide⟩
  · rw [flitHdr, (flitK_parts d).1]; decide +kernel
  · rw [hk, flitK_tag]; simp
  · rw [hk, flitK_tag]
    have h := tagK_length
    match ht : tagK with
    | [] => simp [ht] at h
    | b :: l => simp

/-- A link under these keys has room for it. -/
theorem wit_sealed_link :
    (let s := lk 4 { rxKeyed := true, rxKey := key0 } [] {}
     let v := s.setLink 0 { s.link 0 with rxSlot := 1 }
     let w := ((v.setLink 0 { v.link 0 with dropping := false }).takeCredits 0 0 0).takeAck 0 0
     s.linkLive 0 = true ∧ s.linkUp 0 = true ∧ hdK.seq = (s.link 0).rxSeq ∧ (s.link 0).rxKeyed = true ∧
     tget 0 (w.link 0).rxUsed 8 < w.classCredit 0 8) := by
  decide +kernel

/-- A message in course of reception, and its last flit. -/
theorem wit_joined_message :
    (let s := lk 4 { rxPart := [(8, some { msg := 3, bytes := leBytes 32 (2 ^ 160 + 2 ^ 184), flits := 1 })] } [] {}
     let b := leBytes 32 (2 ^ 160 + 2 ^ 184) ++ [9]
     let hdr := BitVec.ofNat 256 (leNat (b.take 32))
     tget none (s.link 0).rxPart 8 = some { msg := 3, bytes := leBytes 32 (2 ^ 160 + 2 ^ 184), flits := 1 } ∧
     tget none (s.link 0).rxPart 7 = none ∧ messageOk hdr (b.drop 32) = true ∧ 1 ≤ mhKind hdr ∧ mhKind hdr ≤ 3) := by
  decide +kernel

/-- A message header for `dst` with three data bytes of kind 1 for partition 0. -/
def mh (dst : Nat) : BitVec 256 := BitVec.ofNat 256 (fl [(0, dst), (160, 3), (184, 1)])
def tr0 : Transit := { inLink := 0, flits := 1, inside := true, hdr := 0, data := [] }

theorem bits_div {w : Nat} (x : BitVec w) (hi lo : Nat) : bits x hi lo = x.toNat / 2 ^ lo % 2 ^ (hi + 1 - lo) := by
  rw [bits, Nat.shiftRight_eq_div_pow]

/-- A header for this node: kind, destination and partition. -/
theorem wit_message_for_this_node : ∃ hdr : BitVec 256, mhKind hdr = 1 ∧ mhLen hdr = 3 ∧ mhDst hdr = ownNode ∧
    mhPart hdr = 0 := by
  have h := ownNode_lt
  generalize ownNode = n at h
  have hx : (BitVec.ofNat 256 (n + 24519933038359133726442307045459445086748884922735263744)).toNat = n + 24519933038359133726442307045459445086748884922735263744 := by
    rw [BitVec.toNat_ofNat]
    exact Nat.mod_eq_of_lt (by omega)
  refine ⟨BitVec.ofNat 256 (n + 24519933038359133726442307045459445086748884922735263744), ?_, ?_, ?_, ?_⟩ <;>
    simp only [mhKind, mhLen, mhDst, mhPart, bits_div, hx] <;> norm_num <;> omega

/-- A header for another node that the table reaches. -/
theorem wit_message_for_another_node : mhDst (mh 9) ≠ ownNode ∨ mhDst (mh 10) ≠ ownNode := by
  have h : mhDst (mh 9) ≠ mhDst (mh 10) := by decide +kernel
  omega

/-- A DATA message that has come whole on link 0. -/
def inLink (hdr : BitVec 256) : Link := { inbox := [{ cls := 1, hdr := hdr, data := [1, 2, 3], flits := 1 }] }
def inMsg (hdr : BitVec 256) : State := lk 4 (inLink hdr) [(kPT_STATE 0, 2)] {}

theorem wit_message_taken (hdr : BitVec 256) : ∃ w n, (inMsg hdr).takeData 0 1 hdr [1, 2, 3] = some (w, n) := by
  have hl : (inMsg hdr).link 0 = inLink hdr := rfl
  unfold State.takeData
  rw [hl]
  simp only [inLink, List.find?_cons, beq_self_eq_true, Nat.le_refl, decide_true, Bool.and_self, if_true]
  exact ⟨_, _, rfl⟩

/-- A message for partition 0, which exists, is accepted; for partition 1 it is not. -/
theorem wit_accepts : (inMsg 0).accepts (mh 9) [1, 2, 3] = true ∧
    (inMsg 0).accepts (BitVec.ofNat 256 (fl [(160, 3), (184, 1), (192, 1)])) [1, 2, 3] = false := by decide +kernel

/-- An advertisement that has come whole. -/
def advert0 : RouteAdv := { node := 12, cost := 2, hops := 1 }
theorem wit_advertisement :
    ((lk 4 { inbox := [{ authMsg (advertData [advert0]) with hdr := BitVec.ofNat 256 (0x11 * 2 ^ 184) }] } [] {}).takeControl 0 0x11
      (advertData ([] ++ [advert0]))).isSome = true := by decide +kernel

theorem wit_MessagesAndRoutes :
    (let s := lk 4 {} [(kPT_STATE 0, 2), (kST_NUMBER, 1000)] { routes := [{ node := 9, vias := [{ link := 0, cost := 4, hops := 1, seen := some 1 }] }] }
     s.linkLive 0 = true ∧ s.linkUp 0 = true ∧ s.nextHops 9 ≠ [] ∧ s.nextHops 10 = [] ∧ s.op.advAt + 100 ≤ s.stroke) ∧
    (let o : Optical := { routes := [{ node := 0, vias := [{ link := 0, cost := 4, hops := 1, seen := none }] }]
                          transit := [(0, [tr0]), (8, [tr0])] }
     tget [] o.transit 0 = tr0 :: [] ∧ (lk 4 {} [] o).chooseLink 0 = some 0 ∧ tget 0 ((lk 4 {} [] o).link 0).credits 0 = 0 ∧
     tget 0 ((lk 4 { credits := [(0, 1)] } [] o).link 0).credits 0 ≠ 0 ∧
     tget [] ((lk 4 { credits := [(0, 1)] } [] o).link 0).queue 0 = [] ∧ tget [] o.transit (8 * 1 + 0) = tr0 :: [] ∧
     (lk 4 {} [] { o with routes := [] }).chooseLink 0 = none) ∧
    (let f : Flow := { key := 5, oldLink := 0, heldAt := 0, held := [] }
     let s := lk 4 {} [] { flows := [f] }
     s.op.flows.find? (fun f => f.key == 5) = some f ∧ f.heldAt + 1000000 ≤ s.ns) ∧
    (2 + (lk 4 {} [] {}).linkCost 0 < 0xFFFF) := by
  decide +kernel

theorem wit_LinksRecoverAndAreControlled :
    (let s := lk 5 {} [(kST_NUMBER, 10000)] {}
     s.linkLive 0 = true ∧ s.lkState 0 = lkDEGRADED ∧ (s.link 0).narrow = 0 ∧
     max (s.link 0).lastHit (s.link 0).sinceStroke + 10000 ≤ s.stroke) ∧
    (let s := lk 6 {} [] {}
     s.ringBefore fn0 = s ∧ s.linkLive 0 = true ∧ s.lkState 0 = lkQUARANTINED ∧ (s.link 0).quarEnd ≤ s.stroke) ∧
    (let s := lk 4 {} [] {}
     s.ringBefore fn0 = s ∧ s.linkUp 0 = true ∧ 2 ^ 31 * (s.o (kOP_KEY_EPOCH 0) + 1) ≤ max (s.link 0).txSlot (s.slotsGone 0) ∧
     s.dictUp = true ∧ s.mayWrite fn0 = true ∧ (s.link 0).downAt = 0 ∧ (s.link 0).disabled = false ∧ s.lkState 0 ≠ lkQUARANTINED) ∧
    (lk 3 {} [] {}).lkState 0 = lkAUTH ∧ ((lk 3 { downAt := 1 } [] {}).link 0).downAt ≠ 0 := by
  decide +kernel

/-! Serving. -/

/-- `busy` with a command at the head of submission queue 0 of function 1. -/
def hosted (l : List (Nat × Nat)) (h : List (BitVec 1024)) : State :=
  { busy l with host := { funcs := [(1, { en := true, vf := true, sqs := [(0, { en := true, active := true, fetched := h })]
                                          cqs := [(0, { en := true, active := true, size := 3, reserved := 1 })] })] } }

/-- A host command: opcode, ARG0, ARG1, and its descriptor. -/
def hc (op a0 a1 desc : Nat) : BitVec 1024 := BitVec.ofNat 1024 (fl [(0, op), (64, a0), (128, a1), (512, desc)])

/-- A request of one prompt token and one new token. -/
def rq0 : Nat := fl [(164, 1), (182, 1)]

/-- `hosted` with a server. -/
def sv0 (l : List (Nat × Nat)) (h : List (BitVec 1024)) (v : Server) : State :=
  { hosted ([(kSV_TEACHER, 0), (kSV_VOCAB, 4096), (kSV_RUN_MAX, 1), (kSV_STEP_TOKENS, 16), (kSV_T_PAGE_BYTES, 64),
      (kSV_TABLE_BASE, 0x4000000), (kSV_CH_ENTRIES 0, 64)] ++ l) h with sv := v }

theorem wit_ServerAndRequests :
    (let s := sv0 [] [] {}
     s.ringBefore fn0 = s ∧ s.dictUp = true ∧ s.mayWrite fn0 = true ∧ s.svState = svSTOPPED ∧ s.fwGate = 0 ∧ s.svConfigOk = true) ∧
    (let s := sv0 [(kSV_VOCAB, 1)] [] {}
     s.fwGate = 0 ∧ s.svConfigOk = false) ∧
    (let h := hc 10 5 0 rq0
     let s := sv0 [(kSV_STATE, 1)] [h] { weights := [(0, 1)] }
     s.ringBefore fn0 = s ∧ s.svState ≠ svSTOPPED ∧ s.svState = svRUNNING ∧ s.headReady 1 0 = some h ∧ s.fatal = false ∧ s.commonCheck 1 h = 0 ∧
     s.partServed (cmdPart 1 h) = true ∧ hcArg h 0 < 65536 ∧ 1 = s.svTeacher + 1 ∧ hcOpcode h = 10 ∧
     s.submitCheck (hcArg h 0) (Req.ofDesc (hcDesc h)) = 0 ∧
     (sv0 [] [h] {}).submitCheck (hcArg h 0) (Req.ofDesc (hcDesc h)) ≠ 0) ∧
    (let h := hc 11 5 7 0
     let s := sv0 [(kSV_STATE, 1)] [h] { reqs := [(5, { state := 1, hostTag := 7 })] }
     s.headReady 1 0 = some h ∧ s.commonCheck 1 h = 0 ∧ s.partServed (cmdPart 1 h) = true ∧ hcOpcode h = 11 ∧
     (s.req (hcArg h 0)).state ≠ rqFREE ∧ (s.req (hcArg h 0)).hostTag = hcArg h 1 ∧ (s.req (hcArg h 0)).cancel = false ∧
     ((sv0 [] [h] {}).req (hcArg h 0)).state = rqFREE) := by
  decide +kernel

/-- Request 5 has its one draft token, and its draft page 0 cannot be read. -/
def badDraft : State :=
  { sv0 [(kSV_STATE, 1), (kSV_DRAFT, 0), (kSV_D_PAGE_BYTES, 64), (kSV_HOT_PAGES, 1), (kSV_PAGES, 1)] []
      { phase := 1, reqs := [(5, { state := 3 })], xs := [(5, { inStep := true, k := 1, drafts := [(9, 0)] })]
        pages := [(0, { state := 1, request := 5, fill := 1 })] } with decks := { udBad := [(0, true)] } }

theorem wit_ServingStepsInFourPhases :
    (let s := sv0 [(kSV_STATE, 1)] [] { stopping := true }
     s.svState ≠ svSTOPPED ∧ s.sv.phase = 0 ∧ s.sv.stopping = true) ∧
    (let s := sv0 [(kSV_STATE, 1)] [] {}
     s.svState = svRUNNING ∧ s.sv.phase = 0 ∧ s.sv.stopping = false) ∧
    (let s := sv0 [(kSV_STATE, 1)] [] { phase := 1, reqs := [(5, { state := 3 })], xs := [(5, { inStep := true })] }
     s.sv.phase = 1 ∧ s.sv.rows = [] ∧ s.inPhase = [5] ∧ (s.rx 5).drafts.length = (s.rx 5).k ∧ ¬0 < (s.rx 5).k) ∧
    (let s := badDraft
     s.svState ≠ svSTOPPED ∧ s.sv.phase = 1 ∧ s.sv.rows = [] ∧ s.inPhase = [5] ∧ (s.rx 5).drafts.length = (s.rx 5).k ∧
     0 < (s.rx 5).k ∧ s.pagesBad true 5 = 0 :: []) ∧
    (let s := sv0 [(kSV_STATE, 1)] []
       { phase := 2, reqs := [(5, { state := 3 })], xs := [(5, { inStep := true, decided := true, emitted := [(9, false)], last := 1 })] }
     s.sv.phase = 2 ∧ s.inPhase = [5] ∧ (s.readFault 5).1 = 0 ∧ (s.rx 5).decided = true ∧ (s.rx 5).last ≠ 0) ∧
    (let s := sv0 [(kSV_STATE, 1)] [] { phase := 3 }
     s.svState ≠ svSTOPPED ∧ s.sv.phase = 3) ∧
    (let m : Demotion := { d := 0, e := 1, req := 5, phase := 0, dead := false }
     let s := sv0 [(kSV_STATE, 1), (kSV_HOT_PAGES, 1), (kSV_PAGES, 2)] [] { demotions := [m] }
     s.sv.demotions.find? (fun m => m.d == 0 && m.phase == 0) = some m ∧ s.hasDraft = false ∧
     s.udPhys s.svTeacher (s.pageSlot false 0).2.2.1 (s.pageSlot false 0).2.2.2 false = some 0) := by
  decide +kernel

def row0 (teacher : Bool) : JettonReq := { addr := 0x200000, req := 5, pos := 1, teacher := teacher, test := false, draftToken := 0, hidden := [] }
def jrow (teacher : Bool) : JRow := { row := row0 teacher, rod := 0, die := 0, phys := 0x200000, startNs := 0 }
/-- Request 5 in PREFILL with its last chunk, and in the verify phase, with a row in die 0's unit or none. -/
def pre (l : List JRow) (x : ReqX) : Server :=
  { phase := 2, reqs := [(5, { state := 2, promptLen := 1, maxNew := 1 })]
    xs := [(5, { x with inStep := true, prefill := true, chunk := 1, target := 1 })], rows := l }

theorem wit_RowsAndChannels :
    (let s := sv0 [(kSV_STATE, 1)] [] (pre [] {})
     s.issues 0 = true ∧ s.svState ≠ svSTOPPED ∧ s.owner 0 = s.svTeacher ∧
     s.udPhys (s.owner 0) (row0 true).addr (4 * s.o kSV_VOCAB) false = some 0x200000 ∧ s.rowDue (row0 true) = true ∧
     s.udPhys (s.owner 0) 0x1D000000 (4 * s.o kSV_VOCAB) false = none) ∧
    (let s := sv0 [(kSV_STATE, 1)] [] (pre [jrow true] {})
     s.sv.rows.find? (fun q => q.die == 0) = some (jrow true) ∧ (s.req 5).state = rqPREFILL ∧ (s.rx 5).inStep = true ∧
     (s.rx 5).prefill = true ∧ (s.rx 5).results = [] ∧ (s.rx 5).accepted = 0 ∧ (s.rx 5).decided = false ∧ (s.rx 5).last = 0) ∧
    (0 % 4096 = 0 ∧ entriesOk 64 = true ∧ entriesOk 65 = false ∧ 1 % 4096 ≠ 0) ∧
    (let s := sv0 [] [] {}
     s.svState = svSTOPPED ∧ (s.chan 0).held = [] ∧ (s.chan 0).beyond = [] ∧ s.fnUp 0 = true ∧ s.fnUp 1 = true ∧ s.fnUp 2 = false ∧
     (s.chan 0).change = none ∧ 1 = s.svTeacher + 1 ∧
     (0 + 2 ^ 32 - s.o (kSV_CH_TAIL 0) % 2 ^ 32) % 2 ^ 32 ≤ s.ringCount 0 ∧
     s.ringCount 0 < (1 + 2 ^ 32 - s.o (kSV_CH_TAIL 0) % 2 ^ 32) % 2 ^ 32) := by
  decide +kernel

/-- A greedy request's row of 32 logits (the vocabulary of these tests): the largest logit's token. -/
theorem wit_RowsAndChannels_outcome :
    (let s := sv0 [(kSV_STATE, 1), (kSV_VOCAB, 32)] [] (pre [jrow true] {})
     (match { s with sv := { s.sv with rows := s.sv.rows.erase (jrow true) } }.rowOutcome (jrow true) with
      | .ok (_, acc, tok, res) => !acc && tok == 0 && !res
      | .error _ => false) = true) ∧
    (let s := { sv0 [(kSV_STATE, 1), (kSV_VOCAB, 32)] [] (pre [jrow true] {}) with decks := { udBad := [(0x10000, true)] } }
     (match { s with sv := { s.sv with rows := s.sv.rows.erase (jrow true) } }.rowOutcome (jrow true) with
      | .ok _ => false
      | .error e => e == rsDECK_UNCORR) = true) := by
  decide +kernel

/-! Partitions and contexts. -/

theorem wit_PartitionsAreCreatedAndDestroyed :
    (let s := up [(kPT_TENANT 1, 3), (kPT_FRAME_ARG 1, 3)]
     s.ringBefore fn0 = s ∧ s.dictUp = true ∧ s.mayWrite fn0 = true ∧ s.fwGate = 0 ∧ (s.part 1).quiesce = 0 ∧ s.o (kPT_STATE 1) = 0 ∧
     s.o (kPT_TENANT 1) ≠ 0 ∧ s.framesOk (s.o (kPT_FRAME_ARG 1)) 0 = true) ∧
    (up []).ringBefore fn0 = up [] ∧ (up []).o (kPT_TENANT 1) = 0 ∧ (up []).framesOk ((up []).o (kPT_FRAME_ARG 1)) 0 = false ∧
    (let s := busy [(kPT_FRAME_ARG 0, 2)]
     s.ringBefore fn0 = s ∧ s.o (kPT_STATE 0) = 2 ∧ s.partBound 0 = false ∧ s.framesOk (s.o (kPT_FRAME_ARG 0)) (s.frames 0 ||| s.adding 0) = true) ∧
    (let s := busy [(kPT_FRAMES 0, 3), (kPT_FRAME_ARG 0, 2)]
     s.ringBefore fn0 = s ∧ s.o (kPT_FRAME_ARG 0) ≠ 0 ∧ s.frames 0 &&& s.o (kPT_FRAME_ARG 0) = s.o (kPT_FRAME_ARG 0) ∧
     gridConnected 8 (s.frames 0 ^^^ s.o (kPT_FRAME_ARG 0)) = true) ∧
    (up [(kPT_STATE 0, 1)]).o (kPT_STATE 0) = 1 ∧
    ((up []).setPart 0 { adds := [(2, 0)] }).part 0 = { adds := (2, 0) :: [] } ∧
    (let s := (up [(kPT_STATE 0, 3)]).setPart 0 { quiesce := 1, removing := 2 }
     s.o (kPT_STATE 0) = 3 ∧ s.noRuns 0 = true ∧ (s.part 0).quiesce = 1) ∧
    (((up [(kPT_STATE 0, 3)]).setPart 0 { quiesce := 2 }).part 0).quiesce = 2 ∧
    ((up [(kPT_STATE 0, 3)]).setPart 0 { quiesce := 2 }).noRuns 0 = true ∧
    (((up []).setPart 0 { quiesce := 3, removing := 2 }).part 0).reset = 0 ∧
    (((up []).setPart 0 { quiesce := 4, removing := 2 }).part 0).quiesce = 4 ∧ (up []).pend = [] := by
  decide +kernel

theorem wit_ContextsAreControlled :
    (let s := busy []
     s.ringBefore fn0 = s ∧ s.dictUp = true ∧ s.mayWrite fn0 = true ∧ (s.ctx 0 0).enabled = true ∧ (s.ctx 0 0).run.isSome = true ∧ s.resident 0 = 0 ∧
     s.incoming 0 0 = false ∧ s.saveArea 0 0 = none ∧ (s.ctx 0 1).disabling = false ∧ (s.ctx 0 1).enabled = false ∧
     s.resident 0 ≠ 1 ∧ s.incoming 0 1 = false) ∧
    (let s := busy [(kPT_CTX_SAVE 0, 0)]
     s.ringBefore fn0 = s ∧ (s.saveArea 0 0).isSome = true ∧ (s.part 0).switch = none) ∧
    (let s := busy [(kPT_CTX_SAVE 0, 0), (kPT_CTX_SAVE 1, 64)]
     s.ringBefore fn0 = s ∧ s.saveArea 0 1 = some 64 ∧ s.saveArea 0 0 = some 0 ∧ 64 < 0 + saveBytes ∧ 0 < 64 + saveBytes) ∧
    (let s := (busy []).setCtx 0 1 { enabled := true }
     s.ringBefore fn0 = s ∧ (s.ctx 0 1).enabled = true ∧ (s.ctx 0 1).run = none) ∧
    (let s := (busy []).setCtx 0 1 { enabled := true, run := some run0 }
     s.ringBefore fn0 = s ∧ (s.ctx 0 1).enabled = true ∧ (s.ctx 0 1).run.isSome = true ∧ s.resident 0 ≠ 1 ∧ s.residentNow 0 ≠ 1) ∧
    (let s := (busy []).setCtx 0 1 { disabling := true }
     s.ringBefore fn0 = s ∧ (s.ctx 0 1).disabling = true) ∧
    (let s := (busy []).setPart 0 { switch := some { out := 0, inn := 1, at_ := 0, saved := false } }
     s.ringBefore fn0 = s ∧ s.incoming 0 1 = true) := by
  decide +kernel

/-- `busy` with save areas, context 1 switched out, and at a time when every timer of the partition is over. -/
def turn (x : Part) : State :=
  { ((busy [(kPT_CTX_SAVE 0, 0), (kPT_CTX_SAVE 1, 0x1000000)]).setCtx 0 1 { enabled := true, run := some run0 }).setPart 0
      { x with slices := [(0, 0x8000), (1, 0x8001), (2, 0x8002)] } with ns := 10 ^ 12 }

/-- The same with much more virtual time on context 0, and its rod waiting. -/
def behind (x : Part) : State :=
  ((turn x).setCtx 0 0 { enabled := true, run := some run0, vtime := { n := 5, d := 1 } }).setRod 0
    { st := .enabled, wait := .fence 0 1 }

theorem wit_DecisionsAndHardSwitches :
    (let s := turn {}
     s.runsNow 0 = true ∧ (s.part 0).graceAt = 0 ∧ (s.part 0).sliceAt + 1000 * (s.part 0).sliceUs ≤ s.ns ∧
     ((s.latchSched 0).noteReady 0).pickCtx 0 8 = some (s.resident 0)) ∧
    (let s := behind {}
     ((s.latchSched 0).noteReady 0).pickCtx 0 8 = some 1 ∧ s.resident 0 = 0 ∧ s.o (kPT_WAIT_SWITCH_US 0) ≠ 0xFFFFFFFF ∧
     s.hasWaited 0 (1000 * s.o (kPT_WAIT_SWITCH_US 0)) = true ∧ (s.saveArea 0 (s.resident 0)).isSome = true ∧
     ((s.latchSched 0).noteReady 0).pickCtx 0 (s.resident 0) = some 1 ∧
     (((s.latchSched 0).noteReady 0).ctx 0 1).vtime.lt (((s.latchSched 0).noteReady 0).ctx 0 (s.resident 0)).vtime = true) ∧
    (let s := behind { graceAt := 1 }
     (s.part 0).graceAt ≠ 0 ∧ (s.part 0).graceAt + 1000 * (s.part 0).graceUs ≤ s.ns + 1) ∧
    (let w : Switch := { out := 0, inn := 1, at_ := 0, saved := false }
     let s := turn { switch := some w }
     (s.part 0).switch = some w ∧ (∀ r ∈ s.switchRods 0, s.rodDrained r = true) ∧ (s.ctx 0 2).run = none) ∧
    (let w : Switch := { out := 0, inn := 1, at_ := 0, saved := true }
     let s := (turn { switch := some w }).setO (kPT_RESIDENT 0) 1
     (s.part 0).switch = some w ∧ w.saved = true ∧ s.resident 0 = 1 ∧ (s.ctx 0 1).yieldReq ≠ 2) ∧
    (let s := (turn { iiRes := 5 }).setO kST_NUMBER 100000
     (s.part 0).iiFrom + (s.part 0).iiWindow ≤ s.stroke ∧
     ((upto 16).map (fun k => if k = 0 then 0
       else (((([(3, 1)] : List (Nat × Nat)) ++ []).filter (fun (d : Nat × Nat) => d.1 == k)).map (fun (d : Nat × Nat) => d.2)).sum)).sum - 0
       ≤ (s.part 0).iiRes + (if s.resident 0 < 8 then s.cycle - (s.part 0).iiMark else 0)) := by
  decide +kernel

/-! Strokes, ring frames and limits. -/

theorem wit_SilentStrokesBegin :
    (let s := { up [(kST_STATE, 1)] with ns := 1500000 }
     s.timebaseUp = true ∧ s.o kST_STATE = 1 ∧ s.st.beganAt + 1500 * s.st.period ≤ s.ns) ∧
    (let s := { up [(kST_STATE, 2)] with ns := 1000000, st := { begun := true } }
     s.timebaseUp = true ∧ s.o kST_STATE = 2 ∧ s.st.beganAt + 1000 * s.st.period ≤ s.ns ∧ s.st.begun = true) ∧
    (let s := { up [(kST_STATE, 3)] with ns := 1500000 }
     s.timebaseUp = true ∧ s.o kST_STATE = 3 ∧ s.st.frameAt + 1500 * s.st.period ≤ s.ns) ∧
    (let s := { up [] with ns := 10 ^ 12 }
     s.timebaseUp = true ∧ s.o kST_STATE = 0 ∧ s.st.waitFrom + 1000000 * s.o kST_FIRST_WAIT_MS ≤ s.ns) ∧
    (let s := up [(kST_STATE, 1)]
     s.ns < s.st.beganAt + 1500 * s.st.period ∧ s.ns < s.st.beganAt + 1000 * s.st.period ∧
     s.ns < s.st.frameAt + 1500 * s.st.period ∧ s.ns < s.st.waitFrom + 1000000 * s.o kST_FIRST_WAIT_MS) := by
  decide +kernel

/-- A frame's bytes without its FCS: at position 3 with frame number 9, with STROKE or not, of a version, with stroke `n` and grant
6,000 mJ. -/
def frameBody (stroke version n : Nat) : List Byte :=
  List.replicate 12 0 ++ [0x88, 0xB5]
    ++ leBytes 32 (stroke + version * 2 ^ 64 + 3 * 2 ^ 104 + 9 * 2 ^ 128 + 6000 * 2 ^ 160 + n * 2 ^ 192) ++ List.replicate 1552 0

/-- The same with its FCS. -/
def frame (stroke version n : Nat) : List Byte := frameBody stroke version n ++ fcsOf (frameBody stroke version n)

theorem frameBody_length (stroke version n : Nat) : (frameBody stroke version n).length = 1598 := by
  simp only [frameBody, List.length_append, List.length_replicate, length_leBytes, List.length_cons, List.length_nil]

theorem frame_fcs (b : List Byte) : rfFcsOk (b ++ fcsOf b) = true := by
  have h : (fcsOf b).length = 4 := by simp [fcsOf, leBytes]
  simp [rfFcsOk, rfBody, h]

theorem frame_shaped (stroke version n : Nat) :
    rfShaped (frame stroke version n) = true ∧ rfShaped (frameBody stroke version n) = false := by
  have h : (frame stroke version n).length = 1602 := by rw [frame, List.length_append, frameBody_length, fcsOf, length_leBytes]
  have e : ((frame stroke version n).drop 12).take 2 = [(0x88 : Byte), 0xB5] := rfl
  refine ⟨by rw [rfShaped, e, h]; rfl, ?_⟩
  rw [rfShaped, frameBody_length]
  exact Bool.and_false _

/-- The rest of a ring's hypotheses, over the frame's first bytes. -/
theorem frame_header :
    (let s := { up [(kRING_ID, 0)] with ring := { bypass := false } }
     let f := frameBody 1 1 5
     s.dictUp = true ∧ s.ring.bypass = false ∧ s.headerOk f = true ∧ s.headerOk (frameBody 1 2 5) = false ∧
     rhStroke (rfHdr f) = true ∧ s.o kRING_AUTH ≠ 1 ∧ s.o kST_STATE = 0 ∧ rhGrant (rfHdr f) = 6000 ∧
     rhPos (rfHdr f) = 3 ∧ rhSeq (rfHdr f) = 9 ∧ s.ringSlot 3 = 3) ∧
    rhStroke (rfHdr (frameBody 0 1 5)) = false ∧ (up [(kRING_AUTH, 1)]).o kRING_AUTH = 1 ∧
    (let s := up [(kST_STATE, 1), (kST_NUMBER, 3)]
     s.stroke < rhStrokeN (rfHdr (frameBody 1 1 5)) ∧ s.o kST_STATE ≠ 0) ∧
    (let s := up [(kST_STATE, 2), (kST_NUMBER, 7)]
     rhStrokeN (rfHdr (frameBody 1 1 5)) ≤ s.stroke ∧ s.o kST_STATE ≠ 0 ∧
     s.stroke ≤ rhStrokeN (rfHdr (frameBody 1 1 5)) + s.o kST_REJOIN_MAX) := by
  decide +kernel

/-- The FCS changes no byte of the header. -/
theorem frame_hdr (stroke version n : Nat) : rfHdr (frame stroke version n) = rfHdr (frameBody stroke version n) := by
  suffices h : (upto 32).map (fun i => (frame stroke version n).getD (rfHeader + i) 0)
      = (upto 32).map (fun i => (frameBody stroke version n).getD (rfHeader + i) 0) by
    rw [rfHdr, rfNum, h]
    exact rfl
  apply List.map_congr_left
  intro i hi
  have h : i < 32 := mem_upto.mp hi
  have hl : rfHeader + i < (frameBody stroke version n).length := by rw [frameBody_length, rfHeader]; omega
  rw [frame, List.getD_eq_getElem?_getD, List.getD_eq_getElem?_getD, List.getElem?_append_left hl]

theorem wit_RingFramesBeginStrokes :
    State.reset.dictUp = false ∧
    (let s := { up [(kRING_ID, 0)] with ring := { bypass := false } }
     let f := frame 1 1 5
     s.dictUp = true ∧ s.ring.bypass = false ∧ rfFcsOk f = true ∧ rfShaped f = true ∧ s.headerOk f = true ∧
     rhStroke (rfHdr f) = true ∧ s.o kRING_AUTH ≠ 1 ∧ s.o kST_STATE = 0) ∧
    (let s := { up [(kRING_ID, 0)] with ring := { bypass := false } }
     let f := frameBody 1 1 5
     rfShaped f = false ∧ s.headerOk f = true ∧ s.headerOk (frameBody 1 2 5) = false ∧ s.ringSlot (rhPos (rfHdr f)) = 3 ∧
     rfResponse 3 + 16 ≤ f.length ∧ rfNum f (rfResponse 3) 1 % 16 = 0) := by
  have h := frame_header.1
  have e (n : Nat) : rhStroke (rfHdr (frame 1 1 n)) = rhStroke (rfHdr (frameBody 1 1 n)) := by rw [frame_hdr]
  refine ⟨by decide +kernel, ⟨h.1, h.2.1, frame_fcs _, (frame_shaped 1 1 5).1, ?_, (e 5).trans h.2.2.2.2.1, h.2.2.2.2.2.1,
    h.2.2.2.2.2.2.1⟩, (frame_shaped 1 1 5).2, h.2.2.1, h.2.2.2.1, ?_, ?_, ?_⟩
  · unfold State.headerOk
    rw [frame_hdr]
    exact h.2.2.1
  · rw [h.2.2.2.2.2.2.2.2.1]
    exact h.2.2.2.2.2.2.2.2.2.2
  · rw [frameBody_length]
    decide
  · decide +kernel

/-- Sixteen dies at 40.0 degrees but for one. -/
def dies (tenths : Nat) : List Nat := tenths :: List.replicate 15 400

theorem wit_LimitsFollowPowerSupplyAndHeat :
    (up []).boot.stage ≠ 0 ∧ (up []).st.underEp = false ∧ (up []).st.episode = false ∧ (up []).st.hot105 = 0 ∧
    (up []).st.limitEp = false ∧ (up []).st.tripped = false ∧
    (let s := { up [] with ns := 10 ^ 9, st := { power := [6500000], underEp := true, vinOk := 1, vin := 34000, coolAt := 1
                                                 episode := true, tj := [(0, 1020)] } }
     s.boot.stage ≠ 0 ∧ avgAbove s.st.power 6400000 = true ∧ s.st.govAt + 1000000 ≤ s.ns ∧ s.st.underEp = true ∧ s.st.vinOk ≠ 0 ∧
     s.st.vinOk + 10000000 ≤ s.ns + 1 ∧ s.st.vin < 35000 ∧ s.st.episode = true ∧ s.junction = 1020 ∧
     s.st.hotAt + 1000000 ≤ s.ns + 1) ∧
    (let s := { up [] with ns := 10 ^ 9, st := { vinLow := 1, vinHigh := 1, coolAt := 1 } }
     s.st.vinLow + 1000000 ≤ s.ns + 1 ∧ s.st.vinHigh + 100000 ≤ s.ns + 1 ∧ s.junction < 970 ∧ s.st.coolAt ≠ 0 ∧
     s.st.coolAt + 10000000 ≤ s.ns + 1) ∧
    ([999, 1000, 1049, 1050, 1099, 1100].all (fun j => (dies j).length == 16 && (dies j).foldl max 0 == j)) = true := by
  decide +kernel

/-! The host port and the window. -/

/-- A part whose function 1 is `f`, its contexts 0 and 1 enabled. -/
def fn1 (f : Func) : State :=
  { up [(kPT_STATE 0, 2)] with host := { funcs := [(1, f)] }, ctxs := [(0, { enabled := true }), (1, { enabled := true })] }

theorem wit_LinkFunctionsAndVectors :
    (up []).dictUp = true ∧ (up []).computeUp = true ∧ (up []).fatal = false ∧
    ({ up [] with host := { winExt := [3] } }).host.winExt ≠ [] ∧ (up []).decks.filling = [] ∧
    (∃ f ∈ ({ filling := [(3, 0x10)] } : Decks).filling, f.2 = 0x10) ∧
    ((fn1 { vf := true }).func 1).vf = true ∧ bit (1 : BitVec 32) 0 = true ∧ bit (0 : BitVec 32) 0 = false ∧
    ((fn1 { vf := true }).func 1).down = false ∧ ((fn1 { vf := true }).func 1).flr = 0 ∧
    ((fn1 { vf := true, en := true }).func 1).en = true ∧
    (let s := fn1 { vf := true, down := true }
     (s.func 1).down = true ∧ (s.func 1).liveCmds = 0 ∧ (s.func 1).flr = 0 ∧ s.pend = []) ∧
    (let s := fn1 { vf := true, masked := [(7, false)], pend := [(9, true)] }
     let w : MsixWrite := { vector := 9, masked := false, addr := 0, data := 5 }
     s.fnUp 1 = true ∧ w.vector < 256 ∧ tget false (s.func 1).pend 9 = true ∧ tget true (s.func 1).masked 7 = false ∧
     tget true (s.func 1).masked 9 = true) ∧
    (let s := { fn1 { cqs := [(2, { unsig := 1, unsigAt := 5, forceUs := 1, vector := 7 })] } with ns := 1005 }
     ((s.func 1).cq 2).unsig ≠ 0 ∧ ((s.func 1).cq 2).unsigAt + 1000 * ((s.func 1).cq 2).forceUs ≤ s.ns) ∧
    BitVec.toNat (256 : BitVec 64) % 256 = 0 ∧ BitVec.toNat (255 : BitVec 64) % 256 ≠ 0 := by
  decide +kernel

/-- A queue entry: BASE, SIZE_M1, bits 80 up, EN. -/
def qe (base size hi : Nat) (en : Bool) : BitVec 256 :=
  BitVec.ofNat 256 (base + size * 2 ^ 64 + hi * 2 ^ 80 + if en then 2 ^ 86 else 0)

theorem wit_QueuesAreConfiguredAndServed :
    (let s := fn1 { vf := true, en := true, sqs := [(1, { en := true, active := true, base := 4096, size := 3, cqid := 2, tail := 1 }), (4, { active := true })]
                    cqs := [(2, { en := true, active := true, base := 8192, size := 3, tail := 1 })] }
     let x := (s.func 1).sq 1
     let c := (s.func 1).cq 2
     s.fnUp 1 = true ∧ x.en = true ∧ qcBase (qe 8192 3 2 true) ≠ x.base ∧ qcBase (qe 100 3 2 true) % 4096 ≠ 0 ∧
     s.serves 1 1 = true ∧ ((s.func 1).sq 3).en = false ∧ ((s.func 1).sq 3).active = false ∧ qcEn (qe 4096 3 2 true) = true ∧
     qcSize (qe 4096 3 2 true) ≠ 0 ∧ ((s.func 1).cq (qcCqid (qe 4096 3 2 true))).en = true ∧
     ((s.func 1).cq (qcCqid (qe 4096 3 5 true))).en = false ∧ qcEn (qe 4096 3 2 false) = false ∧
     ((s.func 1).sq 4).en = false ∧ ((s.func 1).sq 4).active = true ∧
     qcBase (qe 4096 3 2 false) = x.base ∧ qcSize (qe 4096 3 2 false) = x.size ∧ qcCqid (qe 4096 3 2 false) = x.cqid ∧
     c.en = true ∧ qcBase (qe 8192 3 0 true) = c.base ∧ qcSize (qe 8192 3 0 true) = c.size ∧ qcVector (qe 8192 3 0 true) = c.vector ∧
     qcUs (qe 8192 3 0 true) ≤ 1000 ∧ ((s.func 1).cq 3).en = false ∧ (s.func 1).cqBound 2 = true ∧
     bits (3 : BitVec 32) 15 0 ≤ x.size ∧ x.size < bits (4 : BitVec 32) 15 0 ∧
     (bits (1 : BitVec 32) 15 0 + c.size + 1 - c.head) % (c.size + 1) ≤ c.unreleased ∧
     c.unreleased < (bits (2 : BitVec 32) 15 0 + c.size + 1 - c.head) % (c.size + 1) ∧
     (s.func 1).en = true ∧ s.partServed 0 = true ∧ x.head ≠ x.tail ∧ c.unreleased + c.reserved < c.size) ∧
    (let s := fn1 { sqs := [(1, { active := true })] }
     ((s.func 1).sq 1).en = false ∧ ((s.func 1).sq 1).active = true ∧ ((s.func 1).sq 1).live = 0 ∧ s.pend = []) ∧
    (let e := qe 4096 3 2 true
     let s := { fn1 { sqs := [(1, { active := true, next := some e })], cqs := [(2, { en := true })] } with
                pend := [{ kind := 5, inst := 65 }] }
     let x := (s.func 1).sq 1
     x.en = false ∧ x.active = true ∧ x.live = 0 ∧ x.next = some e ∧ { kind := 5, inst := 64 * 1 + 1 } ∈ s.pend ∧
     qcBase e % 4096 = 0 ∧ qcSize e ≠ 0 ∧ ((s.func 1).cq (qcCqid e)).en = true) := by
  decide +kernel

/-- A host command with three arguments. -/
def hc3 (op a0 a1 a2 : Nat) : BitVec 1024 := BitVec.ofNat 1024 (fl [(0, op), (64, a0), (128, a1), (192, a2)])

theorem wit_ImmediateCommands :
    ([hc3 2 0 0x200000 64, hc3 3 0 0x200000 64, hc3 4 0 0 0, hc3 5 0 0 0, hc3 6 0 0 0, hc3 7 4095 1 0, hc3 8 0 1 0,
      hc3 9 0 64 0].all (fun h =>
        let s := hosted [] [h]
        s.headReady 1 0 == some h && !s.fatal && s.commonCheck 1 h == 0 && s.partServed (cmdPart 1 h))) = true ∧
    ([hc3 2 0 0 63, hc3 2 0 0 (2 ^ 30 + 64), hc3 3 0 0 65, hc3 7 4096 1 0, hc3 8 0 0 0, hc3 9 0 1 0].all (fun h =>
        let s := hosted [] [h]
        s.headReady 1 0 == some h && s.commonCheck 1 h != 0)) = true ∧
    (let h := hc3 4 0 0 0
     hcEnergy h = 0 ∧ argBad h = false ∧ hcPart h < 16 ∧ (up []).o (kPT_STATE (hcPart h)) = 0) ∧
    (let h := hc3 2 0 0x200000 64
     let s := hosted [] [h]
     (s.udPhys (cmdPart 1 h) (hcArg h 1) (hcArg h 2) true).isSome = true ∧
     s.udPhys (cmdPart 1 h) (5 * 2 ^ 29) (hcArg h 2) true = none ∧ s.reck.tensors = [] ∧ s.queueFill 0 < 4096 ∧
     (s.part (cmdPart 1 h)).stageQ.length < 256 ∧
     slotWriteCheck (BitVec.ofNat 1024 (leNat (((leBytes 128 (0x3F800000 * 2 ^ 512)).drop 0).take 128))) = 0) ∧
    ({ image := MirrorImage.blank, abort := true } : ExportCopy).image.hdr = [] ∧
    (let l (op : Nat) : Live := { id := 3, cmd := mkCmd (hosted [] []) 1 0 (hc3 op 0x1000 0x200000 64), data := List.replicate 64 7 }
     let s (op : Nat) : State := { hosted [] [] with host := { live := [l op] } }
     (s 2).host.live.find? (fun x => x.id == 3) = some (l 2) ∧
     (s 2).udPhys (l 2).cmd.part (hcArg (l 2).cmd.hdr 1) (hcArg (l 2).cmd.hdr 2) true = some 0x200000 ∧
     (s 2).ringOk (l 2).cmd.part (hcArg (l 2).cmd.hdr 1) (hcArg (l 2).cmd.hdr 2) = true ∧
     ((s 2).decks.udWrite 0x200000 ((l 2).data.take 64)).2 = false ∧ (s 2).decks.busy 0x200000 64 = false ∧
     hcOpcode (l 3).cmd.hdr = 3 ∧ (s 3).decks.udBadIn 0x200000 64 = false ∧ (l 2).cmd.mute = false) ∧
    ({ zeroing := [(0, 1)] } : Decks).busy 0x200000 64 = true := by
  decide +kernel

theorem wit_RunsAreDispatchedAndEnd :
    (let h := hc3 1 0x200000 0x200040 0
     let s : State := (hosted [] [h]).setCtx 0 0 { enabled := true }
     let u := s.pollAll.decideIdle 0
     s.headReady 1 0 = some h ∧ hcOpcode h = 1 ∧ s.fatal = false ∧ s.pollAll.opens 0 0 = true ∧ (s.pollAll.part 0).held = false ∧
     s.pollAll.rodsIdle 0 = true ∧ s.pollAll.nextRun 0 0 = some (0, h) ∧ u.resident 0 = 0 ∧ u.rodsIdle 0 = true ∧
     u.meets 1 0 h = true ∧ u.runCheck 0 h { len := 64, level := none, rods := [600] } ≠ 0) ∧
    (let h := hc3 1 0x200000 0x200040 0
     (hosted [] [h]).headReady 1 0 = some h ∧ (hosted [] [h]).pollAll.rodsIdle 0 = false) ∧
    (let h := hc3 1 0 0 0
     let s := { up [] with host := { funcs := [(0, { en := true, sqs := [(0, { en := true, fetched := [h] })]
                                                     cqs := [(0, { en := true, size := 3 })] })] } }
     s.headReady 0 0 = some h ∧ hcOpcode h = 1 ∧ s.fatal = false) ∧
    (let s : State := [0, 1, 2].foldl (fun s d => s.setRod d { st := .enabled, ended := true }) (busy [])
     s.runCmd 0 = some run0 ∧ (s.part 0).switch = none ∧ (∀ d ∈ run0.rods, (s.rod d).ended = true) ∧ run0.reserved = [] ∧ s.cy.tiles = []) := by
  decide +kernel

/-- Mailbox registers: OP, key, LENGTH, OFFSET and ADDR 4,096. -/
def mb (op key len : Nat) : MbRegs :=
  { cmd := BitVec.ofNat 64 (op + key % 256 * 2 ^ 8 + key / 256 * 2 ^ 16 + len * 2 ^ 32), offset := 0, addr := 4096, vector := 0 }

theorem wit_FunctionResetsAndMailboxes :
    (let s := fn1 { vf := true, en := true }
     s.dictUp = true ∧ s.fatal = false ∧ (s.func 1).vf = true ∧ (s.func 1).flr = 0 ∧ s.fnUp 1 = true) ∧
    ((fn1 { flr := 1 }).func 1).flr = 1 ∧ ((fn1 { flr := 2, retrain := true }).func 1).flr = 2 ∧ (fn1 {}).pend = [] ∧
    mbOp (mb 3 kPW_POLICY 4) ≠ 1 ∧ mbOp (mb 3 kPW_POLICY 4) ≠ 2 ∧
    (let s := up []
     let r := mb 1 kST_PERIOD_US 4
     let v := (s.mailboxRegs 0 r).ringBefore (.mailbox 0)
     s.mailboxUp 0 = true ∧ (s.func 0).busy = false ∧ s.dictUp = true ∧ v.fnUp 0 = true ∧ v.dictUp = true ∧ mbOp r = 1 ∧
     mbLen r = 4 ∧ mbKey r = kST_PERIOD_US ∧ r.addr.toNat % 64 = 0 ∧
     (match v.readObject (.mailbox 0) (mbKey r) r.offset.toNat (mbLen r) false with
      | .ok (u, _) => u.dictUp | .error _ => false) = true ∧
     (match v.readObject (.mailbox 0) 0xFFFFFF r.offset.toNat (mbLen r) false with
      | .ok _ => false | .error e => e != 0) = true) ∧
    (let s := { fn1 { mbStatus := 1 } with boot := { stage := 2 } }
     s.mailboxUp 0 = true ∧ s.dictUp = false ∧ (s.func 0).busy = false ∧ (s.func 1).busy = true) ∧
    (let s := up []
     let r := mb 2 kPW_POLICY 1
     let v := (s.mailboxRegs 0 r).ringBefore (.mailbox 0)
     mbOp r = 2 ∧ mbLen r ≠ 0 ∧
     (v.writeObject (.mailbox 0) (mbKey r) r.offset.toNat ((upto (mbLen r)).map (fun k => [1].getD k 0))).1.dictUp = true) ∧
    ((fn1 { vf := true, spdm := 4 }).func 1).spdm = 4 ∧
    ({ fn1 { vf := true, spdm := 3 } with boot := { stage := 6, identity := true } }).boot.identity = true ∧
    ((fn1 { vf := true, spdm := 3 }).func 1).spdm = 3 ∧ ((fn1 { vf := true }).func 1).spdm ≠ 4 ∧ (up []).boot.identity = false := by
  decide +kernel

/-- A part with an open window of one extent under a committed decoder at 4,096, and some blocks. -/
def windowed (l : List WinBlock) (w : List WinAccess) : State :=
  { up [(kCQ_WIN_STATE, 2), (kCQ_LINK_STATE, 1), (kCQ_WIN_EXTENTS, 1)] with
    host := { hdm := true, hdmBase := 4096, winExt := [3], win := l, winWait := w } }
def blk (dirty : Bool) (bad : List Nat) : WinBlock := { block := 1, dirty := dirty, at_ := 0, bad := bad, bytes := [(64, 9)] }
def acc0 (w : Option (List Byte)) : WinReq := { addr := 8256, write := w, finds := [] }
def acc1 (o : Nat) : WinAccess := { off := o, addr := o + 4096, write := none, finds := [] }

theorem wit_WindowAccesses :
    (up []).o kCQ_WIN_STATE ≠ winOPEN ∧ (up []).host.hdm = false ∧ (windowed [] []).host.hdmBase = 4096 ∧
    (let s := windowed [blk true []] []
     s.host.hdm = true ∧ s.host.hdmBase ≤ (acc0 none).addr ∧ (acc0 none).addr < s.host.hdmBase + s.o kCQ_WIN_EXTENTS * 2 ^ 30 ∧
     ((acc0 none).addr - s.host.hdmBase) / 64 * 64 = 4160 ∧
     s.o kCQ_WIN_STATE = winOPEN ∧ s.o kCQ_LINK_STATE = 1 ∧ (s.winPhys 4160).isSome = true ∧
     s.host.win.find? (fun x => x.block == 4160 / blockBytes) = some (blk true []) ∧
     4160 % 4096 / 64 ∉ (blk true []).bad ∧ 4160 % 4096 / 64 ∈ (blk true [1]).bad ∧
     s.host.win.find? (fun x => x.block == 1) = some (blk true []) ∧ s.winPhys (1 * blockBytes) = some (3 * 2 ^ 30 + 4096)) ∧
    (let s := windowed [] [acc1 4160, acc1 8192, acc1 4096]
     s.host.win.find? (fun x => x.block == 4160 / blockBytes) = none ∧ s.host.winWait = acc1 4160 :: [acc1 8192, acc1 4096] ∧
     (∀ x ∈ (acc1 4160 :: [acc1 8192, acc1 4096]).filter (fun x => x.off / blockBytes == 1), x.write = none ∧ x.off % 64 = 0) ∧
     s.host.win.length < 512 ∧ (s.decks.ldFind []).ldBad = [] ∧
     s.winPhys (4160 / blockBytes * blockBytes) = some (3 * 2 ^ 30 + 4096)) ∧
    (let s := up []
     s.ringBefore fn0 = s ∧ s.dictUp = true ∧ s.mayWrite fn0 = true ∧ s.host.hdm = false ∧ s.fnUp 0 = true ∧
     (((s.decks.freeExtents 0x10).newKey 0x10).allocExtents 0x10 2).isSome = true) ∧
    (let s := windowed [] []
     s.ringBefore fn0 = s ∧ s.dictUp = true ∧ s.mayWrite fn0 = true ∧ s.host.hdm = true) ∧
    (let s := up [(kCQ_WIN_STATE, 1)]
     s.o kCQ_WIN_STATE = winFILLING ∧ s.decks.filling = [] ∧ s.fatal = false) := by
  decide +kernel

/-! The dictionary, the ring's requests and the monitor. -/

theorem wit_DictionaryWritesAndRights :
    (up []).ringBefore fn0 = up [] ∧ (up []).ringBefore (.mailbox 1) = up [] ∧
    (up []).dictUp = true ∧ (up []).mayWrite fn0 = true ∧ (up []).mayWrite (.mailbox 1) = false ∧ State.reset.dictUp = false ∧
    Instr.form fn0 7 ∈ ([.form fn0 7, .close fn0 7] : List Instr) ∧
    dirFind 0xFFFF00 = none ∧ (dirFind kPW_LEVEL).any (fun r => r.acc == 1) = true ∧ (dirFind kATT_NONCE).any (fun r => r.acc == 2) = true ∧
    (dirFind kST_PERIOD_US).any (fun r => r.acc == 5 && r.size == (leBytes 4 100).length && r.ty != 8 && r.ty != 9) = true ∧
    inRange kST_PERIOD_US (leNat (leBytes 4 100)) = true ∧ inRange kST_PERIOD_US (leNat (leBytes 4 99)) = false ∧
    (let s := { up [] with flash := { dirty := [kPW_POLICY] } }
     s.dictUp = true ∧ kPW_POLICY ∈ s.flash.dirty ∧ (dirFind kPW_POLICY).isSome = true ∧ wrapped kPW_POLICY = false ∧
     wrapped kRING_KEY = true ∧ s.boot.identity = false ∧ kPW_BASE_W ∉ s.flash.dirty) ∧
    (leBytes 32 7).length = 32 := by
  decide +kernel

/-- `up` with one ring request: OP, and its DATA field. -/
def asked (op key data : Nat) : State :=
  let q : BitVec 96 := BitVec.ofNat 96 (op + 3 * 2 ^ 12 + key % 256 * 2 ^ 40 + key / 256 * 2 ^ 48 + data * 2 ^ 64)
  { up [] with ring := { queue := [{ seq := 1, slot := q, auth := true, at_ := 0 }], bypass := false } }
def req1 (s : State) : RingReq := s.ring.queue.headD { seq := 0, slot := 0, auth := false, at_ := 0 }

/-- A frame whose slots all hold a request and a response. -/
def filled : List Byte := (frameBody 0 1 5).take 46 ++ List.replicate 1552 1

theorem wit_RingRequestsAreServed :
    (let f := frameBody 0 1 5
     let s := up []
     let slot := s.ringSlot (rhPos (rfHdr f))
     slot = 3 ∧ rfResponse slot + 16 ≤ 1598 ∧ rfNum f (rfResponse slot) 1 % 16 = 0 ∧
     rqOp (BitVec.ofNat 96 (rfNum f (rfRequest slot) 12)) = 0 ∧ s.ring.queue = []) ∧
    (let f := filled
     let s := up []
     let slot := s.ringSlot (rhPos (rfHdr f))
     rqOp (BitVec.ofNat 96 (rfNum f (rfRequest slot) 12)) = 1 ∧ rfNum f (rfResponse slot) 1 % 16 ≠ 0) ∧
    63 < (up [(kRING_SLOT, 200)]).ringSlot 64 ∧
    (let s := { up [] with ns := 20000, ring := { ready := [{ seq := 1, status := 0, data := 0, at_ := 0 }] } }
     s.ring.ready = { seq := 1, status := 0, data := 0, at_ := 0 } :: [] ∧ 0 + 20000 ≤ s.ns) ∧
    ((asked 1 kST_PERIOD_US 0).dictUp = true ∧ (asked 1 kST_PERIOD_US 0).ring.queue = req1 (asked 1 kST_PERIOD_US 0) :: []) ∧
    (let s := asked 1 kST_PERIOD_US 0
     let v : State := { s with ring := { s.ring with queue := [] } }
     rqOp (req1 s).slot = 1 ∧
     (match v.readObject (.ring true) (rqKey (req1 s).slot) (rqOff (req1 s).slot) (rqLen (req1 s).slot) true with
      | .ok (u, bs) => u.dictUp && decide (u.ring = v.ring) && bs == leBytes 4 1000 | .error _ => false) = true ∧
     (match v.readObject (.ring true) 0xFFFF00 0 4 true with | .ok _ => false | .error e => e == stRING_PARAM) = true) ∧
    (let s := asked 2 kST_PERIOD_US 100
     let v : State := { s with ring := { s.ring with queue := [] } }
     rqOp (req1 s).slot = 2 ∧ (v.ringWrite (req1 s)).1.dictUp = true ∧ (v.ringWrite (req1 s)).1.ring = v.ring) ∧
    (let s := asked 3 0 5
     rqOp (req1 s).slot = 3 ∧ s.mayWrite (.ring true) = true ∧ s.mayWrite (.ring false) = false ∧
     rqOff (req1 s).slot + rqLen (req1 s).slot ≤ ringBuf ∧ rqLen (req1 s).slot = 4) ∧
    (let s := asked 4 kST_PERIOD_US 4
     let v : State := { s with ring := { s.ring with queue := [] } }
     rqOp (req1 s).slot = 4 ∧ 1 ≤ rqData (req1 s).slot ∧ rqData (req1 s).slot ≤ ringBuf ∧
     (v.writeObject (.ring true) (rqKey (req1 s).slot) (rqOff (req1 s).slot) (mread s.ring.stage 0 4)).1.dictUp = true ∧
     (v.writeObject (.ring true) (rqKey (req1 s).slot) (rqOff (req1 s).slot) (mread s.ring.stage 0 4)).1.ring = v.ring) ∧
    (let s := asked 5 kST_PERIOD_US 4
     let v : State := { s with ring := { s.ring with queue := [] } }
     rqOp (req1 s).slot = 5 ∧ rqData (req1 (asked 5 0 0)).slot = 0 ∧
     (match v.readObject (.ring true) (rqKey (req1 s).slot) (rqOff (req1 s).slot) (rqData (req1 s).slot) false with
      | .ok (u, _) => u.dictUp && decide (u.ring = v.ring) | .error _ => false) = true) ∧
    rqOp (req1 (asked 6 0 0)).slot = 6 := by
  decide +kernel

theorem wit_NoRequestWithoutOne :
    rqOp (BitVec.ofNat 96 (rfNum (frameBody 1 1 5) (rfRequest ((up []).ringSlot (rhPos (rfHdr (frameBody 1 1 5))))) 12)) = 0 ∧
    rfShaped [] = false ∧ (up []).ring.bypass = true := by
  decide +kernel

theorem wit_ScrubPeriodsAreHeldToTheirRange :
    (up []).ringBefore (.ring true) = up [] ∧
    (up []).dictUp = true ∧ (up []).mayWrite (.ring true) = true ∧ 25 < 256 ∧ 24 < 25 ∧ 0 < 1 ∧ 168 < 169 := by
  decide +kernel

/-- `up` with a passphrase of eight zero bytes and a session level. -/
def manned (l : Nat) : State :=
  ({ up [] with mon := { level := l } }).setBlob kMON_PASS_HASH 0 (sha256 (List.replicate 8 0))

/-- Sixteen lines of 48 digits 0. -/
def sigLines : List (List Byte) := List.replicate 16 (List.replicate 48 0x30)

theorem wit_MonitorSessions :
    (let s := manned 0
     let hash := (upto 32).map (fun k => s.blob kMON_PASS_HASH k)
     s.dictUp = true ∧ s.mon.vend = none ∧ s.mon.lockAt = 0 ∧ sha256 (List.replicate 8 0) = hash ∧ (∃ b ∈ hash, b ≠ 0) ∧
     sha256 (List.replicate 9 0) ≠ hash ∧ s.mon.level = 0) ∧
    (let s := { up [] with ns := 10 ^ 12, mon := { lockAt := 1, nonce := some (0, 0) } }
     s.mon.lockAt ≠ 0 ∧ s.mon.lockAt + 60000000000 ≤ s.ns + 1 ∧ s.mon.nonce = some (0, 0) ∧ 0 + 60000000000 < s.ns ∧
     s.mon.inputAt + s.o kMON_IDLE_S * 1000000000 ≤ s.ns) ∧
    (let s := { up [] with mon := { nonce := some (0, 0) } }
     s.mon.nonce = some (0, 0) ∧ s.ns ≤ 0 + 60000000000 ∧ vendorSignature sigLines = some (List.replicate 384 0) ∧
     vendorSignature [] = none) ∧
    (let s := manned 1
     let v := { s with mon := { s.mon with inputAt := s.ns } }.ringBefore .monitor
     s.mon.level ≠ 0 ∧ v.dictUp = true ∧
     (match v.readObject .monitor (kST_PERIOD_US / 256 * 256 + kST_PERIOD_US % 256) 0 4 false with
      | .ok (u, bs) => u.dictUp && bs == leBytes 4 1000 | .error _ => false) = true ∧
     (match v.readObject .monitor 0xFFFF00 0 4 false with | .ok _ => false | .error e => e == stMB_PARAM) = true ∧
     (dirFind kST_PERIOD_US).isSome = true ∧
     (v.writeObject .monitor kST_PERIOD_US 0 (leBytes 4 100)).1.dictUp = true ∧
     (v.writeObject .monitor kMON_BAUD 0 (leBytes 4 230400)).2 = 0 ∧
     (v.resetControl .monitor (0 + 256 * 0)).2 ≠ 0 ∧ (v.resetControl .monitor (1 + 256 * 0)).2 = 0 ∧
     (v.resetControl .monitor (1 + 256 * 0)).1.dictUp = false ∧
     (v.resetControl .monitor (4 + 256 * 1)).2 = 0 ∧ (v.resetControl .monitor (4 + 256 * 1)).1.dictUp = true) ∧
    (let s := up []
     s.mon.input = [] ∧ s.mon.overrun = false ∧ (∀ c ∈ asciiBytes "help", c ≠ 0x0D ∧ c ≠ 0x0A) ∧
     monParse (asciiBytes "help") = some .help ∧ monParse (asciiBytes "HELP me") = none ∧
     ({ s with mon := { vend := some (5, []) } }).mon.vend = some (5, []) ∧ ([] : List (List Byte)).length ≠ 15) ∧
    (List.replicate 15 ([] : List Byte)).length = 15 := by
  decide +kernel

/-- Lines as R428 has them: case is ignored, numbers are decimal or 0x hex. -/
theorem test_monitor_lines :
    monParse (asciiBytes "read 2400:0x03") = none ∧ monParse (asciiBytes "READ 2400:03 0 4") = some (.read 0x2400 3 0 4) ∧
    monParse (asciiBytes "Watch on") = some (.watch true) ∧ monParse (asciiBytes "reset cold") = some (.reset 1 0) ∧
    monParse (asciiBytes "LOG 16") = some (.log 16) ∧ monParse (asciiBytes "LOG 0x10") = some (.log 16) := by
  decide +kernel

/-! Boot, firmware, resets, the block. -/

/-- A part at a stage of its boot, its image 1 to 5 in bank A as manufactured. -/
def atStage (n : Nat) (l : List (Nat × Nat)) : State :=
  l.foldl (fun s x => s.setO x.1 x.2) { State.reset with boot := { stage := n } }
/-- The same with nothing in either bank. -/
def blank (n : Nat) : State := { State.reset with boot := { stage := n, banks := [] } }

theorem wit_BootSequence :
    (let s := State.reset
     s.boot.stage = 0 ∧ s.boot.holding = false ∧ s.supplyGood = true) ∧
    (atStage 1 []).boot.halted = false ∧ (atStage 1 []).copyState ((atStage 1 []).o kFW_PREFERRED) 1 = imUSABLE ∧
    (((atStage 1 []).bank ((atStage 1 []).o kFW_PREFERRED)).slot 1).isSome = true ∧
    (let s := atStage 1 [(kFW_PREFERRED, 1)]
     s.copyState (s.o kFW_PREFERRED) 1 ≠ imUSABLE ∧ s.copyState (1 - s.o kFW_PREFERRED) 1 = imUSABLE) ∧
    (let s := blank 1
     s.copyState (s.o kFW_PREFERRED) 1 ≠ imUSABLE ∧ s.copyState (1 - s.o kFW_PREFERRED) 1 ≠ imUSABLE) ∧
    (let s := atStage 2 []
     s.boot.halted = false ∧ s.copyState (s.o kFW_PREFERRED) 2 = imUSABLE) ∧
    (let s := atStage 3 []
     s.boot.stage = 3 ∧ s.storedKeys = [] ∧ ∀ fn ∈ upto 17, (s.func fn).mbHeld = none) ∧
    ({ State.reset with boot := { stage := 3, wdog := true } }).boot.wdog = true ∧
    (let s := atStage 4 []
     s.boot.stage = 4 ∧ s.fatal = false ∧ s.boot.holding = false ∧
     ([3, 4, 5].all (fun k => s.copyState (s.o kFW_PREFERRED) k == imUSABLE)) = true ∧ s.o kFW_RESTRICT_CAUSE = 0 ∧
     (((s.loadLate 3).loadLate 4).loadLate 5).badPairs = []) ∧
    (let s := blank 4
     s.copyState (s.o kFW_PREFERRED) 3 ≠ imUSABLE ∧ s.copyState (1 - s.o kFW_PREFERRED) 3 ≠ imUSABLE) ∧
    (let s := atStage 5 [(kFW_STATE, 1)]
     s.boot.stage = 5 ∧ s.boot.holding = false ∧ s.fatal = false ∧ s.o kFW_STATE = 1 ∧ s.mapLevel 575 = 0) := by
  decide +kernel

/-- A part whose bank B is valid, and whose bank A runs. -/
def twoBanks : State :=
  { up [] with boot := { stage := 6, identity := true, banks := [(0, factoryBank), (1, factoryBank)], source := [(1, 1)] } }

theorem wit_FirmwareUpdateAndReports :
    (let s := twoBanks
     s.dictUp = true ∧ s.mayWrite fn0 = true ∧ s.boot.write = none ∧ tget 0 s.boot.source 1 = 0 + 1 ∧ tget 0 s.boot.source 1 ≠ 1 + 1 ∧
     s.stagedCheck 1 s.stagedImage ≠ 0 ∧ (s.bank 1).state = 1 ∧ s.o kFW_PREFERRED ≠ 1 ∧ s.o kFW_PREFERRED = 0 ∧
     (let lv (k : Nat) : List (BitVec 64) :=
        if k = 0 then s.boot.romLevels else match (s.bank 1).slot k with | some x => x.levels | none => []
      ∀ q ∈ bootPairs, levelsAgree (levelEntry (lv q.2.1) q.1) (levelEntry (lv q.2.2) q.1) = true) ∧
     s.o kFW_STATE = 2 ∧ s.o kFW_FALLBACK = 0 ∧ s.tries = 0xFF ∧ s.boot.identity = true ∧ (up []).boot.identity = false) ∧
    (factoryBank.slot 2).any (fun x =>
      let s := { up [] with boot := { stage := 6, write := some (2, 1, x) } }
      s.boot.write == some (2, 1, x) && s.imageState 2 (some x) == imUSABLE && s.copyState 1 3 != imUSABLE
        && [1, 3, 4, 5].all (fun k => twoBanks.copyState 1 k == imUSABLE)) = true ∧
    (bootPairs.any (fun q => !levelsAgree (levelEntry [] q.1)
      (levelEntry (match (twoBanks.bank 1).slot 1 with | some x => x.levels | none => []) q.1))) = true := by
  decide +kernel

/-- `twoBanks` with an image 3 of one byte stagedPart. -/
def stagedPart : State :=
  twoBanks.setBlob kFW_UPDATE_DATA 0 (leBytes 8 (0x314D5647 + 3 * 2 ^ 32 + 2 ^ 40) ++ leBytes 16 1 ++ sha256 [7]
    ++ List.replicate 968 0 ++ [7])

/-- Its check passes if its signature verifies, which is free (log entry 19). -/
theorem wit_stagedCheck (h : stagedPart.stagedImage.sigOk = true) : stagedPart.stagedCheck 3 stagedPart.stagedImage = 0 := by
  have e : stagedPart.stagedImage = { stagedPart.stagedImage with sigOk := true } := by rw [← h]
  rw [e]
  decide +kernel

theorem wit_ResetsTakeTheirScope :
    (let s := up []
     s.dictUp = true ∧ s.mayWrite fn0 = true ∧ s.tooHot = false ∧ s.fatal = false ∧ 3 ≤ s.boot.stage ∧ State.reset.boot.stage < 3 ∧
     s.o (kPT_STATE 0) = 0 ∧ (s.func 1).vf = false) ∧
    ({ up [] with st := { tripped := true, tj := [(0, 900)] } }).tooHot = true ∧
    (up [(kERR_FATAL_DEVICE, 1)]).fatal = true ∧
    (let s := { State.reset with ns := 10000000, boot := { holding := true } }
     s.boot.holding = true ∧ s.boot.at_ + 10000000 ≤ s.ns) ∧
    (let s := busy []
     s.o (kPT_STATE 0) ≠ 0 ∧ (s.part 0).quiesce ≠ 2 ∧ (s.part 0).quiesce ≠ 4 ∧ (s.part 0).reset = 0 ∧
       ((s.setPart 0 { quiesce := 2 }).part 0).quiesce = 2 ∧ s.flash.defaults = false ∧
       ({ s with flash := { s.flash with defaults := true } } : State).flash.defaults = true) ∧
    (let s := (busy [(kPT_STATE 0, 4)]).setPart 0 { reset := 1 }
     s.fatal = false ∧ s.o (kPT_STATE 0) = 4 ∧ (s.part 0).reset = 1) ∧
    (((busy [(kPT_STATE 0, 4)]).setPart 0 { reset := 2 }).part 0).reset = 2 ∧
    ((fn1 { vf := true }).func 1).vf = true := by
  decide +kernel

theorem wit_StepRunsTheFrontCommand :
    ({ State.reset with pending := [.powerGood] }).pending = .powerGood :: [] ∧ State.reset.pending = [] := by
  decide +kernel

theorem wit_EveryStepPopsTheQueue :
    step { State.reset with pending := [.logout, .powerGood] } = .next { State.reset with pending := [.powerGood] } := by
  rfl

theorem wit_EveryStepKeepsTheUpperDeck :
    Memory.wf (up []).decks.ud = true ∧ step (up []) = .next (tick (up [])) :=
  ⟨by decide +kernel, rfl⟩

theorem test_reset_settings :
    State.reset.o kST_PERIOD_US = 1000 ∧ State.reset.o kPW_LEVEL_MAX = 24 ∧ State.reset.o kST_HOLDOVER_W = 6400 ∧
    State.reset.o kRING_SLOT = 0xFF ∧ State.reset.o kMON_BAUD = 115200 ∧ State.reset.resident 15 = 0xFF ∧
    State.reset.lkState 63 = lkABSENT ∧ (State.reset.rod 575).st ≠ .enabled ∧ State.reset.o kST_STATE = 0 := by
  decide +kernel

/-! Operand ranges: an instance number one beyond the last is refused, for each kind of instance. -/

theorem test_wf_rods :
    (Instr.flitError 576).wf = false ∧ (Instr.sliceZeroingEnd 576).wf = false ∧ (Instr.fill 576 0).wf = false ∧
    (Instr.closeStep 576 ⟨0, false⟩).wf = false ∧ (Instr.rootQuery 576 0 0).wf = false ∧ (Instr.flitError 575).wf = true ∧
    (Instr.meshPacketDelivery { src := 0, dst := 576, part := 0, vc := 0, len := 64, seq := 0, sent := 0, kind := .manage }).wf = false ∧
    (Instr.meshPacketDelivery { src := 0, dst := 0, part := 0, vc := 4, len := 64, seq := 0, sent := 0, kind := .manage }).wf = false := by
  decide

theorem test_wf_deck_and_tally :
    (Instr.ldPackageFail 32 true).wf = false ∧ (Instr.extentZeroFillEnd ⟨1024, 0, false⟩).wf = false ∧ (Instr.stageEnd 16 0).wf = false ∧
    (Instr.form .monitor 8).wf = false ∧ (Instr.rebalanceToStudent .monitor 0 64 0).wf = false ∧
    (Instr.attach .monitor 0 16).wf = false ∧ (Instr.ldPackageFail 31 true).wf = true ∧ (Instr.form .monitor 7).wf = true := by
  decide

theorem test_wf_partitions :
    (Instr.ptCreate .monitor 16).wf = false ∧ (Instr.ctxEnable .monitor 0 8).wf = false ∧ (Instr.iiWindowEnd 16 [] [] 0).wf = false ∧
    (Instr.passStart 16).wf = false ∧ (Instr.rkGroupsWrite .monitor 0 256 0).wf = false ∧ (Instr.groupForm .monitor 0 4).wf = false ∧
    (Instr.mirrorCommit 8 ⟨0, 0⟩ .blank 0).wf = false ∧ (Instr.ctxEnable .monitor 15 7).wf = true := by
  decide

theorem test_wf_ports_and_functions :
    (Instr.lightDetected 64).wf = false ∧ (Instr.jettonRowDone 16).wf = false ∧ (Instr.ringChange .monitor 24 none none).wf = false ∧
    (Instr.run 17 0 { len := 0, level := none, rods := [] }).wf = false ∧ (Instr.sqDrainEnd 0 64).wf = false ∧
    (Instr.msixVectorUnmask 0 ⟨256, false, 0, 0⟩).wf = false ∧ (Instr.objectWrite .monitor 65536 0 0 []).wf = false ∧
    (Instr.monRead 0 256 0 0).wf = false ∧ (Instr.monLog 17).wf = false ∧ (Instr.selectBank .monitor 2).wf = false ∧
    (Instr.writeImage .monitor 6 0).wf = false ∧ (Instr.portReset .monitor 17).wf = false ∧ (Instr.functionReset .monitor 16).wf = true := by
  decide

/-! Worked examples of the spec. -/

/-- The table beside R26: (5, 0) to (6, 0), (0, 0) to (23, 23), each with one flit and with a payload of 4,096 B. -/
theorem test_route_cost :
    routeCost 1 1 64 = 8 ∧ routeCost 1 1 4096 = 39 ∧ routeCost 46 6 64 = 108 ∧ routeCost 46 6 4096 = 139 := by
  decide

/-- "Worked example: encoding one BD8 block": 100, −2.5, 0.03 and 0.02 under TS = 8. -/
theorem test_bd8_block :
    let r := encodeBlock bd8 0x41000000 (fun _ => .rne)
      (([0x42C80000, 0xC0200000, 0x3CF5C28F, 0x3CA3D70A] : List F32).map (fun x => some (f32dec x)))
    r.1 = 0x7B ∧ r.2.1.take 4 = [0x7E, 0xA8, 0x01, 0x00] := by
  decide +kernel

/-- No row of the opcode table carries bits, so no word spells a command. -/
theorem test_no_words : decodeTableWord 0 0 = none ∧ decodeTableWord 64 0x1234 = none := by
  decide

end Sys2Proof.Tests
end

section
/-! What the part holds right after reset (R9, R336, R376, R402, R462). -/

namespace Sys2Proof.Machine

open Sys2Proof

/-! The parts of the state by number: each instance is the one its structure gives. -/

@[simp] theorem reset_rod (r : Nat) : State.reset.rod r = {} := rfl
@[simp] theorem reset_func (f : Nat) : State.reset.func f = {} := rfl

/-- No object has been written, so each reads as its directory default (R402). -/
@[simp] theorem reset_o (k : Nat) : State.reset.o k = objDefault k := rfl

/-! The directory's defaults of the objects that describe each partition and each link. -/

theorem objDefault_kPT_STATE : ∀ p < 16, objDefault (kPT_STATE p) = 0 := by decide +kernel

theorem objDefault_kPT_FRAMES : ∀ p < 16, objDefault (kPT_FRAMES p) = 0 := by decide +kernel

theorem objDefault_kPT_RESIDENT : ∀ p < 16, objDefault (kPT_RESIDENT p) = 0xFF := by decide +kernel

theorem objDefault_kOP_LINK_STATE : ∀ l < 64, objDefault (kOP_LINK_STATE l) = lkABSENT := by decide +kernel

/-- Every partition is NONE, owns no frame and has no resident context. -/
theorem reset_partition_none (p : Nat) (hp : p < 16) :
    State.reset.o (kPT_STATE p) = 0 ∧ State.reset.frames p = 0 ∧ State.reset.resident p = 0xFF :=
  ⟨objDefault_kPT_STATE p hp, objDefault_kPT_FRAMES p hp, objDefault_kPT_RESIDENT p hp⟩

/-- Every link is ABSENT. -/
theorem reset_link_absent (l : Nat) (hl : l < 64) : State.reset.lkState l = lkABSENT :=
  objDefault_kOP_LINK_STATE l hl

/-- No rod is enabled, and every operand cache is empty. -/
theorem reset_rod_off (r : Nat) : (State.reset.rod r).st ≠ .enabled ∧ (State.reset.rod r).cache = [] := by
  rw [reset_rod]
  exact ⟨by decide, rfl⟩

/-- No function is enabled, and none of its queues. -/
theorem reset_func_disabled (f : Nat) : (State.reset.func f).en = false ∧
    ∀ q, ((State.reset.func f).sq q).en = false ∧ ((State.reset.func f).cq q).en = false := by
  rw [reset_func]
  exact ⟨rfl, fun _ => ⟨rfl, rfl⟩⟩

/-- The upper deck lists no byte, so it is in canonical form and reads +0 everywhere. -/
theorem reset_ud : Memory.wf State.reset.decks.ud = true ∧ ∀ a, mget State.reset.decks.ud a = 0 :=
  ⟨rfl, fun a => tget_nil 0 a⟩

/-- The strokes' and the other settings' objects read the defaults of their chapters. -/
theorem reset_settings :
    State.reset.stroke = 0 ∧ State.reset.o kST_STATE = 0 ∧ State.reset.o kST_PERIOD_US = 1000 ∧
    State.reset.o kPW_LEVEL_MAX = 24 ∧ State.reset.o kST_HOLDOVER_W = 6400 ∧ State.reset.o kRING_SLOT = 0xFF ∧
    State.reset.o kMON_BAUD = 115200 := by
  simp only [State.stroke, reset_o]
  decide +kernel

/-- Settles O58: the scalar objects hold their directory defaults, and the tables that the statement reads list nothing. -/
theorem resetLeavesNothingRunning : Obligations.ResetLeavesNothingRunning := by
  obtain ⟨hwf, hzero⟩ := reset_ud
  obtain ⟨hstroke, hstate, hperiod, hmax, hholdover, hslot, hbaud⟩ := reset_settings
  exact ⟨rfl, rfl, rfl, rfl, hwf, hzero, reset_rod_off, reset_partition_none, reset_link_absent, reset_func_disabled,
    rfl, tget_nil none, tget_nil 0, rfl, hstroke, hstate, hperiod, hmax, hholdover, hslot, hbaud, rfl⟩

end Sys2Proof.Machine
end

section
/-! The scrub periods' range check (R150). -/

namespace Sys2Proof.Machine

open Sys2Proof

/-- A value outside a row of the table of ranges is out of range for each key of the row's family. -/
theorem inRange_eq_false {key v : Nat} (row : Nat × Nat × Nat × Nat) (hrow : row ∈ rangeTab)
    (hkey : (inFam row.1 row.2.1 key).isSome) (hv : v < row.2.2.1 ∨ row.2.2.2 < v) : inRange key v = false := by
  refine List.all_eq_false.mpr ⟨row, hrow, ?_⟩
  simp only [Option.isNone_eq_false_iff.mpr hkey, Bool.false_or, Bool.and_eq_true, decide_eq_true_eq]
  omega

/-- R150: a scrub period outside its range is no value of its object. -/
theorem valueOk_scrub {key v : Nat}
    (h : key = kDK_SCRUB_UD_HOURS ∧ (v < 1 ∨ 24 < v) ∨ key = kDK_SCRUB_LD_HOURS ∧ (v < 1 ∨ 168 < v)) :
    valueOk key v = false := by
  obtain ⟨rfl, hv⟩ | ⟨rfl, hv⟩ := h
  · exact inRange_eq_false (key := kDK_SCRUB_UD_HOURS) (kDK_SCRUB_UD_HOURS, 1, 1, 24) (by decide) (by decide) hv
  · exact inRange_eq_false (key := kDK_SCRUB_LD_HOURS) (kDK_SCRUB_LD_HOURS, 1, 1, 168) (by decide) (by decide) hv

/-- No earlier check of `writeScalar` claims a scrub period, so a bad value draws the path's invalid-parameter status. -/
theorem writeScalar_scrub (s : State) (path : Path) (r : DirRow) {key v : Nat}
    (hkey : key = kDK_SCRUB_UD_HOURS ∨ key = kDK_SCRUB_LD_HOURS) (hv : valueOk key v = false) :
    s.writeScalar path r key v = (s, invalidParam path) := by
  have hcontrol : s.controlObject path key v = none := by obtain rfl | rfl := hkey <;> rfl
  have hty : (decide (0x4810 ≤ key / 256) && decide (key / 256 < 0x4818)) = false := by
    obtain rfl | rfl := hkey <;> decide
  have hnum : (decide (0x4840 ≤ key / 256) && decide (key / 256 < 0x4850)) = false := by
    obtain rfl | rfl := hkey <;> decide
  have hhv : (inFam (kTY_HV_ENABLE 0) 16 (key - key % 256 + 1)).isSome = false := by
    obtain rfl | rfl := hkey <;> decide
  simp [State.writeScalar, hcontrol, hty, hnum, hhv, hv]

/-- The directory's rows of the scrub periods: one byte, kept in flash. -/
theorem dirFind_scrub {key : Nat} (hkey : key = kDK_SCRUB_UD_HOURS ∨ key = kDK_SCRUB_LD_HOURS) :
    ∃ r, dirFind key = some r ∧ r.acc = 5 ∧ r.ty = 1 ∧ r.size = 1 := by
  obtain rfl | rfl := hkey <;> exact ⟨_, rfl, rfl, rfl, rfl⟩

/-- A write of a byte out of range to a scrub period changes nothing and answers the path's invalid-parameter status. -/
theorem writeObject_scrub (s : State) (path : Path) {key : Nat} (b : Byte) (hw : s.mayWrite path = true)
    (hkey : key = kDK_SCRUB_UD_HOURS ∨ key = kDK_SCRUB_LD_HOURS) (hv : valueOk key b.toNat = false) :
    s.writeObject path key 0 [b] = (s, invalidParam path) := by
  obtain ⟨r, hrow, hacc, hty, hsize⟩ := dirFind_scrub hkey
  simp [State.writeObject, hrow, hw, hacc, hty, hsize, spanOk, leNat, writeScalar_scrub s path r hkey hv]

/-- Settles O52: the write's turn comes, the range check refuses it, and only the path's status is written. -/
theorem scrubPeriodsAreHeldToTheirRange : Obligations.ScrubPeriodsAreHeldToTheirRange := by
  intro path key v s u hup hw hv hbad
  have hkey : key = kDK_SCRUB_UD_HOURS ∨ key = kDK_SCRUB_LD_HOURS := hbad.imp And.left And.left
  have hsplit : key / 256 < 65536 ∧ key % 256 < 256 ∧ key / 256 * 256 + key % 256 = key := by
    obtain rfl | rfl := hkey <;> decide
  obtain ⟨hidx, hsub, hjoin⟩ := hsplit
  have hbyte : (BitVec.ofNat 8 v).toNat = v := by simpa using hv
  have hwrite := writeObject_scrub u path (BitVec.ofNat 8 v) hw hkey (hbyte.symm ▸ valueOk_scrub hbad)
  refine ⟨u.report path (invalidParam path), ?_, rfl, ?_, rfl⟩
  · show execObjectWrite path _ _ 0 _ s = _
    simp [execObjectWrite, hidx, hsub, hjoin, State.dictWrite, u, hup, hwrite]
  · cases path <;> simp [State.report, invalidParam]

end Sys2Proof.Machine
end

section
/-! Every command keeps the upper deck in its canonical form (R126, R131, R147) and the queue as it is. `Kept` says so of a
state; each function of the model has one lemma about it, `Kept.f` for `State.f` and `execF_kept` for `execF`, which follows
the branches of its definition and cites the lemmas of the functions that it calls. A proof opens its definition with
`delta` where `unfold` would make the kernel evaluate a long fold or a match's argument. -/

namespace Sys2Proof.Machine

open Sys2Proof

/-- The queue is `cs`, and the upper deck is in canonical form. -/
structure Kept (cs : List Instr) (s : State) : Prop where
  queue : s.pending = cs
  deck : Memory.wf s.decks.ud = true

/-- If the outcome is a next state, it has that queue, and its upper deck is in canonical form. -/
def KeptOut (cs : List Instr) (o : Out) : Prop := ∀ t, o = .next t → Kept cs t

section
variable {cs : List Instr} {s t : State} {c : Prop} [Decidable c]

/-- The parts of the state other than the queue and the decks may change freely, and the decks where that keeps the
canonical form. -/
theorem Kept.setDecks {draws ns rodTenths objs blobs flash status readData rods mesh d parts ctxs frameOwner pairings
    harvests nums reck cy op sv st host ring mon errs boot pend} (h : Kept cs s)
    (hd : Memory.wf s.decks.ud = true → Memory.wf d.ud = true) :
    Kept cs ⟨s.pending, draws, ns, rodTenths, objs, blobs, flash, status, readData, rods, mesh, d, parts, ctxs,
      frameOwner, pairings, harvests, nums, reck, cy, op, sv, st, host, ring, mon, errs, boot, pend⟩ :=
  ⟨h.queue, hd h.deck⟩

/-- The parts of the state other than the queue and the decks may change freely. -/
theorem Kept.update {draws ns rodTenths objs blobs flash status readData rods mesh parts ctxs frameOwner pairings
    harvests nums reck cy op sv st host ring mon errs boot pend} (h : Kept cs s) :
    Kept cs ⟨s.pending, draws, ns, rodTenths, objs, blobs, flash, status, readData, rods, mesh, s.decks, parts, ctxs,
      frameOwner, pairings, harvests, nums, reck, cy, op, sv, st, host, ring, mon, errs, boot, pend⟩ :=
  h.setDecks id

/-- The parts of the state other than the queue, and of the decks other than the upper deck's bytes, may change freely. -/
theorem Kept.updateDecks {draws ns rodTenths objs blobs flash status readData rods mesh parts ctxs frameOwner pairings
    harvests nums reck cy op sv st host ring mon errs boot pend stagers udBad ld ldFill ldBase ldBad owner filling keyGen
    keysDrawn rot rowErrs rowCopy rowCopyAt spareUsed sparesOut zeroing pkg pkgErrs granted ldCorrected ldLink}
    (h : Kept cs s) :
    Kept cs ⟨s.pending, draws, ns, rodTenths, objs, blobs, flash, status, readData, rods, mesh,
      ⟨stagers, s.decks.ud, udBad, ld, ldFill, ldBase, ldBad, owner, filling, keyGen, keysDrawn, rot, rowErrs, rowCopy,
        rowCopyAt, spareUsed, sparesOut, zeroing, pkg, pkgErrs, granted, ldCorrected, ldLink⟩,
      parts, ctxs, frameOwner, pairings, harvests, nums, reck, cy, op, sv, st, host, ring, mon, errs, boot, pend⟩ :=
  h.setDecks id

/-! The shapes that the model's functions are built of. -/

theorem Kept.ite (hs : Kept cs s) (ht : Kept cs t) : Kept cs (if c then s else t) := by
  split <;> assumption

theorem Kept.pair {α : Type} {a : α} (h : Kept cs s) : Kept cs (s, a).1 := h

theorem Kept.ite_fst {α : Type} {x y : State × α} (hx : Kept cs x.1) (hy : Kept cs y.1) :
    Kept cs (if c then x else y).1 := by
  split <;> assumption

theorem Kept.foldl {α : Type} {f : State → α → State} {l : List α} (h : Kept cs s)
    (hf : ∀ s x, Kept cs s → Kept cs (f s x)) : Kept cs (l.foldl f s) := by
  induction l generalizing s with
  | nil => exact h
  | cons x l ih => exact ih (hf s x h)

theorem Kept.foldl_fst {α β : Type} {f : State × β → α → State × β} {l : List α} {x : State × β} (h : Kept cs x.1)
    (hf : ∀ x a, Kept cs x.1 → Kept cs (f x a).1) : Kept cs (l.foldl f x).1 := by
  induction l generalizing x with
  | nil => exact h
  | cons a l ih => exact ih (hf x a h)

theorem KeptOut.next (h : Kept cs s) : KeptOut cs (.next s) := by
  rintro _ ⟨⟩; exact h

theorem KeptOut.fault (r : Fault) : KeptOut cs (.fault r) := by
  rintro _ ⟨⟩

theorem KeptOut.ite {o p : Out} (ho : KeptOut cs o) (hp : KeptOut cs p) : KeptOut cs (if c then o else p) := by
  split <;> assumption
end
end Sys2Proof.Machine
end

section
/-! The named operations over the state (Machine/Ops.lean). -/

namespace Sys2Proof.Machine

open Sys2Proof

variable {cs : List Instr} {s : State}

theorem Kept.setRod {r v} (h : Kept cs s) : Kept cs (s.setRod r v) := h.update

theorem Kept.setPart {p v} (h : Kept cs s) : Kept cs (s.setPart p v) := h.update

theorem Kept.setCtx {p c v} (h : Kept cs s) : Kept cs (s.setCtx p c v) := h.update

theorem Kept.setPairing {n v} (h : Kept cs s) : Kept cs (s.setPairing n v) := h.update

theorem Kept.setHarvest {p v} (h : Kept cs s) : Kept cs (s.setHarvest p v) := h.update

theorem Kept.setNum {p v} (h : Kept cs s) : Kept cs (s.setNum p v) := h.update

theorem Kept.setLink {l v} (h : Kept cs s) : Kept cs (s.setLink l v) := h.update

theorem Kept.setGroup {p g v} (h : Kept cs s) : Kept cs (s.setGroup p g v) := h.update

theorem Kept.setFunc {f v} (h : Kept cs s) : Kept cs (s.setFunc f v) := h.update

theorem Kept.setSlot {p n v} (h : Kept cs s) : Kept cs (s.setSlot p n v) := h.setPart

theorem Kept.setO {k v} (h : Kept cs s) : Kept cs (s.setO k v) := h.update

theorem Kept.addO {w k n} (h : Kept cs s) : Kept cs (s.addO w k n) := h.setO

theorem Kept.setBlob {k a bs} (h : Kept cs s) : Kept cs (s.setBlob k a bs) := by
  induction bs generalizing s a with
  | nil => exact h
  | cons b bs ih => exact ih h.update

theorem Kept.clearBlob {key} (h : Kept cs s) : Kept cs (s.clearBlob key) := h.update

theorem Kept.clearO {k} (h : Kept cs s) : Kept cs (s.clearO k) := h.update

theorem Kept.markRwp {key} (h : Kept cs s) : Kept cs (s.markRwp key) := h.update

theorem Kept.edgeNext {p} (h : Kept cs s) : Kept cs (s.edgeNext p).1 := by
  unfold State.edgeNext
  dsimp only
  split
  · exact h.update
  · exact h

theorem Kept.edgePackets {g n} (h : Kept cs s) : Kept cs (s.edgePackets g n) := h.foldl fun _ _ h => h.edgeNext

theorem Kept.msix {fn v} (h : Kept cs s) : Kept cs (s.msix fn v) := .ite h.setFunc h.update

theorem Kept.errStore {r} (h : Kept cs s) : Kept cs (s.errStore r) := h.update

theorem Kept.errPart {r} (h : Kept cs s) : Kept cs (s.errPart r) := .ite h.setO h

theorem Kept.errWatch {r} (h : Kept cs s) : Kept cs (s.errWatch r) := .ite h.update h

theorem Kept.errSignal {r} (h : Kept cs s) : Kept cs (s.errSignal r) := .ite h.msix h

theorem Kept.errRec {r} (h : Kept cs s) : Kept cs (s.errRec r) := h.errStore.errPart.errWatch.errSignal

theorem Kept.report {p st} (h : Kept cs s) : Kept cs (s.report p st) := h.update

theorem Kept.control {p f} (h : Kept cs s) (hf : ∀ s, Kept cs s → Kept cs (f s).1) : Kept cs (s.control p f) :=
  .ite h (.ite h.report (.ite (hf s h).report h.report))

theorem Kept.draw (h : Kept cs s) : Kept cs s.draw.1 := h.update

theorem Kept.setResident {p c} (h : Kept cs s) : Kept cs (s.setResident p c) := h.setPart.setO

theorem Kept.setRunCmd {p f} (h : Kept cs s) : Kept cs (s.setRunCmd p f) := .ite h.setCtx h

theorem Kept.failRun {p st rod} (h : Kept cs s) : Kept cs (s.failRun p st rod) := h.setRunCmd

theorem Kept.failCtx {p c st rod} (h : Kept cs s) : Kept cs (s.failCtx p c st rod) := .ite h h.setCtx

theorem Kept.orphan {p c} (h : Kept cs s) : Kept cs (s.orphan p c) := h.update

theorem Kept.failIssuer {q st} (h : Kept cs s) : Kept cs (s.failIssuer q st) := h.failCtx

theorem Kept.orNsw {p w} (h : Kept cs s) : Kept cs (s.orNsw p w) := h.setRunCmd

theorem Kept.writesLost {rod at_} (h : Kept cs s) : Kept cs (s.writesLost rod at_) :=
  h.foldl fun _ _ h => .ite h.setPairing h

theorem Kept.pendEnable {kind inst} (h : Kept cs s) : Kept cs (s.pendEnable kind inst) := .ite h h.update

theorem Kept.dropPending {kind inst} (h : Kept cs s) : Kept cs (s.dropPending kind inst) := h.update

theorem Kept.firePending {kind inst f} (h : Kept cs s) (hf : ∀ s, Kept cs s → Kept cs (f s).1) :
    Kept cs (s.firePending kind inst f) :=
  .ite (.ite (hf _ h.dropPending) h.dropPending.errRec) h

theorem Kept.phaseTick {p} (h : Kept cs s) : Kept cs (s.phaseTick p) := .ite h h.setNum

theorem Kept.phasePush {p step} (h : Kept cs s) : Kept cs (s.phasePush p step) := .ite h.phaseTick.setNum h.phaseTick

end Sys2Proof.Machine
end

section
/-! The clocks (Machine/Clock.lean). -/

namespace Sys2Proof.Machine

open Sys2Proof

variable {cs : List Instr} {s : State}

theorem Kept.tick (h : Kept cs s) : Kept cs (tick s) := h.update

end Sys2Proof.Machine
end

section
/-! Routes and packets of the mesh (Machine/Route.lean). -/

namespace Sys2Proof.Machine

open Sys2Proof

variable {cs : List Instr} {s : State}

theorem Kept.countLost {e} (h : Kept cs s) : Kept cs (s.countLost e) := by
  unfold State.countLost
  split
  · exact h.setRod
  · exact h

theorem Kept.launch {r len} (h : Kept cs s) : Kept cs (s.launch r len).1 := by
  unfold State.launch
  refine .ite_fst h ?_
  split
  · exact h
  · exact h.countLost

theorem Kept.sendAck {id} (h : Kept cs s) : Kept cs (s.sendAck id) := by
  unfold State.sendAck
  split
  · exact h
  · refine .update ?_
    split
    · exact h
    · exact h.countLost

theorem Kept.cutFlights (h : Kept cs s) : Kept cs s.cutFlights := by
  unfold State.cutFlights
  refine .update (.foldl_fst ?_ fun _ _ h => ?_)
  · refine .foldl_fst h fun _ _ h => ?_
    refine .ite_fst h ?_
    split
    · exact h.countLost
    · exact h.countLost
    · exact h
  · refine .ite_fst h ?_
    split
    · exact h.countLost
    · exact h.countLost
    · exact h

theorem Kept.releaseHeld (h : Kept cs s) : Kept cs s.releaseHeld := by
  unfold State.releaseHeld
  dsimp only
  refine .update (.foldl_fst (h.foldl_fst fun _ _ h => ?_) fun _ _ h => ?_)
  · exact .ite_fst h.launch h
  · exact .ite_fst h.launch h

theorem Kept.outstanding2 {id part src dst addr len w done} (h : Kept cs s) :
    Kept cs (s.outstanding2 id part src dst addr len w done) :=
  .ite h.launch.update.sendAck h.launch.update

theorem Kept.outstanding0 {id part src dst addr len w} (h : Kept cs s) :
    Kept cs (s.outstanding0 id part src dst addr len w) :=
  h.launch.update

theorem Kept.ackDone {id} (h : Kept cs s) : Kept cs (s.ackDone id) := h.update

end Sys2Proof.Machine
end

section
/-! Host commands and completions (Machine/HostOps.lean). -/

namespace Sys2Proof.Machine

open Sys2Proof

variable {cs : List Instr} {s : State}

theorem Kept.hostWrite {a bs} (h : Kept cs s) : Kept cs (s.hostWrite a bs) := h.update

theorem Kept.coalesce {fn cq} (h : Kept cs s) : Kept cs (s.coalesce fn cq) := .ite h (.ite h.setFunc.msix h)

theorem Kept.setBucket {b} (h : Kept cs s) : Kept cs (s.setBucket b) := h.update

theorem Kept.poison {p} (h : Kept cs s) : Kept cs (s.poison p) :=
  h.foldl fun _ _ h => .ite h.setBucket h.setBucket.addO

theorem Kept.endStatus {c status} (h : Kept cs s) : Kept cs (s.endStatus c status) := .ite h h.poison

theorem Kept.complete {c status result nsw} (h : Kept cs s) : Kept cs (s.complete c status result nsw) :=
  .ite h.endStatus h.endStatus.hostWrite.setFunc.coalesce

theorem Kept.completeLive {id status result nsw} (h : Kept cs s) : Kept cs (s.completeLive id status result nsw) := by
  unfold State.completeLive
  split
  · exact h.update.complete
  · exact h

theorem Kept.completeOpt {id status result nsw} (h : Kept cs s) : Kept cs (s.completeOpt id status result nsw) := by
  unfold State.completeOpt
  split
  · exact h.completeLive
  · exact h

theorem Kept.acceptHead {fn q} (h : Kept cs s) : Kept cs (s.acceptHead fn q) := h.setFunc

theorem Kept.flushHead {fn q n} (h : Kept cs s) : Kept cs (State.flushHead fn q n s) := by
  induction n generalizing s with
  | zero => exact h
  | succ n ih =>
    unfold State.flushHead
    split
    · exact .ite (ih h.acceptHead.complete) (.ite (ih h.acceptHead.complete) h)
    · exact h

theorem Kept.flushQueue {fn q} (h : Kept cs s) : Kept cs (s.flushQueue fn q) := h.flushHead

theorem Kept.immediate {fn q op f} (h : Kept cs s) (hf : ∀ {s c k t}, Kept cs s → f s c k = .ok t → Kept cs t) :
    Kept cs (s.immediate fn q op f) := by
  unfold State.immediate
  split
  · refine .ite h.flushQueue (.ite h (.ite h.acceptHead.complete.flushQueue ?_))
    split
    · exact h.acceptHead.complete.flushQueue
    · exact (hf h.acceptHead ‹_›).flushQueue
  · exact h

theorem Kept.keepLive {c data} (h : Kept cs s) : Kept cs (s.keepLive c data) := h.update

end Sys2Proof.Machine
end

section
/-! The decks' contents and keys, and the stage queues (Machine/DeckOps.lean). -/

namespace Sys2Proof.Machine

open Sys2Proof

variable {cs : List Instr} {s : State}

theorem wf_udWrite {d : Decks} {a : Nat} {bs : List Byte} (h : Memory.wf d.ud = true) :
    Memory.wf (d.udWrite a bs).1.ud = true :=
  wf_mwrite (List.foldlRecOn (motive := fun m => Memory.wf m = true) _ _ h fun _ hm _ _ => wf_tclear hm _ _) a bs

theorem wf_zeroSlice {d : Decks} {rod : Nat} (h : Memory.wf d.ud = true) : Memory.wf (d.zeroSlice rod).ud = true :=
  wf_tclear h _ _

theorem wf_ldPut {d : Decks} {a : Nat} {b : Byte} (h : Memory.wf d.ud = true) : Memory.wf (d.ldPut a b).ud = true := h

theorem Kept.ldWrite {p a bs} (h : Kept cs s) : Kept cs (s.ldWrite p a bs) := by
  induction bs generalizing s a with
  | nil => exact h
  | cons b bs ih =>
    unfold State.ldWrite
    split
    · exact ih h.updateDecks
    · exact ih h

theorem wf_ldFind {d : Decks} {l : List (Nat × LdEcc)} (h : Memory.wf d.ud = true) :
    Memory.wf (d.ldFind l).ud = true := by
  refine List.foldlRecOn (motive := fun (d : Decks) => Memory.wf d.ud = true) _ _ h fun d hd x _ => ?_
  split
  · exact hd
  · exact hd
  · split <;> exact hd

theorem wf_newKey {d : Decks} {owner : Nat} (h : Memory.wf d.ud = true) : Memory.wf (d.newKey owner).ud = true := h

theorem wf_zeroExtent {d : Decks} {e owner : Nat} (h : Memory.wf d.ud = true) :
    Memory.wf (d.zeroExtent e owner).ud = true :=
  h

theorem wf_freeExtents {d : Decks} {owner : Nat} (h : Memory.wf d.ud = true) :
    Memory.wf (d.freeExtents owner).ud = true :=
  h

theorem allocExtents_succ (d : Decks) (owner n : Nat) : d.allocExtents owner (n + 1) =
    d.freeExtent.bind (fun e => Decks.allocExtents { d with owner := tset 0xFF d.owner e 0xFE
                                                            filling := d.filling ++ [(e, owner)] } owner n) := by
  delta Decks.allocExtents Decks.allocExtents._f
  generalize Decks.freeExtent = freeExtent
  unfold Nat.brecOn Nat.brecOn.go
  dsimp only
  cases freeExtent d <;> rfl

theorem wf_allocExtents {d e : Decks} {owner n : Nat} (h : Memory.wf d.ud = true)
    (he : d.allocExtents owner n = some e) :
    Memory.wf e.ud = true := by
  induction n generalizing d with
  | zero => exact Option.some.inj he ▸ h
  | succ n ih =>
    rw [allocExtents_succ] at he
    obtain ⟨k, -, he⟩ := Option.bind_eq_some_iff.1 he
    exact ih (by exact h) he

theorem Kept.stageUnit {p d row off} (h : Kept cs s) : Kept cs (s.stageUnit p d row off).1 := by
  unfold State.stageUnit
  dsimp only
  split
  · exact .ite_fst (.ite_fst h (.ite_fst h.errRec (h.setDecks wf_udWrite))) (.ite_fst h.errRec h.ldWrite)
  · exact h
  · exact h

theorem Kept.stageMove {p d n i} {x : State × Nat × Nat} (h : Kept cs x.1) :
    Kept cs (State.stageMove p d n i x).1 := by
  induction n generalizing i x with
  | zero => exact h
  | succ n ih => exact .ite_fst (ih h.stageUnit) h.stageUnit

theorem Kept.setStager {g x} (h : Kept cs s) : Kept cs (s.setStager g x) := h.updateDecks

theorem Kept.queueUnits {p e} (h : Kept cs s) : Kept cs (s.queueUnits p e) := by
  unfold State.queueUnits
  refine .foldl h fun _ _ h => ?_
  dsimp only
  split
  · exact h.setStager
  · exact h

theorem Kept.failStage {p id st} (h : Kept cs s) : Kept cs (s.failStage p id st) := h.setPart.updateDecks

theorem Kept.sendUnit {g u d ua} (h : Kept cs s) : Kept cs (s.sendUnit g u d ua) := h.edgeNext.update.launch.update

theorem Kept.pumpStager {g n} (h : Kept cs s) : Kept cs (State.pumpStager g n s) := by
  induction n generalizing s with
  | zero => exact h
  | succ n ih =>
    unfold State.pumpStager
    refine .ite h ?_
    split
    · exact h
    · dsimp only
      split
      · exact ih h.setStager
      · split
        · exact ih h.setStager.failStage
        · exact h.setStager.sendUnit

theorem Kept.pumpStages (h : Kept cs s) : Kept cs s.pumpStages := h.foldl fun _ _ h => h.pumpStager

theorem Kept.cutStages {p} (h : Kept cs s) : Kept cs (s.cutStages p) := (h.foldl fun _ _ h => h.failStage).pumpStages

theorem Kept.queueStage {p desc cmd ctx} (h : Kept cs s) : Kept cs (s.queueStage p desc cmd ctx) := h.setPart.update

theorem Kept.admitStages {p n} (h : Kept cs s) : Kept cs (State.admitStages p n s) := by
  induction n generalizing s with
  | zero => exact h
  | succ n ih =>
    unfold State.admitStages
    dsimp only
    split
    · exact h
    · exact .ite h (ih h.setRod.queueStage)

theorem Kept.wakeFence {p f} (h : Kept cs s) : Kept cs (s.wakeFence p f) := by
  unfold State.wakeFence
  refine .foldl (h.foldl fun _ _ h => .ite h h.setCtx) fun _ _ h => ?_
  dsimp only
  split
  · exact .ite h.setRod h
  · exact h

theorem Kept.settleFences {p n} (h : Kept cs s) : Kept cs (State.settleFences p n s) := by
  induction n generalizing s with
  | zero => exact h
  | succ n ih =>
    unfold State.settleFences
    dsimp only
    split
    · exact h
    · exact ih h.setPart.wakeFence

theorem Kept.endStage {p id st} (h : Kept cs s) : Kept cs (s.endStage p id st) :=
  h.setPart.completeOpt.settleFences.admitStages

theorem Kept.abandonStages {p st} (h : Kept cs s) : Kept cs (s.abandonStages p st) :=
  (h.foldl fun _ _ h => h.completeOpt).updateDecks.setPart.pumpStages

end Sys2Proof.Machine
end

section
/-! Read-outs and deck moves cut short (Machine/ReadOps.lean). -/

namespace Sys2Proof.Machine

open Sys2Proof

variable {cs : List Instr} {s : State}

theorem Kept.udPut {p a bs} (h : Kept cs s) : Kept cs (s.udPut p a bs).1 := by
  unfold State.udPut
  split
  · exact .ite_fst h (.ite_fst (.errRec (h.setDecks wf_udWrite)) (h.setDecks wf_udWrite))
  · exact h

theorem Kept.tallyWrite {p rod a n dst done} (h : Kept cs s) : Kept cs (s.tallyWrite p rod a n dst done) := by
  unfold State.tallyWrite
  refine .foldl h fun _ _ h => ?_
  refine .foldl h fun _ _ h => ?_
  dsimp only
  split
  · exact h.update.outstanding2
  · exact h

theorem Kept.farRequest {p rod seq a n dst} (h : Kept cs s) : Kept cs (s.farRequest p rod seq a n dst) :=
  h.update.outstanding0

theorem Kept.rowOut {p rod seq a bs} (h : Kept cs s) : Kept cs (s.rowOut p rod seq a bs).1 :=
  .ite_fst (.ite_fst h.udPut h) (.ite_fst (.farRequest (.ite_fst h.udPut h)) (.tallyWrite (.ite_fst h.udPut h)))

theorem Kept.roRows {p rod e n m} {x : State × ConvAcc × Nat} (h : Kept cs x.1) :
    Kept cs (State.roRows p rod e n m x).1 := by
  induction n generalizing m x with
  | zero => exact h
  | succ n ih => exact .ite_fst (ih h.setRod) (ih (.ite_fst h.rowOut h.rowOut.rowOut))

theorem Kept.movePart {p rod d k} (h : Kept cs s) : Kept cs (s.movePart p rod d k) := by
  unfold State.movePart
  split
  · exact h
  · exact .ite h.setRod h.udPut

theorem Kept.cutMove {rod e} (h : Kept cs s) : Kept cs (s.cutMove rod e) := .ite h h.update.movePart

theorem Kept.cutRod {rod} (h : Kept cs s) : Kept cs (s.cutRod rod) :=
  (h.foldl fun _ _ h => .ite (.roRows h.update) h).foldl fun _ _ h => h.cutMove

theorem Kept.failRequest {q st} (h : Kept cs s) : Kept cs (s.failRequest q st) := by
  unfold State.failRequest
  refine .failIssuer ?_
  split
  · dsimp only
    split
    · exact h.writesLost.cutMove.setRod
    · exact h.writesLost
  · exact h

end Sys2Proof.Machine
end

section
/-! Fences and delivery over the mesh (Machine/MeshOps.lean). -/

namespace Sys2Proof.Machine

open Sys2Proof

variable {cs : List Instr} {s : State}

theorem Kept.raiseMap {rod level} (h : Kept cs s) : Kept cs (s.raiseMap rod level) := .ite h h.setBlob.markRwp

theorem Kept.startFence {rod level} (h : Kept cs s) : Kept cs (s.startFence rod level) := by
  unfold State.startFence
  refine .ite h ?_
  extract_lets +onlyGivenNames s1 s2 s3 src s4 s5
  have h1 : Kept cs s1 := .ite h.failRun h
  have h5 : Kept cs s5 := (Kept.ite h1.phaseTick h1).cutRod.writesLost.setRod.raiseMap
  exact .ite h5.cutFlights.update h5

theorem Kept.autoFence {rod level} (h : Kept cs s) : Kept cs (s.autoFence rod level) := .ite h h.errRec.startFence

theorem Kept.opcError {rod addr} (h : Kept cs s) : Kept cs (s.opcError rod addr) :=
  .ite h.setRod.errRec.autoFence h.setRod.errRec

end Sys2Proof.Machine
end

section
/-! What the engines of a rod share (Machine/RodOps.lean). -/

namespace Sys2Proof.Machine

open Sys2Proof

variable {cs : List Instr} {s : State}

theorem Kept.failRod {rod st} (h : Kept cs s) : Kept cs (s.failRod rod st) := h.setRod.failRun

theorem Kept.supply {p n} (h : Kept cs s) : Kept cs (s.supply p n).1 := by
  unfold State.supply
  split
  · exact h.setRunCmd
  · exact h

theorem Kept.record {p n a} (h : Kept cs s) : Kept cs (s.record p n a) := h.setRunCmd

theorem Kept.putCycle {p e} (h : Kept cs s) : Kept cs (s.putCycle p e) := h.setSlot.setPart

theorem Kept.recordSlot {p n sub a} (h : Kept cs s) : Kept cs (s.recordSlot p n sub a) := h.putCycle

theorem Kept.recordTensor {t} (h : Kept cs s) : Kept cs (s.recordTensor t) := h.putCycle

theorem Kept.writeSlot {p n v} (h : Kept cs s) : Kept cs (s.writeSlot p n v) := h.putCycle

theorem Kept.recordSlots {p r} (h : Kept cs s) : Kept cs (s.recordSlots p r) := h.foldl fun _ _ h => h.recordSlot

theorem Kept.charge {p c k n} (h : Kept cs s) : Kept cs (s.charge p c k n) := .ite h.setCtx h

theorem Kept.startMove {rod} (h : Kept cs s) : Kept cs (s.startMove rod) := by
  unfold State.startMove
  dsimp only
  split
  · exact h
  · exact .ite h (.ite h.setRod ((h.setRod.foldl fun _ _ h => h.farRequest).foldl fun _ _ h => h.tallyWrite))

theorem Kept.settleRod {rod} (h : Kept cs s) : Kept cs (s.settleRod rod) := h.setRod.startMove

end Sys2Proof.Machine
end

section
/-! The matrix array (Machine/Matrix.lean). -/

namespace Sys2Proof.Machine

open Sys2Proof

variable {cs : List Instr} {s : State}

theorem Kept.matIssue {rod desc draw} (h : Kept cs s) : Kept cs (s.matIssue rod desc draw) :=
  .ite h.settleRod (.ite h.settleRod.failRod (.settleRod (.setRod (.ite_fst h.settleRod.supply h.settleRod))))

theorem execMatmul_kept {rod desc draw} (h : Kept cs s) : KeptOut cs (execMatmul rod desc draw s) :=
  .ite (.next h.matIssue) (.next h)

theorem execReadout_kept {rod desc draw} (h : Kept cs s) : KeptOut cs (execReadout rod desc draw s) :=
  .ite (.next h.matIssue) (.next h)

theorem execClear_kept {rod desc} (h : Kept cs s) : KeptOut cs (execClear rod desc s) :=
  .ite (.next h) (.next h.matIssue)

theorem Kept.engineCorrected {rod} (h : Kept cs s) : Kept cs (s.engineCorrected rod) := h.setRod

theorem execMatmulStreamStart_kept {rod ecc} (h : Kept cs s) : KeptOut cs (execMatmulStreamStart rod ecc s) := by
  unfold execMatmulStreamStart
  dsimp only
  split
  · exact .next h.settleRod
  · exact .ite (.next h.settleRod.setRod.failRod.opcError)
      (.next (.charge (.setRod (.ite h.settleRod.engineCorrected h.settleRod))))

theorem Kept.accError {rod e} (h : Kept cs s) : Kept cs (s.accError rod e) := h.setRod.failRod.errRec.settleRod

theorem execBankComplete_kept {rod ecc} (h : Kept cs s) : KeptOut cs (execBankComplete rod ecc s) := by
  unfold execBankComplete
  have h0 : Kept cs (s.settleRod rod) := h.settleRod
  dsimp only
  split
  · exact .next h0
  refine .ite (.next h0.accError) (.ite (.next h0) ?_)
  have h1 := Kept.ite (c := ecc = .corrected) (h0.engineCorrected (rod := rod)) h0
  exact .ite (.next h1.setRod.settleRod) (.next h1.orNsw.setRod.settleRod)

theorem Kept.readOut {rod e} (h : Kept cs s) : Kept cs (s.readOut rod e) := by
  have hr {n m acc st} : Kept cs (State.roRows (s.owner rod) rod e n m (s, acc, st)).1 := .roRows h
  exact .ite h.update.orNsw (.ite hr.orNsw.failRod (.ite hr.orNsw.record hr.orNsw))

theorem execReadoutEnd_kept {fin} (h : Kept cs s) : KeptOut cs (execReadoutEnd fin s) := by
  unfold execReadoutEnd
  dsimp only
  split
  · exact .next h.settleRod
  · exact .ite (.next h.settleRod.accError) (.ite (.next h.settleRod)
        (.next (.settleRod (.setRod (.readOut (.ite h.settleRod.engineCorrected h.settleRod))))))

end Sys2Proof.Machine
end

section
/-! The optical ports' links, routes and sending (Machine/OptOps.lean). -/

namespace Sys2Proof.Machine

open Sys2Proof

variable {cs : List Instr} {s : State}

theorem Kept.emitLink {m} (h : Kept cs s) : Kept cs (s.emitLink m) := h.update

theorem Kept.setRoutes {rs gone} (h : Kept cs s) : Kept cs (s.setRoutes rs gone) := h.update.setO

theorem Kept.addVia {node v} (h : Kept cs s) : Kept cs (s.addVia node v) :=
  .ite h.setRoutes (.ite (.ite h.update.errRec h) h.setRoutes)

theorem Kept.dropVias {f} (h : Kept cs s) : Kept cs (s.dropVias f) := h.setRoutes

theorem Kept.ownRoute {l} (h : Kept cs s) : Kept cs (s.ownRoute l) := h.addVia

theorem Kept.payCredits {l} (h : Kept cs s) : Kept cs (s.payCredits l).1 := .ite_fst h h.setLink

theorem Kept.emitFlit {l f} (h : Kept cs s) : Kept cs (s.emitFlit l f) := h.payCredits.setLink.emitLink

theorem Kept.emitBare {l kind} (h : Kept cs s) : Kept cs (s.emitBare l kind) := h.emitFlit

theorem Kept.returnLoop {l n} (h : Kept cs s) : Kept cs (State.returnLoop l n s) := by
  induction n generalizing s with
  | zero => exact h
  | succ n ih => exact .ite h (ih h.emitBare)

theorem Kept.returnCredits {l} (h : Kept cs s) : Kept cs (s.returnCredits l) := .ite h.returnLoop h

theorem Kept.oweCredits {l h' n} (h : Kept cs s) : Kept cs (s.oweCredits l h' n) := h.setLink.returnCredits

theorem Kept.admitTransit {k n} (h : Kept cs s) : Kept cs (State.admitTransit k n s) := by
  induction n generalizing s with
  | zero => exact h
  | succ n ih =>
    unfold State.admitTransit
    dsimp only
    split
    · exact h
    · exact .ite h (ih h.oweCredits.update)

theorem Kept.popTransit {k} (h : Kept cs s) : Kept cs (s.popTransit k) := h.update.admitTransit

theorem Kept.leftTransit {via} (h : Kept cs s) : Kept cs (s.leftTransit via) := .ite h h.popTransit

theorem Kept.pumpClass {l c n} (h : Kept cs s) : Kept cs (State.pumpClass l c n s) := by
  induction n generalizing s with
  | zero => exact h
  | succ n ih =>
    unfold State.pumpClass
    dsimp only
    split
    · exact h
    · exact .ite h (ih (.ite h.setLink.emitFlit.leftTransit h.setLink.emitFlit))

theorem Kept.noteStall {l} (h : Kept cs s) : Kept cs (s.noteStall l) := h.setLink

theorem Kept.pump {l} (h : Kept cs s) : Kept cs (s.pump l) := (h.foldl fun _ _ h => h.pumpClass).noteStall

theorem Kept.transmit {l h' m} (h : Kept cs s) : Kept cs (s.transmit l h' m) := h.setLink.pump

theorem Kept.sendControl {l kind data} (h : Kept cs s) : Kept cs (s.sendControl l kind data) := h.transmit

theorem Kept.sendOn {h' m} (h : Kept cs s) : Kept cs (s.sendOn h' m).1 := by
  unfold State.sendOn
  split
  · exact h.leftTransit
  · exact h.update.transmit

theorem Kept.route1 {h' m} (h : Kept cs s) : Kept cs (s.route1 h' m).1 := by
  unfold State.route1
  refine .ite_fst h.update ?_
  split
  · exact h.sendOn
  · exact .ite_fst h.update h.sendOn

theorem Kept.releaseFlow {f} (h : Kept cs s) : Kept cs (s.releaseFlow f) := h.update.foldl fun _ _ h => h.sendOn

theorem Kept.releaseFlows {l} (h : Kept cs s) : Kept cs (s.releaseFlows l) := h.foldl fun _ _ h => h.releaseFlow

theorem Kept.opSend {dst part kind flow data} (h : Kept cs s) : Kept cs (s.opSend dst part kind flow data) :=
  h.foldl fun _ _ h => h.route1

theorem Kept.settleDoubling {node} (h : Kept cs s) : Kept cs (s.settleDoubling node) := by
  unfold State.settleDoubling
  split
  · exact h
  · exact .ite h.update h

theorem Kept.leaveActive {l} (h : Kept cs s) : Kept cs (s.leaveActive l) := .ite h h.settleDoubling.update

theorem Kept.linkDown {l} (h : Kept cs s) : Kept cs (s.linkDown l) :=
  .ite h.setLink (.releaseFlows (.foldl
        (.foldl (.dropVias (.setLink (.ite h.leaveActive h))) fun _ _ h => h.leftTransit) fun _ _ h => h.route1))

theorem Kept.linkTo {l st} (h : Kept cs s) : Kept cs (s.linkTo l st) := by
  unfold State.linkTo
  extract_lets up s1 s2 src s3
  have h3 : Kept cs s3 := (Kept.ite h h.linkDown.setO).setO.setLink
  exact .ite h3.setO (.ite h3 h3.setO.setO)

theorem Kept.grantTurn (h : Kept cs s) : Kept cs s.grantTurn := by
  unfold State.grantTurn
  refine .ite h ?_
  dsimp only
  split
  · exact h
  · exact .ite h.setLink.update.sendControl h.setLink.update

theorem Kept.endTurn {l} (h : Kept cs s) : Kept cs (s.endTurn l) := h.setLink

theorem Kept.train {l} (h : Kept cs s) : Kept cs (s.train l) := h.endTurn.linkTo.grantTurn

theorem Kept.toLight {l hold} (h : Kept cs s) : Kept cs (s.toLight l hold) :=
  .ite h.endTurn.linkTo.setLink.train h.endTurn.linkTo.setLink.grantTurn

theorem Kept.trainFail {l} (h : Kept cs s) : Kept cs (s.trainFail l) := h.setLink.toLight

theorem Kept.toAbsent {l} (h : Kept cs s) : Kept cs (s.toAbsent l) := h.endTurn.linkTo.setLink.grantTurn

theorem Kept.quarantine {l cause node} (h : Kept cs s) : Kept cs (s.quarantine l cause node) :=
  .grantTurn
    (.errRec (.setO (.ite h.settleDoubling.endTurn.linkTo.setLink h.settleDoubling.endTurn.linkTo.setLink.update)))

theorem Kept.quarantineProven {l cause node} (h : Kept cs s) : Kept cs (s.quarantineProven l cause node) :=
  h.quarantine.setO

theorem Kept.degrade {l cause} (h : Kept cs s) : Kept cs (s.degrade l cause) :=
  .ite h h.leaveActive.linkTo.setLink.setO.errRec.setRoutes

theorem Kept.noteEvent {l c} (h : Kept cs s) : Kept cs (s.noteEvent l c) := h.setLink

theorem Kept.countEvents {l cs'} (h : Kept cs s) : Kept cs (s.countEvents l cs') := by
  unfold State.countEvents
  refine .ite (h.foldl fun _ _ h => h.noteEvent) ?_
  dsimp only
  split
  · exact (h.foldl fun _ _ h => h.noteEvent).setLink.quarantine
  · exact .ite ((h.foldl fun _ _ h => h.noteEvent).setLink.train) ((h.foldl fun _ _ h => h.noteEvent).setLink.degrade)

theorem Kept.countEvent {l c} (h : Kept cs s) : Kept cs (s.countEvent l c) := h.countEvents

theorem Kept.retestPeers (h : Kept cs s) : Kept cs s.retestPeers :=
  .ite h (h.update.foldl fun _ _ h => .ite h.noteEvent.quarantineProven h)

theorem Kept.activate {l} (h : Kept cs s) : Kept cs (s.activate l) := by
  unfold State.activate
  extract_lets x s1 s2 s3 src s4 s5
  have h3 : Kept cs s3 := h.setLink.endTurn.linkTo.setO.setO
  have h5 : Kept cs s5 := (Kept.ite h3.update h3).ownRoute
  exact (Kept.ite h5 h5.degrade).grantTurn

theorem Kept.takeAck {l ack} (h : Kept cs s) : Kept cs (s.takeAck l ack) := .ite h h.setLink.pump.releaseFlows

theorem Kept.takeCredits {l crData crCtrl} (h : Kept cs s) : Kept cs (s.takeCredits l crData crCtrl) :=
  .ite h h.setLink.pump

theorem Kept.askRetry {l cs'} (h : Kept cs s) : Kept cs (s.askRetry l cs') :=
  .ite h.countEvents h.setLink.emitBare.countEvents

theorem Kept.violation {l} (h : Kept cs s) : Kept cs (s.violation l) := h.countEvents

end Sys2Proof.Machine
end

section
/-! The numerics state of a run (Machine/NumOps.lean). -/

namespace Sys2Proof.Machine

open Sys2Proof

variable {cs : List Instr} {s : State}

theorem Kept.endWaits {p c pred st} (h : Kept cs s) : Kept cs (s.endWaits p c pred st) := by
  unfold State.endWaits
  refine .ite (h.foldl fun _ _ h => .ite h.setRod.failCtx h) ?_
  dsimp only
  split
  · exact h.setCtx.failCtx
  · exact h

theorem Kept.endAllWaits {p pred st} (h : Kept cs s) : Kept cs (s.endAllWaits p pred st) :=
  h.foldl fun _ _ h => h.endWaits

theorem Kept.phaseEnd {p step skipped scale} (h : Kept cs s) : Kept cs (s.phaseEnd p step skipped scale) :=
  h.phaseTick.setNum.setNum.setO

theorem Kept.numVerdict {p nonfinite} (h : Kept cs s) : Kept cs (s.numVerdict p nonfinite) := by
  unfold State.numVerdict
  refine .ite h ?_
  extract_lets s1 x step n full x' s2 s3 s4
  have h3 : Kept cs s3 := h.phaseTick.setNum.setO.setO.setO
  have h4 : Kept cs s4 := .ite h3.addO h3
  exact .ite h4.errRec h4

theorem Kept.beginRun {p} (h : Kept cs s) : Kept cs (s.beginRun p) := h.update.setNum.setO

theorem Kept.idleRun {p} (h : Kept cs s) : Kept cs (s.idleRun p) := h.setO.endAllWaits

end Sys2Proof.Machine
end

section
/-! Tally records (Machine/Records.lean). -/

namespace Sys2Proof.Machine

open Sys2Proof

variable {cs : List Instr} {s : State}

theorem Kept.moveReleased {k n} (h : Kept cs s) : Kept cs (State.moveReleased k n s) := by
  induction n generalizing s with
  | zero => exact h
  | succ n ih =>
    unfold State.moveReleased
    dsimp only
    split
    · exact .ite (ih h.setO) h
    · exact h

theorem Kept.settleSeqs {n} (h : Kept cs s) : Kept cs (s.settleSeqs n) := h.moveReleased

theorem Kept.putHeader {n seq x} (h : Kept cs s) : Kept cs (s.putHeader n seq x) := by
  conv in State.putHeader => delta State.putHeader
  split
  · exact h.setDecks wf_udWrite
  · exact h

theorem Kept.countPublished {n seq} (h : Kept cs s) : Kept cs (s.countPublished n seq) := .ite h h.setO

theorem Kept.publishVoid {n seq} (h : Kept cs s) : Kept cs (s.publishVoid n seq) := by
  unfold State.publishVoid
  dsimp only
  split
  · exact h
  · exact .ite h h.draw.draw.setPairing.putHeader.countPublished.addO.settleSeqs

theorem Kept.endHold {n i seq} (h : Kept cs s) : Kept cs (s.endHold n i seq) := by
  unfold State.endHold
  dsimp only
  split
  · exact h
  · exact h.setPairing.settleSeqs

theorem Kept.settleTally {p c} (h : Kept cs s) : Kept cs (s.settleTally p c) := by
  unfold State.settleTally
  split
  · exact h
  · next n _ =>
    have hv : Kept cs (c.reserved.foldl (fun s q =>
        match (s.pairing n).rec? q with
        | some r => if r.phase < 2 then s.publishVoid n q else s
        | none => s) s) := by
      refine h.foldl fun _ _ h => ?_
      split
      · exact .ite h.publishVoid h
      · exact h
    dsimp only
    split
    · exact hv
    · exact hv.foldl fun _ _ h => h.endHold.addO

theorem Kept.addGrants {n i p} (h : Kept cs s) : Kept cs (s.addGrants n i p) := by
  unfold State.addGrants
  refine .foldl h fun _ _ h => ?_
  dsimp only
  split
  · exact h
  · exact h.setPart.setPairing

theorem Kept.dropGrants {n i p} (h : Kept cs s) : Kept cs (s.dropGrants n i p) := h.setPart.cutStages.setPairing

theorem Kept.waitMark {n i p} (h : Kept cs s) : Kept cs (s.waitMark n i p) :=
  .ite (.ite h.setPairing h) (.ite h h.setPairing)

theorem Kept.waitMarks {p} (h : Kept cs s) : Kept cs (s.waitMarks p) := by
  unfold State.waitMarks
  split
  · exact h.waitMark
  · exact h

theorem Kept.forgetHolds {p} (h : Kept cs s) : Kept cs (s.forgetHolds p) := h.setCtx

theorem Kept.endTallyWaits {n p st} (h : Kept cs s) : Kept cs (s.endTallyWaits n p st) := h.endAllWaits.waitMarks

theorem Kept.holdPart {p h'} (h : Kept cs s) : Kept cs (s.holdPart p h') := h.setPart

theorem Kept.abandonMove {n note} (h : Kept cs s) : Kept cs (s.abandonMove n note) := by
  unfold State.abandonMove
  dsimp only
  split
  · exact h
  · exact .ite (.errRec (.holdPart (.holdPart (.ite h.setPairing.setO h.setPairing))))
      (.holdPart (.holdPart (.ite h.setPairing.setO h.setPairing)))

theorem Kept.detachStudent {n p} (h : Kept cs s) : Kept cs (s.detachStudent n p) := by
  unfold State.detachStudent
  split
  · exact h
  · extract_lets s1
    have h1 : Kept cs s1 := by
      unfold s1
      split
      · exact .ite h.abandonMove h
      · exact h
    clear_value s1
    exact .ite h1.dropGrants.setPairing.forgetHolds.endAllWaits.settleSeqs.setO.endTallyWaits
      h1.dropGrants.setPairing.forgetHolds.endAllWaits.settleSeqs

theorem Kept.breakPairing {n} (h : Kept cs s) : Kept cs (s.breakPairing n) :=
  .settleSeqs
    (.setPairing (.foldl (.setO (.ite h.abandonMove h)) fun _ _ h => h.dropGrants.endTallyWaits.forgetHolds))

theorem Kept.memberLost {p} (h : Kept cs s) : Kept cs (s.memberLost p) := by
  unfold State.memberLost
  extract_lets s1
  have h1 : Kept cs s1 := h.foldl fun _ _ h => .ite h.setPairing h
  split
  · exact h1
  · exact .ite h1 (.ite h1.setPairing (.ite h1.breakPairing h1.detachStudent))

theorem Kept.closeNow {n} (h : Kept cs s) : Kept cs (s.closeNow n) :=
  .foldl (.foldl (.foldl (.foldl (.setO (.setPairing (.ite h.abandonMove h))) fun _ _ h => h.endTallyWaits)
        fun _ _ h => .ite h.publishVoid h) fun _ _ h => h.foldl fun _ _ h => h.endHold.addO) fun _ _ h =>
    h.dropGrants.forgetHolds

theorem Kept.countWaits {k} (h : Kept cs s) : Kept cs (s.countWaits k) :=
  (h.foldl fun _ _ h => .ite h.setRod h).foldl fun _ _ h => .ite h h.setCtx

end Sys2Proof.Machine
end

section
/-! What the reckoners work with (Machine/RkOps.lean). -/

namespace Sys2Proof.Machine

open Sys2Proof

variable {cs : List Instr} {s : State}

theorem Kept.setRkGroup {p k e} (h : Kept cs s) : Kept cs (s.setRkGroup p k e) := h.update

theorem Kept.schedule {p run step k} (h : Kept cs s) : Kept cs (s.schedule p run step k) := .ite h h.update

theorem Kept.applyHeldGroups {p} (h : Kept cs s) : Kept cs (s.applyHeldGroups p) :=
  h.update.foldl fun _ _ h => h.setRkGroup

theorem Kept.setFactorBlock {p fb f} (h : Kept cs s) : Kept cs (s.setFactorBlock p fb f) := by
  unfold State.setFactorBlock
  split
  · exact h.setDecks wf_udWrite
  · exact h

theorem Kept.installRoots {p run step} (h : Kept cs s) : Kept cs (s.installRoots p run step) :=
  h.update.foldl fun _ _ h => h.update.setFactorBlock

theorem Kept.rootFailed {j c} (h : Kept cs s) : Kept cs (s.rootFailed j c) := h.setFactorBlock.addO.errRec

theorem Kept.queueRoot {d j} (h : Kept cs s) : Kept cs (s.queueRoot d j) := .ite h.rootFailed h.update.setFactorBlock

end Sys2Proof.Machine
end

section
/-! Checkpoint mirrors (Machine/MirrorOps.lean). -/

namespace Sys2Proof.Machine

open Sys2Proof

variable {cs : List Instr} {s : State}

theorem Kept.setMirror {p m} (h : Kept cs s) : Kept cs (s.setMirror p m) := h.update

theorem Kept.setAllot {k a} (h : Kept cs s) : Kept cs (s.setAllot k a) := h.update

theorem Kept.restoreHeader {p h'} (h : Kept cs s) : Kept cs (s.restoreHeader p h') :=
  ((h.foldl fun _ _ h => h.setSlot).foldl fun _ _ h => h.setRkGroup).setO.setO.setO.setO

theorem Kept.regionRecs {p r} (h : Kept cs s) : Kept cs (s.regionRecs p r) := by
  unfold State.regionRecs
  refine .foldl h fun _ _ h => ?_
  dsimp only
  split
  · exact .ite h.errRec h
  · exact h

theorem Kept.regionWrite {p m r} (h : Kept cs s) : Kept cs (s.regionWrite p m r) := by
  unfold State.regionWrite
  refine .foldl h fun _ _ h => ?_
  split
  · exact h.setDecks wf_udWrite
  · exact h

theorem Kept.mirrorStart {p step} (h : Kept cs s) : Kept cs (s.mirrorStart p step) := .ite h.setMirror.setO h

theorem Kept.genWrite {k gen o bs} (h : Kept cs s) : Kept cs (s.genWrite k gen o bs) :=
  h.setDecks fun hd => List.foldlRecOn (motive := fun (d : Decks) => Memory.wf d.ud = true) _ _ hd fun _ hd _ _ => hd

theorem Kept.genRead {k gen o n} (h : Kept cs s) : Kept cs (s.genRead k gen o n).1 := h.foldl fun _ _ h => h.errRec

theorem Kept.latestMirror {k x} (h : Kept cs s) (hx : s.latestMirror k = some x) : Kept cs x.1 := by
  obtain ⟨_, _, rfl⟩ := Option.map_eq_some_iff.1 hx
  exact h.genRead

theorem Kept.drainBuffer {d} (h : Kept cs s) : Kept cs (s.drainBuffer d) := by
  unfold State.drainBuffer
  extract_lets s1
  have h1 : Kept cs s1 := h.foldl fun _ _ h => h.genWrite
  exact h1.update

theorem Kept.bufferPut {d x} (h : Kept cs s) : Kept cs (s.bufferPut d x) := .update (.ite h.drainBuffer h)

theorem Kept.copyPiece {d k flow data} (h : Kept cs s) : Kept cs (s.copyPiece d k flow data) :=
  .ite (.bufferPut (.setAllot (.ite h.setAllot h))) (.setAllot (.ite h.setAllot h))

end Sys2Proof.Machine
end

section
/-! The reckoner commands (Machine/Reckoner.lean). -/

namespace Sys2Proof.Machine

open Sys2Proof

variable {cs : List Instr} {s : State}

theorem Kept.pushPass {p d cmd t} (h : Kept cs s) (ht : s.pushPass p d cmd = .ok t) : Kept cs t := by
  unfold State.pushPass at ht
  split at ht
  · cases ht
  · dsimp only at ht
    split at ht
    · cases ht; exact .ite h.update.schedule h.update
    · cases ht; exact h.update

theorem Kept.rodUpdate {rod desc} (h : Kept cs s) : Kept cs (s.rodUpdate rod desc) := by
  unfold State.rodUpdate
  dsimp only
  split
  · exact (h.pushPass ‹_›)
  · exact h.errRec.failRod

theorem execUpdatePush_kept {rod desc} (h : Kept cs s) : KeptOut cs (execUpdatePush rod desc s) :=
  .ite (.next h) (.ite (.next h.rodUpdate) (.next h.setRod))

theorem Kept.admitPasses {p n} (h : Kept cs s) : Kept cs (State.admitPasses p n s) := by
  induction n generalizing s with
  | zero => exact h
  | succ n ih =>
    unfold State.admitPasses
    dsimp only
    split
    · exact h
    · exact .ite h (ih h.setRod.rodUpdate)

theorem Kept.writeRatios {p run step} (h : Kept cs s) : Kept cs (s.writeRatios p run step) :=
  .ite h.setNum.setO h.setNum.setO.errRec

theorem Kept.forgetStep {p run step} (h : Kept cs s) : Kept cs (s.forgetStep p run step) := h.update.setNum

theorem Kept.updateEnd {p run step} (h : Kept cs s) : Kept cs (s.updateEnd p run step) := by
  unfold State.updateEnd
  extract_lets +onlyGivenNames r mine gone
  split
  · refine .ite h ?_
    extract_lets scheds acc now s1 sr s2 s3 src s4 st s5 s6 s7
    have h1 : Kept cs s1 := .ite h.update h
    have h2 : Kept cs s2 := .ite (h1.foldl fun _ _ h => h.setRkGroup).installRoots.writeRatios h1
    have h5 : Kept cs s5 := h2.forgetStep.update.setO
    have h6 : Kept cs s6 := .ite h5 h5.applyHeldGroups
    exact (Kept.ite h6.phaseEnd h6).mirrorStart
  · exact .ite (.ite h.forgetStep h.forgetStep.applyHeldGroups) h

theorem Kept.accStep {x w damaged} (h : Kept cs s) : Kept cs (s.accStep x w damaged) := .ite h.update h.update

theorem Kept.settleSlotWrites {p} (h : Kept cs s) : Kept cs (s.settleSlotWrites p) :=
  h.foldl fun _ _ h => h.completeLive

theorem Kept.dropTensor {t} (h : Kept cs s) : Kept cs (s.dropTensor t) := by
  unfold State.dropTensor
  dsimp only
  split
  · exact h.update.writeSlot.settleSlotWrites
  · exact h.update

theorem Kept.dropTensors {p} (h : Kept cs s) : Kept cs (s.dropTensors p) := h.foldl fun _ _ h => h.dropTensor

theorem Kept.completePass {x st} (h : Kept cs s) : Kept cs (s.completePass x st) := by
  unfold State.completePass
  extract_lets p src s1 s2 s3 s4
  have h1 : Kept cs s1 := h.update
  have h2 : Kept cs s2 := .ite h1.addO h1.setBlob
  have h3 : Kept cs s3 := .ite h2.addO h2
  have h4 : Kept cs s4 := .ite h3 h3.errRec
  exact h4.completeOpt.updateEnd.dropTensors.admitPasses

theorem Kept.setTensor {t} (h : Kept cs s) : Kept cs (s.setTensor t) := h.update

theorem Kept.partEnd {x t st} (h : Kept cs s) : Kept cs (s.partEnd x t st) :=
  .ite h.setTensor.completePass (.ite h.setTensor.dropTensor.completePass h.setTensor.update)

theorem Kept.joinTensor {x t} (h : Kept cs s) (ht : s.joinTensor x = .ok t) : Kept cs t := by
  unfold State.joinTensor at ht
  extract_lets p d at ht
  split at ht
  · cases ht
  · cases ht
  · extract_lets w failed st at ht
    split at ht
    · cases ht
    · split at ht
      · cases ht; exact h
      · cases ht; exact h.update

theorem Kept.partFails {x st} (h : Kept cs s) : Kept cs (s.partFails x st) := by
  unfold State.partFails
  dsimp only
  split
  · exact .ite (.partEnd (.ite h.accStep h)) (.completePass (.ite h.accStep h))
  · exact .ite (.completePass (.ite h.accStep h)) (.partEnd (.update (.ite h.accStep h)))

theorem execPassStart_kept {reck} (h : Kept cs s) : KeptOut cs (execPassStart reck s) := by
  unfold execPassStart
  refine .ite (.next h) ?_
  split
  · exact .next h
  · split
    · exact .next h
    · refine .ite (.next h) ?_
      split
      · exact .next h.partFails
      · exact .next ((h.joinTensor ‹_›).update.admitPasses)
    · exact .next (.ite h.partFails h.completePass)

theorem Kept.put {a bs} (h : Kept cs s) : Kept cs (s.put a bs) := h.setDecks wf_udWrite

theorem Kept.blendElem {p e f st i x} (h : Kept cs s) (hx : s.blendElem p e f st i = .ok x) : Kept cs x.1 := by
  unfold State.blendElem at hx
  split at hx
  · cases hx; exact h.put
  · cases hx
  · cases hx

theorem Kept.passElem {c acc i x} (h : Kept cs s) (hx : s.passElem c acc i = .ok x) : Kept cs x.1 := by
  unfold State.passElem at hx
  dsimp only at hx
  split at hx
  · cases hx; exact h.put.put.put
  · cases hx
  · cases hx
  · cases hx
  · cases hx

theorem Kept.loopE {β : Type} {f : State → β → Nat → Except (Nat × Nat) (State × β)} {k i}
    {x : State × β × Nat × Nat × Nat} (h : Kept cs x.1)
    (hf : ∀ {s b i r}, Kept cs s → f s b i = .ok r → Kept cs r.1) :
    Kept cs (Machine.loopE f k i x).1 := by
  induction k generalizing i x with
  | zero => exact h
  | succ k ih =>
    unfold Machine.loopE
    split
    · exact ih (hf h ‹_›)
    · exact h

theorem Kept.passWork {c limit} (h : Kept cs s) : Kept cs (s.passWork c limit).1 := by
  unfold State.passWork
  refine .ite_fst h ?_
  extract_lets jobs b x
  have hb : Kept cs b.1 := by
    refine .loopE h fun h hr => ?_
    split at hr
    next j hj =>
      cases hbl : State.blendElem _ c.p c.e j.1 j.2.1 j.2.2 with
      | error e => rw [hbl] at hr; cases hr
      | ok q => rw [hbl] at hr; cases hr; exact Kept.blendElem (x := q) h hbl
    · cases hr; exact h
  exact .ite_fst hb (.loopE hb fun h hr => h.passElem hr)

theorem execPassEnd_kept {reck} (h : Kept cs s) : KeptOut cs (execPassEnd reck s) := by
  unfold execPassEnd
  split
  · exact .next h
  split
  · exact .next h.completePass
  refine .ite (.next h) ?_
  extract_lets +onlyGivenNames rounds full cut blend done free n r src s1 acc st p s2 nm u s3 s4
  have hr : Kept cs r.1 := .ite_fst h.passWork h.passWork
  have h1 : Kept cs s1 := .ite hr.update hr
  have h3 : Kept cs s3 := h1.accStep.setNum
  have h4 : Kept cs s4 := .ite h3 h3.addO.errRec
  exact .next (Kept.ite h4.queueRoot h4).partEnd

theorem execTensorUpdateComplete_kept {part slot} (h : Kept cs s) :
    KeptOut cs (execTensorUpdateComplete part slot s) := by
  unfold execTensorUpdateComplete
  split
  · exact .next h
  refine .ite (.next h) ?_
  extract_lets x lost s1 s2
  have h1 : Kept cs s1 := by
    unfold s1
    split
    · exact h.put
    · exact h.accStep
    · exact h
  have h2 : Kept cs s2 := h1.recordTensor.dropTensor
  clear_value s2 s1 x lost
  split
  · exact .next h2.completePass
  · exact .next h2

theorem execRootJobStart_kept {reck} (h : Kept cs s) : KeptOut cs (execRootJobStart reck s) := by
  unfold execRootJobStart
  split
  · exact .next h
  · exact .ite (.next h) (.next h.update)

theorem Kept.rootUncorr {p e} (h : Kept cs s) : Kept cs (s.rootUncorr p e) := .ite h.errRec h

theorem Kept.writeRoot {p a k q t} (h : Kept cs s) (ht : s.writeRoot p a k q = some t) : Kept cs t := by
  revert t
  unfold State.writeRoot
  refine List.foldlRecOn (motive := fun o => ∀ {t}, o = some t → Kept cs t) _ _ ?_ fun o ho i _ t ht => ?_
  · rintro _ ⟨⟩; exact h
  · obtain ⟨u, hu, ht⟩ := Option.bind_eq_some_iff.1 ht
    split at ht
    · cases ht; exact (ho hu).put
    · cases ht

theorem Kept.rootSide {j side a q k x} (h : Kept cs s) : Kept cs (s.rootSide j side a q k x).1 := by
  unfold State.rootSide
  split
  · exact h.rootUncorr
  · dsimp only
    split
    · exact h
    · split
      · exact h
      · exact (h.writeRoot ‹_›)

theorem Kept.rootWork {j} (h : Kept cs s) : Kept cs (s.rootWork j).1 := by
  unfold State.rootWork
  dsimp only
  split
  · split
    · exact h.rootSide
    · split
      · exact h.rootSide.rootSide
      · exact h.rootSide.rootSide
  · exact h.rootUncorr

theorem execRootQuery_kept {rod fb step} (h : Kept cs s) : KeptOut cs (execRootQuery rod fb step s) :=
  .ite (.next h) (.ite (.next (.ite h h.setRod)) (.next h.setRod))

theorem Kept.groupsWrite {path p k e} (h : Kept cs s) : Kept cs (s.groupsWrite path p k e).1 :=
  .ite_fst h (.ite_fst h h.update)

theorem Kept.reckVerdict {p step applied} (h : Kept cs s) : Kept cs (s.reckVerdict p step applied) :=
  .ite h (.ite (.foldl (.update (.ite h h.applyHeldGroups)) fun _ _ h => h.schedule)
      (.installRoots (.update (.ite h h.applyHeldGroups))))

theorem Kept.reckEndRun {p} (h : Kept cs s) : Kept cs (s.reckEndRun p) := by
  unfold State.reckEndRun
  extract_lets jobs due src s1 s2 todo s3 steps s4 s5
  have h2 : Kept cs s2 := h.update.foldl fun _ _ h => h.setFactorBlock
  have h3 : Kept cs s3 := h2.foldl fun _ _ h => h.completePass
  have h4 : Kept cs s4 := h3.foldl fun _ _ h => h.forgetStep
  exact .ite h4.dropTensors h4.dropTensors.applyHeldGroups

theorem Kept.reckReset {p st} (h : Kept cs s) : Kept cs (s.reckReset p st) :=
  ((h.update.foldl fun _ _ h => h.completeOpt).foldl fun _ _ h => h.clearO).clearBlob

end Sys2Proof.Machine
end

section
/-! Groups, buckets and the verdict exchange (Machine/CarryOps.lean). -/

namespace Sys2Proof.Machine

open Sys2Proof

variable {cs : List Instr} {s : State}

theorem Kept.setCyState {p g v} (h : Kept cs s) : Kept cs (s.setCyState p g v) := h.setO

theorem Kept.sendRank {p g dest tag parity data} (h : Kept cs s) : Kept cs (s.sendRank p g dest tag parity data) :=
  h.opSend

theorem Kept.cySend {m} (h : Kept cs s) : Kept cs (s.cySend m) := by
  unfold State.cySend
  dsimp only
  split
  · exact h.update.sendRank
  · exact h.update.sendRank
  · exact h.update.sendRank
  · exact h.update.sendRank
  · exact h.update.sendRank
  · exact h.update.opSend
  · exact h.update.opSend
  · exact h.update.foldl fun _ _ h => h.opSend
  · exact h.update.opSend
  · exact h.update.opSend
  · exact h.update.opSend

theorem Kept.countOpen {p} (h : Kept cs s) : Kept cs (s.countOpen p) := h.setO

theorem Kept.cyRead {p a n} (h : Kept cs s) : Kept cs (s.cyRead p a n).1 := by
  unfold State.cyRead
  split
  · exact .ite_fst h.update.errRec h
  · exact h

theorem Kept.carryPut {b a src bs} (h : Kept cs s) : Kept cs (s.carryPut b a src bs).1 := by
  unfold State.carryPut
  refine .foldl_fst h fun _ _ h => ?_
  dsimp only
  split
  · exact h
  · exact .outstanding2 (.update (.ite_fst h.udPut h))

theorem Kept.putSegment {b j rod xs} (h : Kept cs s) : Kept cs (s.putSegment b j rod xs).1 := h.carryPut

theorem Kept.unitWrite {b slot rod u} (h : Kept cs s) : Kept cs (s.unitWrite b slot rod u).1 := h.carryPut

theorem Kept.unitRead {b slot u} (h : Kept cs s) : Kept cs (s.unitRead b slot u).1 := .ite_fst h h.cyRead

theorem Kept.contribute {b j rod xs w} (h : Kept cs s) : Kept cs (s.contribute b j rod xs w) :=
  .ite h.putSegment.setBucket h.unitWrite.setBucket

theorem Kept.landChunk {b r data} (h : Kept cs s) : Kept cs (s.landChunk b r data) := h.carryPut.setBucket

theorem Kept.sendChunks {id} (h : Kept cs s) : Kept cs (s.sendChunks id) := by
  unfold State.sendChunks
  split
  · exact h
  · refine .foldl h fun _ _ h => ?_
    dsimp only
    split
    · exact h.cyRead
    · exact .ite h.cyRead.landChunk h.cyRead.cySend.cySend

theorem Kept.scaleRecords {p d} (h : Kept cs s) : Kept cs (s.scaleRecords p d) := by
  unfold State.scaleRecords
  refine .foldl h fun _ _ h => ?_
  split
  · exact .ite h.errRec h
  · exact h

theorem Kept.pushBucket {p d cmd t} (h : Kept cs s) (ht : s.pushBucket p d cmd = .ok t) : Kept cs t := by
  unfold State.pushBucket at ht
  dsimp only at ht
  split at ht
  · cases ht
  · split at ht
    · cases ht; exact h.setGroup
    · split at ht
      · cases ht
      · have hs {c : Prop} [Decidable c] : Kept cs (if c then s.scaleRecords p d else s) := .ite h.scaleRecords h
        split at ht
        · cases ht
          exact .ite hs.update.setGroup.countOpen.phasePush.setRunCmd hs.update.setGroup.countOpen.phasePush
        · cases ht
          exact hs.update.setGroup.countOpen.phasePush.setBucket.sendChunks

theorem Kept.sendHeaders {b} (h : Kept cs s) : Kept cs (s.sendHeaders b) :=
  ((h.foldl fun _ _ h => h.cySend).foldl fun _ _ h => h.cySend).setBucket

theorem Kept.wakeCarry {p} (h : Kept cs s) : Kept cs (s.wakeCarry p) :=
  (h.phaseTick.foldl fun _ _ h => .ite h.setRod h).foldl fun _ _ h => .ite h.setCtx h

theorem Kept.endBucket {b t} (h : Kept cs s) : Kept cs (s.endBucket b t) := by
  unfold State.endBucket
  exact h.update.setGroup.addO.addO.countOpen.completeOpt.wakeCarry

theorem Kept.loseBucket {b silent} (h : Kept cs s) : Kept cs (s.loseBucket b silent) := h.endBucket.setCyState.errRec

theorem Kept.discard {p link} (h : Kept cs s) : Kept cs (s.discard p link) := .ite h.addO.countEvent h.addO

theorem Kept.verdictKnown {p g step v} (h : Kept cs s) : Kept cs (s.verdictKnown p g step v) := by
  unfold State.verdictKnown
  extract_lets v' cmds s1 last above src s2 s3 bad s4
  have h3 : Kept cs s3 := h.setO.setO.update.foldl fun _ _ h => .ite h h.setGroup
  have h4 : Kept cs s4 := .ite h3.reckVerdict.numVerdict h3
  exact (h4.foldl fun _ _ h => h.completeOpt).wakeCarry

theorem Kept.verdictDown {p g step v} (h : Kept cs s) : Kept cs (s.verdictDown p g step v) := by
  unfold State.verdictDown
  exact (h.foldl fun _ _ h => h.cySend).verdictKnown

theorem Kept.exchGo {p g step} (h : Kept cs s) : Kept cs (s.exchGo p g step) := by
  unfold State.exchGo
  refine .ite h ?_
  dsimp only
  split
  · exact h.setGroup.cySend
  · exact h.setGroup.verdictDown

theorem Kept.formResult {p g epoch ok} (h : Kept cs s) : Kept cs (s.formResult p g epoch ok) :=
  .ite ((h.foldl fun _ _ h => h.cySend).setGroup.setO.setCyState)
    ((h.foldl fun _ _ h => h.cySend).setGroup.setCyState.errRec)

theorem Kept.formGo {p g} (h : Kept cs s) : Kept cs (s.formGo p g) := by
  unfold State.formGo
  refine .ite h ?_
  dsimp only
  split
  · exact h.setGroup.cySend
  · exact h.formResult

theorem Kept.formGroup {p g} (h : Kept cs s) : Kept cs (s.formGroup p g).1 :=
  .ite_fst h (.ite_fst h (.ite_fst h.setO.setCyState h.setGroup.setCyState.formGo))

theorem Kept.clearGroup {p g st} (h : Kept cs s) : Kept cs (s.clearGroup p g st) := by
  unfold State.clearGroup
  exact (h.phaseTick.setGroup.foldl fun _ _ h => h.completeOpt).wakeCarry

theorem Kept.leaveGroup {p g} (h : Kept cs s) : Kept cs (s.leaveGroup p g).1 := .ite_fst h h.clearGroup.setCyState

theorem Kept.carryReset {p st} (h : Kept cs s) : Kept cs (s.carryReset p st) :=
  ((h.update.foldl fun _ _ h => h.completeOpt).foldl fun _ _ h => h.clearGroup.setCyState).foldl fun _ _ h => h.clearO

end Sys2Proof.Machine
end

section
/-! The server's page lists, channels and accounts (Machine/SvOps.lean). -/

namespace Sys2Proof.Machine

open Sys2Proof

variable {cs : List Instr} {s : State}

theorem Kept.setRx {i x} (h : Kept cs s) : Kept cs (s.setRx i x) := h.update

theorem Kept.putTable {off bs} (h : Kept cs s) : Kept cs (s.putTable off bs) := by
  unfold State.putTable
  split
  · exact h.setDecks wf_udWrite
  · exact h

theorem Kept.setReq {i r} (h : Kept cs s) : Kept cs (s.setReq i r) := h.update.putTable

theorem Kept.setPage {d x} (h : Kept cs s) : Kept cs (s.setPage d x) := h.update.putTable

theorem Kept.svCounts (h : Kept cs s) : Kept cs s.svCounts := h.setO.setO.setO.setO

theorem Kept.relink {i} (h : Kept cs s) : Kept cs (s.relink i) := (h.foldl fun _ _ h => h.setPage).setReq

theorem Kept.growPages {i n} (h : Kept cs s) : Kept cs (State.growPages i n s) := by
  induction n generalizing s with
  | zero => exact h.relink
  | succ n ih => exact ih h.setPage

theorem Kept.freePages {i} (h : Kept cs s) : Kept cs (s.freePages i) :=
  (h.foldl fun _ _ h => .ite h h.setPage).update.setReq

theorem Kept.fillPages {i} (h : Kept cs s) : Kept cs (s.fillPages i) := h.foldl fun _ _ h => h.setPage

theorem Kept.latchAccts (h : Kept cs s) : Kept cs s.latchAccts := h.update

theorem Kept.setAcct {a v} (h : Kept cs s) : Kept cs (s.setAcct a v) := h.update

theorem Kept.refillBudgets (h : Kept cs s) : Kept cs s.refillBudgets :=
  .foldl (.ite h.latchAccts h) fun _ _ h => .ite h.setAcct h

theorem Kept.dequeue {i} (h : Kept cs s) : Kept cs (s.dequeue i) := h.setAcct

theorem Kept.setChan {c v} (h : Kept cs s) : Kept cs (s.setChan c v) := h.update

theorem Kept.drainChan {c} (h : Kept cs s) : Kept cs (s.drainChan c) := by
  unfold State.drainChan
  extract_lets +onlyGivenNames x n waiting k
  refine .ite h ?_
  extract_lets head s1 rest s2
  have h2 : Kept cs s2 := (h.foldl fun _ _ h => h.hostWrite).setO.setChan
  exact (Kept.ite h2 h2.hostWrite).msix

theorem Kept.postRec {c r} (h : Kept cs s) : Kept cs (s.postRec c r) := .ite h h.setChan.drainChan

theorem Kept.postFinal {i result} (h : Kept cs s) : Kept cs (s.postFinal i result) := .ite h h.setReq.setRx.postRec

theorem Kept.leave {i result} (h : Kept cs s) : Kept cs (s.leave i result) :=
  h.postFinal.dequeue.freePages.setReq.update

theorem Kept.badReq {i result} (h : Kept cs s) : Kept cs (s.badReq i result) := h.setReq.setRx.svCounts

theorem Kept.svLost (h : Kept cs s) : Kept cs s.svLost :=
  .ite h ((h.setO.errRec.foldl fun _ _ h => h.leave).update.svCounts)

theorem Kept.svPartLost {p} (h : Kept cs s) : Kept cs (s.svPartLost p) := .ite h.svLost h

theorem Kept.tableRead {a len} (h : Kept cs s) : Kept cs (s.tableRead a len) := .ite h.svLost h

end Sys2Proof.Machine
end

section
/-! Contexts and their turns on the rods (Machine/SchedOps.lean). -/

namespace Sys2Proof.Machine

open Sys2Proof

variable {cs : List Instr} {s : State}

theorem Kept.settleV {p c} (h : Kept cs s) : Kept cs (s.settleV p c) := .ite h h.setCtx

theorem Kept.holdOn {p c} (h : Kept cs s) : Kept cs (s.holdOn p c) := .ite h.setCtx h

theorem Kept.holdOff {p c} (h : Kept cs s) : Kept cs (s.holdOff p c) := .ite h.settleV.setCtx h

theorem Kept.latchSched {p} (h : Kept cs s) : Kept cs (s.latchSched p) :=
  (h.foldl fun _ _ h => h.settleV.setCtx).setPart

theorem Kept.noteReady {p} (h : Kept cs s) : Kept cs (s.noteReady p) :=
  .foldl (.ite h.settleV h) fun _ _ h => .ite h h.setCtx

theorem Kept.decideIdle {p} (h : Kept cs s) : Kept cs (s.decideIdle p) := by
  unfold State.decideIdle
  refine .ite h ?_
  dsimp only
  split
  · exact h.latchSched.noteReady.setResident
  · exact .ite h.latchSched.noteReady.setResident.setPart
      (.ite h.latchSched.noteReady h.latchSched.noteReady.setResident.setPart)

theorem Kept.pollLedger (h : Kept cs s) : Kept cs s.pollLedger := by
  unfold State.pollLedger
  refine .ite ?_ ?_
  · refine .foldl h.update fun _ _ h => ?_
    refine .ite h ?_
    split
    · exact .ite h h.update
    · exact h
  · refine .update (.foldl h.update fun _ _ h => ?_)
    refine .ite h ?_
    split
    · exact .ite h h.update
    · exact h

theorem Kept.pollAll (h : Kept cs s) : Kept cs s.pollAll :=
  h.pollLedger.foldl fun _ _ h => .ite h.noteReady.decideIdle h.noteReady

theorem polled_kept {o : Out} (h : KeptOut cs o) : KeptOut cs (polled o) := by
  cases o with
  | next s => exact .next (h s rfl).pollAll
  | fault r => exact .fault r
  | refused r => rintro _ ⟨⟩

theorem Kept.teacherTime {p r} (h : Kept cs s) : Kept cs (s.teacherTime p r) := by
  unfold State.teacherTime
  split
  · exact h
  · exact .ite h (h.foldl fun _ _ h => h.setNum)

theorem Kept.enableCtx {p c} (h : Kept cs s) : Kept cs (s.enableCtx p c).1 := by
  unfold State.enableCtx
  dsimp only
  exact .ite_fst h (.ite_fst h (.pair h.setCtx.pollAll))

theorem Kept.endDisable {p c} (h : Kept cs s) : Kept cs (s.endDisable p c) :=
  .ite (h.setCtx.firePending fun _ h => h.enableCtx) h

theorem Kept.endRun {p c st} (h : Kept cs s) : Kept cs (s.endRun p c st) := by
  unfold State.endRun
  split
  · exact h
  extract_lets live st' s1 r1 s2 src s3 s4 s5 s6 s7 src' s8
  have h1 : Kept cs s1 := .ite h.phaseTick h
  have h3 : Kept cs s3 := h1.holdOff.teacherTime.setCtx
  have h4 : Kept cs s4 := .ite (h3.foldl fun _ _ h => h.setRod) h3
  have h5 : Kept cs s5 := (Kept.ite h4.recordSlots h4).waitMarks
  exact h5.orphan.complete.settleTally.update.endDisable

theorem Kept.afterRun {p c} (h : Kept cs s) : Kept cs (s.afterRun p c) := by
  unfold State.afterRun
  exact h.setCtx.setPart.pollLedger.decideIdle.setPart.pollAll

theorem Kept.endYield {p c} (h : Kept cs s) : Kept cs (s.endYield p c) := .ite h.setPart h.setPart.addO.setCtx

theorem Kept.completeRun {p} (h : Kept cs s) : Kept cs (s.completeRun p) := by
  unfold State.completeRun
  exact h.endRun.afterRun

theorem Kept.saveRod {rod a} (h : Kept cs s) : Kept cs (s.saveRod rod a) := by
  unfold State.saveRod
  extract_lets base d k free ud
  have hu : Memory.wf s.decks.ud = true → Memory.wf ud = true := fun hd => wf_mwrite (wf_mput hd _ _ _) _ _
  clear_value ud
  exact h.setDecks hu

theorem Kept.startSwitch {p out inn} (h : Kept cs s) : Kept cs (s.startSwitch p out inn) := h.setCtx.setPart

theorem Kept.saveOut {p out} (h : Kept cs s) : Kept cs (s.saveOut p out) :=
  ((h.phaseTick.foldl fun _ _ h => h.setRod).foldl fun _ _ h => h.saveRod).holdOff.setCtx.foldl fun _ _ h => h.setRod

theorem Kept.restoreIn {p inn} (h : Kept cs s) : Kept cs (s.restoreIn p inn) := by
  unfold State.restoreIn
  extract_lets +onlyGivenNames s1 x
  have h1 {c} : Kept cs (s1.setResident p c) := h.phaseTick.endYield.setResident
  refine .ite h1 ?_
  split
  · have h2 : Kept cs ((s1.setResident p inn).holdOn p inn) := h1.holdOn
    refine .ite (h2.foldl fun _ _ h => h.errRec).endRun.setResident ?_
    extract_lets live s3 src s4
    have h4 : Kept cs s4 := (h2.foldl fun _ _ h => h.setRod).setCtx
    exact (Kept.ite h4.failRun h4).admitStages.admitPasses
  · exact h1.holdOn
  · exact h1

theorem Kept.endAllRuns {p st} (h : Kept cs s) : Kept cs (s.endAllRuns p st) := by
  unfold State.endAllRuns
  exact (h.setPart.foldl fun _ _ h => .setCtx (.endRun (.ite h.failRun h.setCtx))).setResident.pollLedger

theorem Kept.partEffects {p st} (h : Kept cs s) : Kept cs (s.partEffects p st) :=
  h.abandonStages.memberLost.setO.reckReset.carryReset.svPartLost

end Sys2Proof.Machine
end

section
/-! The carry commands (Machine/Carry.lean). -/

namespace Sys2Proof.Machine

open Sys2Proof

variable {cs : List Instr} {s : State}

theorem execHandshakeUp_kept {part g child digest epoch mismatch} (h : Kept cs s) :
    KeptOut cs (execHandshakeUp part g child digest epoch mismatch s) :=
  .ite (.next h) (.next h.setGroup.formGo)

theorem execHandshakeResult_kept {part g epoch matched} (h : Kept cs s) :
    KeptOut cs (execHandshakeResult part g epoch matched s) :=
  .next (.ite h.formResult h)

theorem Kept.formLate {part g} (h : Kept cs s) : Kept cs (s.formLate part g) := .ite h h.setGroup.setCyState.errRec

theorem execCyFormTimeout_kept {part g} (h : Kept cs s) : KeptOut cs (execCyFormTimeout part g s) := .next h.formLate

theorem Kept.rodPush {rod desc hold} (h : Kept cs s) : Kept cs (s.rodPush rod desc hold) := by
  unfold State.rodPush
  refine .ite h ?_
  split
  · exact .ite ((h.pushBucket ‹_›).phaseTick.setRod) (h.pushBucket ‹_›)
  · exact h.failRod

theorem execReduce_kept {rod push} (h : Kept cs s) : KeptOut cs (execReduce rod push s) := .next (.ite h h.rodPush)

theorem execAllToAll_kept {rod push} (h : Kept cs s) : KeptOut cs (execAllToAll rod push s) :=
  .next (.ite h.rodPush h)

theorem execAllGather_kept {rod push} (h : Kept cs s) : KeptOut cs (execAllGather rod push s) :=
  .next (.ite h.rodPush h)

theorem execCloseStep_kept {rod push} (h : Kept cs s) : KeptOut cs (execCloseStep rod push s) :=
  .next (.ite h.rodPush h)

theorem execCarryTile_kept (h : Kept cs s) : KeptOut cs (execCarryTile s) := by
  unfold execCarryTile
  split
  · exact .next h
  · dsimp only
    split
    · exact .next h.update.failRod
    · exact .ite (.next h.update.update)
        (.ite (.next h.update) (.ite (.next h.update.failRod) (.next h.update.contribute)))

theorem Kept.layerElems {b j} (h : Kept cs s) : Kept cs (s.layerElems b j).1 := h.cyRead

theorem execLayerSourceRead_kept {bkt} (h : Kept cs s) : KeptOut cs (execLayerSourceRead bkt s) := by
  unfold execLayerSourceRead
  split
  · exact .next h
  · refine .ite (.next h) (.next (.foldl h fun _ _ h => ?_))
    dsimp only
    split
    · exact h
    · exact .ite h h.layerElems.contribute

theorem Kept.sendFinal {b u} (h : Kept cs s) : Kept cs (s.sendFinal b u) := h.foldl fun _ _ h => h.cySend

theorem Kept.deliverSegment {b u} (h : Kept cs s) : Kept cs (s.deliverSegment b u).1 := .ite_fst h.putSegment h

theorem Kept.storeScale {b u} (h : Kept cs s) : Kept cs (s.storeScale b u).1 := h.carryPut

theorem execSegmentUnit_kept {part g arr} (h : Kept cs s) : KeptOut cs (execSegmentUnit part g arr s) := by
  unfold execSegmentUnit
  refine .ite (.next h) ?_
  split
  · exact .next h.discard
  · exact .ite (.next h.discard) (.ite (.next h) (.ite
          (.ite (.next h.discard) (.next h.unitWrite.deliverSegment.sendFinal.sendHeaders))
          (.ite (.next h.discard) (.next h.unitWrite.setBucket))))

theorem execSegmentCombine_kept {bkt seg} (h : Kept cs s) : KeptOut cs (execSegmentCombine bkt seg s) := by
  delta execSegmentCombine
  split
  · exact .next h
  extract_lets kids us
  split
  · exact .next h
  refine .ite (.next h) ?_
  extract_lets +onlyGivenNames rd s1 ds sums sum raised m e
  have h1 : Kept cs s1 := h.foldl_fst fun _ _ h => h.unitRead
  -- the rest holds whatever the sum is; `id` keeps the kernel from putting it back
  clear_value rd s1 raised m e
  revert rd s1 raised m e
  refine id ?_
  intro rd s1 ds sums sum raised m e h1
  extract_lets src u ovf r s2
  have h2 : Kept cs s2 := h1.unitWrite
  split
  · exact .next h2.cySend.sendHeaders
  · exact .next h2.deliverSegment.sendFinal.sendHeaders

theorem execBucketHeader_kept {part g arr} (h : Kept cs s) : KeptOut cs (execBucketHeader part g arr s) := by
  unfold execBucketHeader
  refine .ite (.next h) (.ite (.next h.discard) (.ite ?_ ?_))
  · split
    · exact .ite (.next h.discard) (.next h.setBucket)
    · exact .next h.discard
  · split
    · exact .next h.discard
    · exact .ite (.ite (.next h.discard) (.next h.sendHeaders)) (.ite (.next h.discard) (.next h.sendHeaders))

theorem Kept.zeroPoisoned {b} (h : Kept cs s) : Kept cs (s.zeroPoisoned b).1 :=
  .ite_fst (h.foldl_fst fun _ _ h => h.putSegment) h

theorem execBucketComplete_kept {bkt} (h : Kept cs s) : KeptOut cs (execBucketComplete bkt s) := by
  delta execBucketComplete
  refine polled_kept ?_
  split
  · exact .next h
  next b _ =>
    refine .ite (.next h) (.ite (.next h.endBucket) ?_)
    extract_lets r b'
    have hr : Kept cs r.1 := h.zeroPoisoned.foldl_fst fun _ _ h => h.storeScale
    exact .ite (.next hr.endBucket) (.next hr.setBucket)

theorem execChunkLanded_kept {part g tag parity sender epoch arr} (h : Kept cs s) :
    KeptOut cs (execChunkLanded part g tag parity sender epoch arr s) := by
  unfold execChunkLanded
  refine polled_kept (.ite (.next h) ?_)
  split
  · exact .next h.discard
  · exact .ite (.next h.discard) (.ite (.next h) (.next h.landChunk))

theorem Kept.bucketLate {bkt} (h : Kept cs s) : Kept cs (s.bucketLate bkt) := by
  unfold State.bucketLate
  split
  · exact h
  · refine .ite h ?_
    split
    · exact h
    · exact h.loseBucket

theorem Kept.verdictLate {p g} (h : Kept cs s) : Kept cs (s.verdictLate p g) := by
  unfold State.verdictLate
  split
  · exact h
  · exact .ite h h.setCyState.errRec.verdictKnown

theorem execBucketTimeout_kept {bkt} (h : Kept cs s) : KeptOut cs (execBucketTimeout bkt s) :=
  polled_kept (.ite (.next h.bucketLate) (.ite (.next h.verdictLate) (.next h)))

theorem execVerdictExchangeStart_kept {part g} (h : Kept cs s) : KeptOut cs (execVerdictExchangeStart part g s) := by
  unfold execVerdictExchangeStart
  refine polled_kept (.ite (.next h) ?_)
  split
  · exact .next h
  · exact .ite (.next h.setGroup.completeOpt.wakeCarry) (.ite (.next h.verdictKnown) (.next h.setGroup.exchGo))

theorem execVerdictExchangeUp_kept {part g arr} (h : Kept cs s) : KeptOut cs (execVerdictExchangeUp part g arr s) :=
  polled_kept (.ite (.next h) (.ite (.next h.discard) (.next h.setGroup.exchGo)))

theorem execVerdictResult_kept {part g hdr link} (h : Kept cs s) : KeptOut cs (execVerdictResult part g hdr link s) :=
  polled_kept (.ite (.next h) (.ite (.next h.verdictDown) (.next h.discard)))

theorem Kept.mirrorOn {p v} (h : Kept cs s) : Kept cs (s.mirrorOn p v).1 := h.setMirror

theorem Kept.mirrorAsk {p} (h : Kept cs s) : Kept cs (s.mirrorAsk p).1 := by
  unfold State.mirrorAsk
  dsimp only
  exact h.setMirror.cySend

theorem Kept.mirrorSendAway {p} (h : Kept cs s) : Kept cs (s.mirrorSendAway p).1 := by
  unfold State.mirrorSendAway
  dsimp only
  exact h.cySend

theorem execMirrorCopyEnd_kept {part ok} (h : Kept cs s) : KeptOut cs (execMirrorCopyEnd part ok s) := by
  unfold execMirrorCopyEnd
  dsimp only
  split
  · exact .next h
  · exact .ite (.next ((h.foldl fun _ _ h => h.regionRecs).setMirror.errRec))
      (.next ((h.foldl fun _ _ h => h.regionRecs).setMirror.cySend))

theorem execMirrorCommit_kept {k client copy digest} (h : Kept cs s) :
    KeptOut cs (execMirrorCommit k client copy digest s) := by
  unfold execMirrorCommit
  split
  · exact .next h
  have hd := h.foldl (l := upto 16) (f := State.drainBuffer) fun _ _ h => h.drainBuffer
  exact .ite (.next h) (.ite (.next hd.genRead.setAllot.genWrite.cySend) (.next hd.genRead.setAllot))

theorem execMirrorRestoreEnd_kept {part copy digest} (h : Kept cs s) :
    KeptOut cs (execMirrorRestoreEnd part copy digest s) :=
  .ite (.next h)
    (.ite (.next ((h.setMirror.foldl fun _ _ h => h.regionWrite).restoreHeader)) (.next h.setMirror.errRec))

end Sys2Proof.Machine
end

section
/-! The optical commands (Machine/Optical.lean). -/

namespace Sys2Proof.Machine

open Sys2Proof

variable {cs : List Instr} {s : State}

theorem execLightDetected_kept {l} (h : Kept cs s) : KeptOut cs (execLightDetected l s) :=
  .ite (.next h) (.next h.setLink.toLight)

theorem execLightLost_kept {l} (h : Kept cs s) : KeptOut cs (execLightLost l s) := .ite (.next h) (.next h.toAbsent)

theorem execTrainingHoldEnd_kept {l} (h : Kept cs s) : KeptOut cs (execTrainingHoldEnd l s) :=
  .ite (.next h) (.next h.train)

theorem execTrainingComplete_kept {l lanes bamen} (h : Kept cs s) :
    KeptOut cs (execTrainingComplete l lanes bamen s) :=
  .ite (.next h) (.ite (.next h.trainFail)
      (.ite (.next h.setLink.errRec.toLight) (.next h.setLink.endTurn.linkTo.setLink.grantTurn)))

theorem execTrainingTimeout_kept {l} (h : Kept cs s) : KeptOut cs (execTrainingTimeout l s) :=
  .ite (.next h) (.next h.trainFail)

theorem Kept.takeControl {l kind data t} (h : Kept cs s) (ht : s.takeControl l kind data = some t) : Kept cs t := by
  unfold State.takeControl at ht
  dsimp only at ht
  split at ht
  · split at ht
    · cases ht; exact h.setLink.oweCredits
    · cases ht
  · cases ht

theorem execHello_kept {l node fabric enc nonce} (h : Kept cs s) :
    KeptOut cs (execHello l node fabric enc nonce s) := by
  unfold execHello
  split
  · exact .next h
  next hx =>
    have ht := h.takeControl (Option.ite_none_right_eq_some.1 hx).2
    exact .ite (.next ht.errRec.toLight) (.next ht.setLink.sendControl)

theorem execCert_kept {l device issuers} (h : Kept cs s) : KeptOut cs (execCert l device issuers s) := by
  unfold execCert
  extract_lets chain
  split
  · exact .next h
  next hx =>
    have ht := h.takeControl (Option.ite_none_right_eq_some.1 hx).2
    exact .ite (.next ht.noteEvent.quarantine) (.next ht.update.setLink.sendControl)

theorem execProof_kept {l msg} (h : Kept cs s) : KeptOut cs (execProof l msg s) := by
  unfold execProof
  split
  · exact .next h
  next hx =>
    have ht := h.takeControl (Option.ite_none_right_eq_some.1 hx).2
    dsimp only
    split
    · exact .next ht.noteEvent.quarantine
    · exact .next ht.setLink.sendControl

theorem execConfirm_kept {l msg} (h : Kept cs s) : KeptOut cs (execConfirm l msg s) := by
  unfold execConfirm
  split
  · exact .next h
  next hx =>
    have ht := h.takeControl (Option.ite_none_right_eq_some.1 hx).2
    exact .ite (.next ht.noteEvent.quarantineProven) (.next ht.activate)

theorem execAuthTimeout_kept {l} (h : Kept cs s) : KeptOut cs (execAuthTimeout l s) :=
  .ite (.next h) (.next (.ite h.setLink.noteEvent.quarantine h.setLink.noteEvent.toLight))

theorem Kept.badMessage {l cls n} (h : Kept cs s) : Kept cs (s.badMessage l cls n) := h.oweCredits.violation

theorem Kept.wholeMessage {l cls p} (h : Kept cs s) : Kept cs (s.wholeMessage l cls p) :=
  .ite h.badMessage (.ite h.oweCredits h.setLink)

theorem Kept.joinMessage {l cls h' body} (h : Kept cs s) : Kept cs (s.joinMessage l cls h' body) := by
  unfold State.joinMessage
  dsimp only
  split
  · exact .ite h.setLink.wholeMessage h.setLink
  · exact h.badMessage
  · exact .ite h.setLink.badMessage.setLink.wholeMessage h.setLink.badMessage.setLink
  · exact .ite (.ite h.setLink.wholeMessage h.setLink) h.setLink.badMessage

theorem Kept.storeFlit {l h' body} (h : Kept cs s) : Kept cs (s.storeFlit l h' body) :=
  .ite h.setLink.violation h.setLink.setLink.joinMessage

theorem Kept.goodFlit {l h' body} (h : Kept cs s) : Kept cs (s.goodFlit l h' body) := by
  unfold State.goodFlit
  refine .ite h.violation (.ite h (.ite h.violation (.ite h.askRetry ?_)))
  dsimp only
  split
  · exact h.setLink.takeCredits.takeAck
  · exact h.setLink.takeCredits.takeAck.setLink
  · exact h.setLink.takeCredits.takeAck.storeFlit

theorem execFlitReceive_kept {l f} (h : Kept cs s) : KeptOut cs (execFlitReceive l f s) :=
  .ite (.next h) (.ite (.next (.askRetry (.ite h.setLink h)))
      (.ite (.next (.askRetry (.ite h.setLink h))) (.ite (.next h.setLink.goodFlit) (.next h.goodFlit))))

theorem execRetryReq_kept {l ack} (h : Kept cs s) : KeptOut cs (execRetryReq l ack s) :=
  .ite (.next h) (.next (h.setLink.foldl fun _ _ h => h.emitFlit))

theorem execIdleAckTimer_kept {l} (h : Kept cs s) : KeptOut cs (execIdleAckTimer l s) :=
  .ite (.next h) (.next h.emitBare)

theorem execAckTimeout_kept {l} (h : Kept cs s) : KeptOut cs (execAckTimeout l s) :=
  .ite (.next h) (.next h.countEvent)

theorem execCreditStall_kept {l} (h : Kept cs s) : KeptOut cs (execCreditStall l s) :=
  .ite (.next h) (.next h.setLink.countEvents)

theorem execLaneLockLoss_kept {l working} (h : Kept cs s) : KeptOut cs (execLaneLockLoss l working s) :=
  .ite (.next h) (.ite (.next h.noteEvent.setLink.toLight) (.next h.noteEvent.setLink.setLink.train))

theorem execRouteAdvertisement_kept {l adv} (h : Kept cs s) : KeptOut cs (execRouteAdvertisement l adv s) := by
  unfold execRouteAdvertisement
  split
  · exact .next h
  · exact .next
      ((h.takeControl (Option.ite_none_right_eq_some.1 ‹_›).2).foldl fun _ _ h => .ite h (.ite h.dropVias h.addVia))

theorem Kept.sendAdvert {l adv} (h : Kept cs s) : Kept cs (s.sendAdvert l adv) := h.foldl fun _ _ h => h.sendControl

theorem Kept.advertise (h : Kept cs s) : Kept cs s.advertise :=
  .ite h ((h.foldl fun _ _ h => .ite h.sendAdvert h).update)

theorem execRouteAdvertTimer_kept (h : Kept cs s) : KeptOut cs (execRouteAdvertTimer s) := .next h.advertise

theorem Kept.expireVia {node l} (h : Kept cs s) : Kept cs (s.expireVia node l) := h.dropVias

theorem execRouteExpiry_kept {node l} (h : Kept cs s) : KeptOut cs (execRouteExpiry node l s) := .next h.expireVia

theorem execFlowHoldExpiry_kept {flow} (h : Kept cs s) : KeptOut cs (execFlowHoldExpiry flow s) := by
  unfold execFlowHoldExpiry
  split
  · exact .next h
  · exact .ite (.next h) (.next h.releaseFlow)

theorem Kept.recover {l} (h : Kept cs s) : Kept cs (s.recover l) :=
  .ite h (.ite h.setRoutes.setLink.returnCredits.linkTo.update h.setRoutes.setLink.returnCredits.linkTo)

theorem execDegradedRecovery_kept {l} (h : Kept cs s) : KeptOut cs (execDegradedRecovery l s) := .next h.recover

theorem Kept.endQuarantine {l} (h : Kept cs s) : Kept cs (s.endQuarantine l) := .ite h h.toLight

theorem execQuarantineHoldEnd_kept {l} (h : Kept cs s) : KeptOut cs (execQuarantineHoldEnd l s) :=
  .next h.endQuarantine

theorem execKeyEpochSwitch_kept {l} (h : Kept cs s) : KeptOut cs (execKeyEpochSwitch l s) :=
  .ite (.next h) (.next h.setLink.setO)

theorem execSlotAlignmentLoss_kept {l} (h : Kept cs s) : KeptOut cs (execSlotAlignmentLoss l s) :=
  .ite (.next h) (.next h.train)

theorem Kept.linkEnable {l} (h : Kept cs s) : Kept cs (s.linkEnable l).1 := .ite_fst h.pendEnable h.setLink

theorem Kept.linkDisable {l} (h : Kept cs s) : Kept cs (s.linkDisable l).1 :=
  .ite_fst h.dropPending (.ite_fst h h.setLink)

theorem Kept.linkRetrain {l} (h : Kept cs s) : Kept cs (s.linkRetrain l).1 := .ite h.setLink.train h

theorem Kept.linkRelease {l} (h : Kept cs s) : Kept cs (s.linkRelease l).1 := by
  unfold State.linkRelease
  exact .ite_fst h h.update.setLink.toLight

theorem execLinkShutdownEnd_kept {l} (h : Kept cs s) : KeptOut cs (execLinkShutdownEnd l s) :=
  .ite (.next h) (.ite (.next h.setLink.toAbsent.emitLink.dropPending.linkEnable) (.next h.setLink.toAbsent.emitLink))

end Sys2Proof.Machine
end

section
/-! The vector engine and the deck mover (Machine/Vector.lean). -/

namespace Sys2Proof.Machine

open Sys2Proof

variable {cs : List Instr} {s : State}

theorem Kept.vecIssue {rod desc draw} (h : Kept cs s) : Kept cs (s.vecIssue rod desc draw) :=
  .ite h (.ite h.failRod h.setRod)

theorem Kept.moveIssue {rod desc} (h : Kept cs s) : Kept cs (s.moveIssue rod desc) :=
  .ite h (.ite h.failRod h.setRod.settleRod)

theorem execChain_kept {rod desc draw} (h : Kept cs s) : KeptOut cs (execChain rod desc draw s) :=
  .ite (.next h) (.next h.vecIssue)

theorem execPermute_kept {rod desc} (h : Kept cs s) : KeptOut cs (execPermute rod desc s) :=
  .ite (.next h.vecIssue) (.next h)

theorem execShuffle_kept {rod desc} (h : Kept cs s) : KeptOut cs (execShuffle rod desc s) :=
  .ite (.next h.vecIssue) (.next h)

theorem execPack_kept {rod desc} (h : Kept cs s) : KeptOut cs (execPack rod desc s) :=
  .ite (.next h.vecIssue) (.next h)

theorem execUnpack_kept {rod desc} (h : Kept cs s) : KeptOut cs (execUnpack rod desc s) :=
  .ite (.next h.vecIssue) (.next h)

theorem execCompress_kept {rod desc} (h : Kept cs s) : KeptOut cs (execCompress rod desc s) :=
  .ite (.next h.vecIssue) (.next h)

theorem execExpand_kept {rod desc} (h : Kept cs s) : KeptOut cs (execExpand rod desc s) :=
  .ite (.next h.vecIssue) (.next h)

theorem execTload_kept {rod desc} (h : Kept cs s) : KeptOut cs (execTload rod desc s) :=
  .ite (.next h.vecIssue) (.next h)

theorem execFill_kept {rod desc} (h : Kept cs s) : KeptOut cs (execFill rod desc s) :=
  .ite (.next h.moveIssue) (.next h)

theorem execSpill_kept {rod desc} (h : Kept cs s) : KeptOut cs (execSpill rod desc s) :=
  .ite (.next h.moveIssue) (.next h)

theorem Kept.runVec {rod v} (h : Kept cs s) : Kept cs (s.runVec rod v) := h.setRod.charge

theorem execChainStart_kept {rod err} (h : Kept cs s) : KeptOut cs (execChainStart rod err s) := by
  unfold execChainStart
  extract_lets s1 r s2 p
  split
  · exact .next h.settleRod
  extract_lets d use lut tb
  have h2 : Kept cs s2 := h.settleRod.setRod
  split
  next s3 ts heq =>
    have h3 : Kept cs s3 := by
      rw [show s3 = (s3, ts).1 from rfl, ← heq]
      exact .ite_fst h2.supply h2
    extract_lets idle k ws src cut whole
    have hcut {st} : Kept cs (cut st) := h3.update.setRod.failRod
    have hwhole : Kept cs (whole s3) := by
      refine .ite h3.runVec (.ite (.ite h3.runVec h3.failRod) ?_)
      split
      · exact h3.failRod
      · exact h3.runVec
    split
    · exact .next hcut.opcError
    · exact .next hcut.setRod.errRec
    · exact .next hwhole.opcError
    · exact .next hwhole.engineCorrected
    · exact .next hwhole

theorem execChainComplete_kept {rod} (h : Kept cs s) : KeptOut cs (execChainComplete rod s) := by
  unfold execChainComplete
  dsimp only
  split
  · exact .next h.settleRod
  · refine .ite (.next h.settleRod) (.next (.settleRod ?_))
    split
    · exact h.settleRod.setRod.orNsw.record
    · exact h.settleRod.setRod.orNsw

theorem Kept.spillWritten {rod} (h : Kept cs s) : Kept cs (s.spillWritten rod) := h.foldl fun _ _ h => h.sendAck

theorem Kept.moveAll {p rod e} (h : Kept cs s) : Kept cs (s.moveAll p rod e) := by
  unfold State.moveAll
  dsimp only
  split
  · exact h.failRod
  · exact .ite (.ite h.setRod.charge.errRec.tableRead.failRod h.setRod.charge)
      (.ite h.failRod ((h.foldl fun _ _ h => h.udPut).spillWritten.charge))

theorem execDeckMoveComplete_kept {rod} (h : Kept cs s) : KeptOut cs (execDeckMoveComplete rod s) := by
  unfold execDeckMoveComplete
  dsimp only
  split
  · exact .next h.settleRod
  · exact .ite (.next h.settleRod)
      (.next (.settleRod (.ite h.settleRod.update.setRod h.settleRod.update.setRod.moveAll)))

end Sys2Proof.Machine
end

section
/-! The tally commands (Machine/Tally.lean). -/

namespace Sys2Proof.Machine

open Sys2Proof

variable {cs : List Instr} {s : State}

theorem Kept.latchTy {n} (h : Kept cs s) : Kept cs (s.latchTy n) := h.setPairing

theorem Kept.formNow {n} (h : Kept cs s) : Kept cs (s.formNow n).1 :=
  .ite_fst h (h.setPairing.latchTy.setO.setO.setO.setO.setO.foldl fun _ _ h => h.addGrants)

theorem Kept.tyForm {n} (h : Kept cs s) : Kept cs (s.tyForm n).1 := .ite_fst h.formNow (.ite_fst h.pendEnable h)

theorem Kept.tyClose {n} (h : Kept cs s) : Kept cs (s.tyClose n).1 :=
  .ite_fst h (.ite_fst h.dropPending (.ite_fst h.setPairing h.closeNow))

theorem Kept.tyAttach {n p} (h : Kept cs s) : Kept cs (s.tyAttach n p).1 :=
  .ite_fst h.pendEnable (.ite_fst h h.setPairing)

theorem Kept.tyDetach {n p} (h : Kept cs s) : Kept cs (s.tyDetach n p).1 :=
  .ite_fst h (.ite_fst h.setPairing (.ite_fst h (.ite_fst (.ite_fst h.dropPending h.setPairing) h.detachStudent)))

theorem Kept.attachNow {n seq} (h : Kept cs s) : Kept cs (s.attachNow n seq) := by
  unfold State.attachNow
  dsimp only
  split
  · exact h
  · split
    · exact h
    · exact h.setPairing.addGrants

theorem Kept.tyRebal {n toStudent frame p} (h : Kept cs s) : Kept cs (s.tyRebal n toStudent frame p).1 :=
  .ite_fst h (.ite_fst h h.setPairing)

theorem Kept.rebalFor {n i p} (h : Kept cs s) : Kept cs (s.rebalFor n i p) := by
  unfold State.rebalFor
  refine .ite h (.ite h ?_)
  split
  · exact h.errRec
  · exact .ite h.errRec h.tyRebal

theorem Kept.autoRebal {n} (h : Kept cs s) : Kept cs (s.autoRebal n) := .ite (h.foldl fun _ _ h => h.rebalFor) h

theorem Kept.stepStats {n} (h : Kept cs s) : Kept cs (s.stepStats n) := h.setPairing

theorem Kept.endOfStep {n seq} (h : Kept cs s) : Kept cs (s.endOfStep n seq) := by
  unfold State.endOfStep
  refine .autoRebal (.attachNow ?_)
  split
  · exact h.stepStats.latchTy.setPairing.setO.holdPart.holdPart
  · exact h.stepStats.latchTy

theorem execRebalMoving_kept {n} (h : Kept cs s) : KeptOut cs (execRebalMoving n s) := by
  unfold execRebalMoving
  refine polled_kept ?_
  dsimp only
  split
  · exact .next h
  · exact .ite (.next h) (.next (h.setPairing.setO.setPart.cutStages.update.foldl fun _ _ h => h.setRod.updateDecks))

theorem Kept.afterMove {n} (h : Kept cs s) : Kept cs (s.afterMove n) := by
  unfold State.afterMove
  extract_lets x s1 s2 held s3
  have h2 : Kept cs s2 := h.setPairing.foldl fun _ _ h => .ite h (.ite h.breakPairing h.detachStudent)
  have h3 : Kept cs s3 := h2.foldl fun _ _ h => .ite h.dropPending.setPairing h.dropPending.errRec
  exact .ite h3.closeNow h3

theorem execRebalMoveComplete_kept {n} (h : Kept cs s) : KeptOut cs (execRebalMoveComplete n s) := by
  delta execRebalMoveComplete
  refine polled_kept ?_
  split
  · exact .next h
  next m _ =>
    have hz : Kept cs ((frameRods m.frame).foldl (fun (s : State) r =>
        { s with decks := { s.decks.zeroSlice r with zeroing := terase s.decks.zeroing r } }) s) :=
      h.foldl fun _ _ h => h.setDecks wf_zeroSlice
    exact .ite (.next h) (.next
      hz.setPart.setO.setO.update.setPairing.setO.addO.holdPart.holdPart.afterMove)

theorem Kept.drainLate {n} (h : Kept cs s) : Kept cs (s.drainLate n) := by
  unfold State.drainLate
  split
  · exact h
  · exact .ite h.abandonMove h

theorem execTyRebalAbandoned_kept {n} (h : Kept cs s) : KeptOut cs (execTyRebalAbandoned n s) :=
  polled_kept (.next h.drainLate)

theorem execPairingFree_kept {n} (h : Kept cs s) : KeptOut cs (execPairingFree n s) :=
  polled_kept (.ite (.next h) (.ite
        (.ite (.next h.setPairing.setO.dropPending.formNow) (.next h.setPairing.setO.dropPending.formNow.errRec))
        (.next h.setPairing.setO)))

theorem Kept.reserve {rod n} (h : Kept cs s) : Kept cs (s.reserve rod n) := h.setPairing.settleSeqs.setRunCmd.setRod

theorem execAcquire_kept {rod} (h : Kept cs s) : KeptOut cs (execAcquire rod s) := by
  unfold execAcquire
  refine .ite (.next h) ?_
  dsimp only
  split
  · exact .ite (.next h.failRod) (.ite (.next h.reserve) (.next h.setRod.waitMark))
  · exact .next h.failRod

theorem execAcquireSlotFree_kept {n} (h : Kept cs s) : KeptOut cs (execAcquireSlotFree n s) := by
  unfold execAcquireSlotFree
  dsimp only
  split
  · exact .next h
  · exact .ite (.next h.reserve.waitMark) (.next h)

theorem execPublish_kept {rod call} (h : Kept cs s) : KeptOut cs (execPublish rod call s) := by
  unfold execPublish
  refine .ite (.next h) ?_
  dsimp only
  split
  · refine .ite (.next h.failRod) ?_
    split
    · exact .next h
    · exact .next h.setPairing
  · exact .next h.failRod

theorem execPublishHeaderWrite_kept {n seq} (h : Kept cs s) : KeptOut cs (execPublishHeaderWrite n seq s) := by
  unfold execPublishHeaderWrite
  refine polled_kept ?_
  extract_lets pairing
  split
  · exact .next h
  split
  · exact .next h
  refine .ite (.next h) ?_
  extract_lets ms hdr x s1 s2 s3 t cx s4
  have h2 : Kept cs s2 := h.setPairing.putHeader.countPublished.settleSeqs
  have h4 : Kept cs s4 := (Kept.ite h2.addO h2).setCtx
  exact .next (.ite h4.endOfStep h4)

theorem Kept.waitAnswer {rod n i r} (h : Kept cs s) : Kept cs (s.waitAnswer rod n i r) :=
  .ite h.setPairing.setRod (.ite h.setPairing.setRod h.setPairing.setRunCmd.setRod)

theorem execWait_kept {rod seq} (h : Kept cs s) : KeptOut cs (execWait rod seq s) := by
  unfold execWait
  refine .ite (.next h) ?_
  dsimp only
  split
  · refine .ite (.next h.failRod) ?_
    split
    · exact .next h.waitAnswer
    · exact .next h.setRod.waitMark
  · exact .next h.failRod

theorem execWaitRecordPublished_kept {rod} (h : Kept cs s) : KeptOut cs (execWaitRecordPublished rod s) := by
  unfold execWaitRecordPublished
  dsimp only
  split
  · split
    · exact .next h.waitAnswer.waitMark
    · exact .next h
  · exact .next h

theorem Kept.latchLoss {n i seq} (h : Kept cs s) : Kept cs (s.latchLoss n i seq) := h.setPairing

theorem Kept.releaseNow {n i p seq} (h : Kept cs s) : Kept cs (s.releaseNow n i p seq) :=
  .ite h.endHold.setRunCmd.latchLoss h.endHold.setRunCmd

theorem execRelease_kept {rod seq parts} (h : Kept cs s) : KeptOut cs (execRelease rod seq parts s) := by
  unfold execRelease
  refine polled_kept (.ite (.next h) ?_)
  dsimp only
  split
  · refine .ite (.next h.failRod) ?_
    split
    · exact .next h
    · exact .ite (.next h.releaseNow) (.next h.setPairing)
  · exact .next h.failRod

theorem Kept.setWaiter {rod f} (h : Kept cs s) : Kept cs (s.setWaiter rod f) := by
  unfold State.setWaiter
  dsimp only
  split
  · exact h.setRod
  · exact h.setRod
  · exact h.setCtx

theorem Kept.waitStalled {rod} (h : Kept cs s) : Kept cs (s.waitStalled rod) := by
  unfold State.waitStalled
  split
  · exact h
  · split
    · exact h
    · exact .ite h h.setWaiter.errRec

theorem execTyStall_kept {rod} (h : Kept cs s) : KeptOut cs (execTyStall rod s) := .next h.waitStalled

theorem Kept.waitAborted {rod} (h : Kept cs s) : Kept cs (s.waitAborted rod) := by
  unfold State.waitAborted
  split
  · exact h
  · split
    · exact h
    · exact .ite h h.setWaiter.failCtx.waitMark

theorem execTyTimeout_kept {rod} (h : Kept cs s) : KeptOut cs (execTyTimeout rod s) := .next h.waitAborted

theorem Kept.kernel {rod p n i a r f call} (h : Kept cs s) : Kept cs (s.kernel rod p n i a r f call) := by
  unfold State.kernel
  extract_lets +onlyGivenNames bad l nan v c k stream slot
  split
  next s1 ts heq =>
    have h1 : Kept cs s1 := by
      rw [show s1 = (s1, ts).1 from rfl, ← heq]
      exact .ite_fst h.supply h
    extract_lets rows ghs dh dw sum kl acc ft ht nsw s2 src s3 s4 s5 y s6
    have h2 : Kept cs s2 := by
      unfold s2
      split
      · exact h1.errRec
      · exact h1
    have h4 : Kept cs s4 := h2.setRod.orNsw
    have h6 : Kept cs s6 := (Kept.ite h4.record h4).setPairing
    exact .ite h6.addO.releaseNow h6

theorem execLossKernel_kept {rod call} (h : Kept cs s) : KeptOut cs (execLossKernel rod call s) := by
  unfold execLossKernel
  refine .ite (.next h) ?_
  dsimp only
  split
  · refine .ite (.next h.failRod) ?_
    split
    · exact .next h
    · split
      · exact .next h.kernel
      · exact .next h.failRod
      · exact .next h
  · exact .next h.failRod

theorem Kept.hvEnable {path p value} (h : Kept cs s) : Kept cs (s.hvEnable path p value).1 :=
  .ite_fst h (.ite_fst h.setO (.ite_fst h (.ite_fst h.setO h.setO.setO.setO.setHarvest)))

theorem execHarvestRecordCopy_kept {part} (h : Kept cs s) : KeptOut cs (execHarvestRecordCopy part s) := by
  unfold execHarvestRecordCopy
  extract_lets hv
  split
  · exact .next h
  refine .ite (.next h.setHarvest.setHarvest.addO) ?_
  extract_lets s1 head
  have h1 : Kept cs s1 := .ite h.setHarvest.setO.addO h.setHarvest
  split
  · exact .next h1.addO
  · exact .ite (.next h1.ldWrite.errRec.addO) (.next h1.ldWrite.setO.addO)

end Sys2Proof.Machine
end

section
/-! Events scheduled for a stroke (Machine/Events.lean). -/

namespace Sys2Proof.Machine

open Sys2Proof

variable {cs : List Instr} {s : State}

theorem Kept.abandonCopy {p} (h : Kept cs s) : Kept cs (s.abandonCopy p) := .ite h h.setMirror.errRec

theorem Kept.fire {a} (h : Kept cs s) : Kept cs (s.fire a) := by
  unfold State.fire
  split
  · exact h.retestPeers
  · exact h.expireVia
  · exact h.advertise
  · exact h.recover
  · exact h.endQuarantine
  · exact h.waitStalled
  · exact h.waitAborted
  · exact h.drainLate
  · exact h.formLate
  · exact h.bucketLate
  · exact h.verdictLate
  · exact h.abandonCopy

theorem Kept.strokeEvents {k} (h : Kept cs s) : Kept cs (s.strokeEvents k) := h.countWaits.foldl fun _ _ h => h.fire

end Sys2Proof.Machine
end

section
/-! The fatal-device state and the loss of the volatile state (Machine/FaultOps.lean). -/

namespace Sys2Proof.Machine

open Sys2Proof

variable {cs : List Instr} {s : State}

theorem Kept.winRefused {a} (h : Kept cs s) : Kept cs (s.winRefused a) := by
  unfold State.winRefused
  split
  · exact h
  · exact h.update

theorem Kept.closeWindow (h : Kept cs s) : Kept cs s.closeWindow := (h.update.foldl fun _ _ h => h.winRefused).setO

theorem Kept.dropWork (h : Kept cs s) : Kept cs s.dropWork := h.update.foldl fun _ _ h => h.setPart

theorem Kept.enterFatal (h : Kept cs s) : Kept cs s.enterFatal :=
  .ite h (((((h.setO.dropWork.foldl fun _ _ h => h.endAllRuns).foldl fun _ _ h => h.setRod).foldl fun _ _ h =>
          h.completeLive).foldl fun _ _ h => .ite h h.toAbsent).closeWindow.update.foldl fun _ _ h => h.foldl
      fun _ _ h => h.flushQueue)

theorem Kept.fatalRec {r} (h : Kept cs s) : Kept cs (s.fatalRec r) := h.errRec.enterFatal

theorem Kept.lost {cause keep} (h : Kept cs s) : Kept cs (s.lost cause keep) := h.setDecks fun _ => rfl

end Sys2Proof.Machine
end

section
/-! The start of a stroke (Machine/StrokeOps.lean). -/

namespace Sys2Proof.Machine

open Sys2Proof

variable {cs : List Instr} {s : State}

theorem Kept.noteLevel (h : Kept cs s) : Kept cs s.noteLevel := h.update

theorem Kept.refreshLedger {g ring} (h : Kept cs s) : Kept cs (s.refreshLedger g ring) := .update (.ite h.addO h)

theorem Kept.setLevels {n waited} (h : Kept cs s) : Kept cs (s.setLevels n waited) := h.update

theorem Kept.writeLedger {rec} (h : Kept cs s) : Kept cs (s.writeLedger rec) := h.update.setO

theorem Kept.beginStroke {n g hold skips} (h : Kept cs s) : Kept cs (s.beginStroke n g hold skips) := by
  unfold State.beginStroke
  extract_lets old m s1 s2 s3 s4 s5 s6 s7
  have h5 : Kept cs s5 := h.setO.refreshLedger.setLevels.refillBudgets.strokeEvents
  have h6 : Kept cs s6 := .ite h5.writeLedger h5
  have h7 : Kept cs s7 := .ite (h6.addO.foldl fun _ _ h => .ite h.setNum h) h6
  exact h7.addO.update.pollAll

theorem Kept.holdoverStroke {n} (h : Kept cs s) : Kept cs (s.holdoverStroke n) := h.setO.beginStroke

theorem Kept.timebaseConflict (h : Kept cs s) : Kept cs s.timebaseConflict := .ite h h.update.errRec

theorem Kept.strokeFrame {n g} (h : Kept cs s) : Kept cs (s.strokeFrame n g) :=
  .ite h.update.setO.beginStroke
    (.ite h.update.setO.beginStroke (.ite (.ite h.update.addO.setO h.update.addO.timebaseConflict) h.update.addO))

theorem Kept.governDown {k} (h : Kept cs s) : Kept cs (s.governDown k) := h.update.noteLevel

end Sys2Proof.Machine
end

section
/-! Firmware images and banks (Machine/FwOps.lean). -/

namespace Sys2Proof.Machine

open Sys2Proof

variable {cs : List Instr} {s : State}

theorem Kept.setBank {b v} (h : Kept cs s) : Kept cs (s.setBank b v) := h.update

theorem Kept.chooseBank (h : Kept cs s) : Kept cs s.chooseBank := by
  unfold State.chooseBank
  extract_lets drop s1 a b pref x s2
  have hdrop {s b} (h : Kept cs s) : Kept cs (drop s b) := .ite h.setBank h
  exact (Kept.ite (hdrop (hdrop h)).setBank (hdrop (hdrop h))).setO

theorem Kept.extend {k value} (h : Kept cs s) : Kept cs (s.extend k value) := h.update

theorem Kept.loadImage {i} (h : Kept cs s) : Kept cs (s.loadImage i).1 := by
  unfold State.loadImage
  refine .ite_fst ?_ ?_
  · dsimp only
    split
    · exact h.update.extend
    · exact h.update
  · refine .ite_fst ?_ h
    refine .setO ?_
    dsimp only
    split
    · exact h.update.extend
    · exact h.update

theorem Kept.addCause {c} (h : Kept cs s) : Kept cs (s.addCause c) := h.setO

theorem Kept.enterRestricted {bad} (h : Kept cs s) : Kept cs (s.enterRestricted bad) :=
  h.setO.foldl fun _ _ h => h.errRec

theorem Kept.attReport {x} (h : Kept cs s) (hx : s.attReport = some x) : Kept cs x.1 := by
  unfold State.attReport at hx
  split at hx
  · cases hx
  · cases hx; exact h.update

theorem Kept.fwStatus {st} (h : Kept cs s) : Kept cs (s.fwStatus st) := h.setO

theorem Kept.writeImage {path image bank} (h : Kept cs s) : Kept cs (s.writeImage path image bank).1 :=
  .ite_fst h (.ite_fst h (.ite_fst h h.setBank.update.fwStatus))

theorem Kept.selectBank {path bank} (h : Kept cs s) : Kept cs (s.selectBank path bank).1 :=
  .ite_fst h (.ite_fst h (.ite_fst h h.setBank.fwStatus))

theorem Kept.commitSvn (h : Kept cs s) : Kept cs s.commitSvn.1 := .ite_fst h h.update.fwStatus

theorem Kept.fwControl {path v} (h : Kept cs s) : Kept cs (s.fwControl path v).1 := by
  unfold State.fwControl
  split
  · exact h.writeImage
  · exact h.selectBank
  · exact h.commitSvn
  · exact h

end Sys2Proof.Machine
end

section
/-! Queues and doorbells (Machine/HostCmd.lean). -/

namespace Sys2Proof.Machine

open Sys2Proof

variable {cs : List Instr} {s : State}

theorem Kept.cfgRefuse {fn} (h : Kept cs s) : Kept cs (s.cfgRefuse fn) := h.setFunc

theorem Kept.enableSqWith {fn q e} (h : Kept cs s) : Kept cs (s.enableSqWith fn q e).1 := .ite_fst h h.setFunc

theorem Kept.enableSq {fn q} (h : Kept cs s) : Kept cs (s.enableSq fn q).1 := by
  unfold State.enableSq
  dsimp only
  split
  · exact h.setFunc.enableSqWith
  · exact h

theorem Kept.discardFetched {fn q} (h : Kept cs s) : Kept cs (s.discardFetched fn q) := h.setFunc.update

theorem Kept.disableSq {fn q} (h : Kept cs s) : Kept cs (s.disableSq fn q) := h.discardFetched.setFunc

theorem Kept.writeSq {fn q e} (h : Kept cs s) : Kept cs (s.writeSq fn q e) :=
  .ite h.setFunc.pendEnable
    (.ite h.cfgRefuse (.ite (.ite h h.disableSq) (.ite h.setFunc.dropPending (.ite h.enableSqWith h.cfgRefuse))))

theorem Kept.writeCq {fn q e} (h : Kept cs s) : Kept cs (s.writeCq fn q e) := .ite h.cfgRefuse h.setFunc

theorem Kept.dbIgnored {fn} (h : Kept cs s) : Kept cs (s.dbIgnored fn) := h.setFunc.addO

theorem Kept.takeRun {p c q} (h : Kept cs s) : Kept cs (s.takeRun p c q) := h.acceptHead.update.setCtx

theorem Kept.fetchProgram {p rods h'} (h : Kept cs s) : Kept cs (s.fetchProgram p rods h') := by
  unfold State.fetchProgram
  split
  · exact h
  · exact h.foldl fun _ _ h => h.update.outstanding0

theorem Kept.dispatch {p c q h' prog} (h : Kept cs s) : Kept cs (s.dispatch p c q h' prog) :=
  .ite h.takeRun.complete.afterRun
    ((h.takeRun.update.phaseTick.setCtx.update.foldl fun _ _ h => h.setRod).endYield.fetchProgram.holdOn.pollAll)

theorem Kept.slotPut {p n v} (h : Kept cs s) : Kept cs (s.slotPut p n v) := .ite h.update h.writeSlot

theorem Kept.slotsPut {p first data n k} (h : Kept cs s) : Kept cs (s.slotsPut p first data n k).1 := by
  induction n generalizing s k with
  | zero => exact h
  | succ n ih =>
    unfold State.slotsPut
    dsimp only
    split
    · exact ih h.slotPut
    · exact h
    · exact h

theorem Kept.flrOne {fn} (h : Kept cs s) : Kept cs (s.flrOne fn) := by
  unfold State.flrOne
  extract_lets s1 s2
  have h1 : Kept cs s1 := h.foldl fun _ _ h => .ite h h.discardFetched
  have h2 : Kept cs s2 := .ite h1 h1.endAllRuns
  exact h2.update.dropPending.update.setFunc

theorem Kept.startFlr {fn} (h : Kept cs s) : Kept cs (s.startFlr fn) := (h.foldl fun _ _ h => h.flrOne).pollAll

end Sys2Proof.Machine
end

section
/-! The partition and context commands (Machine/Partition.lean). -/

namespace Sys2Proof.Machine

open Sys2Proof

variable {cs : List Instr} {s : State}

theorem Kept.startZero {frames} (h : Kept cs s) : Kept cs (s.startZero frames) := h.foldl fun _ _ h => h.updateDecks

theorem Kept.endZero {frames} (h : Kept cs s) : Kept cs (s.endZero frames) :=
  h.foldl fun _ _ h => h.setRod.setDecks wf_zeroSlice

theorem Kept.ownFrames {frames o} (h : Kept cs s) : Kept cs (s.ownFrames frames o) := h.update

theorem Kept.ptCreate {p} (h : Kept cs s) : Kept cs (s.ptCreate p).1 :=
  .ite_fst h (.ite_fst h.pendEnable (.ite_fst h
        (.ite_fst h (.ite_fst h (.setO (.startZero (.setResident (h.ownFrames.setO.setPart.setDecks wf_newKey))))))))

theorem execCreateZeroingEnd_kept {p} (h : Kept cs s) : KeptOut cs (execCreateZeroingEnd p s) :=
  .ite (.next h) (.next h.endZero.setO.pollAll)

theorem Kept.ptAdd {p} (h : Kept cs s) : Kept cs (s.ptAdd p).1 :=
  .ite_fst h (.ite_fst h h.setPart.ownFrames.startZero)

theorem execAddZeroingEnd_kept {p} (h : Kept cs s) : KeptOut cs (execAddZeroingEnd p s) := by
  unfold execAddZeroingEnd
  dsimp only
  split
  · exact .next h
  · exact .ite (.next h) (.next h.endZero.ownFrames.setPart.setO)

theorem Kept.ptRemove {p} (h : Kept cs s) : Kept cs (s.ptRemove p).1 :=
  .ite_fst h (.ite_fst h h.setPart.setO.pollLedger)

theorem Kept.ptDestroy {p} (h : Kept cs s) : Kept cs (s.ptDestroy p).1 := by
  unfold State.ptDestroy
  exact .ite_fst h (.ite_fst (.pair h.dropPending) (.pair h.update.setPart.setO.endAllRuns))

theorem execQuiesceEnd_kept {p} (h : Kept cs s) : KeptOut cs (execQuiesceEnd p s) :=
  .ite (.next h) (.ite (.next h.setPart.cutStages.setO.ownFrames.startZero)
      (.ite (.next (.startZero (.ownFrames (.setO (.setPart (h.partEffects.setDecks wf_freeExtents)))))) (.next h)))

theorem execRemoveZeroingEnd_kept {p} (h : Kept cs s) : KeptOut cs (execRemoveZeroingEnd p s) :=
  .ite (.next h) (.ite (.next h.endZero.ownFrames.setPart.setO.pollAll)
      (.next (h.endZero.ownFrames.setPart.setO.firePending fun _ h => h.ptCreate)))

theorem Kept.ctxEnable {p c} (h : Kept cs s) : Kept cs (s.ctxEnable p c).1 := .ite_fst h.pendEnable h.enableCtx

theorem Kept.ctxDisable {p c} (h : Kept cs s) : Kept cs (s.ctxDisable p c).1 := by
  unfold State.ctxDisable
  have h1 {v} : Kept cs ((s.dropPending 2 (8 * p + c)).setCtx p c v) := h.dropPending.setCtx
  exact .ite_fst h.dropPending (.ite_fst (.pair h1.endRun.setCtx.pollAll)
    (.ite_fst (.pair h1) (.pair (.pollAll (.ite h1.setResident h1)))))

theorem Kept.ctxYield {p c} (h : Kept cs s) : Kept cs (s.ctxYield p c).1 := .ite_fst h.setCtx h

theorem Kept.evictNow {p c} (h : Kept cs s) : Kept cs (s.evictNow p c) := h.latchSched.noteReady.startSwitch

theorem Kept.ctxEvict {p c} (h : Kept cs s) : Kept cs (s.ctxEvict p c).1 :=
  .ite_fst h.setCtx (.ite_fst h (.ite_fst h.evictNow h.setCtx))

theorem execSliceExpiry_kept {p} (h : Kept cs s) : KeptOut cs (execSliceExpiry p s) :=
  .ite (.next h) (.ite (.next h.latchSched.noteReady.setPart) (.next h.latchSched.noteReady.setPart))

theorem execYieldGraceExpiry_kept {p} (h : Kept cs s) : KeptOut cs (execYieldGraceExpiry p s) := by
  unfold execYieldGraceExpiry
  refine .ite (.next h) ?_
  dsimp only
  split
  · exact .next (.ite h.latchSched.noteReady.setPart h.latchSched.noteReady.startSwitch)
  · exact .next h.latchSched.noteReady

theorem execWaitSwitchTimeout_kept {p} (h : Kept cs s) : KeptOut cs (execWaitSwitchTimeout p s) := by
  unfold execWaitSwitchTimeout
  refine .ite (.next h) ?_
  dsimp only
  split
  · exact .next (.ite h.latchSched.noteReady.startSwitch h.latchSched.noteReady)
  · exact .next h.latchSched.noteReady

theorem execHardSwitchSave_kept {p} (h : Kept cs s) : KeptOut cs (execHardSwitchSave p s) := by
  unfold execHardSwitchSave
  split
  · exact .next h
  · exact .ite (.next h) (.next (.setPart (.restoreIn (.ite h.saveOut h))))

theorem execHardSwitchEnd_kept {p} (h : Kept cs s) : KeptOut cs (execHardSwitchEnd p s) := by
  unfold execHardSwitchEnd
  split
  · exact .next h
  · exact .ite (.next h) (.ite (.next h.setPart.phaseTick.noteReady.setCtx.ctxEvict.pollAll)
        (.next h.setPart.phaseTick.noteReady.pollAll))

theorem execIiWindowEnd_kept {p routers grants twice} (h : Kept cs s) :
    KeptOut cs (execIiWindowEnd p routers grants twice s) :=
  .ite (.next h) (.next (.ite h.setPart.setO.setO.errRec h.setPart.setO.setO))

end Sys2Proof.Machine
end

section
/-! The reset kinds (Machine/ResetOps.lean). -/

namespace Sys2Proof.Machine

open Sys2Proof

variable {cs : List Instr} {s : State}

theorem Kept.coldReset (h : Kept cs s) : Kept cs s.coldReset.1 := .ite_fst h h.lost

theorem Kept.deviceReset (h : Kept cs s) : Kept cs s.deviceReset.1 := .ite_fst h h.lost.update

theorem Kept.startBoot (h : Kept cs s) : Kept cs s.startBoot := h.setO.chooseBank.update

theorem Kept.dropPartPending {p} (h : Kept cs s) : Kept cs (s.dropPartPending p) := h.update

theorem Kept.removeInReset {p} (h : Kept cs s) : Kept cs (s.removeInReset p) :=
  .ite h h.setPart.cutStages.setO.ownFrames

theorem Kept.partReset {path p} (h : Kept cs s) : Kept cs (s.partReset path p).1 := by
  unfold State.partReset
  exact .ite_fst h (.ite_fst h (.ite_fst h (.ite_fst (.pair h.dropPartPending)
    (.pair h.dropPartPending.setO.endAllRuns.partEffects.setPart.removeInReset))))

theorem Kept.funcReset {path fn} (h : Kept cs s) : Kept cs (s.funcReset path fn).1 := by
  unfold State.funcReset
  exact .ite_fst h (.ite_fst h (.ite_fst h (.pair h.startFlr)))

theorem Kept.resetLink {l} (h : Kept cs s) : Kept cs (s.resetLink l) :=
  .emitLink (.dropPending (.setLink (.ite h h.toAbsent)))

theorem Kept.portReset {path port} (h : Kept cs s) : Kept cs (s.portReset path port).1 :=
  .ite_fst h (.ite_fst h (.ite_fst h.startFlr.setFunc ((h.foldl fun _ _ h => h.resetLink).update)))

theorem Kept.resetControl {path v} (h : Kept cs s) : Kept cs (s.resetControl path v).1 := by
  unfold State.resetControl
  dsimp only
  split
  · exact h.coldReset
  · exact h.deviceReset
  · exact h.partReset
  · exact h.funcReset
  · exact h.portReset
  · exact h

end Sys2Proof.Machine
end

section
/-! The serving commands (Machine/Serving.lean). -/

namespace Sys2Proof.Machine

open Sys2Proof

variable {cs : List Instr} {s : State}

theorem Kept.zeroTables (h : Kept cs s) : Kept cs s.zeroTables := by
  unfold State.zeroTables
  split
  · exact h.setDecks fun hd => wf_tclear hd _ _
  · exact h

theorem Kept.svStart (h : Kept cs s) : Kept cs s.svStart.1 :=
  .ite_fst h (.ite_fst h (.ite_fst h h.zeroTables.latchAccts.update.setO.setO.svCounts))

theorem Kept.svStop (h : Kept cs s) : Kept cs s.svStop.1 := .ite_fst h h.update

theorem Kept.svDrain (h : Kept cs s) : Kept cs s.svDrain.1 := .ite_fst h h.setO

theorem Kept.submit {i r} (h : Kept cs s) : Kept cs (s.submit i r) := h.setReq.setRx.setAcct.svCounts

theorem execSvSubmit_kept {fn q} (h : Kept cs s) : KeptOut cs (execSvSubmit fn q s) := by
  refine .next (h.immediate fun h ht => ?_)
  dsimp only at ht
  split at ht
  · cases ht
  · split at ht
    · cases ht
    · cases ht; exact h.submit.complete

theorem Kept.cancelReq {i} (h : Kept cs s) : Kept cs (s.cancelReq i) := .ite h h.setReq.setRx

theorem execSvCancel_kept {fn q} (h : Kept cs s) : KeptOut cs (execSvCancel fn q s) := by
  refine .next (h.immediate fun h ht => ?_)
  dsimp only at ht
  split at ht
  · cases ht
  · split at ht
    · cases ht
    · cases ht; exact h.cancelReq.complete

theorem Kept.settleDemotion {m} (h : Kept cs s) : Kept cs (s.settleDemotion m) :=
  .ite h.update.setPage.setPage (.ite h.update.setPage.setPage h.update.setPage.setPage.relink)

theorem Kept.closeChan {c} (h : Kept cs s) : Kept cs (s.closeChan c) := h.foldl fun _ _ h => h.setRx.setReq.leave.addO

theorem Kept.chanBoundary {c} (h : Kept cs s) : Kept cs (s.chanBoundary c) := by
  unfold State.chanBoundary
  extract_lets x s1 s2 mine
  have h1 : Kept cs s1 := by
    unfold s1
    split
    · exact .ite (.ite h.setO.setO.setO.setO.setChan.closeChan h.setO.setO.setO.setO.setChan) h.setChan
    · exact h
  have h2 : Kept cs s2 := h1.drainChan
  exact .ite (h2.foldl fun _ _ h => .ite h.setReq h) (.ite h2 (h2.foldl fun _ _ h => h.setRx.setReq).addO)

theorem Kept.leaveAll (h : Kept cs s) : Kept cs s.leaveAll :=
  h.foldl fun _ _ h => .ite h.leave (.ite h.leave (.ite h.leave h))

theorem Kept.grantPositions (h : Kept cs s) : Kept cs s.grantPositions.1 :=
  ((h.foldl fun _ _ h => h.setRx).foldl_fst fun _ _ h => h.setRx).foldl_fst fun _ _ h => h.setRx

theorem Kept.pauseReq {i} (h : Kept cs s) : Kept cs (s.pauseReq i) := h.freePages.setReq.setRx.setAcct.addO

theorem Kept.pauseUntil {n any} (h : Kept cs s) : Kept cs (State.pauseUntil n s any).1 := by
  induction n generalizing s any with
  | zero => exact h
  | succ n ih =>
    unfold State.pauseUntil
    refine .ite_fst h ?_
    split
    · exact h
    · exact ih h.pauseReq

theorem Kept.allocAll (h : Kept cs s) : Kept cs s.allocAll := h.foldl fun _ _ h => .ite h h.growPages

theorem Kept.clearCredits (h : Kept cs s) : Kept cs s.clearCredits := h.foldl fun _ _ h => .ite h.setAcct h

theorem Kept.creditRound {l} (h : Kept cs s) : Kept cs (s.creditRound l).1 := by
  unfold State.creditRound
  dsimp only
  split
  · exact h.foldl fun _ _ h => h.setAcct
  · exact (h.foldl fun _ _ h => h.setAcct).setAcct

theorem Kept.admitReq {i c} (h : Kept cs s) : Kept cs (s.admitReq i c) := h.dequeue.update.setRx.setReq.growPages

theorem Kept.admitAll {n left} (h : Kept cs s) : Kept cs (State.admitAll n left s) := by
  induction n generalizing s left with
  | zero => exact h
  | succ n ih =>
    unfold State.admitAll
    refine .ite h.clearCredits ?_
    have hr {l} : Kept cs (s.clearCredits.creditRound l).1 := h.clearCredits.creditRound
    dsimp only
    split
    · exact hr
    · split
      · exact hr
      · exact .ite hr (.ite hr.addO (ih hr.admitReq))

theorem Kept.demote {n l} (h : Kept cs s) : Kept cs (State.demote n l s) := by
  induction n generalizing s l with
  | zero => exact h
  | succ n ih =>
    cases l with
    | nil => exact h
    | cons d l => exact .ite h (ih h.setPage.setPage.update)

theorem Kept.boundary (h : Kept cs s) : Kept cs s.boundary := by
  unfold State.boundary
  extract_lets s1 s2 s3
  have h3 : Kept cs s3 := (h.latchAccts.foldl fun _ _ h => h.settleDemotion).leaveAll.foldl fun _ _ h =>
    h.chanBoundary
  clear_value s3
  refine .ite h3.setO.update.svCounts ?_
  exact .svCounts (.update (.demote (.ite h3.grantPositions.pauseUntil.allocAll
    h3.grantPositions.pauseUntil.allocAll.admitAll)))

theorem execServingBoundary_kept (h : Kept cs s) : KeptOut cs (execServingBoundary s) := .next (.ite h h.boundary)

theorem Kept.copySlot {draft d e} (h : Kept cs s) : Kept cs (s.copySlot draft d e).1 := by
  unfold State.copySlot
  dsimp only
  split
  · exact .ite_fst h.errRec h.ldWrite
  · exact h

theorem execDemotionCopyEnd_kept {d} (h : Kept cs s) : KeptOut cs (execDemotionCopyEnd d s) := by
  unfold execDemotionCopyEnd
  split
  · exact .next h
  · exact .next (.ite (.update (.ite_fst h.copySlot.copySlot h.copySlot))
        (.badReq (.update (.ite_fst h.copySlot.copySlot h.copySlot))))

theorem Kept.readFails {p i a} (h : Kept cs s) : Kept cs (s.readFails p i a) := h.errRec.badReq

theorem execDraftPhase_kept (h : Kept cs s) : KeptOut cs (execDraftPhase s) := by
  unfold execDraftPhase
  refine .ite (.next h) (.ite ?_ (.next h))
  refine .next (.update ?_)
  refine .foldl h fun _ _ h => ?_
  split
  · exact h.readFails
  · exact h

theorem Kept.countVerify {i} (h : Kept cs s) : Kept cs (s.countVerify i) := h.setReq.addO.addO.fillPages

theorem execVerifyPhase_kept (h : Kept cs s) : KeptOut cs (execVerifyPhase s) :=
  .ite (.next h)
    (.ite (.next ((h.foldl fun _ _ h => .ite h.countVerify (.badReq (.ite h.errRec h))).update.svCounts)) (.next h))

theorem wf_putRows {d : Decks} {a : Nat} {rows : List (List Byte × List Byte)} (h : Memory.wf d.ud = true) :
    Memory.wf (d.putRows a rows).ud = true :=
  List.foldlRecOn (motive := fun (d : Decks) => Memory.wf d.ud = true) _ _ h fun _ hd _ _ => wf_udWrite (wf_udWrite hd)

theorem Kept.harvestTokens {i n pos} (h : Kept cs s) : Kept cs (s.harvestTokens i n pos) := by
  unfold State.harvestTokens
  refine .ite h (.ite h.addO ?_)
  dsimp only
  split
  · exact h.draw.setHarvest.setDecks fun hd => wf_udWrite (wf_putRows hd)
  · exact h.draw.setHarvest

theorem Kept.deliverTokens {i result} (h : Kept cs s) : Kept cs (s.deliverTokens i result) :=
  .harvestTokens (.ite (h.foldl fun _ _ h => h.postRec) ((h.foldl fun _ _ h => h.postRec).setReq.setRx))

theorem Kept.deliverReq {i} (h : Kept cs s) : Kept cs (s.deliverReq i) := by
  unfold State.deliverReq
  extract_lets r x n bad
  split
  extract_lets s1 s2
  have h2 : Kept cs s2 := .ite h.setReq.addO h.setReq
  exact .ite h2 (.ite h2.deliverTokens (.ite h2.deliverTokens (.ite h2.badReq (.ite h2.setReq h2))))

theorem Kept.chargeAccts (h : Kept cs s) : Kept cs s.chargeAccts := h.foldl fun _ _ h => .ite h h.setAcct

theorem execDelivery_kept (h : Kept cs s) : KeptOut cs (execDelivery s) :=
  .ite (.next h) (.next ((h.foldl fun _ _ h => h.deliverReq).chargeAccts.setO.update.svCounts))

theorem execJettonRow_kept {rod row} (h : Kept cs s) : KeptOut cs (execJettonRow rod row s) := by
  unfold execJettonRow
  refine .ite (.next h) ?_
  split
  · exact .next h.failRod
  · exact .ite (.next h) (.next h.update)

theorem Kept.sampled {d u} (h : Kept cs s) : Kept cs (s.sampled d u).1 := by
  unfold State.sampled
  split
  · exact h
  · exact h.draw

theorem Kept.pick {r d stream pos} (h : Kept cs s) : Kept cs (s.pick r d stream pos).1 := .ite_fst h h.sampled

theorem Kept.rowOutcome {q x} (h : Kept cs s) (hx : s.rowOutcome q = .ok x) : Kept cs x.1 := by
  unfold State.rowOutcome at hx
  dsimp only at hx
  split at hx
  · cases hx
  · split at hx
    · cases hx
    · split at hx
      · cases hx; exact h.pick
      · split at hx
        · cases hx; exact h.pick
        · split at hx
          · cases hx
          · split at hx
            · cases hx; exact h
            · cases hx; exact h.pick

theorem Kept.emit {i token drafted} (h : Kept cs s) : Kept cs (s.emit i token drafted) := by
  unfold State.emit
  refine .ite h ?_
  dsimp only
  refine .setRx ?_
  split
  · exact .ite (h.setDecks wf_udWrite).errRec (h.setDecks wf_udWrite)
  · exact h

theorem Kept.resolve {i n} (h : Kept cs s) : Kept cs (State.resolve i n s) := by
  induction n generalizing s with
  | zero => exact h
  | succ n ih =>
    unfold State.resolve
    refine .ite h ?_
    split
    · exact h
    · exact ih h.emit.setRx
    · exact h.emit.setRx

theorem Kept.countRow {die cycles} (h : Kept cs s) : Kept cs (s.countRow die cycles) := h.update

theorem execJettonRowDone_kept {die} (h : Kept cs s) : KeptOut cs (execJettonRowDone die s) := by
  unfold execJettonRowDone
  split
  · exact .next h
  refine .ite (.next h.update.countRow) ?_
  dsimp only
  split
  · exact .next (.badReq (.ite h.update.countRow.errRec h.update.countRow))
  next hr =>
    have h1 := h.update.rowOutcome hr
    exact .ite (.next h1.countRow.setRod.setRx) (.next h1.countRow.setRod.setRx.resolve)

theorem Kept.ringChange {path c base entries} (h : Kept cs s) : Kept cs (s.ringChange path c base entries).1 :=
  .ite_fst h (.ite_fst h.setO.setO.setO.setO.setChan.drainChan h.setChan)

theorem Kept.dbError {fn} (h : Kept cs s) : Kept cs (s.dbError fn) := h.setFunc.addO

theorem Kept.chTail {c value} (h : Kept cs s) : Kept cs (s.chTail c value) := .ite h.dbError h.setO.drainChan

theorem execCqChTail_kept {fn c value} (h : Kept cs s) : KeptOut cs (execCqChTail fn c value s) :=
  .next (.ite h (.ite h.dbError h.chTail))

end Sys2Proof.Machine
end

section
/-! Reading the dictionary (Machine/DictRead.lean). -/

namespace Sys2Proof.Machine

open Sys2Proof

variable {cs : List Instr} {s : State}

theorem Kept.readObject {path key off len part x} (h : Kept cs s) (hx : s.readObject path key off len part = .ok x) :
    Kept cs x.1 := by
  unfold State.readObject at hx
  split at hx
  · cases hx
  · split at hx
    · cases hx
    · split at hx
      · cases hx
      · split at hx
        · split at hx
          next q hq => cases hx; exact Kept.attReport (x := q) h hq
          next => cases hx
        · cases hx; exact .ite h.setO h

end Sys2Proof.Machine
end

section
/-! The mesh commands (Machine/Mesh.lean). -/

namespace Sys2Proof.Machine

open Sys2Proof

variable {cs : List Instr} {s : State}

theorem Kept.failPacket {part id st} (h : Kept cs s) : Kept cs (s.failPacket part id st) := by
  unfold State.failPacket
  split
  · exact h.failIssuer
  · exact h.failRun

theorem Kept.landWrite {pkt addr id data} (h : Kept cs s) : Kept cs (s.landWrite pkt addr id data) := by
  unfold State.landWrite
  extract_lets a
  refine .ite h.failPacket (.ite h.failPacket ?_)
  have h1 : Kept cs { s with decks := (s.decks.udWrite a data).1 } := h.setDecks wf_udWrite
  exact .ite (.sendAck (.ite h1.errRec.failPacket h1)) (.ite h1.errRec.failPacket h1)

theorem Kept.deliver {pkt} (h : Kept cs s) : Kept cs (s.deliver pkt) := by
  unfold State.deliver
  split
  · exact h.landWrite
  · exact h.update
  · exact .ite h.ackDone h
  · exact h
  · exact h

theorem Kept.isolationDrop {pkt} (h : Kept cs s) : Kept cs (s.isolationDrop pkt) := by
  unfold State.isolationDrop
  extract_lets o s1 s2 src refuse
  have h2 : Kept cs s2 := (Kept.ite h.addO h).errRec
  have hrefuse {id} : Kept cs (refuse id) := by
    unfold refuse
    split
    · exact h2.update.failRequest
    · exact .ite h2.failRun h2
  split
  · exact hrefuse
  · exact hrefuse
  · exact h2

theorem execMeshPacketDelivery_kept {pkt} (h : Kept cs s) : KeptOut cs (execMeshPacketDelivery pkt s) := by
  unfold execMeshPacketDelivery
  refine .ite (.next h) ?_
  split
  · exact .next h.countLost
  · exact .ite (.next h) (.ite (.next h.update.deliver) (.next h.update.isolationDrop))

theorem execVc0RequestTimeout_kept {id} (h : Kept cs s) : KeptOut cs (execVc0RequestTimeout id s) := by
  unfold execVc0RequestTimeout
  split
  · exact .next h
  · exact .ite (.next h) (.next h.update.errRec.failRequest)

theorem execFlitError_kept {rod} (h : Kept cs s) : KeptOut cs (execFlitError rod s) :=
  .ite (.next h) (.next (.ite h.setRod.autoFence h.setRod))

theorem execRouterSelfCheckFail_kept {rod} (h : Kept cs s) : KeptOut cs (execRouterSelfCheckFail rod s) :=
  .ite (.next h) (.next h.autoFence)

theorem execControlCoreWatchdog_kept {rod} (h : Kept cs s) : KeptOut cs (execControlCoreWatchdog rod s) :=
  .ite (.next h) (.next (.ite h.setRod.autoFence h.setRod))

theorem Kept.fenceRequest {value} (h : Kept cs s) : Kept cs (s.fenceRequest value).1 :=
  .ite_fst h (.ite_fst h (.ite_fst h h.startFence))

theorem execRouteTablesComputed_kept {tables} (h : Kept cs s) : KeptOut cs (execRouteTablesComputed tables s) :=
  .ite (.next h) (.next h.update)

theorem execRouteEpochDrainEnd_kept (h : Kept cs s) : KeptOut cs (execRouteEpochDrainEnd s) :=
  .ite (.next h) (.next h.update)

theorem execCoreFenceComplete_kept {rod} (h : Kept cs s) : KeptOut cs (execCoreFenceComplete rod s) :=
  .ite (.next h.setRod) (.next h)

end Sys2Proof.Machine
end

section
/-! The numerics commands (Machine/Numerics.lean). -/

namespace Sys2Proof.Machine

open Sys2Proof

variable {cs : List Instr} {s : State}

theorem Kept.startRun {p} (h : Kept cs s) : Kept cs (s.startRun p).1 := .ite_fst h h.beginRun

theorem Kept.endRunNum {p} (h : Kept cs s) : Kept cs (s.endRunNum p).1 := by
  unfold State.endRunNum
  exact .ite_fst (.pair h.reckEndRun.idleRun) h

theorem execNumericsStateRead_kept {rod ask} (h : Kept cs s) : KeptOut cs (execNumericsStateRead rod ask s) :=
  .ite (.next h)
    (.ite (.next h.failRod) (.ite (.next h.setRod) (.ite (.next h.setRod) (.ite (.next h.setRod) (.next h.failRod)))))

theorem execNumericsStateWaitEnd_kept {rod} (h : Kept cs s) : KeptOut cs (execNumericsStateWaitEnd rod s) := by
  unfold execNumericsStateWaitEnd
  dsimp only
  split
  · exact .ite (.next h.setRod.failRod) (.ite (.next h.setRod) (.next h))
  · exact .next h

theorem execSlotTsQuery_kept {rod slot} (h : Kept cs s) : KeptOut cs (execSlotTsQuery rod slot s) :=
  .ite (.next h) (.ite (.next h.failRod) (.next h.setRod))

theorem execPhaseMark_kept {rod backward} (h : Kept cs s) : KeptOut cs (execPhaseMark rod backward s) :=
  .ite (.next h) (.next h.phaseTick.setRunCmd)

theorem execRootJobEnd_kept {reck fb} (h : Kept cs s) : KeptOut cs (execRootJobEnd reck fb s) := by
  unfold execRootJobEnd
  refine polled_kept ?_
  split
  · exact .next h
  · refine .ite (.next h) ?_
    dsimp only
    split
    · exact .next h.update.rootWork.addO.rootFailed
    · exact .next h.update.rootWork.addO.update.setFactorBlock.addO

end Sys2Proof.Machine
end

section
/-! The deck commands (Machine/Deck.lean). -/

namespace Sys2Proof.Machine

open Sys2Proof

variable {cs : List Instr} {s : State}

theorem Kept.sparesGone {rod} (h : Kept cs s) : Kept cs (s.sparesGone rod) := .ite h h.updateDecks.errRec

theorem Kept.correctedRead {rod off} (h : Kept cs s) : Kept cs (s.correctedRead rod off) := by
  unfold State.correctedRead
  dsimp only
  exact .ite h.setRod.updateDecks (.ite h.setRod.updateDecks h.setRod.updateDecks.sparesGone)

theorem Kept.sliceDo {rod who q} (h : Kept cs s) : Kept cs (s.sliceDo rod who q) := by
  unfold State.sliceDo
  split
  · extract_lets a part src s1 ws src' s2
    have h1 : Kept cs s1 := h.updateDecks
    have h2 : Kept cs s2 := by
      refine .ite h1 ?_
      split
      · exact h1.updateDecks
      · exact h1.correctedRead
      · exact h1
    clear_value s1 s2
    exact .ite h1.failRun (.ite (h2.setDecks wf_udWrite).errRec.failRun (h2.setDecks wf_udWrite))
  · extract_lets a part src s1 src' r s2
    have h1 : Kept cs s1 := by
      unfold s1
      split
      · exact h.updateDecks
      · exact h
    have h2 : Kept cs s2 := h1.updateDecks
    clear_value s1 s2
    refine .ite h1.updateDecks.errRec.tableRead ?_
    split
    · exact h2.correctedRead
    · exact h2

theorem execSliceAccess_kept {rod deckPort mesh reckoner} (h : Kept cs s) :
    KeptOut cs (execSliceAccess rod deckPort mesh reckoner s) := by
  unfold execSliceAccess
  refine .ite (.next h) ?_
  dsimp only
  split
  · exact .next h.updateDecks.sliceDo
  · exact .next h.updateDecks

theorem execRowSpareCopyEnd_kept {rod row} (h : Kept cs s) : KeptOut cs (execRowSpareCopyEnd rod row s) :=
  .ite (.next h.updateDecks.sparesGone) (.next h)

theorem execPatrolScrub_kept {lower addr ecc} (h : Kept cs s) : KeptOut cs (execPatrolScrub lower addr ecc s) := by
  unfold execPatrolScrub
  refine .ite ?_ ?_
  · refine .ite (.next h) ?_
    split
    · exact .next h
    · exact .next h.updateDecks
    · exact .next h.updateDecks.errRec
  · refine .ite (.next h) ?_
    split
    · exact .next h
    · exact .next h.correctedRead
    · exact .next h.updateDecks.errRec.tableRead

theorem execSliceZeroingEnd_kept {rod} (h : Kept cs s) : KeptOut cs (execSliceZeroingEnd rod s) :=
  .ite (.next h) (.next (h.setDecks wf_zeroSlice))

theorem Kept.beginFill {ext owner} (h : Kept cs s) : Kept cs (s.beginFill ext owner) := .ite h.updateDecks h

theorem execExtentZeroFillEnd_kept {done} (h : Kept cs s) : KeptOut cs (execExtentZeroFillEnd done s) := by
  unfold execExtentZeroFillEnd
  refine .ite (.next h.beginFill) ?_
  split
  · exact .next h
  · refine .ite ?_ (.next (h.setDecks wf_zeroExtent))
    dsimp only
    split
    · exact .next (.setPart (h.setDecks wf_zeroExtent))
    · exact .next (h.setDecks wf_zeroExtent)

theorem execStagePush_kept {rod desc} (h : Kept cs s) : KeptOut cs (execStagePush rod desc s) :=
  .ite (.next h) (.ite (.next h.queueStage) (.next h.setRod))

theorem execStageStart_kept {go} (h : Kept cs s) : KeptOut cs (execStageStart go s) := by
  unfold execStageStart
  refine polled_kept (.ite (.next h) ?_)
  split
  · exact .next h
  · exact .ite (.next h.endStage) (.next (.pumpStages (.queueUnits (.ite (h.setPart.setDecks wf_ldFind) h.setPart))))

theorem Kept.landStage {p id row off len} (h : Kept cs s) : Kept cs (s.landStage p id row off len) := by
  unfold State.landStage
  split
  · exact h
  · extract_lets lost
    split
    next s1 k st heq =>
      have h1 : Kept cs s1 := by
        rw [show s1 = (s1, k, st).1 from rfl, ← heq]
        exact h.stageMove
      exact .ite (.ite (.svLost (.ite h1.setCtx h1)) (.ite h1.setCtx h1))
        (.failStage (.ite (.svLost (.ite h1.setCtx h1)) (.ite h1.setCtx h1)))

theorem execStageEnd_kept {part id} (h : Kept cs s) : KeptOut cs (execStageEnd part id s) := by
  unfold execStageEnd
  refine polled_kept ?_
  split
  · exact .next h
  · exact .ite (.next h) (.next h.endStage)

theorem execStageFenceWait_kept {rod fence value} (h : Kept cs s) :
    KeptOut cs (execStageFenceWait rod fence value s) :=
  .ite (.ite (.next h.setRod) (.next h.setRod)) (.next h)

end Sys2Proof.Machine
end

section
/-! The host port (Machine/Host.lean). -/

namespace Sys2Proof.Machine

open Sys2Proof

variable {cs : List Instr} {s : State}

theorem Kept.barRead {fn r} (h : Kept cs s) : Kept cs (s.barRead fn r) := h.update

theorem Kept.openWindow (h : Kept cs s) : Kept cs s.openWindow := .ite h h.setO

theorem execHostLinkTrained_kept {rate width} (h : Kept cs s) : KeptOut cs (execHostLinkTrained rate width s) :=
  .ite (.next h) (.ite (.next h.setO.setO.update.setO.closeWindow.errRec)
      (.next (.ite h.setO.setO.update.setO h.setO.setO.update.setO.openWindow)))

theorem execHostLinkDown_kept (h : Kept cs s) : KeptOut cs (execHostLinkDown s) := .next h.setO.setO

theorem execVfEnable_kept {numVfs enable} (h : Kept cs s) : KeptOut cs (execVfEnable numVfs enable s) :=
  .ite (.next h) (.next (((h.foldl fun _ _ h => h.flrOne.setFunc).foldl fun _ _ h => h.setFunc).setO.pollAll))

theorem Kept.enableFn {fn} (h : Kept cs s) : Kept cs (s.enableFn fn).1 := by
  unfold State.enableFn
  dsimp only
  exact h.setFunc.pollAll

theorem Kept.clearStatus {fn status} (h : Kept cs s) : Kept cs (s.clearStatus fn status) := h.setFunc

theorem Kept.funcControl {fn v} (h : Kept cs s) : Kept cs (s.funcControl fn v) :=
  .ite (.ite h.pendEnable h.enableFn) (.ite h.dropPending.setFunc h.dropPending)

theorem execCqFuncCtrl_kept {fn wr} (h : Kept cs s) : KeptOut cs (execCqFuncCtrl fn wr s) := by
  unfold execCqFuncCtrl
  extract_lets s1 s2
  have h1 : Kept cs s1 := .ite h.clearStatus h
  have h2 : Kept cs s2 := by
    unfold s2
    split
    · exact h1.funcControl
    · exact h1
  exact .ite (.next h1) (.next (.ite (h2.foldl fun _ _ h => h.barRead) h2))

theorem execFuncShutdownEnd_kept {fn} (h : Kept cs s) : KeptOut cs (execFuncShutdownEnd fn s) :=
  .next (.ite (h.setFunc.firePending fun _ h => h.enableFn) h)

theorem execCqChShadow_kept {fn value} (h : Kept cs s) : KeptOut cs (execCqChShadow fn value s) :=
  .next (.ite h (.ite h.cfgRefuse h.setFunc))

theorem execSqConfigWrite_kept {fn q entry} (h : Kept cs s) : KeptOut cs (execSqConfigWrite fn q entry s) :=
  .next (.ite h.writeSq.pollAll h)

theorem execCqConfigWrite_kept {fn q entry} (h : Kept cs s) : KeptOut cs (execCqConfigWrite fn q entry s) :=
  .next (.ite h.writeCq h)

theorem execSqDrainEnd_kept {fn q} (h : Kept cs s) : KeptOut cs (execSqDrainEnd fn q s) :=
  .next (.ite (h.setFunc.firePending fun _ h => h.enableSq) h)

theorem execCqSqTail_kept {fn q value} (h : Kept cs s) : KeptOut cs (execCqSqTail fn q value s) :=
  .next (.ite h (.ite h.dbIgnored h.setFunc))

theorem execCqCqHead_kept {fn q value} (h : Kept cs s) : KeptOut cs (execCqCqHead fn q value s) :=
  .next (.ite h (.ite h.dbIgnored ((h.setFunc.foldl fun _ _ h => .ite h.flushQueue h).pollAll)))

theorem execCommandFetch_kept {fn q cmd} (h : Kept cs s) : KeptOut cs (execCommandFetch fn q cmd s) :=
  .ite (.next h) (.next h.setFunc.flushQueue.pollAll)

theorem execRun_kept {fn q prog} (h : Kept cs s) : KeptOut cs (execRun fn q prog s) := by
  unfold execRun
  split
  · exact .next h
  · exact .ite (.next h.flushQueue) (.ite (.next h.acceptHead.complete.flushQueue)
        (.ite (.next h.pollAll) (.ite (.next h.pollAll.decideIdle) (.next h.pollAll.decideIdle.dispatch.flushQueue))))

theorem execRunComplete_kept {p} (h : Kept cs s) : KeptOut cs (execRunComplete p s) := by
  unfold execRunComplete
  split
  · exact .next h
  · exact .next (.ite h.completeRun h)

theorem execDmaIn_kept {fn q data} (h : Kept cs s) : KeptOut cs (execDmaIn fn q data s) := by
  refine .next (h.immediate fun h ht => ?_)
  dsimp only at ht
  split at ht
  · cases ht
  · cases ht; exact h.keepLive

theorem execDmaOut_kept {fn q} (h : Kept cs s) : KeptOut cs (execDmaOut fn q s) := by
  refine .next (h.immediate fun h ht => ?_)
  dsimp only at ht
  split at ht
  · cases ht
  · cases ht; exact h.keepLive

theorem execDmaComplete_kept {id hostAbort} (h : Kept cs s) : KeptOut cs (execDmaComplete id hostAbort s) := by
  unfold execDmaComplete
  split
  · exact .next h
  extract_lets c n wr
  refine .ite (.next h) ?_
  split
  · exact .next h.completeLive
  have he := h.edgePackets (g := 0) (n := n)
  refine .ite (.next h) (.ite (.next he.completeLive) (.ite (.next ?_) (.next ?_)))
  · exact .completeLive (.ite (he.setDecks wf_udWrite).errRec (he.setDecks wf_udWrite))
  · exact .completeLive (.ite (.errRec (.hostWrite (.ite he.update he))) (.hostWrite (.ite he.update he)))

theorem execStage_kept {fn q} (h : Kept cs s) : KeptOut cs (execStage fn q s) := by
  refine .next (.ite h (h.immediate fun h ht => ?_))
  cases ht
  exact h.keepLive.queueStage

theorem execUpdate_kept {fn q} (h : Kept cs s) : KeptOut cs (execUpdate fn q s) := by
  refine .next (.ite h (h.immediate fun h ht => ?_))
  split at ht
  · cases ht; exact h.keepLive.pushPass ‹_›
  · cases ht; exact h.errRec.complete

theorem execCarry_kept {fn q} (h : Kept cs s) : KeptOut cs (execCarry fn q s) :=
  .next (h.immediate fun h ht => h.keepLive.pushBucket ht)

theorem Kept.abortedAt {n} (h : Kept cs s) : Kept cs (s.abortedAt n).2 := h.update

theorem execSlotRead_kept {fn qa} (h : Kept cs s) : KeptOut cs (execSlotRead fn qa s) := by
  refine .next (h.immediate fun {s c k t} h ht => ?_)
  have ha {n} : Kept cs (if qa.abort then s.abortedAt n else (n, s)).2 := by
    split
    · exact h.abortedAt
    · exact h
  cases ht
  exact (ha.hostWrite.foldl fun _ _ h => h.setSlot).complete

theorem execSlotWrite_kept {fn q data} (h : Kept cs s) : KeptOut cs (execSlotWrite fn q data s) := by
  refine .next (h.immediate fun h ht => ?_)
  dsimp only at ht
  split at ht
  · cases ht
  · cases ht
    exact .ite h.slotsPut.complete h.slotsPut.keepLive.settleSlotWrites

theorem execExportMirror_kept {fn q copy} (h : Kept cs s) : KeptOut cs (execExportMirror fn q copy s) := by
  refine .next (h.immediate fun {s c k t} h ht => ?_)
  extract_lets x body bytes cut k at ht
  split at ht
  · cases ht
  · have hk : Kept cs k.2 := by
      unfold k
      split
      · exact h.abortedAt
      · exact h
    cases ht
    exact hk.hostWrite.complete

theorem execCoalTimeout_kept {fn q} (h : Kept cs s) : KeptOut cs (execCoalTimeout fn q s) :=
  .next (.ite h.setFunc.msix h)

theorem execMsixVectorUnmask_kept {fn w} (h : Kept cs s) : KeptOut cs (execMsixVectorUnmask fn w s) :=
  .ite (.next h) (.next (.ite h.setFunc.msix h.setFunc))

theorem execFunctionLevelReset_kept {fn} (h : Kept cs s) : KeptOut cs (execFunctionLevelReset fn s) :=
  .next (.ite h.startFlr h)

theorem execFlrRegistersReset_kept {fn} (h : Kept cs s) : KeptOut cs (execFlrRegistersReset fn s) :=
  .next (.ite h.setFunc h)

theorem execFlrEnd_kept {fn} (h : Kept cs s) : KeptOut cs (execFlrEnd fn s) :=
  .ite (.next h) (.next (.firePending (.ite h.setFunc.setO.setO h.setFunc) fun _ h => h.enableFn))

end Sys2Proof.Machine
end

section
/-! The memory window (Machine/Window.lean). -/

namespace Sys2Proof.Machine

open Sys2Proof

variable {cs : List Instr} {s : State}

theorem wf_foldl_ldPut {l : List Nat} {a : Nat → Nat} {b : Nat → Byte} {d : Decks} (h : Memory.wf d.ud = true) :
    Memory.wf (l.foldl (fun (d : Decks) i => d.ldPut (a i) (b i)) d).ud = true :=
  List.foldlRecOn (motive := fun (d : Decks) => Memory.wf d.ud = true) l _ h fun _ hd _ _ => wf_ldPut hd

theorem Kept.writeBack {b} (h : Kept cs s) : Kept cs (s.writeBack b) := by
  delta State.writeBack
  split
  · exact h
  · refine h.foldl fun s line h => .ite h (h.setDecks fun hd => ?_)
    dsimp only
    exact wf_foldl_ldPut hd

theorem Kept.cleanBlock {k} (h : Kept cs s) : Kept cs (s.cleanBlock k) := by
  unfold State.cleanBlock
  split
  · exact .ite h h.writeBack.update
  · exact h

theorem Kept.fillBlock {k} (h : Kept cs s) : Kept cs (s.fillBlock k) := by
  unfold State.fillBlock
  dsimp only
  split
  · split
    · exact .ite h (.update (.ite h.writeBack h))
    · exact h
  · refine .update ?_
    split
    · exact .ite h (.update (.ite h.writeBack h))
    · exact h

theorem Kept.winDo {w b} (h : Kept cs s) : Kept cs (s.winDo w b) := by
  unfold State.winDo
  dsimp only
  split
  · exact h.update
  · exact .ite h.update h.update.errRec.update

theorem execWindowAccess_kept {acc} (h : Kept cs s) : KeptOut cs (execWindowAccess acc s) := by
  unfold execWindowAccess
  split
  · exact .next h
  · refine .ite (.next h.winRefused) ?_
    split
    · exact .next h.addO.winDo
    · exact .next h.addO.update

theorem Kept.winHit {w} (h : Kept cs s) : Kept cs (s.winHit w) := by
  unfold State.winHit
  split
  · exact h.winDo
  · exact h

theorem execWindowBlockFill_kept (h : Kept cs s) : KeptOut cs (execWindowBlockFill s) := by
  unfold execWindowBlockFill
  split
  · exact .next h
  · exact .next (.foldl (.fillBlock (h.update.setDecks wf_ldFind)) fun _ _ h => h.winHit)

theorem execWindowWriteback_kept {block} (h : Kept cs s) : KeptOut cs (execWindowWriteback block s) :=
  .next h.cleanBlock

theorem Kept.winExtents {n} (h : Kept cs s) : Kept cs (s.winExtents n).1 := by
  unfold State.winExtents
  refine .ite_fst h (.ite_fst h ?_)
  extract_lets d
  split
  · exact h
  next e he =>
    have hd : Memory.wf s.decks.ud = true → Memory.wf e.ud = true := fun hw => by
      split at he
      · cases he; exact wf_freeExtents hw
      · exact wf_allocExtents (wf_newKey (wf_freeExtents hw)) he
    exact (h.closeWindow.setDecks (d := e) fun _ => hd h.deck).update.setO.setO

theorem Kept.setDecoder {base commit} (h : Kept cs s) : Kept cs (s.setDecoder base commit) := .ite h h.update

theorem execWindowOpen_kept (h : Kept cs s) : KeptOut cs (execWindowOpen s) := .next (.ite h.setO.openWindow h)

theorem Kept.drawIde {fn} (h : Kept cs s) : Kept cs (s.drawIde fn) := h.update.setFunc

theorem execSpdmRequest_kept {fn req} (h : Kept cs s) : KeptOut cs (execSpdmRequest fn req s) :=
  .ite (.next h) (.ite (.next h.update) (.next (.ite h.update.setFunc.drawIde h.update.setFunc)))

end Sys2Proof.Machine
end

section
/-! Writing the dictionary (Machine/DictOps.lean). -/

namespace Sys2Proof.Machine

open Sys2Proof

variable {cs : List Instr} {s : State}

theorem wf_dropExtents {d : Decks} {gone : List Nat} (h : Memory.wf d.ud = true) :
    Memory.wf (d.dropExtents gone).ud = true :=
  h

theorem Kept.setAllotExtents {k n} (h : Kept cs s) : Kept cs (s.setAllotExtents k n).1 := by
  unfold State.setAllotExtents
  dsimp only
  refine .ite_fst h ?_
  split
  · exact h
  next e he =>
    have hd : Memory.wf s.decks.ud = true → Memory.wf e.ud = true := fun hw => by
      split at he
      · cases he; exact wf_dropExtents hw
      · exact wf_allocExtents hw he
    exact .pair (.setO (.ite (h.setDecks hd) (h.setDecks hd).setAllot))

theorem Kept.tyControl {n v} (h : Kept cs s) : Kept cs (s.tyControl n v).1 := by
  unfold State.tyControl
  dsimp only
  split
  · exact h.tyForm
  · exact h.tyClose
  · exact h.tyRebal
  · exact h.tyRebal
  · exact h.tyAttach
  · exact h.tyDetach
  · exact h

theorem Kept.ptControl {p v} (h : Kept cs s) : Kept cs (s.ptControl p v).1 := by
  unfold State.ptControl
  split
  · exact h.ptCreate
  · exact h.ptDestroy
  · exact h.ptAdd
  · exact h.ptRemove
  · exact h

theorem Kept.ctxControl {p c v} (h : Kept cs s) : Kept cs (s.ctxControl p c v).1 := by
  unfold State.ctxControl
  split
  · exact h.ctxEnable
  · exact h.ctxDisable
  · exact h.ctxYield
  · exact h.ctxEvict
  · exact h

theorem Kept.linkControl {path l v} (h : Kept cs s) : Kept cs (s.linkControl path l v).1 := by
  unfold State.linkControl
  split
  · exact h.linkEnable
  · exact h.linkDisable
  · exact h.linkRetrain
  · exact h.linkRelease
  · exact h

theorem Kept.mirrorControl {path p v} (h : Kept cs s) : Kept cs (s.mirrorControl path p v).1 := by
  unfold State.mirrorControl
  split
  · exact h.mirrorOn
  · exact h.mirrorOn
  · exact h.mirrorAsk
  · exact h.mirrorSendAway
  · exact h

theorem Kept.askDefaults (h : Kept cs s) : Kept cs s.askDefaults.1 := h.update

theorem Kept.controlObject {path key v x} (h : Kept cs s) (hx : s.controlObject path key v = some x) :
    Kept cs x.1 := by
  unfold State.controlObject at hx
  split at hx
  · cases hx; exact .ite_fst h.askDefaults h
  split at hx
  · cases hx; exact h.fwControl
  split at hx
  · cases hx; exact h.fenceRequest
  split at hx
  · cases hx; exact h.resetControl
  split at hx
  · cases hx
    split
    · exact h.svStart
    · exact h.svStop
    · exact h.svDrain
    · exact h
  split at hx
  · cases hx; exact h.linkControl
  split at hx
  · cases hx; exact h.ptControl
  split at hx
  · cases hx; exact h.ctxControl
  split at hx
  · cases hx; exact h.tyControl
  split at hx
  · cases hx
    split
    · exact h.startRun
    · exact h.endRunNum
    · exact h
  split at hx
  · cases hx
    split
    · exact h.formGroup
    · exact h.leaveGroup
    · exact h
  split at hx
  · cases hx; exact h.mirrorControl
  · cases hx

theorem Kept.storeScalar {r key v} (h : Kept cs s) : Kept cs (s.storeScalar r key v) := .ite h.setO.markRwp h.setO

theorem Kept.writeScalar {path r key v} (h : Kept cs s) : Kept cs (s.writeScalar path r key v).1 := by
  unfold State.writeScalar
  extract_lets idx sub ty num
  split
  · exact .pair (h.controlObject ‹_›).pollAll
  refine .ite_fst h (.ite_fst h (.ite_fst h (.ite_fst h (.ite_fst h (.ite_fst h.storeScalar.update
              (.ite_fst h (.ite_fst h.storeScalar.update (.ite_fst h.winExtents ?_))))))))
  split
  · exact h.ringChange
  split
  · exact h.ringChange
  split
  · exact h.chTail
  split
  · exact h.hvEnable
  split
  · exact .ite_fst h h.storeScalar
  split
  · exact h.setAllotExtents
  split
  · exact .storeScalar (.ite h h.setAllot)
  · exact .ite_fst (.ite_fst h.storeScalar h) h.storeScalar

theorem Kept.writeGroups {path p off data} (h : Kept cs s) : Kept cs (s.writeGroups path p off data).1 :=
  .ite_fst (h.foldl_fst fun _ _ h => .ite_fst h h.groupsWrite) h

theorem Kept.writeBlob {path r key off data} (h : Kept cs s) : Kept cs (s.writeBlob path r key off data).1 := by
  unfold State.writeBlob
  refine .ite_fst h (.ite_fst h (.ite_fst h ?_))
  split
  · exact h.writeGroups
  extract_lets s1 s2
  have h2 : Kept cs s2 := .ite h.setBlob.markRwp h.setBlob
  exact .ite_fst h2.setO.setO (.ite_fst h2.update (.ite_fst (.ite h2.latchAccts h2) h2))

theorem Kept.writeObject {path key off data} (h : Kept cs s) : Kept cs (s.writeObject path key off data).1 := by
  unfold State.writeObject
  split
  · exact h
  · exact .ite_fst h (.ite_fst h (.ite_fst (.ite_fst h.writeBlob h.writeScalar) h))

theorem Kept.dictWrite {path key off data} (h : Kept cs s) : Kept cs (s.dictWrite path key off data) :=
  .ite h h.writeObject.report

theorem Kept.commitKey {key} (h : Kept cs s) : Kept cs (s.commitKey key) := by
  unfold State.commitKey
  split
  · exact h
  · exact .ite h (h.foldl fun _ _ h => h.setBank)

theorem Kept.commitRwp (h : Kept cs s) : Kept cs s.commitRwp := (h.foldl fun _ _ h => h.commitKey).update

theorem Kept.loadKey {key} (h : Kept cs s) : Kept cs (s.loadKey key) := by
  unfold State.loadKey
  split
  · exact h
  · split
    · exact .ite h.setBlob h.setO
    · exact h.errRec

theorem Kept.loadRwp (h : Kept cs s) : Kept cs s.loadRwp := h.foldl fun _ _ h => h.loadKey

end Sys2Proof.Machine
end

section
/-! The rack ring (Machine/Ring.lean). -/

namespace Sys2Proof.Machine

open Sys2Proof

variable {cs : List Instr} {s : State}

theorem Kept.authFrame {f} (h : Kept cs s) : Kept cs (s.authFrame f).1 := .ite_fst h (.ite_fst h.setO h.addO)

theorem Kept.answer {r st data} (h : Kept cs s) : Kept cs (s.answer r st data) := .ite h h.report.update

theorem Kept.flushRing {n} (h : Kept cs s) : Kept cs (State.flushRing n s) := by
  induction n generalizing s with
  | zero => exact h
  | succ n ih =>
    unfold State.flushRing
    split
    · exact .ite (ih h.update.answer) h
    · exact h

theorem Kept.ringWrite {r} (h : Kept cs s) : Kept cs (s.ringWrite r).1 := by
  unfold State.ringWrite
  split
  · exact h
  · exact .ite_fst h h.writeObject

theorem Kept.ringStage {r} (h : Kept cs s) : Kept cs (s.ringStage r).1 := .ite_fst h (.ite_fst h h.update)

theorem Kept.ringCommit {r} (h : Kept cs s) : Kept cs (s.ringCommit r).1 := .ite_fst h h.writeObject

theorem Kept.ringRead {r} (h : Kept cs s) : Kept cs (s.ringRead r).1 := by
  unfold State.ringRead
  split
  · exact h
  · exact (h.readObject ‹_›)

theorem Kept.ringSnap {r} (h : Kept cs s) : Kept cs (s.ringSnap r).1 := by
  unfold State.ringSnap
  refine .ite_fst h ?_
  split
  · exact h
  · exact (h.readObject ‹_›).update

theorem Kept.ringRun {r} (h : Kept cs s) : Kept cs (s.ringRun r).1 := by
  unfold State.ringRun
  dsimp only
  split
  · exact h.ringRead
  · exact h.ringWrite
  · exact h.ringStage
  · exact h.ringCommit
  · exact h.ringSnap
  · exact h
  · exact h

theorem Kept.performHead (h : Kept cs s) : Kept cs s.performHead := by
  unfold State.performHead
  refine .ite h ?_
  split
  · exact h.update.ringRun.answer.flushRing
  · exact h

theorem Kept.performRing {op} (h : Kept cs s) : Kept cs (s.performRing op) := by
  unfold State.performRing
  split
  · exact .ite h.performHead h
  · exact h

theorem Kept.drainRing {n earlier} (h : Kept cs s) : Kept cs (State.drainRing n earlier s) := by
  induction n generalizing s with
  | zero => exact h
  | succ n ih =>
    unfold State.drainRing
    split
    · exact .ite (ih h.performHead) h
    · exact h

theorem Kept.ringBefore {p} (h : Kept cs s) : Kept cs (s.ringBefore p) := h.drainRing

theorem Kept.access {p f} (h : Kept cs s) (hf : ∀ s, Kept cs s → Kept cs (f s).1) : Kept cs (s.access p f) :=
  h.ringBefore.control hf

theorem execRingRead_kept (h : Kept cs s) : KeptOut cs (execRingRead s) := .next h.performRing

theorem execRingWrite_kept (h : Kept cs s) : KeptOut cs (execRingWrite s) := .next h.performRing

theorem execRingStage_kept (h : Kept cs s) : KeptOut cs (execRingStage s) := .next h.performRing

theorem execRingCommit_kept (h : Kept cs s) : KeptOut cs (execRingCommit s) := .next h.performRing

theorem execRingSnap_kept (h : Kept cs s) : KeptOut cs (execRingSnap s) := .next h.performRing

theorem execRingPeek_kept (h : Kept cs s) : KeptOut cs (execRingPeek s) := .next h.performRing

theorem Kept.takeReq {seq q auth} (h : Kept cs s) : Kept cs (s.takeReq seq q auth) :=
  .ite h (.ite h.addO h.update.flushRing)

theorem Kept.response {pos accepted} (h : Kept cs s) : Kept cs (s.response pos accepted).1 := by
  unfold State.response
  dsimp only
  split
  · exact .ite_fst h.update h
  · exact h

theorem Kept.slotConflict (h : Kept cs s) : Kept cs s.slotConflict := .ite h.addO h.addO.update.errRec

theorem Kept.serveSlot {f accepted auth} (h : Kept cs s) : Kept cs (s.serveSlot f accepted auth).1 :=
  .ite_fst h (.ite_fst h.slotConflict (.update (.response (.ite h.takeReq h))))

theorem Kept.acceptFrame {f} (h : Kept cs s) : Kept cs (s.acceptFrame f).1 :=
  .serveSlot (.ite h.addO.setO.authFrame.strokeFrame h.addO.setO.authFrame)

theorem Kept.takeFrame {f} (h : Kept cs s) : Kept cs (s.takeFrame f).1 :=
  .ite_fst h.acceptFrame (.ite_fst h.addO.serveSlot h.addO)

theorem Kept.ringForward {f} (h : Kept cs s) : Kept cs (s.ringForward f) := h.update

theorem execRingFrame_kept {bytes} (h : Kept cs s) : KeptOut cs (execRingFrame bytes s) :=
  .ite (.next h.ringForward) (.next h.takeFrame.ringForward)

end Sys2Proof.Machine
end

section
/-! The dictionary commands and the mailboxes (Machine/Dictionary.lean). -/

namespace Sys2Proof.Machine

open Sys2Proof

variable {cs : List Instr} {s : State}

theorem execObjectWrite_kept {path idx sub off data} (h : Kept cs s) :
    KeptOut cs (execObjectWrite path idx sub off data s) :=
  .next (.ite h.ringBefore.dictWrite h)

theorem execRwpCommit_kept (h : Kept cs s) : KeptOut cs (execRwpCommit s) := .next (.ite h.commitRwp h)

theorem execDefaults_kept {path} (h : Kept cs s) : KeptOut cs (execDefaults path s) :=
  .next (h.access fun _ h => h.askDefaults)

theorem execRingKey_kept {path key} (h : Kept cs s) : KeptOut cs (execRingKey path key s) :=
  .next h.ringBefore.dictWrite

theorem Kept.mailboxEnd {fn st moved} (h : Kept cs s) : Kept cs (s.mailboxEnd fn st moved) :=
  .ite h (.ite h.setFunc.report.msix h.setFunc.report)

theorem Kept.mailboxRegs {fn r} (h : Kept cs s) : Kept cs (s.mailboxRegs fn r) := h.setFunc

theorem Kept.mailboxDo {fn regs data} (h : Kept cs s) : Kept cs (s.mailboxDo fn regs data) := by
  unfold State.mailboxDo
  refine .ite h (.ite h.mailboxEnd (.ite ?_ h.writeObject.mailboxEnd))
  split
  · exact h.mailboxEnd
  · exact (h.readObject ‹_›).hostWrite.mailboxEnd

theorem Kept.mailboxGo {fn regs data} (h : Kept cs s) : Kept cs (s.mailboxGo fn regs data) :=
  .ite h (.ite h.mailboxRegs.ringBefore.mailboxDo h.mailboxRegs.setFunc)

theorem Kept.mailboxRelease (h : Kept cs s) : Kept cs s.mailboxRelease := by
  unfold State.mailboxRelease
  refine .foldl h fun _ _ h => ?_
  dsimp only
  split
  · exact h.setFunc.mailboxDo
  · exact h

theorem execMailboxRead_kept {fn regs} (h : Kept cs s) : KeptOut cs (execMailboxRead fn regs s) :=
  .next (.ite h h.mailboxGo)

theorem execMailboxWrite_kept {fn regs data} (h : Kept cs s) : KeptOut cs (execMailboxWrite fn regs data s) :=
  .next (.ite h h.mailboxGo)

end Sys2Proof.Machine
end

section
/-! The boot sequence and the firmware commands (Machine/Boot.lean). -/

namespace Sys2Proof.Machine

open Sys2Proof

variable {cs : List Instr} {s : State}

theorem execPowerGood_kept (h : Kept cs s) : KeptOut cs (execPowerGood s) := .next (.ite h.startBoot h)

theorem Kept.setStage {n} (h : Kept cs s) : Kept cs (s.setStage n) := h.update

theorem Kept.halt (h : Kept cs s) : Kept cs s.halt := h.update

theorem execSecFirmwareStart_kept (h : Kept cs s) : KeptOut cs (execSecFirmwareStart s) :=
  .ite (.next h) (.next (.ite h.loadImage.extend.setStage h.halt))

theorem execMgmtComplexStart_kept {identityOk} (h : Kept cs s) : KeptOut cs (execMgmtComplexStart identityOk s) :=
  .ite (.next h) (.next (.ite (.setStage (.loadImage (.ite h.update h.update.addCause.errRec)))
        (.halt (.ite h.update h.update.addCause.errRec))))

theorem Kept.startMgmt (h : Kept cs s) : Kept cs s.startMgmt := (h.loadRwp.setO.foldl fun _ _ h => h.setLink).update

theorem Kept.mgmtReady (h : Kept cs s) : Kept cs s.mgmtReady := h.setStage.setO

theorem Kept.watchdogRec {wdog} (h : Kept cs s) : Kept cs (s.watchdogRec wdog) := .ite h.errRec h

theorem Kept.clearWdog (h : Kept cs s) : Kept cs s.clearWdog := h.update

theorem execMgmtReady_kept (h : Kept cs s) : KeptOut cs (execMgmtReady s) :=
  .next (.ite h h.mgmtReady.startMgmt.clearWdog.watchdogRec.mailboxRelease)

theorem Kept.loadLate {i} (h : Kept cs s) : Kept cs (s.loadLate i) := .ite h.loadImage h.addCause

theorem Kept.sealBoot (h : Kept cs s) : Kept cs s.sealBoot := h.extend.setStage.update

theorem Kept.checkLevels (h : Kept cs s) : Kept cs s.checkLevels :=
  .ite (.sealBoot (.ite h h.addCause)) (.enterRestricted (.sealBoot (.ite h h.addCause)))

theorem execImagesVerified_kept (h : Kept cs s) : KeptOut cs (execImagesVerified s) :=
  .next (.ite h h.loadLate.loadLate.loadLate.checkLevels)

theorem Kept.bootRods {fails} (h : Kept cs s) : Kept cs (s.bootRods fails) :=
  (h.foldl fun _ _ h => h.setRod).foldl fun _ _ h => .ite h h.autoFence.setRod

theorem Kept.applyMap (h : Kept cs s) : Kept cs s.applyMap := by
  delta State.applyMap
  refine .ite (.errRec (h.foldl_fst fun x rod h => ?_)) (h.foldl_fst fun x rod h => ?_)
  · exact .ite_fst h (.ite_fst h (.pair h.setRod))
  · exact .ite_fst h (.ite_fst h (.pair h.setRod))

theorem Kept.bootEpoch (h : Kept cs s) : Kept cs s.bootEpoch := by
  unfold State.bootEpoch
  exact .ite h h.update

theorem wf_foldl_newKey {l : List Nat} {d : Decks} (h : Memory.wf d.ud = true) :
    Memory.wf (l.foldl Decks.newKey d).ud = true :=
  List.foldlRecOn (motive := fun (d : Decks) => Memory.wf d.ud = true) l _ h fun _ hd _ _ => wf_newKey hd

theorem execComputeReady_kept {selfTestFails pkgFails} (h : Kept cs s) :
    KeptOut cs (execComputeReady selfTestFails pkgFails s) := by
  delta execComputeReady
  refine .ite (.next h) (.ite (.next h.updateDecks.fatalRec) (.next ?_))
  generalize upto 19 = keys
  exact (h.bootRods.applyMap.bootEpoch.setDecks fun _ => wf_foldl_newKey rfl).setO.setStage.setBank.pollAll

theorem execWriteImageEnd_kept {flashOk} (h : Kept cs s) : KeptOut cs (execWriteImageEnd flashOk s) := by
  unfold execWriteImageEnd
  split
  · exact .next h
  · exact .next h.update.setBank.setBank.fwStatus

theorem execAttReport_kept {path} (h : Kept cs s) : KeptOut cs (execAttReport path s) := by
  unfold execAttReport
  refine .ite (.next h.ringBefore) ?_
  split
  · exact .next h.ringBefore.report
  · exact .next ((h.ringBefore.readObject ‹_›).update.report)

end Sys2Proof.Machine
end

section
/-! DATA messages of other parts (Machine/Landing.lean). -/

namespace Sys2Proof.Machine

open Sys2Proof

variable {cs : List Instr} {s : State}

theorem Kept.nextOf {o} (h : Kept cs s) (ho : KeptOut cs o) : Kept cs (Machine.nextOf s o) := by
  unfold Machine.nextOf
  split
  · exact ho _ rfl
  · exact h

theorem Kept.takeReduce {link p g b src d} (h : Kept cs s) : Kept cs (s.takeReduce link p g b src d) := by
  unfold State.takeReduce
  refine .ite (.nextOf h (execBucketHeader_kept h)) (.ite h.discard ?_)
  extract_lets j rs unit
  have hu {down r} : Kept cs (unit down r) := .nextOf h (execSegmentUnit_kept h)
  split
  · exact hu
  split
  · exact hu
  · exact h.discard

theorem Kept.takeChunk {link p g b src d} (h : Kept cs s) : Kept cs (s.takeChunk link p g b src d) := by
  unfold State.takeChunk
  split
  · exact .ite h.discard (.ite h.setBucket (.nextOf h.setBucket (execChunkLanded_kept h.setBucket)))
  · exact .ite (.nextOf h (execBucketHeader_kept h)) h.discard

theorem Kept.takeExchange {link p g src d} (h : Kept cs s) : Kept cs (s.takeExchange link p g src d) := by
  unfold State.takeExchange
  refine .ite (.ite (.nextOf h (execVerdictResult_kept h)) (.nextOf h (execVerdictExchangeUp_kept h))) (.ite ?_ ?_)
  · split
    · exact .nextOf h (execHandshakeUp_kept h)
    · exact h.discard
  · exact .ite (.nextOf h (execHandshakeResult_kept h)) h.discard

theorem Kept.takeCarry {link hdr d} (h : Kept cs s) : Kept cs (s.takeCarry link hdr d) := by
  unfold State.takeCarry
  refine .ite ?_ ?_
  · split
    · exact h.takeExchange
    · exact h.discard
  · split
    · exact .ite h.takeReduce h.takeChunk
    · exact h.discard

theorem Kept.takeMirror {link hdr d} (h : Kept cs s) : Kept cs (s.takeMirror link hdr d) := by
  unfold State.takeMirror
  extract_lets node p m mine k send
  have hsend {f} : Kept cs (send s f) := by
    unfold send
    split
    next hx => exact (h.latestMirror (Option.ite_none_right_eq_some.1 hx).2).cySend
    · exact h
  refine .ite h.setMirror (.ite h.setO (.ite hsend (.ite hsend ?_)))
  split
  · exact h.copyPiece
  · exact h.countEvent

theorem Kept.takeMessage {m} (h : Kept cs s) : Kept cs (s.takeMessage m) := by
  unfold State.takeMessage
  split
  · exact h.takeCarry
  · exact h.takeMirror
  · exact h

theorem Kept.startLanding {link hdr data} (h : Kept cs s) : Kept cs (s.startLanding link hdr data) :=
  h.update.foldl fun _ _ h => h.edgeNext.update.outstanding2

theorem Kept.dropLanding {n} (h : Kept cs s) : Kept cs (s.dropLanding n) := by
  unfold State.dropLanding
  split
  · exact h
  · exact h.update.countEvent

theorem Kept.landExport {m r} (h : Kept cs s) : Kept cs (s.landExport m r) := .ite h.udPut h.udPut.dropLanding

theorem Kept.landPacket {n r} (h : Kept cs s) : Kept cs (s.landPacket n r) := by
  unfold State.landPacket
  split
  · exact h.ackDone
  extract_lets s1 s2
  have h1 : Kept cs s1 := (Kept.ite h.landExport h).sendAck
  exact .ite h1 (.ite h1.ackDone.update.takeMessage h1.ackDone.update)

theorem Kept.takeData {l hops hdr data x} (h : Kept cs s) (hx : s.takeData l hops hdr data = some x) :
    Kept cs x.1 := by
  unfold State.takeData at hx
  dsimp only at hx
  split at hx
  · split at hx
    · cases hx; exact h.setLink
    · cases hx
  · cases hx

theorem Kept.dropArrival {l c} (h : Kept cs s) : Kept cs (s.dropArrival l c) := h.setLink.countEvent

theorem execBamenMessage_kept {l hops hdr data} (h : Kept cs s) :
    KeptOut cs (execBamenMessage l hops hdr data s) := by
  delta execBamenMessage
  split
  · exact .next h
  next s1 n heq =>
    have h1 : Kept cs s1 := h.takeData heq
    exact .ite (.next (.ite h1.oweCredits.startLanding h1.oweCredits.countEvent))
      (.ite (.next h1.oweCredits.dropArrival)
      (.ite (.next h1.oweCredits.dropArrival) (.next h1.update.admitTransit)))

theorem Kept.stageTransit {k st} (h : Kept cs s) : Kept cs (s.stageTransit k st) := h.update

theorem Kept.forward {k hops} (h : Kept cs s) : Kept cs (s.forward k hops) := by
  unfold State.forward
  split
  · exact h
  · exact h.stageTransit.route1

theorem execTransitSend_kept {port hop} (h : Kept cs s) : KeptOut cs (execTransitSend port hop s) := by
  unfold execTransitSend
  dsimp only
  split
  · exact .next h
  · refine .ite (.next h) ?_
    split
    · exact .next h.popTransit.dropArrival
    · exact .ite (.next h)
        (.ite (.next h.forward) (.next (h.stageTransit.foldl fun _ _ h => h.edgeNext.edgeNext.update.outstanding2)))

theorem Kept.transitPacket {k r} (h : Kept cs s) : Kept cs (s.transitPacket k r) :=
  .ite h.sendAck (.ite h.sendAck.ackDone h.sendAck.ackDone.forward)

theorem Kept.dropTransit {k} (h : Kept cs s) : Kept cs (s.dropTransit k) := by
  unfold State.dropTransit
  split
  · exact .ite h.update.popTransit.countEvent h
  · exact h

theorem execVc2Acknowledgement_kept {id} (h : Kept cs s) : KeptOut cs (execVc2Acknowledgement id s) := by
  unfold execVc2Acknowledgement
  refine polled_kept ?_
  split
  · exact .next h
  · refine .ite (.next h) ?_
    split
    · exact .ite (.next h) (.next (.ite h.landStage.sendAck h.landStage.sendAck.ackDone.pumpStages))
    · exact .next (.ite h h.landPacket)
    · exact .next h.transitPacket
    · exact .ite (.next h.ackDone) (.next h)

end Sys2Proof.Machine
end

section
/-! The reset commands, and losses that end in records (Machine/Resets.lean). -/

namespace Sys2Proof.Machine

open Sys2Proof

variable {cs : List Instr} {s : State}

theorem execDeviceResetHoldEnd_kept (h : Kept cs s) : KeptOut cs (execDeviceResetHoldEnd s) :=
  .next (.ite h.startBoot h)

theorem Kept.clearNum {p} (h : Kept cs s) : Kept cs (s.clearNum p) := h.setNum.foldl fun _ _ h => h.clearO

theorem execPartitionResetKeys_kept {p} (h : Kept cs s) : KeptOut cs (execPartitionResetKeys p s) :=
  .ite (.next h) (.next (.startZero (.foldl (.setPart (.clearNum (h.setDecks wf_newKey))) fun _ _ h => h.setRod)))

theorem execPartitionResetEnd_kept {p} (h : Kept cs s) : KeptOut cs (execPartitionResetEnd p s) :=
  .ite (.next h) (.next ((h.endZero.endZero.ownFrames.setPart.setO.foldl fun _ _ h => h.setCtx).setO.pollAll))

theorem execMgmtWatchdog_kept (h : Kept cs s) : KeptOut cs (execMgmtWatchdog s) := .next (.ite h.lost.update h)

theorem Kept.packetLost {r} (h : Kept cs s) : Kept cs (s.packetLost r) := by
  unfold State.packetLost
  split
  · exact h.failStage.pumpStages
  · exact h.failIssuer.publishVoid
  · split
    · exact h.loseBucket
    · exact h
  · exact h.dropLanding
  · exact h.dropTransit
  · exact h.failRequest
  · exact h.failIssuer

theorem execVc2AckTimeout_kept {id} (h : Kept cs s) : KeptOut cs (execVc2AckTimeout id s) := by
  unfold execVc2AckTimeout
  refine polled_kept ?_
  split
  · exact .next h
  · exact .ite (.next h) (.next h.update.errRec.packetLost)

theorem execLdPackageFail_kept {pkg stopped} (h : Kept cs s) : KeptOut cs (execLdPackageFail pkg stopped s) :=
  .ite (.next h) (.ite (.next h.updateDecks) (.next h.updateDecks.fatalRec))

theorem Kept.loseSlice {rod} (h : Kept cs s) : Kept cs (s.loseSlice rod) :=
  .setDecks (.foldl (.ite h.svLost h) fun _ _ h => h.setPart.cutStages) wf_zeroSlice

theorem execRouteEpochEnd_kept (h : Kept cs s) : KeptOut cs (execRouteEpochEnd s) :=
  polled_kept (.ite (.next h) (.next ((h.update.foldl fun _ _ h => h.setRod.loseSlice).releaseHeld.setO)))

end Sys2Proof.Machine
end

section
/-! The commands that software gives by the dictionary (Machine/Control.lean). -/

namespace Sys2Proof.Machine

open Sys2Proof

variable {cs : List Instr} {s : State}

theorem execFenceRequest_kept {path value} (h : Kept cs s) : KeptOut cs (execFenceRequest path value s) :=
  .next (h.access fun _ h => h.fenceRequest)

theorem execForm_kept {path n} (h : Kept cs s) : KeptOut cs (execForm path n s) :=
  .next (.ite (h.access fun _ h => h.tyForm) h)

theorem execClose_kept {path n} (h : Kept cs s) : KeptOut cs (execClose path n s) :=
  polled_kept (.next (.ite (h.access fun _ h => h.tyClose) h))

theorem execAttach_kept {path n part} (h : Kept cs s) : KeptOut cs (execAttach path n part s) :=
  .next (.ite (h.access fun _ h => h.tyAttach) h)

theorem execDetach_kept {path n part} (h : Kept cs s) : KeptOut cs (execDetach path n part s) :=
  polled_kept (.next (.ite (h.access fun _ h => h.tyDetach) h))

theorem execRebalanceToStudent_kept {path n frame part} (h : Kept cs s) :
    KeptOut cs (execRebalanceToStudent path n frame part s) :=
  .next (.ite (h.access fun _ h => h.tyRebal) h)

theorem execRebalanceToTeacher_kept {path n frame part} (h : Kept cs s) :
    KeptOut cs (execRebalanceToTeacher path n frame part s) :=
  .next (.ite (h.access fun _ h => h.tyRebal) h)

theorem execTyHvEnable_kept {path part value} (h : Kept cs s) : KeptOut cs (execTyHvEnable path part value s) :=
  .next (.ite (h.access fun _ h => h.hvEnable) h)

theorem execStartRun_kept {path part} (h : Kept cs s) : KeptOut cs (execStartRun path part s) :=
  polled_kept (.next (.ite (h.access fun _ h => h.startRun) h))

theorem execEndRun_kept {path part} (h : Kept cs s) : KeptOut cs (execEndRun path part s) :=
  polled_kept (.next (.ite (h.access fun _ h => h.endRunNum) h))

theorem execRkGroupsWrite_kept {path part k entry} (h : Kept cs s) :
    KeptOut cs (execRkGroupsWrite path part k entry s) :=
  .next (.ite (h.access fun _ h => h.groupsWrite) h)

theorem execGroupForm_kept {path part g} (h : Kept cs s) : KeptOut cs (execGroupForm path part g s) :=
  .next (.ite (h.access fun _ h => h.formGroup) h)

theorem execGroupLeave_kept {path part g} (h : Kept cs s) : KeptOut cs (execGroupLeave path part g s) :=
  polled_kept (.next (.ite (h.access fun _ h => h.leaveGroup) h))

theorem execMirrorEnable_kept {path part} (h : Kept cs s) : KeptOut cs (execMirrorEnable path part s) :=
  .next (.ite (h.access fun _ h => h.mirrorOn) h)

theorem execMirrorDisable_kept {path part} (h : Kept cs s) : KeptOut cs (execMirrorDisable path part s) :=
  .next (.ite (h.access fun _ h => h.mirrorOn) h)

theorem execMirrorRestore_kept {path part} (h : Kept cs s) : KeptOut cs (execMirrorRestore path part s) :=
  .next (.ite (h.access fun _ h => h.mirrorAsk) h)

theorem execMirrorExport_kept {path part} (h : Kept cs s) : KeptOut cs (execMirrorExport path part s) :=
  .next (.ite (h.access fun _ h => h.mirrorSendAway) h)

theorem execLinkEnable_kept {path l} (h : Kept cs s) : KeptOut cs (execLinkEnable path l s) :=
  .next (.ite (h.access fun _ h => h.linkEnable) h)

theorem execLinkDisable_kept {path l} (h : Kept cs s) : KeptOut cs (execLinkDisable path l s) :=
  .next (.ite (h.access fun _ h => h.linkDisable) h)

theorem execLinkRetrain_kept {path l} (h : Kept cs s) : KeptOut cs (execLinkRetrain path l s) :=
  .next (.ite (h.access fun _ h => h.linkRetrain) h)

theorem execLinkRelease_kept {path l} (h : Kept cs s) : KeptOut cs (execLinkRelease path l s) :=
  .next (.ite (h.access fun _ h => h.linkRelease) h)

theorem execPtCreate_kept {path p} (h : Kept cs s) : KeptOut cs (execPtCreate path p s) :=
  .next (.ite (h.access fun _ h => h.ptCreate) h)

theorem execPtAdd_kept {path p} (h : Kept cs s) : KeptOut cs (execPtAdd path p s) :=
  .next (.ite (h.access fun _ h => h.ptAdd) h)

theorem execPtRemove_kept {path p} (h : Kept cs s) : KeptOut cs (execPtRemove path p s) :=
  .next (.ite (h.access fun _ h => h.ptRemove) h)

theorem execPtDestroy_kept {path p} (h : Kept cs s) : KeptOut cs (execPtDestroy path p s) :=
  .next (.ite (h.access fun _ h => h.ptDestroy) h)

theorem execCtxEnable_kept {path p c} (h : Kept cs s) : KeptOut cs (execCtxEnable path p c s) :=
  .next (.ite (h.access fun _ h => h.ctxEnable) h)

theorem execCtxDisable_kept {path p c} (h : Kept cs s) : KeptOut cs (execCtxDisable path p c s) :=
  .next (.ite (h.access fun _ h => h.ctxDisable) h)

theorem execCtxYield_kept {path p c} (h : Kept cs s) : KeptOut cs (execCtxYield path p c s) :=
  .next (.ite (h.access fun _ h => h.ctxYield) h)

theorem execCtxEvict_kept {path p c} (h : Kept cs s) : KeptOut cs (execCtxEvict path p c s) :=
  .next (.ite (h.access fun _ h => h.ctxEvict) h)

theorem execSvStart_kept {path} (h : Kept cs s) : KeptOut cs (execSvStart path s) :=
  .next (h.access fun _ h => h.svStart)

theorem execSvStop_kept {path} (h : Kept cs s) : KeptOut cs (execSvStop path s) :=
  .next (h.access fun _ h => h.svStop)

theorem execSvDrain_kept {path} (h : Kept cs s) : KeptOut cs (execSvDrain path s) :=
  .next (h.access fun _ h => h.svDrain)

theorem execRingChange_kept {path c base entries} (h : Kept cs s) :
    KeptOut cs (execRingChange path c base entries s) :=
  .next (.ite (h.access fun _ h => h.ringChange) h)

theorem execCqWinExtents_kept {path win} (h : Kept cs s) : KeptOut cs (execCqWinExtents path win s) := by
  unfold execCqWinExtents
  split
  · exact .next (h.access fun _ h => h.winExtents)
  · exact .next (.ite h.setDecoder h)

theorem execColdReset_kept {path} (h : Kept cs s) : KeptOut cs (execColdReset path s) :=
  .next (h.access fun _ h => h.coldReset)

theorem execDeviceReset_kept {path} (h : Kept cs s) : KeptOut cs (execDeviceReset path s) :=
  .next (h.access fun _ h => h.deviceReset)

theorem execPartitionReset_kept {path p} (h : Kept cs s) : KeptOut cs (execPartitionReset path p s) :=
  .next (h.access fun _ h => h.partReset)

theorem execFunctionReset_kept {path fn} (h : Kept cs s) : KeptOut cs (execFunctionReset path fn s) :=
  .next (h.access fun _ h => h.funcReset)

theorem execPortReset_kept {path port} (h : Kept cs s) : KeptOut cs (execPortReset path port s) :=
  .next (h.access fun _ h => h.portReset)

theorem execWriteImage_kept {path image bank} (h : Kept cs s) : KeptOut cs (execWriteImage path image bank s) :=
  .next (h.access fun _ h => h.writeImage)

theorem execSelectBank_kept {path bank} (h : Kept cs s) : KeptOut cs (execSelectBank path bank s) :=
  .next (h.access fun _ h => h.selectBank)

theorem execCommitSvn_kept {path} (h : Kept cs s) : KeptOut cs (execCommitSvn path s) :=
  .next (h.access fun _ h => h.commitSvn)

end Sys2Proof.Machine
end

section
/-! The monitor (Machine/Monitor.lean). -/

namespace Sys2Proof.Machine

open Sys2Proof

variable {cs : List Instr} {s : State}

theorem Kept.say {l} (h : Kept cs s) : Kept cs (s.say l) := h.update

theorem Kept.monHelp (h : Kept cs s) : Kept cs s.monHelp := h.say

theorem Kept.monInfo (h : Kept cs s) : Kept cs s.monInfo := h.say

theorem Kept.setLevel {l} (h : Kept cs s) : Kept cs (s.setLevel l) := h.update

theorem Kept.monFail (h : Kept cs s) : Kept cs s.monFail := h.addO

theorem Kept.monLogin {phrase} (h : Kept cs s) : Kept cs (s.monLogin phrase) :=
  .ite h.say (.ite h.say (.ite h.update.say h.update.monFail.say))

theorem Kept.monLogout (h : Kept cs s) : Kept cs s.monLogout := h.setLevel.say

theorem Kept.monChallenge (h : Kept cs s) : Kept cs s.monChallenge := h.update.say

theorem Kept.monVendor {at_ lines} (h : Kept cs s) : Kept cs (s.monVendor at_ lines) := by
  unfold State.monVendor
  dsimp only
  split
  · exact h.update.monFail.say
  · split
    · exact .ite h.update.update.extend.setLevel.say h.update.monFail.say
    · exact h.update.monFail.say

theorem Kept.monRead {idx sub off len} (h : Kept cs s) : Kept cs (s.monRead idx sub off len) := by
  unfold State.monRead
  refine .ite h.say (.ite h.ringBefore ?_)
  split
  · exact h.ringBefore.report.say
  · exact (h.ringBefore.readObject ‹_›).update.report.say

theorem Kept.sayWritten {key st} (h : Kept cs s) : Kept cs (s.sayWritten key st) := .ite h.update h.say

theorem Kept.monWrite {idx sub off data} (h : Kept cs s) : Kept cs (s.monWrite idx sub off data) :=
  .ite h.say
    (.ite h.say (.ite h.ringBefore (.ite h.ringBefore.writeObject h.ringBefore.writeObject.report.sayWritten)))

theorem Kept.monLog {n} (h : Kept cs s) : Kept cs (s.monLog n) := .ite h.say h.say

theorem Kept.monWatch {on_} (h : Kept cs s) : Kept cs (s.monWatch on_) := h.update.say

theorem Kept.monReset {kind inst} (h : Kept cs s) : Kept cs (s.monReset kind inst) :=
  .ite h.say (.ite h.say (.ite h.ringBefore
        (.ite h.ringBefore.report.say (.ite h.ringBefore.resetControl h.ringBefore.resetControl.report.say))))

theorem Kept.monDo {a} (h : Kept cs s) : Kept cs (s.monDo a) := by
  unfold State.monDo
  split
  · exact h.monHelp
  · exact h.monInfo
  · exact h.monLogin
  · exact h.monLogout
  · exact h.monChallenge
  · exact h.update
  · exact h.monRead
  · exact h.monWrite
  · exact h.monLog
  · exact h.monWatch
  · exact h.monReset

theorem Kept.monLine {line} (h : Kept cs s) : Kept cs (s.monLine line) := by
  unfold State.monLine
  split
  · exact .ite h.monVendor h.update
  · refine .ite h.say ?_
    split
    · exact h.monDo
    · exact h.say

theorem Kept.monChar {c} (h : Kept cs s) : Kept cs (s.monChar c) :=
  .ite h (.ite h.update (.ite (.ite h.update.say h.update.monLine) (.ite h.update h.update)))

theorem Kept.heard {f} (h : Kept cs s) (hf : ∀ s, Kept cs s → Kept cs (f s)) : Kept cs (s.heard f) :=
  .ite h (hf _ h.update)

theorem Kept.monitor {f} (h : Kept cs s) (hf : ∀ s, Kept cs s → Kept cs (f s)) : Kept cs (s.monitor f) :=
  h.heard fun s h => .ite h.monLine (hf s h)

theorem execMonHelp_kept (h : Kept cs s) : KeptOut cs (execMonHelp s) := .next (h.monitor fun _ h => h.monHelp)

theorem execMonInfo_kept (h : Kept cs s) : KeptOut cs (execMonInfo s) := .next (h.monitor fun _ h => h.monInfo)

theorem execLogin_kept {input} (h : Kept cs s) : KeptOut cs (execLogin input s) := by
  unfold execLogin
  refine .next ?_
  split
  · exact h.monitor fun _ h => h.monLogin
  · exact h.heard fun _ h => h.foldl fun _ _ h => h.monChar

theorem execLogout_kept (h : Kept cs s) : KeptOut cs (execLogout s) := .next (h.monitor fun _ h => h.monLogout)

theorem execChallenge_kept (h : Kept cs s) : KeptOut cs (execChallenge s) :=
  .next (h.monitor fun _ h => h.monChallenge)

theorem execVendor_kept {lines} (h : Kept cs s) : KeptOut cs (execVendor lines s) :=
  .next (h.monitor fun _ h => h.monVendor)

theorem execMonRead_kept {idx sub off len} (h : Kept cs s) : KeptOut cs (execMonRead idx sub off len s) :=
  .next (h.monitor fun _ h => h.monRead)

theorem execMonWrite_kept {idx sub off data} (h : Kept cs s) : KeptOut cs (execMonWrite idx sub off data s) :=
  .next (h.monitor fun _ h => h.monWrite)

theorem execMonLog_kept {n} (h : Kept cs s) : KeptOut cs (execMonLog n s) := .next (h.monitor fun _ h => h.monLog)

theorem execWatchOn_kept (h : Kept cs s) : KeptOut cs (execWatchOn s) := .next (h.monitor fun _ h => h.monWatch)

theorem execWatchOff_kept (h : Kept cs s) : KeptOut cs (execWatchOff s) := .next (h.monitor fun _ h => h.monWatch)

theorem execMonReset_kept {kind inst} (h : Kept cs s) : KeptOut cs (execMonReset kind inst s) :=
  .next (h.monitor fun _ h => h.monReset)

theorem execMonitorBreak_kept (h : Kept cs s) : KeptOut cs (execMonitorBreak s) := .next (.ite h.update h)

theorem execMonIdleTimeout_kept (h : Kept cs s) : KeptOut cs (execMonIdleTimeout s) := .next (.ite h.setLevel h)

theorem execLoginLockEnd_kept (h : Kept cs s) : KeptOut cs (execLoginLockEnd s) := .next (.ite h.update h)

theorem execChallengeExpiry_kept (h : Kept cs s) : KeptOut cs (execChallengeExpiry s) := by
  unfold execChallengeExpiry
  split
  · exact .next (.ite h.update h)
  · exact .next h

end Sys2Proof.Machine
end

section
/-! Strokes without a frame, and samples (Machine/Stroke.lean). -/

namespace Sys2Proof.Machine

open Sys2Proof

variable {cs : List Instr} {s : State}

theorem execHoldoverEntry_kept (h : Kept cs s) : KeptOut cs (execHoldoverEntry s) := .next (.ite h.holdoverStroke h)

theorem execHoldoverStroke_kept (h : Kept cs s) : KeptOut cs (execHoldoverStroke s) := .next (.ite h.holdoverStroke h)

theorem execFirstWaitExpiry_kept (h : Kept cs s) : KeptOut cs (execFirstWaitExpiry s) :=
  .next (.ite h.holdoverStroke h)

theorem execRejoinTimeout_kept (h : Kept cs s) : KeptOut cs (execRejoinTimeout s) := .next (.ite h.holdoverStroke h)

theorem execPowerSample_kept {mw} (h : Kept cs s) : KeptOut cs (execPowerSample mw s) :=
  .ite (.next h) (.next (.ite (.governDown (.ite h.update.governDown h.update)) (.ite h.update.governDown h.update)))

theorem execGovernorRepeat_kept (h : Kept cs s) : KeptOut cs (execGovernorRepeat s) :=
  .next (.ite h.update.governDown h)

theorem execVoltageSample_kept {mv} (h : Kept cs s) : KeptOut cs (execVoltageSample mv s) :=
  .ite (.fault _)
    (.ite (.next h.update) (.ite (.next h.update.update.noteLevel) (.next h.update.update.noteLevel.update.errRec)))

theorem execUndervoltRelease_kept (h : Kept cs s) : KeptOut cs (execUndervoltRelease s) := .next (.ite h.update h)

theorem execSupplyShutdown_kept (h : Kept cs s) : KeptOut cs (execSupplyShutdown s) := .next (.ite h.lost h)

theorem Kept.powerOff (h : Kept cs s) : Kept cs s.powerOff := h.setDecks fun _ => rfl

theorem execThermalSample_kept {dieTenths} (h : Kept cs s) : KeptOut cs (execThermalSample dieTenths s) := by
  unfold execThermalSample
  refine .ite (.next h) ?_
  extract_lets t s1 tj hot onset lim src s2 src' s3 h105 trip s4
  have h3 : Kept cs s3 := h.update.update.noteLevel.update
  have h4 : Kept cs s4 := .ite h3.errRec.addO h3
  exact .ite (.ite (.next h4) (.next h4.update.fatalRec.powerOff)) (.ite (.next h4.errRec) (.next h4))

theorem execThrottleStep_kept (h : Kept cs s) : KeptOut cs (execThrottleStep s) :=
  .ite (.next h) (.ite (.next h.update.noteLevel) (.ite (.next h.update.noteLevel) (.next h)))

end Sys2Proof.Machine
end

section
/-! Every command, and the step (O60). -/

namespace Sys2Proof.Machine

open Sys2Proof

variable {cs : List Instr} {s : State}

/-- No command reaches into the queue or takes the upper deck out of its canonical form. -/
theorem exec_kept (h : Kept cs s) (i : Instr) : KeptOut cs (exec i s) := by
  delta exec
  cases i with
  -- Mesh
  | meshPacketDelivery => exact execMeshPacketDelivery_kept h
  | vc0RequestTimeout => exact execVc0RequestTimeout_kept h
  | vc2Acknowledgement => exact execVc2Acknowledgement_kept h
  | vc2AckTimeout => exact execVc2AckTimeout_kept h
  | flitError => exact execFlitError_kept h
  | routerSelfCheckFail => exact execRouterSelfCheckFail_kept h
  | controlCoreWatchdog => exact execControlCoreWatchdog_kept h
  | fenceRequest => exact execFenceRequest_kept h
  | routeTablesComputed => exact execRouteTablesComputed_kept h
  | routeEpochDrainEnd => exact execRouteEpochDrainEnd_kept h
  | routeEpochEnd => exact execRouteEpochEnd_kept h
  | coreFenceComplete => exact execCoreFenceComplete_kept h
  -- Matrix
  | matmul => exact execMatmul_kept h
  | readout => exact execReadout_kept h
  | clear => exact execClear_kept h
  | matmulStreamStart => exact execMatmulStreamStart_kept h
  | bankComplete => exact execBankComplete_kept h
  | readoutEnd => exact execReadoutEnd_kept h
  -- Vector
  | chain => exact execChain_kept h
  | permute => exact execPermute_kept h
  | shuffle => exact execShuffle_kept h
  | pack => exact execPack_kept h
  | unpack => exact execUnpack_kept h
  | compress => exact execCompress_kept h
  | expand => exact execExpand_kept h
  | tload => exact execTload_kept h
  | fill => exact execFill_kept h
  | spill => exact execSpill_kept h
  | chainStart => exact execChainStart_kept h
  | chainComplete => exact execChainComplete_kept h
  | deckMoveComplete => exact execDeckMoveComplete_kept h
  -- Deck
  | sliceAccess => exact execSliceAccess_kept h
  | rowSpareCopyEnd => exact execRowSpareCopyEnd_kept h
  | ldPackageFail => exact execLdPackageFail_kept h
  | patrolScrub => exact execPatrolScrub_kept h
  | sliceZeroingEnd => exact execSliceZeroingEnd_kept h
  | extentZeroFillEnd => exact execExtentZeroFillEnd_kept h
  | stagePush => exact execStagePush_kept h
  | stageStart => exact execStageStart_kept h
  | stageEnd => exact execStageEnd_kept h
  | stageFenceWait => exact execStageFenceWait_kept h
  -- Tally
  | form => exact execForm_kept h
  | close => exact execClose_kept h
  | rebalanceToStudent => exact execRebalanceToStudent_kept h
  | rebalanceToTeacher => exact execRebalanceToTeacher_kept h
  | attach => exact execAttach_kept h
  | detach => exact execDetach_kept h
  | acquire => exact execAcquire_kept h
  | acquireSlotFree => exact execAcquireSlotFree_kept h
  | publish => exact execPublish_kept h
  | publishHeaderWrite => exact execPublishHeaderWrite_kept h
  | wait => exact execWait_kept h
  | waitRecordPublished => exact execWaitRecordPublished_kept h
  | release => exact execRelease_kept h
  | lossKernel => exact execLossKernel_kept h
  | tyStall => exact execTyStall_kept h
  | tyTimeout => exact execTyTimeout_kept h
  | rebalMoving => exact execRebalMoving_kept h
  | rebalMoveComplete => exact execRebalMoveComplete_kept h
  | tyRebalAbandoned => exact execTyRebalAbandoned_kept h
  | pairingFree => exact execPairingFree_kept h
  | tyHvEnable => exact execTyHvEnable_kept h
  | harvestRecordCopy => exact execHarvestRecordCopy_kept h
  -- Numerics
  | startRun => exact execStartRun_kept h
  | endRun => exact execEndRun_kept h
  | numericsStateRead => exact execNumericsStateRead_kept h
  | numericsStateWaitEnd => exact execNumericsStateWaitEnd_kept h
  | slotTsQuery => exact execSlotTsQuery_kept h
  | phaseMark => exact execPhaseMark_kept h
  -- Reckoner
  | updatePush => exact execUpdatePush_kept h
  | passStart => exact execPassStart_kept h
  | passEnd => exact execPassEnd_kept h
  | tensorUpdateComplete => exact execTensorUpdateComplete_kept h
  | rootJobStart => exact execRootJobStart_kept h
  | rootJobEnd => exact execRootJobEnd_kept h
  | rootQuery => exact execRootQuery_kept h
  | rkGroupsWrite => exact execRkGroupsWrite_kept h
  -- Carry
  | groupForm => exact execGroupForm_kept h
  | groupLeave => exact execGroupLeave_kept h
  | handshakeUp => exact execHandshakeUp_kept h
  | handshakeResult => exact execHandshakeResult_kept h
  | cyFormTimeout => exact execCyFormTimeout_kept h
  | reduce => exact execReduce_kept h
  | allToAll => exact execAllToAll_kept h
  | allGather => exact execAllGather_kept h
  | closeStep => exact execCloseStep_kept h
  | carryTile => exact execCarryTile_kept h
  | layerSourceRead => exact execLayerSourceRead_kept h
  | segmentUnit => exact execSegmentUnit_kept h
  | segmentCombine => exact execSegmentCombine_kept h
  | bucketHeader => exact execBucketHeader_kept h
  | bucketComplete => exact execBucketComplete_kept h
  | chunkLanded => exact execChunkLanded_kept h
  | bucketTimeout => exact execBucketTimeout_kept h
  | verdictExchangeStart => exact execVerdictExchangeStart_kept h
  | verdictExchangeUp => exact execVerdictExchangeUp_kept h
  | verdictResult => exact execVerdictResult_kept h
  | mirrorEnable => exact execMirrorEnable_kept h
  | mirrorDisable => exact execMirrorDisable_kept h
  | mirrorRestore => exact execMirrorRestore_kept h
  | mirrorExport => exact execMirrorExport_kept h
  | mirrorCopyEnd => exact execMirrorCopyEnd_kept h
  | mirrorCommit => exact execMirrorCommit_kept h
  | mirrorRestoreEnd => exact execMirrorRestoreEnd_kept h
  -- Optical
  | lightDetected => exact execLightDetected_kept h
  | lightLost => exact execLightLost_kept h
  | trainingHoldEnd => exact execTrainingHoldEnd_kept h
  | trainingComplete => exact execTrainingComplete_kept h
  | trainingTimeout => exact execTrainingTimeout_kept h
  | hello => exact execHello_kept h
  | cert => exact execCert_kept h
  | proof => exact execProof_kept h
  | confirm => exact execConfirm_kept h
  | authTimeout => exact execAuthTimeout_kept h
  | flitReceive => exact execFlitReceive_kept h
  | retryReq => exact execRetryReq_kept h
  | idleAckTimer => exact execIdleAckTimer_kept h
  | ackTimeout => exact execAckTimeout_kept h
  | creditStall => exact execCreditStall_kept h
  | laneLockLoss => exact execLaneLockLoss_kept h
  | bamenMessage => exact execBamenMessage_kept h
  | transitSend => exact execTransitSend_kept h
  | routeAdvertisement => exact execRouteAdvertisement_kept h
  | routeAdvertTimer => exact execRouteAdvertTimer_kept h
  | routeExpiry => exact execRouteExpiry_kept h
  | degradedRecovery => exact execDegradedRecovery_kept h
  | quarantineHoldEnd => exact execQuarantineHoldEnd_kept h
  | keyEpochSwitch => exact execKeyEpochSwitch_kept h
  | linkEnable => exact execLinkEnable_kept h
  | linkDisable => exact execLinkDisable_kept h
  | linkRetrain => exact execLinkRetrain_kept h
  | linkRelease => exact execLinkRelease_kept h
  | linkShutdownEnd => exact execLinkShutdownEnd_kept h
  | slotAlignmentLoss => exact execSlotAlignmentLoss_kept h
  | flowHoldExpiry => exact execFlowHoldExpiry_kept h
  -- Serving
  | svStart => exact execSvStart_kept h
  | svStop => exact execSvStop_kept h
  | svDrain => exact execSvDrain_kept h
  | svSubmit => exact execSvSubmit_kept h
  | svCancel => exact execSvCancel_kept h
  | servingBoundary => exact execServingBoundary_kept h
  | demotionCopyEnd => exact execDemotionCopyEnd_kept h
  | draftPhase => exact execDraftPhase_kept h
  | verifyPhase => exact execVerifyPhase_kept h
  | delivery => exact execDelivery_kept h
  | jettonRow => exact execJettonRow_kept h
  | jettonRowDone => exact execJettonRowDone_kept h
  | ringChange => exact execRingChange_kept h
  | cqChTail => exact execCqChTail_kept h
  -- Partition
  | ptCreate => exact execPtCreate_kept h
  | ptDestroy => exact execPtDestroy_kept h
  | ptAdd => exact execPtAdd_kept h
  | ptRemove => exact execPtRemove_kept h
  | createZeroingEnd => exact execCreateZeroingEnd_kept h
  | addZeroingEnd => exact execAddZeroingEnd_kept h
  | quiesceEnd => exact execQuiesceEnd_kept h
  | removeZeroingEnd => exact execRemoveZeroingEnd_kept h
  | ctxEnable => exact execCtxEnable_kept h
  | ctxDisable => exact execCtxDisable_kept h
  | ctxYield => exact execCtxYield_kept h
  | ctxEvict => exact execCtxEvict_kept h
  | sliceExpiry => exact execSliceExpiry_kept h
  | yieldGraceExpiry => exact execYieldGraceExpiry_kept h
  | waitSwitchTimeout => exact execWaitSwitchTimeout_kept h
  | hardSwitchSave => exact execHardSwitchSave_kept h
  | hardSwitchEnd => exact execHardSwitchEnd_kept h
  | iiWindowEnd => exact execIiWindowEnd_kept h
  -- Stroke
  | ringFrame => exact execRingFrame_kept h
  | holdoverEntry => exact execHoldoverEntry_kept h
  | holdoverStroke => exact execHoldoverStroke_kept h
  | firstWaitExpiry => exact execFirstWaitExpiry_kept h
  | rejoinTimeout => exact execRejoinTimeout_kept h
  | powerSample => exact execPowerSample_kept h
  | governorRepeat => exact execGovernorRepeat_kept h
  | voltageSample => exact execVoltageSample_kept h
  | undervoltRelease => exact execUndervoltRelease_kept h
  | supplyShutdown => exact execSupplyShutdown_kept h
  | thermalSample => exact execThermalSample_kept h
  | throttleStep => exact execThrottleStep_kept h
  -- Host
  | hostLinkTrained => exact execHostLinkTrained_kept h
  | hostLinkDown => exact execHostLinkDown_kept h
  | cqSqTail => exact execCqSqTail_kept h
  | cqCqHead => exact execCqCqHead_kept h
  | cqFuncCtrl => exact execCqFuncCtrl_kept h
  | funcShutdownEnd => exact execFuncShutdownEnd_kept h
  | mailboxRead => exact execMailboxRead_kept h
  | mailboxWrite => exact execMailboxWrite_kept h
  | sqConfigWrite => exact execSqConfigWrite_kept h
  | cqConfigWrite => exact execCqConfigWrite_kept h
  | sqDrainEnd => exact execSqDrainEnd_kept h
  | commandFetch => exact execCommandFetch_kept h
  | run => exact execRun_kept h
  | runComplete => exact execRunComplete_kept h
  | dmaIn => exact execDmaIn_kept h
  | dmaOut => exact execDmaOut_kept h
  | dmaComplete => exact execDmaComplete_kept h
  | stage => exact execStage_kept h
  | update => exact execUpdate_kept h
  | carry => exact execCarry_kept h
  | slotRead => exact execSlotRead_kept h
  | slotWrite => exact execSlotWrite_kept h
  | exportMirror => exact execExportMirror_kept h
  | coalTimeout => exact execCoalTimeout_kept h
  | windowAccess => exact execWindowAccess_kept h
  | windowBlockFill => exact execWindowBlockFill_kept h
  | windowWriteback => exact execWindowWriteback_kept h
  | cqWinExtents => exact execCqWinExtents_kept h
  | windowOpen => exact execWindowOpen_kept h
  | functionLevelReset => exact execFunctionLevelReset_kept h
  | flrRegistersReset => exact execFlrRegistersReset_kept h
  | flrEnd => exact execFlrEnd_kept h
  | spdmRequest => exact execSpdmRequest_kept h
  | msixVectorUnmask => exact execMsixVectorUnmask_kept h
  | cqChShadow => exact execCqChShadow_kept h
  | vfEnable => exact execVfEnable_kept h
  -- Dictionary
  | objectWrite => exact execObjectWrite_kept h
  | rwpCommit => exact execRwpCommit_kept h
  | defaults => exact execDefaults_kept h
  | ringRead => exact execRingRead_kept h
  | ringWrite => exact execRingWrite_kept h
  | ringStage => exact execRingStage_kept h
  | ringCommit => exact execRingCommit_kept h
  | ringSnap => exact execRingSnap_kept h
  | ringPeek => exact execRingPeek_kept h
  | ringKey => exact execRingKey_kept h
  | monHelp => exact execMonHelp_kept h
  | monInfo => exact execMonInfo_kept h
  | login => exact execLogin_kept h
  | logout => exact execLogout_kept h
  | challenge => exact execChallenge_kept h
  | vendor => exact execVendor_kept h
  | monRead => exact execMonRead_kept h
  | monWrite => exact execMonWrite_kept h
  | monLog => exact execMonLog_kept h
  | watchOn => exact execWatchOn_kept h
  | watchOff => exact execWatchOff_kept h
  | monReset => exact execMonReset_kept h
  | monitorBreak => exact execMonitorBreak_kept h
  | monIdleTimeout => exact execMonIdleTimeout_kept h
  | loginLockEnd => exact execLoginLockEnd_kept h
  | challengeExpiry => exact execChallengeExpiry_kept h
  -- Boot
  | powerGood => exact execPowerGood_kept h
  | secFirmwareStart => exact execSecFirmwareStart_kept h
  | mgmtComplexStart => exact execMgmtComplexStart_kept h
  | mgmtReady => exact execMgmtReady_kept h
  | imagesVerified => exact execImagesVerified_kept h
  | computeReady => exact execComputeReady_kept h
  | writeImage => exact execWriteImage_kept h
  | writeImageEnd => exact execWriteImageEnd_kept h
  | selectBank => exact execSelectBank_kept h
  | commitSvn => exact execCommitSvn_kept h
  | attReport => exact execAttReport_kept h
  | coldReset => exact execColdReset_kept h
  | deviceReset => exact execDeviceReset_kept h
  | deviceResetHoldEnd => exact execDeviceResetHoldEnd_kept h
  | partitionReset => exact execPartitionReset_kept h
  | partitionResetKeys => exact execPartitionResetKeys_kept h
  | partitionResetEnd => exact execPartitionResetEnd_kept h
  | functionReset => exact execFunctionReset_kept h
  | portReset => exact execPortReset_kept h
  | mgmtWatchdog => exact execMgmtWatchdog_kept h

end Sys2Proof.Machine
end

section
namespace Sys2Proof.Machine

open Sys2Proof

/-- A step takes the front command from the queue, and keeps the upper deck in its canonical form. -/
theorem step_kept {s : State} (hud : Memory.wf s.decks.ud = true) : KeptOut s.pending.tail (step s) := by
  unfold step
  split
  next hnil =>
    have hs : Kept [] s := ⟨hnil, hud⟩
    rw [hnil]
    exact .next hs.tick
  next c rest hcons =>
    have hrest : Kept rest { s with pending := rest } := ⟨rfl, hud⟩
    rw [hcons]
    exact exec_kept hrest c

/-- Settles O60: by the lemma of each command above; where no command waits, the passing of time leaves the decks. -/
theorem everyStepKeepsTheUpperDeck : Obligations.EveryStepKeepsTheUpperDeck :=
  fun _ t hud ht => (step_kept hud t ht).deck

end Sys2Proof.Machine
end

section
/-! What a rod program's failing operation does to its rod and its command (R461). -/

namespace Sys2Proof.Machine

open Sys2Proof

variable (s : State)

@[simp] theorem runCmd_setRod (r : Nat) (v : Rod) (p : Nat) : (s.setRod r v).runCmd p = s.runCmd p := rfl

@[simp] theorem runCmd_setNum (q : Nat) (v : Num) (p : Nat) : (s.setNum q v).runCmd p = s.runCmd p := rfl

/-- A change of the running command is read back. -/
@[simp] theorem runCmd_setRunCmd (p : Nat) (f : RunCmd → RunCmd) : (s.setRunCmd p f).runCmd p = (s.runCmd p).map f := by
  unfold State.runCmd
  by_cases h : s.resident p < 8 <;> simp [State.setRunCmd, h]

/-- The running command depends on the objects and the contexts alone. -/
theorem runCmd_congr {t u : State} (ho : t.objs = u.objs) (hc : t.ctxs = u.ctxs) (p : Nat) : t.runCmd p = u.runCmd p := by
  unfold State.runCmd State.resident State.o State.ctx
  rw [ho, hc]

theorem setRunCmd_frame (p : Nat) (f : RunCmd → RunCmd) :
    s.setRunCmd p f = { s with ctxs := (s.setRunCmd p f).ctxs } := by
  unfold State.setRunCmd
  split <;> rfl

/-- A failing operation changes its rod and its command alone. -/
theorem failRod_frame (rod st : Nat) :
    s.failRod rod st = { s with rods := (s.failRod rod st).rods, ctxs := (s.failRod rod st).ctxs } := by
  unfold State.failRod State.failRun
  rw [setRunCmd_frame]
  rfl

@[simp] theorem rod_failRod (rod st : Nat) : (s.failRod rod st).rod rod = { s.rod rod with ended := true } := by
  simp [State.failRod]

/-- A command without a status takes the one that is raised (R461). -/
theorem status_failRod {rod : Nat} (st : Nat) {c : RunCmd} (hc : s.runCmd (s.owner rod) = some c) (h0 : c.cmd.status = 0) :
    ((s.failRod rod st).runCmd (s.owner rod)).map (fun c => c.cmd.status) = some st := by
  simp [State.failRod, State.failRun, hc, Cmd.raise, h0]

/-- A rod whose program issues operations belongs to a partition whose resident context runs a command (R37, R339). -/
theorem runCmd_of_issues {s : State} {rod : Nat} (h : s.issues rod = true) : ∃ c, s.runCmd (s.owner rod) = some c := by
  unfold State.issues at h
  cases hc : s.runCmd (s.owner rod) with
  | some c => exact ⟨c, rfl⟩
  | none => simp [hc] at h

theorem phaseTick_frame (p : Nat) : s.phaseTick p = { s with nums := (s.phaseTick p).nums } := by
  unfold State.phaseTick
  split <;> rfl

@[simp] theorem runCmd_phaseTick (q p : Nat) : (s.phaseTick q).runCmd p = s.runCmd p := by
  rw [phaseTick_frame]
  rfl

end Sys2Proof.Machine
end

section
/-! What follows the end of a pass (R212 to R215, R220 to R226, R262, R269): the step's update phase may end, tensor updates
may be given up, and waiting pushes enter the queue. `AfterPass` says what all of it leaves alone. -/

namespace Sys2Proof.Machine

open Sys2Proof

/-- The scalar objects that may change once a pass of partition `p` has been counted. -/
def PassEndKey (p k : Nat) : Prop :=
  k = kUW_STEP p ∨ k = kRK_STEP_STATUS p ∨ k = kPHASE_HEAD p ∨ k = kCY_MIRROR_NEXT p ∨ ∃ q, k = kCY_POISONED q

/-- The objects of the run and the counters of passes are none of them. -/
theorem not_passEndKey {p k : Nat} (hk : k ∈ [kRUN_STATE p, kRUN_STEP p, kLOSS_SCALE p, kGOOD_STEP_COUNT p,
    kRK_PASSES p, kRK_SKIPPED_PASSES p]) : ¬PassEndKey p k := by
  simp only [List.mem_cons, List.not_mem_nil, or_false] at hk
  rintro (h | h | h | h | ⟨q, h⟩) <;> simp only [kRUN_STATE, kRUN_STEP, kLOSS_SCALE, kGOOD_STEP_COUNT, kRK_PASSES,
    kRK_SKIPPED_PASSES, kUW_STEP, kRK_STEP_STATUS, kPHASE_HEAD, kCY_MIRROR_NEXT, kCY_POISONED] at hk h <;> omega

/-- From `s` to `t`: scalar objects other than `PassEndKey`'s and all byte objects are kept, and every pass in the queue was there
or was pushed since. -/
structure AfterPass (p : Nat) (s t : State) : Prop where
  objs : ∀ k, ¬PassEndKey p k → t.o k = s.o k
  blobs : t.blobs = s.blobs
  next : s.reck.nextId ≤ t.reck.nextId
  queue : ∀ y ∈ t.reck.q, y ∈ s.reck.q ∨ s.reck.nextId ≤ y.id

namespace AfterPass

variable {p : Nat} {s t u : State} {c : Prop} [Decidable c]

theorem refl : AfterPass p s s := ⟨fun _ _ => rfl, rfl, le_refl _, fun _ => .inl⟩

theorem trans (h : AfterPass p s t) (h' : AfterPass p t u) : AfterPass p s u where
  objs k hk := (h'.objs k hk).trans (h.objs k hk)
  blobs := h'.blobs.trans h.blobs
  next := h.next.trans h'.next
  queue y hy := (h'.queue y hy).elim (h.queue y) fun hn => .inr (h.next.trans hn)

/-- What is neither an object nor the queue of passes may change freely. -/
theorem frame (h : AfterPass p s t) (ho : u.objs = t.objs := by rfl) (hb : u.blobs = t.blobs := by rfl)
    (hq : u.reck.q = t.reck.q := by rfl) (hn : u.reck.nextId = t.reck.nextId := by rfl) : AfterPass p s u :=
  h.trans ⟨fun k _ => by rw [State.o, ho]; rfl, hb, hn.ge, fun _ hy => .inl (hq ▸ hy)⟩

theorem ite (ht : AfterPass p s t) (hu : AfterPass p s u) : AfterPass p s (if c then t else u) := by
  split <;> assumption

theorem foldl {α : Type} {f : State → α → State} {l : List α} (h : AfterPass p s t)
    (hf : ∀ t x, AfterPass p s t → AfterPass p s (f t x)) : AfterPass p s (l.foldl f t) :=
  List.foldlRecOn l f h fun t h x _ => hf t x h

/-! Records, slots, and commands of the host. -/

theorem setReck {r : Reck} (h : AfterPass p s t) (hq : r.q = t.reck.q := by rfl)
    (hn : r.nextId = t.reck.nextId := by rfl) : AfterPass p s { t with reck := r } :=
  h.frame rfl rfl hq hn

theorem setRkGroup {q k : Nat} {e : BitVec 512} (h : AfterPass p s t) : AfterPass p s (t.setRkGroup q k e) := h.frame

theorem setNum {q : Nat} {v : Num} (h : AfterPass p s t) : AfterPass p s (t.setNum q v) := h.frame

theorem setFunc {f : Nat} {v : Func} (h : AfterPass p s t) : AfterPass p s (t.setFunc f v) := h.frame

theorem hostWrite {a : Nat} {bs : List Byte} (h : AfterPass p s t) : AfterPass p s (t.hostWrite a bs) := h.frame

theorem setO {k v : Nat} (h : AfterPass p s t) (hk : PassEndKey p k) : AfterPass p s (t.setO k v) :=
  h.trans ⟨fun j hj => by rw [o_setO, if_neg fun e : j = k => hj (e ▸ hk)], rfl, le_refl _, fun _ => .inl⟩

theorem errRec {r : ErrRec} (h : AfterPass p s t) (hr : r.cls ≠ 3) : AfterPass p s (t.errRec r) :=
  h.frame (errRec_objs t r hr) (errRec_blobs t r) (by rw [errRec_reck]) (by rw [errRec_reck])

theorem failRod {rod st : Nat} (h : AfterPass p s t) : AfterPass p s (t.failRod rod st) := by
  rw [failRod_frame]
  exact h.frame

theorem coalesce {fn cq : Nat} (h : AfterPass p s t) : AfterPass p s (t.coalesce fn cq) :=
  .ite h (.ite (.ite h.frame h.frame) h)

theorem poison {q : Nat} (h : AfterPass p s t) : AfterPass p s (t.poison q) :=
  h.foldl fun _ _ h => .ite h.frame (h.frame.setO (.inr (.inr (.inr (.inr ⟨q, rfl⟩)))))

theorem endStatus {k : Cmd} {st : Nat} (h : AfterPass p s t) : AfterPass p s (t.endStatus k st) :=
  .ite h h.poison

theorem complete {k : Cmd} {st r : Nat} {w : Nsw} (h : AfterPass p s t) : AfterPass p s (t.complete k st r w) :=
  .ite h.endStatus h.endStatus.hostWrite.setFunc.coalesce

theorem completeLive {id st r : Nat} {w : Nsw} (h : AfterPass p s t) : AfterPass p s (t.completeLive id st r w) := by
  unfold State.completeLive
  split
  · exact h.frame.complete
  · exact h

theorem completeOpt {id : Option Nat} {st r : Nat} {w : Nsw} (h : AfterPass p s t) :
    AfterPass p s (t.completeOpt id st r w) := by
  cases id with
  | some => exact h.completeLive
  | none => exact h

/-! The end of an update phase. -/

theorem setFactorBlock {q fb : Nat} {f} (h : AfterPass p s t) : AfterPass p s (t.setFactorBlock q fb f) := by
  unfold State.setFactorBlock
  split
  · exact h.frame
  · exact h

theorem installRoots {q run step : Nat} (h : AfterPass p s t) : AfterPass p s (t.installRoots q run step) :=
  h.setReck.foldl fun _ _ h => h.setReck.setFactorBlock

theorem applyHeldGroups {q : Nat} (h : AfterPass p s t) : AfterPass p s (t.applyHeldGroups q) :=
  h.setReck.foldl fun _ _ h => h.setRkGroup

theorem writeRatios {run step : Nat} (h : AfterPass p s t) : AfterPass p s (t.writeRatios p run step) :=
  have h' {v w} : AfterPass p s ((t.setNum p v).setO (kUW_STEP p) w) := h.setNum.setO (.inl rfl)
  .ite h' (h'.errRec (Nat.zero_ne_add_one 2))

theorem forgetStep {q run step : Nat} (h : AfterPass p s t) : AfterPass p s (t.forgetStep q run step) :=
  h.setReck.setNum

theorem phaseTick {q : Nat} (h : AfterPass p s t) : AfterPass p s (t.phaseTick q) := .ite h h.setNum

theorem phaseEnd {step : Nat} {skipped : Bool} {scale : F32} (h : AfterPass p s t) :
    AfterPass p s (t.phaseEnd p step skipped scale) :=
  h.phaseTick.setNum.setNum.setO (.inr (.inr (.inl rfl)))

theorem mirrorStart {step : Nat} (h : AfterPass p s t) : AfterPass p s (t.mirrorStart p step) :=
  .ite (h.frame.setO (.inr (.inr (.inr (.inl rfl))))) h

theorem updateEnd {run step : Nat} (h : AfterPass p s t) : AfterPass p s (t.updateEnd p run step) := by
  unfold State.updateEnd
  extract_lets +onlyGivenNames r mine gone
  split
  · refine .ite h ?_
    extract_lets scheds acc now s1 sr s2 s3 src s4 st s5 s6 s7
    have h1 : AfterPass p s s1 := .ite h.setReck h
    have h2 : AfterPass p s s2 := .ite (h1.foldl fun _ _ h => h.setRkGroup).installRoots.writeRatios h1
    have h5 : AfterPass p s s5 := h2.forgetStep.setReck.setO (.inr (.inl rfl))
    have h6 : AfterPass p s s6 := .ite h5 h5.applyHeldGroups
    exact (AfterPass.ite h6.phaseEnd h6).mirrorStart
  · exact .ite (.ite h.forgetStep h.forgetStep.applyHeldGroups) h

/-! Tensor updates. -/

theorem settleSlotWrites {q : Nat} (h : AfterPass p s t) : AfterPass p s (t.settleSlotWrites q) :=
  h.foldl fun _ _ h => h.completeLive

theorem dropTensor {x : TensorUpd} (h : AfterPass p s t) : AfterPass p s (t.dropTensor x) := by
  unfold State.dropTensor
  dsimp only
  split
  · exact AfterPass.settleSlotWrites h.frame
  · exact h.frame

theorem dropTensors {q : Nat} (h : AfterPass p s t) : AfterPass p s (t.dropTensors q) := h.foldl fun _ _ h => h.dropTensor

end AfterPass

end Sys2Proof.Machine
end

section
/-! Pushes (R220). -/

namespace Sys2Proof.Machine

open Sys2Proof

/-- The schedule engine adds to its own values alone (R227). -/
theorem schedule_eq (s : State) (p run step k : Nat) :
    ∃ l, s.schedule p run step k = { s with reck := { s.reck with sched := l } } := by
  unfold State.schedule
  split
  · exact ⟨s.reck.sched, rfl⟩
  · exact ⟨_, rfl⟩

/-- A pass that a push appends. -/
def State.pushed (s : State) (p : Nat) (d : BitVec 512) (cmd : Option Nat) (die : Nat) : Pass :=
  { id := s.reck.nextId, part := p, desc := d, run := (s.num p).runs, step := s.fullStep p (udStep d), cmd := cmd
    reck := die, phase := 0
    late := s.reck.eos.any (fun e => e.part == p && e.run == (s.num p).runs && e.step == s.fullStep p (udStep d)) }

/-- A push that passes its checks appends its pass, and nothing outside the reckoners changes. -/
theorem pushPass_ok {s : State} {p : Nat} {d : BitVec 512} {die : Nat} (cmd : Option Nat) (h : s.passCheck p d = .ok die) :
    ∃ t, s.pushPass p d cmd = .ok t ∧ t.reck.q = s.reck.q ++ [s.pushed p d cmd die] ∧
      t.reck.nextId = s.reck.nextId + 1 ∧ t = { s with reck := t.reck } := by
  unfold State.pushPass
  rw [h]
  dsimp only
  split
  · refine ⟨_, rfl, ?_⟩
    split
    · obtain ⟨l, hl⟩ := schedule_eq { s with reck := _ } p (s.num p).runs (s.fullStep p (udStep d)) (udGroup d)
      rw [hl]
      exact ⟨rfl, rfl, rfl⟩
    · exact ⟨rfl, rfl, rfl⟩
  · exact ⟨_, rfl, rfl, rfl, rfl⟩

/-- A push that fails a check changes nothing by itself. -/
theorem pushPass_error {s : State} {p : Nat} {d : BitVec 512} {e : Nat} (cmd : Option Nat) (h : s.passCheck p d = .error e) :
    s.pushPass p d cmd = .error e := by
  unfold State.pushPass
  rw [h]

theorem rodUpdate_ok {s : State} {rod die : Nat} {d : BitVec 512} (h : s.passCheck (s.owner rod) d = .ok die) :
    (s.rodUpdate rod d).reck.q = s.reck.q ++ [s.pushed (s.owner rod) d none die] ∧
      (s.rodUpdate rod d).reck.nextId = s.reck.nextId + 1 ∧
      s.rodUpdate rod d = { s with reck := (s.rodUpdate rod d).reck } := by
  obtain ⟨t, ht, hq, hn, hf⟩ := pushPass_ok none h
  have he : s.rodUpdate rod d = t := by
    unfold State.rodUpdate
    dsimp only
    rw [ht]
  rw [he]
  exact ⟨hq, hn, hf⟩

theorem rodUpdate_error {s : State} {rod e : Nat} {d : BitVec 512} (h : s.passCheck (s.owner rod) d = .error e) :
    s.rodUpdate rod d = (s.errRec (s.pushRec (s.owner rod) d e)).failRod rod e := by
  unfold State.rodUpdate
  dsimp only
  rw [pushPass_error none h]

theorem AfterPass.rodUpdate {p rod : Nat} {d : BitVec 512} {s t : State} (h : AfterPass p s t) :
    AfterPass p s (t.rodUpdate rod d) := by
  cases hc : t.passCheck (t.owner rod) d with
  | error e =>
    rw [rodUpdate_error hc]
    exact (h.errRec (by simp [State.pushRec, passRec])).failRod
  | ok die =>
    obtain ⟨hq, hn, hf⟩ := rodUpdate_ok hc
    refine h.trans ⟨fun k _ => by rw [hf]; rfl, by rw [hf], by omega, fun y hy => ?_⟩
    rw [hq, List.mem_append, List.mem_singleton] at hy
    exact hy.imp_right fun hy => (congrArg Pass.id hy).ge

theorem AfterPass.admitPasses {p q n : Nat} {s t : State} (h : AfterPass p s t) :
    AfterPass p s (State.admitPasses q n t) := by
  induction n generalizing t with
  | zero => exact h
  | succ n ih =>
    unfold State.admitPasses
    dsimp only
    split
    · exact h
    · exact .ite h (ih (AfterPass.rodUpdate h.frame))

end Sys2Proof.Machine
end

section
/-! Runs and the numerics state of a step (R193 to R196). -/

namespace Sys2Proof.Machine

open Sys2Proof

/-- START_RUN in its turn (R195, R410). -/
theorem execStartRun_eq {path : Path} {p : Nat} {s : State} (hp : p < 16) :
    execStartRun path p s = .next ((s.ringBefore path).control path (fun s => s.startRun p)).pollAll := by
  unfold execStartRun
  rw [if_pos hp]
  rfl

/-- END_RUN in its turn (R195, R410). -/
theorem execEndRun_eq {path : Path} {p : Nat} {s : State} (hp : p < 16) :
    execEndRun path p s = .next ((s.ringBefore path).control path (fun s => s.endRunNum p)).pollAll := by
  unfold execEndRun
  rw [if_pos hp]
  rfl

variable {s : State} {p : Nat}

theorem startRun_idle (hr : s.running p = false) (hc : s.anyCommand p = false) : s.startRun p = (s.beginRun p, 0) := by
  simp [State.startRun, hr, hc]

theorem startRun_busy (h : s.running p = true ∨ s.anyCommand p = true) : s.startRun p = (s, stNUM_BUSY) := by
  simp [State.startRun, h]

theorem endRunNum_idle (h : s.running p = false) : s.endRunNum p = (s, 0) := by simp [State.endRunNum, h]

theorem endRunNum_running (h : s.running p = true) : s.endRunNum p = ((s.reckEndRun p).idleRun p, 0) := by
  simp [State.endRunNum, h]

/-! A status reported on a path leaves the state of the run. -/

@[simp] theorem running_report (path : Path) (st : Nat) : (s.report path st).running p = s.running p := rfl

@[simp] theorem runStep_report (path : Path) (st : Nat) : (s.report path st).runStep p = s.runStep p := rfl

@[simp] theorem lossScale_report (path : Path) (st step : Nat) : (s.report path st).lossScale p step = s.lossScale p step :=
  rfl

/-! The beginning of a run (R195). -/

theorem beginRun_frame : s.beginRun p = { s with objs := (s.beginRun p).objs, nums := (s.beginRun p).nums
                                                 reck := (s.beginRun p).reck } := rfl

theorem running_beginRun : (s.beginRun p).running p = true := by simp [State.beginRun, State.running]

theorem o_beginRun {k : Nat} (h : k ≠ kRUN_STATE p) : (s.beginRun p).o k = s.o k := by
  simp only [State.beginRun, o_setO, if_neg h]
  rfl

theorem runStep_beginRun : (s.beginRun p).runStep p = s.runStep p := o_beginRun (by simp)

theorem num_beginRun_self : ((s.beginRun p).num p).fixedStep = s.runStep p ∧ ((s.beginRun p).num p).s0 = s.runStep p ∧
    ((s.beginRun p).num p).scales = tset 0 [] (s.runStep p) (BitVec.ofNat 32 (s.o (kLOSS_SCALE p))) := by
  simp [State.beginRun]

theorem num_beginRun_ne {q : Nat} (h : q ≠ p) : (s.beginRun p).num q = s.num q := by
  simp only [State.beginRun, setO_num, num_setNum, if_neg h]
  rfl

/-- The loss scale of a run's first step is LOSS_SCALE (R195, R196). -/
theorem lossScale_beginRun : (s.beginRun p).lossScale p (s.runStep p) = BitVec.ofNat 32 (s.o (kLOSS_SCALE p)) := by
  unfold State.lossScale
  rw [num_beginRun_self.2.2, o_beginRun (by simp), tget_tset, if_pos rfl]
  split
  · rfl
  · rfl

end Sys2Proof.Machine
end

section
/-! A pass that leaves the queue without effect (R221, R238, R240). -/

namespace Sys2Proof.Machine

open Sys2Proof

variable {s : State} {x : Pass} {st : Nat}

/-- A pass is out of the queue, and RK_LAST_ERROR holds its status, group and step (R240). -/
def State.passNoted (s : State) (x : Pass) (st : Nat) : State :=
  { s with reck := { s.reck with q := s.reck.q.filter (fun y => y.id != x.id) } }.setBlob (kRK_LAST_ERROR x.part) 0
    (leBytes 4 st ++ leBytes 4 (udGroup x.desc) ++ leBytes 8 x.step)

/-- A pass leaves the queue with a status other than success; what follows from that has not happened yet. -/
def State.passDropped (s : State) (x : Pass) (st : Nat) : State :=
  if st = stRK_SKIPPED then (s.passNoted x st).addO 32 (kRK_SKIPPED_PASSES x.part) 1
  else (s.passNoted x st).errRec (passRec x.part st x.addr)

theorem completePass_eq (h0 : st ≠ 0) : s.completePass x st = State.admitPasses x.part 4096
    ((((s.passDropped x st).completeOpt x.cmd st 0 x.nsw).updateEnd x.part x.run x.step).dropTensors x.part) := by
  unfold State.completePass State.passDropped State.passNoted
  by_cases h : st = stRK_SKIPPED <;> simp [h0, h]

theorem completePass_after (h0 : st ≠ 0) : AfterPass x.part (s.passDropped x st) (s.completePass x st) := by
  rw [completePass_eq h0]
  exact AfterPass.refl.completeOpt.updateEnd.dropTensors.admitPasses

theorem passDropped_reck :
    (s.passDropped x st).reck = { s.reck with q := s.reck.q.filter (fun y => y.id != x.id) } := by
  unfold State.passDropped State.passNoted
  split <;> simp

theorem passDropped_blobs : (s.passDropped x st).blobs = (s.passNoted x st).blobs := by
  unfold State.passDropped
  split
  · rfl
  · exact errRec_blobs ..

/-- Of the scalar objects, only the counter of skipped passes changes. -/
theorem passDropped_o {k : Nat} (hk : st = stRK_SKIPPED → k ≠ kRK_SKIPPED_PASSES x.part) :
    (s.passDropped x st).o k = s.o k := by
  have hn : (s.passNoted x st).o k = s.o k := setBlob_o ..
  unfold State.passDropped
  split
  next h => rw [o_addO, if_neg (hk h), hn]
  next => rw [State.o, errRec_objs _ _ (by simp [passRec]), ← State.o, hn]

theorem passDropped_skipped : (s.passDropped x stRK_SKIPPED).o (kRK_SKIPPED_PASSES x.part) =
    min (s.o (kRK_SKIPPED_PASSES x.part) + 1) (2 ^ 32 - 1) := by
  have hn : (s.passNoted x stRK_SKIPPED).o (kRK_SKIPPED_PASSES x.part) = s.o (kRK_SKIPPED_PASSES x.part) := setBlob_o ..
  rw [State.passDropped, if_pos rfl, o_addO, if_pos rfl, hn, satAdd]

/-- A number in a byte object depends on the bytes alone. -/
theorem blobNum_congr {t u : State} (h : t.blobs = u.blobs) (k off n : Nat) : t.blobNum k off n = u.blobNum k off n := by
  unfold State.blobNum State.blob
  rw [h]

theorem passNoted_lastError (h : st < 2 ^ 16) : (s.passNoted x st).blobNum (kRK_LAST_ERROR x.part) 0 4 = st := by
  have hl : (leBytes 4 st ++ leBytes 4 (udGroup x.desc) ++ leBytes 8 x.step).length = 16 := by simp
  rw [State.passNoted, blobNum_setBlob _ _ _ _ _ (by omega) (by rw [hl]; decide), List.append_assoc,
    List.take_left' (length_leBytes 4 st), leNat_leBytes]
  omega

/-- What stands after a pass has ended with a status other than success (R240): it is out of the queue, RK_LAST_ERROR holds
the status, and the counters stand but for that of skipped passes. -/
theorem completePass_spec (h0 : st ≠ 0) (h : st < 2 ^ 16) (hid : x.id < s.reck.nextId) :
    (∀ y ∈ (s.completePass x st).reck.q, y.id ≠ x.id) ∧
      (s.completePass x st).blobNum (kRK_LAST_ERROR x.part) 0 4 = st ∧
      (s.completePass x st).o (kRK_PASSES x.part) = s.o (kRK_PASSES x.part) ∧
      (st = stRK_SKIPPED → (s.completePass x st).o (kRK_SKIPPED_PASSES x.part) =
        min (s.o (kRK_SKIPPED_PASSES x.part) + 1) (2 ^ 32 - 1)) := by
  have ha := completePass_after (s := s) (x := x) h0
  refine ⟨fun y hy => ?_, ?_, ?_, ?_⟩
  · have hq := ha.queue y hy
    rw [passDropped_reck] at hq
    rcases hq with hq | hq
    · simpa using (List.mem_filter.mp hq).2
    · exact (hid.trans_le hq).ne'
  · rw [blobNum_congr (ha.blobs.trans passDropped_blobs), passNoted_lastError h]
  · rw [ha.objs _ (not_passEndKey (by simp)), passDropped_o (by simp)]
  · rintro rfl
    rw [ha.objs _ (not_passEndKey (by simp)), passDropped_skipped]

/-- The objects that the end of such a pass keeps. -/
theorem completePass_o (h0 : st ≠ 0) {k : Nat} (hs : st ≠ stRK_SKIPPED) (hk : ¬PassEndKey x.part k) :
    (s.completePass x st).o k = s.o k := by
  rw [(completePass_after h0).objs k hk, passDropped_o fun h => absurd h hs]

end Sys2Proof.Machine
end

section
/-! The end of a run (R195, R239). -/

namespace Sys2Proof.Machine

open Sys2Proof

variable {s : State} {p : Nat}

/-- What END_RUN does on the reckoners keeps the objects of the run. -/
theorem reckEndRun_o {k : Nat} (hk : ¬PassEndKey p k) : (s.reckEndRun p).o k = s.o k := by
  unfold State.reckEndRun
  extract_lets jobs due src s1 s2 open_ s3 steps s4 s5
  have h2 : AfterPass p s1 s2 := AfterPass.refl.foldl fun _ _ h => h.setFactorBlock
  have h3 : s3.o k = s2.o k := by
    refine List.foldlRecOn (motive := fun t : State => t.o k = s2.o k) open_ _ rfl fun t ht x hx => ?_
    have hp : x.part = p := by
      obtain ⟨-, hsel⟩ := List.mem_filter.mp hx
      simp only [Bool.and_eq_true, beq_iff_eq] at hsel
      obtain ⟨⟨hpart, -⟩, -⟩ := hsel
      exact hpart
    rw [completePass_o (by decide) (by decide) (hp ▸ hk), ht]
  have h4 : AfterPass p s3 s4 := AfterPass.refl.foldl fun _ _ h => h.forgetStep
  have h5 : AfterPass p s3 s5 := h4.dropTensors
  have h6 : AfterPass p s3 (if s5.updating p then s5 else s5.applyHeldGroups p) := .ite h5 h5.applyHeldGroups
  rw [h6.objs k hk, h3, h2.objs k hk]
  rfl

theorem failCtx_objs (s : State) (q c st rod : Nat) : (s.failCtx q c st rod).objs = s.objs := by
  unfold State.failCtx
  split <;> rfl

/-- Waits that end change no object. -/
theorem endWaits_objs (s : State) (c : Nat) (pred : RodWait → Bool) (st : Nat) : (s.endWaits p c pred st).objs = s.objs := by
  unfold State.endWaits
  split
  · refine List.foldlRecOn (motive := fun t : State => t.objs = s.objs) _ _ rfl fun t ht r _ => ?_
    split
    · rw [failCtx_objs, setRod_objs, ht]
    · exact ht
  · dsimp only
    split
    · rw [failCtx_objs, setCtx_objs]
    · rfl

theorem endAllWaits_objs (s : State) (pred : RodWait → Bool) (st : Nat) : (s.endAllWaits p pred st).objs = s.objs :=
  List.foldlRecOn (motive := fun t : State => t.objs = s.objs) _ _ rfl fun t ht c _ => by rw [endWaits_objs, ht]

/-- The partition becomes IDLE, and no other object changes (R195). -/
theorem idleRun_o (k : Nat) : (s.idleRun p).o k = if k = kRUN_STATE p then 0 else s.o k := by
  rw [State.idleRun, State.o, endAllWaits_objs, ← State.o, o_setO]

theorem running_idleRun : (s.idleRun p).running p = false := by
  rw [State.running, idleRun_o, if_pos rfl]
  rfl

/-- END_RUN keeps RUN_STEP, LOSS_SCALE and GOOD_STEP_COUNT (R195). -/
theorem endRun_o {k : Nat} (hk : k ∈ [kRUN_STEP p, kLOSS_SCALE p, kGOOD_STEP_COUNT p]) :
    ((s.reckEndRun p).idleRun p).o k = s.o k := by
  have hne : k ≠ kRUN_STATE p := by
    simp only [List.mem_cons, List.not_mem_nil, or_false] at hk
    rcases hk with rfl | rfl | rfl <;> simp
  rw [idleRun_o, if_neg hne, reckEndRun_o (not_passEndKey (by simp at hk ⊢; tauto))]

end Sys2Proof.Machine
end

section
/-! START_RUN, END_RUN and the reads of the numerics state, by the cases of each (R193 to R196). -/

namespace Sys2Proof.Machine

open Sys2Proof

variable {path : Path} {p rod step : Nat} {s : State}

/-- START_RUN of an IDLE partition without a command makes it RUNNING at RUN_STEP (R195). -/
theorem startRun_begins (v : State) (hp : p < 16) (hu : v.dictUp = true) (hw : v.mayWrite path = true)
    (hv : s.ringBefore path = v) (hr : v.running p = false) (hc : v.anyCommand p = false) :
    execStartRun path p s = .next ((v.beginRun p).report path 0).pollAll := by
  rw [execStartRun_eq hp, hv, control_accepted v hu hw (startRun_idle hr hc)]

/-- What START_RUN of an IDLE partition leaves when its status has been reported (R195, R196). -/
theorem startRun_spec (v : State) (st : Nat) : let t := (v.beginRun p).report path st
    t.running p = true ∧ t.runStep p = v.runStep p ∧ t.lossScale p (v.runStep p) = BitVec.ofNat 32 (v.o (kLOSS_SCALE p)) ∧
      (t.num p).fixedStep = v.runStep p ∧ (t.num p).s0 = v.runStep p ∧ (∀ q, q ≠ p → t.num q = v.num q) ∧
      tget 0 t.status (pathCode path) = st := by
  obtain ⟨hfix, hs0, -⟩ := num_beginRun_self (s := v) (p := p)
  simp only [running_report, runStep_report, lossScale_report, report_num, report_get, and_true]
  exact ⟨running_beginRun, runStep_beginRun, lossScale_beginRun, hfix, hs0, fun q hq => num_beginRun_ne hq⟩

theorem startRun_frame (v : State) (st : Nat) : let t := (v.beginRun p).report path st
    t = { v with objs := t.objs, nums := t.nums, reck := t.reck, status := t.status } := by
  have hf := beginRun_frame (s := v) (p := p)
  generalize v.beginRun p = t at hf ⊢
  rw [hf]
  rfl

theorem startRun_refused (v : State) (hp : p < 16) (hu : v.dictUp = true) (hw : v.mayWrite path = true)
    (hv : s.ringBefore path = v) (h : v.running p = true ∨ v.anyCommand p = true) :
    execStartRun path p s = .next (v.report path stNUM_BUSY).pollAll := by
  have hb := startRun_busy h
  rw [execStartRun_eq hp, hv, control_refused v hu hw (by rw [hb]; exact Nat.succ_ne_zero _), hb]

theorem endRun_ends (v : State) (hp : p < 16) (hu : v.dictUp = true) (hw : v.mayWrite path = true)
    (hv : s.ringBefore path = v) {t : State} (h : v.endRunNum p = (t, 0)) :
    execEndRun path p s = .next (t.report path 0).pollAll := by
  rw [execEndRun_eq hp, hv, control_accepted v hu hw h]

/-- What END_RUN of a RUNNING partition leaves when its status has been reported (R195). -/
theorem endRun_spec (v : State) (st : Nat) : let t := ((v.reckEndRun p).idleRun p).report path st
    t.running p = false ∧ t.runStep p = v.runStep p ∧ t.o (kLOSS_SCALE p) = v.o (kLOSS_SCALE p) ∧
      t.o (kGOOD_STEP_COUNT p) = v.o (kGOOD_STEP_COUNT p) ∧ tget 0 t.status (pathCode path) = st := by
  simp only [running_report, runStep_report, report_o, report_get, and_true]
  exact ⟨running_idleRun, endRun_o (by simp), endRun_o (by simp), endRun_o (by simp)⟩

/-! The read of the numerics state (R196). -/

theorem numericsStateRead_fixed (g : Bool) (hi : s.issues rod = true) (hr : s.running (s.owner rod) = true)
    (hf : s.fixed (s.owner rod) step = true) : execNumericsStateRead rod ⟨step, g⟩ s =
      .next (s.setRod rod { s.rod rod with ret := s.numState (s.owner rod) step }) := by
  simp [execNumericsStateRead, hi, hr, hf]

theorem numericsStateRead_guarded (hi : s.issues rod = true) (hr : s.running (s.owner rod) = true)
    (hf : s.fixed (s.owner rod) step = false) (hs : step = (s.num (s.owner rod)).fixedStep + 1) :
    execNumericsStateRead rod ⟨step, true⟩ s = .next (s.setRod rod { s.rod rod with
      ret := if s.guarded (s.owner rod) step then 2 ^ 32 else 0 }) := by
  simp [execNumericsStateRead, hi, hr, hf, ← hs]

theorem numericsStateRead_waits (hi : s.issues rod = true) (hr : s.running (s.owner rod) = true)
    (hf : s.fixed (s.owner rod) step = false) (hs : step = (s.num (s.owner rod)).fixedStep + 1) :
    execNumericsStateRead rod ⟨step, false⟩ s = .next (s.setRod rod { s.rod rod with
      wait := .numerics step, waitStrokes := 0, waitSince := s.ns }) := by
  simp [execNumericsStateRead, hi, hr, hf, ← hs]

theorem numericsStateRead_fails (g : Bool) (hi : s.issues rod = true) (h : s.running (s.owner rod) = false ∨
    s.fixed (s.owner rod) step = false ∧ step ≠ (s.num (s.owner rod)).fixedStep + 1) :
    execNumericsStateRead rod ⟨step, g⟩ s = .next (s.failRod rod stNUM_STEP_RANGE) := by
  rcases h with h | ⟨hf, hs⟩
  · simp [execNumericsStateRead, hi, h]
  · simp [execNumericsStateRead, hi, hf, hs]

theorem numericsStateWaitEnd_returns (hw : (s.rod rod).wait = .numerics step) (hr : s.running (s.owner rod) = true)
    (hf : s.fixed (s.owner rod) step = true) : execNumericsStateWaitEnd rod s =
      .next (s.setRod rod { s.rod rod with wait := .none, ret := s.numState (s.owner rod) step }) := by
  simp [execNumericsStateWaitEnd, hw, hr, hf]

theorem numericsStateWaitEnd_ends (hw : (s.rod rod).wait = .numerics step) (hr : s.running (s.owner rod) = false) :
    execNumericsStateWaitEnd rod s =
      .next ((s.setRod rod { s.rod rod with wait := .none }).failRod rod stNUM_STEP_RANGE) := by
  simp [execNumericsStateWaitEnd, hw, hr]

/-- Settles O20: each command by what its operation answers in each case; END_RUN by the objects that every pass it completes
leaves alone. -/
theorem runsStartAndEnd : Obligations.RunsStartAndEnd := by
  unfold Obligations.RunsStartAndEnd
  refine ⟨?_, ?_, ?_⟩
  · intro path p s v hp hu hw
    refine ⟨fun hr hc => ?_, startRun_refused v hp hu hw rfl, fun hr => endRun_ends v hp hu hw rfl (endRunNum_idle hr),
      fun hr => ?_⟩
    · obtain ⟨hrun, hstep, hscale, hfix, hs0, hnum, hst⟩ := startRun_spec (path := path) (p := p) v 0
      exact ⟨_, startRun_begins v hp hu hw rfl hr hc, hrun, hstep, hscale, hfix, hs0, hnum, hst,
        startRun_frame v 0⟩
    · exact ⟨_, endRun_ends v hp hu hw rfl (endRunNum_running hr), endRun_spec v 0⟩
  · intro rod step s hi
    refine ⟨fun hr hf g => numericsStateRead_fixed g hi hr hf, fun hr hf hs => ⟨numericsStateRead_guarded hi hr hf hs, ?_⟩,
      fun h g => ?_⟩
    · exact ⟨_, numericsStateRead_waits hi hr hf hs, by simp, rfl⟩
    · exact ⟨_, numericsStateRead_fails g hi h, by simp, fun c hc h0 => status_failRod s _ hc h0, failRod_frame ..⟩
  · intro rod step s hw
    refine ⟨numericsStateWaitEnd_returns hw, fun hr => ⟨_, numericsStateWaitEnd_ends hw hr, by simp, by simp, ?_⟩⟩
    rw [failRod_frame]
    rfl

end Sys2Proof.Machine
end

section
/-! The start of a pass (R221, R223). -/

namespace Sys2Proof.Machine

open Sys2Proof

/-- The lowest status that applies is one of them, if any does. -/
theorem lowest_mem {l : List (Bool × Nat)} (h : lowest l ≠ 0) : (true, lowest l) ∈ l := by
  suffices H : ∀ (m : List (Bool × Nat)) (a : Nat), m.foldl (fun a x => if a = 0 || x.2 < a then x.2 else a) a = a ∨
      ∃ x ∈ m, x.2 = m.foldl (fun a x => if a = 0 || x.2 < a then x.2 else a) a by
    obtain h0 | ⟨x, hx, he⟩ := H (l.filter (·.1)) 0
    · exact absurd h0 h
    · obtain ⟨hm, ht⟩ := List.mem_filter.mp hx
      have : x = (true, lowest l) := Prod.ext ht he
      exact this ▸ hm
  intro m
  induction m with
  | nil => exact fun a => .inl rfl
  | cons y m ih =>
    intro a
    rw [List.foldl_cons]
    obtain h' | ⟨x, hx, he⟩ := ih (if a = 0 || y.2 < a then y.2 else a)
    · rw [h']
      split
      · exact .inr ⟨y, List.mem_cons_self, rfl⟩
      · exact .inl rfl
    · exact .inr ⟨x, List.mem_cons_of_mem y hx, he⟩

variable {s t : State} {x : Pass}

/-- A pass joins the tensor update on its slot or word, or begins one (R223). -/
theorem joinTensor_ok (h : s.joinTensor x = .ok t) : (s.tensorOf x.part x.desc ≠ none ∧ t = s) ∨
    ∃ w, t = { s with reck := { s.reck with tensors := s.reck.tensors ++ [s.newTensor x w] } } := by
  unfold State.joinTensor at h
  extract_lets p d at h
  split at h
  · cases h
  · cases h
  · extract_lets w failed st at h
    split at h
    · cases h
    · split at h
      next u hu =>
        cases h
        exact .inl ⟨by rw [hu]; simp, rfl⟩
      next =>
        cases h
        exact .inr ⟨w, rfl⟩

/-- Joining a tensor update leaves everything outside the reckoners, and their queues. -/
theorem joinTensor_frame (h : s.joinTensor x = .ok t) : t.reck.q = s.reck.q ∧ t = { s with reck := t.reck } := by
  obtain ⟨-, rfl⟩ | ⟨w, rfl⟩ := joinTensor_ok h <;> exact ⟨rfl, rfl⟩

/-- A pass without a tensor update in progress begins one at the TS of its slot (R223). -/
theorem joinTensor_begins (h : s.joinTensor x = .ok t) (hn : s.tensorOf x.part x.desc = none) :
    ∃ u ∈ t.reck.tensors, u.part = x.part ∧ u.slot = udSlot x.desc ∧ u.tsn = slotTs (s.slot x.part (udSlot x.desc)) ∧
      u.done = 0 := by
  obtain ⟨hs, -⟩ | ⟨w, rfl⟩ := joinTensor_ok h
  · exact absurd hn hs
  · exact ⟨s.newTensor x w, List.mem_append_right _ (List.mem_singleton_self _), rfl, rfl, rfl, rfl⟩

/-- A pass of the queue runs. -/
def State.passRuns (t : State) (x : Pass) : State :=
  { t with reck := { t.reck with q := t.reck.q.map (fun y => if y.id = x.id then { y with phase := 1 } else y) } }

theorem mem_passRuns (h : x ∈ t.reck.q) : ∃ y ∈ (t.passRuns x).reck.q, y.id = x.id ∧ y.phase = 1 :=
  ⟨{ x with phase := 1 }, List.mem_map.mpr ⟨x, h, if_pos rfl⟩, rfl, rfl⟩

/-- RK_ORDER is the status of a pass beside a tensor update in progress (R223). -/
theorem tensorOf_of_order {a : Nat} (h : s.joinTensor x = .error (stRK_ORDER, a)) :
    ∃ u, s.tensorOf x.part x.desc = some u := by
  cases ht : s.tensorOf x.part x.desc with
  | some u => exact ⟨u, rfl⟩
  | none =>
    unfold State.joinTensor at h
    cases hp : s.rkPhys x.part (udWs x.desc) 4 false with
    | none => simp [ht, hp] at h
    | some b =>
      simp only [ht, hp] at h
      split at h
      next hst =>
        injection h with h
        injection h with h
        have hm := lowest_mem hst
        rw [h] at hm
        simp at hm
      next => cases h

/-- A pass that differs from the update in force ends with RK_ORDER and leaves the update alone (R223). -/
theorem partFails_order {u : TensorUpd} (h : s.tensorOf x.part x.desc = some u) :
    s.partFails x stRK_ORDER = s.completePass x stRK_ORDER := by
  simp [State.partFails, h]

/-- A pass that came behind its step's END_OF_STEP leaves no tensor update behind (R221, R222). -/
theorem partFails_stepRange (h : s.tensorOf x.part x.desc = none) :
    s.partFails x stRK_STEP_RANGE = s.completePass x stRK_STEP_RANGE := by
  simp [State.partFails, h]

section
variable {reck : Nat}

theorem not_any_running (hf : ∀ y ∈ s.reck.q, y.reck = reck → y.phase = 0) :
    s.reck.q.any (fun y => y.reck == reck && y.phase != 0) = false := by
  simpa only [List.any_eq_false, Bool.and_eq_true, beq_iff_eq, bne_iff_ne, not_and, not_not] using hf

variable (hf : ∀ y ∈ s.reck.q, y.reck = reck → y.phase = 0) (hx : s.reck.q.find? (fun y => y.reck == reck) = some x)
include hf hx

/-! A free reckoner looks at the pass at the head of its order (R220, R221). -/

theorem passStart_waits (ho : s.passOutcome x = none) : execPassStart reck s = .next s := by
  simp [execPassStart, not_any_running hf, hx, ho]

theorem passStart_ends {st : Nat} (ho : s.passOutcome x = some st) (h0 : st ≠ 0) :
    execPassStart reck s = .next (if x.late then s.partFails x st else s.completePass x st) := by
  obtain ⟨k, rfl⟩ := Nat.exists_eq_succ_of_ne_zero h0
  simp [execPassStart, not_any_running hf, hx, ho]

omit hf hx in
/-- A pass of the matrix rule that no root job holds (R232). -/
theorem not_heldByRoots (hr : gRule (s.rkGroup x.part (udGroup x.desc)) = 1 →
    s.rootPending x.part x.run (udFb x.desc) x.step = false) :
    (gRule (s.rkGroup x.part (udGroup x.desc)) == 1 && s.rootPending x.part x.run (udFb x.desc) x.step) = false := by
  simpa using hr

variable (ho : s.passOutcome x = some 0) (hm : s.mirrorHolds x.part = false)
  (hr : gRule (s.rkGroup x.part (udGroup x.desc)) = 1 → s.rootPending x.part x.run (udFb x.desc) x.step = false)
  (hb : s.streamBusy x.part (udWs x.desc, 0, 4) = false)
include ho hm hr hb

theorem passStart_refused {e : Nat × Nat} (hj : s.joinTensor x = .error e) :
    execPassStart reck s = .next (s.partFails { x with addr := e.2 } e.1) := by
  simp [execPassStart, not_any_running hf, hx, ho, not_heldByRoots hr, hm, hb, hj]

theorem passStart_runs (hj : s.joinTensor x = .ok t) : execPassStart reck s =
    .next (State.admitPasses x.part 4096 (t.passRuns x)) := by
  simp [execPassStart, not_any_running hf, hx, ho, not_heldByRoots hr, hm, hb, hj, State.passRuns]

end

/-- RK_STEP_RANGE is the only outcome of a pass that came late (R222). -/
theorem passOutcome_late {st : Nat} (hl : x.late = true) (ho : s.passOutcome x = some st) : st = stRK_STEP_RANGE := by
  simpa [State.passOutcome, hl] using ho.symm

end Sys2Proof.Machine
end

section
/-! Slot queries, phase marks, pushes and the start of the head pass (R208, R214, R220 to R223). -/

namespace Sys2Proof.Machine

open Sys2Proof

variable {rod reck : Nat} {s : State}

/-- A slot query returns the TS that the slot supplied, or its TS now (R208). -/
theorem slotTsQuery_returns {slot : Nat} {c : RunCmd} (hi : s.issues rod = true) (hs : slot < 4096)
    (hc : s.runCmd (s.owner rod) = some c) : execSlotTsQuery rod slot s = .next (s.setRod rod { s.rod rod with
      ret := (slotTs (if slot ∈ c.slotRead then tget slotReset c.slots slot else s.slot (s.owner rod) slot)).toNat }) := by
  have hs' : ¬4096 ≤ slot := by omega
  by_cases h : slot ∈ c.slotRead <;> simp [execSlotTsQuery, hi, hs', hc, h]

/-- A phase mark is the running command's from now on (R214). -/
theorem phaseMark_sets {backward : Bool} (hi : s.issues rod = true) : execPhaseMark rod backward s =
    .next ((s.phaseTick (s.owner rod)).setRunCmd (s.owner rod) (fun c => { c with mark := if backward then 2 else 1 })) := by
  simp [execPhaseMark, hi]

theorem updatePush_enters {d : BitVec 512} (hi : s.issues rod = true) (hq : s.queueFill (s.owner rod) < 4096) :
    execUpdatePush rod d s = .next (s.rodUpdate rod d) := by
  simp [execUpdatePush, hi, hq]

theorem updatePush_waits {d : BitVec 512} (hi : s.issues rod = true) (hq : 4096 ≤ s.queueFill (s.owner rod)) :
    execUpdatePush rod d s =
      .next (s.setRod rod { s.rod rod with wait := .updatePush d, waitStrokes := 0, waitSince := s.ns }) := by
  simp [execUpdatePush, hi, hq]

/-- What a refused push leaves (R220, R238). -/
theorem rodUpdate_refused {d : BitVec 512} {e : Nat} (h : s.passCheck (s.owner rod) d = .error e) :
    (s.rodUpdate rod d).reck = s.reck ∧ ((s.rodUpdate rod d).rod rod).ended = true ∧
      (s.rodUpdate rod d).errs.seq = s.errs.seq + 1 ∧
      ∀ c, s.runCmd (s.owner rod) = some c → c.cmd.status = 0 →
        ((s.rodUpdate rod d).runCmd (s.owner rod)).map (fun c => c.cmd.status) = some e := by
  rw [rodUpdate_error h]
  generalize hr : s.pushRec (s.owner rod) d e = r
  have hcls : r.cls ≠ 3 := by simp [← hr, State.pushRec, passRec]
  refine ⟨by simp [State.failRod], by simp, by simp [State.failRod], fun c hc h0 => ?_⟩
  have ho : (s.errRec r).owner rod = s.owner rod := errRec_owner ..
  have hc' : (s.errRec r).runCmd (s.owner rod) = some c := by
    rw [runCmd_congr (errRec_objs s r hcls) (errRec_ctxs s r), hc]
  rw [← ho] at hc' ⊢
  exact status_failRod _ e hc' h0

/-- Settles O21: pushes by what a push can do, the head pass by its outcome; a pass that leaves without effect by what follows
the end of a pass. -/
theorem passesArePushedAndStarted : Obligations.PassesArePushedAndStarted := by
  unfold Obligations.PassesArePushedAndStarted
  refine ⟨fun rod slot c s => slotTsQuery_returns, ?_, ?_, ?_, ?_⟩
  · intro rod backward s hi
    obtain ⟨c, hc⟩ := runCmd_of_issues hi
    refine ⟨_, phaseMark_sets hi, by simp [hc], ?_⟩
    rw [setRunCmd_frame, phaseTick_frame]
  · intro rod d s hi hq
    refine ⟨fun die hd => ?_, fun e he _ => ⟨_, updatePush_enters hi hq, rodUpdate_refused he⟩⟩
    obtain ⟨hq', -, hframe⟩ := rodUpdate_ok hd
    exact ⟨_, _, updatePush_enters hi hq, hq', rfl, rfl, rfl, rfl, rfl, rfl, rfl, hframe⟩
  · intro rod d s hi hq
    exact ⟨_, updatePush_waits hi hq, by simp, rfl⟩
  · intro reck x s hf hx
    refine ⟨passStart_waits hf hx, fun s' ho hm hr hb hj => ?_, fun a ho hm hr hb hj hp hid => ?_,
      fun st ho h0 hst hl hp hid => ?_⟩
    · obtain ⟨hq, hframe⟩ := joinTensor_frame hj
      refine ⟨_, passStart_runs hf hx ho hm hr hb hj, mem_passRuns (hq ▸ List.mem_of_find?_eq_some hx),
        fun hn => (joinTensor_begins hj hn :), ?_⟩
      rw [hframe]
      rfl
    · obtain ⟨u, hu⟩ := tensorOf_of_order hj
      obtain ⟨hq, herr, hpasses, -⟩ :=
        completePass_spec (s := s) (x := { x with addr := a }) (st := stRK_ORDER) (by decide) (by decide) hid
      refine ⟨_, passStart_refused hf hx ho hm hr hb hj, ?_⟩
      rw [partFails_order (x := { x with addr := a }) hu]
      exact ⟨hq, herr, hpasses⟩
    · have hc := completePass_spec (s := s) (x := x) h0 hst hid
      refine ⟨_, passStart_ends hf hx ho h0, ?_⟩
      split
      next hlate =>
        obtain rfl := passOutcome_late hlate ho
        rw [partFails_stepRange (hl.resolve_left (by simp [hlate]))]
        exact hc
      next => exact hc

end Sys2Proof.Machine
end

section
/-! Writes of the reckoners at readable places of the upper deck (R147, R225). -/

namespace Sys2Proof.Machine

open Sys2Proof

theorem mread_congr {m m' : Mem} {a n : Nat} (h : ∀ i, a ≤ i → i < a + n → mget m i = mget m' i) :
    mread m a n = mread m' a n := by
  induction n generalizing a with
  | zero => rfl
  | succ n ih => rw [mread, mread, h a le_rfl (by omega), ih fun i hi hn => h i (by omega) (by omega)]

variable {s : State} {a b n : Nat} {bs : List Byte}

/-- Where no word is unreadable, a write changes its own bytes alone (R147). -/
theorem mget_put (h : s.decks.udBadIn a bs.length = false) (i : Nat) :
    mget (s.put a bs).decks.ud i = if a ≤ i ∧ i < a + bs.length then bs.getD (i - a) 0 else mget s.decks.ud i := by
  have hit : s.decks.udBad.filter (fun w => decide (w.1 * 32 < a + bs.length) && decide (a < (w.1 + 1) * 32)) = [] := by
    simpa [Decks.udBadIn] using h
  simp only [State.put, Decks.udWrite, hit, List.filter_nil, List.foldl_nil, mget_mwrite]

/-- A write makes no word unreadable (R147). -/
theorem udBadIn_put (h : s.decks.udBadIn b n = false) : (s.put a bs).decks.udBadIn b n = false :=
  List.any_eq_false.mpr fun w hw => List.any_eq_false.mp h w (List.mem_of_mem_filter hw)

theorem udRead_put_same : (s.put a bs).decks.udRead a bs.length = bs := mread_mwrite _ a bs

theorem num16_put_same (v : HB16) : (s.put a (leBytes 2 v.toNat)).num16 a = v := by
  have h := udRead_put_same (s := s) (a := a) (bs := leBytes 2 v.toNat)
  rw [length_leBytes] at h
  rw [State.num16, h, leNat_leBytes, Nat.mod_eq_of_lt (by exact v.isLt), BitVec.ofNat_toNat, BitVec.setWidth_eq]

theorem num32_put_same (v : F32) : (s.put a (leBytes 4 v.toNat)).num32 a = v := by
  have h := udRead_put_same (s := s) (a := a) (bs := leBytes 4 v.toNat)
  rw [length_leBytes] at h
  rw [State.num32, h, leNat_leBytes, Nat.mod_eq_of_lt (by exact v.isLt), BitVec.ofNat_toNat, BitVec.setWidth_eq]

/-- A write at a readable place leaves the bytes of every span apart from it. -/
theorem udRead_put_ne (h : s.decks.udBadIn a bs.length = false) (hd : b + n ≤ a ∨ a + bs.length ≤ b) :
    (s.put a bs).decks.udRead b n = s.decks.udRead b n :=
  mread_congr fun i _ _ => by rw [mget_put h, if_neg (by omega)]

theorem num16_put_ne (h : s.decks.udBadIn a bs.length = false) (hd : b + 2 ≤ a ∨ a + bs.length ≤ b) :
    (s.put a bs).num16 b = s.num16 b := by
  rw [State.num16, udRead_put_ne h hd, State.num16]

theorem num32_put_ne (h : s.decks.udBadIn a bs.length = false) (hd : b + 4 ≤ a ∨ a + bs.length ≤ b) :
    (s.put a bs).num32 b = s.num32 b := by
  rw [State.num32, udRead_put_ne h hd, State.num32]

/-- An item of a stream is readable (R238). -/
theorem udBadIn_of_rkItem {p v spread k : Nat} {wr : Bool} (h : s.rkItem p v spread k n wr = .ok a) :
    s.decks.udBadIn a n = false := by
  unfold State.rkItem at h
  dsimp only at h
  split at h
  · cases h
  · split at h
    · cases h
    next hb =>
      cases h
      simpa using hb

end Sys2Proof.Machine
end

section
/-! What the work of passes and root jobs leaves alone (R224, R225, R229, R231). -/

namespace Sys2Proof.Machine

open Sys2Proof

/-- From `s` to `t`: the reckoners' own state and every scalar object are kept, and no error record is lost. -/
structure WorkKept (s t : State) : Prop where
  reck : t.reck = s.reck
  objs : t.objs = s.objs
  seq : s.errs.seq ≤ t.errs.seq

namespace WorkKept

variable {s t : State}

theorem refl : WorkKept s s := ⟨rfl, rfl, le_rfl⟩

theorem o (h : WorkKept s t) (k : Nat) : t.o k = s.o k := by rw [State.o, h.objs, State.o]

theorem put {a : Nat} {bs : List Byte} (h : WorkKept s t) : WorkKept s (t.put a bs) := ⟨h.reck, h.objs, h.seq⟩

theorem blendElem {p f st i : Nat} {e : BitVec 512} {r : State × Nsw} (h : WorkKept s t)
    (hr : t.blendElem p e f st i = .ok r) : WorkKept s r.1 := by
  unfold State.blendElem at hr
  split at hr
  · cases hr; exact h.put
  · cases hr
  · cases hr

theorem passElem {c : PassCtx} {acc : PassAcc} {i : Nat} {r : State × PassAcc} (h : WorkKept s t)
    (hr : t.passElem c acc i = .ok r) : WorkKept s r.1 := by
  unfold State.passElem at hr
  dsimp only at hr
  split at hr
  · cases hr; exact h.put.put.put
  · cases hr
  · cases hr
  · cases hr
  · cases hr

theorem loopE {β : Type} {f : State → β → Nat → Except (Nat × Nat) (State × β)} {k i : Nat}
    {x : State × β × Nat × Nat × Nat} (h : WorkKept s x.1)
    (hf : ∀ t b i r, WorkKept s t → f t b i = .ok r → WorkKept s r.1) : WorkKept s (Machine.loopE f k i x).1 := by
  induction k generalizing i x with
  | zero => exact h
  | succ k ih =>
    unfold Machine.loopE
    split
    next hr => exact ih (hf _ _ _ _ h hr)
    next => exact h

theorem passWork {c : PassCtx} {limit : Nat} : WorkKept s (s.passWork c limit).1 := by
  unfold State.passWork
  extract_lets st jobs b x
  have hb : WorkKept s b.1 := by
    refine .loopE .refl fun t acc i r h hr => ?_
    split at hr
    next j _ =>
      cases hj : t.blendElem c.p c.e j.1 j.2.1 j.2.2 with
      | error e => rw [hj] at hr; cases hr
      | ok q => rw [hj] at hr; cases hr; exact h.blendElem hj
    next => cases hr; exact h
  have hx : WorkKept s x.1 := .loopE hb fun _ _ _ _ h hr => h.passElem hr
  split
  · exact .refl
  · split
    · exact hb
    · exact hx

theorem rootUncorr {p : Nat} {e : Nat × Nat} (h : WorkKept s t) : WorkKept s (t.rootUncorr p e) := by
  unfold State.rootUncorr
  split
  · exact ⟨by rw [errRec_reck, h.reck], by rw [errRec_objs _ _ (by simp [uncorrRec]), h.objs],
      h.seq.trans (by simp)⟩
  · exact h

theorem writeRoot {p a k : Nat} {q : Tab F32} {u : State} (h : WorkKept s t) (hu : t.writeRoot p a k q = some u) :
    WorkKept s u := by
  revert u
  unfold State.writeRoot
  refine List.foldlRecOn (motive := fun o => ∀ {u}, o = some u → WorkKept s u) _ _ ?_ fun o ho i _ u hu => ?_
  · rintro _ ⟨⟩; exact h
  · obtain ⟨v, hv, hu⟩ := Option.bind_eq_some_iff.1 hu
    split at hu
    · cases hu; exact (ho hv).put
    · cases hu

theorem rootSide {j : RootJob} {side a q k : Nat} {x : Tab F32} (h : WorkKept s t) :
    WorkKept s (t.rootSide j side a q k x).1 := by
  unfold State.rootSide
  split
  · exact h.rootUncorr
  · dsimp only
    split
    · exact h
    · split
      · exact h
      · exact h.writeRoot ‹_›

theorem rootWork {j : RootJob} : WorkKept s (s.rootWork j).1 := by
  unfold State.rootWork
  dsimp only
  split
  · split
    · exact WorkKept.refl.rootSide
    · split
      · exact WorkKept.refl.rootSide.rootSide
      · exact WorkKept.refl.rootSide.rootSide
  · exact WorkKept.refl.rootUncorr

end WorkKept

variable {s : State} {p fb : Nat}

/-- A change of a factor block is a change of the decks alone (R230). -/
theorem setFactorBlock_frame (f : BitVec 512 → BitVec 512) :
    s.setFactorBlock p fb f = { s with decks := (s.setFactorBlock p fb f).decks } := by
  unfold State.setFactorBlock
  split <;> rfl

theorem setFactorBlock_reck (f : BitVec 512 → BitVec 512) : (s.setFactorBlock p fb f).reck = s.reck := by
  rw [setFactorBlock_frame]

theorem setFactorBlock_o (f : BitVec 512 → BitVec 512) (k : Nat) : (s.setFactorBlock p fb f).o k = s.o k := by
  rw [setFactorBlock_frame]
  rfl

theorem setFactorBlock_seq (f : BitVec 512 → BitVec 512) : (s.setFactorBlock p fb f).errs.seq = s.errs.seq := by
  rw [setFactorBlock_frame]

/-! A root job that fails (R234). -/

variable {j : RootJob} {c : RootCause}

theorem rootFailed_reck : (s.rootFailed j c).reck = s.reck := by
  unfold State.rootFailed
  rw [errRec_reck, addO_reck, setFactorBlock_reck]

theorem rootFailed_o (k : Nat) : (s.rootFailed j c).o k =
    if k = kRK_ROOT_FALLBACKS j.part then min (s.o (kRK_ROOT_FALLBACKS j.part) + 1) (2 ^ 32 - 1) else s.o k := by
  unfold State.rootFailed
  rw [State.o, errRec_objs _ _ (Nat.zero_ne_add_one 2), ← State.o, o_addO, setFactorBlock_o, setFactorBlock_o, satAdd]

theorem rootFailed_seq : (s.rootFailed j c).errs.seq = s.errs.seq + 1 := by
  unfold State.rootFailed
  rw [errRec_seq, addO_errs, setFactorBlock_seq]

end Sys2Proof.Machine
end

section
/-! The end of a pass whose words can all be read (R222 to R225, R238). -/

namespace Sys2Proof.Machine

open Sys2Proof

variable {s t : State} {x : Pass} {c : PassCtx}

/-! What a pass raises and measures, and the root job that it may trigger, leave the queue and the count of passes. -/

theorem accStep_frame (w : Nsw) (damaged : Bool) :
    s.accStep x w damaged = { s with reck := { s.reck with accs := (s.accStep x w damaged).reck.accs } } := by
  unfold State.accStep
  dsimp only
  split <;> rfl

/-- From `s` to `t`: the queue of passes, its numbers and the counters of completed passes are kept. -/
structure QueueKept (s t : State) : Prop where
  queue : t.reck.q = s.reck.q
  next : t.reck.nextId = s.reck.nextId
  passes : ∀ p, t.o (kRK_PASSES p) = s.o (kRK_PASSES p)

namespace QueueKept

theorem of_workKept (h : WorkKept s t) : QueueKept s t := ⟨by rw [h.reck], by rw [h.reck], fun _ => h.o _⟩

variable {p : Nat}

theorem accStep {w : Nsw} {damaged : Bool} (h : QueueKept s t) : QueueKept s (t.accStep x w damaged) := by
  rw [accStep_frame]
  exact ⟨h.queue, h.next, h.passes⟩

theorem setNum {v : Num} (h : QueueKept s t) : QueueKept s (t.setNum p v) := ⟨h.queue, h.next, h.passes⟩

theorem addO {w k n : Nat} (h : QueueKept s t) (hk : ∀ q, kRK_PASSES q ≠ k) : QueueKept s (t.addO w k n) :=
  ⟨h.queue, h.next, fun q => by rw [o_addO, if_neg (hk q), h.passes]⟩

theorem errRec {r : ErrRec} (h : QueueKept s t) (hr : r.cls ≠ 3) : QueueKept s (t.errRec r) :=
  ⟨by rw [errRec_reck, h.queue], by rw [errRec_reck, h.next],
    fun q => by rw [State.o, errRec_objs _ _ hr, ← State.o, h.passes]⟩

theorem setFactorBlock {fb : Nat} {f : BitVec 512 → BitVec 512} (h : QueueKept s t) :
    QueueKept s (t.setFactorBlock p fb f) := by
  rw [setFactorBlock_frame]
  exact ⟨h.queue, h.next, h.passes⟩

theorem queueRoot {d : Nat} {j : RootJob} (h : QueueKept s t) : QueueKept s (t.queueRoot d j) := by
  unfold State.queueRoot
  dsimp only
  split
  · refine ⟨by rw [rootFailed_reck, h.queue], by rw [rootFailed_reck, h.next], fun q => ?_⟩
    rw [rootFailed_o, if_neg (by simp only [kRK_PASSES, kRK_ROOT_FALLBACKS]; omega), h.passes]
  · exact QueueKept.setFactorBlock ⟨h.queue, h.next, h.passes⟩

end QueueKept

/-- A pass all of whose words can be read ends its part with success, behind what it raised and measured; under the element rule
its own work is all that changes the decks (R223, R225). -/
theorem passEnd_whole {reck : Nat} (hx : s.reck.q.find? (fun y => y.reck == reck && y.phase == 1) = some x)
    (hc : s.passCtx x = some c) (hm : s.mirrorHolds x.part = false) (hb : s.passBusy x = false)
    (h0 : (s.passWork c (s.passRounds c)).2.2.2.1 = 0) :
    ∃ (t : State) (nsw : Nsw) (addr : Nat) (acc : ConvAcc), execPassEnd reck s = .next
        (t.partEnd { x with nsw := nsw, addr := addr } { c.t with done := c.t.done + 1, acc := acc } 0) ∧
      QueueKept s t ∧ (gRule c.e ≠ 1 → t.decks = (s.passWork c (s.passRounds c)).1.decks) := by
  unfold execPassEnd
  rw [hx]
  simp -zeta only
  rw [hc]
  simp -zeta only
  rw [if_neg (by simp [hm, hb])]
  extract_lets rounds full cut blend done free n r src s1 acc st p s2 nm u s3 s4 blended s5 tn
  have hcut : ¬cut := not_not.mpr h0
  have hr : r = full := if_neg hcut
  have hs1 : s1 = full.1 := (if_neg hcut).trans (congrArg Prod.fst hr)
  have q3 : QueueKept s s3 := (QueueKept.accStep (hs1 ▸ .of_workKept .passWork)).setNum
  have q4 : QueueKept s s4 := by
    unfold s4
    split
    · exact q3
    · exact (q3.addO fun q => by simp only [kRK_PASSES, kRK_GRAD_NONFINITE]; omega).errRec (by simp)
  have q5 : QueueKept s s5 := by
    unfold s5
    split
    · exact q4.queueRoot
    · exact q4
  refine ⟨s5, _, _, _, by rw [show st = 0 from h0], q5, fun he => ?_⟩
  have h5 : s5 = s4 := if_neg (by simp [blended, he])
  have h2 : s2.decks = s1.decks := by rw [show s2 = _ from accStep_frame ..]
  have h4 : s4.decks = s3.decks := by
    unfold s4
    split
    · rfl
    · rw [errRec_decks, addO_decks]
  rw [h5, h4, show s3.decks = s2.decks from rfl, h2, hs1]

/-! The end of its part. -/

/-- A part beside others of its tensor update leaves the queue (R223). -/
theorem partEnd_more {u : TensorUpd} {st : Nat} (h : u.done < u.parts) :
    s.partEnd x u st = (s.setTensor u).completePass x st := if_pos h

/-- The last part of an update that no part has failed goes on to write its word (R223). -/
theorem partEnd_last {u : TensorUpd} {st : Nat} (hd : u.parts ≤ u.done) (hf : u.fail = 0) :
    s.partEnd x u st = { s.setTensor u with reck := { (s.setTensor u).reck with
      q := s.reck.q.map (fun y => if y.id = x.id then { x with phase := 2, status := st } else y) } } := by
  unfold State.partEnd
  rw [if_neg (by omega), if_neg (by simp [hf])]
  rfl

/-- A pass is out of the queue with success, and RK_PASSES has counted it (R240). -/
def State.passCounted (s : State) (x : Pass) : State :=
  { s with reck := { s.reck with q := s.reck.q.filter (fun y => y.id != x.id) } }.addO 64 (kRK_PASSES x.part) 1

theorem completePass_success : s.completePass x 0 = State.admitPasses x.part 4096
    ((((s.passCounted x).completeOpt x.cmd 0 0 x.nsw).updateEnd x.part x.run x.step).dropTensors x.part) := rfl

/-- What stands after a pass has ended with success. -/
theorem completePass_success_spec (hid : x.id < s.reck.nextId) :
    (∀ y ∈ (s.completePass x 0).reck.q, y.id ≠ x.id) ∧
      (s.completePass x 0).o (kRK_PASSES x.part) = min (s.o (kRK_PASSES x.part) + 1) (2 ^ 64 - 1) := by
  have ha : AfterPass x.part (s.passCounted x) (s.completePass x 0) := by
    rw [completePass_success]
    exact AfterPass.refl.completeOpt.updateEnd.dropTensors.admitPasses
  refine ⟨fun y hy => ?_, ?_⟩
  · rcases ha.queue y hy with hq | hq
    · simpa using (List.mem_filter.mp hq).2
    · exact (hid.trans_le hq).ne'
  · rw [ha.objs _ (not_passEndKey (by simp)), State.passCounted, o_addO, if_pos rfl]
    rfl

/-! The work of an element-rule pass (R224). -/

/-- The constants of a running pass are its own. -/
theorem passCtx_some (h : s.passCtx x = some c) : c.p = x.part ∧ c.d = x.desc ∧ c.step = x.step ∧
    (gRule c.e ≠ 1 → c.pg = false) := by
  unfold State.passCtx at h
  extract_lets p d at h
  split at h
  · cases h
    exact ⟨rfl, rfl, rfl, fun he => by simp [he]⟩
  · cases h

/-- A moment as it is stored: every NaN as the canonical one (R55). -/
def storedMoment (x : F32) : F32 := if f32isNan x then 0x7FC00000 else x

/-- The element rule applied to the element of a pass at `aw`, `am`, `av` with the gradient at `ag` (R224). -/
def State.elemNew (s : State) (c : PassCtx) (aw am av ag : Nat) : FN × FN × FN :=
  let g0 := f32div (hb16to32 (s.num16 ag)) c.v.l
  elementRule c.e c.sc.lr c.sc.c1 c.sc.c2 (if f32isFin g0 then g0 else 0) (s.num32 am) (s.num32 av)
    (weightOf c.t.tsw (s.num16 aw)).1

/-- The new weight of a pass's first element as it is stored (R225). -/
def State.elemWeight (s : State) (c : PassCtx) (aw am av ag : Nat) : HB16 :=
  (storeWeight c.t.tsn (.sr ((weightDraw c.v.seed c.step (udWid c.d)).elem (udBase c.d)))
    (s.elemNew c aw am av ag).2.2.1).1

/-- The element's weight and moments are written. -/
def State.elemPut (s : State) (c : PassCtx) (aw am av ag : Nat) : State :=
  ((s.put aw (leBytes 2 (s.elemWeight c aw am av ag).toNat)).put am
    (leBytes 4 (storedMoment (s.elemNew c aw am av ag).1.1).toNat)).put av
    (leBytes 4 (storedMoment (s.elemNew c aw am av ag).2.1.1).toNat)

section
variable {aw am av ag : Nat} (hw : s.rkItem c.p (udW c.d) (udSpread c.d) 0 2 true = .ok aw)
  (hm : s.rkItem c.p (udM c.d) (udSpread c.d) 0 4 true = .ok am)
  (hv : s.rkItem c.p (udV c.d) (udSpread c.d) 0 4 true = .ok av)
include hw hm hv

/-- The first element of a pass by the element rule. -/
theorem passElem_first {acc : PassAcc} (hp : c.pg = false)
    (hg : s.rkItem c.p (udG c.d) (udSpread c.d) 0 2 false = .ok ag) :
    ∃ acc', s.passElem c acc 0 = .ok (s.elemPut c aw am av ag, acc') := by
  unfold State.passElem
  simp only [Nat.mul_zero, hw, hm, hv, hg, hp, Bool.false_eq_true, if_false, Nat.add_zero]
  refine ⟨_, congrArg _ (Prod.ext ?_ rfl)⟩
  have hg0 (g : F32) : (if f32isFin g = false then (0 : F32) else g) = if f32isFin g = true then g else 0 := by
    cases f32isFin g <;> rfl
  simp only [State.elemPut, State.elemWeight, State.elemNew, storedMoment, Bool.not_eq_true', hg0]
  rfl

/-- The whole work of a pass of one element by the element rule is that of the element. -/
theorem passWork_one (hr : gRule c.e ≠ 1) (hp : c.pg = false) (h1 : udCount c.d = 1)
    (hg : s.rkItem c.p (udG c.d) (udSpread c.d) 0 2 false = .ok ag) :
    (s.passWork c (s.passRounds c)).1 = s.elemPut c aw am av ag ∧ (s.passWork c (s.passRounds c)).2.2.2.1 = 0 := by
  obtain ⟨acc, he⟩ := passElem_first (acc := {}) hw hm hv hp hg
  have hj : s.blendJobs c = [] := by simp [State.blendJobs, hr]
  have h : s.passWork c (s.passRounds c) = (s.elemPut c aw am av ag, acc, 1, 0, 0) := by
    unfold State.passWork State.passRounds
    simp only [hr, hj, h1, loopE, he, if_false, ne_eq, not_true_eq_false, List.length_nil, Nat.zero_min, Nat.min_self,
      Nat.add_zero, Nat.sub_zero, Nat.zero_add, Nat.lt_irrefl, decide_false, Bool.or_self, Bool.false_eq_true]
  rw [h]
  exact ⟨rfl, rfl⟩

end

end Sys2Proof.Machine
end

section
/-! What stands in the upper deck after an element (R225). -/

namespace Sys2Proof.Machine

open Sys2Proof

variable {s t : State} {c : PassCtx} {aw am av ag : Nat} (hw : s.decks.udBadIn aw 2 = false)
  (hm : s.decks.udBadIn am 4 = false) (hv : s.decks.udBadIn av 4 = false) (hwm : aw + 2 ≤ am ∨ am + 4 ≤ aw)
  (hwv : aw + 2 ≤ av ∨ av + 4 ≤ aw) (hmv : am + 4 ≤ av ∨ av + 4 ≤ am)
include hm hv

section
include hw

/-- No byte but the element's changes. -/
theorem mget_elemPut_ne {a : Nat} (haw : ¬(aw ≤ a ∧ a < aw + 2)) (ham : ¬(am ≤ a ∧ a < am + 4))
    (hav : ¬(av ≤ a ∧ a < av + 4)) : mget (s.elemPut c aw am av ag).decks.ud a = mget s.decks.ud a := by
  unfold State.elemPut
  rw [mget_put (by simpa using udBadIn_put (udBadIn_put hv)), mget_put (by simpa using udBadIn_put hm),
    mget_put (by simpa using hw)]
  simp only [length_leBytes, if_neg haw, if_neg ham, if_neg hav]

end

include hwm hwv hmv

/-- The element's own bytes are its new weight and moments. -/
theorem elemPut_reads : (s.elemPut c aw am av ag).num16 aw = s.elemWeight c aw am av ag ∧
    (s.elemPut c aw am av ag).num32 am = storedMoment (s.elemNew c aw am av ag).1.1 ∧
    (s.elemPut c aw am av ag).num32 av = storedMoment (s.elemNew c aw am av ag).2.1.1 := by
  have hbm {bs : List Byte} : (s.put aw bs).decks.udBadIn am 4 = false := udBadIn_put hm
  have hbv {bs bs' : List Byte} : ((s.put aw bs).put am bs').decks.udBadIn av 4 = false := udBadIn_put (udBadIn_put hv)
  unfold State.elemPut
  refine ⟨?_, ?_, num32_put_same _⟩
  · rw [num16_put_ne (by simpa using hbv) (by simpa using hwv), num16_put_ne (by simpa using hbm) (by simpa using hwm),
      num16_put_same]
  · rw [num32_put_ne (by simpa using hbv) (by simpa using hmv), num32_put_same]

end Sys2Proof.Machine
end

section
/-! The end of a tensor update (R198, R223, R238). -/

namespace Sys2Proof.Machine

open Sys2Proof

/-- What an event leaves of its cycle on a slot stands in the slot (R66). -/
theorem slot_putCycle (s : State) (p i n : Nat) (e : SlotCycle) :
    (s.putCycle p e).slot i n = if i = p ∧ n = e.slot then e.value else s.slot i n := by
  rw [← slot_setSlot s p e.slot i n e.value]
  unfold State.putCycle State.slot
  simp only [part_setPart]
  split
  next h => rw [h]
  next => rfl

/-- A cycle's log of a slot is that slot's. -/
theorem slotCycle_slot (s : State) (p n : Nat) : (s.slotCycle p n).slot = n := by
  unfold State.slotCycle
  dsimp only
  split
  next e he =>
    obtain ⟨⟨h, -⟩, -⟩ : (e.slot = n ∧ e.cycle = s.cycle) ∧ e.after = s.slot p n := by simpa using List.find?_some he
    exact h
  next => rfl

/-- From `s` to `t`, with no tensor update on slot `n` of partition `p` and no roots to install: the upper deck and the slot are
kept, and it stays so. -/
structure SlotKept (p n : Nat) (s t : State) : Prop where
  decks : t.decks = s.decks
  slot : t.slot p n = s.slot p n
  ready : t.reck.ready = []
  tensors : ∀ y ∈ t.reck.tensors, ¬(y.part = p ∧ y.slot = n)

namespace SlotKept

variable {p n q : Nat} {s t u : State} {c : Prop} [Decidable c]

/-- What is neither in the decks nor the partitions, and of the reckoners' state not the tensor updates or the roots, may change
freely. -/
theorem frame (h : SlotKept p n s t) (hd : u.decks = t.decks := by rfl) (hp : u.parts = t.parts := by rfl)
    (hr : u.reck.ready = t.reck.ready := by rfl) (ht : u.reck.tensors = t.reck.tensors := by rfl) : SlotKept p n s u :=
  ⟨hd.trans h.decks, by rw [← h.slot, State.slot, State.part, hp]; rfl, hr.trans h.ready, ht ▸ h.tensors⟩

theorem ite (ht : SlotKept p n s t) (hu : SlotKept p n s u) : SlotKept p n s (if c then t else u) := by
  split <;> assumption

theorem foldl {α : Type} {f : State → α → State} {l : List α} (h : SlotKept p n s t)
    (hf : ∀ t, ∀ x ∈ l, SlotKept p n s t → SlotKept p n s (f t x)) : SlotKept p n s (l.foldl f t) :=
  List.foldlRecOn l f h fun t h x hx => hf t x hx h

/-! Records and commands of the host. -/

theorem setO {k v : Nat} (h : SlotKept p n s t) : SlotKept p n s (t.setO k v) := h.frame

theorem setNum {v : Num} (h : SlotKept p n s t) : SlotKept p n s (t.setNum q v) := h.frame

theorem setFunc {f : Nat} {v : Func} (h : SlotKept p n s t) : SlotKept p n s (t.setFunc f v) := h.frame

theorem hostWrite {a : Nat} {bs : List Byte} (h : SlotKept p n s t) : SlotKept p n s (t.hostWrite a bs) := h.frame

theorem errRec {r : ErrRec} (h : SlotKept p n s t) : SlotKept p n s (t.errRec r) :=
  h.frame (errRec_decks t r) (errRec_parts t r) (by rw [errRec_reck]) (by rw [errRec_reck])

theorem setBlob {k o : Nat} {bs : List Byte} (h : SlotKept p n s t) : SlotKept p n s (t.setBlob k o bs) :=
  h.frame (setBlob_decks ..) (setBlob_parts ..) (by rw [setBlob_reck]) (by rw [setBlob_reck])

theorem failRod {rod st : Nat} (h : SlotKept p n s t) : SlotKept p n s (t.failRod rod st) := by
  rw [failRod_frame]
  exact h.frame

theorem poison (h : SlotKept p n s t) : SlotKept p n s (t.poison q) :=
  h.foldl fun _ _ _ h => .ite h.frame h.frame

theorem coalesce {fn cq : Nat} (h : SlotKept p n s t) : SlotKept p n s (t.coalesce fn cq) :=
  .ite h (.ite (.ite h.frame h.frame) h)

theorem endStatus {k : Cmd} {st : Nat} (h : SlotKept p n s t) : SlotKept p n s (t.endStatus k st) := .ite h h.poison

theorem complete {k : Cmd} {st r : Nat} {w : Nsw} (h : SlotKept p n s t) : SlotKept p n s (t.complete k st r w) :=
  .ite h.endStatus h.endStatus.hostWrite.setFunc.coalesce

theorem completeLive {id st r : Nat} {w : Nsw} (h : SlotKept p n s t) : SlotKept p n s (t.completeLive id st r w) := by
  unfold State.completeLive
  split
  · exact h.frame.complete
  · exact h

theorem completeOpt {id : Option Nat} {st r : Nat} {w : Nsw} (h : SlotKept p n s t) :
    SlotKept p n s (t.completeOpt id st r w) := by
  cases id with
  | some => exact h.completeLive
  | none => exact h

/-! The end of an update phase. -/

theorem setRkGroup {k : Nat} {e : BitVec 512} (h : SlotKept p n s t) : SlotKept p n s (t.setRkGroup q k e) := h.frame

theorem setReck {r : Reck} (h : SlotKept p n s t) (hr : r.ready = t.reck.ready := by rfl)
    (ht : r.tensors = t.reck.tensors := by rfl) : SlotKept p n s { t with reck := r } :=
  h.frame rfl rfl hr ht

/-- With no roots waiting there is nothing to install. -/
theorem installRoots {run step : Nat} (h : SlotKept p n s t) : SlotKept p n s (t.installRoots q run step) := by
  unfold State.installRoots
  rw [h.ready]
  exact h.frame (hr := h.ready.symm)

theorem applyHeldGroups (h : SlotKept p n s t) : SlotKept p n s (t.applyHeldGroups q) :=
  h.setReck.foldl fun _ _ _ h => h.setRkGroup

theorem writeRatios {run step : Nat} (h : SlotKept p n s t) : SlotKept p n s (t.writeRatios q run step) :=
  .ite h.setNum.setO h.setNum.setO.errRec

theorem phaseTick (h : SlotKept p n s t) : SlotKept p n s (t.phaseTick q) := .ite h h.frame

theorem phaseEnd {step : Nat} {skipped : Bool} {scale : F32} (h : SlotKept p n s t) :
    SlotKept p n s (t.phaseEnd q step skipped scale) :=
  h.phaseTick.setNum.setNum.setO

theorem mirrorStart {step : Nat} (h : SlotKept p n s t) : SlotKept p n s (t.mirrorStart q step) :=
  .ite h.frame.setO h

theorem forgetStep {run step : Nat} (h : SlotKept p n s t) : SlotKept p n s (t.forgetStep q run step) :=
  h.setReck.setNum

theorem updateEnd {run step : Nat} (h : SlotKept p n s t) : SlotKept p n s (t.updateEnd q run step) := by
  unfold State.updateEnd
  extract_lets +onlyGivenNames r mine gone
  split
  · refine .ite h ?_
    extract_lets scheds acc now s1 sr s2 s3 src s4 st s5 s6 s7
    have h1 : SlotKept p n s s1 := .ite h.setReck h
    have h2 : SlotKept p n s s2 := .ite (h1.foldl fun _ _ _ h => h.setRkGroup).installRoots.writeRatios h1
    have h5 : SlotKept p n s s5 := h2.forgetStep.setReck.setO
    have h6 : SlotKept p n s s6 := .ite h5 h5.applyHeldGroups
    exact (SlotKept.ite h6.phaseEnd h6).mirrorStart
  · exact .ite (.ite h.forgetStep h.forgetStep.applyHeldGroups) h

/-! Other tensor updates, and pushes. -/

/-- A host write of another slot leaves this one. -/
theorem writeSlot {m : Nat} {v : BitVec 1024} (h : SlotKept p n s t) (hm : ¬(q = p ∧ m = n)) :
    SlotKept p n s (t.writeSlot q m v) := by
  refine ⟨h.decks, ?_, h.ready, h.tensors⟩
  unfold State.writeSlot
  rw [slot_putCycle, if_neg (by rw [slotCycle_slot]; tauto), h.slot]

theorem dropTensor {x : TensorUpd} (h : SlotKept p n s t) (hx : ¬(x.part = p ∧ x.slot = n)) :
    SlotKept p n s (t.dropTensor x) := by
  have h1 {l} : SlotKept p n s { t with reck := { t.reck with tensors := t.reck.tensors.filter l } } :=
    ⟨h.decks, h.slot, h.ready, fun y hy => h.tensors y (List.mem_of_mem_filter hy)⟩
  unfold State.dropTensor
  dsimp only
  split
  · exact (h1.writeSlot hx).foldl fun _ _ _ h => h.completeLive
  · exact h1

theorem dropTensors (h : SlotKept p n s t) : SlotKept p n s (t.dropTensors q) :=
  h.foldl fun _ x hx h' => h'.dropTensor (h.tensors x (List.mem_of_mem_filter hx))

theorem pushPass {d : BitVec 512} {cmd : Option Nat} (h : SlotKept p n s t) (hu : t.pushPass q d cmd = .ok u) :
    SlotKept p n s u := by
  have hs {v : State} {run step k : Nat} (h : SlotKept p n s v) : SlotKept p n s (v.schedule q run step k) := by
    obtain ⟨l, hl⟩ := schedule_eq v q run step k
    rw [hl]
    exact h.frame
  unfold State.pushPass at hu
  split at hu
  · cases hu
  · dsimp only at hu
    split at hu
    · cases hu; exact .ite (hs h.frame) h.frame
    · cases hu; exact h.frame

theorem rodUpdate {rod : Nat} {d : BitVec 512} (h : SlotKept p n s t) : SlotKept p n s (t.rodUpdate rod d) := by
  unfold State.rodUpdate
  dsimp only
  split
  · exact h.pushPass ‹_›
  · exact h.errRec.failRod

theorem admitPasses {k : Nat} (h : SlotKept p n s t) : SlotKept p n s (State.admitPasses q k t) := by
  induction k generalizing t with
  | zero => exact h
  | succ k ih =>
    unfold State.admitPasses
    dsimp only
    split
    · exact h
    · exact .ite h (ih (SlotKept.rodUpdate h.frame))

/-- Whatever follows the end of a pass keeps a slot that no tensor update holds. -/
theorem completePass {x : Pass} {st : Nat} (h : SlotKept p n s t) : SlotKept p n s (t.completePass x st) := by
  unfold State.completePass
  extract_lets q src s1 s2 s3 s4
  have h1 : SlotKept p n s s1 := h.frame
  have h2 : SlotKept p n s s2 := .ite h1.frame h1.setBlob
  have h3 : SlotKept p n s s3 := .ite h2.frame h2
  have h4 : SlotKept p n s s4 := .ite h3 h3.errRec
  exact h4.completeOpt.updateEnd.dropTensors.admitPasses

end SlotKept

end Sys2Proof.Machine
end

section
/-! Passes and the ends of tensor updates (R198, R222 to R225, R238). -/

namespace Sys2Proof.Machine

open Sys2Proof

variable {s : State} {u : TensorUpd}

/-- A slot without an event in this cycle begins the cycle as it stands. -/
theorem slotCycle_fresh {p n : Nat} (h : ∀ e ∈ (s.part p).slotLog, ¬(e.slot = n ∧ e.cycle = s.cycle)) :
    s.slotCycle p n = { slot := n, cycle := s.cycle, before := s.slot p n, after := s.slot p n } := by
  have hn : (s.part p).slotLog.find? (fun e => e.slot == n && e.cycle == s.cycle && e.after == s.slot p n) = none := by
    rw [List.find?_eq_none]
    intro e he hsel
    simp only [Bool.and_eq_true, beq_iff_eq] at hsel
    exact h e he hsel.1
  unfold State.slotCycle
  dsimp only
  rw [hn]

/-- A conversion alone in its cycle is recorded in the slot as the cycle found it (R65, R66). -/
theorem value_single {e : SlotCycle} {sub : Nat} {a : ConvAcc} (hr : e.recs = [(sub, a)]) (hw : e.writes = []) :
    e.value = slotRecord e.before a := by
  rw [SlotCycle.value, hr, hw, List.foldl_nil, List.foldl_cons, List.foldl_nil]

/-- A tensor update whose slot has no other event in this cycle records its measurements there (R198). -/
theorem slot_recordTensor (h : ∀ e ∈ (s.part u.part).slotLog, ¬(e.slot = u.slot ∧ e.cycle = s.cycle)) :
    (s.recordTensor u).slot u.part u.slot = slotRecord (s.slot u.part u.slot) u.acc := by
  unfold State.recordTensor
  rw [slotCycle_fresh h, slot_putCycle, if_pos ⟨rfl, rfl⟩, value_single (sub := u.sub) (a := u.acc) rfl rfl]

/-- Without a held host write, a tensor update only leaves (R223). -/
theorem dropTensor_free (h : u.held = none) : s.dropTensor u = { s with reck := { s.reck with
    tensors := s.reck.tensors.filter (fun y => !(y.part == u.part && y.slot == u.slot)) } } := by
  unfold State.dropTensor
  rw [h]

/-- The word is written, the slot records, and the update leaves; what follows keeps all three (R198, R223). -/
theorem tensorUpdateComplete_ends {a : Nat} (hu : s.reck.tensors.find? (fun y => y.part == u.part && y.slot == u.slot &&
      decide (y.parts ≤ y.done)) = some u) (ha : s.rkWrite u.part u.ws 4 = .ok a)
    (hb : s.streamBusy u.part (u.ws, 0, 4) = false) (hh : u.held = none) (hr : s.reck.ready = []) :
    ∃ t, execTensorUpdateComplete u.part u.slot s = .next t ∧
      SlotKept u.part u.slot ((s.put a (leBytes 4 u.tsn.toNat)).recordTensor u) t := by
  have hk : SlotKept u.part u.slot ((s.put a (leBytes 4 u.tsn.toNat)).recordTensor u)
      (((s.put a (leBytes 4 u.tsn.toNat)).recordTensor u).dropTensor u) := by
    rw [dropTensor_free hh]
    refine ⟨rfl, rfl, hr, fun y hy => ?_⟩
    obtain ⟨-, hne⟩ := List.mem_filter.mp hy
    simpa [or_iff_not_imp_left] using hne
  unfold execTensorUpdateComplete
  rw [hu]
  dsimp only
  rw [if_neg (by simp [hb]), ha]
  dsimp only
  split
  next x _ => exact ⟨_, rfl, hk.completePass⟩
  next => exact ⟨_, rfl, hk⟩

/-- The last part of an update that no part has failed waits for its word to be written; under the element rule the decks are as
its work left them (R223, R225). -/
theorem passEnd_last {x : Pass} {c : PassCtx} {reck : Nat}
    (hx : s.reck.q.find? (fun y => y.reck == reck && y.phase == 1) = some x)
    (hc : s.passCtx x = some c) (hm : s.mirrorHolds x.part = false) (hb : s.passBusy x = false)
    (h0 : (s.passWork c (s.passRounds c)).2.2.2.1 = 0) (hr : gRule c.e ≠ 1) (hd : c.t.parts ≤ c.t.done + 1)
    (hf : c.t.fail = 0) : ∃ t, execPassEnd reck s = .next t ∧ (∃ y ∈ t.reck.q, y.id = x.id ∧ y.phase = 2 ∧ y.status = 0) ∧
      t.decks = (s.passWork c (s.passRounds c)).1.decks := by
  obtain ⟨t, nsw, addr, acc, he, hq, hdecks⟩ := passEnd_whole hx hc hm hb h0
  have hp := partEnd_last (s := t) (x := { x with nsw := nsw, addr := addr })
    (u := { c.t with done := c.t.done + 1, acc := acc }) (st := 0) hd hf
  have hq : x ∈ t.reck.q := hq.queue ▸ List.mem_of_find?_eq_some hx
  exact ⟨_, he.trans (congrArg _ hp), ⟨_, List.mem_map.mpr ⟨x, hq, if_pos rfl⟩, rfl, rfl, rfl⟩, hdecks hr⟩

/-- Settles O22: a whole pass by the work of its elements and the end of its part; the end of the update by what all that
follows leaves to a slot that no update holds. -/
theorem passesUpdateElements : Obligations.PassesUpdateElements := by
  unfold Obligations.PassesUpdateElements
  refine ⟨?_, ?_, ?_⟩
  · intro reck x c s _ hid hm hb hx hc h0 hparts
    obtain ⟨t, nsw, addr, acc, he, hq, -⟩ := passEnd_whole hx hc hm hb h0
    have hs := completePass_success_spec (s := t.setTensor { c.t with done := c.t.done + 1, acc := acc })
      (x := { x with nsw := nsw, addr := addr }) (by rw [← hq.next] at hid; exact hid)
    refine ⟨_, he, ?_⟩
    rw [partEnd_more hparts, ← hq.passes]
    exact hs
  · intro reck aw am av ag x c s hx hc hlast hfail hm hb hrule hone hw hma hva hg hwm hwv hmv
    obtain ⟨hp, hd, hstep, hpg⟩ := passCtx_some hc
    rw [← hp, ← hd] at hw hma hva hg
    obtain ⟨hwork, h0⟩ := passWork_one hw hma hva hrule (hpg hrule) (hd ▸ hone) hg
    obtain ⟨t, he, hq, hdecks⟩ := passEnd_last hx hc hm hb h0 hrule hlast hfail
    have hbw := udBadIn_of_rkItem hw
    have hbm := udBadIn_of_rkItem hma
    have hbv := udBadIn_of_rkItem hva
    obtain ⟨hnw, hnm, hnv⟩ := elemPut_reads (c := c) (ag := ag) hbm hbv hwm hwv hmv
    have h16 (a : Nat) : t.num16 a = (s.elemPut c aw am av ag).num16 a := by rw [State.num16, hdecks, hwork]; rfl
    have h32 (a : Nat) : t.num32 a = (s.elemPut c aw am av ag).num32 a := by rw [State.num32, hdecks, hwork]; rfl
    refine ⟨t, he, hq, ⟨?_, fun hn => ?_, fun hn => ?_⟩, fun a haw ham hav => ?_⟩
    · rw [h16, hnw, State.elemWeight, hstep, hd]
      rfl
    · rw [h32, hnm, storedMoment, if_neg (by exact Bool.eq_false_iff.mp hn)]
      rfl
    · rw [h32, hnv, storedMoment, if_neg (by exact Bool.eq_false_iff.mp hn)]
      rfl
    · rw [hdecks, hwork]
      exact mget_elemPut_ne hbw hbm hbv haw ham hav
  · intro part slot a u s hu ha hb hh hp hn hr hlog
    subst hp hn
    obtain ⟨t, he, hk⟩ := tensorUpdateComplete_ends hu ha hb hh hr
    refine ⟨t, he, ?_, ?_, hk.tensors⟩
    · rw [State.num32, hk.decks]
      exact num32_put_same u.tsn
    · rw [hk.slot]
      exact slot_recordTensor hlog

end Sys2Proof.Machine
end

section
/-! Root jobs and root queries (R231 to R235). -/

namespace Sys2Proof.Machine

open Sys2Proof

variable {s t : State} {reck : Nat} {j : RootJob} {q : List RootJob}

/-- The head job of a reckoner starts (R235). -/
theorem rootJobStart_starts (hq : tget [] s.reck.roots reck = j :: q) (hj : j.running = false)
    (hm : s.mirrorHolds j.part = false) : execRootJobStart reck s = .next { s with reck := { s.reck with
      roots := tset [] s.reck.roots reck ({ j with running := true } :: q) } } := by
  unfold execRootJobStart
  rw [hq]
  simp [hj, hm]

/-- A reckoner whose head job has left the queue. -/
def State.jobOut (s : State) (reck : Nat) (q : List RootJob) : State :=
  { s with reck := { s.reck with roots := tset [] s.reck.roots reck q } }

/-- The roots of a job that has succeeded with two dampings, until their installation (R231 to R233). -/
def RootJob.inst (j : RootJob) (d : F32 × F32) : RootInst :=
  { part := j.part, run := j.run, fb := j.fb, install := j.install
    damp := if d.1 = d.2 then d.1 else if Config.dampOfR then d.2 else d.1 }

/-- What a job leaves that has worked, its retries counted: its new roots, or a failure (R231, R234). -/
def State.jobDone (s : State) (j : RootJob) : Except RootCause (F32 × F32) → State
  | .error c => s.rootFailed j c
  | .ok d =>
    ({ s with reck := { s.reck with ready := s.reck.ready ++ [j.inst d] } }.setFactorBlock j.part j.fb
      (fun w => setField (setField w 322 1 0) 323 1 0)).addO 32 (kRK_ROOT_JOBS j.part) 1

/-- A job with new roots counts itself (R236). -/
theorem jobDone_ok_o (d : F32 × F32) (k : Nat) : (s.jobDone j (.ok d)).o k =
    if k = kRK_ROOT_JOBS j.part then min (s.o (kRK_ROOT_JOBS j.part) + 1) (2 ^ 32 - 1) else s.o k := by
  unfold State.jobDone
  rw [o_addO, setFactorBlock_o, setFactorBlock_o, satAdd]
  rfl

/-- The running job ends by the result of its work (R231 to R235). -/
theorem rootJobEnd_ends (hq : tget [] s.reck.roots reck = j :: q) (hj : j.running = true)
    (hm : s.mirrorHolds j.part = false) (hw : s.rootsWait j = false) (hb : s.rootBusy j = false) :
    execRootJobEnd reck j.fb s = .next ((((s.jobOut reck q).rootWork j).1.addO 32 (kRK_ROOT_RETRIES j.part)
      ((s.jobOut reck q).rootWork j).2.1).jobDone j ((s.jobOut reck q).rootWork j).2.2).pollAll := by
  unfold execRootJobEnd
  rw [hq]
  simp -zeta only
  rw [if_neg (by simp [hj, hm, hw, hb])]
  unfold State.jobOut
  generalize State.rootWork _ j = r
  obtain ⟨u, n, d | d⟩ := r
  · rfl
  · rfl

/-- The queue of a job's reckoner is what stands behind it, whatever its work does. -/
theorem roots_of_workKept (hw : WorkKept (s.jobOut reck q) t) : tget [] t.reck.roots reck = q := by
  rw [hw.reck, State.jobOut, tget_tset, if_pos rfl]

section
variable (n : Nat) (hw : WorkKept (s.jobOut reck q) t)
include hw

/-- A job with new roots (R231 to R233). -/
theorem jobDone_ok (d : F32 × F32) : let u := (t.addO 32 (kRK_ROOT_RETRIES j.part) n).jobDone j (.ok d)
    ∃ x : RootInst, tget [] u.reck.roots reck = q ∧ u.reck.ready = s.reck.ready ++ [x] ∧ x.part = j.part ∧ x.fb = j.fb ∧
      x.run = j.run ∧ x.install = j.install ∧ (d.1 = d.2 → x.damp = d.1) ∧
      u.o (kRK_ROOT_JOBS j.part) = min (s.o (kRK_ROOT_JOBS j.part) + 1) (2 ^ 32 - 1) ∧
      u.o (kRK_ROOT_RETRIES j.part) = min (s.o (kRK_ROOT_RETRIES j.part) + n) (2 ^ 32 - 1) := by
  intro u
  have hu : u.reck = { t.reck with ready := t.reck.ready ++ [j.inst d] } := by
    unfold u State.jobDone
    rw [addO_reck, setFactorBlock_reck]
    rfl
  refine ⟨j.inst d, ?_, by rw [hu, hw.reck]; rfl, rfl, rfl, rfl, rfl, fun h => if_pos h, ?_, ?_⟩
  · rw [hu]
    exact roots_of_workKept hw
  · unfold u
    rw [jobDone_ok_o, if_pos rfl, o_addO, if_neg (by simp), hw.o]
    rfl
  · unfold u
    rw [jobDone_ok_o, if_neg (by simp), o_addO, if_pos rfl, hw.o]
    rfl

/-- A job that fails (R234). -/
theorem jobDone_error (c : RootCause) : let u := (t.addO 32 (kRK_ROOT_RETRIES j.part) n).jobDone j (.error c)
    tget [] u.reck.roots reck = q ∧ u.reck.ready = s.reck.ready ∧
      u.o (kRK_ROOT_FALLBACKS j.part) = min (s.o (kRK_ROOT_FALLBACKS j.part) + 1) (2 ^ 32 - 1) ∧
      s.errs.seq < u.errs.seq := by
  intro u
  have hu : u.reck = t.reck := by
    unfold u State.jobDone
    rw [rootFailed_reck, addO_reck]
  refine ⟨?_, by rw [hu, hw.reck]; rfl, ?_, ?_⟩
  · rw [hu]
    exact roots_of_workKept hw
  · unfold u State.jobDone
    rw [rootFailed_o, if_pos rfl, o_addO, if_neg (by simp), hw.o]
    rfl
  · unfold u State.jobDone
    rw [rootFailed_seq, addO_errs]
    exact Nat.lt_succ_of_le hw.seq

end

/-- Where the factor block cannot be read, the work fails (R234, R238). -/
theorem rootWork_of_factorBad (h : s.factorBad j.part j.fb ≠ 0) : ∃ c, (s.rootWork j).2.2 = .error c := by
  unfold State.rootWork
  dsimp only
  split
  next h0 => exact absurd h0 h
  next => exact ⟨_, rfl⟩

variable {rod fb step : Nat}

/-- A query by a step that no job holds is answered (R232). -/
theorem rootQuery_answers (hq : s.issues rod = true ∨ (s.rod rod).wait = .rootQuery fb step)
    (hp : s.rootPending (s.owner rod) (s.num (s.owner rod)).runs fb step = false) :
    execRootQuery rod fb step s = .next (s.setRod rod { s.rod rod with
      wait := .none, ret := rootRet (s.rootsInForce (s.owner rod) (s.num (s.owner rod)).runs fb step) }) := by
  have ha : (s.issues rod || decide ((s.rod rod).wait = .rootQuery fb step)) = true := by simpa using hq
  simp only [execRootQuery, ha, hp, Bool.not_true, Bool.false_eq_true, if_false]

/-- A new query waits for a job due by its step (R232). -/
theorem rootQuery_waits (hi : s.issues rod = true)
    (hp : s.rootPending (s.owner rod) (s.num (s.owner rod)).runs fb step = true)
    (hn : (s.rod rod).wait ≠ .rootQuery fb step) : execRootQuery rod fb step s = .next (s.setRod rod { s.rod rod with
      wait := .rootQuery fb step, waitStrokes := 0, waitSince := s.ns }) := by
  simp [execRootQuery, hp, hi, hn]

end Sys2Proof.Machine
end

section
/-! Writes of parameter groups (R226). -/

namespace Sys2Proof.Machine

open Sys2Proof

/-! A field that is set is read back, and the bits below it are kept. -/

/-- Bits of a number are those of its low part that holds them. -/
theorem nbits_mod {x w lo n : Nat} (h : lo + n ≤ w) : nbits (x % 2 ^ w) lo n = nbits x lo n := by
  refine Nat.eq_of_testBit_eq fun i => ?_
  simp only [nbits, Nat.testBit_mod_two_pow, Nat.testBit_shiftRight]
  by_cases hi : i < n
  · simp only [hi, decide_true, Bool.true_and, show lo + i < w by omega]
  · simp only [hi, decide_false, Bool.false_and]

/-- A number whose field is replaced: the bits below, the new field, and the bits above. -/
theorem field_replaced (x lo n v : Nat) :
    x - nbits x lo n * 2 ^ lo + v * 2 ^ lo = x % 2 ^ lo + 2 ^ lo * (v + 2 ^ n * (x / 2 ^ lo / 2 ^ n)) := by
  have hx := Nat.div_add_mod x (2 ^ lo)
  rw [← Nat.div_add_mod (x / 2 ^ lo) (2 ^ n), Nat.mul_add] at hx
  rw [nbits, Nat.shiftRight_eq_div_pow, Nat.mul_add, Nat.mul_comm _ (2 ^ lo), Nat.mul_comm v]
  omega

theorem nbits_setField_same {w lo n v : Nat} (x : BitVec w) (h : lo + n ≤ w) :
    nbits (setField x lo n v).toNat lo n = v % 2 ^ n := by
  rw [setField, BitVec.toNat_ofNat, nbits_mod h, field_replaced, nbits, Nat.shiftRight_eq_div_pow,
    Nat.add_mul_div_left _ _ (Nat.two_pow_pos lo), Nat.div_eq_of_lt (Nat.mod_lt _ (Nat.two_pow_pos lo)), Nat.zero_add,
    Nat.add_mul_mod_self_left, Nat.mod_mod]

theorem nbits_setField_below {w lo n v a k : Nat} (x : BitVec w) (h : lo ≤ w) (hb : a + k ≤ lo) :
    nbits (setField x lo n v).toNat a k = nbits x.toNat a k := by
  rw [setField, BitVec.toNat_ofNat, nbits_mod (hb.trans h), field_replaced, ← nbits_mod hb, Nat.add_mul_mod_self_left,
    Nat.mod_mod, nbits_mod hb]

theorem gT_setT (e : BitVec 512) (v : Nat) (hv : v < 2 ^ 64) : gT (setField e 384 64 v) = v := by
  rw [gT, nbits_setField_same e (by decide), Nat.mod_eq_of_lt hv]

theorem gT_lt (e : BitVec 512) : gT e < 2 ^ 64 := Nat.mod_lt _ (by decide)

theorem gPeak_setT (e : BitVec 512) (v : Nat) : gPeak (setField e 384 64 v) = gPeak e := by
  rw [gPeak, gF32, nbits_setField_below e (by decide) (by decide), gPeak, gF32]

variable {s v : State} {p k : Nat} {e : BitVec 512} {path : Path}

/-- Of a group with a held write that does not change T, software sees the T in force (R226). -/
theorem gT_groupImage (h : ∀ x, s.heldGroup p k = some x → x.2.1 = false) : gT (s.groupImage p k) = gT (s.rkGroup p k) := by
  unfold State.groupImage
  split
  next x hx =>
    rw [if_neg (by simp [h x hx]), gT_setT _ _ (gT_lt _)]
  next => rfl

/-- A write of a group is held; `setT` says that it changes T (R226). -/
def State.groupHeld (s : State) (p k : Nat) (e : BitVec 512) (setT : Bool) : State :=
  { s with reck := { s.reck with heldGroups := s.reck.heldGroups ++ [(256 * p + k, setT, e)] } }

/-- The latest held write is the one that counts. -/
theorem heldGroup_groupHeld (setT : Bool) : (s.groupHeld p k e setT).heldGroup p k = some (256 * p + k, setT, e) := by
  simp [State.heldGroup, State.groupHeld]

/-- What a write that is held shows: its own values, and its own T where it changes T (R226). -/
theorem groupImage_groupHeld (setT : Bool) : (s.groupHeld p k e setT).groupImage p k =
    if setT then e else setField e 384 64 (gT (s.rkGroup p k)) := by
  unfold State.groupImage
  rw [heldGroup_groupHeld]
  rfl

/-- Software reads back what it wrote (R226). -/
theorem groupHeld_reads {setT : Bool} (h : setT = false → gT e = gT (s.rkGroup p k)) :
    gPeak ((s.groupHeld p k e setT).groupImage p k) = gPeak e ∧ gT ((s.groupHeld p k e setT).groupImage p k) = gT e := by
  rw [groupImage_groupHeld]
  cases setT with
  | true => exact ⟨rfl, rfl⟩
  | false => exact ⟨gPeak_setT .., (gT_setT _ _ (gT_lt _)).trans (h rfl).symm⟩

theorem groupsWrite_bad (h : groupBad e = true) : s.groupsWrite path p k e = (s, invalidParam path) := by
  simp [State.groupsWrite, h]

theorem groupsWrite_busy (h : groupBad e = false) (hr : s.running p = true) (ht : gT e ≠ gT (s.groupImage p k)) :
    s.groupsWrite path p k e = (s, stNUM_BUSY) := by
  simp [State.groupsWrite, h, hr, ht]

/-- Any other write is held, and software reads back its values (R226). -/
theorem groupsWrite_held (h : groupBad e = false) (ht : s.running p = false ∨ gT e = gT (s.groupImage p k)) :
    ∃ setT, s.groupsWrite path p k e = (s.groupHeld p k e setT, 0) ∧ (setT = false → gT e = gT (s.rkGroup p k)) := by
  unfold State.groupsWrite
  extract_lets setT was
  rw [if_neg (by simp [h]), if_neg (by simpa [setT, or_iff_not_imp_left] using ht)]
  refine ⟨setT || was, rfl, fun hf => ?_⟩
  obtain ⟨hset, hwas⟩ := Bool.or_eq_false_iff.mp hf
  have he : gT e = gT (s.groupImage p k) := by simpa [setT] using hset
  rw [he, gT_groupImage fun x hx => by simpa [was, hx] using hwas]

theorem invalidParam_ne : invalidParam path ≠ 0 := by
  cases path <;> exact Nat.succ_ne_zero _

/-- RK_GROUPS_WRITE in its turn (R226, R410). -/
theorem execRkGroupsWrite_eq (hp : p < 16) (hk : k < 256) : execRkGroupsWrite path p k e s =
    .next ((s.ringBefore path).control path (fun s => s.groupsWrite path p k e)) := by
  unfold execRkGroupsWrite
  rw [if_pos (by simp [hp, hk])]
  rfl

end Sys2Proof.Machine
end

section
/-! Root jobs, root queries and group writes (R226, R231 to R235). -/

namespace Sys2Proof.Machine

open Sys2Proof

/-- Settles O23: jobs by the result of their work, which leaves the reckoners' queues and the objects alone; queries by whether
a job is due; group writes by what the write answers in each case. -/
theorem rootJobsAndGroups : Obligations.RootJobsAndGroups := by
  unfold Obligations.RootJobsAndGroups
  refine ⟨?_, ?_, ?_, ?_, ?_⟩
  · intro reck j q s hq hj hm
    exact ⟨_, rootJobStart_starts hq hj hm, by simp, rfl⟩
  · intro reck n j q s _ hq hj hm hw hb
    have he := rootJobEnd_ends hq hj hm hw hb
    have hk : WorkKept (s.jobOut reck q) ((s.jobOut reck q).rootWork j).1 := .rootWork
    refine ⟨fun s' d hr => ?_, fun hr => ?_⟩
    · rw [show (s.jobOut reck q).rootWork j = (s', n, .ok d) from hr] at he hk
      obtain ⟨x, hx⟩ := jobDone_ok (j := j) n hk d
      exact ⟨_, x, he, hx⟩
    · obtain ⟨c, hc⟩ : ∃ c, ((s.jobOut reck q).rootWork j).2.2 = .error c := by
        rcases hr with ⟨s', c, hr⟩ | hf
        · exact ⟨c, congrArg (fun r => r.2.2) hr⟩
        · exact rootWork_of_factorBad hf
      rw [hc] at he
      exact ⟨_, he, jobDone_error _ hk c⟩
  · intro rod fb step s hi
    exact ⟨rootQuery_answers (.inl hi), fun hp hn => ⟨_, rootQuery_waits hi hp hn, by simp, rfl⟩⟩
  · intro rod fb step s hw hp
    exact ⟨_, rootQuery_answers (.inr hw) hp, by simp, by simp, rfl⟩
  · intro path p k e s v hp hk hu hw
    have heq := execRkGroupsWrite_eq (s := s) (path := path) (e := e) hp hk
    refine ⟨fun hb => ?_, fun hb hr ht => ?_, fun hb ht => ?_⟩
    · have hf := groupsWrite_bad (s := v) (path := path) (p := p) (k := k) hb
      refine heq.trans ?_
      rw [control_refused v hu hw (by rw [hf]; exact invalidParam_ne), hf]
    · have hf := groupsWrite_busy (path := path) hb hr ht
      refine heq.trans ?_
      rw [control_refused v hu hw (by rw [hf]; exact Nat.succ_ne_zero _), hf]
    · obtain ⟨setT, hf, hT⟩ := groupsWrite_held (path := path) hb ht
      obtain ⟨hpeak, hgT⟩ := groupHeld_reads hT
      exact ⟨_, heq.trans (congrArg _ (control_accepted v hu hw hf)), report_get .., rfl, hpeak, hgT, rfl⟩

end Sys2Proof.Machine
end

section
/-! Sending from a carry unit changes its list of sent messages and the optical ports alone (R250, R257, R283, R295). -/

namespace Sys2Proof.Machine

open Sys2Proof

/-- From `s` to `t`, the optical ports alone have changed. -/
def OpOnly (s t : State) : Prop := ∃ o, t = { s with op := o }

namespace OpOnly

variable {s t : State} {c : Prop} [Decidable c]

theorem refl : OpOnly s s := ⟨_, rfl⟩

theorem update {o} (h : OpOnly s t) : OpOnly s { t with op := o } := by
  obtain ⟨_, rfl⟩ := h
  exact ⟨_, rfl⟩

theorem ite {u : State} (ht : OpOnly s t) (hu : OpOnly s u) : OpOnly s (if c then t else u) := by
  split <;> assumption

theorem ite_fst {α : Type} {x y : State × α} (hx : OpOnly s x.1) (hy : OpOnly s y.1) : OpOnly s (if c then x else y).1 := by
  split <;> assumption

theorem foldl {α : Type} {f : State → α → State} {l : List α} (h : OpOnly s t)
    (hf : ∀ t x, OpOnly s t → OpOnly s (f t x)) : OpOnly s (l.foldl f t) :=
  List.foldlRecOn l f h fun t h x _ => hf t x h

theorem setLink {l v} (h : OpOnly s t) : OpOnly s (t.setLink l v) := h.update

theorem emitFlit {l f} (h : OpOnly s t) : OpOnly s (t.emitFlit l f) :=
  have hp : OpOnly s (t.payCredits l).1 := .ite_fst h h.setLink
  hp.setLink.update

theorem returnLoop {l n} (h : OpOnly s t) : OpOnly s (State.returnLoop l n t) := by
  induction n generalizing t with
  | zero => exact h
  | succ n ih => exact .ite h (ih h.emitFlit)

theorem oweCredits {l k n} (h : OpOnly s t) : OpOnly s (t.oweCredits l k n) :=
  .ite h.setLink.returnLoop h.setLink

theorem admitTransit {k n} (h : OpOnly s t) : OpOnly s (State.admitTransit k n t) := by
  induction n generalizing t with
  | zero => exact h
  | succ n ih =>
    unfold State.admitTransit
    dsimp only
    split
    · exact h
    · exact .ite h (ih h.oweCredits.update)

theorem leftTransit {via} (h : OpOnly s t) : OpOnly s (t.leftTransit via) := .ite h h.update.admitTransit

theorem pumpClass {l c n} (h : OpOnly s t) : OpOnly s (State.pumpClass l c n t) := by
  induction n generalizing t with
  | zero => exact h
  | succ n ih =>
    unfold State.pumpClass
    dsimp only
    split
    · exact h
    · exact .ite h (ih (.ite h.setLink.emitFlit.leftTransit h.setLink.emitFlit))

theorem transmit {l k m} (h : OpOnly s t) : OpOnly s (t.transmit l k m) :=
  (h.setLink.foldl fun _ _ h => h.pumpClass).setLink

theorem sendOn {k m} (h : OpOnly s t) : OpOnly s (t.sendOn k m).1 := by
  unfold State.sendOn
  split
  · exact h.leftTransit
  · exact h.update.transmit

theorem route1 {k m} (h : OpOnly s t) : OpOnly s (t.route1 k m).1 := by
  unfold State.route1
  refine .ite_fst h.update ?_
  split
  · exact h.sendOn
  · exact .ite_fst h.update h.sendOn

theorem opSend {dst part kind flow data} (h : OpOnly s t) : OpOnly s (t.opSend dst part kind flow data) :=
  h.foldl fun _ _ h => h.route1

end OpOnly

/-- The state in which messages have been noted as sent and handed to the optical ports. -/
def State.sends (s : State) (l : List CarryMsg) (o : Optical) : State :=
  { s with cy := { s.cy with sent := s.cy.sent ++ l }, op := o }

variable (s : State)

theorem sends_sends (l l' : List CarryMsg) (o o' : Optical) : (s.sends l o).sends l' o' = s.sends (l ++ l') o' := by
  unfold State.sends
  rw [List.append_assoc]

/-- Sending a message is no more than that. -/
theorem cySend_eq (m : CarryMsg) : ∃ o, s.cySend m = s.sends [m] o := by
  suffices h : OpOnly (s.sends [m] s.op) (s.cySend m) from h
  cases m with
  | exported => exact OpOnly.refl.foldl fun _ _ h => h.opSend
  | _ => exact OpOnly.refl.opSend

/-- Nor is sending several that do not depend on one another's sending. -/
theorem foldl_cySend_eq {α : Type} (f : α → CarryMsg) (l : List α) :
    ∃ o, l.foldl (fun t x => t.cySend (f x)) s = s.sends (l.map f) o := by
  induction l generalizing s with
  | nil => exact ⟨s.op, by simp [State.sends]⟩
  | cons x l ih =>
    obtain ⟨o, ho⟩ := cySend_eq s (f x)
    obtain ⟨o', ho'⟩ := ih (s.sends [f x] o)
    exact ⟨o', by rw [List.foldl_cons, ho, ho', sends_sends]; rfl⟩

end Sys2Proof.Machine
end

section
/-! What the carry units share with the rest of the part changes little: records, completions of commands that succeed, and
waits that end (R265, R393, R464). -/

namespace Sys2Proof.Machine

open Sys2Proof

variable (s : State)

/-- Objects of the same directory with different low bytes are different objects (R402). -/
theorem key_ne {a b i j : Nat} (h : a % 256 ≠ b % 256) : a + 256 * i ≠ b + 256 * j := by omega

/-- A record of another class than 3 changes the record store, the monitor's output and the interrupts. -/
theorem errRec_eq {r : ErrRec} (hr : r.cls ≠ 3) :
    ∃ e m h, s.errRec r = { s with errs := e, mon := m, host := h } ∧ e.seq = s.errs.seq + 1 :=
  ⟨_, _, _, (errRec_frame s r).trans (by rw [errRec_objs s r hr]), errRec_seq s r⟩

/-- A signal to the host changes the host's side alone. -/
theorem coalesce_eq (fn cq : Nat) : ∃ h, s.coalesce fn cq = { s with host := h } := by
  have ite {c : Prop} [Decidable c] {t u : State} (ht : ∃ h, t = { s with host := h }) (hu : ∃ h, u = { s with host := h }) :
      ∃ h, (if c then t else u) = { s with host := h } := by split <;> assumption
  exact ite ⟨_, rfl⟩ (ite (ite ⟨_, rfl⟩ ⟨_, rfl⟩) ⟨_, rfl⟩)

/-- So does a completion entry, with what its queues and its interrupt count. -/
theorem entry_eq (a : Nat) (bs : List Byte) (fn cq : Nat) (f : Func) :
    ∃ h, ((s.hostWrite a bs).setFunc fn f).coalesce fn cq = { s with host := h } :=
  (coalesce_eq _ fn cq).imp fun _ e => e.trans rfl

/-- A completion changes what its status does, and the host's side. -/
theorem complete_eq (c : Cmd) (st r : Nat) (w : Nsw) :
    ∃ h, s.complete c st r w = { s.endStatus c st with host := h } := by
  unfold State.complete
  dsimp only
  split
  · exact ⟨_, rfl⟩
  · exact entry_eq _ _ _ _ _ _

/-- A command that succeeds changes the host's side alone. -/
theorem completeOpt_zero_eq (id : Option Nat) (r : Nat) (w : Nsw) :
    ∃ h, s.completeOpt id 0 r w = { s with host := h } := by
  have success (t : State) (c : Cmd) : t.endStatus c 0 = t := if_pos (by simp)
  cases id with
  | none => exact ⟨_, rfl⟩
  | some i =>
    unfold State.completeOpt State.completeLive
    dsimp only
    split
    · exact (complete_eq _ _ 0 r w).imp fun _ e => e.trans (by rw [success])
    · exact ⟨_, rfl⟩

/-- Waits that end change the rods, the contexts and the times of the step. -/
theorem wakeCarry_eq (p : Nat) : ∃ n r c, s.wakeCarry p = { s with nums := n, rods := r, ctxs := c } := by
  let Woken (t : State) : Prop := ∃ n r c, t = { s with nums := n, rods := r, ctxs := c }
  have h0 : Woken (s.phaseTick p) := ⟨_, _, _, (phaseTick_frame s p).trans rfl⟩
  refine List.foldlRecOn (motive := Woken) _ _ (List.foldlRecOn (motive := Woken) _ _ h0 ?_) ?_
  · rintro _ ⟨_, _, _, rfl⟩ r _
    split <;> exact ⟨_, _, _, rfl⟩
  · rintro _ ⟨_, _, _, rfl⟩ c _
    dsimp only
    split <;> exact ⟨_, _, _, rfl⟩

theorem wakeCarry_cy (p : Nat) : (s.wakeCarry p).cy = s.cy := by
  obtain ⟨_, _, _, h⟩ := wakeCarry_eq s p
  rw [h]

end Sys2Proof.Machine
end

section
/-! Reduction groups form and are left (R243, R254). -/

namespace Sys2Proof.Machine

open Sys2Proof

theorem grpOk_eq {p g : Nat} (hp : p < 16) (hg : g < 4) : grpOk p g = true := by simp [grpOk, hp, hg]

variable {s : State} {p g : Nat}

/-! The objects of a group. -/

@[simp] theorem cyState_setCyState (v : Nat) : (s.setCyState p g v).cyState p g = v := by
  simp [State.cyState, State.setCyState]

@[simp] theorem cyEpoch_setCyState (v : Nat) : (s.setCyState p g v).cyEpoch p g = s.cyEpoch p g := by
  simp [State.cyEpoch, State.setCyState]

@[simp] theorem cyState_setGroup (i j : Nat) (v : Group) : (s.setGroup p g v).cyState i j = s.cyState i j := rfl

@[simp] theorem cyEpoch_setGroup (i j : Nat) (v : Group) : (s.setGroup p g v).cyEpoch i j = s.cyEpoch i j := rfl

@[simp] theorem groupDigest_setGroup (i j : Nat) (v : Group) : (s.setGroup p g v).groupDigest i j = s.groupDigest i j := rfl

@[simp] theorem grpKids_setGroup (i j : Nat) (v : Group) : (s.setGroup p g v).grpKids i j = s.grpKids i j := rfl

@[simp] theorem grpParent_setGroup (i j : Nat) (v : Group) : (s.setGroup p g v).grpParent i j = s.grpParent i j := rfl

@[simp] theorem cyState_report (path : Path) (x : Nat) : (s.report path x).cyState p g = s.cyState p g := rfl

@[simp] theorem group_setCyState (v : Nat) : (s.setCyState p g v).group p g = s.group p g := rfl

/-- The configuration of a group does not depend on its state. -/
theorem groupDigest_setCyState (v : Nat) : (s.setCyState p g v).groupDigest p g = s.groupDigest p g := by
  simp [State.groupDigest, State.setCyState, State.cySize, State.cyFanin]

theorem grpKids_setCyState (v : Nat) : (s.setCyState p g v).grpKids p g = s.grpKids p g := by
  simp [State.grpKids, State.setCyState, State.cySize, State.cyFanin, State.cyRank]

theorem grpParent_setCyState (v : Nat) : (s.setCyState p g v).grpParent p g = s.grpParent p g := by
  simp [State.grpParent, State.setCyState, State.cyFanin, State.cyRank]

/-! The handshake's result. -/

/-- A matching handshake makes the group READY with the epoch it brings. -/
theorem formResult_matched (e : Nat) : (s.formResult p g e true).cyState p g = cyREADY ∧
    (s.formResult p g e true).cyEpoch p g = e % 2 ^ 32 ∧ ((s.formResult p g e true).group p g).heard = [] := by
  refine ⟨cyState_setCyState _, (cyEpoch_setCyState _).trans ?_, ?_⟩
  · simp [State.cyEpoch]
  · simp [State.formResult]

/-- Any other makes it IDLE with one record. -/
theorem formResult_mismatched (e : Nat) : (s.formResult p g e false).cyState p g = cyIDLE ∧
    (s.formResult p g e false).errs.seq = s.errs.seq + 1 := by
  obtain ⟨o, ho⟩ := foldl_cySend_eq s (fun r => .result p g r e false) (s.grpKids p g)
  unfold State.formResult
  rw [ho]
  dsimp only
  rw [if_neg Bool.false_ne_true]
  refine ⟨?_, errRec_seq _ _⟩
  rw [State.cyState, State.o, errRec_objs _ _ (Nat.zero_ne_add_one 2)]
  exact cyState_setCyState _

/-! A member that is forming. -/

section
variable (s p g)

/-- A child of the member has not been heard from. -/
def State.silentKid : Prop := ∃ k ∈ s.grpKids p g, ∀ h ∈ (s.group p g).heard, h.child ≠ k

/-- The member after FORM, before it looks at what it has heard (R243). -/
def State.forming : State :=
  (s.setGroup p g { s.group p g with formAt := s.stroke, helloUp := false }).setCyState p g cyFORMING

theorem anySilent_iff : ((s.grpKids p g).any fun k => !(s.group p g).heard.any fun h => h.child == k) = true ↔
    s.silentKid p g := by
  simp [State.silentKid]

end

/-- A member that is not forming, or waits for a child, sends nothing. -/
theorem formGo_waits (h : s.cyState p g ≠ cyFORMING ∨ s.silentKid p g) : s.formGo p g = s := by
  refine if_pos ?_
  rcases h with h | h
  · simp [h]
  · simp [(anySilent_iff s p g).2 h]

section
variable (hf : s.cyState p g = cyFORMING) (hu : (s.group p g).helloUp = false) (hk : ¬s.silentKid p g)
include hf hu hk

/-- A forming member that has heard its children sends its message up to its parent. -/
theorem formGo_up {r : Nat} (hr : s.grpParent p g = some r) :
    s.formGo p g = (s.setGroup p g { s.group p g with helloUp := true }).cySend (.handshake p g r
      ((s.group p g).heard.foldl (fun a h => max a h.epoch) (s.cyEpoch p g)) (s.groupDigest p g)
      ((s.group p g).heard.any fun h => h.mismatch || h.digest != s.groupDigest p g)) := by
  rw [← anySilent_iff, Bool.not_eq_true] at hk
  simp [State.formGo, hf, hu, hk, hr]

/-- The root decides: the next epoch after the greatest, if every digest is its own. -/
theorem formGo_root (hr : s.grpParent p g = none) :
    s.formGo p g = s.formResult p g ((s.group p g).heard.foldl (fun a h => max a h.epoch) (s.cyEpoch p g) + 1)
      (!(s.group p g).heard.any fun h => h.mismatch || h.digest != s.groupDigest p g) := by
  rw [← anySilent_iff, Bool.not_eq_true] at hk
  simp [State.formGo, hf, hu, hk, hr]

end

/-- What a forming member's state reads as. -/
theorem forming_reads : (s.forming p g).cyState p g = cyFORMING ∧
    (s.forming p g).group p g = { s.group p g with formAt := s.stroke, helloUp := false } ∧
    (s.forming p g).cyEpoch p g = s.cyEpoch p g ∧ (s.forming p g).groupDigest p g = s.groupDigest p g ∧
    (s.forming p g).grpKids p g = s.grpKids p g ∧ (s.forming p g).grpParent p g = s.grpParent p g :=
  ⟨cyState_setCyState _, (group_setCyState _).trans (by simp), (cyEpoch_setCyState _).trans (cyEpoch_setGroup ..),
    (groupDigest_setCyState _).trans (groupDigest_setGroup ..), (grpKids_setCyState _).trans (grpKids_setGroup ..),
    (grpParent_setCyState _).trans (grpParent_setGroup ..)⟩

/-! FORM, by the group's state, settings and size. -/

theorem formGroup_busy (h : s.cyState p g ≠ cyIDLE) : s.formGroup p g = (s, stCY_BUSY) := if_pos h

theorem formGroup_invalid (h : s.cyState p g = cyIDLE) (hf : s.formOk p g = false) : s.formGroup p g = (s, stCY_CONFIG) := by
  simp [State.formGroup, h, hf]

theorem formGroup_single (h : s.cyState p g = cyIDLE) (hf : s.formOk p g = true) (h1 : s.cySize p g = 1) :
    s.formGroup p g = ((s.setO (kCY_EPOCH (4 * p + g)) ((s.cyEpoch p g + 1) % 2 ^ 32)).setCyState p g cyREADY, 0) := by
  simp [State.formGroup, h, hf, h1]

theorem formGroup_member (h : s.cyState p g = cyIDLE) (hf : s.formOk p g = true) (h1 : s.cySize p g ≠ 1) :
    s.formGroup p g = ((s.forming p g).formGo p g, 0) := by
  simp [State.formGroup, h, hf, h1, State.forming]

/-- A member with a silent child waits. -/
theorem formGo_forming_waits (h : s.silentKid p g) : (s.forming p g).formGo p g = s.forming p g := by
  obtain ⟨-, hgrp, -, -, hkids, -⟩ := forming_reads (s := s) (p := p) (g := g)
  refine formGo_waits (.inr ?_)
  rw [State.silentKid, hkids, hgrp]
  exact h

/-- A leaf sends its parent its epoch and the digest of its settings. -/
theorem formGo_forming_leaf {r : Nat} (hk : s.grpKids p g = []) (hh : (s.group p g).heard = [])
    (hr : s.grpParent p g = some r) : (s.forming p g).formGo p g =
      ((s.forming p g).setGroup p g { s.group p g with formAt := s.stroke, helloUp := true }).cySend
        (.handshake p g r (s.cyEpoch p g) (s.groupDigest p g) false) := by
  obtain ⟨hst, hgrp, hep, hdig, hkids, hpar⟩ := forming_reads (s := s) (p := p) (g := g)
  rw [formGo_up hst (by rw [hgrp]) (by simp [State.silentKid, hkids, hk]) (hpar.trans hr)]
  simp only [hgrp, hep, hdig, hh, List.any_nil, List.foldl_nil]

/-! LEAVE. -/

/-- What a bucket's poisoning counts and changes is no group's. -/
theorem complete_groups (c : Cmd) (st r : Nat) (w : Nsw) : (s.complete c st r w).cy.groups = s.cy.groups := by
  have poison (t : State) (q : Nat) : (t.poison q).cy.groups = t.cy.groups :=
    List.foldlRecOn (motive := fun u : State => u.cy.groups = t.cy.groups) _ _ rfl fun u hu b _ => by
      dsimp only
      split <;> exact hu
  have hend : (s.endStatus c st).cy.groups = s.cy.groups := by
    unfold State.endStatus
    split
    · rfl
    · exact poison s _
  obtain ⟨h, hh⟩ := complete_eq s c st r w
  rw [hh]
  exact hend

theorem completeOpt_groups (id : Option Nat) (st r : Nat) (w : Nsw) : (s.completeOpt id st r w).cy.groups = s.cy.groups := by
  cases id with
  | none => rfl
  | some i =>
    unfold State.completeOpt State.completeLive
    dsimp only
    split
    · rw [complete_groups]
    · rfl

/-- A cleared group is as after reset. -/
theorem group_clearGroup (st : Nat) : (s.clearGroup p g st).group p g = {} := by
  have hfold (l : List (Option Nat)) (t : State) :
      (l.foldl (fun t c => t.completeOpt c st 0 0) t).cy.groups = t.cy.groups :=
    List.foldlRecOn (motive := fun u : State => u.cy.groups = t.cy.groups) _ _ rfl fun u hu c _ =>
      (completeOpt_groups c st 0 0).trans hu
  unfold State.clearGroup
  dsimp only
  rw [State.group, wakeCarry_cy, hfold]
  exact (group_setGroup ..).trans (if_pos rfl)

theorem leaveGroup_empty (h : s.groupBuckets p g = []) :
    s.leaveGroup p g = ((s.clearGroup p g stCY_NO_GROUP).setCyState p g cyIDLE, 0) := by
  simp [State.leaveGroup, h]

theorem leaveGroup_busy (h : s.groupBuckets p g ≠ []) : s.leaveGroup p g = (s, stCY_BUSY) := by
  simp [State.leaveGroup, h]

/-! The commands. -/

theorem exec_groupForm (path : Path) (hp : p < 16) (hg : g < 4) :
    exec (.groupForm path p g) s = .next ((s.ringBefore path).control path (·.formGroup p g)) := by
  simp [exec, execGroupForm, grpOk_eq hp hg, State.access]

theorem exec_groupLeave (path : Path) (hp : p < 16) (hg : g < 4) :
    exec (.groupLeave path p g) s = .next ((s.ringBefore path).control path (·.leaveGroup p g)).pollAll := by
  simp [exec, execGroupLeave, grpOk_eq hp hg, State.access, polled]

/-- A child's message that comes in time is kept, and the member looks at what it has heard. -/
theorem exec_handshakeUp {child epoch : Nat} {digest : BitVec 256} {mismatch : Bool} (hp : p < 16) (hg : g < 4)
    (hst : s.cyState p g = cyIDLE ∨ s.cyState p g = cyFORMING) (hu : (s.group p g).helloUp = false)
    (hc : ∀ h ∈ (s.group p g).heard, h.child ≠ child) :
    exec (.handshakeUp p g child digest epoch mismatch) s = .next ((s.setGroup p g { s.group p g with
      heard := (s.group p g).heard ++ [{ child := child, digest := digest, epoch := epoch % 2 ^ 32, mismatch := mismatch }] }
      ).formGo p g) := by
  have hany : ((s.group p g).heard.any fun h => h.child == child) = false := by simpa using hc
  refine if_neg ?_
  rcases hst with h | h <;> simp [grpOk_eq hp hg, h, hu, hany]

section
variable {hs : List Hello}

/-- What a member that has kept a message still waits for. -/
theorem silentKid_heard : (s.setGroup p g { s.group p g with heard := hs }).silentKid p g ↔
    ∃ k ∈ s.grpKids p g, ∀ h ∈ hs, h.child ≠ k := by
  simp [State.silentKid]

/-- While it is IDLE, or another child is silent, a message is only kept. -/
theorem formGo_keeps (h : s.cyState p g = cyIDLE ∨ ∃ k ∈ s.grpKids p g, ∀ h ∈ hs, h.child ≠ k) :
    (s.setGroup p g { s.group p g with heard := hs }).formGo p g = s.setGroup p g { s.group p g with heard := hs } := by
  refine formGo_waits (h.imp (fun h => ?_) silentKid_heard.2)
  rw [cyState_setGroup, h]
  exact Nat.zero_ne_one

/-- The last message, all digests equal, lets the root form its group. -/
theorem formGo_forms (hf : s.cyState p g = cyFORMING) (hu : (s.group p g).helloUp = false)
    (hk : ∀ k ∈ s.grpKids p g, ∃ h ∈ hs, h.child = k) (hr : s.grpParent p g = none)
    (hd : ∀ h ∈ hs, h.mismatch = false ∧ h.digest = s.groupDigest p g) :
    (s.setGroup p g { s.group p g with heard := hs }).formGo p g = (s.setGroup p g { s.group p g with heard := hs }).formResult
      p g (hs.foldl (fun a h => max a h.epoch) (s.cyEpoch p g) + 1) true := by
  have hno : ¬∃ k ∈ s.grpKids p g, ∀ h ∈ hs, h.child ≠ k := fun ⟨k, hk', hne⟩ =>
    have ⟨h, hm, he⟩ := hk k hk'
    hne h hm he
  have hbad : (hs.any fun h => h.mismatch || h.digest != s.groupDigest p g) = false := by simpa using hd
  rw [formGo_root ((cyState_setGroup ..).trans hf) (by simpa using hu) (mt silentKid_heard.1 hno)
    ((grpParent_setGroup ..).trans hr)]
  simp only [group_setGroup, if_pos, cyEpoch_setGroup, groupDigest_setGroup, hbad, Bool.not_false]

end

theorem exec_handshakeResult {epoch : Nat} (ok : Bool) (hp : p < 16) (hg : g < 4) (hst : s.cyState p g = cyFORMING)
    (hu : (s.group p g).helloUp = true) : exec (.handshakeResult p g epoch ok) s = .next (s.formResult p g epoch ok) := by
  simp [exec, execHandshakeResult, grpOk_eq hp hg, hst, hu]

/-- A member that has waited long enough becomes IDLE with one record. -/
theorem exec_cyFormTimeout (hp : p < 16) (hg : g < 4) (hst : s.cyState p g = cyFORMING)
    (ht : (s.group p g).formAt + s.o (kCY_FORM_STROKES (4 * p + g)) ≤ s.stroke) :
    exec (.cyFormTimeout p g) s = .next (((s.setGroup p g { s.group p g with heard := [], helloUp := false }).setCyState p g
      cyIDLE).errRec { cls := 0, code := rcCY_FORM_TIMEOUT, part := p }) := by
  refine congrArg _ (if_neg ?_)
  simp [grpOk_eq hp hg, hst, ht]

/-- FORM of a valid group, by its size and what it has heard. -/
theorem groupForm_valid {path : Path} {v : State} (hup : v.dictUp = true) (hw : v.mayWrite path = true)
    (hi : v.cyState p g = cyIDLE) (hf : v.formOk p g = true) :
    (v.cySize p g = 1 → ∃ t, v.control path (·.formGroup p g) = t ∧ t.cyState p g = cyREADY ∧
      t.cyEpoch p g = (v.cyEpoch p g + 1) % 2 ^ 32 ∧ tget 0 t.status (pathCode path) = 0 ∧
      t = { v with objs := t.objs, status := t.status }) ∧
    (v.cySize p g ≠ 1 → v.silentKid p g → ∃ t, v.control path (·.formGroup p g) = t ∧ t.cyState p g = cyFORMING ∧
      (t.group p g).formAt = v.stroke ∧ t.cy.sent = v.cy.sent ∧
      t = { v with objs := t.objs, cy := t.cy, status := t.status }) ∧
    (∀ r, v.cySize p g ≠ 1 → v.grpKids p g = [] → (v.group p g).heard = [] → v.grpParent p g = some r →
      ∃ t, v.control path (·.formGroup p g) = t ∧ t.cyState p g = cyFORMING ∧ (t.group p g).helloUp = true ∧
        t.cy.sent = v.cy.sent ++ [.handshake p g r (v.cyEpoch p g) (v.groupDigest p g) false]) := by
  obtain ⟨hst, hgrp, -⟩ := forming_reads (s := v) (p := p) (g := g)
  refine ⟨fun h1 => ?_, fun h1 hk => ?_, fun r h1 hk hh hr => ?_⟩
  · refine ⟨_, control_accepted v hup hw (formGroup_single hi hf h1), cyState_setCyState _, (cyEpoch_setCyState _).trans ?_,
      report_get .., rfl⟩
    simp [State.cyEpoch]
  · have hgo := control_accepted v (f := (·.formGroup p g)) hup hw (formGroup_member hi hf h1)
    rw [formGo_forming_waits hk] at hgo
    exact ⟨_, hgo, hst, congrArg Group.formAt hgrp, rfl, rfl⟩
  · obtain ⟨o, ho⟩ := cySend_eq ((v.forming p g).setGroup p g { v.group p g with formAt := v.stroke, helloUp := true })
      (.handshake p g r (v.cyEpoch p g) (v.groupDigest p g) false)
    have hgo := control_accepted v (f := (·.formGroup p g)) hup hw (formGroup_member hi hf h1)
    rw [formGo_forming_leaf hk hh hr, ho] at hgo
    exact ⟨_, hgo, hst, congrArg Group.helloUp ((group_setGroup ..).trans (if_pos rfl)), rfl⟩

/-- Settles O24: FORM and LEAVE by what the group's state allows, the handshake's messages by whether a child is still silent,
its result and its timeout by the state they leave. -/
theorem carryGroupsForm : Obligations.CarryGroupsForm := by
  unfold Obligations.CarryGroupsForm
  refine ⟨?_, ?_, ?_, ?_⟩
  · intro path p g s v hp hg hup hw
    have hform := exec_groupForm (s := s) path hp hg
    have hleave := exec_groupLeave (s := s) path hp hg
    refine ⟨fun hst => ?_, fun hst hf => ?_, fun hst hf => ?_, fun hb => ?_, fun hb => ?_⟩
    · have h := formGroup_busy (s := v) hst
      rw [hform, control_refused v hup hw (by rw [h]; exact Nat.succ_ne_zero _), h]
    · have h := formGroup_invalid (s := v) hst hf
      rw [hform, control_refused v hup hw (by rw [h]; exact Nat.succ_ne_zero _), h]
    · rw [hform]
      obtain ⟨hone, hwait, hleaf⟩ := groupForm_valid hup hw hst hf
      refine ⟨fun h1 => ?_, fun h1 hk => ?_, fun r h1 hk hh hr => ?_⟩
      · obtain ⟨t, ht, h⟩ := hone h1
        exact ⟨t, congrArg _ ht, h⟩
      · obtain ⟨t, ht, h⟩ := hwait h1 hk
        exact ⟨t, congrArg _ ht, h⟩
      · obtain ⟨t, ht, h⟩ := hleaf r h1 hk hh hr
        exact ⟨t, congrArg _ ht, h⟩
    · rw [hleave, control_accepted v hup hw (leaveGroup_empty (s := v) hb)]
      exact ⟨_, rfl, by simp, by simp [group_clearGroup], report_get ..⟩
    · have h := leaveGroup_busy (s := v) hb
      rw [hleave, control_refused v hup hw (by rw [h]; exact Nat.succ_ne_zero _), h]
  · intro p g child digest epoch mismatch s hp hg hst hu hc hs
    have hex := exec_handshakeUp (digest := digest) (epoch := epoch) (mismatch := mismatch) hp hg hst hu hc
    refine ⟨fun h => hex.trans (by rw [formGo_keeps h]), fun hf hk hr hd => ?_⟩
    rw [formGo_forms hf hu hk hr hd] at hex
    obtain ⟨hready, hepoch, -⟩ := formResult_matched (s := s.setGroup p g { s.group p g with heard := hs }) (p := p) (g := g)
      (hs.foldl (fun a h => max a h.epoch) (s.cyEpoch p g) + 1)
    exact ⟨_, hex, hready, hepoch⟩
  · intro p g epoch s hp hg hst hu
    exact ⟨⟨_, exec_handshakeResult true hp hg hst hu, formResult_matched epoch⟩,
      ⟨_, exec_handshakeResult false hp hg hst hu, formResult_mismatched epoch⟩⟩
  · intro p g s hp hg hst ht
    refine ⟨_, exec_cyFormTimeout hp hg hst ht, ?_, errRec_seq _ _, errRec_decks _ _⟩
    rw [State.cyState, State.o, errRec_objs _ _ (Nat.zero_ne_add_one 2)]
    exact cyState_setCyState _

end Sys2Proof.Machine
end

section
/-! What the carry units' accesses to the decks change (R24, R28, R147, R241). -/

namespace Sys2Proof.Machine

open Sys2Proof

/-- From `s` to `t`, records of classes other than 3 have been written. -/
def Recorded (s t : State) : Prop := ∃ e m h, t = { s with errs := e, mon := m, host := h } ∧ s.errs.seq ≤ e.seq

namespace Recorded

variable {s t : State} {c : Prop} [Decidable c]

theorem refl : Recorded s s := ⟨_, _, _, rfl, le_rfl⟩

theorem errRec {r : ErrRec} (h : Recorded s t) (hr : r.cls ≠ 3) : Recorded s (t.errRec r) := by
  obtain ⟨e, m, h, rfl, hle⟩ := h
  obtain ⟨e', m', h', heq, hseq⟩ := errRec_eq { s with errs := e, mon := m, host := h } hr
  exact ⟨e', m', h', heq, hle.trans (hseq ▸ Nat.le_succ _)⟩

theorem ite {u : State} (ht : Recorded s t) (hu : Recorded s u) : Recorded s (if c then t else u) := by
  split <;> assumption

theorem foldl {α : Type} {f : State → α → State} {l : List α} (h : Recorded s t)
    (hf : ∀ t x, Recorded s t → Recorded s (f t x)) : Recorded s (l.foldl f t) :=
  List.foldlRecOn l f h fun t h x _ => hf t x h

end Recorded

theorem uncorrRec_cls {p a : Nat} : (uncorrRec p a).cls ≠ 3 := Nat.ne_of_lt (Nat.lt_succ_self 2)

/-- From `s` to `t`, packets have been sent on the mesh. -/
def OnMesh (s t : State) : Prop := ∃ m r, t = { s with mesh := m, rods := r }

namespace OnMesh

variable {s t : State} {c : Prop} [Decidable c]

theorem refl : OnMesh s s := ⟨_, _, rfl⟩

theorem update {m} (h : OnMesh s t) : OnMesh s { t with mesh := m } := by
  obtain ⟨_, _, rfl⟩ := h
  exact ⟨_, _, rfl⟩

theorem setRod {r v} (h : OnMesh s t) : OnMesh s (t.setRod r v) := by
  obtain ⟨_, _, rfl⟩ := h
  exact ⟨_, _, rfl⟩

theorem ite {u : State} (ht : OnMesh s t) (hu : OnMesh s u) : OnMesh s (if c then t else u) := by
  split <;> assumption

theorem countLost {e} (h : OnMesh s t) : OnMesh s (t.countLost e) := by
  cases e with
  | none => exact h
  | some r => exact h.setRod

theorem launch {r len} (h : OnMesh s t) : OnMesh s (t.launch r len).1 := by
  unfold State.launch
  split
  · exact h
  · split
    · exact h
    · exact h.countLost

theorem sendAck {id} (h : OnMesh s t) : OnMesh s (t.sendAck id) := by
  unfold State.sendAck
  split
  · exact h
  · refine .update ?_
    split
    · exact h
    · exact h.countLost

theorem outstanding2 {id part src dst addr len w done} (h : OnMesh s t) :
    OnMesh s (t.outstanding2 id part src dst addr len w done) :=
  .ite h.launch.update.sendAck h.launch.update

theorem decks (h : OnMesh s t) : t.decks = s.decks := by
  obtain ⟨_, _, rfl⟩ := h
  rfl

end OnMesh

/-- From `s` to `t`, a carry unit has written to the upper deck over the mesh. -/
def Wrote (s t : State) : Prop := ∃ m d e mo h r, t = { s with mesh := m, decks := d, errs := e, mon := mo, host := h, rods := r }

namespace Wrote

variable {s t u : State} {c : Prop} [Decidable c]

theorem refl : Wrote s s := ⟨_, _, _, _, _, _, rfl⟩

theorem trans (h : Wrote s t) (h' : Wrote t u) : Wrote s u := by
  obtain ⟨_, _, _, _, _, _, rfl⟩ := h
  obtain ⟨_, _, _, _, _, _, rfl⟩ := h'
  exact ⟨_, _, _, _, _, _, rfl⟩

theorem update {d} (h : Wrote s t) : Wrote s { t with decks := d } := by
  obtain ⟨_, _, _, _, _, _, rfl⟩ := h
  exact ⟨_, _, _, _, _, _, rfl⟩

theorem ite (ht : Wrote s t) (hu : Wrote s u) : Wrote s (if c then t else u) := by
  split <;> assumption

theorem ite_fst {α : Type} {x y : State × α} (hx : Wrote s x.1) (hy : Wrote s y.1) : Wrote s (if c then x else y).1 := by
  split <;> assumption

theorem foldl_fst {α β : Type} {f : State × β → α → State × β} {l : List α} {x : State × β} (h : Wrote s x.1)
    (hf : ∀ x a, Wrote s x.1 → Wrote s (f x a).1) : Wrote s (l.foldl f x).1 :=
  List.foldlRecOn (motive := fun x => Wrote s x.1) l f h fun x h a _ => hf x a h

theorem errRec {r : ErrRec} (h : Wrote s t) (hr : r.cls ≠ 3) : Wrote s (t.errRec r) := by
  obtain ⟨e, m, h', heq, -⟩ := errRec_eq t hr
  exact h.trans (heq ▸ ⟨_, _, _, _, _, _, rfl⟩)

theorem onMesh (h : Wrote s t) (h' : OnMesh t u) : Wrote s u := by
  obtain ⟨_, _, rfl⟩ := h'
  exact h.trans ⟨_, _, _, _, _, _, rfl⟩

theorem udPut {p a bs} (h : Wrote s t) : Wrote s (t.udPut p a bs).1 := by
  unfold State.udPut
  split
  · exact .ite_fst h (.ite_fst (.errRec h.update uncorrRec_cls) h.update)
  · exact h

theorem carryPut {b a src bs} (h : Wrote s t) : Wrote s (t.carryPut b a src bs).1 := by
  unfold State.carryPut
  refine .foldl_fst h fun _ _ h => ?_
  dsimp only
  split
  · exact h
  · exact (Wrote.ite_fst h.udPut h).onMesh (OnMesh.refl.update.outstanding2)

theorem unitWrite {b slot rod u} (h : Wrote s t) : Wrote s (t.unitWrite b slot rod u).1 := h.carryPut

theorem putSegment {b j rod xs} (h : Wrote s t) : Wrote s (t.putSegment b j rod xs).1 := h.carryPut

theorem deliverSegment {b u} (h : Wrote s t) : Wrote s (t.deliverSegment b u).1 := .ite_fst h.putSegment h

theorem zeroPoisoned {b} (h : Wrote s t) : Wrote s (t.zeroPoisoned b).1 :=
  .ite_fst (.foldl_fst h fun _ _ h => h.putSegment) h

theorem storeScale {b u} (h : Wrote s t) : Wrote s (t.storeScale b u).1 := h.carryPut

theorem cy (h : Wrote s t) : t.cy = s.cy := by
  obtain ⟨_, _, _, _, _, _, rfl⟩ := h
  rfl

end Wrote

/-- From `s` to `t`, a carry unit has read or written the upper deck. -/
def Accessed (s t : State) : Prop :=
  ∃ n m d e mo h r, t = { s with draws := n, mesh := m, decks := d, errs := e, mon := mo, host := h, rods := r }

namespace Accessed

variable {s t u : State} {c : Prop} [Decidable c]

theorem refl : Accessed s s := ⟨_, _, _, _, _, _, _, rfl⟩

theorem wrote (h : Accessed s t) (h' : Wrote t u) : Accessed s u := by
  obtain ⟨_, _, _, _, _, _, _, rfl⟩ := h
  obtain ⟨_, _, _, _, _, _, rfl⟩ := h'
  exact ⟨_, _, _, _, _, _, _, rfl⟩

theorem cyRead {p a n} (h : Accessed s t) : Accessed s (t.cyRead p a n).1 := by
  have hr {k} {r : ErrRec} (hc : r.cls ≠ 3) : Accessed s ({ t with draws := k }.errRec r) := by
    obtain ⟨_, _, _, heq, -⟩ := errRec_eq { t with draws := k } hc
    obtain ⟨_, _, _, _, _, _, _, rfl⟩ := h
    exact heq ▸ ⟨_, _, _, _, _, _, _, rfl⟩
  unfold State.cyRead
  split
  · split
    · exact hr uncorrRec_cls
    · exact h
  · exact h

theorem unitRead {b slot u} (h : Accessed s t) : Accessed s (t.unitRead b slot u).1 := by
  unfold State.unitRead
  split
  · exact h
  · exact h.cyRead

theorem foldl_fst {α β : Type} {f : State × β → α → State × β} {l : List α} {x : State × β} (h : Accessed s x.1)
    (hf : ∀ x a, Accessed s x.1 → Accessed s (f x a).1) : Accessed s (l.foldl f x).1 :=
  List.foldlRecOn (motive := fun x => Accessed s x.1) l f h fun x h a _ => hf x a h

theorem cy (h : Accessed s t) : t.cy = s.cy := by
  obtain ⟨_, _, _, _, _, _, _, rfl⟩ := h
  rfl

end Accessed

end Sys2Proof.Machine
end

section
/-! The bucket table (R246). -/

namespace Sys2Proof.Machine

open Sys2Proof

variable {s t : State} {b b' : Bucket} {id : Nat}

theorem bucket?_congr (h : t.cy = s.cy) (id : Nat) : t.bucket? id = s.bucket? id := by
  rw [State.bucket?, h, State.bucket?]

theorem bucket?_some (h : s.bucket? id = some b) : b ∈ s.cy.buckets ∧ b.id = id :=
  ⟨List.mem_of_find?_eq_some h, by simpa using List.find?_some h⟩

/-- A changed entry stands in the table of a state that had its old form. -/
theorem mem_setBucket (h : b ∈ t.cy.buckets) (hid : b'.id = b.id) : b' ∈ (t.setBucket b').cy.buckets :=
  List.mem_map.2 ⟨b, h, if_pos hid.symm⟩

/-- And is found under its number. -/
theorem bucket?_setBucket (h : t.bucket? id = some b) (hid : b'.id = id) : (t.setBucket b').bucket? id = some b' := by
  have hcongr : (fun x : Bucket => (if x.id = b'.id then b' else x).id == id) = fun x => x.id == id := by
    funext x
    split
    · next hx => rw [hx]
    · rfl
  unfold State.bucket? State.setBucket
  rw [List.find?_map]
  change Option.map _ (t.cy.buckets.find? fun x => (if x.id = b'.id then b' else x).id == id) = _
  rw [hcongr, show t.cy.buckets.find? (fun x => x.id == id) = some b from h, Option.map_some,
    if_pos ((bucket?_some h).2.trans hid.symm)]

@[simp] theorem cyRank_setBucket (i j : Nat) : (s.setBucket b).cyRank i j = s.cyRank i j := rfl

@[simp] theorem cySize_setBucket (i j : Nat) : (s.setBucket b).cySize i j = s.cySize i j := rfl

theorem own?_eq (stroke : Nat) : ∃ n, b.own? stroke = { b with ownAt := n } := by
  unfold Bucket.own?
  split <;> exact ⟨_, rfl⟩

end Sys2Proof.Machine
end

section
/-! Pushes of carry operations by rod programs (R244 to R246, R259, R265 to R267). -/

namespace Sys2Proof.Machine

open Sys2Proof

variable {s t : State} {p rod : Nat} {d : BitVec 512}

/-! The push itself. -/

/-- The entry that a rod program's push opens. -/
def State.newBucket (s : State) (p : Nat) (d : BitVec 512) (ts : Tab F32) (w : BitVec 16) : Bucket :=
  { id := s.cy.nextId, part := p, g := bdGroup d, desc := d, cmd := none, ready := false, ts := ts, status := csNorm w
    judged := (tget [] s.cy.known p).contains (bdStep d) }

/-- The state in which an entry has been opened: it stands last in the table, and its step and CY_OPEN count it. -/
def State.opened (s : State) (b : Bucket) : State :=
  let x := s.group b.part b.g
  let st := bdStep b.desc
  let s := { s with cy := { s.cy with buckets := s.cy.buckets ++ [b], nextId := b.id + 1 } }
  ((s.setGroup b.part b.g { x with stepCount := tset 0 x.stepCount st (tget 0 x.stepCount st + 1) }).countOpen
    b.part).phasePush b.part st

theorem pushBucket_refused (cmd : Option Nat) (h : s.bucketCheck p d ≠ 0) :
    s.pushBucket p d cmd = .error (s.bucketCheck p d) := if_pos h

/-- A CLOSE_STEP joins its group's pending ones. -/
theorem pushBucket_close (h : s.bucketCheck p d = 0) (hop : bdOp d = 4) :
    s.pushBucket p d none = .ok (s.setGroup p (bdGroup d)
      { s.group p (bdGroup d) with closes := (s.group p (bdGroup d)).closes ++ [{ step := bdStep d }] }) := by
  simp [State.pushBucket, h, hop]

/-- Unreadable scales are recorded. -/
theorem scaleRecords_recorded : Recorded s (s.scaleRecords p d) :=
  Recorded.refl.foldl fun t j h => by
    split
    · exact .ite (h.errRec uncorrRec_cls) h
    · exact h

/-- A REDUCE whose scales can be taken opens an entry; the running command may note it for its end. -/
theorem pushBucket_reduce (h : s.bucketCheck p d = 0) (hop : bdOp d = 1)
    (hsc : s.cySize p (bdGroup d) = 1 ∨ ∃ r, s.readScales p d = .ok r) :
    ∃ u ts w c, Recorded s u ∧ s.pushBucket p d none = .ok { u.opened (u.newBucket p d ts w) with ctxs := c } := by
  have hnote {c : Prop} [Decidable c] (u : State) (f : RunCmd → RunCmd) :
      ∃ x, Except.ok (ε := Nat) (if c then u.setRunCmd p f else u) = .ok { u with ctxs := x } := by
    split
    · exact ⟨_, congrArg _ (setRunCmd_frame ..)⟩
    · exact ⟨_, rfl⟩
  unfold State.pushBucket
  dsimp only
  rw [if_neg (not_not.2 h), if_neg (by omega)]
  by_cases h1 : s.cySize p (bdGroup d) = 1
  · have hno : ¬(decide (bdOp d = 1) && s.cySize p (bdGroup d) != 1) = true := by simp [h1]
    rw [if_neg hno, if_neg hno]
    dsimp only
    rw [if_pos hop]
    exact ⟨s, [], 0, (hnote _ _).imp fun _ hx => ⟨.refl, hx⟩⟩
  · obtain ⟨⟨ts, w⟩, hr⟩ := hsc.resolve_left h1
    have hyes : (decide (bdOp d = 1) && s.cySize p (bdGroup d) != 1) = true := by simp [hop, h1]
    rw [if_pos hyes, if_pos hyes, hr]
    dsimp only
    rw [if_pos hop]
    exact ⟨s.scaleRecords p d, ts, w, (hnote _ _).imp fun _ hx => ⟨scaleRecords_recorded, hx⟩⟩

/-- An ALL_TO_ALL or ALL_GATHER opens one and sends its chunks. -/
theorem pushBucket_chunks (h : s.bucketCheck p d = 0) (hop : bdOp d = 2 ∨ bdOp d = 3) :
    s.pushBucket p d none = .ok (((s.opened (s.newBucket p d [] 0)).setBucket { s.newBucket p d [] 0 with
      ownAt := (s.opened (s.newBucket p d [] 0)).stroke + 1 }).sendChunks s.cy.nextId) := by
  have hne : ¬bdOp d = 1 := by omega
  have hno : ¬(decide (bdOp d = 1) && s.cySize p (bdGroup d) != 1) = true := by simp [hne]
  unfold State.pushBucket
  dsimp only
  rw [if_neg (not_not.2 h), if_neg (by omega), if_neg hno, if_neg hno]
  exact if_neg hne

/-! What a new entry changes. -/

theorem phasePush_frame (k : Nat) : s.phasePush p k = { s with nums := (s.phasePush p k).nums } := by
  unfold State.phasePush
  dsimp only
  rw [phaseTick_frame]
  split <;> rfl

/-- The table and its count, the group's count of the step, and the times of the step. -/
theorem opened_eq (b : Bucket) : ∃ o n g, s.opened b = { s with objs := o, nums := n, cy := { s.cy with
      buckets := s.cy.buckets ++ [b], nextId := b.id + 1, groups := g } } ∧
    (∀ k, tget (objDefault k) o k = if k = kCY_OPEN b.part then
      ((s.cy.buckets ++ [b]).filter fun x => x.part == b.part).length else s.o k) := by
  refine ⟨_, _, _, phasePush_frame _, fun k => ?_⟩
  exact (o_setO _ _ _ k).trans rfl

theorem bucket?_opened {b : Bucket} (h : ∀ y ∈ s.cy.buckets, y.id ≠ b.id) : (s.opened b).bucket? b.id = some b := by
  obtain ⟨o, n, g, heq, -⟩ := opened_eq (s := s) b
  have hnone : s.cy.buckets.find? (fun x => x.id == b.id) = none := by simpa using h
  rw [heq, State.bucket?]
  simp [List.find?_append, hnone]

/-! The chunks that it sends. -/

/-- The chunk for rank `r` is read, and lands here or is sent with its header after it (R266). -/
def State.chunkStep (b : Bucket) (id me e : Nat) (s : State) (r : Nat) : State :=
  let a := bdSrc b.desc + (if bdOp b.desc = 2 then r * bdChunk b.desc else 0)
  let x := s.cyRead b.part a (bdChunk b.desc)
  match x.1.bucket? id with
  | none => x.1
  | some b =>
    if r = me then x.1.landChunk b r x.2.1
    else
      (x.1.cySend (.chunk b.part b.g r (bdTag b.desc) (bdStep b.desc % 2) e x.2.1)).cySend
        (.header b.part b.g r (x.1.header b.part b.g
          { kind := bdOp b.desc - 1, down := false, receiver := r, status := b.status &&& csLOST, tag := bdTag b.desc
            step := bdStep b.desc }))

theorem sendChunks_eq {id : Nat} {b : Bucket} (h : s.bucket? id = some b) : s.sendChunks id =
    (upto (s.cySize b.part b.g)).foldl (State.chunkStep b id (s.cyRank b.part b.g) (s.cyEpoch b.part b.g)) s := by
  unfold State.sendChunks
  rw [h]
  rfl

/-- An entry that differs from another in what has landed alone. -/
structure SameOp (b b' : Bucket) : Prop where
  desc : b'.desc = b.desc
  part : b'.part = b.part
  chunks : ∀ r ∈ b.chunks, r ∈ b'.chunks

/-- One chunk keeps the entry; the own one lands in it. -/
theorem chunkStep_keeps {id me e r : Nat} {b c : Bucket} (h : s.bucket? id = some c) :
    ∃ c', (s.chunkStep b id me e r).bucket? id = some c' ∧ SameOp c c' ∧ (r = me → r ∈ c'.chunks) := by
  unfold State.chunkStep
  dsimp only
  generalize hx : s.cyRead b.part _ _ = x
  have hread : x.1.bucket? id = some c := by
    rw [← hx, bucket?_congr (Accessed.refl.cyRead).cy, h]
  rw [hread]
  dsimp only
  split
  · next hr =>
    unfold State.landChunk
    refine ⟨_, bucket?_setBucket (b := c) ?_ (bucket?_some h).2, ⟨rfl, rfl, fun _ => List.mem_append_left _⟩,
      fun _ => by simp⟩
    rw [bucket?_congr (Wrote.refl.carryPut).cy]
    exact hread
  · next hr =>
    refine ⟨c, ?_, ⟨rfl, rfl, fun _ hm => hm⟩, fun hme => absurd hme hr⟩
    rw [State.bucket?]
    obtain ⟨o, ho⟩ := cySend_eq x.1 (.chunk c.part c.g r (bdTag c.desc) (bdStep c.desc % 2) e x.2.1)
    obtain ⟨o', ho'⟩ := cySend_eq (x.1.sends [.chunk c.part c.g r (bdTag c.desc) (bdStep c.desc % 2) e x.2.1] o)
      (.header c.part c.g r (x.1.header c.part c.g
        { kind := bdOp c.desc - 1, down := false, receiver := r, status := c.status &&& csLOST, tag := bdTag c.desc
          step := bdStep c.desc }))
    rw [ho, ho']
    exact hread

/-- Once all chunks are sent, the own one has landed. -/
theorem sendChunks_lands {id g : Nat} {b : Bucket} (h : s.bucket? id = some b) (hp : b.part = p) (hg : b.g = g) :
    ∃ b', (s.sendChunks id).bucket? id = some b' ∧ SameOp b b' ∧
      (s.cyRank p g < s.cySize p g → s.cyRank p g ∈ b'.chunks) := by
  subst hp hg
  have hloop (l : List Nat) (me e : Nat) : ∀ (t : State) (c : Bucket), t.bucket? id = some c →
      ∃ c', (l.foldl (State.chunkStep b id me e) t).bucket? id = some c' ∧ SameOp c c' ∧ (me ∈ l → me ∈ c'.chunks) := by
    induction l with
    | nil => exact fun t c hc => ⟨c, hc, ⟨rfl, rfl, fun _ hm => hm⟩, fun hm => absurd hm List.not_mem_nil⟩
    | cons r l ih =>
      intro t c hc
      obtain ⟨c1, hc1, hs1, hm1⟩ := chunkStep_keeps (b := b) (me := me) (e := e) (r := r) hc
      obtain ⟨c2, hc2, hs2, hm2⟩ := ih _ c1 hc1
      refine ⟨c2, hc2, ⟨hs2.desc.trans hs1.desc, hs2.part.trans hs1.part, fun x hx => hs2.chunks x (hs1.chunks x hx)⟩, ?_⟩
      intro hm
      rcases List.mem_cons.1 hm with rfl | hm
      · exact hs2.chunks _ (hm1 rfl)
      · exact hm2 hm
  obtain ⟨c, hc, hs, hm⟩ := hloop (upto (s.cySize b.part b.g)) (s.cyRank b.part b.g) (s.cyEpoch b.part b.g) s b h
  exact ⟨c, (sendChunks_eq h).symm ▸ hc, hs, fun hlt => hm (mem_upto.2 hlt)⟩

/-! The rod program. -/

/-- What a program that holds waits for: its CLOSE_STEP, or the entry of number `id` (R265). -/
def pushWait (d : BitVec 512) (id : Nat) : RodWait :=
  if bdOp d = 4 then .carry (bdGroup d) (bdStep d) else .bucket id

/-- A program whose push is taken waits for it if it holds, and goes on otherwise. -/
theorem rodPush_taken {u : State} (hold : Bool) (hi : s.issues rod = true) (h : s.pushBucket (s.owner rod) d none = .ok u) :
    ∃ n r, s.rodPush rod d hold = { u with nums := n, rods := r } ∧ (∀ q, q ≠ rod → tget {} r q = u.rod q) ∧
      (tget {} r rod).wait = if hold then pushWait d s.cy.nextId else (u.rod rod).wait := by
  unfold State.rodPush
  rw [hi, h]
  cases hold with
  | false => exact ⟨u.nums, u.rods, rfl, fun _ _ => rfl, rfl⟩
  | true =>
    refine ⟨(u.phaseTick (s.owner rod)).nums,
      tset {} u.rods rod { u.rod rod with wait := pushWait d s.cy.nextId, waitStrokes := 0, waitSince := s.ns }, ?_, fun q hq => ?_, ?_⟩
    · exact congrArg (fun t : State => t.setRod rod _) (phaseTick_frame u (s.owner rod))
    · exact (tget_tset ..).trans (if_neg hq)
    · exact congrArg Rod.wait ((tget_tset ..).trans (if_pos rfl))

theorem rodPush_refused (hold : Bool) (hi : s.issues rod = true) (h : s.bucketCheck (s.owner rod) d ≠ 0) :
    s.rodPush rod d hold = s.failRod rod (s.bucketCheck (s.owner rod) d) := by
  simp [State.rodPush, hi, pushBucket_refused none h]

/-- A REDUCE opens one entry with nothing contributed. -/
theorem rodPush_reduce (hold : Bool) (hi : s.issues rod = true) (h : s.bucketCheck (s.owner rod) d = 0) (hop : bdOp d = 1)
    (hsc : s.cySize (s.owner rod) (bdGroup d) = 1 ∨ ∃ r, s.readScales (s.owner rod) d = .ok r) :
    ∃ t b, s.rodPush rod d hold = t ∧ t.cy.buckets = s.cy.buckets ++ [b] ∧ b.desc = d ∧ b.part = s.owner rod ∧
      b.g = bdGroup d ∧ b.given = [] ∧ b.cmd = none ∧ b.ready = false ∧
      t.o (kCY_OPEN (s.owner rod)) = (t.cy.buckets.filter fun x => x.part == s.owner rod).length ∧
      (t.rod rod).wait = (if hold then .bucket s.cy.nextId else (s.rod rod).wait) ∧ (∀ r, r ≠ rod → t.rod r = s.rod r) ∧
      t = { s with objs := t.objs, ctxs := t.ctxs, nums := t.nums, cy := t.cy, rods := t.rods, errs := t.errs, mon := t.mon,
                   host := t.host } := by
  obtain ⟨u, ts, w, c, ⟨e, m, hh, rfl, -⟩, hu⟩ := pushBucket_reduce h hop hsc
  generalize hb : State.newBucket _ (s.owner rod) d ts w = b at hu
  obtain ⟨n, r, heq, hne, hwait⟩ := rodPush_taken hold hi hu
  obtain ⟨o, n', g, hopen, hcount⟩ := opened_eq (s := { s with errs := e, mon := m, host := hh }) b
  rw [hopen] at heq hne hwait
  subst hb
  rw [pushWait, if_neg (c := bdOp d = 4) (by omega)] at hwait
  exact ⟨_, _, heq, rfl, rfl, rfl, rfl, rfl, rfl, rfl, (hcount _).trans (if_pos rfl), hwait, hne, rfl⟩

/-- An ALL_TO_ALL or ALL_GATHER opens one in which the own chunk has landed. -/
theorem rodPush_chunks (hold : Bool) (hi : s.issues rod = true) (h : s.bucketCheck (s.owner rod) d = 0)
    (hop : bdOp d = 2 ∨ bdOp d = 3) (hid : ∀ y ∈ s.cy.buckets, y.id ≠ s.cy.nextId) :
    ∃ t b, s.rodPush rod d hold = t ∧ b ∈ t.cy.buckets ∧ b.id = s.cy.nextId ∧ b.desc = d ∧ b.part = s.owner rod ∧
      (hold = true → (t.rod rod).wait = .bucket s.cy.nextId) ∧
      (s.cyRank (s.owner rod) (bdGroup d) < s.cySize (s.owner rod) (bdGroup d) →
        s.cyRank (s.owner rod) (bdGroup d) ∈ b.chunks) := by
  have hu := pushBucket_chunks h hop
  obtain ⟨n, r, heq, -, hwait⟩ := rodPush_taken hold hi hu
  have hfind := bucket?_opened (b := s.newBucket (s.owner rod) d [] 0) hid
  obtain ⟨o, n', g, hopen, hobj⟩ := opened_eq (s := s) (s.newBucket (s.owner rod) d [] 0)
  obtain ⟨b, hb, hsame, hland⟩ := sendChunks_lands (bucket?_setBucket (b' := { s.newBucket (s.owner rod) d [] 0 with
    ownAt := (s.opened (s.newBucket (s.owner rod) d [] 0)).stroke + 1 }) hfind rfl) (p := s.owner rod) (g := bdGroup d) rfl rfl
  obtain ⟨hmem, hbid⟩ := bucket?_some hb
  have hkeep (k : Nat) (hk : k ≠ kCY_OPEN (s.owner rod)) : (s.opened (s.newBucket (s.owner rod) d [] 0)).o k = s.o k := by
    rw [hopen]
    exact (hobj k).trans (if_neg hk)
  rw [cyRank_setBucket, cySize_setBucket, State.cyRank, State.cySize, hkeep _ (key_ne (by decide)),
    hkeep _ (key_ne (by decide))] at hland
  refine ⟨_, b, heq, hmem, hbid, hsame.desc, hsame.part, fun hh => ?_, hland⟩
  refine hwait.trans ?_
  rw [if_pos hh, pushWait, if_neg (by omega)]

/-- Each command pushes the descriptors of its operation; those of none are REDUCE's to refuse. -/
theorem exec_push {i : Instr} {hold : Bool} (h : i = .reduce rod ⟨d, hold⟩ ∧ (bdOp d < 2 ∨ 4 < bdOp d) ∨
    i = .allToAll rod ⟨d, hold⟩ ∧ bdOp d = 2 ∨ i = .allGather rod ⟨d, hold⟩ ∧ bdOp d = 3 ∨
    i = .closeStep rod ⟨d, hold⟩ ∧ bdOp d = 4) : exec i s = .next (s.rodPush rod d hold) := by
  rcases h with ⟨rfl, h⟩ | ⟨rfl, h⟩ | ⟨rfl, h⟩ | ⟨rfl, h⟩
  · exact congrArg _ (if_neg (by simp; omega))
  · exact congrArg _ (if_pos h)
  · exact congrArg _ (if_pos h)
  · exact congrArg _ (if_pos h)

/-- Settles O25: a push that passes its checks by the operation it names, and one that fails them by the failing rod. -/
theorem carryOperationsArePushed : Obligations.CarryOperationsArePushed := by
  unfold Obligations.CarryOperationsArePushed
  refine ⟨fun rod d hold s hi h => ⟨fun hop hsc => ?_, fun i hi' hid => ?_, fun hop => ?_⟩, ?_⟩
  · obtain ⟨t, b, ht, hrest⟩ := rodPush_reduce hold hi h hop hsc
    exact ⟨t, b, (exec_push (.inl ⟨rfl, by omega⟩)).trans (congrArg _ ht), hrest⟩
  · have hop : bdOp d = 2 ∨ bdOp d = 3 := hi'.imp And.left And.left
    obtain ⟨t, b, ht, hrest⟩ := rodPush_chunks hold hi h hop hid
    refine ⟨t, b, (exec_push (hold := hold) (rod := rod) (d := d) ?_).trans (congrArg _ ht), hrest⟩
    exact .inr (hi'.imp And.symm fun h3 => .inl h3.symm)
  · obtain ⟨n, r, heq, hne, hwait⟩ := rodPush_taken hold hi (pushBucket_close h hop)
    rw [pushWait, if_pos hop] at hwait
    refine ⟨_, (exec_push (.inr (.inr (.inr ⟨rfl, hop⟩)))).trans (congrArg _ heq), ?_, hwait, hne, rfl⟩
    exact congrArg Group.closes ((group_setGroup ..).trans (if_pos rfl))
  · intro rod d hold i s hi h hi'
    exact ⟨_, (exec_push hi').trans (congrArg _ (rodPush_refused hold hi h)), by rw [rod_failRod],
      fun c hc h0 => status_failRod s _ hc h0, failRod_frame ..⟩

end Sys2Proof.Machine
end

section
/-! Segments: contributions, units and combinations (R247 to R249, R255, R257, R264). -/

namespace Sys2Proof.Machine

open Sys2Proof

variable {s t : State} {b b' c : Bucket} {j rod bkt : Nat}

/-! What a contribution changes. -/

/-- A segment's encoding depends on the objects alone. -/
theorem cyEncode_congr (h : t.objs = s.objs) (k : Nat) (xs : List FVal) : t.cyEncode b k j xs = s.cyEncode b k j xs := by
  unfold State.cyEncode State.cyDraw State.cyRank State.cyEpoch State.o
  rw [h]

/-- So do the tree's edges, with the descriptor and the group. -/
theorem segParent_congr (h : t.objs = s.objs) (hp : b'.part = b.part) (hg : b'.g = b.g) (hd : b'.desc = b.desc) :
    t.segParent b' j = s.segParent b j := by
  unfold State.segParent State.cySize State.cyFanin State.cyRank State.o
  rw [h, hp, hg, hd]

/-- An entry to which a segment has been contributed. -/
structure Contributed (s : State) (b : Bucket) (j : Nat) (xs : List FVal) (b' : Bucket) : Prop where
  id : b'.id = b.id
  desc : b'.desc = b.desc
  given : b'.given = b.given ++ [j]
  own : s.cySize b.part b.g ≠ 1 → b'.own = b.own ++ [SegUnitBare (s.cyEncode b 0 j xs).1]

/-- A contribution is noted in its entry and written to the upper deck. -/
theorem contribute_eq (b : Bucket) (j rod : Nat) (xs : List FVal) (w : BitVec 16) :
    ∃ u b', s.contribute b j rod xs w = u.setBucket b' ∧ Wrote s u ∧ Contributed s b j xs b' := by
  have late {y : Bucket} (k : Nat) (h : Contributed s b j xs y) : Contributed s b j xs (y.own? k) := by
    obtain ⟨m, hm⟩ := own?_eq (b := y) k
    rw [hm]
    exact ⟨h.id, h.desc, h.given, h.own⟩
  unfold State.contribute
  by_cases h : s.cySize b.part b.g = 1
  · rw [if_pos h]
    exact ⟨_, _, rfl, Wrote.refl.putSegment, late _ ⟨rfl, rfl, rfl, fun hn => absurd h hn⟩⟩
  · rw [if_neg h]
    exact ⟨_, _, rfl, Wrote.refl.unitWrite, late _ ⟨rfl, rfl, rfl, fun _ => rfl⟩⟩

/-! Tiles (R247, R249). -/

variable {x : Tile} {rest : List Tile}

/-- The state in which the oldest tile has been taken. -/
def State.tookTile (s : State) (rest : List Tile) : State := { s with cy := { s.cy with tiles := rest } }

/-- A tile of the one open REDUCE of its partition and TAG is contributed. -/
theorem carryTile_contributes (h : s.cy.tiles = x :: rest)
    (hb : s.cy.buckets.filter (fun b => b.part == x.part && bdOp b.desc == 1 && !bdPath b.desc && bdTag b.desc == x.tag) = [b])
    (hpoison : x.index ∉ b.poison) (hgiven : x.index ∉ b.given) (hlt : x.index < bdSegs b.desc)
    (hw : s.carryWaits b = false) :
    exec .carryTile s = .next ((s.tookTile rest).contribute b x.index x.rod x.elems (tileWord x.bsw)) := by
  change execCarryTile s = _
  unfold execCarryTile
  rw [h]
  dsimp only
  rw [hb]
  dsimp only [List.foldl]
  rw [if_neg (by exact ne_true_of_eq_false hw), if_neg (by simpa using hpoison), if_neg (by simpa [hgiven] using hlt)]
  rfl

/-- A tile of no open REDUCE fails its rod. -/
theorem carryTile_fails (h : s.cy.tiles = x :: rest)
    (hb : ∀ b ∈ s.cy.buckets, ¬(b.part = x.part ∧ bdOp b.desc = 1 ∧ bdPath b.desc = false ∧ bdTag b.desc = x.tag)) :
    exec .carryTile s = .next ((s.tookTile rest).failRod x.rod stCY_NO_BUCKET) := by
  have hnone : s.cy.buckets.filter
      (fun b => b.part == x.part && bdOp b.desc == 1 && !bdPath b.desc && bdTag b.desc == x.tag) = [] := by
    refine List.filter_eq_nil_iff.2 fun b hm hc => hb b hm ?_
    simpa [and_assoc] using hc
  change execCarryTile s = _
  unfold execCarryTile
  rw [h]
  dsimp only
  rw [hnone]
  rfl

/-! The layer path (R248). -/

/-- Segment `j` is read from the source and contributed, unless it has been. -/
def State.layerStep (bkt : Nat) (s : State) (j : Nat) : State :=
  match s.bucket? bkt with
  | none => s
  | some b =>
    if b.given.contains j then s
    else
      let r := s.layerElems b j
      r.1.contribute b j (bdHome b.desc) r.2.1 (if r.2.2 then csUNCORR ||| csNONFINITE else 0)

theorem exec_layerSourceRead (h : s.bucket? bkt = some b) (hop : bdOp b.desc = 1) (hpath : bdPath b.desc = true)
    (hready : b.ready = true) (hw : s.carryWaits b = false) :
    exec (.layerSourceRead bkt) s = .next (b.segs.foldl (State.layerStep bkt) s) := by
  change execLayerSourceRead bkt s = _
  unfold execLayerSourceRead
  rw [h]
  exact if_neg (by simp [hop, hpath, hready, hw])

/-- An entry of the same descriptor in which at least the same segments have been contributed. -/
def GivenMore (b b' : Bucket) : Prop := b'.desc = b.desc ∧ ∀ j ∈ b.given, j ∈ b'.given

theorem layerStep_gives (h : s.bucket? bkt = some c) :
    ∃ c', (s.layerStep bkt j).bucket? bkt = some c' ∧ GivenMore c c' ∧ j ∈ c'.given := by
  unfold State.layerStep
  rw [h]
  dsimp only
  split
  · next hg => exact ⟨c, h, ⟨rfl, fun _ hm => hm⟩, by simpa using hg⟩
  · have hread : Accessed s (s.layerElems c j).1 := Accessed.refl.cyRead
    obtain ⟨u, c', heq, hu, hc⟩ := contribute_eq (s := (s.layerElems c j).1) c j (bdHome c.desc) (s.layerElems c j).2.1
      (if (s.layerElems c j).2.2 then csUNCORR ||| csNONFINITE else 0)
    rw [heq]
    refine ⟨c', bucket?_setBucket (b := c) ?_ (hc.id.trans (bucket?_some h).2), ⟨hc.desc, fun i hi => ?_⟩, ?_⟩
    rotate_left
    · exact hc.given ▸ List.mem_append_left _ hi
    · exact hc.given ▸ List.mem_append_right _ (List.mem_singleton_self j)
    rw [bucket?_congr (hread.wrote hu).cy, h]

theorem layerSteps_give (l : List Nat) (h : s.bucket? bkt = some b) :
    ∃ b', (l.foldl (State.layerStep bkt) s).bucket? bkt = some b' ∧ GivenMore b b' ∧ ∀ j ∈ l, j ∈ b'.given := by
  induction l generalizing s b with
  | nil => exact ⟨b, h, ⟨rfl, fun _ hm => hm⟩, fun _ hm => absurd hm List.not_mem_nil⟩
  | cons j l ih =>
    obtain ⟨c, hc, ⟨hd, hg⟩, hj⟩ := layerStep_gives (j := j) h
    obtain ⟨c', hc', ⟨hd', hg'⟩, hl⟩ := ih hc
    refine ⟨c', hc', ⟨hd'.trans hd, fun i hi => hg' i (hg i hi)⟩, fun i hi => ?_⟩
    rcases List.mem_cons.1 hi with rfl | hi
    · exact hg' _ hj
    · exact hl i hi

/-! Headers and final units that follow (R255, R257). -/

/-- The headers that are due are sent, and the entry notes to whom. -/
theorem sendHeaders_eq : ∃ l o up down, s.sendHeaders b = (s.sends l o).setBucket { b with sentUp := up, sentDown := down } := by
  unfold State.sendHeaders
  extract_lets p g segs one up down all mk ups s1 roots pars downs s2
  obtain ⟨o, ho⟩ : ∃ o, s1 = _ := foldl_cySend_eq s _ ups
  obtain ⟨o', ho'⟩ : ∃ o, s2 = _ := foldl_cySend_eq s1 _ downs
  rw [ho', ho, sends_sends]
  exact ⟨_, _, _, _, rfl⟩

/-- A final unit is sent to the children of its segment. -/
theorem sendFinal_eq (u : SegUnit) : ∃ l o, s.sendFinal b u = s.sends l o :=
  ⟨_, foldl_cySend_eq s _ _⟩

theorem buckets_sendFinal (u : SegUnit) : (s.sendFinal b u).cy.buckets = s.cy.buckets := by
  obtain ⟨l, o, h⟩ := sendFinal_eq (s := s) (b := b) u
  rw [h]
  rfl

/-- The headers of an entry in the table leave it there. -/
theorem mem_sendHeaders (h : c ∈ s.cy.buckets) (hid : b.id = c.id) :
    ∃ up down, { b with sentUp := up, sentDown := down } ∈ (s.sendHeaders b).cy.buckets := by
  obtain ⟨l, o, up, down, heq⟩ := sendHeaders_eq (s := s) (b := b)
  exact ⟨up, down, heq ▸ mem_setBucket (t := s.sends l o) h hid⟩

/-- And under its number, while what has been sent stays sent. -/
theorem bucket?_sendHeaders (h : s.bucket? bkt = some c) (hid : b.id = bkt) :
    ∃ up down, (s.sendHeaders b).bucket? bkt = some { b with sentUp := up, sentDown := down } ∧
      ∀ m ∈ s.cy.sent, m ∈ (s.sendHeaders b).cy.sent := by
  obtain ⟨l, o, up, down, heq⟩ := sendHeaders_eq (s := s) (b := b)
  rw [heq]
  exact ⟨up, down, bucket?_setBucket (t := s.sends l o) h hid, fun _ => List.mem_append_left _⟩

theorem exists_sendHeaders {P : Bucket → Prop} (h : c ∈ s.cy.buckets) (hid : b.id = c.id)
    (hP : ∀ up down, P { b with sentUp := up, sentDown := down }) :
    ∃ t b', (.next (s.sendHeaders b) : Out) = .next t ∧ b' ∈ t.cy.buckets ∧ P b' := by
  obtain ⟨up, down, hm⟩ := mem_sendHeaders h hid
  exact ⟨_, _, rfl, hm, hP up down⟩

/-! Units (R255, R264). -/

variable {p g link : Nat} {u : SegUnit}

/-- The open REDUCE of a unit or header is in the table, of its partition and group. -/
theorem reduceOf_some {tag parity e : Nat} (h : s.reduceOf p g tag parity e = some b) :
    b ∈ s.cy.buckets ∧ b.part = p ∧ b.g = g := by
  unfold State.reduceOf at h
  split at h
  · cases h
  · have hm := List.mem_of_find?_eq_some h
    simpa [State.groupBuckets] using hm

theorem segmentUnit_discards (hg : grpOk p g = true) (h : s.reduceOf p g u.tag u.parity u.epoch = none) :
    exec (.segmentUnit p g ⟨u, link⟩) s = .next (s.discard p link) := by
  change execSegmentUnit p g ⟨u, link⟩ s = _
  unfold execSegmentUnit
  dsimp only
  rw [hg, h]
  rfl

/-- A child's first unit of a segment is kept. -/
theorem segmentUnit_up (hg : grpOk p g = true) (h : s.reduceOf p g u.tag u.parity u.epoch = some b)
    (hlt : u.index < bdSegs b.desc) (hw : s.carryWaits b = false) (hdown : u.down = false)
    (hkid : u.sender ∈ s.segKids b u.index) (hfirst : ∀ x ∈ b.landed, ¬(x.index = u.index ∧ x.sender = u.sender)) :
    ∃ t b', exec (.segmentUnit p g ⟨u, link⟩) s = .next t ∧ b' ∈ t.cy.buckets ∧ b'.id = b.id ∧
      b'.landed = b.landed ++ [SegUnitBare u] := by
  change ∃ t b', execSegmentUnit p g ⟨u, link⟩ s = .next t ∧ _
  unfold execSegmentUnit
  dsimp only
  rw [hg, h]
  dsimp only
  rw [if_neg (by simp), if_neg (not_le.2 hlt), if_neg (by simp [hw]), if_neg (by simp [hdown]),
    if_neg (by simpa [hkid] using hfirst)]
  refine ⟨_, _, rfl, mem_setBucket (b := b) ?_ rfl, rfl, rfl⟩
  rw [(Wrote.refl (s := s)).unitWrite.cy]
  exact (reduceOf_some h).1

/-- The parent's final unit of a segment is kept and passed on. -/
theorem segmentUnit_down (hg : grpOk p g = true) (h : s.reduceOf p g u.tag u.parity u.epoch = some b)
    (hlt : u.index < bdSegs b.desc) (hw : s.carryWaits b = false) (hdown : u.down = true)
    (hparent : s.segParent b u.index = some u.sender) (hfirst : ∀ x ∈ b.finals, x.index ≠ u.index) :
    ∃ t b', exec (.segmentUnit p g ⟨u, link⟩) s = .next t ∧ b' ∈ t.cy.buckets ∧ b'.id = b.id ∧
      b'.finals = b.finals ++ [SegUnitBare u] := by
  change ∃ t b', execSegmentUnit p g ⟨u, link⟩ s = .next t ∧ _
  unfold execSegmentUnit
  dsimp only
  rw [hg, h]
  dsimp only
  rw [if_neg (by simp), if_neg (not_le.2 hlt), if_neg (by simp [hw]), if_pos hdown,
    if_neg (by simpa [hparent] using hfirst)]
  have hcy {y : Bucket} {k : Nat} : ((s.unitWrite b k (bdHome b.desc) u).1.deliverSegment y u).1.cy = s.cy :=
    (Wrote.refl.unitWrite.deliverSegment).cy
  refine exists_sendHeaders (c := b) ?_ rfl fun up down => ⟨rfl, rfl⟩
  rw [buckets_sendFinal, hcy]
  exact (reduceOf_some h).1

/-! Combinations (R252, R255, R256). -/

/-- An entry with the same operation and the same parts combined and final as another. -/
structure SameParts (b b' : Bucket) : Prop where
  id : b'.id = b.id
  part : b'.part = b.part
  g : b'.g = b.g
  desc : b'.desc = b.desc
  combined : b'.combined = b.combined
  finals : b'.finals = b.finals

namespace SameParts

theorem refl : SameParts b b := ⟨rfl, rfl, rfl, rfl, rfl, rfl⟩

theorem note {st cl v} (h : SameParts b b') : SameParts b (b'.note j st cl v) :=
  ⟨h.id, h.part, h.g, h.desc, h.combined, h.finals⟩

theorem flag {w} (h : SameParts b b') : SameParts b (b'.flag w) := ⟨h.id, h.part, h.g, h.desc, h.combined, h.finals⟩

end SameParts

/-- An effect that ends in a state with a property. -/
def EndsIn (P : State → Prop) (o : Out) : Prop := ∃ t, o = .next t ∧ P t

/-- What a member with segment `seg`'s parts combined leaves: the entry notes it, and the sum is final at the root of the
segment's tree and goes up elsewhere. -/
def CombinedIn (s : State) (b : Bucket) (seg : Nat) (t : State) : Prop :=
  ∃ b', t.bucket? b.id = some b' ∧ b'.combined = b.combined ++ [seg] ∧
    (s.segParent b seg = none → ∃ u ∈ b'.finals, u.index = seg) ∧
    (∀ r, s.segParent b seg = some r → ∃ u, .unit b.part b.g r u ∈ t.cy.sent ∧ u.index = seg)

variable {seg : Nat}

theorem combinedIn_root (h : t.bucket? b.id = some c) (hid : b'.id = b.id) (hc : b'.combined = b.combined ++ [seg])
    (hroot : s.segParent b seg = none) (hf : b'.finals = b.finals ++ [SegUnitBare u]) (hu : u.index = seg) :
    CombinedIn s b seg (t.sendHeaders b') := by
  obtain ⟨up, down, hb, -⟩ := bucket?_sendHeaders h hid
  exact ⟨_, hb, hc, fun _ => ⟨SegUnitBare u, by simp [hf], hu⟩, fun r hr => by simp [hroot] at hr⟩

theorem combinedIn_inner {r : Nat} (h : t.bucket? b.id = some c) (hid : b'.id = b.id)
    (hc : b'.combined = b.combined ++ [seg]) (hparent : s.segParent b seg = some r) (hu : u.index = seg) :
    CombinedIn s b seg ((t.cySend (.unit b.part b.g r u)).sendHeaders b') := by
  obtain ⟨o, ho⟩ := cySend_eq t (.unit b.part b.g r u)
  rw [ho]
  obtain ⟨up, down, hb, hsent⟩ := bucket?_sendHeaders (s := t.sends [.unit b.part b.g r u] o) h hid
  refine ⟨_, hb, hc, fun hn => by simp [hparent] at hn, fun r' hr => ⟨u, hsent _ ?_, hu⟩⟩
  cases hparent.symm.trans hr
  exact List.mem_append_right _ (List.mem_singleton_self _)

theorem segmentCombine_combines {own : SegUnit} (h : s.bucket? bkt = some b)
    (hown : b.own.find? (fun u => u.index == seg) = some own) (hnew : seg ∉ b.combined) (hw : s.carryWaits b = false)
    (hkids : ∀ c ∈ s.segKids b seg, ∃ u ∈ b.landed, u.index = seg ∧ u.sender = c) :
    EndsIn (CombinedIn s b seg) (exec (.segmentCombine bkt seg) s) := by
  have hlen : ((s.segKids b seg).filterMap fun c => b.landed.find? fun u => u.index == seg && u.sender == c).length =
      (s.segKids b seg).length := by
    refine List.filterMap_length_eq_length.2 fun c hc => ?_
    obtain ⟨u, hu, hi, hs⟩ := hkids c hc
    exact List.find?_isSome.2 ⟨u, hu, by simp [hi, hs]⟩
  change EndsIn _ (execSegmentCombine bkt seg s)
  delta execSegmentCombine
  split
  · next hn => cases h.symm.trans hn
  next b' hb =>
  cases h.symm.trans hb
  extract_lets kids us ts
  split
  · next hn => cases hown.symm.trans hn
  next own' ho =>
  cases hown.symm.trans ho
  rw [if_neg (by simp [hnew, us, kids, hlen, hw])]
  extract_lets +onlyGivenNames rd s1 ds sums sum raised m e
  have h1 : Accessed s s1 := Accessed.foldl_fst .refl fun _ _ h => h.unitRead
  have he : e.1.index = seg := rfl
  -- the rest holds whatever the sum is; `id` keeps the kernel from putting it back
  clear_value rd s1 raised m e
  revert rd s1 raised m e
  refine id ?_
  intro rd s1 ds sums sum raised m e h1 he
  extract_lets e1 u ovf r s2 b1 f bad b2 q b3
  have h2 : Accessed s s2 := h1.wrote Wrote.refl.unitWrite
  have hb1 : SameParts { b with combined := b.combined ++ [seg] } b1 := SameParts.refl.note.flag
  have h3 : q.1.cy = s.cy := (h2.wrote Wrote.refl.deliverSegment).cy
  have hb2 : SameParts b1 b2 := SameParts.refl.note
  have hb3 : SameParts { b2 with finals := b2.finals ++ [SegUnitBare u] } b3 := SameParts.refl.note.flag
  have hfind (t : State) (ht : t.cy.buckets = s.cy.buckets) : t.bucket? b.id = some b := by
    rw [State.bucket?, ht, (bucket?_some h).2]
    exact h
  have hparent : s2.segParent b1 seg = s.segParent b seg := by
    obtain ⟨_, _, _, _, _, _, _, h2⟩ := h2
    exact segParent_congr (by rw [h2]) hb1.part hb1.g hb1.desc
  clear_value r b1 q b2 b3
  rw [hparent]
  cases hp : s.segParent b seg with
  | some r =>
    have hpart : b1.part = b.part := hb1.part
    have hg : b1.g = b.g := hb1.g
    rw [hpart, hg]
    exact ⟨_, rfl, combinedIn_inner (u := u) (hfind s2 (congrArg CarryS.buckets h2.cy)) hb1.id hb1.combined hp he⟩
  | none =>
    refine ⟨_, rfl, combinedIn_root (u := u) (hfind _ ?_) (hb3.id.trans (hb2.id.trans hb1.id))
      (hb3.combined.trans (hb2.combined.trans hb1.combined)) hp (hb3.finals.trans ?_) he⟩
    · rw [buckets_sendFinal, h3]
    · exact congrArg (· ++ [SegUnitBare u]) (hb2.finals.trans hb1.finals)

/-- Settles O26: tiles, layer-path sources, units and combinations each in turn. -/
theorem segmentsAreContributedAndCombined : Obligations.SegmentsAreContributedAndCombined := by
  unfold Obligations.SegmentsAreContributedAndCombined
  refine ⟨fun x rest b s h hb hpoison hgiven hlt hsize hw => ?_, fun x rest s h hb => ?_,
    fun bkt b s h hop hpath hready hw => ?_, fun p g link u s hp hg => ⟨fun h => ⟨fun hl => ?_, fun hl => ?_⟩,
      fun b h hlt hw => ⟨segmentUnit_up (grpOk_eq hp hg) h hlt hw, segmentUnit_down (grpOk_eq hp hg) h hlt hw⟩⟩, ?_⟩
  · obtain ⟨u, b', heq, hu, hc⟩ := contribute_eq (s := s.tookTile rest) b x.index x.rod x.elems (tileWord x.bsw)
    have hmem : b ∈ u.cy.buckets := by
      rw [hu.cy]
      exact List.mem_of_mem_filter (hb ▸ List.mem_singleton_self b)
    refine ⟨_, b', (carryTile_contributes h hb hpoison hgiven hlt hw).trans (congrArg _ heq), congrArg CarryS.tiles hu.cy,
      mem_setBucket hmem hc.id, hc.id, hc.given, ?_, ?_⟩
    · exact (hc.own hsize).trans (by rw [cyEncode_congr (t := s.tookTile rest) (s := s) rfl])
    · obtain ⟨_, _, _, _, _, _, rfl⟩ := hu
      rfl
  · refine ⟨_, carryTile_fails h hb, ?_, by rw [rod_failRod], fun hst => ?_⟩
    · rw [failRod_frame]
      rfl
    · obtain ⟨c, hc, h0⟩ := Option.map_eq_some_iff.1 hst
      exact status_failRod (s.tookTile rest) stCY_NO_BUCKET hc h0
  · obtain ⟨b', hb, hmore, hgiven⟩ := layerSteps_give b.segs h
    exact ⟨_, b', exec_layerSourceRead h hop hpath hready hw, hb, fun j hj => hgiven j (mem_upto.2 hj), hmore.1⟩
  · rw [segmentUnit_discards (grpOk_eq hp hg) h, State.discard, if_neg (not_lt.2 hl)]
  · rw [segmentUnit_discards (grpOk_eq hp hg) h, State.discard, if_pos hl]
  · intro bkt seg b own s h hown hnew hw hkids
    obtain ⟨t, ht, b', hb, hrest⟩ := segmentCombine_combines h hown hnew hw hkids
    exact ⟨t, b', ht, (bucket?_some h).2 ▸ hb, hrest⟩

end Sys2Proof.Machine
end

section
/-! Headers and chunks land, and buckets complete or are lost (R257, R258, R263, R264, R266, R267). -/

namespace Sys2Proof.Machine

open Sys2Proof

variable {s t : State} {b b' c : Bucket} {p g link bkt : Nat} {h : BitVec 512}

/-! Headers (R257, R264). -/

theorem bucketHeader_foreign (hg : grpOk p g = true) (ho : s.ofGroup p g h = false) :
    exec (.bucketHeader p g ⟨h, link⟩) s = .next (s.discard p link) := by
  change execBucketHeader p g ⟨h, link⟩ s = _
  unfold execBucketHeader
  rw [if_neg (by simp [hg]), if_pos (by simp [ho])]

section
variable (hg : grpOk p g = true) (ho : s.ofGroup p g h = true)
include hg ho

theorem bucketHeader_unmatched (hk : bhKind h = 0) (hr : s.reduceOf p g (bhTag h) (bhParity h) (bhEpoch h) = none) :
    exec (.bucketHeader p g ⟨h, link⟩) s = .next (s.discard p link) := by
  change execBucketHeader p g ⟨h, link⟩ s = _
  unfold execBucketHeader
  rw [if_neg (by simp [hg]), if_neg (by simp [ho]), if_neg (not_not.2 hk)]
  dsimp only
  rw [hr]

/-- The first header of an expected child is kept. -/
theorem bucketHeader_up (hk : bhKind h = 0) (hr : s.reduceOf p g (bhTag h) (bhParity h) (bhEpoch h) = some b)
    (hd : bhDown h = false) (hkid : ∃ j, j < bdSegs b.desc ∧ bhSender h ∈ s.segKids b j)
    (hnew : ∀ x ∈ b.upHdrs, x.1 ≠ bhSender h) :
    exec (.bucketHeader p g ⟨h, link⟩) s = .next (s.sendHeaders { b with upHdrs := b.upHdrs ++ [(bhSender h, h)] }) := by
  have hexp : b.segs.all (fun j => !(s.segKids b j).contains (bhSender h)) = false := by
    obtain ⟨j, hj, hm⟩ := hkid
    exact List.all_eq_false.2 ⟨j, mem_upto.2 hj, by simpa using hm⟩
  have hfirst : b.upHdrs.any (fun x => x.1 == bhSender h) = false := by simpa using hnew
  change execBucketHeader p g ⟨h, link⟩ s = _
  unfold execBucketHeader
  rw [if_neg (by simp [hg]), if_neg (by simp [ho]), if_neg (not_not.2 hk)]
  dsimp only
  rw [hr]
  dsimp only
  rw [if_neg (by simp [hd]), if_neg (by rw [hexp, hfirst]; decide)]

/-- And the first of an expected parent. -/
theorem bucketHeader_down (hk : bhKind h = 0) (hr : s.reduceOf p g (bhTag h) (bhParity h) (bhEpoch h) = some b)
    (hd : bhDown h = true) (hpar : ∃ j, j < bdSegs b.desc ∧ s.segParent b j = some (bhSender h))
    (hnew : ∀ x ∈ b.downHdrs, x.1 ≠ bhSender h) :
    exec (.bucketHeader p g ⟨h, link⟩) s = .next (s.sendHeaders { b with downHdrs := b.downHdrs ++ [(bhSender h, h)] }) := by
  have hexp : b.segs.all (fun j => s.segParent b j != some (bhSender h)) = false := by
    obtain ⟨j, hj, hm⟩ := hpar
    exact List.all_eq_false.2 ⟨j, mem_upto.2 hj, by simpa using hm⟩
  have hfirst : b.downHdrs.any (fun x => x.1 == bhSender h) = false := by simpa using hnew
  change execBucketHeader p g ⟨h, link⟩ s = _
  unfold execBucketHeader
  rw [if_neg (by simp [hg]), if_neg (by simp [ho]), if_neg (not_not.2 hk)]
  dsimp only
  rw [hr]
  dsimp only
  rw [if_pos hd, if_neg (by rw [hexp, hfirst]; decide)]

theorem bucketHeader_noChunk (hk : bhKind h = 1 ∨ bhKind h = 2)
    (hn : ∀ b ∈ s.groupBuckets p g, ¬(bdOp b.desc = bhKind h + 1 ∧ bdTag b.desc = bhTag h ∧ bdStep b.desc % 2 = bhParity h)) :
    exec (.bucketHeader p g ⟨h, link⟩) s = .next (s.discard p link) := by
  have hnone : (s.groupBuckets p g).find? (fun b => bdOp b.desc == bhKind h + 1 && bdTag b.desc == bhTag h
      && bdStep b.desc % 2 == bhParity h) = none :=
    List.find?_eq_none.2 fun b hm hc => hn b hm (by simpa [and_assoc] using hc)
  change execBucketHeader p g ⟨h, link⟩ s = _
  unfold execBucketHeader
  rw [if_neg (by simp [hg]), if_neg (by simp [ho]), if_pos (by dsimp only; omega)]
  dsimp only
  rw [hnone]

/-- The first header that comes with another member's chunk is kept. -/
theorem bucketHeader_chunk (hk : bhKind h = 1 ∨ bhKind h = 2)
    (hb : (s.groupBuckets p g).find? (fun b => bdOp b.desc == bhKind h + 1 && bdTag b.desc == bhTag h
      && bdStep b.desc % 2 == bhParity h) = some b) (he : s.cyEpoch p g = bhEpoch h) (hlt : bhSender h < s.cySize p g)
    (hother : bhSender h ≠ s.cyRank p g) (hnew : ∀ x ∈ b.upHdrs, x.1 ≠ bhSender h) :
    exec (.bucketHeader p g ⟨h, link⟩) s = .next (s.setBucket { b with
      status := csNorm (b.status ||| (bhStatus h &&& csLOST)), upHdrs := b.upHdrs ++ [(bhSender h, h)] }) := by
  have hne : bhKind h ≠ 3 := by omega
  have hfirst : b.upHdrs.any (fun x => x.1 == bhSender h) = false := by simpa using hnew
  change execBucketHeader p g ⟨h, link⟩ s = _
  unfold execBucketHeader
  rw [if_neg (by simp [hg]), if_neg (by simp [ho]), if_pos (by dsimp only; omega)]
  dsimp only
  rw [hb]
  dsimp only
  rw [if_neg (by rw [hfirst]; simp [he, hne, hlt, hother])]

end

/-! Chunks (R266, R267). -/

theorem packets4k_one {n : Nat} (h0 : 0 < n) (h1 : n ≤ 4096) : packets4k n = [(0, n)] := by
  have hk : (n + 4095) / 4096 = 1 := by omega
  rw [packets4k, hk]
  simp [upto, h1]

/-- A write of one packet that the mesh does not lose puts its bytes in their place. -/
theorem udRead_carryPut {a x src : Nat} {bs : List Byte} (hx : s.udPhys b.part a bs.length true = some x)
    (hr : s.ringOk b.part a bs.length = true) (h0 : 0 < bs.length) (h1 : bs.length ≤ 4096)
    (harr : s.arrives src (x / 2 ^ 29) bs.length = true) : (s.carryPut b a src bs).1.decks.udRead x bs.length = bs := by
  have hput : (s.udPut b.part a bs).1.decks = (s.decks.udWrite x bs).1 := by
    unfold State.udPut
    rw [hx]
    dsimp only
    rw [if_neg (by simp [hr])]
    split
    · exact errRec_decks ..
    · rfl
  unfold State.carryPut
  rw [packets4k_one h0 h1]
  dsimp only [List.foldl]
  rw [Nat.add_zero, hx]
  dsimp only
  rw [if_pos harr, List.drop_zero, List.take_length, (OnMesh.refl.update.outstanding2).decks, hput]
  exact mread_mwrite _ x bs

theorem chunkLanded_lands {tag parity sender : Nat} {data : List Byte} (hg : grpOk p g = true)
    (hb : (s.groupBuckets p g).find? (fun b => bdOp b.desc != 1 && bdTag b.desc == tag && bdStep b.desc % 2 == parity) = some b)
    (hlt : sender < s.cySize p g) (hnew : sender ∉ b.chunks) (hlen : data.length = bdChunk b.desc)
    (hw : s.carryWaits b = false) :
    exec (.chunkLanded p g tag parity sender (s.cyEpoch p g) ⟨data, link⟩) s = .next (s.landChunk b sender data).pollAll := by
  change polled _ = _
  rw [if_neg (by simp [hg])]
  dsimp only
  rw [hb]
  dsimp only
  rw [if_neg (by simp [hlt, hnew, hlen]), if_neg (by simp [hw])]
  rfl

/-! An entry that leaves the table (R246, R259). -/

/-- What a bucket's end leaves of the part. -/
theorem endBucket_eq (n : SegNote) : ∃ o m nu r c hh gr, s.endBucket b n = { s with
      objs := o, mesh := m, nums := nu, rods := r, ctxs := c, host := hh
      cy := { s.cy with buckets := s.cy.buckets.filter (fun y => y.id != b.id), groups := gr } } ∧
    tget (objDefault (kCY_OPEN b.part)) o (kCY_OPEN b.part) =
      ((s.cy.buckets.filter (fun y => y.id != b.id)).filter fun y => y.part == b.part).length := by
  unfold State.endBucket
  dsimp only
  generalize hu : State.countOpen _ b.part = u
  obtain ⟨hh, hc⟩ := completeOpt_zero_eq u b.cmd 0 b.nsw
  obtain ⟨nu, r, c, hw⟩ := wakeCarry_eq { u with host := hh } b.part
  rw [hc, hw]
  subst hu
  refine ⟨_, _, _, _, _, _, _, rfl, ?_⟩
  exact (o_setO ..).trans (if_pos rfl)

theorem bucket?_endBucket (n : SegNote) : (s.endBucket b n).bucket? b.id = none := by
  obtain ⟨o, m, nu, r, c, hh, gr, heq, -⟩ := endBucket_eq (s := s) (b := b) n
  rw [heq]
  refine List.find?_eq_none.2 fun y hy => ?_
  simpa using List.of_mem_filter hy

/-- CY_OPEN counts the entries left. -/
theorem open_endBucket (n : SegNote) : (s.endBucket b n).o (kCY_OPEN b.part) =
    ((s.endBucket b n).cy.buckets.filter fun y => y.part == b.part).length := by
  obtain ⟨o, m, nu, r, c, hh, gr, heq, hopen⟩ := endBucket_eq (s := s) (b := b) n
  rw [heq]
  exact hopen

/-! Completion (R251, R256 to R258). -/

/-- A completing bucket's end, or its scales on their way. -/
def EndsOrStores (b : Bucket) (t : State) : Prop :=
  t.bucket? b.id = none ∧ t.o (kCY_OPEN b.part) = (t.cy.buckets.filter (fun x => x.part == b.part)).length ∨
    ∃ b', t.bucket? b.id = some b' ∧ b.stored = false ∧ b'.stored = true ∧ t.writesDone b' = false

theorem endsOrStores_endBucket (n : SegNote) (hid : b'.id = b.id) (hp : b'.part = b.part) :
    EndsOrStores b (s.endBucket b' n) := by
  refine .inl ⟨hid ▸ bucket?_endBucket n, ?_⟩
  rw [← hp]
  exact open_endBucket n

/-- The state in which the scale store takes the final maxima, with what its writes say. -/
def State.storeScales (s : State) (b : Bucket) : State × BitVec 16 :=
  b.finals.foldl (fun (a : State × BitVec 16) u =>
    let x := a.1.storeScale b u
    (x.1, a.2 ||| x.2)) (s.zeroPoisoned b)

theorem storeScales_wrote : Wrote s (s.storeScales b).1 :=
  Wrote.refl.zeroPoisoned.foldl_fst fun _ _ h => h.storeScale

/-- With no final sums and no poisoned segment there is nothing to write. -/
theorem storeScales_nothing (hf : b.finals = []) (hp : b.poison = []) : s.storeScales b = (s, 0) := by
  unfold State.storeScales State.zeroPoisoned
  rw [hf, hp]
  split <;> rfl

section
variable (hb : s.bucket? bkt = some b) (hown : b.ownAt ≠ 0) (hm : s.missing b = []) (hw : s.writesDone b = true)
  (hc : s.carryWaits b = false)
include hb hown hm hw hc

theorem bucketComplete_stored (hs : b.stored = true) :
    exec (.bucketComplete bkt) s = .next (s.endBucket b (s.finalNote b)).pollAll := by
  change polled _ = _
  rw [hb]
  dsimp only
  rw [if_neg (by simp [hown, hm, hw, hc]), if_pos hs]
  rfl

/-- The entry with its scales stored and what the writes said. -/
def Bucket.storing (b : Bucket) (w : BitVec 16) : Bucket := { b with stored := true, status := csNorm (b.status ||| w) }

theorem bucketComplete_stores (hs : b.stored = false) : exec (.bucketComplete bkt) s =
    .next (if (s.storeScales b).1.writesDone b then (s.storeScales b).1.endBucket (b.storing (s.storeScales b).2)
        ((s.storeScales b).1.finalNote (b.storing (s.storeScales b).2))
      else (s.storeScales b).1.setBucket (b.storing (s.storeScales b).2)).pollAll := by
  change polled _ = _
  rw [hb]
  dsimp only
  rw [if_neg (by simp [hown, hm, hw, hc]), if_neg (by simp [hs])]
  by_cases hd : (s.storeScales b).1.writesDone b = true
  · rw [if_pos hd]
    exact congrArg polled (if_pos hd)
  · rw [if_neg hd]
    exact congrArg polled (if_neg hd)

end

/-- A bucket that misses nothing ends, or stores its scales. -/
theorem bucketComplete_spec (hb : s.bucket? bkt = some b) (hown : b.ownAt ≠ 0) (hm : s.missing b = [])
    (hw : s.writesDone b = true) (hc : s.carryWaits b = false) :
    ∃ t : State, exec (.bucketComplete bkt) s = .next t.pollAll ∧ EndsOrStores b t ∧
      (b.stored = true ∨ b.finals = [] ∧ b.poison = [] → t.bucket? b.id = none) := by
  cases hs : b.stored with
  | true =>
    exact ⟨_, bucketComplete_stored hb hown hm hw hc hs, endsOrStores_endBucket _ rfl rfl, fun _ => bucket?_endBucket _⟩
  | false =>
    refine ⟨_, bucketComplete_stores hb hown hm hw hc hs, ?_, fun hn => ?_⟩
    · by_cases hd : (s.storeScales b).1.writesDone b = true
      · rw [if_pos hd]
        exact endsOrStores_endBucket _ rfl rfl
      · rw [if_neg hd]
        refine .inr ⟨b.storing (s.storeScales b).2, bucket?_setBucket (b := b) ?_ rfl, hs, rfl, Bool.eq_false_iff.2 hd⟩
        rw [bucket?_congr storeScales_wrote.cy, (bucket?_some hb).2, hb]
    · obtain ⟨hf, hp⟩ := hn.resolve_left Bool.false_ne_true
      rw [storeScales_nothing hf hp, if_pos hw]
      exact bucket?_endBucket (b := b.storing 0) _

/-! Loss (R263). -/

/-- A record of class 3 sets its partition's fatal bit and changes no other object (R466). -/
theorem o_errRec_fatal {r : ErrRec} (hr : r.cls = 3) (hp : r.part < 16) (k : Nat) :
    (s.errRec r).o k = if k = kERR_FATAL_PARTS then s.o kERR_FATAL_PARTS ||| 2 ^ r.part else s.o k := by
  simp [State.errRec, State.errPart, State.errFill, hr, hp]

theorem bucketTimeout_loses {r : Nat} {l : List Nat} (hlt : bkt < 2 ^ 32) (hb : s.bucket? bkt = some b) (hown : b.ownAt ≠ 0)
    (hlate : b.ownAt - 1 + s.o (kCY_TIMEOUT_STROKES (4 * b.part + b.g)) ≤ s.stroke) (hm : s.missing b = r :: l) :
    exec (.bucketTimeout bkt) s = .next (s.loseBucket b r).pollAll := by
  have hl : s.bucketLate bkt = s.loseBucket b r := by
    unfold State.bucketLate
    rw [hb]
    dsimp only
    rw [if_neg (by simpa [hown] using hlate), hm]
  exact congrArg polled ((if_pos hlt).trans (congrArg _ hl))

theorem loseBucket_spec (r : Nat) (hp : b.part < 16) :
    (s.loseBucket b r).bucket? b.id = none ∧ (s.loseBucket b r).cyState b.part b.g = cyBROKEN ∧
      (s.loseBucket b r).errs.seq = s.errs.seq + 1 ∧ ((s.loseBucket b r).o kERR_FATAL_PARTS).testBit b.part = true ∧
      (s.loseBucket b r).decks = s.decks := by
  obtain ⟨o, m, nu, rd, c, hh, gr, heq, -⟩ := endBucket_eq (s := s) (b := b) { status := b.status ||| csLOST ||| csNONFINITE }
  have hnone := bucket?_endBucket (s := s) (b := b) { status := b.status ||| csLOST ||| csNONFINITE }
  have herr : (s.endBucket b { status := b.status ||| csLOST ||| csNONFINITE }).errs = s.errs := by rw [heq]
  have hdecks : (s.endBucket b { status := b.status ||| csLOST ||| csNONFINITE }).decks = s.decks := by rw [heq]
  unfold State.loseBucket
  dsimp only
  generalize s.endBucket b { status := b.status ||| csLOST ||| csNONFINITE } = u at *
  refine ⟨?_, ?_, ?_, ?_, ?_⟩
  · rw [bucket?_congr (errRec_cy ..)]
    exact hnone
  · rw [State.cyState, o_errRec_fatal rfl hp, if_neg (by unfold kERR_FATAL_PARTS kCY_GROUP_STATE; omega)]
    exact cyState_setCyState _
  · rw [errRec_seq]
    exact congrArg (·.seq + 1) herr
  · rw [o_errRec_fatal rfl hp, if_pos rfl]
    simp
  · rw [errRec_decks]
    exact hdecks

/-- Settles O27: headers, chunks, completions and losses each in turn. -/
theorem bucketsCompleteOrAreLost : Obligations.BucketsCompleteOrAreLost := by
  unfold Obligations.BucketsCompleteOrAreLost
  refine ⟨fun p g h link s hp hg hk => ⟨fun hn => ?_, fun b ho hr => ⟨fun hd hx hnew => ?_, fun hd hx hnew => ?_⟩⟩,
    fun p g h link s hp hg hk => ⟨fun hn => ?_, fun b hb ho he hlt hother hnew => ?_⟩,
    fun p g tag parity sender link data b a s hp hg hb hlt hnew hlen hw => ?_,
    fun bkt b s hb hown hm hw hc => ?_, fun bkt r l b s hlt hb hp hg hown hlate hm => ?_⟩
  · cases ho : s.ofGroup p g h with
    | false => exact bucketHeader_foreign (grpOk_eq hp hg) ho
    | true => exact bucketHeader_unmatched (grpOk_eq hp hg) ho hk (hn.resolve_left (by simp [ho]))
  · obtain ⟨l, o, up, down, heq⟩ := sendHeaders_eq (s := s) (b := { b with upHdrs := b.upHdrs ++ [(bhSender h, h)] })
    exact ⟨_, _, (bucketHeader_up (grpOk_eq hp hg) ho hk hr hd hx hnew).trans (congrArg _ heq),
      mem_setBucket (t := s.sends l o) (reduceOf_some hr).1 rfl, rfl, rfl, rfl⟩
  · obtain ⟨l, o, up, down, heq⟩ := sendHeaders_eq (s := s) (b := { b with downHdrs := b.downHdrs ++ [(bhSender h, h)] })
    exact ⟨_, _, (bucketHeader_down (grpOk_eq hp hg) ho hk hr hd hx hnew).trans (congrArg _ heq),
      mem_setBucket (t := s.sends l o) (reduceOf_some hr).1 rfl, rfl, rfl, rfl⟩
  · cases ho : s.ofGroup p g h with
    | false => exact bucketHeader_foreign (grpOk_eq hp hg) ho
    | true => exact bucketHeader_noChunk (grpOk_eq hp hg) ho hk (hn.resolve_left (by simp [ho]))
  · exact ⟨_, _, bucketHeader_chunk (grpOk_eq hp hg) ho hk hb he hlt hother hnew,
      mem_setBucket (List.mem_of_mem_filter (List.mem_of_find?_eq_some hb)) rfl, rfl, rfl, rfl⟩
  · obtain ⟨hpart, -⟩ : b.part = p ∧ b.g = g := by
      simpa using List.of_mem_filter (List.mem_of_find?_eq_some hb)
    have hmem : b ∈ (s.carryPut b (bdDst b.desc + sender * bdChunk b.desc) (bdHome b.desc) data).1.cy.buckets := by
      rw [(Wrote.refl (s := s)).carryPut.cy]
      exact List.mem_of_mem_filter (List.mem_of_find?_eq_some hb)
    subst hpart
    exact ⟨_, _, chunkLanded_lands (grpOk_eq hp hg) hb hlt hnew hlen hw, mem_setBucket hmem rfl, rfl, rfl,
      fun hx hr h0 h1 harr => udRead_carryPut hx hr h0 h1 harr⟩
  · obtain ⟨-, hid⟩ := bucket?_some hb
    obtain ⟨t, hex, hends, hnone⟩ := bucketComplete_spec hb hown hm hw hc
    exact ⟨t, hex, hid ▸ hends, hid ▸ hnone⟩
  · obtain ⟨-, hid⟩ := bucket?_some hb
    obtain ⟨hnone, hrest⟩ := loseBucket_spec (s := s) r hp
    exact ⟨_, bucketTimeout_loses hlt hb hown hlate hm, hid ▸ hnone, hrest⟩

end Sys2Proof.Machine
end

section
/-! Verdict exchanges (R193, R259 to R261). -/

namespace Sys2Proof.Machine

open Sys2Proof

variable {s t : State} {p g step : Nat}

/-! Exchanges of a group. -/

theorem exch_step (x : Group) (k : Nat) : (x.exch k).step = k := by
  unfold Group.exch
  cases h : x.exchs.find? (fun e => e.step == k) with
  | none => rfl
  | some e => simpa using List.find?_some h

theorem exch_setExch (x : Group) {e : Exch} {k : Nat} (h : e.step = k) : (x.setExch e).exch k = e := by
  have hnone : (x.exchs.filter fun y => y.step != k).find? (fun y => y.step == k) = none :=
    List.find?_eq_none.2 fun y hy => by simpa using List.of_mem_filter hy
  unfold Group.exch Group.setExch
  dsimp only
  rw [h, List.find?_append, hnone]
  simp [h]

/-- A child of the member has sent no part of a step's exchange. -/
def State.silentPart (s : State) (p g step : Nat) : Prop :=
  ∃ k ∈ s.grpKids p g, ∀ y ∈ ((s.group p g).exch step).kids, y.1 ≠ k

/-- A member that has not started the exchange, or waits for a child, sends nothing. -/
theorem exchGo_waits (h : ((s.group p g).exch step).at_ = 0 ∨ s.silentPart p g step) : s.exchGo p g step = s := by
  refine if_pos ?_
  rcases h with h | ⟨k, hk, hy⟩
  · simp [h]
  · have hany : (s.grpKids p g).any (fun k => !((s.group p g).exch step).kids.any (fun c => c.1 == k)) = true :=
      List.any_eq_true.2 ⟨k, hk, by simpa using hy⟩
    rw [hany, Bool.or_true]

/-- A member whose exchange of a step has been replaced by one that waits. -/
theorem exchGo_setExch {e : Exch} (he : e.step = step) (h : e.at_ = 0 ∨ ∃ k ∈ s.grpKids p g, ∀ y ∈ e.kids, y.1 ≠ k) :
    (s.setGroup p g ((s.group p g).setExch e)).exchGo p g step = s.setGroup p g ((s.group p g).setExch e) := by
  have hx : ((s.setGroup p g ((s.group p g).setExch e)).group p g).exch step = e := by
    rw [group_setGroup, if_pos rfl, exch_setExch _ he]
  refine exchGo_waits ?_
  rw [State.silentPart, hx, grpKids_setGroup]
  exact h

/-! What a known verdict changes in the groups (R261). -/

/-- The CLOSE_STEPs of a step in group `h` are done, unless the group is not `g` and has not finished its own. -/
def State.closeGroup (p g step : Nat) (s : State) (h : Nat) : State :=
  let x := s.group p h
  if h ≠ g && x.closes.any (fun c => c.step == step && c.res.isNone) then s
  else
    s.setGroup p h { x with closes := x.closes.filter (fun c => c.step != step)
                            exchs := x.exchs.filter (fun e => e.step != step)
                            stepOr := terase x.stepOr step, stepCount := terase x.stepCount step }

/-- In group `h` of `t`, a CLOSE_STEP of the step is pending only where the group, another than `g`, had not finished in `s`. -/
def PendingAsIn (p g step : Nat) (s t : State) (h : Nat) : Prop :=
  ∀ c ∈ (t.group p h).closes, c.step = step → h ≠ g ∧ ∃ y ∈ (s.group p h).closes, y.step = step ∧ y.res = none

theorem closeGroup_spec (h : Nat) : (∀ i, (s.closeGroup p g step h |>.group p i).closes ⊆ (s.group p i).closes) ∧
    PendingAsIn p g step s (s.closeGroup p g step h) h := by
  unfold State.closeGroup PendingAsIn
  dsimp only
  split
  · next hc =>
    obtain ⟨hne, hany⟩ := Bool.and_eq_true_iff.1 hc
    obtain ⟨y, hy, hp⟩ := List.any_eq_true.1 hany
    exact ⟨fun i => List.Subset.refl _, fun c _ _ => ⟨by simpa using hne, y, hy, by simpa using hp⟩⟩
  · refine ⟨fun i => ?_, fun c hc hs => ?_⟩
    · rw [group_setGroup]
      split
      · next hi =>
        obtain rfl : i = h := by omega
        exact List.filter_subset_self _
      · exact List.Subset.refl _
    · rw [group_setGroup, if_pos rfl] at hc
      simp [hs] at hc

theorem closeGroups_spec (l : List Nat) : (∀ i, (l.foldl (State.closeGroup p g step) s |>.group p i).closes ⊆
      (s.group p i).closes) ∧
    ∀ h ∈ l, PendingAsIn p g step s (l.foldl (State.closeGroup p g step) s) h := by
  induction l generalizing s with
  | nil => exact ⟨fun _ => List.Subset.refl _, fun _ hm => absurd hm List.not_mem_nil⟩
  | cons a l ih =>
    obtain ⟨hsub, hall⟩ := ih (s := s.closeGroup p g step a)
    obtain ⟨hsub1, hone⟩ := closeGroup_spec (s := s) (p := p) (g := g) (step := step) a
    refine ⟨fun i => List.Subset.trans (hsub i) (hsub1 i), fun h hm c hc hs => ?_⟩
    rcases List.mem_cons.1 hm with rfl | hm
    · exact hone c (hsub _ hc) hs
    · obtain ⟨hne, y, hy, hy'⟩ := hall h hm c hc hs
      exact ⟨hne, y, hsub1 h hy, hy'⟩

theorem closeGroups_frame (l : List Nat) :
    ∃ gr, l.foldl (State.closeGroup p g step) s = { s with cy := { s.cy with groups := gr } } := by
  refine List.foldlRecOn (motive := fun t => ∃ gr : Tab Group, t = { s with cy := { s.cy with groups := gr } }) l _ ⟨s.cy.groups, rfl⟩ ?_
  rintro _ ⟨gr, rfl⟩ h _
  unfold State.closeGroup
  dsimp only
  split
  · exact ⟨gr, rfl⟩
  · exact ⟨_, rfl⟩

/-! And in the run (R193, R221). -/

/-- From `s` to `t`, a reckoner's own state and the decks alone have changed. -/
def Reckoned (s t : State) : Prop := ∃ r d, t = { s with reck := r, decks := d }

namespace Reckoned

variable {c : Prop} [Decidable c]

theorem refl : Reckoned s s := ⟨_, _, rfl⟩

theorem setReck {r} (h : Reckoned s t) : Reckoned s { t with reck := r } := by
  obtain ⟨_, _, rfl⟩ := h
  exact ⟨_, _, rfl⟩

theorem ite {u : State} (ht : Reckoned s t) (hu : Reckoned s u) : Reckoned s (if c then t else u) := by
  split <;> assumption

theorem foldl {α : Type} {f : State → α → State} {l : List α} (h : Reckoned s t)
    (hf : ∀ t x, Reckoned s t → Reckoned s (f t x)) : Reckoned s (l.foldl f t) :=
  List.foldlRecOn l f h fun t h x _ => hf t x h

theorem setFactorBlock {q fb f} (h : Reckoned s t) : Reckoned s (t.setFactorBlock q fb f) := by
  rw [setFactorBlock_frame]
  obtain ⟨_, _, rfl⟩ := h
  exact ⟨_, _, rfl⟩

theorem schedule {q run k j} (h : Reckoned s t) : Reckoned s (t.schedule q run k j) := by
  obtain ⟨l, hl⟩ := schedule_eq t q run k j
  rw [hl]
  exact h.setReck

theorem reckVerdict {q k a} (h : Reckoned s t) : Reckoned s (t.reckVerdict q k a) :=
  have h1 : Reckoned s (if t.updating q then t else t.applyHeldGroups q) :=
    .ite h (h.setReck.foldl fun _ _ h => h.setReck)
  .ite h (.ite (h1.setReck.foldl fun _ _ h => h.schedule)
    (h1.setReck.setReck.foldl fun _ _ h => h.setReck.setFactorBlock))

theorem cy (h : Reckoned s t) : t.cy = s.cy := by
  obtain ⟨_, _, rfl⟩ := h
  rfl

theorem o (h : Reckoned s t) (k : Nat) : t.o k = s.o k := by
  obtain ⟨_, _, rfl⟩ := h
  rfl

end Reckoned

/-- The objects of a run that a verdict changes. -/
def VerdictKey (p k : Nat) : Prop :=
  k = kRUN_STEP p ∨ k = kLOSS_SCALE p ∨ k = kGOOD_STEP_COUNT p ∨ k = kSKIPPED_STEPS p

/-- The counts that go with a verdict (R201): the loss scale, the good steps and the skipped ones. -/
def State.countVerdict (s : State) (p : Nat) (bad : Bool) (scale good : Nat) : State :=
  let s := (s.setO (kLOSS_SCALE p) scale).setO (kGOOD_STEP_COUNT p) good
  if bad then s.addO 32 (kSKIPPED_STEPS p) 1 else s

theorem o_countVerdict (bad : Bool) (scale good k : Nat) (h : k ≠ kLOSS_SCALE p ∧ k ≠ kGOOD_STEP_COUNT p ∧ k ≠ kSKIPPED_STEPS p) :
    (s.countVerdict p bad scale good).o k = s.o k := by
  obtain ⟨h1, h2, h3⟩ := h
  cases bad <;> simp [State.countVerdict, h1, h2, h3]

theorem cy_countVerdict (bad : Bool) (scale good : Nat) : (s.countVerdict p bad scale good).cy = s.cy := by
  cases bad <;> rfl

/-- The verdict of the step of a running partition advances its step, and a record may follow. -/
theorem numVerdict_eq (bad : Bool) (hr : s.running p = true) : ∃ nu scale good u,
    Recorded ((({ s with nums := nu }).setO (kRUN_STEP p) ((s.runStep p + 1) % 2 ^ 64)).countVerdict p bad scale good) u ∧
    s.numVerdict p bad = u := by
  obtain ⟨nu, hnu⟩ : ∃ nu, s.phaseTick p = { s with nums := nu } := ⟨_, phaseTick_frame s p⟩
  unfold State.numVerdict
  rw [if_neg (by simp [hr]), hnu]
  extract_lets u x k n full x' v w y
  have hy : Recorded y (if full = true then y.errRec { cls := 2, code := rcNUM_FLOOR, part := p, arg0 := k % 2 ^ 32 } else y) :=
    .ite (Recorded.refl.errRec (Nat.ne_of_lt (Nat.lt_succ_self 2))) .refl
  exact ⟨(u.setNum p x').nums, n.1.toNat, n.2.1, _, hy, rfl⟩

/-- What a partition whose run stands at a judged step does with its verdict. -/
def State.advance (s : State) (p step : Nat) (bad : Bool) : State :=
  if s.running p && s.runStep p == step then (s.reckVerdict p step (!bad)).numVerdict p bad else s

/-- It changes nothing of the carry units and goes to the next step. -/
theorem advance_spec (bad : Bool) : (s.advance p step bad).cy = s.cy ∧
    (∀ k, ¬VerdictKey p k → (s.advance p step bad).o k = s.o k) ∧
    (s.running p = true → s.runStep p = step → (s.advance p step bad).runStep p = (step + 1) % 2 ^ 64) ∧
    (s.running p = true → s.runStep p ≠ step → (s.advance p step bad).runStep p = s.runStep p) := by
  unfold State.advance
  split
  · next hc =>
    obtain ⟨hrun, hstep⟩ : s.running p = true ∧ s.runStep p = step := by simpa using hc
    have hr : Reckoned s (s.reckVerdict p step (!bad)) := Reckoned.refl.reckVerdict
    generalize s.reckVerdict p step (!bad) = u at hr
    have hu : u.running p = true ∧ u.runStep p = step := ⟨by rw [State.running, hr.o]; exact hrun, (hr.o _).trans hstep⟩
    obtain ⟨nu, scale, good, w, ⟨e, m, h, rfl, -⟩, heq⟩ := numVerdict_eq bad hu.1
    rw [heq, hu.2]
    refine ⟨(cy_countVerdict ..).trans hr.cy, fun k hk => ?_, fun _ _ => ?_, fun _ hne => absurd hstep hne⟩
    · obtain ⟨h1, h2⟩ := not_or.1 hk
      refine (o_countVerdict bad scale good k (by simpa using h2)).trans ((o_setO ..).trans ?_)
      rw [if_neg h1]
      exact hr.o k
    · exact (o_countVerdict bad scale good _ ⟨key_ne (by decide), key_ne (by decide), key_ne (by decide)⟩).trans
        ((o_setO ..).trans (if_pos rfl))
  · next hc => exact ⟨rfl, fun _ _ => rfl, fun hr hs => absurd (by simp [hr, hs]) hc, fun _ _ => rfl⟩

/-! A verdict that is known. -/

theorem group_congr (h : t.cy = s.cy) (i j : Nat) : t.group i j = s.group i j := by
  rw [State.group, h, State.group]

theorem completeOpts_eq (l : List (Option Nat)) (r : Nat) (w : Nsw) :
    ∃ h, l.foldl (fun s c => s.completeOpt c 0 r w) s = { s with host := h } := by
  induction l generalizing s with
  | nil => exact ⟨s.host, rfl⟩
  | cons c l ih =>
    obtain ⟨h, hh⟩ := completeOpt_zero_eq s c r w
    rw [List.foldl_cons, hh]
    exact ih

/-- What a step's known verdict `v` means for its partition. -/
def Known (p g step : Nat) (v : BitVec 16) (s t : State) : Prop :=
  t.o (kCY_VERDICT p) = (csNorm v).toNat ∧ t.o (kCY_VERDICT_STEP p) = step % 2 ^ 64 ∧
    (∀ h, h < 4 → PendingAsIn p g step s t h) ∧
    (s.running p = true → s.runStep p = step → t.runStep p = (step + 1) % 2 ^ 64) ∧
    (s.running p = true → s.runStep p ≠ step → t.runStep p = s.runStep p)

/-- The state in which a verdict is noted and the groups' CLOSE_STEPs of its step are done. -/
def State.noted (s : State) (p g step : Nat) (v : BitVec 16) (c : CarryS) : State :=
  (upto 4).foldl (State.closeGroup p g step)
    { (s.setO (kCY_VERDICT p) v.toNat).setO (kCY_VERDICT_STEP p) (step % 2 ^ 64) with cy := c }

/-- A verdict is noted, the run advances, and the waiting commands complete. -/
theorem verdictKnown_eq (v : BitVec 16) : ∃ c h nu r cx, c.groups = s.cy.groups ∧ s.verdictKnown p g step v =
    { (s.noted p g step (csNorm v) c).advance p step (csNorm v &&& csNONFINITE != 0) with
      host := h, nums := nu, rods := r, ctxs := cx } := by
  unfold State.verdictKnown
  extract_lets v' cmds s1 last above src s2 s3 bad s4
  obtain ⟨h, hh⟩ := completeOpts_eq (s := s4) cmds v'.toNat 0
  obtain ⟨nu, r, cx, hw⟩ := wakeCarry_eq { s4 with host := h } p
  rw [hh, hw]
  exact ⟨s2.cy, h, nu, r, cx, rfl, rfl⟩

/-- Noting a verdict changes no object but CY_VERDICT and CY_VERDICT_STEP. -/
theorem o_noted (v : BitVec 16) (c : CarryS) (k : Nat) : (s.noted p g step v c).o k =
    if k = kCY_VERDICT_STEP p then step % 2 ^ 64 else if k = kCY_VERDICT p then v.toNat else s.o k := by
  obtain ⟨gr, heq⟩ := closeGroups_frame (s := { (s.setO (kCY_VERDICT p) v.toNat).setO (kCY_VERDICT_STEP p) (step % 2 ^ 64) with
    cy := c }) (p := p) (g := g) (step := step) (upto 4)
  rw [State.noted, heq]
  exact (o_setO ..).trans (congrArg _ (o_setO ..))

theorem run_noted (v : BitVec 16) (c : CarryS) : (s.noted p g step v c).running p = s.running p ∧
    (s.noted p g step v c).runStep p = s.runStep p := by
  unfold State.running State.runStep
  rw [o_noted, o_noted, if_neg (by unfold kRUN_STATE kCY_VERDICT_STEP; omega), if_neg (key_ne (by decide)),
    if_neg (key_ne (by decide)), if_neg (key_ne (by decide))]
  exact ⟨rfl, rfl⟩

theorem pendingAsIn_noted (v : BitVec 16) {c : CarryS} (hc : c.groups = s.cy.groups) {h : Nat} (hh : h < 4) :
    PendingAsIn p g step s (s.noted p g step v c) h := by
  have hg (i j : Nat) : State.group { (s.setO (kCY_VERDICT p) v.toNat).setO (kCY_VERDICT_STEP p) (step % 2 ^ 64) with cy := c }
      i j = s.group i j := congrArg (fun t => tget ({} : Group) t (4 * i + j)) hc
  intro x hx hs
  obtain ⟨hne, y, hy, hy'⟩ := (closeGroups_spec (upto 4)).2 h (mem_upto.2 hh) x hx hs
  exact ⟨hne, y, hg p h ▸ hy, hy'⟩

theorem not_verdictKey_verdict : ¬VerdictKey p (kCY_VERDICT p) ∧ ¬VerdictKey p (kCY_VERDICT_STEP p) := by
  unfold VerdictKey
  refine ⟨?_, ?_⟩ <;> simp only [not_or]
  · exact ⟨key_ne (by decide), key_ne (by decide), key_ne (by decide), key_ne (by decide)⟩
  · exact ⟨key_ne (by decide), key_ne (by decide), key_ne (by decide), key_ne (by decide)⟩

theorem known_verdictKnown (v : BitVec 16) : Known p g step v s (s.verdictKnown p g step v) := by
  obtain ⟨c, h, nu, r, cx, hc, heq⟩ := verdictKnown_eq (s := s) (p := p) (g := g) (step := step) v
  obtain ⟨hcy, ho, hgo, hstay⟩ := advance_spec (s := s.noted p g step (csNorm v) c) (p := p) (step := step)
    (csNorm v &&& csNONFINITE != 0)
  obtain ⟨hv, hvs⟩ := not_verdictKey_verdict (p := p)
  obtain ⟨hrun, hstep⟩ := run_noted (s := s) (p := p) (g := g) (step := step) (csNorm v) c
  rw [hrun, hstep] at hgo hstay
  rw [heq]
  refine ⟨(ho _ hv).trans ?_, (ho _ hvs).trans ?_, fun i hi x hx => ?_, hgo, hstay⟩
  · rw [o_noted, if_neg (key_ne (by decide)), if_pos rfl]
  · rw [o_noted, if_pos rfl]
  · exact pendingAsIn_noted (csNorm v) hc hi x (group_congr hcy p i ▸ hx)

/-- What a verdict that comes down means depends on what the member's own state was before it was passed on. -/
theorem known_verdictDown (v : BitVec 16) : Known p g step v s (s.verdictDown p g step v) := by
  obtain ⟨o, ho⟩ := foldl_cySend_eq s (fun r => .header p g r (s.header p g
    { kind := 3, down := true, receiver := r, status := v, tag := 0xFFFF, step := step })) (s.grpKids p g)
  unfold State.verdictDown
  rw [ho]
  exact known_verdictKnown (s := s.sends _ o) v

/-! The exchange's commands (R259, R264). -/

variable {link : Nat} {c : Close} {h : BitVec 512}

section
variable (hg : grpOk p g = true) (hc : s.closeReady p g = some c)
include hg hc

/-- Outside the verdict group the CLOSE_STEP is answered with the group's own status. -/
theorem verdictExchangeStart_other (hv : g ≠ s.verdictGroup p) : ∃ hh nu r cx,
    exec (.verdictExchangeStart p g) s = .next (State.pollAll { s.setGroup p g { s.group p g with
      closes := (s.group p g).closes.map fun y =>
        if y.step = c.step then { y with res := some (tget 0 (s.group p g).stepOr c.step), cmd := none } else y } with
      host := hh, nums := nu, rods := r, ctxs := cx }) := by
  change ∃ hh nu r cx, polled _ = _
  rw [if_neg (by simp [hg])]
  dsimp only
  rw [hc]
  dsimp only
  rw [if_pos hv]
  generalize s.setGroup p g _ = u
  obtain ⟨hh, hhh⟩ := completeOpt_zero_eq u c.cmd (tget 0 (s.group p g).stepOr c.step).toNat 0
  obtain ⟨nu, r, cx, hw⟩ := wakeCarry_eq { u with host := hh } p
  rw [hhh, hw]
  exact ⟨hh, nu, r, cx, rfl⟩

/-- In a verdict group of one the verdict is its own. -/
theorem verdictExchangeStart_alone (hv : g = s.verdictGroup p) (h1 : s.cySize p g = 1)
    (ho : ∀ h, h < 4 → h ≠ g → (s.group p h).closes = []) :
    exec (.verdictExchangeStart p g) s =
      .next (s.verdictKnown p g c.step (tget 0 (s.group p g).stepOr c.step)).pollAll := by
  have hnone : ((upto 4).flatMap fun h => if h = g then [] else
      (s.group p h).closes.filterMap fun y => if y.step = c.step then y.res else none) = [] := by
    refine List.flatMap_eq_nil_iff.2 fun h hm => ?_
    split
    · rfl
    · next hne => rw [ho h (mem_upto.1 hm) hne, List.filterMap_nil]
  change polled _ = _
  rw [if_neg (by simp [hg])]
  dsimp only
  rw [hc]
  dsimp only
  rw [if_neg (not_not.2 hv), if_pos h1, hnone]
  rfl

/-- In a larger one the exchange starts, and a member with a silent child waits. -/
theorem verdictExchangeStart_waits (hv : g = s.verdictGroup p) (h1 : s.cySize p g ≠ 1) (hk : s.silentPart p g c.step) :
    ∃ w n, exec (.verdictExchangeStart p g) s = .next (s.setGroup p g ((s.group p g).setExch
      { (s.group p g).exch c.step with at_ := s.stroke + 1, word := w, count := n })).pollAll := by
  change ∃ w n, polled _ = _
  rw [if_neg (by simp [hg])]
  dsimp only
  rw [hc]
  dsimp only
  rw [if_neg (not_not.2 hv), if_neg h1]
  exact ⟨_, _, congrArg (fun t : State => (.next t.pollAll : Out)) (exchGo_setExch (exch_step ..) (.inr hk))⟩

end

/-- A child's part is kept until this member has started. -/
theorem verdictExchangeUp_keeps (hg : grpOk p g = true) (he : s.cyEpoch p g = bhEpoch h) (hk : bhKind h = 3)
    (hd : bhDown h = false) (ht : bhTag h = 0xFFFF) (hs : s.cyState p g = cyREADY ∨ s.cyState p g = cyBROKEN)
    (hkid : bhSender h ∈ s.grpKids p g) (hnew : ∀ k ∈ ((s.group p g).exch (bhStep h)).kids, k.1 ≠ bhSender h)
    (htaken : s.verdictTaken p g (bhStep h) = false) (ho : s.ofGroup p g h = true)
    (h0 : ((s.group p g).exch (bhStep h)).at_ = 0) :
    exec (.verdictExchangeUp p g ⟨h, link⟩) s = .next (s.setGroup p g ((s.group p g).setExch
      { (s.group p g).exch (bhStep h) with
        kids := ((s.group p g).exch (bhStep h)).kids ++ [(bhSender h, bhStatus h, bhMin h, bhMax h)] })).pollAll := by
  have hfirst : ((s.group p g).exch (bhStep h)).kids.any (fun k => k.1 == bhSender h) = false := by simpa using hnew
  change polled _ = _
  rw [if_neg (by simp [hg])]
  dsimp only
  rw [hfirst]
  rw [if_neg (by rcases hs with h | h <;> simp [he, hk, hd, ht, hkid, htaken, ho, h])]
  exact congrArg (fun t : State => (.next t.pollAll : Out)) (exchGo_setExch (exch_step ..) (.inl h0))

/-- The parent's verdict to a member that has sent its part up (R259, R260). -/
def State.expectsVerdict (s : State) (p g : Nat) (h : BitVec 512) : Prop :=
  s.cyEpoch p g = bhEpoch h ∧ bhKind h = 3 ∧ bhDown h = true ∧ bhTag h = 0xFFFF ∧ s.ofGroup p g h = true ∧
    s.grpParent p g = some (bhSender h) ∧ ((s.group p g).exch (bhStep h)).up = true

theorem verdictResult_taken (hg : grpOk p g = true) (h' : s.expectsVerdict p g h) :
    exec (.verdictResult p g h link) s = .next (s.verdictDown p g (bhStep h) (bhStatus h)).pollAll := by
  obtain ⟨he, hk, hd, ht, ho, hp, hu⟩ := h'
  change polled _ = _
  rw [if_neg (by simp [hg]), if_pos (by simp [he, hk, hd, ht, ho, hp, hu])]
  rfl

theorem verdictResult_discarded (hg : grpOk p g = true) (h' : ¬s.expectsVerdict p g h) :
    exec (.verdictResult p g h link) s = .next (s.discard p link).pollAll := by
  change polled _ = _
  rw [if_neg (by simp [hg]), if_neg (by simpa [State.expectsVerdict, and_assoc] using h')]
  rfl

/-- Settles O28: CLOSE_STEPs that may go ahead by their group, then the parts and verdicts that arrive. -/
theorem verdictsAreExchanged : Obligations.VerdictsAreExchanged := by
  unfold Obligations.VerdictsAreExchanged
  refine ⟨fun p g c s hp hg hc => ⟨fun hv => ?_, fun hv h1 ho => ?_, fun hv h1 hk => ?_⟩, ?_,
    fun p g link h s hp hg => ⟨fun hgood => ?_, fun hbad => verdictResult_discarded (grpOk_eq hp hg) hbad⟩⟩
  · obtain ⟨hh, nu, r, cx, hex⟩ := verdictExchangeStart_other (grpOk_eq hp hg) hc hv
    refine ⟨_, hex, fun y hy hs => ?_, rfl, rfl⟩
    have hgrp := group_setGroup s p g p g { s.group p g with closes := (s.group p g).closes.map fun y =>
      if y.step = c.step then { y with res := some (tget 0 (s.group p g).stepOr c.step), cmd := none } else y }
    rw [if_pos rfl] at hgrp
    obtain ⟨z, -, rfl⟩ := List.mem_map.1 (congrArg Group.closes hgrp ▸ hy)
    split at hs
    · next hz => rw [if_pos hz]
    · next hz => exact absurd hs hz
  · exact ⟨_, verdictExchangeStart_alone (grpOk_eq hp hg) hc hv h1 ho, known_verdictKnown _⟩
  · obtain ⟨w, n, hex⟩ := verdictExchangeStart_waits (grpOk_eq hp hg) hc hv h1 hk
    refine ⟨_, hex, ?_, rfl⟩
    rw [group_setGroup, if_pos rfl, exch_setExch]
    exact exch_step ..
  · intro p g link h s hp hg he hk hd ht hs hkid hnew htaken ho h0
    refine ⟨_, verdictExchangeUp_keeps (grpOk_eq hp hg) he hk hd ht hs hkid hnew htaken ho h0, ?_, rfl⟩
    rw [group_setGroup, if_pos rfl, exch_setExch]
    exact exch_step ..
  · exact ⟨_, verdictResult_taken (grpOk_eq hp hg) hgood, known_verdictDown _⟩

end Sys2Proof.Machine
end

section
/-! The first bytes of a client's copy (R268 to R270). -/

namespace Sys2Proof.Machine

open Sys2Proof

variable {s : State} {k : Nat}

@[simp] theorem allot_setAllot (i : Nat) (a : Allot) : (s.setAllot k a).allot i = if i = k then a else s.allot i :=
  tget_tset ..

/-- What a mirror buffer holds is written into the lower deck. -/
theorem drainBuffer_eq (d : Nat) : ∃ dk mb, s.drainBuffer d = { s with decks := dk, cy := { s.cy with mirrorBuf := mb } } := by
  let Drained (t : State) : Prop := ∃ dk, t = { s with decks := dk }
  obtain ⟨dk, h⟩ : Drained _ := List.foldlRecOn (motive := Drained) (tget [] s.cy.mirrorBuf d)
    (fun (s : State) x => s.genWrite x.allot x.gen x.off x.data) ⟨s.decks, rfl⟩ (by
      rintro _ ⟨_, rfl⟩ x _
      exact ⟨_, rfl⟩)
  unfold State.drainBuffer
  rw [h]
  exact ⟨_, _, rfl⟩

theorem allot_bufferPut (d : Nat) (x : MirrorPiece) (i : Nat) : (s.bufferPut d x).allot i = s.allot i := by
  obtain ⟨dk, mb, h⟩ := drainBuffer_eq (s := s) d
  unfold State.bufferPut
  rw [h]
  split <;> rfl

/-- A copy that begins with `data` counts its 64 B header as come, however little of it `data` holds. -/
theorem coming_copyPiece {d flow : Nat} {data : List Byte} (h : (s.allot k).coming = none)
    (hfits : data.length ≤ s.genBytes k) (hgrant : s.allotGranted k = true) :
    ((s.copyPiece d k flow data).allot k).coming = some (flow, s.inactiveGen k, 64 + (data.length - 64)) := by
  unfold State.copyPiece
  rw [h]
  extract_lets cur new gen off fits a t bytes b u
  have hf : fits = true := by simp [fits, off, new, cur, hfits, hgrant]
  have hlen : bytes.length = 64 + (data.length - 64) := by simp [bytes, off, new, cur]
  rw [if_pos hf, allot_bufferPut, allot_setAllot, if_pos rfl]
  dsimp only
  rw [if_pos hf, hlen]
  exact congrArg (fun n => some (flow, s.inactiveGen k, n)) (Nat.zero_add _)

/-- Refutes O29: an empty first message of a copy counts as the 64 bytes of its header, which the allotment's host writes
itself, and not as the no bytes that it holds; after reset, allotment 0 is in such a state. -/
theorem not_mirrorsAreCopiedAndRestored : ¬Obligations.MirrorsAreCopiedAndRestored := by
  unfold Obligations.MirrorsAreCopiedAndRestored
  rintro ⟨-, -, hpiece, -⟩
  have hnone : (State.reset.allot 0).coming = none := rfl
  have hgrant : State.reset.allotGranted 0 = true := rfl
  obtain ⟨-, -, -, hcome⟩ := hpiece 0 0 0 [] State.reset hnone
  have h64 := coming_copyPiece (d := 0) (flow := 0) (data := []) hnone (Nat.zero_le _) hgrant
  have h0 := hcome (Nat.zero_le _) hgrant
  simp [h64] at h0

end Sys2Proof.Machine
end

section
/-! What sending over the links leaves alone (R280 to R284, R288): flits, credits, queues and transit buffers. -/

namespace Sys2Proof.Machine

open Sys2Proof

/-- A link without its queues, buffers, credits and times of sending, and without the messages that it has received. -/
def Link.still (x : Link) : Link :=
  { x with queue := [], credits := [], retry := [], txSeq := 0, ackAt := 0, txMsg := [], owed := [], rxUsed := [], paidAt := 0
           txSlot := 0, sentAt := 0, stallAt := [], stallHit := [], inbox := [] }

/-- The optical ports without their links, transit buffers, latest links of flows and outputs. -/
def Optical.still (o : Optical) : Optical := { o with links := [], transit := [], flowLink := [], out := [] }

/-- From `s` to `t`, links have taken, queued and sent messages, and nothing else has happened. -/
structure Sends (s t : State) : Prop where
  only : OpOnly s t
  op : t.op.still = s.op.still
  link : ∀ i, (t.link i).still = (s.link i).still
  out : s.op.out <+: t.op.out

namespace Sends

variable {s t u : State} {c : Prop} [Decidable c]

theorem refl : Sends s s := ⟨OpOnly.refl, rfl, fun _ => rfl, List.prefix_rfl⟩

theorem trans (h : Sends s t) (h' : Sends t u) : Sends s u := by
  obtain ⟨_, rfl⟩ := h.only
  obtain ⟨_, rfl⟩ := h'.only
  exact ⟨⟨_, rfl⟩, h'.op.trans h.op, fun i => (h'.link i).trans (h.link i), h.out.trans h'.out⟩

theorem frame (h : Sends s t) : t = { s with op := t.op } := by
  obtain ⟨_, rfl⟩ := h.only
  rfl

theorem o (h : Sends s t) (k : Nat) : t.o k = s.o k := by
  obtain ⟨_, rfl⟩ := h.only
  rfl

/-- What of a link sending leaves alone is as it was. -/
theorem get {α : Type} (h : Sends s t) (g : Link → α) (i : Nat) (hg : ∀ x : Link, g x.still = g x := by intro; rfl) :
    g (t.link i) = g (s.link i) := by
  rw [← hg, h.link, hg]

/-- The parts of the optical ports that sending changes may change. -/
theorem update {o : Optical} (h : Sends s t) (ho : o.still = t.op.still := by rfl) (hl : o.links = t.op.links := by rfl)
    (hout : t.op.out <+: o.out := by exact List.prefix_rfl) : Sends s { t with op := o } :=
  h.trans ⟨⟨_, rfl⟩, ho, fun i => congrArg (fun ls => (tget {} ls i).still) hl, hout⟩

/-- So may those of a link. -/
theorem setLink {l : Nat} {v : Link} (h : Sends s t) (hv : v.still = (t.link l).still := by rfl) :
    Sends s (t.setLink l v) := by
  refine h.trans ⟨⟨_, rfl⟩, rfl, fun i => ?_, List.prefix_rfl⟩
  rw [link_setLink]
  split
  · subst i; exact hv
  · rfl

theorem ite (ht : Sends s t) (hu : Sends s u) : Sends s (if c then t else u) := by
  split <;> assumption

theorem ite_fst {α : Type} {x y : State × α} (hx : Sends s x.1) (hy : Sends s y.1) : Sends s (if c then x else y).1 := by
  split <;> assumption

theorem foldl {α : Type} {f : State → α → State} {l : List α} (h : Sends s t)
    (hf : ∀ t x, Sends s t → Sends s (f t x)) : Sends s (l.foldl f t) :=
  List.foldlRecOn l f h fun t h x _ => hf t x h

theorem payCredits {l} (h : Sends s t) : Sends s (t.payCredits l).1 := .ite_fst h h.setLink

theorem emitLink {m} (h : Sends s t) : Sends s (t.emitLink m) := h.update (hout := List.prefix_append ..)

theorem emitFlit {l f} (h : Sends s t) : Sends s (t.emitFlit l f) := h.payCredits.setLink.emitLink

theorem emitBare {l kind} (h : Sends s t) : Sends s (t.emitBare l kind) := h.emitFlit

theorem returnLoop {l n} (h : Sends s t) : Sends s (State.returnLoop l n t) := by
  induction n generalizing t with
  | zero => exact h
  | succ n ih => exact .ite h (ih h.emitBare)

theorem returnCredits {l} (h : Sends s t) : Sends s (t.returnCredits l) := .ite h.returnLoop h

theorem oweCredits {l k n} (h : Sends s t) : Sends s (t.oweCredits l k n) := h.setLink.returnCredits

theorem admitTransit {k n} (h : Sends s t) : Sends s (State.admitTransit k n t) := by
  induction n generalizing t with
  | zero => exact h
  | succ n ih =>
    unfold State.admitTransit
    dsimp only
    split
    · exact h
    · exact .ite h (ih h.oweCredits.update)

theorem popTransit {k} (h : Sends s t) : Sends s (t.popTransit k) := h.update.admitTransit

theorem leftTransit {via} (h : Sends s t) : Sends s (t.leftTransit via) := .ite h h.popTransit

theorem pumpClass {l c n} (h : Sends s t) : Sends s (State.pumpClass l c n t) := by
  induction n generalizing t with
  | zero => exact h
  | succ n ih =>
    unfold State.pumpClass
    dsimp only
    split
    · exact h
    · exact .ite h (ih (.ite h.setLink.emitFlit.leftTransit h.setLink.emitFlit))

theorem noteStall {l} (h : Sends s t) : Sends s (t.noteStall l) := h.setLink

theorem pump {l} (h : Sends s t) : Sends s (t.pump l) := (h.foldl fun _ _ h => h.pumpClass).noteStall

theorem transmit {l k m} (h : Sends s t) : Sends s (t.transmit l k m) := h.setLink.pump

theorem sendControl {l kind data} (h : Sends s t) : Sends s (t.sendControl l kind data) := h.transmit

theorem sendAdvert {l adv} (h : Sends s t) : Sends s (t.sendAdvert l adv) := h.foldl fun _ _ h => h.sendControl

theorem sendOn {k m} (h : Sends s t) : Sends s (t.sendOn k m).1 := by
  unfold State.sendOn
  split
  · exact h.leftTransit
  · exact h.update.transmit

theorem doubling (h : Sends s t) : t.op.doubling = s.op.doubling := (congrArg Optical.doubling h.op :)

theorem linkLive (h : Sends s t) (l : Nat) : t.linkLive l = s.linkLive l := by
  have hdis := h.get Link.disabled l
  have hsplit : t.op.split = s.op.split := (congrArg Optical.split h.op :)
  obtain ⟨_, rfl⟩ := h.only
  unfold State.linkLive State.portLinks
  rw [hdis, hsplit]
  rfl

/-- A whole CONTROL message that is taken leaves its place in the receive buffer, and no more. -/
theorem takeControl {l kind data} (h : s.takeControl l kind data = some t) : Sends s t := by
  unfold State.takeControl at h
  dsimp only at h
  split at h
  · split at h
    · cases h; exact refl.setLink.oweCredits
    · cases h
  · cases h

/-- So does a whole DATA message. -/
theorem takeData_eq {l hops hdr data n} (h : s.takeData l hops hdr data = some (t, n)) :
    ∃ v, t = s.setLink l v ∧ v.still = (s.link l).still := by
  unfold State.takeData at h
  dsimp only at h
  split at h
  · split at h
    · cases h; exact ⟨_, rfl, rfl⟩
    · cases h
  · cases h

theorem takeData {l hops hdr data n} (h : s.takeData l hops hdr data = some (t, n)) : Sends s t := by
  obtain ⟨v, rfl, hv⟩ := takeData_eq h
  exact refl.setLink hv

end Sends

end Sys2Proof.Machine
end

section
/-! What the changes of a link's state leave alone, and the state that they lead to (R286, R287, R290 to R292, R296). -/

namespace Sys2Proof.Machine

open Sys2Proof

/-- What a link keeps when it enters another state. -/
def Link.lasting (x : Link) : Link :=
  { light := x.light, disabled := x.disabled, downAt := x.downAt, hold := x.hold, trainFails := x.trainFails
    authTimeouts := x.authTimeouts, lanes := x.lanes, narrow := x.narrow, totals := x.totals, doubling := x.doubling }

/-- What it keeps even on its way through LIGHT, where it takes its full width and a retry hold. -/
def Link.steady (x : Link) : Link := { x.lasting with hold := 0, narrow := 0 }

/-- From `s` to `t`, links have changed their states: `n` error records have been written, and what `f` says of a link is as
it was. -/
structure Moves {α : Type} (f : Link → α) (n : Nat) (s t : State) : Prop where
  only : ∃ d ob op e m h, t = { s with draws := d, objs := ob, op := op, errs := e, mon := m, host := h }
  seq : t.errs.seq = s.errs.seq + n
  split : t.op.split = s.op.split
  link : ∀ i, f (t.link i) = f (s.link i)
  out : s.op.out <+: t.op.out

theorem Sends.moves {s t : State} (h : Sends s t) : Moves Link.lasting 0 s t := by
  obtain ⟨_, rfl⟩ := h.only
  exact ⟨⟨_, _, _, _, _, _, rfl⟩, rfl, (congrArg Optical.split h.op :), fun i => (congrArg Link.lasting (h.link i) :),
    h.out⟩

namespace Moves

variable {α : Type} {f : Link → α} {n : Nat} {s t u : State} {c : Prop} [Decidable c]

theorem refl : Moves f 0 s s := ⟨⟨_, _, _, _, _, _, rfl⟩, rfl, rfl, fun _ => rfl, List.prefix_rfl⟩

theorem trans {m : Nat} (h : Moves f n s t) (h' : Moves f m t u) : Moves f (n + m) s u := by
  refine ⟨?_, by rw [h'.seq, h.seq, Nat.add_assoc], h'.split.trans h.split, fun i => (h'.link i).trans (h.link i),
    h.out.trans h'.out⟩
  obtain ⟨_, _, _, _, _, _, rfl⟩ := h.only
  obtain ⟨_, _, _, _, _, _, rfl⟩ := h'.only
  exact ⟨_, _, _, _, _, _, rfl⟩

/-- What `f` says of the links includes what `g` says of that. -/
theorem map {β : Type} (g : α → β) (h : Moves f n s t) : Moves (fun x => g (f x)) n s t :=
  ⟨h.only, h.seq, h.split, fun i => congrArg g (h.link i), h.out⟩

theorem totals (h : Moves Link.lasting n s t) : Moves Link.totals n s t := h.map Link.totals

theorem steady (h : Moves Link.lasting n s t) : Moves Link.steady n s t := h.map fun x => { x with hold := 0, narrow := 0 }

theorem ite (ht : Moves f n s t) (hu : Moves f n s u) : Moves f n s (if c then t else u) := by
  split <;> assumption

theorem foldl {β : Type} {g : State → β → State} {l : List β} (h : Moves f n s t)
    (hg : ∀ t x, Moves f n s t → Moves f n s (g t x)) : Moves f n s (l.foldl g t) :=
  List.foldlRecOn l g h fun t h x _ => hg t x h

theorem sends (h : Moves Link.lasting n s t) (h' : Sends t u) : Moves Link.lasting n s u := h.trans h'.moves

theorem setO {k v} (h : Moves f n s t) : Moves f n s (t.setO k v) :=
  h.trans (m := 0) ⟨⟨_, _, _, _, _, _, rfl⟩, rfl, rfl, fun _ => rfl, List.prefix_rfl⟩

theorem setLink {l : Nat} {v : Link} (h : Moves f n s t) (hv : f v = f (t.link l) := by rfl) :
    Moves f n s (t.setLink l v) := by
  refine h.trans (m := 0) ⟨⟨_, _, _, _, _, _, rfl⟩, rfl, rfl, fun i => ?_, List.prefix_rfl⟩
  rw [link_setLink]
  split
  · subst i; exact hv
  · rfl

/-- What of the optical ports is neither their links nor their split nor their outputs may change. -/
theorem update {o : Optical} (h : Moves f n s t) (hl : o.links = t.op.links := by rfl)
    (hs : o.split = t.op.split := by rfl) (ho : o.out = t.op.out := by rfl) : Moves f n s { t with op := o } :=
  h.trans (m := 0) ⟨⟨_, _, _, _, _, _, rfl⟩, rfl, hs, fun i => congrArg (fun ls => f (tget {} ls i)) hl,
    ho ▸ List.prefix_rfl⟩

theorem draw {d : Nat} (h : Moves f n s t) : Moves f n s { t with draws := d } :=
  h.trans (m := 0) ⟨⟨_, _, _, _, _, _, rfl⟩, rfl, rfl, fun _ => rfl, List.prefix_rfl⟩

theorem errRec {r} (h : Moves f n s t) : Moves f (n + 1) s (t.errRec r) :=
  h.trans ⟨⟨_, _, _, _, _, _, errRec_frame t r⟩, errRec_seq .., by rw [errRec_op], fun i => by rw [errRec_link],
    by rw [errRec_op]⟩

theorem emitLink {m} (h : Moves f n s t) : Moves f n s (t.emitLink m) :=
  h.trans (m := 0) ⟨⟨_, _, _, _, _, _, rfl⟩, rfl, rfl, fun _ => rfl, List.prefix_append ..⟩

theorem setRoutes {rs gone} (h : Moves f n s t) : Moves f n s (t.setRoutes rs gone) :=
  Moves.setO h.update

theorem settleDoubling {node} (h : Moves f n s t) : Moves f n s (t.settleDoubling node) := by
  unfold State.settleDoubling
  split
  · exact h
  · exact .ite h.update h

theorem leaveActive {l} (h : Moves f n s t) : Moves f n s (t.leaveActive l) :=
  .ite h h.settleDoubling.update

theorem route1 {k m} (h : Moves Link.lasting n s t) : Moves Link.lasting n s (t.route1 k m).1 := by
  unfold State.route1
  dsimp only
  split
  · exact h.update
  · split
    · exact h.sends Sends.refl.sendOn
    · split
      · exact h.update
      · exact h.sends Sends.refl.sendOn

theorem releaseFlow {q} (h : Moves Link.lasting n s t) : Moves Link.lasting n s (t.releaseFlow q) :=
  h.update.foldl fun _ _ h => h.sends Sends.refl.sendOn

theorem linkDown {l} (h : Moves Link.lasting n s t) : Moves Link.lasting n s (t.linkDown l) := by
  unfold State.linkDown
  refine .ite h.setLink ?_
  extract_lets q s1 s2 s3 s4 s5
  have h3 : Moves Link.lasting n s s3 := (Moves.setLink (.ite h.leaveActive h)).setRoutes
  have h4 : Moves Link.lasting n s s4 := h3.foldl fun _ _ h => h.sends Sends.refl.leftTransit
  have h5 : Moves Link.lasting n s s5 := h4.foldl fun _ _ h => h.route1
  exact h5.foldl fun _ _ h => h.releaseFlow

theorem linkTo {l st} (h : Moves Link.lasting n s t) : Moves Link.lasting n s (t.linkTo l st) := by
  unfold State.linkTo
  extract_lets up s1 s2 src s3
  have h3 : Moves Link.lasting n s s3 := (Moves.ite h h.linkDown.setO).setO.setLink
  exact .ite h3.setO (.ite h3 h3.setO.setO)

theorem endTurn {l} (h : Moves Link.lasting n s t) : Moves Link.lasting n s (t.endTurn l) := h.setLink

theorem grantTurn (h : Moves Link.lasting n s t) : Moves Link.lasting n s t.grantTurn := by
  unfold State.grantTurn
  refine .ite h ?_
  dsimp only
  split
  · exact h
  · exact .ite (h.setLink.draw.sends Sends.refl.sendControl) h.setLink.draw

theorem train {l} (h : Moves Link.lasting n s t) : Moves Link.lasting n s (t.train l) := h.endTurn.linkTo.grantTurn

theorem toLight {l hold} (h : Moves Link.steady n s t) : Moves Link.steady n s (t.toLight l hold) := by
  have hlight : Moves Link.steady n s ((t.endTurn l).linkTo l lkLIGHT) := h.trans refl.endTurn.linkTo.steady
  unfold State.toLight
  extract_lets s1 x h' s2
  have h2 : Moves Link.steady n s s2 := hlight.setLink
  exact .ite (h2.trans refl.train.steady) (h2.trans refl.grantTurn.steady)

/-- What of a link the change leaves alone is as it was. -/
theorem get {β : Type} {f : Link → Link} (h : Moves f n s t) (g : Link → β) (i : Nat)
    (hg : ∀ x, g (f x) = g x := by intro; rfl) : g (t.link i) = g (s.link i) := by
  rw [← hg, h.link, hg]

theorem ns (h : Moves f n s t) : t.ns = s.ns := by
  obtain ⟨_, _, _, _, _, _, rfl⟩ := h.only
  rfl

theorem mesh (h : Moves f n s t) : t.mesh = s.mesh := by
  obtain ⟨_, _, _, _, _, _, rfl⟩ := h.only
  rfl

theorem pend (h : Moves f n s t) : t.pend = s.pend := by
  obtain ⟨_, _, _, _, _, _, rfl⟩ := h.only
  rfl

end Moves

variable (s : State) (l : Nat)

theorem link_setLink_same (v : Link) : (s.setLink l v).link l = v := (link_setLink ..).trans (if_pos rfl)

/-- A link's objects are not the number of routes (R402). -/
theorem linkKey_ne_routeCount {a : Nat} (h : 0x381000 ≤ a) : a + 256 * l ≠ kOP_ROUTE_COUNT := by
  unfold kOP_ROUTE_COUNT
  omega

/-! The objects of a link (R298). -/

/-- Granting a turn changes no object. -/
theorem o_grantTurn (k : Nat) : s.grantTurn.o k = s.o k := by
  unfold State.grantTurn
  split
  · rfl
  · dsimp only
    split
    · rfl
    · split
      · exact Sends.refl.sendControl.o k
      · rfl

theorem o_leaveActive (k : Nat) : (s.leaveActive l).o k = s.o k := by
  unfold State.leaveActive State.settleDoubling
  dsimp only
  repeat' split
  all_goals rfl

theorem o_setRoutes (rs : List Route) (gone : List Nat) {k : Nat} (hk : k ≠ kOP_ROUTE_COUNT) :
    (s.setRoutes rs gone).o k = s.o k :=
  (o_setO ..).trans (if_neg hk)

theorem o_errRec {r : ErrRec} (hr : r.cls ≠ 3) (k : Nat) : (s.errRec r).o k = s.o k :=
  congrArg (fun t => tget (objDefault k) t k) (errRec_objs s r hr)

@[simp] theorem lkState_linkTo (st : Nat) : (s.linkTo l st).lkState l = st := by
  unfold State.linkTo
  dsimp only
  repeat' split
  all_goals simp [State.lkState]

/-- A link that is ABSENT, LIGHT or TRAINING has no partner. -/
theorem peer_linkTo_dark {st : Nat} (h : st < lkAUTH) : (s.linkTo l st).o (kOP_PEER_NODE l) = 0 := by
  have hst : st = lkABSENT ∨ st = lkLIGHT ∨ st = lkTRAINING := by change st < 3 at h; change st = 0 ∨ st = 1 ∨ st = 2; omega
  obtain rfl | rfl | rfl := hst <;> simp [State.linkTo]

/-- One that becomes ACTIVE or DEGRADED keeps its objects other than OP_LINK_STATE. -/
theorem o_linkTo_up {st k : Nat} (h : st = lkACTIVE ∨ st = lkDEGRADED) (hk : k ≠ kOP_LINK_STATE l) :
    (s.linkTo l st).o k = s.o k := by
  obtain rfl | rfl := h <;> simp [State.linkTo, hk]

theorem lanes_linkTo_auth : (s.linkTo l lkAUTH).o (kOP_LINK_LANES l) = (s.link l).lanes := by
  have hkept : ((s.linkDown l).link l).lanes = (s.link l).lanes := Moves.refl.linkDown.get Link.lanes l
  simpa [State.linkTo] using hkept

@[simp] theorem lkState_grantTurn : s.grantTurn.lkState l = s.lkState l := o_grantTurn s _

@[simp] theorem lkState_setLink (v : Link) (i : Nat) : (s.setLink i v).lkState l = s.lkState l := rfl

@[simp] theorem lkState_train : (s.train l).lkState l = lkTRAINING := by simp [State.train]

/-- A link enters LIGHT until its hold ends, and trains at once without one. -/
theorem lkState_toLight (hold : Nat) :
    (s.toLight l hold).lkState l = if max (s.link l).hold (s.ns + hold) ≤ s.ns then lkTRAINING else lkLIGHT := by
  have hmoves : Moves Link.lasting 0 s ((s.endTurn l).linkTo l lkLIGHT) := Moves.refl.endTurn.linkTo
  have hhold : (((s.endTurn l).linkTo l lkLIGHT).link l).hold = (s.link l).hold := hmoves.get Link.hold l
  unfold State.toLight
  extract_lets s1 x h s2
  have hh : h = max (s.link l).hold (s.ns + hold) := congrArg₂ (fun a b => max a (b + hold)) hhold hmoves.ns
  have hns : s2.ns = s.ns := hmoves.ns
  rw [hh, hns]
  split
  · exact lkState_train ..
  · exact (lkState_grantTurn ..).trans (lkState_linkTo ..)

theorem lkState_toLight_zero :
    (s.toLight l 0).lkState l = if (s.link l).hold ≤ s.ns then lkTRAINING else lkLIGHT := by
  rw [lkState_toLight]
  simp

/-- With a retry hold to come it stays in LIGHT. -/
theorem lkState_toLight_held {hold : Nat} (h : 0 < hold) : (s.toLight l hold).lkState l = lkLIGHT := by
  rw [lkState_toLight, if_neg (by omega)]

theorem seq_toLight (hold : Nat) : (s.toLight l hold).errs.seq = s.errs.seq := Moves.refl.toLight.seq

/-- A failure of the training is counted, and holds the link in LIGHT. -/
theorem trainFail_spec : (s.trainFail l).lkState l = lkLIGHT ∧
    ((s.trainFail l).link l).trainFails = (s.link l).trainFails + 1 := by
  refine ⟨lkState_toLight_held _ _ (by split <;> decide), ?_⟩
  rw [State.trainFail, Moves.refl.toLight.get Link.trainFails, link_setLink_same]

/-! The dark, quarantines, and the proven link. -/

theorem lkState_toAbsent : (s.toAbsent l).lkState l = lkABSENT := by simp [State.toAbsent]

theorem peer_toAbsent : (s.toAbsent l).o (kOP_PEER_NODE l) = 0 :=
  (o_grantTurn ..).trans (peer_linkTo_dark _ l (by decide))

theorem light_toAbsent : ((s.toAbsent l).link l).light = false := by
  rw [State.toAbsent, Moves.refl.grantTurn.get Link.light, link_setLink_same]

/-- A link that goes dark stays disabled or enabled, and in its shut-down if it is in one. -/
theorem moves_toAbsent : Moves (fun x => (x.disabled, x.downAt)) 0 s (s.toAbsent l) :=
  have hdark : Moves (fun x => (x.disabled, x.downAt)) 0 s ((s.endTurn l).linkTo l lkABSENT) :=
    Moves.refl.endTurn.linkTo.map fun x => (x.disabled, x.downAt)
  hdark.setLink.trans (Moves.refl.grantTurn.map fun x => (x.disabled, x.downAt))

variable (cause node : Nat)

theorem lkState_quarantine : (s.quarantine l cause node).lkState l = lkQUARANTINED := by
  unfold State.quarantine
  extract_lets s1 x n s2 src s3
  have h2 : s2.lkState l = lkQUARANTINED := lkState_linkTo ..
  have h3 : s3.lkState l = lkQUARANTINED := by dsimp only [s3]; split <;> exact h2
  rw [lkState_grantTurn, State.lkState, o_errRec _ (by simp)]
  simpa [State.lkState] using h3

theorem cause_quarantine : (s.quarantine l cause node).o (kOP_LINK_CAUSE l) = cause := by
  unfold State.quarantine
  extract_lets s1 x n s2 src s3
  rw [o_grantTurn, o_errRec _ (by simp), o_setO, if_pos rfl]

/-- A quarantine writes one record, and counts nothing. -/
theorem moves_quarantine : Moves Link.totals 1 s (s.quarantine l cause node) := by
  unfold State.quarantine
  extract_lets s1 x n s2 src s3
  have h1 : Moves Link.totals 0 s s1 := Moves.refl.settleDoubling.endTurn.linkTo.totals
  have h2 : Moves Link.totals 0 s s2 := h1.setLink
  have h3 : Moves Link.totals 0 s s3 := .ite h2 (h2.update)
  exact h3.setO.errRec.trans Moves.refl.grantTurn.totals

theorem quarantineProven_spec : let t := s.quarantineProven l cause node
    t.lkState l = lkQUARANTINED ∧ t.o (kOP_LINK_CAUSE l) = cause ∧ t.o (kOP_PEER_NODE l) = node ∧
      t.errs.seq = s.errs.seq + 1 := by
  refine ⟨?_, ?_, ?_, (moves_quarantine s l cause node).seq⟩
  · simpa [State.quarantineProven, State.lkState] using lkState_quarantine s l cause node
  · simpa [State.quarantineProven] using cause_quarantine s l cause node
  · simp [State.quarantineProven]

/-- An ACTIVE link that is degraded keeps its partner. -/
theorem degrade_spec (h : s.lkState l = lkACTIVE) : let t := s.degrade l cause
    t.lkState l = lkDEGRADED ∧ t.o (kOP_PEER_NODE l) = s.o (kOP_PEER_NODE l) := by
  unfold State.degrade
  rw [if_neg (by simp [h])]
  extract_lets s1 src s2 s3 cost
  have h3 (k : Nat) (hk : k ≠ kOP_LINK_CAUSE l) : s3.o k = s1.o k := by simp [s3, s2, o_errRec, hk]
  have h1 : s1.o (kOP_PEER_NODE l) = s.o (kOP_PEER_NODE l) :=
    (o_linkTo_up _ l (.inr rfl) (key_ne (by decide))).trans (o_leaveActive ..)
  refine ⟨?_, ?_⟩
  · exact (o_setRoutes _ _ _ (linkKey_ne_routeCount l (by decide))).trans ((h3 _ (key_ne (by decide))).trans (lkState_linkTo ..))
  · exact (o_setRoutes _ _ _ (linkKey_ne_routeCount l (by decide))).trans ((h3 _ (key_ne (by decide))).trans h1)

theorem o_addVia (v : Via) {k : Nat} (hk : k ≠ kOP_ROUTE_COUNT) : (s.addVia node v).o k = s.o k := by
  unfold State.addVia
  dsimp only
  split
  · exact o_setRoutes _ _ _ hk
  · split
    · split
      · exact o_errRec _ (by simp) k
      · rfl
    · exact o_setRoutes _ _ _ hk

/-- A proven link is ACTIVE, or DEGRADED while it is narrowed, and shows its partner. -/
theorem activate_spec : (s.activate l).o (kOP_PEER_NODE l) = (s.link l).node ∧
    (s.activate l).lkState l = if (s.link l).narrow = 0 then lkACTIVE else lkDEGRADED := by
  unfold State.activate
  extract_lets x s1 s2 s3 src s4 s5
  have h4 (k : Nat) : s4.o k = s3.o k := by dsimp only [s4]; split <;> rfl
  have h5 (k : Nat) (hk : k ≠ kOP_ROUTE_COUNT) : s5.o k = s3.o k := (o_addVia s4 _ _ hk).trans (h4 k)
  have hstate : s5.lkState l = lkACTIVE := by
    rw [State.lkState, h5 _ (linkKey_ne_routeCount l (by decide))]
    simpa [s3, State.lkState] using lkState_linkTo (s1.endTurn l) l lkACTIVE
  have hpeer : s5.o (kOP_PEER_NODE l) = x.node := by
    rw [h5 _ (linkKey_ne_routeCount l (by decide))]
    simp [s3]
  rw [o_grantTurn, lkState_grantTurn]
  split
  · exact ⟨hpeer, hstate⟩
  · obtain ⟨hdeg, hkept⟩ := degrade_spec s5 l ctNARROW hstate
    exact ⟨hkept.trans hpeer, hdeg⟩

end Sys2Proof.Machine
end

section
/-! Training and authentication (R285 to R288, R290). -/

namespace Sys2Proof.Machine

open Sys2Proof

variable {s w : State} {l : Nat}

/-! Training. -/

/-- Training at the expected width leads on to the authentication if the levels agree, and to LIGHT and a record if not. -/
theorem trainingComplete_expected {lanes : Nat} {bamen : BitVec 64} (hlive : s.linkLive l = true)
    (hst : s.lkState l = lkTRAINING)
    (htime : s.ns ≤ (s.link l).since + 500000000)
    (hw : lanes = (if (s.link l).narrow = 0 then s.linkWidth l else (s.link l).narrow)) :
    (levelsAgree (levelEntry (s.imageLevels 4) 0x10) (levelEntry [bamen] 0x10) = true →
      ∃ t, execTrainingComplete l lanes bamen s = .next t ∧ t.lkState l = lkAUTH ∧ (t.link l).lanes = lanes ∧
        t.o (kOP_LINK_LANES l) = lanes ∧ (t.link l).trainFails = 0) ∧
    (levelsAgree (levelEntry (s.imageLevels 4) 0x10) (levelEntry [bamen] 0x10) = false →
      ∃ t, execTrainingComplete l lanes bamen s = .next t ∧ t.lkState l = lkLIGHT ∧ t.errs.seq = s.errs.seq + 1) := by
  unfold execTrainingComplete
  extract_lets x src s1 s2
  rw [if_neg (by simp [hlive, hst, x]; omega), if_neg (by simpa using hw)]
  have himage : s1.imageLevels 4 = s.imageLevels 4 := rfl
  rw [himage]
  constructor
  · intro hlevels
    rw [if_neg (by simp [hlevels])]
    have h1 : s1.link l = { x.clear with trainFails := 0, lanes := lanes } := link_setLink_same ..
    have hturn : Moves Link.lasting 0 s1 s2 := Moves.refl.endTurn.linkTo
    have hlanes : s2.o (kOP_LINK_LANES l) = lanes := by
      rw [lanes_linkTo_auth, Moves.refl.endTurn.get Link.lanes, h1]
    have hkept := (hturn.setLink (l := l) (v := { s2.link l with
        credits := (upto 9).foldl (fun t h => tset 0 t h (s2.classCredit l h)) [] })).grantTurn
    refine ⟨_, rfl, ?_, ?_, ?_, ?_⟩
    · exact (lkState_grantTurn ..).trans (lkState_linkTo ..)
    · rw [hkept.get Link.lanes, h1]
    · exact (o_grantTurn ..).trans hlanes
    · rw [hkept.get Link.trainFails, h1]
  · intro hlevels
    rw [if_pos (by simp [hlevels])]
    exact ⟨_, rfl, lkState_toLight_held _ l (by norm_num), (seq_toLight ..).trans (errRec_seq ..)⟩

/-- The fourth timeout in a row quarantines the link; an earlier one is counted and leads to LIGHT. -/
theorem authTimeout_due (hlive : s.linkLive l = true) (hst : s.lkState l = lkAUTH) (hturn : (s.link l).turnAt ≠ 0)
    (htime : (s.link l).turnAt - 1 + 2000000000 ≤ s.ns) :
    (3 ≤ (s.link l).authTimeouts → ∃ t, execAuthTimeout l s = .next t ∧ t.lkState l = lkQUARANTINED ∧
      t.o (kOP_LINK_CAUSE l) = ctAUTH_TIMEOUT) ∧
    ((s.link l).authTimeouts < 3 → ∃ t, execAuthTimeout l s = .next t ∧
      (t.link l).authTimeouts = (s.link l).authTimeouts + 1 ∧
      t.lkState l = (if (s.link l).hold ≤ s.ns then lkTRAINING else lkLIGHT)) := by
  unfold execAuthTimeout
  extract_lets x n s1
  rw [if_neg (by simp [hlive, hst, x, hturn]; omega)]
  constructor
  · intro h
    rw [if_pos (show 4 ≤ (s.link l).authTimeouts + 1 by omega)]
    exact ⟨_, rfl, lkState_quarantine .., cause_quarantine ..⟩
  · intro h
    have hn : ¬4 ≤ n := show ¬4 ≤ (s.link l).authTimeouts + 1 by omega
    rw [if_neg hn]
    have h1 : (s1.link l).authTimeouts = n ∧ (s1.link l).hold = x.hold := by
      simp [s1, State.noteEvent, hn]
    refine ⟨_, rfl, ?_, ?_⟩
    · rw [Moves.refl.toLight.get Link.authTimeouts, h1.1]
    · rw [lkState_toLight_zero, h1.2]
      rfl

/-! The steps of the authentication (R287). -/

/-- A step that has been taken leads to the next one. -/
theorem authAt_next {u : State} {j k : Nat} (hu : u = { s with op := u.op, draws := u.draws })
    (hsplit : u.op.split = s.op.split)
    (h : s.authAt l j = true) (hdis : (u.link l).disabled = (s.link l).disabled)
      (hturn : (u.link l).turnAt = (s.link l).turnAt)
    (hk : (u.link l).authStep = k) : u.authAt l k = true := by
  have hlive : u.linkLive l = s.linkLive l := by
    unfold State.linkLive State.portLinks
    rw [hdis, hsplit, hu]
    rfl
  have hstate : u.lkState l = s.lkState l := by rw [hu]; rfl
  have hns : u.ns = s.ns := by rw [hu]
  unfold State.authAt at h ⊢
  rw [hlive, hstate, hns, hturn, hk]
  simp only [Bool.and_eq_true, beq_iff_eq] at h ⊢
  obtain ⟨⟨⟨⟨hl, hs⟩, ht⟩, -⟩, htime⟩ := h
  exact ⟨⟨⟨⟨hl, hs⟩, ht⟩, trivial⟩, htime⟩

/-- The message of a step having been taken, the link notes what it says and goes on to step `k`. -/
theorem authAt_setLink {j k d : Nat} {v : Link} (hw : Sends s w) (h : s.authAt l j = true)
    (hdis : v.disabled = (w.link l).disabled) (hturn : v.turnAt = (w.link l).turnAt) (hk : v.authStep = k) :
    ({ w with draws := d }.setLink l v).authAt l k = true := by
  have hv := link_setLink_same { w with draws := d } l v
  refine authAt_next ?_ (congrArg Optical.split hw.op :) h ?_ ?_ ?_
  · obtain ⟨_, rfl⟩ := hw.only
    rfl
  · rw [hv, hdis, hw.get Link.disabled]
  · rw [hv, hturn, hw.get Link.turnAt]
  · rw [hv, hk]

theorem hello_taken {node fabric : Nat} {enc : Bool} {nonce : BitVec 256} (hauth : s.authAt l 0 = true)
    (htake : s.takeControl l 0x10 (helloData node fabric enc nonce) = some w) :
    (node ≠ ownNode → ∃ u : State, execHello l node fabric enc nonce s
        = .next (u.sendControl l 0x10 (certData identityChain)) ∧ (u.link l).node = node ∧ (u.link l).fabric = fabric ∧
      (u.link l).nonce = nonce ∧ u.authAt l 1 = true ∧ u = { s with op := u.op }) ∧
    (node = ownNode → ∃ t, execHello l node fabric enc nonce s = .next t ∧ t.lkState l = lkLIGHT ∧
      t.errs.seq = s.errs.seq + 1) := by
  have hw := Sends.takeControl htake
  unfold execHello
  rw [if_pos hauth, htake]
  dsimp only
  constructor
  · intro hnode
    rw [if_neg hnode]
    refine ⟨_, rfl, ?_⟩
    rw [link_setLink_same]
    refine ⟨rfl, rfl, rfl, authAt_setLink (d := w.draws) hw hauth rfl rfl rfl, ?_⟩
    obtain ⟨_, rfl⟩ := hw.only
    rfl
  · intro hnode
    rw [if_pos hnode]
    have hseq : w.errs.seq = s.errs.seq := hw.moves.seq
    exact ⟨_, rfl, lkState_toLight_held _ l (by norm_num), by rw [seq_toLight, errRec_seq, hseq]⟩

/-- A link whose partner fails the authentication is quarantined, with one record. -/
theorem authFail_quarantines (hw : Sends s w) : let t := (w.noteEvent l ctAUTH_FAIL).quarantine l ctAUTH_FAIL 0
    t.lkState l = lkQUARANTINED ∧ t.o (kOP_LINK_CAUSE l) = ctAUTH_FAIL ∧ t.errs.seq = s.errs.seq + 1 :=
  ⟨lkState_quarantine .., cause_quarantine .., (moves_quarantine ..).seq.trans (congrArg (· + 1) hw.moves.seq)⟩

theorem cert_taken {device issuers : List Byte} (hauth : s.authAt l 1 = true)
    (htake : s.takeControl l 0x10 (certData (device ++ issuers)) = some w) :
    (Config.chainOk Config.rootKey (device ++ issuers) = true →
      keyNode (Config.chainKey (device ++ issuers)) = (s.link l).node →
      ∃ (u : State) (m : ProofMsg), execCert l device issuers s = .next (u.sendControl l 0x10 (proofData m)) ∧
        m.sig = (upto 384).map (fun i => Config.attSign s.draws (u.link l).transcript i) ∧
        (u.link l).peerChain = device ++ issuers ∧ u.authAt l 2 = true ∧ u = { s with op := u.op, draws := u.draws }) ∧
    (Config.chainOk Config.rootKey (device ++ issuers) = false ∨
      keyNode (Config.chainKey (device ++ issuers)) ≠ (s.link l).node →
      ∃ t, execCert l device issuers s = .next t ∧ t.lkState l = lkQUARANTINED ∧ t.o (kOP_LINK_CAUSE l) = ctAUTH_FAIL ∧
        t.errs.seq = s.errs.seq + 1) := by
  have hw := Sends.takeControl htake
  have hnode := hw.get Link.node l
  unfold execCert
  extract_lets chain
  rw [if_pos hauth, htake]
  dsimp only
  constructor
  · intro hchain hkey
    rw [if_neg (by simp [chain, hchain, hkey, hnode])]
    have hdraws : w.draws = s.draws := (congrArg State.draws hw.frame :)
    refine ⟨_, _, rfl, ?_⟩
    rw [link_setLink_same, hdraws]
    refine ⟨by dsimp only, by dsimp only, authAt_setLink hw hauth rfl rfl rfl, ?_⟩
    obtain ⟨_, rfl⟩ := hw.only
    rfl
  · intro hbad
    rw [if_pos (by simpa [chain, hnode] using hbad)]
    exact ⟨_, rfl, authFail_quarantines hw⟩

theorem proof_taken {m : ProofMsg} (hauth : s.authAt l 2 = true) (htake : s.takeControl l 0x10 (proofData m) = some w) :
    let good := Config.pssVerify (Config.chainKey (s.link l).peerChain) (s.link l).transcript m.sig
    (∀ k, good = true → Config.oaepOpen m.share = some k →
      ∃ u : State, execProof l m s = .next (u.sendControl l 0x10 confirmData) ∧ (u.link l).peerShare = k ∧
        (u.link l).txKey = (u.link l).linkKey ownNode (s.link l).node ∧
          (u.link l).rxKey = (u.link l).linkKey (s.link l).node ownNode ∧
        (u.link l).txKeyed = true ∧ u.authAt l 3 = true ∧ u = { s with op := u.op }) ∧
    (good = false ∨ Config.oaepOpen m.share = none →
      ∃ t, execProof l m s = .next t ∧ t.lkState l = lkQUARANTINED ∧ t.o (kOP_LINK_CAUSE l) = ctAUTH_FAIL ∧
        t.errs.seq = s.errs.seq + 1) := by
  intro good
  have hw := Sends.takeControl htake
  have hgood : Config.pssVerify (Config.chainKey (w.link l).peerChain) (w.link l).transcript m.sig = good := by
    rw [hw.get Link.peerChain l, hw.get Link.transcript l]
  unfold execProof
  rw [if_pos hauth, htake]
  dsimp only
  rw [hgood]
  constructor
  · intro k hk hshare
    rw [if_pos hk, hshare]
    refine ⟨_, rfl, ?_⟩
    rw [link_setLink_same, hw.get Link.node l]
    refine ⟨rfl, rfl, rfl, rfl, authAt_setLink (d := w.draws) hw hauth rfl rfl rfl, ?_⟩
    obtain ⟨_, rfl⟩ := hw.only
    rfl
  · intro hbad
    have hnone : (if good = true then Config.oaepOpen m.share else none) = none := by
      obtain h | h := hbad <;> simp [h]
    rw [hnone]
    exact ⟨_, rfl, authFail_quarantines hw⟩

theorem confirm_taken (hauth : s.authAt l 3 = true) (htake : s.takeControl l 0x10 confirmData = some w) :
    (s.permitted (s.link l).node (s.link l).fabric = true →
      ∃ t, execConfirm l confirmData s = .next t ∧ t.o (kOP_PEER_NODE l) = (s.link l).node ∧
        t.lkState l = (if (s.link l).narrow = 0 then lkACTIVE else lkDEGRADED)) ∧
    (s.permitted (s.link l).node (s.link l).fabric = false →
      ∃ t, execConfirm l confirmData s = .next t ∧ t.o (kOP_PEER_NODE l) = (s.link l).node ∧ t.lkState l = lkQUARANTINED ∧
        t.o (kOP_LINK_CAUSE l) = ctNOT_PERMITTED ∧ t.errs.seq = s.errs.seq + 1) := by
  have hw := Sends.takeControl htake
  have hnode := hw.get Link.node l
  have hperm : w.permitted (w.link l).node (w.link l).fabric = s.permitted (s.link l).node (s.link l).fabric := by
    rw [hnode, hw.get Link.fabric l]
    obtain ⟨_, rfl⟩ := hw.only
    rfl
  unfold execConfirm
  rw [if_pos (by simp [hauth]), htake]
  dsimp only
  rw [hperm]
  constructor
  · intro h
    obtain ⟨hpeer, hstate⟩ := activate_spec w l
    rw [hw.get Link.narrow l] at hstate
    rw [if_neg (by simp [h])]
    exact ⟨_, rfl, hpeer.trans hnode, hstate⟩
  · intro h
    obtain ⟨hstate, hcause, hpeer, hseq⟩ := quarantineProven_spec (w.noteEvent l ctNOT_PERMITTED) l ctNOT_PERMITTED (w.link l).node
    rw [if_pos (by simp [h])]
    exact ⟨_, rfl, hpeer.trans hnode, hstate, hcause, hseq.trans (congrArg (· + 1) hw.moves.seq)⟩

/-- Settles O30: each command by its lemma, or by the lemma about the state that it leads to. -/
theorem linksTrainAndAuthenticate : Obligations.LinksTrainAndAuthenticate := by
  unfold Obligations.LinksTrainAndAuthenticate
  refine ⟨?_, ?_, ?_, ?_, ?_, ?_, ?_, ?_, ?_, ?_⟩
  · intro l s hlive hst
    refine ⟨_, if_neg (by simp [hlive, hst]), ?_, ?_⟩
    · rw [Moves.refl.toLight.get Link.light, link_setLink_same]
    · rw [lkState_toLight_zero, link_setLink_same]
      rfl
  · intro l s hl hst
    exact ⟨_, if_neg (by simp [hl, hst]), lkState_toAbsent s l, light_toAbsent s l, peer_toAbsent s l⟩
  · intro l s hlive hst hhold
    exact ⟨_, if_neg (by simp [hlive, hst, hhold]), lkState_train s l⟩
  · intro l lanes bamen s hlive hst htime
    refine ⟨trainingComplete_expected hlive hst htime, fun hwidth => ⟨s.trainFail l, ?_, trainFail_spec s l⟩⟩
    show execTrainingComplete l lanes bamen s = _
    unfold execTrainingComplete
    rw [if_neg (by simp [hlive, hst]; omega), if_pos hwidth]
  · intro l s hlive hst htime
    exact ⟨_, if_neg (by simp [hlive, hst, htime]), trainFail_spec s l⟩
  · intro l node fabric enc nonce s
    refine ⟨fun hnone => ?_, fun w => hello_taken⟩
    show execHello l node fabric enc nonce s = _
    unfold execHello
    rw [hnone, ite_self]
  · intro l device issuers s
    refine ⟨fun hnone => ?_, fun w => cert_taken⟩
    show execCert l device issuers s = _
    unfold execCert
    dsimp only
    rw [hnone, ite_self]
  · intro l m s
    refine ⟨fun hnone => ?_, fun w => proof_taken⟩
    show execProof l m s = _
    unfold execProof
    rw [hnone, ite_self]
  · intro l m s
    refine ⟨fun hnone => ?_, ?_⟩
    · show execConfirm l m s = _
      have htake : (if s.authAt l 3 && m == confirmData then s.takeControl l 0x10 m else none) = none := by
        obtain h | h := hnone <;> simp [h]
      unfold execConfirm
      rw [htake]
    · rintro w rfl
      exact confirm_taken
  · intro l s
    exact authTimeout_due

end Sys2Proof.Machine
end

section
/-! Recovery, keys and the control of links (R288, R291 to R293, R455, R456). -/

namespace Sys2Proof.Machine

open Sys2Proof

variable {s : State} {l : Nat}

/-! The doubling counts of quarantines (R292). -/

theorem doubling_linkTo {st : Nat} (h : s.linkUp l = false) : (s.linkTo l st).op.doubling = s.op.doubling := by
  have hdown : (s.linkDown l).op.doubling = s.op.doubling := by simp [State.linkDown, h]; rfl
  unfold State.linkTo
  extract_lets up s1 s2 src s3
  have h3 : s3.op.doubling = s.op.doubling := by
    show s1.op.doubling = _
    dsimp only [s1]
    split
    · rfl
    · exact hdown
  split
  · exact h3
  · split <;> exact h3

theorem doubling_grantTurn : s.grantTurn.op.doubling = s.op.doubling := by
  unfold State.grantTurn
  split
  · rfl
  · dsimp only
    split
    · rfl
    · split
      · rw [Sends.refl.sendControl.doubling]
        rfl
      · rfl

/-- A link that is down takes no time in ACTIVE with it when it enters LIGHT. -/
theorem doubling_toLight {hold : Nat} (h : s.linkUp l = false) : (s.toLight l hold).op.doubling = s.op.doubling := by
  unfold State.toLight
  extract_lets u x g v
  have hlight : u.op.doubling = s.op.doubling := doubling_linkTo (s := s.endTurn l) h
  have hdown : u.linkUp l = false := by simp [State.linkUp, u]
  clear_value u
  split
  · exact doubling_grantTurn.trans ((doubling_linkTo (s := v.endTurn l) hdown).trans hlight)
  · exact doubling_grantTurn.trans hlight

/-! Recovery (R291). -/

/-- A link that becomes ACTIVE or DEGRADED changes its state, and the time of it, alone. -/
theorem linkTo_up_eq {st : Nat} (h : st = lkACTIVE ∨ st = lkDEGRADED) : ∃ a b, s.linkTo l st =
    (s.setO (kOP_LINK_STATE l) st).setLink l { s.link l with since := a, sinceStroke := b } := by
  obtain rfl | rfl := h <;> exact ⟨_, _, rfl⟩

/-- A link that returns the credits it owes and becomes ACTIVE changes the optical ports and its objects alone. -/
theorem linkTo_active_returnCredits : let t := (s.returnCredits l).linkTo l lkACTIVE
    t.lkState l = lkACTIVE ∧ (t.link l).limited = (s.link l).limited ∧ t = { s with objs := t.objs, op := t.op } := by
  have hret : Sends s (s.returnCredits l) := Sends.refl.returnCredits
  obtain ⟨a, b, hup⟩ := linkTo_up_eq (s := s.returnCredits l) (l := l) (.inl rfl)
  refine ⟨lkState_linkTo .., ?_, ?_⟩
  · rw [hup, link_setLink_same, ← hret.get Link.limited]
  · rw [hup, hret.frame]
    rfl

theorem recover_due (hlive : s.linkLive l = true) (hst : s.lkState l = lkDEGRADED) (hn : (s.link l).narrow = 0)
    (htime : max (s.link l).lastHit (s.link l).sinceStroke + 10000 ≤ s.stroke) :
    (s.recover l).lkState l = lkACTIVE ∧ ((s.recover l).link l).limited = false ∧
      s.recover l = { s with objs := (s.recover l).objs, op := (s.recover l).op } := by
  unfold State.recover
  rw [if_neg (by simp [hlive, hst, hn]; omega)]
  extract_lets cost node s1 s2
  obtain ⟨hstate, hlim, hframe⟩ := linkTo_active_returnCredits
    (s := s1.setLink l { s.link l with limited := false }) (l := l)
  rw [link_setLink_same] at hlim
  have h2 : s2 = { s with objs := s2.objs, op := s2.op } := hframe
  split
  · exact ⟨hstate, hlim, by rw [h2]⟩
  · exact ⟨hstate, hlim, h2⟩

/-! Control (R292, R293, R455, R456). -/

/-- What a path that may write asks of a link in its turn is done, and success is reported (R410). -/
theorem access_link {path : Path} {f : State → State × Nat} {t : State} (hl : l < 64)
    (hup : (s.ringBefore path).dictUp = true)
    (hw : (s.ringBefore path).mayWrite path = true) (h : f (s.ringBefore path) = (t, 0)) :
    (.next (if l < 64 then s.access path f else s) : Out) = .next (t.report path 0) := by
  rw [if_pos hl]
  exact congrArg _ (control_accepted _ hup hw h)

theorem linkRelease_quarantined (hlive : s.linkLive l = true) (hst : s.lkState l = lkQUARANTINED) : ∃ t,
    s.linkRelease l = (t, 0) ∧ t.lkState l = (if (s.link l).hold ≤ s.ns then lkTRAINING else lkLIGHT) ∧
      (t.link l).doubling = 0 ∧ tget 0 t.op.doubling (s.link l).node = 0 := by
  unfold State.linkRelease
  rw [if_neg (by simp [hlive, hst])]
  extract_lets x src s1
  refine ⟨_, rfl, ?_, ?_, ?_⟩
  · rw [lkState_toLight_zero, link_setLink_same]
    rfl
  · rw [Moves.refl.toLight.get Link.doubling, link_setLink_same]
  · have hdown : (s1.setLink l { x with doubling := 0 }).linkUp l = false := by
      have h : (s1.setLink l { x with doubling := 0 }).lkState l = lkQUARANTINED := hst
      simp [State.linkUp, h]
    rw [doubling_toLight hdown]
    exact tget_terase_same ..

theorem linkShutdownEnd_due (hl : l < 64) (hdown : (s.link l).downAt ≠ 0) : ∃ t, execLinkShutdownEnd l s = .next t ∧
    t.lkState l = lkABSENT ∧ (t.link l).light = false ∧ (t.link l).downAt = 0 ∧ .dark l ∈ t.op.out ∧
    ((∃ e ∈ s.pend, e.kind = 3 ∧ e.inst = l) → (t.link l).disabled = false) ∧
    ((∀ e ∈ s.pend, ¬(e.kind = 3 ∧ e.inst = l)) → (t.link l).disabled = (s.link l).disabled) := by
  unfold execLinkShutdownEnd
  rw [if_neg (by simp [hl, hdown])]
  extract_lets src u v
  have hstate : u.lkState l = lkABSENT := lkState_toAbsent ..
  have hlight : (u.link l).light = false := light_toAbsent ..
  have hmoves : Moves (fun x => (x.disabled, x.downAt)) 0 (s.setLink l { src with downAt := 0 }) u := moves_toAbsent ..
  clear_value u
  have hkept : (v.link l).disabled = (s.link l).disabled ∧ (v.link l).downAt = 0 := by
    have hpair := hmoves.link l
    rw [link_setLink_same, Prod.mk.injEq] at hpair
    exact hpair
  have hdark : LinkOut.dark l ∈ v.op.out := List.mem_append_right _ (List.mem_singleton_self _)
  have hpend : v.pend.any (fun e => e.kind == 3 && e.inst == l) = true ↔ ∃ e ∈ s.pend, e.kind = 3 ∧ e.inst = l := by
    rw [show v.pend = s.pend from hmoves.pend]
    simp
  split
  case isTrue h =>
    have henable : ((v.dropPending 3 l).linkEnable l).1 = (v.dropPending 3 l).setLink l { v.link l with disabled := false } := by
      unfold State.linkEnable
      rw [if_neg (by simpa using hkept.2)]
      rfl
    rw [henable]
    refine ⟨_, rfl, hstate, ?_, ?_, hdark, fun _ => ?_, fun hno => ?_⟩
    · rw [link_setLink_same]
      exact hlight
    · rw [link_setLink_same, hkept.2]
    · rw [link_setLink_same]
    · obtain ⟨e, he, hthis⟩ := hpend.1 h
      exact absurd hthis (hno e he)
  case isFalse h =>
    exact ⟨v, rfl, hstate, hlight, hkept.2, hdark, fun hsome => absurd (hpend.2 hsome) h, fun _ => hkept.1⟩

/-- Settles O33: each command by its lemma, or by the lemma about the state that it leads to. -/
theorem linksRecoverAndAreControlled : Obligations.LinksRecoverAndAreControlled := by
  unfold Obligations.LinksRecoverAndAreControlled
  refine ⟨?_, ?_, ?_⟩
  · intro l s hlive
    refine ⟨fun hst hn htime => ⟨_, rfl, recover_due hlive hst hn htime⟩, fun hst htime => ?_, fun hup hslots => ?_,
      fun hst => ?_⟩
    · refine ⟨s.toLight l 0, ?_, lkState_toLight_zero s l⟩
      show execQuarantineHoldEnd l s = _
      unfold execQuarantineHoldEnd State.endQuarantine
      rw [if_neg (by simp [hlive, hst, htime])]
    · exact if_neg (by simp [hlive, hup]; omega)
    · refine ⟨s.train l, ?_, lkState_train s l⟩
      show execSlotAlignmentLoss l s = _
      unfold execSlotAlignmentLoss
      obtain hst | hst := hst <;> rw [if_neg (by simp [hlive, hst])]
  · intro path l s v hl hup hw
    refine ⟨fun h => ?_, fun h => ?_, fun h hen => ?_, fun h => ?_, fun hlive hlink => ?_, fun hlive hst => ?_,
      fun hst => ?_⟩
    · exact access_link hl hup hw (if_neg (by simpa using h))
    · exact access_link hl hup hw (if_pos h)
    · refine access_link hl hup hw ?_
      unfold State.linkDisable
      dsimp only
      rw [if_neg (by simpa using h), if_neg (by simpa using hen)]
    · exact access_link hl hup hw (if_pos h)
    · refine ⟨((v.setLink l { v.link l with narrow := 0 }).train l).report path 0, access_link hl hup hw ?_, ?_, ?_,
        report_get ..⟩
      · unfold State.linkRetrain
        rw [if_pos (by simp [v, hlive, hlink])]
      · exact lkState_train ..
      · rw [report_link, Moves.refl.train.get Link.narrow, link_setLink_same]
    · obtain ⟨t, ht, hstate, hdoub, hnode⟩ := linkRelease_quarantined hlive hst
      exact ⟨t.report path 0, access_link hl hup hw ht, hstate, hdoub, hnode, report_get ..⟩
    · exact access_link hl hup hw (if_pos (by simp [v, hst]))
  · intro l s
    exact linkShutdownEnd_due

end Sys2Proof.Machine
end

section
/-! Flits in their sequence, and the events that a link counts (R280 to R283, R288 to R290). -/

namespace Sys2Proof.Machine

open Sys2Proof

variable {s : State} {l : Nat}

/-! A flit that is sent. -/

theorem out_payCredits : (s.payCredits l).1.op.out = s.op.out := by
  unfold State.payCredits
  dsimp only
  split <;> rfl

/-- A flit goes out behind those before it, with its TYPE and its SEQ. -/
theorem emitFlit_out (f : Sent) : ∃ b, (s.emitFlit l f).op.out = s.op.out ++ [.flit l b] ∧ (flitHdr b).kind = f.kind % 16 ∧
    (flitHdr b).seq = f.seq % 2 ^ 16 := by
  have hout := out_payCredits (s := s) (l := l)
  unfold State.emitFlit
  generalize s.payCredits l = p at hout
  obtain ⟨u, crD, crC⟩ := p
  exact ⟨_, congrArg (· ++ [_]) hout, sealFlit_kind .., sealFlit_seq ..⟩

theorem sentAt_emitFlit (f : Sent) : ((s.emitFlit l f).link l).sentAt = s.ns := by
  have hpay : Sends s (s.payCredits l).1 := Sends.refl.payCredits
  unfold State.emitFlit
  generalize s.payCredits l = p at hpay
  obtain ⟨u, crD, crC⟩ := p
  exact (congrArg Link.sentAt (link_setLink_same ..)).trans (congrArg State.ns hpay.frame :)

/-- Flits sent one after another all go out. -/
theorem emitFlits_out (fs : List Sent) : ∀ f ∈ fs, ∃ b, LinkOut.flit l b ∈ (fs.foldl (fun s f => s.emitFlit l f) s).op.out ∧
    (flitHdr b).seq = f.seq % 2 ^ 16 := by
  induction fs generalizing s with
  | nil => simp
  | cons f fs ih =>
    intro g hg
    obtain rfl | hg := List.mem_cons.1 hg
    · obtain ⟨b, hout, -, hseq⟩ := emitFlit_out (s := s) (l := l) g
      have hlater : Sends (s.emitFlit l g) (fs.foldl (fun s f => s.emitFlit l f) (s.emitFlit l g)) :=
        Sends.refl.foldl fun _ _ h => h.emitFlit
      exact ⟨b, hlater.out.subset (by rw [hout]; simp), hseq⟩
    · exact ih g hg

/-! Events (R290). -/

theorem totals_noteEvent (c i : Nat) : tget 0 ((s.noteEvent l c).link l).totals i =
    if i = c then satAdd 64 (tget 0 (s.link l).totals c) 1 else tget 0 (s.link l).totals i := by
  rw [State.noteEvent, link_setLink_same, tget_tset]

/-- From `s` to `t`, the counters of a link alone have changed. -/
def CountsOnly (l : Nat) (s t : State) : Prop :=
  (∃ ls, t = { s with op := { s.op with links := ls } }) ∧ ∃ w k, t.link l = { s.link l with window := w, totals := k }

theorem countsOnly_noteEvents (cs : List Nat) : CountsOnly l s (cs.foldl (fun s c => s.noteEvent l c) s) := by
  refine List.foldlRecOn (motive := CountsOnly l s) cs _ ⟨⟨_, rfl⟩, _, _, rfl⟩ ?_
  rintro _ ⟨⟨ls, rfl⟩, w, k, hk⟩ c -
  refine ⟨⟨_, rfl⟩, ?_⟩
  rw [State.noteEvent, link_setLink_same, hk]
  exact ⟨_, _, rfl⟩

/-- Events of one counter are counted one by one, up to the counter's end. -/
theorem totals_noteEvents {c : Nat} (cs : List Nat) (h : ∀ i ∈ cs, i = c) (hmax : tget 0 (s.link l).totals c ≤ 2 ^ 64 - 1) :
    tget 0 ((cs.foldl (fun s c => s.noteEvent l c) s).link l).totals c = min (tget 0 (s.link l).totals c + cs.length) (2 ^ 64 - 1) := by
  induction cs generalizing s with
  | nil => exact (Nat.min_eq_left hmax).symm
  | cons i cs ih =>
    have hi : i = c := h i (List.mem_cons_self ..)
    have hone : tget 0 ((s.noteEvent l i).link l).totals c = min (tget 0 (s.link l).totals c + 1) (2 ^ 64 - 1) := by
      rw [totals_noteEvent, hi, if_pos rfl, satAdd]
    rw [List.foldl_cons, ih (fun j hj => h j (List.mem_cons_of_mem _ hj)) (by omega), hone, List.length_cons]
    omega

/-- The link becomes DEGRADED, if it does, with its counters as they are. -/
theorem moves_degrade (cause : Nat) : ∃ n, Moves Link.totals n s (s.degrade l cause) := by
  unfold State.degrade
  split
  · exact ⟨0, .refl⟩
  · extract_lets s1 src s2 s3 cost
    have h1 : Moves Link.totals 0 s s1 := Moves.refl.leaveActive.linkTo.totals
    have h2 : Moves Link.totals 0 s s2 := h1.setLink
    exact ⟨1, h2.setO.errRec.setRoutes⟩

/-- What follows the count of events leaves the counters. -/
theorem moves_countEvents (cs : List Nat) :
    ∃ n, Moves Link.totals n (cs.foldl (fun s c => s.noteEvent l c) s) (s.countEvents l cs) := by
  unfold State.countEvents
  extract_lets e hit src u
  have hu : Moves Link.totals 0 e u := Moves.refl.setLink
  split
  · exact ⟨0, .refl⟩
  · split
    · exact ⟨1, hu.trans (moves_quarantine ..)⟩
    · split
      · exact ⟨0, hu.trans Moves.refl.train.totals⟩
      · obtain ⟨n, hd⟩ := moves_degrade (s := u) (l := l) (hit.headD 0)
        exact ⟨_, hu.trans hd⟩

theorem totals_countEvents (cs : List Nat) :
    ((s.countEvents l cs).link l).totals = ((cs.foldl (fun s c => s.noteEvent l c) s).link l).totals := by
  obtain ⟨n, h⟩ := moves_countEvents (s := s) (l := l) cs
  exact h.link l

/-- What was sent before stays sent. -/
theorem out_countEvents (cs : List Nat) : s.op.out <+: (s.countEvents l cs).op.out := by
  obtain ⟨n, h⟩ := moves_countEvents (s := s) (l := l) cs
  obtain ⟨⟨ls, heq⟩, -⟩ := countsOnly_noteEvents (s := s) (l := l) cs
  rw [heq] at h
  exact h.out

theorem mesh_countEvents (cs : List Nat) : (s.countEvents l cs).mesh = s.mesh := by
  obtain ⟨n, h⟩ := moves_countEvents (s := s) (l := l) cs
  obtain ⟨⟨ls, heq⟩, -⟩ := countsOnly_noteEvents (s := s) (l := l) cs
  rw [h.mesh, heq]

theorem stallHit_degrade (cause : Nat) : ((s.degrade l cause).link l).stallHit = (s.link l).stallHit := by
  unfold State.degrade
  split
  · rfl
  · extract_lets s1 src s2 s3 cost
    have hleave : ((s.leaveActive l).link l).stallHit = (s.link l).stallHit := by
      unfold State.leaveActive State.settleDoubling
      dsimp only
      repeat' split
      all_goals rfl
    obtain ⟨a, b, hup⟩ := linkTo_up_eq (s := s.leaveActive l) (l := l) (st := lkDEGRADED) (.inr rfl)
    have h1 : (s1.link l).stallHit = (s.link l).stallHit := by
      dsimp only [s1]
      rw [hup, link_setLink_same, ← hleave]
    have h3 : (s3.link l).stallHit = (s1.link l).stallHit := by
      dsimp only [s3, s2, src]
      rw [errRec_link, setO_link, link_setLink_same]
    exact h3.trans h1

/-- Stalls that are counted, whatever state they lead to, stay known as counted. -/
theorem stallHit_countEvents (cs : List Nat) (h : ∀ c ∈ cs, c = ctSTALL) :
    ((s.countEvents l cs).link l).stallHit = (s.link l).stallHit := by
  unfold State.countEvents
  extract_lets e hit src u
  have he : (e.link l).stallHit = (s.link l).stallHit := by
    obtain ⟨-, w, k, hk⟩ := countsOnly_noteEvents (s := s) (l := l) cs
    rw [hk]
  have hhit (c : Nat) (hc : c ∈ hit) : c = ctSTALL := h c (List.mem_of_mem_filter hc)
  have hmild : hit.find? (fun c => c == ctTAG || c == ctPROTOCOL) = none :=
    List.find?_eq_none.2 fun c hc => by rw [hhit c hc]; decide
  have hslow : hit.any (fun c => c == ctACK || (c == ctRETRY && decide (100000 ≤ u.windowCount l c))) = false :=
    List.any_eq_false.2 fun c hc => by rw [hhit c hc]; simp
  rw [hmild]
  dsimp only
  rw [hslow]
  split
  · exact he
  · rw [if_neg Bool.false_ne_true, stallHit_degrade]
    exact (congrArg Link.stallHit (link_setLink_same ..)).trans he

/-- The time for an acknowledgement has passed: an ACTIVE or DEGRADED link trains. -/
theorem lkState_countEvent_ack (hlive : s.linkLive l = true) (hup : s.linkUp l = true) :
    (s.countEvent l ctACK).lkState l = lkTRAINING := by
  have hlive' : (s.noteEvent l ctACK).linkLive l = true := by
    rw [← hlive]
    unfold State.linkLive
    rw [State.noteEvent, link_setLink_same]
    rfl
  have hup' : (s.noteEvent l ctACK).linkUp l = true := hup
  have hover : (s.noteEvent l ctACK).overLimit l ctACK = true := by simp [State.overLimit]
  unfold State.countEvent State.countEvents
  rw [List.foldl_cons, List.foldl_nil]
  extract_lets e hit src u
  have hhit : hit = [ctACK] := by simp [hit, e, hover]
  rw [hhit, if_neg (by simp [e, hlive', hup'])]
  exact lkState_train ..

/-! A flit that is taken (R281, R282). -/

/-- A DATA or CONTROL flit of the expected SEQ is taken in, its credits and its acknowledgement first. -/
theorem goodFlit_stores {h : FlitHdr} {body : List Byte} (hseq : h.seq = (s.link l).rxSeq)
    (hkind : (s.lkState l ≠ lkAUTH ∧ h.kind = 1) ∨ h.kind = 2) : s.goodFlit l h body =
    (((s.setLink l { s.link l with dropping := false }).takeCredits l h.crData h.crCtrl).takeAck l h.ack).storeFlit l h body := by
  have hd : (h.seq + 2 ^ 16 - (s.link l).rxSeq) % 2 ^ 16 = 0 := by rw [hseq, Nat.add_sub_cancel_left, Nat.mod_self]
  unfold State.goodFlit
  dsimp only
  rw [hd]
  obtain ⟨hst, hk⟩ | hk := hkind
  · simp [hk, hst]
  · simp [hk]

/-- One that keeps to R280 and was sent with credit takes a place of its class, and joins the message of the class. -/
theorem storeFlit_joins {h : FlitHdr} {body : List Byte} (hlen : h.len ≤ 224)
    (hclass : (h.kind = 1 ∧ 1 ≤ h.hops ∧ h.hops ≤ 8) ∨ (h.kind ≠ 1 ∧ h.hops = 0))
    (hroom : tget 0 (s.link l).rxUsed h.hops < s.classCredit l h.hops) :
    let w := s.setLink l { s.link l with rxSeq := ((s.link l).rxSeq + 1) % 2 ^ 16 }
    s.storeFlit l h body = (w.setLink l { w.link l with
      rxUsed := tset 0 (s.link l).rxUsed h.hops (tget 0 (s.link l).rxUsed h.hops + 1) }).joinMessage l h.hops h body := by
  intro w
  have hcredit : w.classCredit l h.hops = s.classCredit l h.hops := rfl
  have hgood : (if h.kind = 1 then h.hops = 0 || 8 < h.hops else h.hops ≠ 0 : Bool) = false := by
    obtain ⟨hk, h1, h8⟩ | ⟨hk, h0⟩ := hclass
    · rw [if_pos hk, Bool.or_eq_false_iff, decide_eq_false_iff_not, decide_eq_false_iff_not]
      omega
    · rw [if_neg hk, decide_eq_false_iff_not]
      omega
  unfold State.storeFlit
  extract_lets x s1
  rw [if_neg]
  simp only [Bool.or_eq_true, decide_eq_true_eq, not_or, Nat.not_lt, Nat.not_le]
  exact ⟨⟨by rw [hgood]; exact Bool.false_ne_true, hlen⟩, hroom⟩

/-- The first flit of a message of more begins it. -/
theorem joinMessage_first {cls : Nat} {h : FlitHdr} {body : List Byte} (hpart : tget none (s.link l).rxPart cls = none)
    (hfirst : h.first = true) (hlast : h.last = false) : s.joinMessage l cls h body = s.setLink l { s.link l with
      rxPart := tset none (s.link l).rxPart cls (some { msg := h.msg, bytes := body.take h.len, flits := 1 }) } := by
  unfold State.joinMessage
  rw [hpart, hfirst, hlast]
  rfl

/-- The last flit of a message completes it. -/
theorem joinMessage_last {cls : Nat} {h : FlitHdr} {body : List Byte} {p : RxPart}
    (hpart : tget none (s.link l).rxPart cls = some p) (hfirst : h.first = false) (hmsg : p.msg = h.msg)
      (hlast : h.last = true) :
    s.joinMessage l cls h body = (s.setLink l { s.link l with rxPart := tset none (s.link l).rxPart cls none }).wholeMessage l cls
      { p with bytes := p.bytes ++ body.take h.len, flits := p.flits + 1 } := by
  unfold State.joinMessage
  rw [hpart, hfirst, hlast]
  exact if_pos hmsg

/-- A whole message of DATA that fits its header is kept for the unit that takes it. -/
theorem wholeMessage_fits {cls : Nat} {p : RxPart} (hcls : 1 ≤ cls)
    (hok : messageOk (BitVec.ofNat 256 (leNat (p.bytes.take 32))) (p.bytes.drop 32) = true)
    (hlow : 1 ≤ mhKind (BitVec.ofNat 256 (leNat (p.bytes.take 32))))
    (hhigh : mhKind (BitVec.ofNat 256 (leNat (p.bytes.take 32))) ≤ 3) :
    s.wholeMessage l cls p = s.setLink l { s.link l with inbox := (s.link l).inbox ++
      [{ cls := cls, hdr := BitVec.ofNat 256 (leNat (p.bytes.take 32)), data := p.bytes.drop 32, flits := p.flits }] } := by
  have hne : cls ≠ 0 := by omega
  unfold State.wholeMessage
  dsimp only
  rw [if_neg hne, if_neg (by simp [hok, hlow, hhigh]), if_neg (by simp [hne])]

/-! A flit that is damaged (R281). -/

/-- With a damaged flit a RETRY_REQ flit goes out, if none has. -/
theorem askRetry_asks (cs : List Nat) (h : (s.link l).dropping = false) :
    ∃ b, LinkOut.flit l b ∈ (s.askRetry l cs).op.out ∧ (flitHdr b).kind = 3 := by
  unfold State.askRetry
  dsimp only
  rw [if_neg (by simp [h])]
  obtain ⟨b, hout, hkind, -⟩ := emitFlit_out (s := s.setLink l { s.link l with dropping := true }) (l := l)
    { seq := ((s.setLink l { s.link l with dropping := true }).link l).txSeq, kind := 3, hops := 0, msg := 0, len := 0
      first := false, last := false, body := [], flow := 0 }
  refine ⟨b, (out_countEvents _).subset ?_, hkind⟩
  rw [State.emitBare, hout]
  simp

theorem countEvents_nil : s.countEvents l [] = s := by simp [State.countEvents]

theorem askRetry_waits (h : (s.link l).dropping = true) : s.askRetry l [] = s := by
  unfold State.askRetry
  dsimp only
  rw [if_pos h, countEvents_nil]

/-- A bad tag is counted once, whether the retransmission has been asked for or not. -/
theorem tags_askRetry : tget 0 ((s.askRetry l [ctTAG]).link l).totals ctTAG = satAdd 64 (tget 0 (s.link l).totals ctTAG) 1 := by
  unfold State.askRetry
  dsimp only
  split
  · rw [totals_countEvents, List.foldl_cons, List.foldl_nil, totals_noteEvent, if_pos rfl]
  · have hsent : Sends (s.setLink l { s.link l with dropping := true })
        ((s.setLink l { s.link l with dropping := true }).emitBare l 3) := Sends.refl.emitBare
    rw [totals_countEvents, List.foldl_cons, List.foldl_cons, List.foldl_nil, totals_noteEvent, if_pos rfl,
      totals_noteEvent,
      if_neg (by decide), hsent.get Link.totals, link_setLink_same]

/-! A flit that arrives. -/

section
variable {f : Flit} (hlive : s.linkLive l = true) (hlen : f.bytes.length = 256)
include hlive hlen

theorem flitReceive_crc (hup : s.linkUp l = true) (hcrc : flitCrcOk f.bytes = false) : execFlitReceive l f s =
    .next ((if (s.link l).rxKeyed then s.setLink l { s.link l with rxSlot := (s.link l).rxSlot + f.gap + 1 } else s).askRetry l []) := by
  unfold execFlitReceive
  rw [if_neg (by simp [hlive, hlen, hup])]
  exact if_pos (by simp [hcrc])

theorem flitReceive_tag (hup : s.linkUp l = true) (hcrc : flitCrcOk f.bytes = true) (hkeyed : (s.link l).rxKeyed = true)
    {slot : Nat} (hslot : slot = (s.link l).rxSlot + f.gap) {key : List Byte}
    (hkey : key = keyAt (s.link l).rxKey (s.link l).rxEpoch (slot / 2 ^ 31)) (htag : flitTagOk key slot f.bytes = false) :
    execFlitReceive l f s = .next ((s.setLink l { s.link l with rxSlot := slot + 1 }).askRetry l [ctTAG]) := by
  unfold execFlitReceive
  rw [if_neg (by simp [hlive, hlen, hup])]
  dsimp only
  rw [← hslot, ← hkey, if_neg (by simp [hcrc]), if_pos (by simp [hkeyed, htag]), if_pos hkeyed]

theorem flitReceive_keyed (hup : s.linkUp l = true) (hcrc : flitCrcOk f.bytes = true) (hkeyed : (s.link l).rxKeyed = true)
    {slot : Nat} (hslot : slot = (s.link l).rxSlot + f.gap) {key : List Byte}
    (hkey : key = keyAt (s.link l).rxKey (s.link l).rxEpoch (slot / 2 ^ 31)) (htag : flitTagOk key slot f.bytes = true) :
    execFlitReceive l f s = .next ((s.setLink l { s.link l with
      rxKeyed := true, rxSlot := slot + 1, rxKey := key, rxEpoch := max (s.link l).rxEpoch (slot / 2 ^ 31) }).goodFlit l
        (flitHdr f.bytes) (flitBody (some key) slot f.bytes)) := by
  unfold execFlitReceive
  rw [if_neg (by simp [hlive, hlen, hup])]
  dsimp only
  rw [← hslot, ← hkey, if_neg (by simp [hcrc]), if_neg (by simp [htag]), if_pos (by simp [hkeyed])]

theorem flitReceive_clear (hst : s.lkState l = lkAUTH) (hcrc : flitCrcOk f.bytes = true)
    (hkeyed : (s.link l).rxKeyed = false)
    (hstep : (s.link l).authStep ≠ 3) :
    execFlitReceive l f s = .next (s.goodFlit l (flitHdr f.bytes) (flitBody none 0 f.bytes)) := by
  unfold execFlitReceive
  rw [if_neg (by simp [hlive, hlen, hst])]
  dsimp only
  rw [if_neg (by simp [hcrc]), if_neg (by simp [hkeyed, hstep]), if_neg (by simp [hkeyed, hstep])]

end

/-! Timers (R290). -/

/-- A stall whose time has come is counted, once an episode. -/
theorem creditStall_late {h a : Nat} (hlive : s.linkLive l = true) (hup : s.linkUp l = true) (h1 : 1 ≤ h) (h8 : h ≤ 8)
    (hsince : tget 0 (s.link l).stallAt h = a + 1) (hlate : a + s.o kOP_STALL_US * 1000 < s.ns)
      (hnew : h ∉ (s.link l).stallHit) :
    ∃ t, execCreditStall l s = .next t ∧ h ∈ (t.link l).stallHit ∧
      (tget 0 (s.link l).totals ctSTALL < tget 0 (t.link l).totals ctSTALL ∨
        2 ^ 64 - 1 ≤ tget 0 (s.link l).totals ctSTALL) := by
  unfold execCreditStall
  extract_lets x late hs
  rw [if_neg (by simp [hlive, hup])]
  have hmem : h ∈ hs := by
    refine List.mem_filter.2 ⟨List.mem_map.2 ⟨h - 1, mem_upto.2 (by omega), by omega⟩, ?_⟩
    simp [late, x, hsince, hlate, hnew]
  have hall (c : Nat) (hc : c ∈ hs.map fun _ => ctSTALL) : c = ctSTALL := by
    obtain ⟨_, -, rfl⟩ := List.mem_map.1 hc
    rfl
  have hlen : 1 ≤ (hs.map fun _ => ctSTALL).length := by
    rw [List.length_map]
    exact List.length_pos_of_mem hmem
  refine ⟨_, rfl, ?_, ?_⟩
  · rw [stallHit_countEvents _ hall, link_setLink_same]
    exact List.mem_append_right _ hmem
  · by_cases hmax : 2 ^ 64 - 1 ≤ tget 0 (s.link l).totals ctSTALL
    · exact .inr hmax
    · have hbase : ((s.setLink l { x with stallHit := x.stallHit ++ hs }).link l).totals = (s.link l).totals := by
        rw [link_setLink_same]
      have hcount := totals_noteEvents (s := s.setLink l { x with stallHit := x.stallHit ++ hs }) (l := l) _ hall
        (by rw [hbase]; omega)
      rw [hbase] at hcount
      left
      rw [totals_countEvents, hcount]
      omega

theorem laneLockLoss_up (working : Nat) (hlive : s.linkLive l = true) (hup : s.linkUp l = true) :
    ∃ t, execLaneLockLoss l working s = .next t ∧
      (working * 4 < s.linkWidth l → t.lkState l = (if (s.link l).hold ≤ s.ns then lkTRAINING else lkLIGHT)) ∧
      (s.linkWidth l ≤ working * 4 → t.lkState l = lkTRAINING ∧
        (t.link l).narrow = (if 2 ^ Nat.log2 working < s.linkWidth l then 2 ^ Nat.log2 working else 0)) := by
  unfold execLaneLockLoss
  rw [if_neg (by simp [hlive, hup])]
  extract_lets u src v w
  have hwidth : v.linkWidth l = s.linkWidth l := rfl
  have hhold : (v.link l).hold = (s.link l).hold := by
    dsimp only [v, src, u]
    rw [link_setLink_same, State.noteEvent, link_setLink_same]
  have hns : v.ns = s.ns := rfl
  rw [hwidth]
  split
  case isTrue h =>
    refine ⟨_, rfl, fun _ => ?_, fun h' => absurd h (by omega)⟩
    rw [lkState_toLight_zero, hhold, hns]
  case isFalse h =>
    refine ⟨_, rfl, fun h' => absurd h' h, fun _ => ⟨lkState_train .., ?_⟩⟩
    rw [Moves.refl.train.get Link.narrow, link_setLink_same]

/-! The commands. -/

/-- A flit of the expected SEQ that keeps to R280 and has room takes its place and joins its message. -/
theorem flitReceive_taken {f : Flit} (hlive : s.linkLive l = true) (hlen : f.bytes.length = 256)
    (hcrc : flitCrcOk f.bytes = true)
    (hseq : (flitHdr f.bytes).seq = (s.link l).rxSeq) (hsize : (flitHdr f.bytes).len ≤ 224) :
    let x := s.link l
    let h := flitHdr f.bytes
    let slot := x.rxSlot + f.gap
    let key := keyAt x.rxKey x.rxEpoch (slot / 2 ^ 31)
    let keyed := s.setLink l
      { x with rxKeyed := true, rxSlot := slot + 1, rxKey := key, rxEpoch := max x.rxEpoch (slot / 2 ^ 31) }
    let taken (v : State) : State :=
      ((v.setLink l { v.link l with dropping := false }).takeCredits l h.crData h.crCtrl).takeAck l h.ack
    let counted (w : State) : State := w.setLink l { w.link l with rxSeq := ((w.link l).rxSeq + 1) % 2 ^ 16 }
    let joined (w : State) : State := (counted w).setLink l { (counted w).link l with
      rxUsed := tset 0 (w.link l).rxUsed h.hops (tget 0 (w.link l).rxUsed h.hops + 1) }
    (s.linkUp l = true → x.rxKeyed = true → flitTagOk key slot f.bytes = true → h.kind = 1 → 1 ≤ h.hops → h.hops ≤ 8 →
      tget 0 ((taken keyed).link l).rxUsed h.hops < (taken keyed).classCredit l h.hops →
      execFlitReceive l f s = .next ((joined (taken keyed)).joinMessage l h.hops h (flitBody (some key) slot f.bytes))) ∧
    (s.lkState l = lkAUTH → x.rxKeyed = false → x.authStep ≠ 3 → h.kind = 2 → h.hops = 0 →
      tget 0 ((taken s).link l).rxUsed 0 < (taken s).classCredit l 0 →
      execFlitReceive l f s = .next ((joined (taken s)).joinMessage l 0 h (flitBody none 0 f.bytes))) := by
  intro x h slot key keyed taken counted joined
  constructor
  · intro hup hkeyed htag hkind h1 h8 hroom
    have hst : keyed.lkState l ≠ lkAUTH := by
      intro hauth
      have hs : s.lkState l = lkAUTH := hauth
      simp [State.linkUp, hs] at hup
    have hnext : h.seq = (keyed.link l).rxSeq := by rw [link_setLink_same]; exact hseq
    refine (flitReceive_keyed hlive hlen hup hcrc hkeyed rfl rfl htag).trans (congrArg _ ?_)
    exact (goodFlit_stores hnext (.inl ⟨hst, hkind⟩)).trans (storeFlit_joins hsize (.inl ⟨hkind, h1, h8⟩) hroom)
  · intro hst hkeyed hstep hkind hhops hroom
    refine (flitReceive_clear hlive hlen hst hcrc hkeyed hstep).trans (congrArg _ ?_)
    have hclass : h.kind ≠ 1 ∧ h.hops = 0 := ⟨by rw [hkind]; decide, hhops⟩
    refine (goodFlit_stores hseq (.inr hkind)).trans
      ((storeFlit_joins hsize (.inr hclass) (by rw [hclass.2]; exact hroom)).trans ?_)
    exact congrArg (fun c => (joined (taken s)).joinMessage l c h (flitBody none 0 f.bytes)) hhops

theorem joinMessage_completes {cls : Nat} {h : FlitHdr} {body : List Byte} {p : RxPart}
    (hpart : tget none (s.link l).rxPart cls = some p) (hfirst : h.first = false) (hmsg : p.msg = h.msg)
      (hlast : h.last = true)
    (hcls : 1 ≤ cls) {b : List Byte} (hb : b = p.bytes ++ body.take h.len) {hdr : BitVec 256}
    (hhdr : hdr = BitVec.ofNat 256 (leNat (b.take 32))) (hok : messageOk hdr (b.drop 32) = true) (hlow : 1 ≤ mhKind hdr)
    (hhigh : mhKind hdr ≤ 3) :
    ∃ t, t = s.joinMessage l cls h body ∧ tget none (t.link l).rxPart cls = none ∧
      (t.link l).inbox = (s.link l).inbox ++ [{ cls := cls, hdr := hdr, data := b.drop 32, flits := p.flits + 1 }] ∧
      t = { s with op := t.op } := by
  subst hhdr
  have hwhole := wholeMessage_fits (s := s.setLink l { s.link l with rxPart := tset none (s.link l).rxPart cls none }) (l := l)
    (p := { p with bytes := b, flits := p.flits + 1 }) hcls hok hlow hhigh
  refine ⟨_, rfl, ?_⟩
  rw [joinMessage_last hpart hfirst hmsg hlast, ← hb, hwhole, link_setLink_same, link_setLink_same]
  refine ⟨?_, rfl, rfl⟩
  dsimp only
  rw [tget_tset, if_pos rfl]

/-- What was kept is sent again in order once the partner has asked for it, and not again. -/
theorem retryReq_resends (ack : Nat) (hlive : s.linkLive l = true) (hup : s.linkUp l = true) :
    ((s.link l).asked = some (ack % 2 ^ 16) → ∃ t, execRetryReq l ack s = .next t ∧
      (∀ q ∈ (s.link l).retry, ∃ b, .flit l b ∈ t.op.out ∧ (flitHdr b).seq = q.seq % 2 ^ 16) ∧ (t.link l).asked = none ∧
      t = { s with op := t.op }) ∧
    ((s.link l).asked ≠ some (ack % 2 ^ 16) → execRetryReq l ack s = .next s) := by
  unfold execRetryReq
  dsimp only
  constructor
  · intro hasked
    have hsent : Sends (s.setLink l { s.link l with asked := none })
        ((s.link l).retry.foldl (fun (s : State) q => s.emitFlit l q)
        (s.setLink l { s.link l with asked := none })) := Sends.refl.foldl fun _ _ h => h.emitFlit
    rw [if_neg (by simp [hlive, hup, hasked])]
    refine ⟨_, rfl, emitFlits_out _, ?_, hsent.frame⟩
    rw [hsent.get Link.asked, link_setLink_same]
  · intro hasked
    exact if_pos (by simpa using .inr hasked)

theorem idleAckTimer_due (hlive : s.linkLive l = true)
    (hst : s.linkUp l = true ∨ s.lkState l = lkAUTH ∨ s.lkState l = lkQUARANTINED)
      (htime : (s.link l).sentAt + 1000 ≤ s.ns) :
    ∃ t b, execIdleAckTimer l s = .next t ∧ t.op.out = s.op.out ++ [.flit l b] ∧ (flitHdr b).kind = 0 ∧
      (flitHdr b).seq = (s.link l).txSeq % 2 ^ 16 ∧ (t.link l).sentAt = s.ns ∧ t = { s with op := t.op } := by
  obtain ⟨b, hout, hkind, hseq⟩ := emitFlit_out (s := s) (l := l)
    { seq := (s.link l).txSeq, kind := 0, hops := 0, msg := 0, len := 0, first := false, last := false, body := [], flow := 0 }
  refine ⟨s.emitBare l 0, b, ?_, hout, hkind, hseq, sentAt_emitFlit _, Sends.refl.emitBare.frame⟩
  unfold execIdleAckTimer
  dsimp only
  obtain hst | hst | hst := hst <;> rw [if_neg (by simp [hlive, hst, htime])]

/-- Settles O31: each flit and each timer by its lemma. -/
theorem flitsAreTakenInSequence : Obligations.FlitsAreTakenInSequence := by
  unfold Obligations.FlitsAreTakenInSequence
  refine ⟨?_, ?_, ?_, ?_, ?_⟩
  · intro l f s hlive hlen hcrc x h slot key keyed taken counted joined hseq hsize
    exact flitReceive_taken hlive hlen hcrc hseq hsize
  · intro l cls h body s
    constructor
    · intro hpart hfirst hlast
      refine ⟨_, rfl, ?_⟩
      rw [joinMessage_first hpart hfirst hlast, link_setLink_same]
      exact ⟨by rw [tget_tset, if_pos rfl], rfl⟩
    · intro p hpart hfirst hmsg hlast hcls b hdr hok hlow hhigh
      exact joinMessage_completes hpart hfirst hmsg hlast hcls rfl rfl hok hlow hhigh
  · intro l f s hlive hup hlen x slot
    refine ⟨fun hcrc => ⟨fun hdrop => ?_, fun hdrop => ?_⟩, fun hcrc hkeyed htag => ?_⟩
    · obtain ⟨b, hout, hkind⟩ := askRetry_asks
        (s := if x.rxKeyed then s.setLink l { x with rxSlot := slot + 1 } else s) (l := l) []
        (by split <;> simp [x, hdrop])
      exact ⟨_, b, flitReceive_crc hlive hlen hup hcrc, hout, hkind⟩
    · refine (flitReceive_crc hlive hlen hup hcrc).trans (congrArg _ (askRetry_waits ?_))
      split <;> simp [x, hdrop]
    · refine ⟨_, flitReceive_tag hlive hlen hup hcrc hkeyed rfl rfl htag, ?_⟩
      rw [tags_askRetry, link_setLink_same]
      rfl
  · intro l s hlive hup
    refine ⟨fun ack => retryReq_resends ack hlive hup, fun hretry htime => ⟨_, if_neg ?_, lkState_countEvent_ack hlive hup⟩,
      fun h a h1 h8 => creditStall_late hlive hup h1 h8, fun working => laneLockLoss_up working hlive hup⟩
    simp [hlive, hup, hretry, htime]
  · intro l s
    exact idleAckTimer_due

end Sys2Proof.Machine
end

section
/-! Messages that land or pass on, and routes (R28, R29, R283, R284, R294, R295). -/

namespace Sys2Proof.Machine

open Sys2Proof

/-! Packets on VC2. -/

theorem length_packets4k (n : Nat) : (packets4k n).length = (n + 4095) / 4096 := by
  rw [packets4k, List.length_map, upto_eq_range, List.length_range]

theorem packets4k_le {n : Nat} {c : Nat × Nat} (h : c ∈ packets4k n) : c.2 ≤ 4096 := by
  obtain ⟨k, -, rfl⟩ := List.mem_map.1 h
  exact Nat.min_le_left ..

/-- From `s` to `t`, `n` writes have gone out on VC2, each as `P` says. -/
structure Issues (P : MeshReq → Prop) (n : Nat) (s t : State) : Prop where
  only : OnMesh s t
  sent : ∃ rs, t.mesh.vc2 = s.mesh.vc2 ++ rs ∧ rs.length = n ∧ ∀ r ∈ rs, P r

namespace Issues

variable {P : MeshReq → Prop} {n : Nat} {s t : State}

theorem refl : Issues P 0 s s := ⟨.refl, [], (List.append_nil _).symm, rfl, by simp⟩

theorem edgeNext {g} (h : Issues P n s t) : Issues P n s (t.edgeNext g).1 := by
  unfold State.edgeNext
  dsimp only
  split
  · exact ⟨h.only.update, h.sent⟩
  · exact h

theorem nextId {id} (h : Issues P n s t) : Issues P n s { t with mesh := { t.mesh with nextId := id } } :=
    ⟨h.only.update, h.sent⟩

/-- A request that enters the mesh joins none of its lists, and keeps its partition, its writer and its length. -/
theorem launch_spec (r : MeshReq) (len : Nat) : (t.launch r len).1.mesh = t.mesh ∧ (t.launch r len).2.part = r.part ∧
    (t.launch r len).2.writer = r.writer ∧ (t.launch r len).2.len = r.len := by
  unfold State.launch
  split
  · exact ⟨rfl, rfl, rfl, rfl⟩
  · split
    · exact ⟨rfl, rfl, rfl, rfl⟩
    · next e _ => cases e <;> exact ⟨rfl, rfl, rfl, rfl⟩

theorem outstanding2 {id part src dst addr len w} (h : Issues P n s t)
    (hP : ∀ r : MeshReq, r.part = part → r.writer = w → r.len = len → P r) :
    Issues P (n + 1) s (t.outstanding2 id part src dst addr len w false) := by
  refine ⟨h.only.outstanding2, ?_⟩
  obtain ⟨rs, hrs, hlen, hall⟩ := h.sent
  unfold State.outstanding2
  extract_lets r x u
  obtain ⟨hmesh, hpart, hwriter, hsize⟩ := launch_spec (t := t) r len
  refine ⟨rs ++ [x.2], ?_, by rw [List.length_append, hlen, List.length_singleton], ?_⟩
  · rw [if_neg Bool.false_ne_true, ← List.append_assoc, ← hrs, ← hmesh]
  · intro q hq
    obtain hq | hq := List.mem_append.1 hq
    · exact hall q hq
    · rw [List.mem_singleton.1 hq]
      exact hP _ hpart hwriter hsize

theorem foldl {α : Type} {f : State → α → State} {l : List α} (h : Issues P n s t)
    (hf : ∀ m t x, x ∈ l → Issues P m s t → Issues P (m + 1) s (f t x)) : Issues P (n + l.length) s (l.foldl f t) := by
  induction l generalizing n t with
  | nil => exact h
  | cons x l ih =>
    have hrest := ih (hf n t x (List.mem_cons_self ..) h) fun m t y hy => hf m t y (List.mem_cons_of_mem _ hy)
    rw [List.length_cons, Nat.add_comm l.length, ← Nat.add_assoc]
    exact hrest

end Issues

variable {s w : State} {l : Nat}

/-! Messages that land (R28, R29, R283). -/

/-- One packet of a message that lands, over the next attached port of the link's edge group (R28, R29). -/
def State.landOne (s : State) (link : Nat) (hdr : BitVec 256) (base n : Nat) (c : Nat × Nat) : State :=
  let x := s.edgeNext (link / 4)
  let rod := if mhKind hdr == 3 then ((x.1.udPhys (mhPart hdr) (base + c.1) c.2 true).getD 0) / 2 ^ 29 else x.1.landRod link hdr
  let id := x.1.mesh.nextId
  { x.1 with mesh := { x.1.mesh with nextId := id + 1 } }.outstanding2 id (mhPart hdr)
    (x.2.getD ((edgeRods (link / 4)).getD 0 0)) rod (base + c.1) c.2 (.edge n) false

/-- The state with a message that lands noted and none of its packets sent yet. -/
def State.noteLanding (s : State) (link : Nat) (hdr : BitVec 256) (data : List Byte) (left : Nat) : State :=
  { s with op := { s.op with
      landing := s.op.landing ++ [{ id := s.op.nextLand, link := link, hdr := hdr, data := data, left := left }],
      nextLand := s.op.nextLand + 1 } }

/-- The packets a message that lands goes out in: of an EXPORT message without its address. -/
def landPackets (hdr : BitVec 256) (data : List Byte) : List (Nat × Nat) :=
  packets4k (if mhKind hdr == 3 then exportBytes data else data).length

theorem startLanding_eq (hdr : BitVec 256) (data : List Byte) : s.startLanding l hdr data =
    (landPackets hdr data).foldl
      (fun t c => t.landOne l hdr (if mhKind hdr == 3 then exportAddr data else 0) s.op.nextLand c)
      (s.noteLanding l hdr data (landPackets hdr data).length) := rfl

theorem length_landPackets (hdr : BitVec 256) (data : List Byte) : (landPackets hdr data).length =
    ((if mhKind hdr = 3 then data.length - 8 else data.length) + 4095) / 4096 := by
  rw [landPackets, length_packets4k]
  by_cases h : mhKind hdr = 3 <;> simp [h, exportBytes]

theorem Issues.landOne {P n t hdr base id} {c : Nat × Nat} (h : Issues P n s t)
    (hP : ∀ r : MeshReq, r.part = mhPart hdr → r.writer = .edge id → r.len = c.2 → P r) :
    Issues P (n + 1) s (t.landOne l hdr base id c) :=
  h.edgeNext.nextId.outstanding2 hP

/-- A message that lands is noted with the packets that carry it. -/
theorem startLanding_spec (hdr : BitVec 256) (data : List Byte) : ∃ rs m,
    (s.startLanding l hdr data).op.landing = s.op.landing ++ [m] ∧
    m.hdr = hdr ∧ m.data = data ∧ m.left = rs.length ∧
    rs.length = ((if mhKind hdr = 3 then data.length - 8 else data.length) + 4095) / 4096 ∧
    (s.startLanding l hdr data).mesh.vc2 = s.mesh.vc2 ++ rs ∧
    (∀ r ∈ rs, r.part = mhPart hdr ∧ r.writer = .edge m.id ∧ r.len ≤ 4096) ∧
    s.startLanding l hdr data = { s with
      mesh := (s.startLanding l hdr data).mesh, op := (s.startLanding l hdr data).op,
      rods := (s.startLanding l hdr data).rods } := by
  have hissues : Issues (fun r => r.part = mhPart hdr ∧ r.writer = .edge s.op.nextLand ∧ r.len ≤ 4096)
      (0 + (landPackets hdr data).length) (s.noteLanding l hdr data (landPackets hdr data).length)
      (s.startLanding l hdr data) := by
    rw [startLanding_eq]
    exact Issues.refl.foldl fun _ _ _ hc h => h.landOne fun _ hp hw hl => ⟨hp, hw, hl ▸ packets4k_le hc⟩
  obtain ⟨⟨m, k, honly⟩, rs, hvc2, hlen, hall⟩ := hissues
  rw [Nat.zero_add] at hlen
  refine ⟨rs, { id := s.op.nextLand, link := l, hdr := hdr, data := data, left := (landPackets hdr data).length },
    ?_, rfl, rfl, hlen.symm, hlen.trans (length_landPackets hdr data), hvc2, hall, ?_⟩
  · rw [honly, State.noteLanding]
  · rw [honly, State.noteLanding]

/-! Messages that are dropped (R284, R290). -/

theorem totals_countEvent (c i : Nat) : tget 0 ((s.countEvent l c).link l).totals i =
    if i = c then satAdd 64 (tget 0 (s.link l).totals c) 1 else tget 0 (s.link l).totals i := by
  rw [State.countEvent, totals_countEvents, List.foldl_cons, List.foldl_nil, totals_noteEvent]

/-- A message dropped on arrival is counted by its kind of drop, and as a discard. -/
theorem totals_dropArrival {c : Nat} (hc : c ≠ ctDISCARD) :
    tget 0 ((s.dropArrival l c).link l).totals c = satAdd 64 (tget 0 (s.link l).totals c) 1 ∧
    tget 0 ((s.dropArrival l c).link l).totals ctDISCARD = satAdd 64 (tget 0 (s.link l).totals ctDISCARD) 1 := by
  unfold State.dropArrival
  dsimp only
  rw [totals_countEvent, totals_countEvent, if_neg hc, if_pos rfl, link_setLink_same]
  dsimp only
  rw [tget_tset, tget_tset, if_pos rfl, if_neg hc.symm]
  exact ⟨rfl, rfl⟩

/-! Transit buffers (R284). -/

theorem map_hdr_modify (q : List Transit) (i : Nat) :
    (q.modify i fun x => { x with inside := true }).map (·.hdr) = q.map (·.hdr) := by
  induction q generalizing i with
  | nil => simp
  | cons x q ih => cases i with
    | zero => simp
    | succ i => simpa using ih i

/-- Messages that enter a transit buffer keep their places. -/
theorem hdrs_admitTransit (k n : Nat) :
    (tget [] (State.admitTransit k n s).op.transit k).map (·.hdr) = (tget [] s.op.transit k).map (·.hdr) := by
  induction n generalizing s with
  | zero => rfl
  | succ n ih =>
    unfold State.admitTransit
    dsimp only
    split
    · rfl
    · split
      · rfl
      · rw [ih, tget_tset, if_pos rfl, map_hdr_modify]

/-! BAMEN_MESSAGE. -/

theorem bamenMessage_here {hops n : Nat} {hdr : BitVec 256} {data : List Byte}
    (htake : s.takeData l hops hdr data = some (w, n))
    (hdst : mhDst hdr = ownNode) :
    (s.accepts hdr data = true →
      ∃ t rs m, execBamenMessage l hops hdr data s = .next t ∧ t.op.landing = s.op.landing ++ [m] ∧ m.hdr = hdr ∧
        m.data = data ∧ m.left = rs.length ∧
        rs.length = ((if mhKind hdr = 3 then data.length - 8 else data.length) + 4095) / 4096 ∧
        t.mesh.vc2 = s.mesh.vc2 ++ rs ∧ (∀ r ∈ rs, r.part = mhPart hdr ∧ r.writer = .edge m.id ∧ r.len ≤ 4096) ∧
        t = { s with mesh := t.mesh, op := t.op, rods := t.rods }) ∧
    (s.accepts hdr data = false → ∃ t, execBamenMessage l hops hdr data s = .next t ∧
      tget 0 (t.link l).totals ctDISCARD = min (tget 0 (s.link l).totals ctDISCARD + 1) (2 ^ 64 - 1) ∧ t.mesh = s.mesh) := by
  have howe : Sends s (w.oweCredits l hops n) := (Sends.takeData htake).oweCredits
  have hacc : (w.oweCredits l hops n).accepts hdr data = s.accepts hdr data := by rw [howe.frame]; rfl
  unfold execBamenMessage
  rw [htake]
  dsimp only
  rw [if_pos hdst, hacc]
  constructor
  · intro h
    rw [if_pos h]
    obtain ⟨rs, m, hland, hhdr, hdata, hleft, hlen, hvc2, hall, hframe⟩ :=
      startLanding_spec (s := w.oweCredits l hops n) (l := l) hdr data
    have hlanding : (w.oweCredits l hops n).op.landing = s.op.landing := (congrArg Optical.landing howe.op :)
    have hmesh : (w.oweCredits l hops n).mesh = s.mesh := (congrArg State.mesh howe.frame :)
    refine ⟨_, rs, m, rfl, by rw [hland, hlanding], hhdr, hdata, hleft, hlen, by rw [hvc2, hmesh], hall, ?_⟩
    generalize (w.oweCredits l hops n).startLanding l hdr data = t at hframe
    rw [howe.frame] at hframe
    exact hframe
  · intro h
    rw [if_neg (by simp [h])]
    refine ⟨_, rfl, ?_, ?_⟩
    · rw [totals_countEvent, if_pos rfl, howe.get Link.totals]
      rfl
    · exact (mesh_countEvents _).trans (congrArg State.mesh howe.frame :)

/-- A message that goes no further is counted by what stops it, and as a discard. -/
theorem bamenMessage_stopped {hops n c : Nat} {hdr : BitVec 256} {data : List Byte}
    (htake : s.takeData l hops hdr data = some (w, n)) (hdst : mhDst hdr ≠ ownNode)
    (hc : (hops = 1 ∧ c = ctHOPS) ∨ (hops ≠ 1 ∧ s.nextHops (mhDst hdr) = [] ∧ c = ctNO_ROUTE)) :
    ∃ t, execBamenMessage l hops hdr data s = .next t ∧
      tget 0 (t.link l).totals c = min (tget 0 (s.link l).totals c + 1) (2 ^ 64 - 1) ∧
      tget 0 (t.link l).totals ctDISCARD = min (tget 0 (s.link l).totals ctDISCARD + 1) (2 ^ 64 - 1) := by
  have hdata := Sends.takeData htake
  have howe : Sends s (w.oweCredits l hops n) := hdata.oweCredits
  have hroutes : w.op.routes = s.op.routes := (congrArg Optical.routes hdata.op :)
  have hhops : w.nextHops (mhDst hdr) = s.nextHops (mhDst hdr) := by unfold State.nextHops; rw [hroutes]
  have hne : c ≠ ctDISCARD := by obtain ⟨-, rfl⟩ | ⟨-, -, rfl⟩ := hc <;> decide
  have hdrop : execBamenMessage l hops hdr data s = .next ((w.oweCredits l hops n).dropArrival l c) := by
    unfold execBamenMessage
    rw [htake]
    dsimp only
    rw [if_neg hdst, hhops]
    obtain ⟨h1, rfl⟩ | ⟨h1, hnone, rfl⟩ := hc
    · rw [if_pos h1]
    · rw [if_neg h1, hnone]
      rfl
  obtain ⟨hkind, hdiscard⟩ := totals_dropArrival (s := w.oweCredits l hops n) (l := l) hne
  rw [howe.get Link.totals] at hkind hdiscard
  exact ⟨_, hdrop, hkind, hdiscard⟩

theorem bamenMessage_passes {hops n : Nat} {hdr : BitVec 256} {data : List Byte}
    (htake : s.takeData l hops hdr data = some (w, n)) (hdst : mhDst hdr ≠ ownNode) (h1 : hops ≠ 1)
    (hroute : s.nextHops (mhDst hdr) ≠ []) : ∃ t, execBamenMessage l hops hdr data s = .next t ∧
      (tget [] t.op.transit (8 * (l / 4) + (hops - 1))).map (·.hdr)
        = (tget [] s.op.transit (8 * (l / 4) + (hops - 1))).map (·.hdr) ++ [hdr] ∧ t = { s with op := t.op } := by
  obtain ⟨v, rfl, -⟩ := Sends.takeData_eq htake
  have hhops : (s.setLink l v).nextHops (mhDst hdr) = s.nextHops (mhDst hdr) := rfl
  unfold execBamenMessage
  rw [htake]
  dsimp only
  rw [if_neg hdst, if_neg h1, hhops, if_neg (by simpa using hroute)]
  refine ⟨_, rfl, ?_, ?_⟩
  · rw [hdrs_admitTransit, tget_tset, if_pos rfl, List.map_append]
    rfl
  · obtain ⟨_, honly⟩ : OpOnly s _ := (OpOnly.refl.setLink (l := l) (v := v)).update.admitTransit
    rw [honly]

/-! TRANSIT_SEND. -/

/-- One packet of a transit class's message that crosses the mesh from its port to another (R24, R29). -/
def State.crossOne (s : State) (k port dest : Nat) (c : Nat × Nat) : State :=
  let a := s.edgeNext port
  let b := a.1.edgeNext dest
  let id := b.1.mesh.nextId
  { b.1 with mesh := { b.1.mesh with nextId := id + 1 } }.outstanding2 id 16 (a.2.getD ((edgeRods port).getD 0 0))
    (b.2.getD ((edgeRods dest).getD 0 0)) c.1 c.2 (.transit k) false

section
variable {port hop : Nat} {m : Transit} {rest : List Transit} (hport : port < 16) (hhop : hop < 8)
  (hhead : tget [] s.op.transit (8 * port + hop) = m :: rest) (hin : m.inside = true) (hstage : m.stage = 0)
include hport hhop hhead hin hstage

/-- The message at the head of a transit class that has a next hop waits for its link, or goes on its way there. -/
theorem transitSend_route {out : Nat} (hout : s.chooseLink m.hdr = some out) : execTransitSend port hop s =
    if tget 0 (s.link out).credits hop = 0 || !(tget [] (s.link out).queue hop).isEmpty then .next s
    else if out / 4 = port then .next (s.forward (8 * port + hop) hop)
    else .next ((packets4k (32 + m.data.length)).foldl (fun s c => s.crossOne (8 * port + hop) port (out / 4) c)
      (s.stageTransit (8 * port + hop) 1)) := by
  unfold execTransitSend
  dsimp only
  rw [hhead]
  dsimp only
  rw [if_neg (by simp [hin, hport, hhop, hstage]), hout]
  exact rfl

theorem transitSend_crosses {out : Nat} (hout : s.chooseLink m.hdr = some out) (hcred : tget 0 (s.link out).credits hop ≠ 0)
    (hqueue : tget [] (s.link out).queue hop = []) (hother : out / 4 ≠ port) : ∃ t rs,
      execTransitSend port hop s = .next t ∧
      tget [] t.op.transit (8 * port + hop) = { m with stage := 1 } :: rest ∧ t.mesh.vc2 = s.mesh.vc2 ++ rs ∧
      rs.length = (32 + m.data.length + 4095) / 4096 ∧ (∀ r ∈ rs, r.writer = .transit (8 * port + hop) ∧ r.len ≤ 4096) ∧
      t = { s with mesh := t.mesh, op := t.op, rods := t.rods } := by
  rw [transitSend_route hport hhop hhead hin hstage hout, if_neg (by simp [hcred, hqueue]), if_neg hother]
  have hissues : Issues (fun r => r.writer = .transit (8 * port + hop) ∧ r.len ≤ 4096)
      (0 + (packets4k (32 + m.data.length)).length) (s.stageTransit (8 * port + hop) 1)
      ((packets4k (32 + m.data.length)).foldl (fun s c => s.crossOne (8 * port + hop) port (out / 4) c)
        (s.stageTransit (8 * port + hop) 1)) :=
    Issues.refl.foldl fun m t c hc h => h.edgeNext.edgeNext.nextId.outstanding2 fun r _ hw hl => ⟨hw, hl ▸ packets4k_le hc⟩
  obtain ⟨⟨_, _, honly⟩, rs, hvc2, hlen, hall⟩ := hissues
  rw [Nat.zero_add, length_packets4k] at hlen
  refine ⟨_, rs, rfl, ?_, hvc2, hlen, hall, by rw [honly]; rfl⟩
  rw [honly]
  show tget [] (tset [] s.op.transit _ _) _ = _
  rw [tget_tset, if_pos rfl, hhead]
  rfl

theorem transitSend_noRoute (hnone : s.chooseLink m.hdr = none) : ∃ t, execTransitSend port hop s = .next t ∧
    tget 0 (t.link m.inLink).totals ctNO_ROUTE = min (tget 0 (s.link m.inLink).totals ctNO_ROUTE + 1) (2 ^ 64 - 1) := by
  obtain ⟨hcount, -⟩ := totals_dropArrival (s := s.popTransit (8 * port + hop)) (l := m.inLink)
    (c := ctNO_ROUTE) (by decide)
  rw [Sends.refl.popTransit.get Link.totals] at hcount
  unfold execTransitSend
  dsimp only
  rw [hhead]
  dsimp only
  rw [if_neg (by simp [hin, hport, hhop, hstage]), hnone]
  exact ⟨_, rfl, hcount⟩

end

end Sys2Proof.Machine
end

section
/-! Routes that are learnt, advertised and forgotten, and flows that are released (R294, R295). -/

namespace Sys2Proof.Machine

open Sys2Proof

variable {s w : State} {l : Nat}

/-- What one destination of an advertisement does (R294). -/
def State.learn (s : State) (l : Nat) (a : RouteAdv) : State :=
  let cost := a.cost + s.linkCost l
  if a.node = ownNode || a.node = s.o (kOP_PEER_NODE l) then s
  else if 8 < a.hops + 1 || 0xFFFF ≤ cost then s.dropVias (fun n v => n == a.node && v.link == l)
  else s.addVia a.node { link := l, cost := cost, hops := a.hops + 1, seen := some s.stroke }

/-- No next hop that is removed is in the table any more. -/
theorem dropVias_gone {f : Nat → Via → Bool} {r : Route} (hr : r ∈ (s.dropVias f).op.routes) {v : Via} (hv : v ∈ r.vias) :
    f r.node v = false := by
  obtain ⟨q, -, rfl⟩ := List.mem_map.1 (List.mem_filter.1 hr).1
  simpa using (List.mem_filter.1 hv).2

theorem length_dropVias (f : Nat → Via → Bool) : (s.dropVias f).op.routes.length ≤ s.op.routes.length :=
  (List.length_filter_le ..).trans (List.length_map ..).le

/-- The table grows by one destination at most. -/
theorem length_addVia (node : Nat) (v : Via) : (s.addVia node v).op.routes.length ≤ s.op.routes.length + 1 := by
  unfold State.addVia
  dsimp only
  split
  · exact (List.length_map ..).le.trans (Nat.le_succ _)
  · split
    · split
      · rw [errRec_op]
        exact Nat.le_succ _
      · exact Nat.le_succ _
    · exact (List.length_append ..).le

/-- A next hop that is added stands in the table, while the table has room. -/
theorem addVia_mem {node : Nat} {v : Via} (hroom : s.op.routes.length < 16384) :
    ∃ r ∈ (s.addVia node v).op.routes, r.node = node ∧ v ∈ r.vias := by
  unfold State.addVia
  dsimp only
  split
  case isTrue h =>
    obtain ⟨r, hr, hnode⟩ := List.any_eq_true.1 h
    have hnode : r.node = node := by simpa using hnode
    refine ⟨_, List.mem_map_of_mem hr, ?_⟩
    rw [if_neg (by simpa using hnode)]
    split
    case isTrue hvia =>
      obtain ⟨x, hx, hlink⟩ := List.any_eq_true.1 hvia
      exact ⟨hnode, List.mem_map.2 ⟨x, hx, if_pos (by simpa using hlink)⟩⟩
    case isFalse => exact ⟨hnode, List.mem_append_right _ (List.mem_singleton_self _)⟩
  case isFalse =>
    rw [if_neg (by omega)]
    exact ⟨_, List.mem_append_right _ (List.mem_singleton_self _), rfl, List.mem_singleton_self _⟩

/-- What is learnt changes the routes and their number, and adds one destination at most. -/
theorem learn_kept (a : RouteAdv) : (∀ k, k ≠ kOP_ROUTE_COUNT → (s.learn l a).o k = s.o k) ∧
    (s.learn l a).op.routes.length ≤ s.op.routes.length + 1 := by
  unfold State.learn
  dsimp only
  split
  · exact ⟨fun _ _ => rfl, Nat.le_succ _⟩
  · split
    · exact ⟨fun k hk => o_setRoutes _ _ _ hk, (length_dropVias _).trans (Nat.le_succ _)⟩
    · exact ⟨fun k hk => o_addVia _ _ _ hk, length_addVia ..⟩

theorem learn_all_kept (adv : List RouteAdv) :
    (∀ k, k ≠ kOP_ROUTE_COUNT → (adv.foldl (fun s a => s.learn l a) s).o k = s.o k) ∧
    (adv.foldl (fun s a => s.learn l a) s).op.routes.length ≤ s.op.routes.length + adv.length := by
  induction adv generalizing s with
  | nil => exact ⟨fun _ _ => rfl, Nat.le_refl _⟩
  | cons a adv ih =>
    obtain ⟨hobj, hlen⟩ := learn_kept (s := s) (l := l) a
    obtain ⟨hobjs, hlens⟩ := ih (s := s.learn l a)
    refine ⟨fun k hk => (hobjs k hk).trans (hobj k hk), ?_⟩
    rw [List.length_cons]
    exact hlens.trans (by omega)

/-- The last destination of an advertisement is kept, or no longer reached over the link. -/
theorem routeAdvertisement_last {adv : List RouteAdv} {a : RouteAdv} (hlive : s.linkLive l = true) (hup : s.linkUp l = true)
    (htake : s.takeControl l 0x11 (advertData (adv ++ [a])) = some w) (hown : a.node ≠ ownNode)
    (hpeer : a.node ≠ s.o (kOP_PEER_NODE l)) :
    ∃ t, execRouteAdvertisement l (adv ++ [a]) s = .next t ∧
      (8 < a.hops + 1 ∨ 0xFFFF ≤ a.cost + s.linkCost l →
        ∀ r ∈ t.op.routes, r.node = a.node → ∀ v ∈ r.vias, v.link ≠ l) ∧
      (a.hops + 1 ≤ 8 → a.cost + s.linkCost l < 0xFFFF → s.op.routes.length + adv.length < 16384 →
        ∃ r ∈ t.op.routes, r.node = a.node ∧
          { link := l, cost := a.cost + s.linkCost l, hops := a.hops + 1, seen := some s.stroke } ∈ r.vias) := by
  have hw := Sends.takeControl htake
  have hroutes : w.op.routes = s.op.routes := (congrArg Optical.routes hw.op :)
  obtain ⟨hobj, hlen⟩ := learn_all_kept (s := w) (l := l) adv
  have hexec : execRouteAdvertisement l (adv ++ [a]) s = .next ((adv.foldl (fun s a => s.learn l a) w).learn l a) := by
    unfold execRouteAdvertisement
    rw [if_pos (by simp [hlive, hup]), htake]
    dsimp only
    rw [List.foldl_append]
    rfl
  generalize adv.foldl (fun s a => s.learn l a) w = u at hobj hlen hexec
  have ho (k : Nat) (hk : k ≠ kOP_ROUTE_COUNT) : u.o k = s.o k := (hobj k hk).trans (hw.o k)
  have hcost : u.linkCost l = s.linkCost l := by
    unfold State.linkCost State.lkState
    rw [ho _ (linkKey_ne_routeCount l (by decide)), ho _ (linkKey_ne_routeCount l (by decide))]
  have hstroke : u.stroke = s.stroke := ho _ (by decide)
  have hother : ¬(a.node = ownNode || a.node = u.o (kOP_PEER_NODE l)) = true := by
    rw [ho _ (linkKey_ne_routeCount l (by decide))]
    simp [hown, hpeer]
  refine ⟨_, hexec, fun hfar r hr hnode v hv hlink => ?_, fun hnear hcheap hroom => ?_⟩
  · unfold State.learn at hr
    dsimp only at hr
    rw [if_neg hother, if_pos (by simpa [hcost] using hfar)] at hr
    have hgone := dropVias_gone hr hv
    simp [hnode, hlink] at hgone
  · unfold State.learn
    dsimp only
    rw [if_neg hother, if_neg (by simp [hcost]; omega), hcost, hstroke]
    exact addVia_mem (by rw [hroutes] at hlen; omega)

/-! Advertising (R294). -/

theorem advertise_due (h : s.op.changed = true ∨ s.op.advAt + 100 ≤ s.stroke) : let t := s.advertise
    t.op.changed = false ∧ t.op.withdrawn = [] ∧ t.op.advAt = s.stroke ∧ t.op.routes = s.op.routes ∧
      t = { s with op := t.op } := by
  have hdue : ¬(!s.op.changed && decide (s.stroke < s.op.advAt + 100)) = true := by
    obtain h | h := h <;> simp [h]
  unfold State.advertise
  rw [if_neg hdue]
  extract_lets t src
  have hsent : Sends s t := Sends.refl.foldl fun _ _ h => .ite h.sendAdvert h
  clear_value t
  obtain ⟨_, rfl⟩ := hsent.only
  exact ⟨rfl, rfl, rfl, (congrArg Optical.routes hsent.op :), rfl⟩

/-- A link is told every destination of the table, and those that it has taught as unreachable. -/
theorem advert_routes {r : Route} (hr : r ∈ s.op.routes) : ∃ a ∈ s.advert l, a.node = r.node ∧
    (l ∈ r.hops → (∃ v ∈ r.vias, v.link = l) → a.cost = 0xFFFF ∧ a.hops = 0xFF) := by
  unfold State.advert
  extract_lets gone
  refine ⟨_, List.mem_append_left _ (List.mem_map_of_mem hr), ?_⟩
  split
  case h_1 v vs hvs =>
    split
    case isTrue => exact ⟨rfl, fun _ _ => ⟨rfl, rfl⟩⟩
    case isFalse hno =>
      refine ⟨rfl, fun hl ⟨x, hx, hlink⟩ => absurd ?_ hno⟩
      rw [← hvs]
      exact List.any_eq_true.2 ⟨x, List.mem_filter.2 ⟨hx, by simpa [hlink] using hl⟩, by simp [hlink]⟩
  case h_2 => exact ⟨rfl, fun _ _ => ⟨rfl, rfl⟩⟩

/-- It is told that those withdrawn are unreachable. -/
theorem advert_withdrawn {n : Nat} (hn : n ∈ s.op.withdrawn) (hgone : ∀ r ∈ s.op.routes, r.node ≠ n) :
    ∃ a ∈ s.advert l, a.node = n ∧ a.cost = 0xFFFF :=
  ⟨{ node := n, cost := 0xFFFF, hops := 0xFF }, List.mem_append_right _ (List.mem_map.2
    ⟨n, List.mem_filter.2 ⟨hn, by simpa using hgone⟩, rfl⟩), rfl, rfl⟩

/-- A next hop that stays was advertised within 400 strokes. -/
theorem expireVia_fresh {node x : Nat} {r : Route} (hr : r ∈ (s.expireVia node l).op.routes)
    (hnode : r.node = node) {v : Via}
    (hv : v ∈ r.vias) (hlink : v.link = l) (hseen : v.seen = some x) : s.stroke < x + 400 := by
  have hgone := dropVias_gone hr hv
  simpa [hnode, hlink, hseen] using hgone

/-! Flows (R295). -/

/-- A flow that is released is held no more. -/
theorem releaseFlow_gone (f : Flow) : (∀ g ∈ (s.releaseFlow f).op.flows, g.key ≠ f.key) ∧
    s.releaseFlow f = { s with op := (s.releaseFlow f).op } := by
  unfold State.releaseFlow
  extract_lets src u
  have hsent : Sends u (f.held.foldl (fun s m => (s.sendOn m.1 m.2).1) u) := Sends.refl.foldl fun _ _ h => h.sendOn
  have hflows : (f.held.foldl (fun s m => (s.sendOn m.1 m.2).1) u).op.flows = u.op.flows :=
    (congrArg Optical.flows hsent.op :)
  refine ⟨fun g hg => ?_, hsent.frame⟩
  rw [hflows] at hg
  simpa using (List.mem_filter.1 hg).2

/-- Settles O32: each command by its lemma. -/
theorem messagesAndRoutes : Obligations.MessagesAndRoutes := by
  unfold Obligations.MessagesAndRoutes
  refine ⟨?_, ?_, ?_, ?_, ?_, ?_, ?_, ?_⟩
  · intro l hops n hdr data s w htake
    refine ⟨fun hdst => (bamenMessage_here htake hdst).1, fun hdst => (bamenMessage_here htake hdst).2, fun hdst h1 => ?_,
      fun hdst h1 hnone => ?_, bamenMessage_passes htake⟩
    · exact bamenMessage_stopped htake hdst (.inl ⟨h1, rfl⟩)
    · exact bamenMessage_stopped htake hdst (.inr ⟨h1, hnone, rfl⟩)
  · intro l hops hdr data s hnone
    show execBamenMessage l hops hdr data s = _
    unfold execBamenMessage
    rw [hnone]
  · intro port hop m rest s hport hhop hhead hin hstage
    refine ⟨fun out hout => ⟨fun hwait => ?_, fun hcred hqueue => ⟨fun hsame => ?_, ?_⟩⟩,
      transitSend_noRoute hport hhop hhead hin hstage⟩
    · exact (transitSend_route hport hhop hhead hin hstage hout).trans (if_pos (by simpa using hwait))
    · exact (transitSend_route hport hhop hhead hin hstage hout).trans
        ((if_neg (by simp [hcred, hqueue])).trans (if_pos hsame))
    · exact transitSend_crosses hport hhop hhead hin hstage hout hcred hqueue
  · intro l adv a s w
    exact routeAdvertisement_last
  · intro s h
    exact ⟨_, rfl, advertise_due h⟩
  · intro l s
    exact ⟨fun r => advert_routes, fun n => advert_withdrawn⟩
  · intro node l s
    exact ⟨_, rfl, fun r hr hnode v hv hlink x => expireVia_fresh hr hnode hv hlink, rfl⟩
  · intro flow f s hfind htime
    have hkey : f.key = flow := by simpa using List.find?_some hfind
    obtain ⟨hgone, hframe⟩ := releaseFlow_gone (s := s) f
    refine ⟨s.releaseFlow f, ?_, hkey ▸ hgone, hframe⟩
    show execFlowHoldExpiry flow s = _
    unfold execFlowHoldExpiry
    rw [hfind]
    exact if_neg (by omega)

end Sys2Proof.Machine
end

section
/-! What the serving commands leave alone (R299 to R329): `Serves` says it, with one lemma for each function of the server. -/

namespace Sys2Proof.Machine

open Sys2Proof

/-- What of the server is neither a request nor a page, an account nor a channel. -/
def Server.course (v : Server) : Server :=
  { phase := v.phase, stopping := v.stopping, rows := v.rows, jtRows := v.jtRows, jtBusy := v.jtBusy }

/-- The state without what serving changes. -/
def State.unserved (s : State) : State :=
  { s with draws := 0, objs := [], decks := {}, harvests := [], host := {}, mon := {}, errs := {}, sv := s.sv.course }

/-- From `s` to `t`, the server has done some of its work: its course and the part's other units are as they were, and so is every
object up to SV_STEP in the order of keys. -/
structure Serves (s t : State) : Prop where
  rest : t.unserved = s.unserved
  objs : ∀ k ≤ kSV_STEP, t.o k = s.o k

namespace Serves

variable {s t u : State} {c : Prop} [Decidable c]

theorem refl : Serves s s := ⟨rfl, fun _ _ => rfl⟩

theorem trans (h : Serves s t) (h' : Serves t u) : Serves s u :=
  ⟨h'.rest.trans h.rest, fun k hk => (h'.objs k hk).trans (h.objs k hk)⟩

/-- Anything else may change that is not an object. -/
theorem frame (h : Serves s t) (hr : u.unserved = t.unserved := by rfl) (ho : u.objs = t.objs := by rfl) : Serves s u :=
  h.trans ⟨hr, fun k _ => by rw [State.o, ho]; rfl⟩

theorem setDecks {d} (h : Serves s t) : Serves s { t with decks := d } := h.frame

theorem setAdmitCount {n} (h : Serves s t) : Serves s { t with sv := { t.sv with admitCount := n } } := h.frame

theorem ite (ht : Serves s t) (hu : Serves s u) : Serves s (if c then t else u) := by
  split <;> assumption

theorem ite_fst {α : Type} {x y : State × α} (hx : Serves s x.1) (hy : Serves s y.1) : Serves s (if c then x else y).1 := by
  split <;> assumption

theorem foldl {α : Type} {f : State → α → State} {l : List α} (h : Serves s t)
    (hf : ∀ t x, Serves s t → Serves s (f t x)) : Serves s (l.foldl f t) :=
  List.foldlRecOn l f h fun t h x _ => hf t x h

theorem foldl_fst {α β : Type} {f : State × β → α → State × β} {l : List α} {x : State × β} (h : Serves s x.1)
    (hf : ∀ x a, Serves s x.1 → Serves s (f x a).1) : Serves s (l.foldl f x).1 :=
  List.foldlRecOn (motive := fun x => Serves s x.1) l f h fun x h a _ => hf x a h

/-! Read off. -/

theorem rods (h : Serves s t) : t.rods = s.rods := (congrArg State.rods h.rest :)

theorem course (h : Serves s t) : t.sv.course = s.sv.course := (congrArg State.sv h.rest :)

theorem stopping (h : Serves s t) : t.sv.stopping = s.sv.stopping := (congrArg Server.stopping h.course :)

theorem rows (h : Serves s t) : t.sv.rows = s.sv.rows := (congrArg Server.rows h.course :)

theorem jtRows (h : Serves s t) : t.sv.jtRows = s.sv.jtRows := (congrArg Server.jtRows h.course :)

theorem svState (h : Serves s t) : t.svState = s.svState := h.objs kSV_STATE (by decide)

theorem step (h : Serves s t) : t.o kSV_STEP = s.o kSV_STEP := h.objs kSV_STEP le_rfl

/-! Operations over the state. -/

theorem setO {k v : Nat} (h : Serves s t) (hk : kSV_STEP < k := by decide) : Serves s (t.setO k v) :=
  h.trans ⟨rfl, fun _ hj => (o_setO ..).trans (if_neg (Nat.ne_of_lt (hj.trans_lt hk)))⟩

theorem addO {w k n : Nat} (h : Serves s t) (hk : kSV_STEP < k := by decide) : Serves s (t.addO w k n) := h.setO hk

theorem errRec {r : ErrRec} (h : Serves s t) (hr : r.cls ≠ 3) : Serves s (t.errRec r) := by
  refine h.frame ?_ (errRec_objs t r hr)
  rw [errRec_frame]
  rfl

theorem hostWrite {a bs} (h : Serves s t) : Serves s (t.hostWrite a bs) := h.frame

theorem msix {fn v} (h : Serves s t) : Serves s (t.msix fn v) := .ite h.frame h.frame

theorem draw (h : Serves s t) : Serves s t.draw.1 := h.frame

theorem setHarvest {p v} (h : Serves s t) : Serves s (t.setHarvest p v) := h.frame

theorem ldWrite {p a bs} (h : Serves s t) : Serves s (t.ldWrite p a bs) := by
  induction bs generalizing t a with
  | nil => exact h
  | cons b bs ih =>
    unfold State.ldWrite
    split
    · exact ih h.frame
    · exact ih h

/-! Tables, pages, accounts and channels (Machine/SvOps.lean). -/

theorem setRx {i x} (h : Serves s t) : Serves s (t.setRx i x) := h.frame

theorem setAcct {a v} (h : Serves s t) : Serves s (t.setAcct a v) := h.frame

theorem setChan {c v} (h : Serves s t) : Serves s (t.setChan c v) := h.frame

theorem latchAccts (h : Serves s t) : Serves s t.latchAccts := h.frame

theorem dequeue {i} (h : Serves s t) : Serves s (t.dequeue i) := h.frame

theorem putTable {off bs} (h : Serves s t) : Serves s (t.putTable off bs) := by
  unfold State.putTable
  split
  · exact h.frame
  · exact h

theorem setReq {i r} (h : Serves s t) : Serves s (t.setReq i r) := h.frame.putTable

theorem setPage {d x} (h : Serves s t) : Serves s (t.setPage d x) := h.frame.putTable

theorem svCounts (h : Serves s t) : Serves s t.svCounts := h.setO.setO.setO.setO

theorem relink {i} (h : Serves s t) : Serves s (t.relink i) := (h.foldl fun _ _ h => h.setPage).setReq

theorem growPages {i n} (h : Serves s t) : Serves s (State.growPages i n t) := by
  induction n generalizing t with
  | zero => exact h.relink
  | succ n ih => exact ih h.setPage

theorem freePages {i} (h : Serves s t) : Serves s (t.freePages i) :=
  (h.foldl fun _ _ h => .ite h h.setPage).frame.setReq

theorem fillPages {i} (h : Serves s t) : Serves s (t.fillPages i) := h.foldl fun _ _ h => h.setPage

/-- The channels' objects come after SV_STEP. -/
theorem chKey {a i : Nat} (h : kSV_STEP < a := by decide) : kSV_STEP < a + 256 * i := h.trans_le (Nat.le_add_right ..)

theorem drainChan {c} (h : Serves s t) : Serves s (t.drainChan c) := by
  unfold State.drainChan
  extract_lets +onlyGivenNames x n waiting k
  refine .ite h ?_
  extract_lets head s1 rest s2
  have h2 : Serves s s2 := ((h.foldl fun _ _ h => h.hostWrite).setO chKey).setChan
  exact (Serves.ite h2 h2.hostWrite).msix

theorem postRec {c r} (h : Serves s t) : Serves s (t.postRec c r) := .ite h h.setChan.drainChan

theorem postFinal {i result} (h : Serves s t) : Serves s (t.postFinal i result) := .ite h h.setReq.setRx.postRec

theorem leave {i result} (h : Serves s t) : Serves s (t.leave i result) :=
  h.postFinal.dequeue.freePages.setReq.frame

theorem badReq {i result} (h : Serves s t) : Serves s (t.badReq i result) := h.setReq.setRx.svCounts

/-! The boundary (R311). -/

theorem settleDemotion {m} (h : Serves s t) : Serves s (t.settleDemotion m) :=
  .ite h.frame.setPage.setPage (.ite h.frame.setPage.setPage h.frame.setPage.setPage.relink)

theorem closeChan {c} (h : Serves s t) : Serves s (t.closeChan c) :=
  h.foldl fun _ _ h => h.setRx.setReq.leave.addO chKey

theorem chanBoundary {c} (h : Serves s t) : Serves s (t.chanBoundary c) := by
  unfold State.chanBoundary
  extract_lets x s1 s2 mine
  have h1 : Serves s s1 := by
    unfold s1
    split
    · next b n _ =>
      have hnew {v} : Serves s (((((t.setO (kSV_CH_BASE c) b).setO (kSV_CH_ENTRIES c) n).setO (kSV_CH_HEAD c) 0).setO
          (kSV_CH_TAIL c) 0).setChan c v) := ((((h.setO chKey).setO chKey).setO chKey).setO chKey).setChan
      exact .ite (.ite hnew.closeChan hnew) h.setChan
    · exact h
  have h2 : Serves s s2 := h1.drainChan
  exact .ite (h2.foldl fun _ _ h => .ite h.setReq h) (.ite h2 ((h2.foldl fun _ _ h => h.setRx.setReq).addO chKey))

theorem leaveAll (h : Serves s t) : Serves s t.leaveAll :=
  h.foldl fun _ _ h => .ite h.leave (.ite h.leave (.ite h.leave h))

theorem grantPositions (h : Serves s t) : Serves s t.grantPositions.1 :=
  ((h.foldl fun _ _ h => h.setRx).foldl_fst fun _ _ h => h.setRx).foldl_fst fun _ _ h => h.setRx

theorem pauseReq {i} (h : Serves s t) : Serves s (t.pauseReq i) := h.freePages.setReq.setRx.setAcct.addO

theorem pauseUntil {n any} (h : Serves s t) : Serves s (State.pauseUntil n t any).1 := by
  induction n generalizing t any with
  | zero => exact h
  | succ n ih =>
    unfold State.pauseUntil
    refine .ite_fst h ?_
    split
    · exact h
    · exact ih h.pauseReq

theorem allocAll (h : Serves s t) : Serves s t.allocAll := h.foldl fun _ _ h => .ite h h.growPages

theorem clearCredits (h : Serves s t) : Serves s t.clearCredits := h.foldl fun _ _ h => .ite h.setAcct h

theorem creditRound {l} (h : Serves s t) : Serves s (t.creditRound l).1 := by
  unfold State.creditRound
  dsimp only
  split
  · exact h.foldl fun _ _ h => h.setAcct
  · exact (h.foldl fun _ _ h => h.setAcct).setAcct

theorem admitReq {i c} (h : Serves s t) : Serves s (t.admitReq i c) := h.dequeue.setAdmitCount.setRx.setReq.growPages

theorem admitAll {n left} (h : Serves s t) : Serves s (State.admitAll n left t) := by
  induction n generalizing t left with
  | zero => exact h
  | succ n ih =>
    unfold State.admitAll
    refine .ite h.clearCredits ?_
    have hr {l} : Serves s (t.clearCredits.creditRound l).1 := h.clearCredits.creditRound
    dsimp only
    split
    · exact hr
    · split
      · exact hr
      · exact .ite hr (.ite hr.addO (ih hr.admitReq))

theorem demote {n l} (h : Serves s t) : Serves s (State.demote n l t) := by
  induction n generalizing t l with
  | zero => exact h
  | succ n ih =>
    cases l with
    | nil => exact h
    | cons d l => exact .ite h (ih h.setPage.setPage.frame)

/-! Demotions, and the phases of a step (R309, R315 to R317, R322). -/

theorem copySlot {draft d e} (h : Serves s t) : Serves s (t.copySlot draft d e).1 := by
  unfold State.copySlot
  dsimp only
  split
  · exact .ite_fst (h.errRec uncorrRec_cls) h.ldWrite
  · exact h

theorem readFails {p i a} (h : Serves s t) : Serves s (t.readFails p i a) := (h.errRec uncorrRec_cls).badReq

theorem countVerify {i} (h : Serves s t) : Serves s (t.countVerify i) := h.setReq.addO.addO.fillPages

theorem harvestTokens {i n pos} (h : Serves s t) : Serves s (t.harvestTokens i n pos) := by
  unfold State.harvestTokens
  refine .ite h (.ite (h.addO chKey) ?_)
  dsimp only
  split
  · exact h.draw.setHarvest.setDecks
  · exact h.draw.setHarvest

theorem deliverTokens {i result} (h : Serves s t) : Serves s (t.deliverTokens i result) :=
  .harvestTokens (.ite (h.foldl fun _ _ h => h.postRec) ((h.foldl fun _ _ h => h.postRec).setReq.setRx))

theorem deliverReq {i} (h : Serves s t) : Serves s (t.deliverReq i) := by
  unfold State.deliverReq
  extract_lets r x n bad
  split
  extract_lets s1 s2
  have h2 : Serves s s2 := .ite h.setReq.addO h.setReq
  exact .ite h2 (.ite h2.deliverTokens (.ite h2.deliverTokens (.ite h2.badReq (.ite h2.setReq h2))))

theorem chargeAccts (h : Serves s t) : Serves s t.chargeAccts := h.foldl fun _ _ h => .ite h h.setAcct

/-! The tokens of a row (R316). -/

theorem emit {i token drafted} (h : Serves s t) : Serves s (t.emit i token drafted) := by
  unfold State.emit
  refine .ite h ?_
  dsimp only
  refine .setRx ?_
  split
  · exact .ite (.errRec h.frame uncorrRec_cls) h.frame
  · exact h

theorem resolve {i n} (h : Serves s t) : Serves s (State.resolve i n t) := by
  induction n generalizing t with
  | zero => exact h
  | succ n ih =>
    unfold State.resolve
    refine .ite h ?_
    split
    · exact h
    · exact ih h.emit.setRx
    · exact h.emit.setRx

end Serves

end Sys2Proof.Machine
end

section
/-! What the request table and the working values of requests read as after the server's operations (R301, R303, R310). -/

namespace Sys2Proof.Machine

open Sys2Proof

variable (s : State)

theorem putTable_frame (off : Nat) (bs : List Byte) : s.putTable off bs = { s with decks := (s.putTable off bs).decks } := by
  unfold State.putTable
  split <;> rfl

@[simp] theorem putTable_sv (off : Nat) (bs : List Byte) : (s.putTable off bs).sv = s.sv := by rw [putTable_frame]

theorem setReq_frame (i : Nat) (r : Req) : s.setReq i r =
    { s with decks := (s.setReq i r).decks, sv := { s.sv with reqs := tset {} s.sv.reqs i r } } :=
  putTable_frame ..

@[simp] theorem setReq_sv (i : Nat) (r : Req) : (s.setReq i r).sv = { s.sv with reqs := tset {} s.sv.reqs i r } :=
  putTable_sv ..

@[simp] theorem setPage_sv (d : Nat) (x : Page) : (s.setPage d x).sv = { s.sv with pages := tset {} s.sv.pages d x } :=
  putTable_sv ..

/-- The counts of R330 are four objects. -/
theorem svCounts_eq : ∃ a c d, s.svCounts = (((s.setO kSV_RUNNING a).setO kSV_QUEUED
    (s.reqsIn [rqQUEUED, rqPAUSED]).length).setO kSV_FREE_HOT c).setO kSV_FREE_COLD d := ⟨_, _, _, rfl⟩

theorem svCounts_frame : s.svCounts = { s with objs := s.svCounts.objs } := by
  obtain ⟨_, _, _, h⟩ := svCounts_eq s
  rw [h]
  rfl

theorem queued_svCounts : s.svCounts.o kSV_QUEUED = (s.reqsIn [rqQUEUED, rqPAUSED]).length := by
  obtain ⟨_, _, _, h⟩ := svCounts_eq s
  simp [h]

@[simp] theorem svCounts_sv : s.svCounts.sv = s.sv := by rw [svCounts_frame]

@[simp] theorem setRx_sv (i : Nat) (x : ReqX) : (s.setRx i x).sv = { s.sv with xs := tset {} s.sv.xs i x } := rfl

/-- The request table and the working values depend on the server alone. -/
theorem req_congr {s t : State} (h : t.sv.reqs = s.sv.reqs) (j : Nat) : t.req j = s.req j := by rw [State.req, h]; rfl

theorem rx_congr {s t : State} (h : t.sv.xs = s.sv.xs) (j : Nat) : t.rx j = s.rx j := by rw [State.rx, h]; rfl

@[simp] theorem req_setReq (i j : Nat) (r : Req) : (s.setReq i r).req j = if j = i then r else s.req j := by
  simp [State.req]

@[simp] theorem rx_setReq (i j : Nat) (r : Req) : (s.setReq i r).rx j = s.rx j := by simp [State.rx]

@[simp] theorem req_setRx (i j : Nat) (x : ReqX) : (s.setRx i x).req j = s.req j := rfl

@[simp] theorem rx_setRx (i j : Nat) (x : ReqX) : (s.setRx i x).rx j = if j = i then x else s.rx j := tget_tset ..

@[simp] theorem req_setPage (d j : Nat) (x : Page) : (s.setPage d x).req j = s.req j := by simp [State.req]

@[simp] theorem req_setAcct (a j : Nat) (v : Acct) : (s.setAcct a v).req j = s.req j := rfl

@[simp] theorem req_setChan (c j : Nat) (v : Chan) : (s.setChan c v).req j = s.req j := rfl

@[simp] theorem req_setO (k v j : Nat) : (s.setO k v).req j = s.req j := rfl

@[simp] theorem req_addO (w k n j : Nat) : (s.addO w k n).req j = s.req j := rfl

@[simp] theorem req_svCounts (j : Nat) : s.svCounts.req j = s.req j := by simp [State.req]

@[simp] theorem req_errRec (r : ErrRec) (j : Nat) : (s.errRec r).req j = s.req j := req_congr (by rw [errRec_sv]) j

/-- The server is in another phase of its step (R310). -/
def State.setPhase (s : State) (n : Nat) : State := { s with sv := { s.sv with phase := n } }

@[simp] theorem setPhase_phase (n : Nat) : (s.setPhase n).sv.phase = n := rfl

@[simp] theorem setPhase_req (n j : Nat) : (s.setPhase n).req j = s.req j := rfl

@[simp] theorem setPhase_o (n k : Nat) : (s.setPhase n).o k = s.o k := rfl

@[simp] theorem setPhase_errs (n : Nat) : (s.setPhase n).errs = s.errs := rfl

/-- A fold whose steps leave the request table leaves it. -/
theorem req_foldl {α : Type} {f : State → α → State} (l : List α) (j : Nat) (h : ∀ t x, (f t x).req j = t.req j) :
    (l.foldl f s).req j = s.req j :=
  List.foldlRecOn (motive := fun t => t.req j = s.req j) l f rfl fun t ht x _ => (h t x).trans ht

@[simp] theorem req_fillPages (i j : Nat) : (s.fillPages i).req j = s.req j := req_foldl _ _ _ fun _ _ => req_setPage ..

/-- A request that meets a fault is LEAVING with its result (R329). -/
@[simp] theorem req_badReq (i j result : Nat) :
    (s.badReq i result).req j = if j = i then { s.req i with state := rqLEAVING, result := result } else s.req j := by
  simp [State.badReq]

end Sys2Proof.Machine
end

section
/-! The server's control, submissions and cancellations (R300 to R302, R305, R326, R391). -/

namespace Sys2Proof.Machine

open Sys2Proof

/-! Control. -/

variable {s : State}

theorem access_accepted {path : Path} {f : State → State × Nat} {t : State} (hup : (s.ringBefore path).dictUp = true)
    (hw : (s.ringBefore path).mayWrite path = true) (h : f (s.ringBefore path) = (t, 0)) :
    s.access path f = t.report path 0 := control_accepted _ hup hw h

theorem access_refused {path : Path} {f : State → State × Nat} {t : State} {e : Nat}
    (hup : (s.ringBefore path).dictUp = true) (hw : (s.ringBefore path).mayWrite path = true)
    (h : f (s.ringBefore path) = (t, e)) (he : e ≠ 0) : s.access path f = (s.ringBefore path).report path e := by
  have h2 : (f (s.ringBefore path)).2 = e := by rw [h]
  exact (control_refused _ hup hw (h2 ▸ he)).trans (by rw [h2])

theorem zeroTables_frame : s.zeroTables = { s with decks := s.zeroTables.decks } := by
  unfold State.zeroTables
  split <;> rfl

theorem o_svCounts {k : Nat} (h : k ≤ kSV_STEP) : s.svCounts.o k = s.o k := Serves.refl.svCounts.objs k h

/-- START of a STOPPED server with valid settings (R300 to R302). -/
theorem svStart_accepted (hst : s.svState = svSTOPPED) (hfw : s.fwGate = 0) (hok : s.svConfigOk = true) :
    ∃ t, s.svStart = (t, 0) ∧ t.svState = svRUNNING ∧ t.o kSV_STEP = 0 ∧ t.sv.reqs = [] ∧ t.sv.pages = [] ∧
      t.sv.phase = 0 ∧ t.o kSV_QUEUED = 0 ∧ t = { s with objs := t.objs, decks := t.decks, sv := t.sv } := by
  unfold State.svStart
  rw [if_neg (by simpa using hst), if_neg (by simpa using hfw), if_neg (by simp [hok]), zeroTables_frame]
  refine ⟨_, rfl, ?_, ?_, by simp, by simp, by simp, ?_, svCounts_frame _⟩
  · rw [State.svState, o_svCounts (by decide)]
    simp
  · rw [o_svCounts (by decide)]
    simp
  · rw [queued_svCounts]
    simp [State.reqsIn, State.reqIds]

theorem svStart_invalid (hst : s.svState = svSTOPPED) (hfw : s.fwGate = 0) (hok : s.svConfigOk = false) :
    s.svStart = (s, stSV_CONFIG) := by
  unfold State.svStart
  rw [if_neg (not_not.2 hst), if_neg (not_not.2 hfw), if_pos (by simp [hok])]

end Sys2Proof.Machine
end

section
/-! Commands of the host that are acted on at once (R389, R391 to R393). -/

namespace Sys2Proof.Machine

open Sys2Proof

/-- From `s` to `t`, commands have been accepted and completed: the host's side, the carry units' buckets and objects have
changed. -/
def Completes (s t : State) : Prop := ∃ o c h, t = { s with objs := o, cy := c, host := h }

namespace Completes

variable {s t : State} {c : Prop} [Decidable c]

theorem refl : Completes s s := ⟨_, _, _, rfl⟩

theorem ite {u : State} (ht : Completes s t) (hu : Completes s u) : Completes s (if c then t else u) := by
  split <;> assumption

theorem foldl {α : Type} {f : State → α → State} {l : List α} (h : Completes s t)
    (hf : ∀ t x, Completes s t → Completes s (f t x)) : Completes s (l.foldl f t) :=
  List.foldlRecOn l f h fun t h x _ => hf t x h

theorem setFunc {f v} (h : Completes s t) : Completes s (t.setFunc f v) := by
  obtain ⟨_, _, _, rfl⟩ := h
  exact ⟨_, _, _, rfl⟩

theorem setBucket {b} (h : Completes s t) : Completes s (t.setBucket b) := by
  obtain ⟨_, _, _, rfl⟩ := h
  exact ⟨_, _, _, rfl⟩

theorem addO {w k n} (h : Completes s t) : Completes s (t.addO w k n) := by
  obtain ⟨_, _, _, rfl⟩ := h
  exact ⟨_, _, _, rfl⟩

theorem endStatus {k st} (h : Completes s t) : Completes s (t.endStatus k st) :=
  .ite h (h.foldl fun _ _ h => .ite h.setBucket h.setBucket.addO)

theorem complete {k st r w} (h : Completes s t) : Completes s (t.complete k st r w) := by
  obtain ⟨x, hx⟩ := complete_eq t k st r w
  obtain ⟨_, _, _, he⟩ := h.endStatus (k := k) (st := st)
  rw [hx, he]
  exact ⟨_, _, _, rfl⟩

theorem acceptHead {fn q} (h : Completes s t) : Completes s (t.acceptHead fn q) := h.setFunc

theorem flushHead {fn q n} (h : Completes s t) : Completes s (State.flushHead fn q n t) := by
  induction n generalizing t with
  | zero => exact h
  | succ n ih =>
    unfold State.flushHead
    split
    · exact .ite (ih h.acceptHead.complete) (.ite (ih h.acceptHead.complete) h)
    · exact h

theorem flushQueue {fn q} (h : Completes s t) : Completes s (t.flushQueue fn q) := h.flushHead

theorem sv (h : Completes s t) : t.sv = s.sv := by
  obtain ⟨_, _, _, rfl⟩ := h
  rfl

theorem decks (h : Completes s t) : t.decks = s.decks := by
  obtain ⟨_, _, _, rfl⟩ := h
  rfl

theorem rods (h : Completes s t) : t.rods = s.rods := by
  obtain ⟨_, _, _, rfl⟩ := h
  rfl

end Completes

section
variable {s : State} {fn q op : Nat} {h : BitVec 1024} {f : State → Cmd → Nat → Except Nat State}
  (hready : s.headReady fn q = some h) (hf : s.fatal = false) (hcheck : s.commonCheck fn h = 0)
  (hserved : s.partServed (cmdPart fn h) = true) (hop : hcOpcode h = op)
include hready hf hcheck hserved hop

/-- A command at the head of its queue that passes the checks of R392 is refused with a status or carried out. -/
theorem immediate_acts :
    (∀ e, f (s.acceptHead fn q) (mkCmd s fn q h) s.host.nextId = .error e →
      s.immediate fn q op f = ((s.acceptHead fn q).complete (mkCmd s fn q h) e 0 0).flushQueue fn q) ∧
    (∀ t, f (s.acceptHead fn q) (mkCmd s fn q h) s.host.nextId = .ok t → s.immediate fn q op f = t.flushQueue fn q) := by
  have hnext : (s.acceptHead fn q).host.nextId = s.host.nextId := rfl
  unfold State.immediate
  rw [hready]
  dsimp only
  rw [if_neg (by simp [hop, hf]), if_neg (by simp [hserved]), if_neg (by simp [hcheck]), hnext]
  exact ⟨fun e he => by simp only [he], fun t ht => by simp only [ht]⟩

/-- One that is carried out changes beside its effect what its completion changes. -/
theorem immediate_ok {t : State}
    (ht : f (s.acceptHead fn q) (mkCmd s fn q h) s.host.nextId = .ok (t.complete (mkCmd s fn q h) 0 0 0)) :
    Completes t (s.immediate fn q op f) := by
  rw [(immediate_acts hready hf hcheck hserved hop).2 _ ht]
  exact Completes.refl.complete.flushQueue

/-- One that is refused changes what its completion changes. -/
theorem immediate_error {e : Nat}
    (he : f (s.acceptHead fn q) (mkCmd s fn q h) s.host.nextId = .error e) : Completes s (s.immediate fn q op f) := by
  rw [(immediate_acts hready hf hcheck hserved hop).1 _ he]
  exact Completes.refl.acceptHead.complete.flushQueue
end

/-! Submissions and cancellations (R305, R326). -/

variable {s : State} {fn q : Nat} {h : BitVec 1024}

/-- A command of the physical function, or of that of the server's partition, is not denied (R392). -/
theorem svDenied_eq_false (hfn : fn = 0 ∨ fn = s.svTeacher + 1) : (s.acceptHead fn q).svDenied (mkCmd s fn q h) = false := by
  have hd : (s.acceptHead fn q).svDenied (mkCmd s fn q h) = (fn != 0 && fn != s.svTeacher + 1) := rfl
  rw [hd]
  obtain rfl | rfl := hfn <;> simp

/-- A submitted request takes a place in the queue, whatever its priority (R313). -/
theorem mem_queueAt (i : Nat) (l : List Nat) : i ∈ s.queueAt i l := by
  induction l with
  | nil => simp [State.queueAt]
  | cons j t ih =>
    unfold State.queueAt
    split <;> simp [ih]

/-- An accepted entry is QUEUED, and its request joins its account's queue (R305). -/
theorem submit_spec (i : Nat) (r : Req) :
    (s.submit i r).req i = { r with state := rqQUEUED, draftK := r.draftMax } ∧
    i ∈ ((s.submit i r).acct r.account).queued ∧ (∀ j, j ≠ i → (s.submit i r).req j = s.req j) ∧
    (s.submit i r).rods = s.rods := by
  refine ⟨?_, ?_, fun j hj => ?_, Serves.refl.setReq.setRx.setAcct.svCounts.rods⟩
  · simp [State.submit]
  · have hq : ((s.submit i r).acct r.account).queued = _ := congrArg Acct.queued (tget_tset ..)
    rw [hq, if_pos rfl]
    exact mem_queueAt ..
  · simp [State.submit, hj]

/-- CANCEL is set once, and the cancel step fixed (R326). -/
theorem cancelReq_spec (i : Nat) (hc : (s.req i).cancel = false) :
    (s.cancelReq i).req i = { s.req i with cancel := true } ∧ ((s.cancelReq i).rx i).cancelStep = s.o kSV_STEP + 1 ∧
    (∀ j, j ≠ i → (s.cancelReq i).req j = s.req j) := by
  unfold State.cancelReq
  rw [if_neg (by simp [hc])]
  exact ⟨by simp, by simp, fun j hj => by simp [hj]⟩

section
variable (hready : s.headReady fn q = some h) (hf : s.fatal = false) (hcheck : s.commonCheck fn h = 0)
  (hserved : s.partServed (cmdPart fn h) = true) (hfn : fn = 0 ∨ fn = s.svTeacher + 1)
include hready hf hcheck hserved hfn

theorem svSubmit_accepted (hop : hcOpcode h = 10)
    (hok : s.submitCheck (hcArg h 0) (Req.ofDesc (hcDesc h)) = 0) : ∃ t, execSvSubmit fn q s = .next t ∧
      Completes ((s.acceptHead fn q).submit (hcArg h 0) (Req.ofDesc (hcDesc h))) t := by
  refine ⟨_, rfl, immediate_ok hready hf hcheck hserved hop ?_⟩
  have hsame : (s.acceptHead fn q).submitCheck (hcArg h 0) (Req.ofDesc (hcDesc h)) = 0 := hok
  exact (if_neg (by simp [svDenied_eq_false hfn])).trans (if_neg (not_not.2 hsame))

theorem svSubmit_refused (hop : hcOpcode h = 10)
    (hbad : s.submitCheck (hcArg h 0) (Req.ofDesc (hcDesc h)) ≠ 0) : ∃ t, execSvSubmit fn q s = .next t ∧ Completes s t :=
  ⟨_, rfl, immediate_error hready hf hcheck hserved hop ((if_neg (by simp [svDenied_eq_false hfn])).trans (if_pos hbad))⟩

theorem svCancel_accepted (hop : hcOpcode h = 11)
    (hused : (s.req (hcArg h 0)).state ≠ rqFREE) (htag : (s.req (hcArg h 0)).hostTag = hcArg h 1) :
    ∃ t, execSvCancel fn q s = .next t ∧ Completes ((s.acceptHead fn q).cancelReq (hcArg h 0)) t := by
  refine ⟨_, rfl, immediate_ok hready hf hcheck hserved hop ?_⟩
  have hsame : (s.acceptHead fn q).req (hcArg h 0) = s.req (hcArg h 0) := rfl
  have hhdr : (mkCmd s fn q h).hdr = h := rfl
  exact (if_neg (by simp [svDenied_eq_false hfn])).trans (if_neg (by simp [hhdr, hsame, hused, htag]))

theorem svCancel_refused (hop : hcOpcode h = 11)
    (hstale : (s.req (hcArg h 0)).state = rqFREE ∨ (s.req (hcArg h 0)).hostTag ≠ hcArg h 1) :
    ∃ t, execSvCancel fn q s = .next t ∧ Completes s t := by
  refine ⟨_, rfl, immediate_error (e := stSV_STALE) hready hf hcheck hserved hop ?_⟩
  have hsame : (s.acceptHead fn q).req (hcArg h 0) = s.req (hcArg h 0) := rfl
  have hhdr : (mkCmd s fn q h).hdr = h := rfl
  exact (if_neg (by simp [svDenied_eq_false hfn])).trans (if_pos (by simpa [hhdr, hsame] using hstale))

end

/-- Settles O34: control by the path's turn, SUBMIT and CANCEL by what the queue's head does. -/
theorem serverAndRequests : Obligations.ServerAndRequests := by
  unfold Obligations.ServerAndRequests
  refine ⟨?_, ?_⟩
  · intro path s v hup hw
    refine ⟨fun hst hfw hok => ?_, fun hst => ?_, fun hst hfw hok => ?_, fun hst => ?_, fun hst => ?_, fun hst => ?_,
      fun hst => ?_⟩
    · obtain ⟨t, ht, hstate, hstep, hreqs, hpages, hphase, hqueued, hframe⟩ := svStart_accepted hst hfw hok
      refine ⟨t.report path 0, congrArg _ (access_accepted hup hw ht), hstate, hstep, hreqs, hpages, hphase, hqueued,
        report_get .., ?_⟩
      rw [hframe]
      rfl
    · exact congrArg _ (access_refused hup hw (if_pos hst) (by decide))
    · exact congrArg _ (access_refused hup hw (svStart_invalid hst hfw hok) (by decide))
    · exact congrArg _ (access_accepted hup hw (if_neg hst))
    · exact congrArg _ (access_accepted hup hw (if_pos hst))
    · exact congrArg _ (access_accepted hup hw (if_neg (not_not.2 hst)))
    · exact congrArg _ (access_accepted hup hw (if_pos hst))
  · intro fn q h s hready hf hcheck hserved _ hfn
    refine ⟨fun hop => ⟨fun hok => ?_, fun hbad => ?_⟩, fun hop => ⟨fun hused htag hc => ?_, fun hstale => ?_⟩⟩
    · obtain ⟨t, ht, hcomp⟩ := svSubmit_accepted hready hf hcheck hserved hfn hop hok
      obtain ⟨hreq, hqueue, hothers, hrods⟩ := submit_spec (s := s.acceptHead fn q) (hcArg h 0) (Req.ofDesc (hcDesc h))
      have hsv := congrArg Server.reqs hcomp.sv
      refine ⟨t, ht, (req_congr hsv _).trans hreq, ?_, fun i hi => (req_congr hsv i).trans (hothers i hi),
        hcomp.rods.trans hrods⟩
      rw [State.acct, hcomp.sv]
      exact hqueue
    · obtain ⟨t, ht, hcomp⟩ := svSubmit_refused hready hf hcheck hserved hfn hop hbad
      exact ⟨t, ht, hcomp.sv, hcomp.decks⟩
    · obtain ⟨t, ht, hcomp⟩ := svCancel_accepted hready hf hcheck hserved hfn hop hused htag
      obtain ⟨hreq, hstep, hothers⟩ := cancelReq_spec (s := s.acceptHead fn q) (hcArg h 0) hc
      have hsv := congrArg Server.reqs hcomp.sv
      refine ⟨t, ht, (req_congr hsv _).trans hreq, ?_, fun i hi => (req_congr hsv i).trans (hothers i hi)⟩
      rw [rx_congr (congrArg Server.xs hcomp.sv), hstep]
      rfl
    · obtain ⟨t, ht, hcomp⟩ := svCancel_refused hready hf hcheck hserved hfn hop hstale
      exact ⟨t, ht, hcomp.sv, hcomp.decks⟩

end Sys2Proof.Machine
end

section
/-! A boundary with a STOP pending leaves no request (R302, R311, R325). -/

namespace Sys2Proof.Machine

open Sys2Proof

/-- What a table answers beside its default, it lists. -/
theorem mem_of_tget_ne {α : Type} {d : α} {t : Tab α} {i : Nat} (h : tget d t i ≠ d) : (i, tget d t i) ∈ t := by
  induction t with
  | nil => exact absurd rfl h
  | cons x t ih =>
    obtain ⟨k, v⟩ := x
    by_cases hi : i = k
    · subst hi; simp [tget]
    · have hrest : tget d ((k, v) :: t) i = tget d t i := by simp [tget, hi]
      rw [hrest] at h ⊢
      exact List.mem_cons_of_mem _ (ih h)

section
variable (s : State)

/-- A request that is not FREE is among those in use. -/
theorem mem_reqIds {i : Nat} (h : (s.req i).state ≠ rqFREE) : i ∈ s.reqIds := by
  have hmem : (i, s.req i) ∈ s.sv.reqs := mem_of_tget_ne fun he => h (congrArg Req.state he)
  exact List.mem_map.2 ⟨_, List.mem_filter.2 ⟨hmem, by simpa using h⟩, rfl⟩

/-- From `s` to `t`, records have been written into the ring of channel `c`: of the objects its head alone has changed, and the
requests are as they were. -/
structure Drains (c : Nat) (s t : State) : Prop where
  reqs : t.sv.reqs = s.sv.reqs
  objs : ∀ k, k ≠ kSV_CH_HEAD c → t.o k = s.o k

namespace Drains

variable {s} {c : Nat} {t u : State}

theorem refl : Drains c s s := ⟨rfl, fun _ _ => rfl⟩

theorem ite {p : Prop} [Decidable p] (ht : Drains c s t) (hu : Drains c s u) : Drains c s (if p then t else u) := by
  split <;> assumption

theorem hostWrite {a bs} (h : Drains c s t) : Drains c s (t.hostWrite a bs) := ⟨h.reqs, h.objs⟩

theorem setHead {v} (h : Drains c s t) : Drains c s (t.setO (kSV_CH_HEAD c) v) :=
  ⟨h.reqs, fun k hk => (o_setO ..).trans ((if_neg hk).trans (h.objs k hk))⟩

theorem setChan {i v} (h : Drains c s t) : Drains c s (t.setChan i v) := ⟨h.reqs, h.objs⟩

theorem msix {fn v} (h : Drains c s t) : Drains c s (t.msix fn v) :=
  ⟨by rw [msix_sv, h.reqs], fun k hk => (msix_o ..).trans (h.objs k hk)⟩

end Drains

theorem drains_drainChan (c : Nat) : Drains c s (s.drainChan c) := by
  unfold State.drainChan
  extract_lets +onlyGivenNames x n waiting k
  refine .ite .refl ?_
  extract_lets head s1 rest s2
  have h2 : Drains c s s2 := (List.foldlRecOn (motive := Drains c s) _ _ .refl fun _ h _ _ => h.hostWrite).setHead.setChan
  exact (Drains.ite h2 h2.hostWrite).msix

@[simp] theorem req_drainChan (c j : Nat) : (s.drainChan c).req j = s.req j := req_congr (drains_drainChan s c).reqs j

@[simp] theorem req_postRec (c j : Nat) (r : TokRec) : (s.postRec c r).req j = s.req j := by
  unfold State.postRec
  split <;> simp

/-- A final record leaves the states of all requests. -/
@[simp] theorem state_postFinal (i result j : Nat) : ((s.postFinal i result).req j).state = (s.req j).state := by
  unfold State.postFinal
  split
  · rfl
  · simp only [req_postRec, req_setRx, req_setReq]
    split
    · next h => rw [h]
    · rfl

@[simp] theorem state_freePages (i j : Nat) : ((s.freePages i).req j).state = (s.req j).state := by
  unfold State.freePages
  extract_lets busy mine s1 src s2
  have h1 (j : Nat) : s2.req j = s.req j := req_foldl s mine j fun t d => by split <;> simp
  rw [req_setReq]
  split
  · next h =>
    rw [h]
    exact (congrArg Req.state (h1 i) :)
  · rw [h1]

/-- A request that leaves is FREE, and the others keep their states (R311). -/
@[simp] theorem state_leave (i result j : Nat) :
    ((s.leave i result).req j).state = if j = i then rqFREE else (s.req j).state := by
  unfold State.leave
  extract_lets s1 src s2
  have h1 : (s1.req j).state = (s.req j).state := by
    unfold s1
    rw [state_freePages]
    exact state_postFinal ..
  have hxs (l : Tab ReqX) : ({ s2 with sv := { s2.sv with xs := l } } : State).req j = s2.req j := rfl
  rw [hxs]
  unfold s2
  rw [req_setReq]
  split
  · rfl
  · exact h1

end

/-- Every entry of the request table is FREE. -/
def AllFree (s : State) : Prop := ∀ i, (s.req i).state = rqFREE

/-- One request's leaving (R302, R311). -/
def State.leaveOne (s : State) (i : Nat) : State :=
  let r := s.req i
  if s.sv.stopping then s.leave i rsABORTED
  else if r.state = rqLEAVING then s.leave i r.result
  else if r.channel < 16 && r.cancel && (r.state == rqQUEUED || r.state == rqPAUSED || r.state == rqHELD) then
    s.leave i rsCANCELLED
  else s

theorem leaveAll_eq (s : State) : s.leaveAll = s.reqIds.foldl State.leaveOne s := rfl

/-- While a STOP is pending, every request on a list leaves. -/
theorem allFree_foldl_leaveOne {l : List Nat} {s : State} (hstop : s.sv.stopping = true)
    (hl : ∀ i, (s.req i).state ≠ rqFREE → i ∈ l) : AllFree (l.foldl State.leaveOne s) := by
  induction l generalizing s with
  | nil => exact fun i => not_not.1 fun h => absurd (hl i h) (by simp)
  | cons a l ih =>
    have hone : s.leaveOne a = s.leave a rsABORTED := if_pos hstop
    rw [List.foldl_cons, hone]
    refine ih (Serves.refl.leave.stopping.trans hstop) fun i hi => ?_
    rw [state_leave] at hi
    split at hi
    · exact absurd rfl hi
    · next hne => exact (List.mem_cons.1 (hl i hi)).resolve_left hne

theorem allFree_leaveAll {s : State} (hstop : s.sv.stopping = true) : AllFree s.leaveAll :=
  allFree_foldl_leaveOne hstop fun _ => mem_reqIds s

namespace AllFree

variable {s : State} (h : AllFree s)
include h

theorem congr {t : State} (ht : ∀ i, t.req i = s.req i) : AllFree t := fun i => by rw [ht, h i]

theorem setO {k v : Nat} : AllFree (s.setO k v) := h

theorem addO {w k n : Nat} : AllFree (s.addO w k n) := h

theorem setChan {c : Nat} {v : Chan} : AllFree (s.setChan c v) := h

theorem leave {i result : Nat} : AllFree (s.leave i result) := fun j => by
  rw [state_leave, h j, ite_self]

/-- Ending requests that are FREE leaves them so. -/
theorem closeChan {c : Nat} : AllFree (s.closeChan c) := by
  refine List.foldlRecOn (motive := AllFree) _ _ h fun t ht i _ => ?_
  have hres : AllFree ((t.setRx i { t.rx i with finalDone := true }).setReq i { t.req i with result := rsABORTED }) := fun j => by
    rw [req_setReq, req_setRx]
    split
    · exact ht i
    · exact ht j
  exact hres.leave.addO

/-- No request is HELD, and none runs that could be. -/
theorem chanBoundary {c : Nat} : AllFree (s.chanBoundary c) := by
  unfold State.chanBoundary
  extract_lets x s1 s2 mine run
  have h1 : AllFree s1 := by
    unfold s1
    split
    · split
      · extract_lets s3 s4
        have h4 : AllFree s4 := h.setO.setO.setO.setO.setChan
        split
        · exact h4.closeChan
        · exact h4
      · exact h.setChan
    · exact h
  have h2 : AllFree s2 := h1.congr fun _ => req_drainChan ..
  have hrun : run = [] := List.filter_eq_nil_iff.2 fun i _ => by simp [h2 i]
  split
  · refine List.foldlRecOn (motive := AllFree) _ _ h2 fun t ht i _ => ?_
    rw [if_neg (by simp [ht i])]
    exact ht
  · rw [if_pos (by simp [hrun])]
    exact h2

end AllFree

/-! The boundary (R302, R311). -/

variable {s : State}

/-- With a STOP pending the server is STOPPED, and every entry is FREE. -/
theorem boundary_stopping (hstop : s.sv.stopping = true) : ∃ u, AllFree u ∧
    s.boundary = { u.setO kSV_STATE svSTOPPED with sv := { u.sv with stopping := false, phase := 0 } }.svCounts := by
  unfold State.boundary
  extract_lets s1 s2 s3
  have h2 : Serves s s2 := Serves.refl.latchAccts.foldl fun _ _ h => h.settleDemotion
  have h3 : Serves s s3 := h2.leaveAll.foldl fun _ _ h => h.chanBoundary
  have hfree : AllFree s3 := List.foldlRecOn (motive := AllFree) _ _ (allFree_leaveAll (h2.stopping.trans hstop))
    fun _ h _ _ => h.chanBoundary
  exact ⟨s3, hfree, if_pos (by simp [h3.stopping, hstop])⟩

/-- A RUNNING server without one goes to its draft phase. -/
theorem boundary_running (hstop : s.sv.stopping = false) (hrun : s.svState = svRUNNING) : ∃ u, Serves s u ∧
    s.boundary = (u.setPhase 1).svCounts := by
  unfold State.boundary
  extract_lets s1 s2 s3
  have h3 : Serves s s3 := (Serves.refl.latchAccts.foldl fun _ _ h => h.settleDemotion).leaveAll.foldl fun _ _ h =>
    h.chanBoundary
  clear_value s3
  rw [if_neg (by simp [h3.stopping, hstop, h3.svState, hrun])]
  refine ⟨_, ?_, rfl⟩
  exact .demote (.ite h3.grantPositions.pauseUntil.allocAll h3.grantPositions.pauseUntil.allocAll.admitAll)

end Sys2Proof.Machine
end

section
/-! The steps of the server: its four phases and its demotions (R302, R309 to R311, R315, R316, R322, R323). -/

namespace Sys2Proof.Machine

open Sys2Proof

variable {s : State}

theorem badReq_frame (i result : Nat) : s.badReq i result =
    { s with objs := (s.badReq i result).objs, decks := (s.badReq i result).decks, sv := (s.badReq i result).sv } := by
  unfold State.badReq
  rw [svCounts_frame, setReq_frame]
  rfl

@[simp] theorem badReq_errs (i result : Nat) : (s.badReq i result).errs = s.errs := by rw [badReq_frame]

@[simp] theorem badReq_demotions (i result : Nat) : (s.badReq i result).sv.demotions = s.sv.demotions := by
  simp [State.badReq]

/-! The boundary (R302, R311). -/

theorem servingBoundary_due (hst : s.svState ≠ svSTOPPED) (hphase : s.sv.phase = 0) :
    execServingBoundary s = .next s.boundary := by
  unfold execServingBoundary
  rw [if_neg (by simp [hst, hphase])]

theorem boundary_stops (hstop : s.sv.stopping = true) : s.boundary.svState = svSTOPPED ∧ s.boundary.sv.stopping = false ∧
    s.boundary.sv.phase = 0 ∧ (∀ i, (s.boundary.req i).state = rqFREE) := by
  obtain ⟨u, hfree, hu⟩ := boundary_stopping hstop
  rw [hu]
  refine ⟨?_, by rw [svCounts_sv], by rw [svCounts_sv], fun i => ?_⟩
  · rw [State.svState, o_svCounts (by decide)]
    have hstopped : (u.setO kSV_STATE svSTOPPED).o kSV_STATE = svSTOPPED := by simp
    exact hstopped
  · rw [req_svCounts]
    exact hfree i

theorem boundary_drafts (hstop : s.sv.stopping = false) (hrun : s.svState = svRUNNING) :
    s.boundary.svState = svRUNNING ∧ s.boundary.sv.phase = 1 := by
  obtain ⟨u, hserves, hu⟩ := boundary_running hstop hrun
  rw [hu]
  refine ⟨?_, by simp⟩
  rw [State.svState, o_svCounts (by decide), setPhase_o]
  exact hserves.svState.trans hrun

/-! The draft phase (R315, R329). -/

/-- The draft phase's reads for one request (R315, R147). -/
def State.draftReads (s : State) (i : Nat) : State :=
  match s.pagesBad true i with
  | a :: _ => s.readFails s.svDraft i a
  | [] => s

/-- With every draft token there and no row in a unit, the verify phase begins. -/
theorem draftPhase_ends (hst : s.svState ≠ svSTOPPED) (hphase : s.sv.phase = 1) (hrows : s.sv.rows = [])
    (hall : ∀ i ∈ s.inPhase, (s.rx i).drafts.length = (s.rx i).k) : execDraftPhase s =
      .next (((s.inPhase.filter (fun i => decide (0 < (s.rx i).k))).foldl State.draftReads s).setPhase 2) := by
  unfold execDraftPhase
  rw [if_neg (by simp [hst, hphase]), if_pos (by simpa [hrows] using hall)]
  rfl

theorem draftReads_good {i : Nat} (h : s.pagesBad true i = []) : s.draftReads i = s := by
  unfold State.draftReads
  rw [h]

theorem draftReads_bad {i a : Nat} {l : List Nat} (h : s.pagesBad true i = a :: l) :
    s.draftReads i = s.readFails s.svDraft i a := by
  unfold State.draftReads
  rw [h]

/-- A request whose pages cannot be read is LEAVING with DECK_UNCORR and one record (R147, R329). -/
theorem readFails_spec (p i a : Nat) : ((s.readFails p i a).req i).state = rqLEAVING ∧
    ((s.readFails p i a).req i).result = rsDECK_UNCORR ∧ (s.readFails p i a).errs.seq = s.errs.seq + 1 := by
  unfold State.readFails
  refine ⟨by simp, by simp, ?_⟩
  rw [badReq_errs, errRec_seq]

/-- It changes nothing else when every draft page can be read. -/
theorem draftPhase_readable (hst : s.svState ≠ svSTOPPED) (hphase : s.sv.phase = 1) (hrows : s.sv.rows = [])
    (hall : ∀ i ∈ s.inPhase, (s.rx i).drafts.length = (s.rx i).k)
    (hgood : ∀ i ∈ s.inPhase, 0 < (s.rx i).k → s.pagesBad true i = []) :
    execDraftPhase s = .next (s.setPhase 2) := by
  have hsame : (s.inPhase.filter (fun i => decide (0 < (s.rx i).k))).foldl State.draftReads s = s := by
    refine List.foldlRecOn (motive := fun t => t = s) _ _ rfl fun t ht i hi => ?_
    obtain ⟨hin, hk⟩ := List.mem_filter.1 hi
    rw [ht, draftReads_good (hgood i hin (of_decide_eq_true hk))]
  rw [draftPhase_ends hst hphase hrows hall, hsame]

theorem draftPhase_unreadable {i a : Nat} {l : List Nat} (hst : s.svState ≠ svSTOPPED) (hphase : s.sv.phase = 1)
    (hrows : s.sv.rows = []) (hall : ∀ i ∈ s.inPhase, (s.rx i).drafts.length = (s.rx i).k) (hone : s.inPhase = [i])
    (hk : 0 < (s.rx i).k) (hbad : s.pagesBad true i = a :: l) :
    execDraftPhase s = .next ((s.readFails s.svDraft i a).setPhase 2) := by
  have honly : (s.inPhase.filter (fun i => decide (0 < (s.rx i).k))).foldl State.draftReads s = s.readFails s.svDraft i a := by
    rw [hone, List.filter_singleton, decide_eq_true hk]
    exact draftReads_bad hbad
  rw [draftPhase_ends hst hphase hrows hall, honly]

/-! The verify phase (R316, R323). -/

/-- The verify phase's work for one request (R316, R329). -/
def State.verifyOne (s : State) (i : Nat) : State :=
  let f := s.readFault i
  if f.1 = 0 then s.countVerify i
  else
    let s := if f.1 = rsDECK_UNCORR then s.errRec (uncorrRec s.svTeacher f.2) else s
    s.badReq i f.1

theorem Serves.verifyOne {t : State} {i : Nat} (h : Serves s t) : Serves s (t.verifyOne i) :=
  .ite h.countVerify (.badReq (.ite (h.errRec uncorrRec_cls) h))

/-- With every row decided and none in a unit, the delivery begins. -/
theorem verifyPhase_ends (hst : s.svState ≠ svSTOPPED) (hphase : s.sv.phase = 2) (hrows : s.sv.rows = [])
    (hall : ∀ i ∈ s.inPhase, (s.rx i).decided = true ∨ ((s.rx i).prefill = true ∧ s.reaches i = false)) :
    execVerifyPhase s = .next ((s.inPhase.foldl State.verifyOne s).setPhase 3).svCounts := by
  unfold execVerifyPhase
  rw [if_neg (by simp [hst, hphase]), if_pos (by simpa [hrows] using hall)]
  rfl

/-- The counts of a request after the verify phase (R316, R323). -/
theorem req_countVerify (i : Nat) : (s.countVerify i).req i =
    { s.req i with
        length := (s.req i).length + (if (s.rx i).prefill then (s.rx i).chunk else (s.rx i).accepted + 1)
        generated := (s.req i).generated + (s.rx i).emitted.length
        state := if (s.rx i).last ≠ 0 then rqLEAVING else if (s.rx i).decided then rqDECODE else (s.req i).state
        result := (s.rx i).last } := by
  simp [State.countVerify]

theorem state_countVerify (i : Nat) :
    ((s.rx i).last ≠ 0 → ((s.countVerify i).req i).state = rqLEAVING ∧ ((s.countVerify i).req i).result = (s.rx i).last) ∧
    ((s.rx i).last = 0 → (s.rx i).decided = true → ((s.countVerify i).req i).state = rqDECODE) := by
  rw [req_countVerify]
  exact ⟨fun hl => ⟨if_pos hl, rfl⟩, fun hl hd => (if_neg (not_not.2 hl)).trans (if_pos hd)⟩

/-! The delivery (R310, R322). -/

theorem delivery_ends (hst : s.svState ≠ svSTOPPED) (hphase : s.sv.phase = 3) : ∃ u, Serves s u ∧
    execDelivery s = .next ((u.setO kSV_STEP (u.o kSV_STEP + 1)).setPhase 0).svCounts :=
  ⟨_, (Serves.refl.foldl fun _ _ h => h.deliverReq).chargeAccts, if_neg (by simp [hst, hphase])⟩

/-! Demotions (R309). -/

theorem ldWrite_sv (p a : Nat) (bs : List Byte) : (s.ldWrite p a bs).sv = s.sv := by
  induction bs generalizing s a with
  | nil => rfl
  | cons b bs ih =>
    unfold State.ldWrite
    split
    · exact ih ..
    · exact ih ..

theorem copySlot_sv (draft : Bool) (d e : Nat) : (s.copySlot draft d e).1.sv = s.sv := by
  unfold State.copySlot
  dsimp only
  split
  · split
    · exact errRec_sv ..
    · exact ldWrite_sv ..
  · rfl

/-- A copy succeeds when every word of the slot can be read (R147, R309). -/
theorem copySlot_done {draft : Bool} {d e a : Nat} (h : s.udPhys (s.pageSlot draft d).1 (s.pageSlot draft d).2.2.1
    (s.pageSlot draft d).2.2.2 false = some a) :
    (s.copySlot draft d e).2 = !s.decks.udBadIn a (s.pageSlot draft d).2.2.2 := by
  unfold State.copySlot
  dsimp only
  rw [h]
  dsimp only
  cases s.decks.udBadIn a (s.pageSlot draft d).2.2.2 <;> rfl

/-- Both models' copies of a demotion, and whether they succeeded (R309). -/
def State.copyBoth (s : State) (m : Demotion) : State × Bool :=
  let a := s.copySlot false m.d m.e
  let b := if a.1.hasDraft then a.1.copySlot true m.d m.e else (a.1, true)
  (b.1, a.2 && b.2)

theorem copyBoth_sv (m : Demotion) : (s.copyBoth m).1.sv = s.sv := by
  unfold State.copyBoth
  dsimp only
  split
  · rw [copySlot_sv, copySlot_sv]
  · exact copySlot_sv ..

theorem copyBoth_done {m : Demotion} {a : Nat} (hdraft : s.hasDraft = false)
    (h : s.udPhys s.svTeacher (s.pageSlot false m.d).2.2.1 (s.pageSlot false m.d).2.2.2 false = some a) :
    (s.copyBoth m).2 = !s.decks.udBadIn a (s.pageSlot false m.d).2.2.2 := by
  have hno : (s.copySlot false m.d m.e).1.hasDraft = false := by
    have hkept : (s.copySlot false m.d m.e).1.o kSV_DRAFT = s.o kSV_DRAFT := Serves.refl.copySlot.objs _ (by decide)
    rw [State.hasDraft, State.svDraft, hkept]
    exact hdraft
  unfold State.copyBoth
  dsimp only
  rw [hno, if_neg Bool.false_ne_true, Bool.and_true]
  exact copySlot_done h

/-- A demotion's copies have ended, and its phase says whether they succeeded. -/
def State.markCopied (s : State) (d : Nat) (ok : Bool) : State :=
  { s with sv := { s.sv with demotions := s.sv.demotions.map (fun (x : Demotion) =>
      if x.d = d then { x with phase := if ok then 1 else 2 } else x) } }

theorem demotionCopyEnd_eq {d : Nat} {m : Demotion} (hfind : s.sv.demotions.find? (fun m => m.d == d && m.phase == 0) = some m) :
    execDemotionCopyEnd d s = (let w := (s.copyBoth m).1.markCopied d (s.copyBoth m).2
      .next (if (s.copyBoth m).2 || m.dead || (w.req m.req).state = rqFREE then w else w.badReq m.req rsDECK_UNCORR)) := by
  unfold execDemotionCopyEnd
  rw [hfind]
  rfl

theorem demotionCopyEnd_marks {d : Nat} {m : Demotion}
    (hfind : s.sv.demotions.find? (fun m => m.d == d && m.phase == 0) = some m) : ∃ t, execDemotionCopyEnd d s = .next t ∧
      { m with phase := if (s.copyBoth m).2 then 1 else 2 } ∈ t.sv.demotions := by
  obtain ⟨hd, -⟩ : m.d = d ∧ m.phase = 0 := by simpa using List.find?_some hfind
  have hmem : { m with phase := if (s.copyBoth m).2 then 1 else 2 } ∈
      ((s.copyBoth m).1.markCopied d (s.copyBoth m).2).sv.demotions := by
    have hsv := copyBoth_sv (s := s) m
    unfold State.markCopied
    rw [hsv]
    exact List.mem_map.2 ⟨m, List.mem_of_find?_eq_some hfind, if_pos hd⟩
  refine ⟨_, demotionCopyEnd_eq hfind, ?_⟩
  split
  · exact hmem
  · rw [badReq_demotions]
    exact hmem

/-- Settles O35: each phase by its lemma. -/
theorem servingStepsInFourPhases : Obligations.ServingStepsInFourPhases := by
  unfold Obligations.ServingStepsInFourPhases
  refine ⟨?_, ?_, ?_, ?_, ?_⟩
  · intro s hst hphase
    exact ⟨fun hstop => ⟨_, servingBoundary_due hst hphase, boundary_stops hstop⟩,
      fun hstop hrun => ⟨_, servingBoundary_due hst hphase, boundary_drafts hstop hrun⟩⟩
  · intro s hst hphase hrows hall
    refine ⟨draftPhase_readable hst hphase hrows hall, fun i a l hone hk hbad =>
      ⟨_, draftPhase_unreadable hst hphase hrows hall hone hk hbad, setPhase_phase .., ?_⟩⟩
    rw [setPhase_req, setPhase_errs]
    exact readFails_spec ..
  · intro s hst hphase hrows hall
    have hserves : Serves s (s.inPhase.foldl State.verifyOne s) := Serves.refl.foldl fun _ _ h => h.verifyOne
    refine ⟨_, verifyPhase_ends hst hphase hrows hall, by simp, ?_, fun i hone hread => ?_⟩
    · rw [o_svCounts le_rfl, setPhase_o, hserves.step]
    · have honly : s.inPhase.foldl State.verifyOne s = s.countVerify i := by
        rw [hone]
        exact if_pos hread
      obtain ⟨hlast, hnext⟩ := state_countVerify (s := s) i
      have hreq := req_countVerify (s := s) i
      rw [honly, req_svCounts, setPhase_req]
      exact ⟨congrArg Req.length hreq, congrArg Req.generated hreq, hlast, hnext⟩
  · intro s hst hphase
    obtain ⟨u, hserves, hu⟩ := delivery_ends hst hphase
    refine ⟨_, hu, by simp, ?_, ?_, ?_⟩
    · rw [o_svCounts le_rfl, setPhase_o, o_setO, if_pos rfl, hserves.step]
    · rw [State.svState, o_svCounts (by decide), setPhase_o, o_setO, if_neg (by decide)]
      exact hserves.svState
    · rw [svCounts_frame]
      exact hserves.rods
  · intro d m s hfind
    obtain ⟨hd, -⟩ : m.d = d ∧ m.phase = 0 := by simpa using List.find?_some hfind
    obtain ⟨t, ht, hmem⟩ := demotionCopyEnd_marks hfind
    refine ⟨t, _, ht, hmem, hd, rfl, fun a hdraft hphys => ?_⟩
    rw [← hd] at hphys ⊢
    rw [copyBoth_done hdraft hphys]
    cases s.decks.udBadIn a (s.pageSlot false m.d).2.2.2 <;> rfl

end Sys2Proof.Machine
end

section
/-! The jetton units' rows (R316, R319, R321, R329). -/

namespace Sys2Proof.Machine

open Sys2Proof

variable {s : State}

/-! Rows that come (R319). -/

theorem jettonRow_joins {rod a : Nat} {row : JettonReq} (hissues : s.issues rod = true) (hst : s.svState ≠ svSTOPPED)
    (howner : s.owner rod = (if row.teacher then s.svTeacher else s.svDraft))
    (hphys : s.udPhys (s.owner rod) row.addr (4 * s.o kSV_VOCAB) false = some a) (hdue : s.rowDue row = true) :
    execJettonRow rod row s = .next { s with sv := { s.sv with
      rows := s.sv.rows ++ [{ row := row, rod := rod, die := rodDie (a / 2 ^ 29), phys := a, startNs := s.ns }] } } := by
  unfold execJettonRow
  dsimp only
  rw [if_neg (by simp [hissues, hst, ← howner]), hphys]
  exact if_neg (by simp [hdue])

theorem jettonRow_hole {rod : Nat} {row : JettonReq} (hissues : s.issues rod = true) (hst : s.svState ≠ svSTOPPED)
    (howner : s.owner rod = (if row.teacher then s.svTeacher else s.svDraft))
    (hphys : s.udPhys (s.owner rod) row.addr (4 * s.o kSV_VOCAB) false = none) :
    execJettonRow rod row s = .next (s.failRod rod stDECK_RANGE) := by
  unfold execJettonRow
  dsimp only
  rw [if_neg (by simp [hissues, hst, ← howner]), hphys]

/-! What a row comes to (R316, R321). -/

theorem sampled_frame (d : List (Nat × F32)) (u : F32) : (s.sampled d u).1 = { s with draws := (s.sampled d u).1.draws } := by
  unfold State.sampled
  split <;> rfl

theorem pick_frame (r : Req) (d : List (Nat × F32)) (stream pos : Nat) :
    (s.pick r d stream pos).1 = { s with draws := (s.pick r d stream pos).1.draws } := by
  unfold State.pick
  split
  · rfl
  · exact sampled_frame ..

/-- Deciding a row takes no more of the state than free values. -/
theorem rowOutcome_frame {q : JRow} {x : State × Bool × Nat × Bool} (hx : s.rowOutcome q = .ok x) :
    x.1 = { s with draws := x.1.draws } := by
  unfold State.rowOutcome at hx
  dsimp only at hx
  split at hx
  · cases hx
  · split at hx
    · cases hx
    · split at hx
      · cases hx; exact pick_frame ..
      · split at hx
        · cases hx; exact pick_frame ..
        · split at hx
          · cases hx
          · split at hx
            · cases hx; rfl
            · cases hx; exact pick_frame ..

/-! Tokens that are emitted (R316, R323). -/

/-- The first token that a request emits in a step is kept with its result. -/
theorem emit_first {i token : Nat} {drafted : Bool} (hlast : (s.rx i).last = 0) : ∃ l,
    (s.emit i token drafted).rx i = { s.rx i with emitted := (s.rx i).emitted ++ [(token, drafted)], last := l } := by
  unfold State.emit
  rw [if_neg (not_not.2 hlast)]
  exact ⟨_, (rx_setRx ..).trans (if_pos rfl)⟩

/-- A request whose one result is a token emits it and is decided (R316). -/
theorem resolve_token {i n token : Nat} (hdec : (s.rx i).decided = false) (hacc : (s.rx i).accepted = 0)
    (hres : (s.rx i).results = [(1, false, token)]) (hlast : (s.rx i).last = 0) :
    ((State.resolve i (n + 1) s).rx i).emitted = (s.rx i).emitted ++ [(token, false)] ∧
      ((State.resolve i (n + 1) s).rx i).decided = true := by
  obtain ⟨l, hl⟩ := emit_first (token := token) (drafted := false) hlast
  have hr : State.resolve i (n + 1) s
      = (s.emit i token false).setRx i { (s.emit i token false).rx i with decided := true } := by
    unfold State.resolve
    dsimp only
    rw [if_neg (by simp [hdec]), hres, hacc]
    rfl
  rw [hr, rx_setRx, if_pos rfl, hl]
  exact ⟨rfl, rfl⟩

/-! Rows that are done (R319, R329). -/

/-- The state in which the unit's oldest row has been taken from it. -/
def State.takeRow (s : State) (q : JRow) : State := { s with sv := { s.sv with rows := s.sv.rows.erase q } }

/-- What a unit does with a row of no request that waits for it: it counts it. -/
def State.rowStale (s : State) (die : Nat) (q : JRow) : State :=
  s.countRow die (jtCycles (s.o kSV_VOCAB) (jtGreedy (s.req q.row.req).temp) q.row.test false)

/-- A row at fault ends its request (R329). -/
def State.rowFails (s : State) (die : Nat) (q : JRow) (e : Nat) : State :=
  let t := s.rowStale die q
  (if e = rsDECK_UNCORR then t.errRec (uncorrRec (t.owner q.rod) q.phys) else t).badReq q.row.req e

/-- The row's token goes to the program, in the state `u` that deciding it left. -/
def State.rowReturns (s : State) (die : Nat) (q : JRow) (u : State) (t : Nat) (res : Bool) : State :=
  let w := u.countRow die (jtCycles (s.o kSV_VOCAB) (jtGreedy (s.req q.row.req).temp) q.row.test res)
  w.setRod q.rod { w.rod q.rod with ret := t }

/-- The working values of a request with a teacher row's result (R186, R316). -/
def State.withResult (s w : State) (q : JRow) (acc : Bool) (t : Nat) : ReqX :=
  let x := s.rx q.row.req
  let j := if x.prefill then 1 else q.row.pos - (s.req q.row.req).length
  let x := if w.harvesting q.row.req then
      { x with captured := x.captured ++ [(q.row.pos, w.captureRow q.row ((w.logits q.phys).getD []))] } else x
  { x with results := x.results ++ [(j, acc, t)] }

/-- What the request takes from the row's token, in the state `w` in which its program has it (R315, R316). -/
def State.takeResult (s w : State) (q : JRow) (acc : Bool) (t : Nat) : State :=
  let x := s.withResult w q acc t
  if q.row.teacher then State.resolve q.row.req (x.k + 1) (w.setRx q.row.req x)
  else w.setRx q.row.req { s.rx q.row.req with drafts := (s.rx q.row.req).drafts ++ [(t, q.phys)] }

theorem serves_takeResult (w : State) (q : JRow) (acc : Bool) (t : Nat) : Serves w (s.takeResult w q acc t) :=
  .ite Serves.refl.setRx.resolve Serves.refl.setRx

theorem withResult_spec (w : State) (q : JRow) (acc : Bool) (t : Nat) : ∃ c, s.withResult w q acc t =
    { s.rx q.row.req with
        captured := c
        results := (s.rx q.row.req).results ++
          [(if (s.rx q.row.req).prefill then 1 else q.row.pos - (s.req q.row.req).length, acc, t)] } := by
  unfold State.withResult
  dsimp only
  split <;> exact ⟨_, rfl⟩

section
variable {die : Nat} {q : JRow} (hfind : s.sv.rows.find? (fun q => q.die == die) = some q)
include hfind

/-- The outcome of a row that no request waits for is not looked at; the row is counted. -/
theorem jettonRowDone_stale (h : (((s.req q.row.req).state ≠ rqPREFILL ∧ (s.req q.row.req).state ≠ rqDECODE) ∨
    (s.rx q.row.req).inStep = false)) : execJettonRowDone die s = .next ((s.takeRow q).rowStale die q) := by
  unfold execJettonRowDone
  rw [hfind]
  dsimp -zeta only
  extract_lets i src u r x g v
  have hr : r = s.req q.row.req := rfl
  have hx : x = s.rx q.row.req := rfl
  exact if_pos (by simpa [hr, hx] using h)

variable (hrun : (s.req q.row.req).state = rqPREFILL ∨ (s.req q.row.req).state = rqDECODE)
  (hin : (s.rx q.row.req).inStep = true)
include hrun hin

theorem jettonRowDone_error {e : Nat} (hout : (s.takeRow q).rowOutcome q = .error e) :
    execJettonRowDone die s = .next ((s.takeRow q).rowFails die q e) := by
  unfold execJettonRowDone
  rw [hfind]
  dsimp -zeta only
  extract_lets i src u r x g v
  have hr : r = s.req q.row.req := rfl
  have hx : x = s.rx q.row.req := rfl
  have hu : u.rowOutcome q = .error e := hout
  rw [if_neg (by simp [hr, hx, hin]; tauto), hu]
  rfl

theorem jettonRowDone_ok {u : State} {acc res : Bool} {t : Nat} (hout : (s.takeRow q).rowOutcome q = .ok (u, acc, t, res)) :
    execJettonRowDone die s = .next ((s.takeRow q).takeResult ((s.takeRow q).rowReturns die q u t res) q acc t) := by
  unfold execJettonRowDone
  rw [hfind]
  dsimp -zeta only
  extract_lets i src u r x g v
  have hr : r = s.req q.row.req := rfl
  have hx : x = s.rx q.row.req := rfl
  have hu : u.rowOutcome q = .ok (_, acc, t, res) := hout
  rw [if_neg (by simp [hr, hx, hin]; tauto), hu]
  unfold State.takeResult
  cases q.row.teacher <;> rfl

end

end Sys2Proof.Machine
end

section
/-! What a unit's finished row leaves (R316, R319, R329). -/

namespace Sys2Proof.Machine

open Sys2Proof

variable {s t u : State} {die : Nat} {q : JRow}

/-- From `s` to `t`, the row `q` has left the unit of its die and been counted. -/
structure RowCounted (die : Nat) (q : JRow) (s t : State) : Prop where
  rows : t.sv.rows = s.sv.rows.erase q
  count : tget 0 t.sv.jtRows die = min (tget 0 s.sv.jtRows die + 1) (2 ^ 64 - 1)

theorem rowCounted_countRow {cycles : Nat} (h : u.sv = (s.takeRow q).sv) : RowCounted die q s (u.countRow die cycles) where
  rows := by
    show u.sv.rows = _
    rw [h]
    rfl
  count := by
    show tget 0 (tset 0 u.sv.jtRows die (satAdd 64 (tget 0 u.sv.jtRows die) 1)) die = _
    rw [tget_tset, if_pos rfl, h]
    rfl

theorem RowCounted.serves (h : RowCounted die q s t) (h' : Serves t u) : RowCounted die q s u :=
  ⟨h'.rows.trans h.rows, by rw [h'.jtRows, h.count]⟩

theorem rowCounted_rowFails (e : Nat) : RowCounted die q s ((s.takeRow q).rowFails die q e) :=
  (rowCounted_countRow rfl).serves (.badReq (.ite (.errRec .refl uncorrRec_cls) .refl))

/-- A row at fault makes its request LEAVING with that result. -/
theorem req_rowFails (e : Nat) : ((s.rowFails die q e).req q.row.req).state = rqLEAVING ∧
    ((s.rowFails die q e).req q.row.req).result = e := by
  unfold State.rowFails
  simp

theorem rowCounted_rowReturns {tok : Nat} {res : Bool} (h : u.sv = (s.takeRow q).sv) :
    RowCounted die q s ((s.takeRow q).rowReturns die q u tok res) :=
  let h' := rowCounted_countRow h
  ⟨h'.rows, h'.count⟩

/-- The program reads the token that the row returns. -/
theorem ret_rowReturns (tok : Nat) (res : Bool) : ((s.rowReturns die q u tok res).rod q.rod).ret = tok := by
  unfold State.rowReturns
  simp

theorem Serves.rod (h : Serves s t) (r : Nat) : t.rod r = s.rod r := by
  rw [State.rod, h.rods]
  rfl

/-- A draft row's token joins the request's drafts (R315). -/
theorem drafts_takeResult {w : State} {acc : Bool} {tok : Nat} (hteach : q.row.teacher = false) :
    ((s.takeResult w q acc tok).rx q.row.req).drafts = (s.rx q.row.req).drafts ++ [(tok, q.phys)] := by
  unfold State.takeResult
  dsimp only
  rw [if_neg (by simp [hteach]), rx_setRx, if_pos rfl]

/-- The row of a completed prefill emits its token and decides the request (R316). -/
theorem prefill_takeResult {w : State} {tok : Nat} (hteach : q.row.teacher = true) (hpre : (s.rx q.row.req).prefill = true)
    (hres : (s.rx q.row.req).results = []) (hacc : (s.rx q.row.req).accepted = 0)
    (hdec : (s.rx q.row.req).decided = false) (hlast : (s.rx q.row.req).last = 0) :
    ((s.takeResult w q false tok).rx q.row.req).emitted = (s.rx q.row.req).emitted ++ [(tok, false)] ∧
      ((s.takeResult w q false tok).rx q.row.req).decided = true := by
  obtain ⟨c, hc⟩ := withResult_spec (s := s) w q false tok
  have hx : (w.setRx q.row.req (s.withResult w q false tok)).rx q.row.req =
      { s.rx q.row.req with captured := c, results := [(1, false, tok)] } := by
    rw [rx_setRx, if_pos rfl, hc, hres, if_pos hpre]
    rfl
  have hemitted : (s.rx q.row.req).emitted = ((w.setRx q.row.req (s.withResult w q false tok)).rx q.row.req).emitted := by
    rw [hx]
  unfold State.takeResult
  dsimp only
  rw [if_pos hteach, hemitted]
  exact resolve_token (by rw [hx]; exact hdec) (by rw [hx]; exact hacc) (by rw [hx]) (by rw [hx]; exact hlast)

/-- What a row that is done leaves of its request: the request at fault, or the token with its program and its request. -/
structure RowDone (q : JRow) (s t : State) : Prop where
  fault : ∀ e, (s.takeRow q).rowOutcome q = .error e → (t.req q.row.req).state = rqLEAVING ∧ (t.req q.row.req).result = e
  ret : ∀ u tok, (s.takeRow q).rowOutcome q = .ok (u, false, tok, false) → (t.rod q.rod).ret = tok
  draft : ∀ u tok, (s.takeRow q).rowOutcome q = .ok (u, false, tok, false) → q.row.teacher = false →
    (t.rx q.row.req).drafts = (s.rx q.row.req).drafts ++ [(tok, q.phys)]
  prefill : ∀ u tok, (s.takeRow q).rowOutcome q = .ok (u, false, tok, false) → q.row.teacher = true →
    (s.rx q.row.req).prefill = true → (s.rx q.row.req).results = [] → (s.rx q.row.req).accepted = 0 →
    (s.rx q.row.req).decided = false → (s.rx q.row.req).last = 0 →
    (t.rx q.row.req).emitted = (s.rx q.row.req).emitted ++ [(tok, false)] ∧ (t.rx q.row.req).decided = true

section
variable (hfind : s.sv.rows.find? (fun q => q.die == die) = some q)
include hfind

/-- The unit finishes the row of a request that runs in the step. -/
theorem jettonRowDone_done (hrun : (s.req q.row.req).state = rqPREFILL ∨ (s.req q.row.req).state = rqDECODE)
    (hin : (s.rx q.row.req).inStep = true) :
    ∃ t, execJettonRowDone die s = .next t ∧ RowCounted die q s t ∧ RowDone q s t := by
  cases hout : (s.takeRow q).rowOutcome q with
  | error e =>
    refine ⟨_, jettonRowDone_error hfind hrun hin hout, rowCounted_rowFails e, ?_⟩
    constructor <;> rw [hout]
    · rintro e' ⟨⟩
      exact req_rowFails e
    all_goals rintro u tok ⟨⟩
  | ok x =>
    obtain ⟨u, acc, tok, res⟩ := x
    have hu : u.sv = (s.takeRow q).sv := by rw [show u = _ from rowOutcome_frame hout]
    refine ⟨_, jettonRowDone_ok hfind hrun hin hout, ?_, ?_⟩
    · exact (rowCounted_rowReturns hu).serves (serves_takeResult ..)
    · constructor <;> rw [hout]
      · rintro e ⟨⟩
      · rintro u tok ⟨⟩
        exact (congrArg Rod.ret ((serves_takeResult ..).rod q.rod)).trans (ret_rowReturns ..)
      · rintro u tok ⟨⟩
        exact drafts_takeResult
      · rintro u tok ⟨⟩
        exact prefill_takeResult

/-- It counts every row, whatever the row comes to. -/
theorem jettonRowDone_counts : ∃ t, execJettonRowDone die s = .next t ∧ RowCounted die q s t := by
  by_cases hrun : ((s.req q.row.req).state = rqPREFILL ∨ (s.req q.row.req).state = rqDECODE) ∧ (s.rx q.row.req).inStep = true
  · obtain ⟨t, ht, hcount, -⟩ := jettonRowDone_done hfind hrun.1 hrun.2
    exact ⟨t, ht, hcount⟩
  · refine ⟨_, jettonRowDone_stale hfind ?_, rowCounted_countRow rfl⟩
    rw [← not_or]
    simpa [Classical.or_iff_not_imp_left] using hrun

end

end Sys2Proof.Machine
end

section
/-! Ring changes and tails (R325, R330, R396). -/

namespace Sys2Proof.Machine

open Sys2Proof

variable {s : State}

/-- A channel for which nothing waits writes nothing into its ring (R324). -/
theorem drainChan_nothing {c : Nat} (hheld : (s.chan c).held = []) (hbeyond : (s.chan c).beyond = []) : s.drainChan c = s :=
  if_pos (by simp [hheld, hbeyond])

theorem ringChange_refused {path : Path} {c : Nat} {base entries : Option Nat}
    (h : (∃ b, base = some b ∧ (b % 4096 ≠ 0 ∨ 2 ^ 64 ≤ b)) ∨ (∃ n, entries = some n ∧ entriesOk n = false)) :
    s.ringChange path c base entries = (s, invalidParam path) := by
  refine if_pos ?_
  obtain ⟨b, rfl, hb⟩ | ⟨n, rfl, hn⟩ := h
  · simpa using .inl hb
  · simp [hn]

@[simp] theorem chan_setChan (c i : Nat) (v : Chan) : (s.setChan c v).chan i = if i = c then v else s.chan i := tget_tset ..

@[simp] theorem o_setChan (c k : Nat) (v : Chan) : (s.setChan c v).o k = s.o k := rfl

/-- A ring of `n` records at `b` in force, with nothing in it (R325). -/
def State.putRing (s : State) (c b n : Nat) : State :=
  (((s.setO (kSV_CH_BASE c) b).setO (kSV_CH_ENTRIES c) n).setO (kSV_CH_HEAD c) 0).setO (kSV_CH_TAIL c) 0

theorem o_putRing (c b n : Nat) : (s.putRing c b n).o (kSV_CH_BASE c) = b ∧ (s.putRing c b n).o (kSV_CH_ENTRIES c) = n ∧
    (s.putRing c b n).o (kSV_CH_HEAD c) = 0 ∧ (s.putRing c b n).o (kSV_CH_TAIL c) = 0 := by
  unfold State.putRing
  simp

section
variable {path : Path} {c : Nat} {base entries : Option Nat} (hb : ∀ b, base = some b → b % 4096 = 0 ∧ b < 2 ^ 64)
  (hn : ∀ n, entries = some n → entriesOk n = true) (hnone : (s.chan c).change = none)
include hb hn hnone

/-- A valid change depends on the server's state (R325). -/
theorem ringChange_valid : s.ringChange path c base entries =
    (let b := base.getD (s.o (kSV_CH_BASE c))
     let n := entries.getD (s.o (kSV_CH_ENTRIES c))
     if s.svState = svSTOPPED then
       (((s.putRing c b n).setChan c { held := if n = 0 then [] else (s.chan c).held
                                       beyond := if n = 0 then [] else (s.chan c).beyond }).drainChan c, 0)
     else (s.setChan c { s.chan c with change := some (b, n) }, 0)) := by
  refine (if_neg ?_).trans ?_
  · rw [Bool.or_eq_true, not_or]
    constructor
    · cases base with
      | none => simp
      | some b => simpa using hb b rfl
    · cases entries with
      | none => simp
      | some n => simp [hn n rfl]
  · dsimp only
    rw [hnone]
    rfl

theorem ringChange_stopped (hst : s.svState = svSTOPPED) (hheld : (s.chan c).held = []) (hbeyond : (s.chan c).beyond = []) :
    s.ringChange path c base entries =
      ((s.putRing c (base.getD (s.o (kSV_CH_BASE c))) (entries.getD (s.o (kSV_CH_ENTRIES c)))).setChan c {}, 0) := by
  rw [ringChange_valid hb hn hnone]
  dsimp only
  rw [if_pos hst, hheld, hbeyond, ite_self, drainChan_nothing (by simp) (by simp)]

theorem ringChange_pending (hst : s.svState ≠ svSTOPPED) : s.ringChange path c base entries = (s.setChan c
    { s.chan c with change := some (base.getD (s.o (kSV_CH_BASE c)), entries.getD (s.o (kSV_CH_ENTRIES c))) }, 0) :=
  (ringChange_valid hb hn hnone).trans (if_neg hst)

end

/-- A doorbell that is ignored is marked and counted (R388, R396). -/
theorem dbError_spec (fn : Nat) : (∀ k, k ≠ kCQ_DB_ERRORS → (s.dbError fn).o k = s.o k) ∧
    (s.dbError fn).o kCQ_DB_ERRORS = min (s.o kCQ_DB_ERRORS + 1) (2 ^ 32 - 1) ∧ ((s.dbError fn).func fn).dbErr = true ∧
    (s.dbError fn).sv = s.sv ∧ (s.dbError fn).host.mem = s.host.mem := by
  unfold State.dbError
  refine ⟨fun k hk => by simp [hk], by simp [satAdd], by simp, rfl, rfl⟩

theorem chTail_taken {c value : Nat} (h : (value + 2 ^ 32 - s.o (kSV_CH_TAIL c) % 2 ^ 32) % 2 ^ 32 ≤ s.ringCount c) :
    (s.chTail c value).o (kSV_CH_TAIL c) = value % 2 ^ 32 ∧ (s.chTail c value).o kCQ_DB_ERRORS = s.o kCQ_DB_ERRORS := by
  unfold State.chTail
  dsimp only
  rw [if_neg (Nat.not_lt.2 h)]
  have hdrains := drains_drainChan (s.setO (kSV_CH_TAIL c) (value % 2 ^ 32)) c
  refine ⟨?_, ?_⟩
  · rw [hdrains.objs _ (key_ne (by decide))]
    simp
  · rw [hdrains.objs _ (by unfold kCQ_DB_ERRORS kSV_CH_HEAD; omega), o_setO, if_neg (by unfold kCQ_DB_ERRORS kSV_CH_TAIL; omega)]

/-- A tail beyond what the ring holds, or by another function, is an ignored doorbell of the function. -/
theorem cqChTail_ignored {fn c value : Nat} (hc : c < 24) (hup : s.fnUp fn = true)
    (h : fn ≠ s.svTeacher + 1 ∨ s.ringCount c < (value + 2 ^ 32 - s.o (kSV_CH_TAIL c) % 2 ^ 32) % 2 ^ 32) :
    execCqChTail fn c value s = .next (s.dbError fn) := by
  unfold execCqChTail
  rw [if_neg (by simpa [hup] using hc)]
  by_cases hfn : fn = s.svTeacher + 1
  · rw [if_neg (not_not.2 hfn), State.chTail, if_pos (h.resolve_left (not_not.2 hfn)), hfn]
  · rw [if_pos hfn]

/-- Settles O36: rows and tails by their lemmas, ring changes by the path's turn. -/
theorem rowsAndChannels : Obligations.RowsAndChannels := by
  unfold Obligations.RowsAndChannels
  refine ⟨?_, ?_, ?_, ?_, ?_⟩
  · intro rod row s hissues hst howner
    refine ⟨fun a hphys hdue => ⟨_, _, jettonRow_joins hissues hst howner hphys hdue, rfl, rfl, rfl, rfl, rfl, rfl⟩,
      fun hphys => ⟨_, jettonRow_hole hissues hst howner hphys, by rw [rod_failRod],
        fun _ hc h0 => status_failRod s stDECK_RANGE hc h0, failRod_frame ..⟩⟩
  · intro die q s hfind
    obtain ⟨t, ht, hcount⟩ := jettonRowDone_counts hfind
    refine ⟨t, ht, hcount.rows, hcount.count, fun hrun hin => ?_⟩
    obtain ⟨t', ht', -, hdone⟩ := jettonRowDone_done hfind hrun hin
    obtain rfl : t = t' := by simpa [ht] using ht'
    exact ⟨hdone.fault, fun u tok hout => ⟨hdone.ret u tok hout, hdone.draft u tok hout, hdone.prefill u tok hout⟩⟩
  · intro path c base entries s v hc hup hw
    have hexec : exec (.ringChange path c base entries) s = .next (s.access path fun s => s.ringChange path c base entries) :=
      congrArg (.next : State → Out) (if_pos hc)
    rw [hexec]
    refine ⟨fun hbad => ?_, fun hb hn => ⟨fun hst hheld hbeyond hnone => ?_, fun hst hnone => ?_⟩⟩
    · rw [access_refused hup hw (ringChange_refused hbad) invalidParam_ne]
    · refine ⟨_, congrArg (.next : State → Out)
        (access_accepted hup hw (ringChange_stopped hb hn hnone hst hheld hbeyond)), ?_⟩
      obtain ⟨hbase, hentries, hhead, htail⟩ := o_putRing (s := v) c (base.getD (v.o (kSV_CH_BASE c)))
        (entries.getD (v.o (kSV_CH_ENTRIES c)))
      simp only [report_o, o_setChan, report_get]
      exact ⟨hbase, hentries, hhead, htail, trivial⟩
    · rw [access_accepted hup hw (ringChange_pending hb hn hnone hst)]
  · intro fn c value s hc hup
    refine ⟨fun hfn hroom => ?_, fun hout => ?_⟩
    · obtain ⟨htail, hcount⟩ := chTail_taken hroom
      refine ⟨s.chTail c value, congrArg (.next : State → Out) ?_, htail, hcount⟩
      rw [if_neg (by simpa [hup] using hc), if_neg (not_not.2 hfn)]
    · obtain ⟨hobjs, hcount, hmark, hsv, hmem⟩ := dbError_spec (s := s) fn
      exact ⟨_, cqChTail_ignored hc hup hout, hobjs _ (by unfold kCQ_DB_ERRORS kSV_CH_TAIL; omega), hcount, hmark, hsv, hmem⟩
  · intro fn c value s hdown
    exact congrArg (.next : State → Out) (if_pos (by simp [hdown]))

end Sys2Proof.Machine
end

section
/-! What ends commands and takes decisions starts no command: the changes that the end of a command and the decisions after it may
make (R168, R214, R342 to R347, R461). -/

namespace Sys2Proof.Machine

open Sys2Proof

/-- What a step of a fold over a list sets up, and every step keeps, holds after the fold. -/
theorem foldl_of_mem {α β : Type} {f : β → α → β} {P : β → Prop} {l : List α} {a : α} (hmem : a ∈ l)
    (hset : ∀ b, P (f b a)) (hkeep : ∀ b x, P b → P (f b x)) (b : β) : P (l.foldl f b) := by
  obtain ⟨l₁, l₂, rfl⟩ := List.append_of_mem hmem
  rw [List.foldl_append, List.foldl_cons]
  exact List.foldlRecOn l₂ f (hset _) fun b hb x _ => hkeep b x hb

/-- What joins and leaves the energy queue is the strokes' alone (R365). -/
theorem pollLedger_eq (s : State) : ∃ st, s.pollLedger = { s with st := st } := by
  have ite {c : Prop} [Decidable c] {t u : State} (ht : ∃ st, t = { s with st := st }) (hu : ∃ st, u = { s with st := st }) :
      ∃ st, (if c then t else u) = { s with st := st } := by split <;> assumption
  unfold State.pollLedger
  extract_lets st s1 s2
  have h2 : ∃ st, s2 = { s with st := st } := by
    refine List.foldlRecOn (motive := fun t : State => ∃ st, t = { s with st := st }) _ _ ⟨_, rfl⟩ ?_
    rintro _ ⟨st, rfl⟩ k -
    refine ite ⟨_, rfl⟩ ?_
    split
    · exact ite ⟨_, rfl⟩ ⟨_, rfl⟩
    · exact ⟨_, rfl⟩
  obtain ⟨st, h2⟩ := h2
  rw [h2]
  exact ite ⟨_, rfl⟩ ⟨_, rfl⟩

/-- From `s` to `t`, commands may have ended and decisions been taken, but no command has started: the states and the shut-downs of
the partitions are as they were, and no grace time has begun. -/
structure NoStart (s t : State) : Prop where
  ptState : ∀ p, t.o (kPT_STATE p) = s.o (kPT_STATE p)
  quiesce : ∀ p, (t.part p).quiesce = (s.part p).quiesce
  grace : ∀ p, (s.part p).graceAt = 0 → (t.part p).graceAt = 0
  run : ∀ k, (tget {} s.ctxs k).run = none → (tget {} t.ctxs k).run = none

/-- Another resident context: the partition's count of the cycles in which a context was RESIDENT goes on (R344, R352). -/
@[simp] theorem part_setResident (s : State) (p c q : Nat) : (s.setResident p c).part q =
    if q = p then { s.part p with iiRes := (s.part p).iiRes + (if s.resident p < 8 then s.cycle - (s.part p).iiMark else 0)
                                  iiMark := s.cycle } else s.part q := by
  simp [State.setResident]

section
variable (s : State)

@[simp] theorem o_setResident (p c k : Nat) : (s.setResident p c).o k = if k = kPT_RESIDENT p then c else s.o k := by
  simp [State.setResident]
@[simp] theorem resident_setResident (p c : Nat) : (s.setResident p c).resident p = c := by simp [State.resident]
@[simp] theorem setResident_ctx (p c q k : Nat) : (s.setResident p c).ctx q k = s.ctx q k := rfl
@[simp] theorem setResident_frameOwner (p c : Nat) : (s.setResident p c).frameOwner = s.frameOwner := rfl
@[simp] theorem setResident_rods (p c : Nat) : (s.setResident p c).rods = s.rods := rfl
@[simp] theorem setResident_ns (p c : Nat) : (s.setResident p c).ns = s.ns := rfl

end

namespace NoStart

variable {s t u : State} {c : Prop} [Decidable c]

theorem refl : NoStart s s := ⟨fun _ => rfl, fun _ => rfl, fun _ => id, fun _ => id⟩

theorem trans (h : NoStart s t) (h' : NoStart t u) : NoStart s u :=
  ⟨fun p => (h'.ptState p).trans (h.ptState p), fun p => (h'.quiesce p).trans (h.quiesce p), fun p => h'.grace p ∘ h.grace p,
    fun k => h'.run k ∘ h.run k⟩

/-- What is neither an object, a partition's machinery nor a context may change freely. -/
theorem frame (h : NoStart s t) (ho : u.objs = t.objs) (hp : u.parts = t.parts) (hc : u.ctxs = t.ctxs) : NoStart s u :=
  h.trans ⟨fun p => by rw [State.o, ho]; rfl, fun p => by rw [State.part, hp]; rfl, fun p hg => by rw [State.part, hp]; exact hg,
    fun k hr => hc ▸ hr⟩

theorem ite (ht : NoStart s t) (hu : NoStart s u) : NoStart s (if c then t else u) := by
  split <;> assumption

theorem fst {n : Nat} (h : NoStart s t) : NoStart s (t, n).1 := h

theorem ite_fst {a b : State × Nat} (ha : NoStart s a.1) (hb : NoStart s b.1) : NoStart s (if c then a else b).1 := by
  split <;> assumption

theorem foldl {α : Type} {f : State → α → State} {l : List α} (h : NoStart s t)
    (hf : ∀ t x, NoStart s t → NoStart s (f t x)) : NoStart s (l.foldl f t) :=
  List.foldlRecOn l f h fun t h x _ => hf t x h

theorem setO {k v : Nat} (h : NoStart s t) (hk : ∀ p, kPT_STATE p ≠ k) :
    NoStart s (t.setO k v) :=
  h.trans ⟨fun p => (o_setO ..).trans (if_neg (hk p)), fun _ => rfl, fun _ => id, fun _ => id⟩

theorem setPart {p : Nat} {v : Part} (h : NoStart s t) (hq : v.quiesce = (t.part p).quiesce)
    (hg : (t.part p).graceAt = 0 → v.graceAt = 0) : NoStart s (t.setPart p v) := by
  refine h.trans ⟨fun _ => rfl, fun q => ?_, fun q => ?_, fun _ => id⟩
  · rw [part_setPart]
    split
    · next e => rw [hq, e]
    · rfl
  · rw [part_setPart]
    split
    · next e => exact e ▸ hg
    · exact id

theorem setCtx {p c : Nat} {v : Ctx} (h : NoStart s t) (hr : (t.ctx p c).run = none → v.run = none) :
    NoStart s (t.setCtx p c v) := by
  refine h.trans ⟨fun _ => rfl, fun _ => rfl, fun _ => id, fun k => ?_⟩
  rw [State.setCtx, tget_tset]
  split
  · next e => exact e ▸ hr
  · exact id

theorem setRod {r v} (h : NoStart s t) : NoStart s (t.setRod r v) := h.frame rfl rfl rfl

theorem setNum {p v} (h : NoStart s t) : NoStart s (t.setNum p v) := h.frame rfl rfl rfl

theorem setPairing {n v} (h : NoStart s t) : NoStart s (t.setPairing n v) := h.frame rfl rfl rfl

theorem setBucket {b} (h : NoStart s t) : NoStart s (t.setBucket b) := h.frame rfl rfl rfl

theorem setStager {g x} (h : NoStart s t) : NoStart s (t.setStager g x) := h.frame rfl rfl rfl

theorem dropPending {kind inst} (h : NoStart s t) : NoStart s (t.dropPending kind inst) := h.frame rfl rfl rfl

theorem errRec {r : ErrRec} (h : NoStart s t) (hr : r.cls ≠ 3) : NoStart s (t.errRec r) :=
  h.frame (errRec_objs t r hr) (errRec_parts t r) (errRec_ctxs t r)

/-! Virtual time, readiness and decisions (R342, R344). -/

theorem settleV {p c} (h : NoStart s t) : NoStart s (t.settleV p c) := .ite h (h.setCtx (by exact id))

theorem holdOff {p c} (h : NoStart s t) : NoStart s (t.holdOff p c) := .ite (h.settleV.setCtx (by exact id)) h

theorem latchSched {p} (h : NoStart s t) : NoStart s (t.latchSched p) := by
  unfold State.latchSched
  extract_lets +onlyGivenNames s1
  have h1 : NoStart s s1 := h.foldl fun _ _ h => h.settleV.setCtx (by exact id)
  clear_value s1
  exact h1.setPart (by rfl) (by exact id)

theorem noteReady {p} (h : NoStart s t) : NoStart s (t.noteReady p) :=
  .foldl (.ite h.settleV h) fun _ _ h => .ite h (h.setCtx (by exact id))

theorem setResident {p c} (h : NoStart s t) : NoStart s (t.setResident p c) :=
  (h.setPart (by rfl) (by exact id)).setO (by exact fun _ => key_ne (by decide))

theorem decideIdle {p} (h : NoStart s t) : NoStart s (t.decideIdle p) := by
  unfold State.decideIdle
  refine .ite h ?_
  extract_lets +onlyGivenNames s1
  have hn : NoStart s s1 := h.latchSched.noteReady
  split
  · exact hn.setResident
  · next c _ =>
    refine .ite (hn.setResident.setPart ?_ ?_) (.ite hn (hn.setResident.setPart ?_ ?_)) <;> simp

theorem pollLedger (h : NoStart s t) : NoStart s t.pollLedger := by
  obtain ⟨st, hst⟩ := pollLedger_eq t
  exact hst ▸ h.frame rfl rfl rfl

theorem pollAll (h : NoStart s t) : NoStart s t.pollAll :=
  h.pollLedger.foldl fun _ _ h => .ite h.noteReady.decideIdle h.noteReady

/-! What a command leaves behind (R66, R168, R185, R214, R393). -/

theorem phaseTick {p} (h : NoStart s t) : NoStart s (t.phaseTick p) := .ite h h.setNum

theorem teacherTime {p r} (h : NoStart s t) : NoStart s (t.teacherTime p r) := by
  unfold State.teacherTime
  split
  · exact h
  · exact .ite h (h.foldl fun _ _ h => h.setNum)

theorem recordSlot {p n sub a} (h : NoStart s t) : NoStart s (t.recordSlot p n sub a) := by
  unfold State.recordSlot State.putCycle State.setSlot
  exact (h.setPart (by rfl) (by exact id)).setPart (by rfl) (by exact id)

theorem waitMarks {p} (h : NoStart s t) : NoStart s (t.waitMarks p) := by
  unfold State.waitMarks
  split
  · exact .ite (.ite h.setPairing h) (.ite h h.setPairing)
  · exact h

theorem endStatus {k st} (h : NoStart s t) : NoStart s (t.endStatus k st) :=
  .ite h (h.foldl fun _ _ h => .ite h.setBucket (h.setBucket.setO (by exact fun _ => key_ne (by decide))))

theorem complete {k st r w} (h : NoStart s t) : NoStart s (t.complete k st r w) := by
  obtain ⟨x, hx⟩ := complete_eq t k st r w
  exact hx ▸ h.endStatus.frame rfl rfl rfl

theorem moveReleased {n k} (h : NoStart s t) : NoStart s (State.moveReleased n k t) := by
  induction k generalizing t with
  | zero => exact h
  | succ k ih =>
    unfold State.moveReleased
    dsimp only
    split
    · exact .ite (ih (h.setO (by exact fun _ => key_ne (by decide)))) h
    · exact h

theorem settleSeqs {n} (h : NoStart s t) : NoStart s (t.settleSeqs n) := by
  unfold State.settleSeqs
  exact h.moveReleased

theorem putHeader {n seq x} (h : NoStart s t) : NoStart s (t.putHeader n seq x) := by
  conv in State.putHeader => delta State.putHeader
  split
  · exact h.frame rfl rfl rfl
  · exact h

theorem countPublished {n seq} (h : NoStart s t) : NoStart s (t.countPublished n seq) :=
  .ite h (h.setO (by exact fun _ => key_ne (by decide)))

theorem addO {w k n : Nat} (h : NoStart s t) (hk : ∀ p, kPT_STATE p ≠ k) :
    NoStart s (t.addO w k n) := h.setO hk

theorem publishVoid {n seq} (h : NoStart s t) : NoStart s (t.publishVoid n seq) := by
  unfold State.publishVoid
  dsimp only
  split
  · exact h
  · exact .ite h (NoStart.settleSeqs (NoStart.addO
      (NoStart.setPairing (h.frame (u := t.draw.1.draw.1) rfl rfl rfl)).putHeader.countPublished
      (by exact fun _ => key_ne (by decide))))

theorem endHold {n i seq} (h : NoStart s t) : NoStart s (t.endHold n i seq) := by
  unfold State.endHold
  dsimp only
  split
  · exact h
  · exact h.setPairing.settleSeqs

theorem settleTally {p k} (h : NoStart s t) : NoStart s (t.settleTally p k) := by
  unfold State.settleTally
  split
  · exact h
  · next n _ =>
    extract_lets s1
    have h1 : NoStart s s1 := by
      refine h.foldl fun _ _ h => ?_
      split
      · exact .ite h.publishVoid h
      · exact h
    split
    · exact h1
    · exact h1.foldl fun _ _ h => h.endHold.addO (by exact fun _ => key_ne (by decide))

theorem recordSlots {p r} (h : NoStart s t) : NoStart s (t.recordSlots p r) := h.foldl fun _ _ h => h.recordSlot

/-! Stages that are cut short, and units that leave (R140, R144). -/

theorem onMesh (h : NoStart s t) (hm : OnMesh t u) : NoStart s u := by
  obtain ⟨_, _, rfl⟩ := hm
  exact h.frame rfl rfl rfl

theorem failStage {p id st} (h : NoStart s t) : NoStart s (t.failStage p id st) := by
  unfold State.failStage
  extract_lets x s1
  have h1 : NoStart s s1 := h.setPart (by rfl) (by exact fun h => h)
  exact h1.frame rfl rfl rfl

theorem sendUnit {g v d ua} (h : NoStart s t) : NoStart s (t.sendUnit g v d ua) := by
  refine h.onMesh (OnMesh.update (OnMesh.launch (OnMesh.update ?_)))
  unfold State.edgeNext
  dsimp only
  split
  · exact OnMesh.refl.update
  · exact .refl

theorem pumpStager {g n} (h : NoStart s t) : NoStart s (State.pumpStager g n t) := by
  induction n generalizing t with
  | zero => exact h
  | succ n ih =>
    unfold State.pumpStager
    refine .ite h ?_
    split
    · exact h
    · dsimp only
      split
      · exact ih h.setStager
      · split
        · exact ih h.setStager.failStage
        · exact h.setStager.sendUnit

theorem cutStages {p} (h : NoStart s t) : NoStart s (t.cutStages p) :=
  (h.foldl fun _ _ h => h.failStage).foldl fun _ _ h => h.pumpStager

/-! The end of a command (R343, R455, R461). -/

theorem enableCtx {p c} (h : NoStart s t) : NoStart s (t.enableCtx p c).1 := by
  unfold State.enableCtx
  dsimp only
  exact .ite_fst h (.ite_fst h (.fst (h.setCtx (by exact id)).pollAll))

theorem firePending {kind inst f} (h : NoStart s t) (hf : ∀ u, NoStart s u → NoStart s (f u).1) :
    NoStart s (t.firePending kind inst f) :=
  .ite (.ite (hf _ h.dropPending) (h.dropPending.errRec (Nat.zero_ne_add_one 2))) h

theorem endDisable {p c} (h : NoStart s t) : NoStart s (t.endDisable p c) :=
  .ite ((h.setCtx (by exact id)).firePending fun _ h => h.enableCtx) h

theorem setRunCmd {p f} (h : NoStart s t) : NoStart s (t.setRunCmd p f) := .ite (h.setCtx fun hr => by simp [hr]) h

theorem failRun {p st rod} (h : NoStart s t) : NoStart s (t.failRun p st rod) := h.setRunCmd

end NoStart

/-- When its command has ended, a context runs none, and none of the others has started one (R461). -/
theorem endRun_noStart (s : State) (p c st : Nat) :
    NoStart s (s.endRun p c st) ∧ ((s.endRun p c st).ctx p c).run = none := by
  unfold State.endRun
  split
  · next hnone => exact ⟨.refl, hnone⟩
  · extract_lets live st' s1 r1 s2 src s3 s4 s5 s6 s7 src' s8
    have h2 : NoStart s s2 := (NoStart.ite NoStart.refl.phaseTick .refl).holdOff.teacherTime
    have h3 : NoStart s s3 := h2.setCtx (by exact fun _ => rfl)
    have hc : (s3.ctx p c).run = none := by simp [s3]
    clear_value s3
    have h4 : NoStart s3 s4 := .ite (NoStart.refl.foldl fun _ _ h => h.setRod) .refl
    have h5 : NoStart s3 s5 := (NoStart.ite h4.recordSlots h4).waitMarks
    have h7 : NoStart s3 s7 := (h5.frame (u := s5.orphan p c) rfl rfl rfl).complete.settleTally
    have h9 := (h7.frame (u := s8) rfl rfl rfl).endDisable (p := p) (c := c)
    exact ⟨h3.trans h9, h9.run _ hc⟩

theorem NoStart.endRun {s t : State} {p c st : Nat} (h : NoStart s t) : NoStart s (t.endRun p c st) :=
  have ⟨hend, _⟩ := endRun_noStart t p c st
  h.trans hend

/-- When every command of a partition has ended, no context of it is RESIDENT, and none runs a command (R338). -/
theorem endAllRuns_ends (s : State) (p st : Nat) : NoStart s (s.endAllRuns p st) ∧ (s.endAllRuns p st).resident p = 0xFF ∧
    ∀ c, c < 8 → ((s.endAllRuns p st).ctx p c).run = none := by
  unfold State.endAllRuns
  extract_lets src s1 s2
  have h1 : NoStart s s1 := NoStart.refl.setPart (by rfl) (by exact fun _ => rfl)
  clear_value s1
  have h2 : NoStart s s2 := h1.foldl fun _ _ h =>
    (NoStart.endRun (.ite h.failRun (h.setCtx fun hr => by simp [hr]))).setCtx (by exact id)
  have hrun (c : Nat) (hc : c < 8) : (s2.ctx p c).run = none := by
    refine foldl_of_mem (P := fun u : State => (u.ctx p c).run = none) (mem_upto.2 hc) (fun u => ?_) (fun u k h => ?_) s1
    · dsimp only
      rw [ctx_setCtx, if_pos rfl]
      exact (endRun_noStart _ p c st).2
    · exact (NoStart.setCtx (NoStart.endRun (.ite NoStart.refl.failRun (NoStart.refl.setCtx fun hr => by simp [hr])))
        (by exact id)).run _ h
  clear_value s2
  refine ⟨h2.setResident.pollLedger, ?_⟩
  obtain ⟨st', hst⟩ := pollLedger_eq (s2.setResident p 0xFF)
  rw [hst]
  exact ⟨resident_setResident .., hrun⟩

end Sys2Proof.Machine
end

section
/-! Frames that change hands and are zeroed (R112, R131, R336 to R338, R474). -/

namespace Sys2Proof.Machine

open Sys2Proof

variable (s : State)

/-- Frames that are marked have the new owner in PT_FRAME_OWNER (R353). -/
theorem ownFrames_owner {f : Nat} {fs : List Nat} (o : Nat) (hf : f ∈ fs) : tget 0xFF (s.ownFrames fs o).frameOwner f = o := by
  refine foldl_of_mem (P := fun t => tget 0xFF t f = o) hf (fun t => ?_) (fun t x h => ?_) _
  · simp
  · rw [tget_tset]
    split
    · rfl
    · exact h

/-- Zeroing begins on the slices of the frames' rods, and nothing else changes. -/
theorem startZero_eq (fs : List Nat) : ∃ z, s.startZero fs = { s with decks := { s.decks with zeroing := z } } ∧
    ∀ f ∈ fs, ∀ r ∈ frameRods f, tget 0 z r = s.ns + 1 := by
  refine ⟨(fs.flatMap frameRods).foldl (fun z r => tset 0 z r (s.ns + 1)) s.decks.zeroing, ?_, fun f hf r hr => ?_⟩
  · unfold State.startZero
    generalize fs.flatMap frameRods = l
    induction l generalizing s with
    | nil => rfl
    | cons r l ih => exact ih _
  · refine foldl_of_mem (P := fun z => tget 0 z r = s.ns + 1) (List.mem_flatMap.2 ⟨f, hf, hr⟩) (fun z => ?_) (fun z x h => ?_) _
    · simp
    · rw [tget_tset, h, ite_self]

/-- When zeroing ends, only rods and decks have changed. -/
theorem endZero_eq (fs : List Nat) : ∃ r d, s.endZero fs = { s with rods := r, decks := d } := by
  unfold State.endZero
  generalize fs.flatMap frameRods = l
  induction l generalizing s with
  | nil => exact ⟨_, _, rfl⟩
  | cons r l ih => exact ih _

/-- The caches and slices of the frames' rods then hold `+0` (R112, R131). -/
theorem endZero_clears {f r : Nat} {fs : List Nat} (hf : f ∈ fs) (hr : r ∈ frameRods f) :
    ((s.endZero fs).rod r).cache = [] ∧
      ∀ a, r * 2 ^ 29 ≤ a → a < (r + 1) * 2 ^ 29 → mget (s.endZero fs).decks.ud a = 0 := by
  have hmem : r ∈ fs.flatMap frameRods := List.mem_flatMap.2 ⟨f, hf, hr⟩
  refine foldl_of_mem (P := fun t : State => (t.rod r).cache = [] ∧
    ∀ a, r * 2 ^ 29 ≤ a → a < (r + 1) * 2 ^ 29 → mget t.decks.ud a = 0) hmem (fun t => ⟨?_, fun a h1 h2 => ?_⟩)
    (fun t x h => ⟨?_, fun a h1 h2 => ?_⟩) s
  · exact congrArg Rod.cache ((rod_setRod ..).trans (if_pos rfl))
  · exact (tget_tclear ..).trans (if_pos ⟨h1, by omega⟩)
  · obtain ⟨hc, -⟩ := h
    refine (congrArg Rod.cache (rod_setRod ..)).trans ?_
    split
    · rfl
    · exact hc
  · refine (tget_tclear ..).trans ?_
    split
    · rfl
    · exact h.2 a h1 h2

/-! What marking, zeroing and another resident context leave. -/

@[simp] theorem ownFrames_o (fs : List Nat) (o k : Nat) : (s.ownFrames fs o).o k = s.o k := rfl
@[simp] theorem ownFrames_part (fs : List Nat) (o p : Nat) : (s.ownFrames fs o).part p = s.part p := rfl
@[simp] theorem ownFrames_ctx (fs : List Nat) (o p c : Nat) : (s.ownFrames fs o).ctx p c = s.ctx p c := rfl
@[simp] theorem ownFrames_pend (fs : List Nat) (o : Nat) : (s.ownFrames fs o).pend = s.pend := rfl

@[simp] theorem startZero_o (fs : List Nat) (k : Nat) : (s.startZero fs).o k = s.o k := by
  obtain ⟨_, h, -⟩ := startZero_eq s fs
  rw [h]
  rfl
@[simp] theorem startZero_part (fs : List Nat) (p : Nat) : (s.startZero fs).part p = s.part p := by
  obtain ⟨_, h, -⟩ := startZero_eq s fs
  rw [h]
  rfl
@[simp] theorem startZero_ctx (fs : List Nat) (p c : Nat) : (s.startZero fs).ctx p c = s.ctx p c := by
  obtain ⟨_, h, -⟩ := startZero_eq s fs
  rw [h]
  rfl
@[simp] theorem startZero_frameOwner (fs : List Nat) : (s.startZero fs).frameOwner = s.frameOwner := by
  obtain ⟨_, h, -⟩ := startZero_eq s fs
  rw [h]
@[simp] theorem startZero_rods (fs : List Nat) : (s.startZero fs).rods = s.rods := by
  obtain ⟨_, h, -⟩ := startZero_eq s fs
  rw [h]

theorem startZero_zeroing {f r : Nat} {fs : List Nat} (hf : f ∈ fs) (hr : r ∈ frameRods f) :
    tget 0 (s.startZero fs).decks.zeroing r = s.ns + 1 := by
  obtain ⟨_, h, hz⟩ := startZero_eq s fs
  rw [h]
  exact hz f hf r hr

@[simp] theorem endZero_o (fs : List Nat) (k : Nat) : (s.endZero fs).o k = s.o k := by
  obtain ⟨_, _, h⟩ := endZero_eq s fs
  rw [h]
  rfl
@[simp] theorem endZero_part (fs : List Nat) (p : Nat) : (s.endZero fs).part p = s.part p := by
  obtain ⟨_, _, h⟩ := endZero_eq s fs
  rw [h]
  rfl
@[simp] theorem endZero_pend (fs : List Nat) : (s.endZero fs).pend = s.pend := by
  obtain ⟨_, _, h⟩ := endZero_eq s fs
  rw [h]

end Sys2Proof.Machine
end

section
/-! The commands of partitions, and the ends of their zeroing (R336 to R338, R350, R455, R474). -/

namespace Sys2Proof.Machine

open Sys2Proof

variable {s : State} {p : Nat}

/-! A command in its path's turn (R404, R410). -/

section
variable {i : Instr} {path : Path} {f : State → State × Nat} {t : State}
  (hexec : exec i s = .next (s.access path f)) (hup : (s.ringBefore path).dictUp = true)
  (hw : (s.ringBefore path).mayWrite path = true)
include hexec hup hw

theorem exec_accepted (h : f (s.ringBefore path) = (t, 0)) : exec i s = .next (t.report path 0) := by
  rw [hexec, access_accepted hup hw h]

theorem exec_refused {e : Nat} (h : f (s.ringBefore path) = (t, e)) (he : e ≠ 0) :
    exec i s = .next ((s.ringBefore path).report path e) := by
  rw [hexec, access_refused hup hw h he]

end

/-! CREATE (R336, R337). -/

section
variable (hgate : s.fwGate = 0) (h2 : (s.part p).quiesce ≠ 2) (h4 : (s.part p).quiesce ≠ 4)
include hgate h2 h4

theorem ptCreate_busy (h : s.o (kPT_STATE p) ≠ 0) : s.ptCreate p = (s, stPT_BUSY) := by
  unfold State.ptCreate
  dsimp only
  rw [if_neg (not_not.2 hgate), if_neg (by simp [h2, h4]), if_pos h]

variable (h0 : s.o (kPT_STATE p) = 0)
include h0

theorem ptCreate_noTenant (h : s.o (kPT_TENANT p) = 0) : s.ptCreate p = (s, stPT_TENANT) := by
  unfold State.ptCreate
  dsimp only
  rw [if_neg (not_not.2 hgate), if_neg (by simp [h2, h4]), if_neg (not_not.2 h0), if_pos h]

variable (ht : s.o (kPT_TENANT p) ≠ 0)
include ht

theorem ptCreate_badMask (h : s.framesOk (s.o (kPT_FRAME_ARG p)) 0 = false) : s.ptCreate p = (s, stPT_FRAMES) := by
  unfold State.ptCreate
  dsimp only
  rw [if_neg (not_not.2 hgate), if_neg (by simp [h2, h4]), if_neg (not_not.2 h0), if_neg ht, if_pos (by simp [h])]

/-- CREATE that passes its checks: the partition is ZEROING with its frames, and no context of it is RESIDENT or in use. -/
theorem ptCreate_creates (h : s.framesOk (s.o (kPT_FRAME_ARG p)) 0 = true) : ∃ t, s.ptCreate p = (t, 0) ∧
    t.o (kPT_STATE p) = 1 ∧ t.frames p = s.o (kPT_FRAME_ARG p) ∧ t.resident p = 0xFF ∧
    (∀ f ∈ maskFrames (s.o (kPT_FRAME_ARG p)), tget 0xFF t.frameOwner f = p ∧
      ∀ r ∈ frameRods f, tget 0 t.decks.zeroing r = s.ns + 1) ∧
    (∀ c, c < 8 → t.ctx p c = {}) ∧ t.rods = s.rods := by
  unfold State.ptCreate
  extract_lets m x frames s1 s2 s3 s4
  rw [if_neg (not_not.2 hgate), if_neg (by simp [x, h2, h4]), if_neg (not_not.2 h0), if_neg ht, if_neg (by simp [m, h])]
  refine ⟨_, rfl, by simp, ?_, ?_, fun f hf => ⟨?_, fun r hr => ?_⟩, fun c hc => ?_, ?_⟩
  · have hm : s3.o (kPT_FRAMES p) = m := (o_setO ..).trans (if_pos rfl)
    simp [State.frames, s4, hm, m]
  · simp [State.resident, s4]
  · have hown : tget 0xFF s3.frameOwner f = p := ownFrames_owner s p hf
    simp [s4, hown]
  · exact startZero_zeroing _ hf hr
  · have hc' : s3.ctx p c = {} := (tget_tclear ..).trans (if_pos (by omega))
    simp [s4, hc']
  · simp [s4, s3, s2, s1, State.ownFrames]

end

/-! ADD and REMOVE (R336, R338, R474). -/

theorem reshape_busy (h : s.o (kPT_STATE p) ≠ 2 ∨ s.partBound p = true) :
    s.ptAdd p = (s, stPT_BUSY) ∧ s.ptRemove p = (s, stPT_BUSY) := by
  have hb : (decide (s.o (kPT_STATE p) ≠ 2) || s.partBound p) = true := by simpa using h
  exact ⟨if_pos hb, if_pos hb⟩

section
variable (hst : s.o (kPT_STATE p) = 2) (hfree : s.partBound p = false)
include hst hfree

/-- ADD marks its frames and leaves the partition as it is until they are zeroed (R474). -/
theorem ptAdd_adds (hok : s.framesOk (s.o (kPT_FRAME_ARG p)) (s.frames p ||| s.adding p) = true) : ∃ t, s.ptAdd p = (t, 0) ∧
    (∀ k, t.o k = s.o k) ∧ (∀ f ∈ maskFrames (s.o (kPT_FRAME_ARG p)), tget 0xFF t.frameOwner f = 0xFE) ∧
    (t.part p).adds = (s.part p).adds ++ [(BitVec.ofNat 64 (s.o (kPT_FRAME_ARG p)), s.ns)] ∧ t.rods = s.rods := by
  unfold State.ptAdd
  extract_lets m x s1
  rw [if_neg (by simp [hst, hfree]), if_neg (by simp [m, hok])]
  refine ⟨_, rfl, fun k => by simp [s1], fun f hf => ?_, ?_, ?_⟩
  · rw [startZero_frameOwner]
    exact ownFrames_owner _ _ hf
  · simp [s1, x, m]
  · exact startZero_rods ..

/-- REMOVE closes the partition for new commands: its frames leave it when no command runs (R338). -/
theorem ptRemove_quiesces (hm : s.o (kPT_FRAME_ARG p) ≠ 0)
    (hown : s.frames p &&& s.o (kPT_FRAME_ARG p) = s.o (kPT_FRAME_ARG p))
    (hconn : gridConnected 8 (s.frames p ^^^ s.o (kPT_FRAME_ARG p)) = true) : ∃ t, s.ptRemove p = (t, 0) ∧
    t.o (kPT_STATE p) = 3 ∧ t.frames p = s.frames p ∧ (t.part p).quiesce = 1 ∧
    (t.part p).removing = BitVec.ofNat 64 (s.o (kPT_FRAME_ARG p)) ∧ t.ctxs = s.ctxs := by
  unfold State.ptRemove
  extract_lets m own src s1
  rw [if_neg (by simp [hst, hfree]), if_neg (by simp [m, own, hm, hown, hconn])]
  obtain ⟨st, hst⟩ := pollLedger_eq (s1.setO (kPT_STATE p) 3)
  refine ⟨_, rfl, ?_⟩
  rw [hst]
  refine ⟨?_, ?_, ?_, ?_, rfl⟩
  · exact (o_setO ..).trans (if_pos rfl)
  · exact (o_setO ..).trans (if_neg (key_ne (by decide)))
  · exact congrArg Part.quiesce ((part_setPart ..).trans (if_pos rfl))
  · exact congrArg Part.removing ((part_setPart ..).trans (if_pos rfl))

end

/-! DESTROY (R338, R350). -/

theorem ptDestroy_quiesces (h0 : s.o (kPT_STATE p) ≠ 0) (h2 : (s.part p).quiesce ≠ 2) (h4 : (s.part p).quiesce ≠ 4) :
    ∃ t, s.ptDestroy p = (t, 0) ∧ t.o (kPT_STATE p) = 3 ∧ (t.part p).quiesce = 2 ∧ t.resident p = 0xFF ∧
      ∀ c, c < 8 → (t.ctx p c).run = none := by
  unfold State.ptDestroy
  extract_lets x s1 s2
  rw [if_neg h0, if_neg (by simp [x, h2, h4])]
  obtain ⟨hkeep, hres, hrun⟩ := endAllRuns_ends (s2.setO (kPT_STATE p) 3) p stPT_DESTROYED
  refine ⟨_, rfl, (hkeep.ptState p).trans (by simp), (hkeep.quiesce p).trans (by simp [s2]), hres, hrun⟩

/-! The ends of zeroing, and of the commands of a partition that is shut down (R337, R338, R455, R474). -/

theorem exec_createZeroingEnd (hp : p < 16) (hst : s.o (kPT_STATE p) = 1) : exec (.createZeroingEnd p) s
    = .next ((s.endZero (s.partFrames p)).setO (kPT_STATE p) 2).pollAll :=
  if_neg (by simp [hst, hp])

theorem addZeroingEnd_joins {m : BitVec 64} {b : Nat} {l : List (BitVec 64 × Nat)} (hp : p < 16)
    (hadds : (s.part p).adds = (m, b) :: l) : ∃ t, exec (.addZeroingEnd p) s = .next t ∧
    t.frames p = s.frames p ||| m.toNat ∧ (t.part p).adds = l ∧ ∀ f ∈ maskFrames m.toNat, tget 0xFF t.frameOwner f = p := by
  show ∃ t, execAddZeroingEnd p s = .next t ∧ _
  unfold execAddZeroingEnd
  dsimp only
  rw [hadds]
  dsimp only
  rw [if_neg (by omega)]
  refine ⟨_, rfl, ?_, ?_, fun f hf => ?_⟩
  · simp [State.frames]
  · simp
  · exact ownFrames_owner _ _ hf

section
variable (hp : p < 16) (hst : s.o (kPT_STATE p) = 3) (hruns : s.noRuns p = true)
include hp hst hruns

/-- Once no command runs, REMOVE's frames leave the partition (R338). -/
theorem quiesceEnd_remove (hq : (s.part p).quiesce = 1) : ∃ t, exec (.quiesceEnd p) s = .next t ∧ (t.part p).quiesce = 3 ∧
    t.frames p = s.frames p ^^^ (s.part p).removing.toNat ∧
    ∀ f ∈ maskFrames (s.part p).removing.toNat, tget 0xFF t.frameOwner f = 0xFE := by
  show ∃ t, execQuiesceEnd p s = .next t ∧ _
  unfold execQuiesceEnd
  extract_lets x m frames s1 s2
  rw [if_neg (by simp [hst, hruns, hp]), if_pos hq]
  have hcut : ((s1.cutStages p).part p).quiesce = 3 := (NoStart.refl.cutStages.quiesce p).trans (by simp [s1])
  refine ⟨_, rfl, by simpa [s2] using hcut, by simp [s2, State.frames, s1, m, x], fun f hf => ?_⟩
  rw [startZero_frameOwner]
  exact ownFrames_owner _ _ hf

/-- A destroyed partition has no frame and no context (R338). -/
theorem quiesceEnd_destroy (hq : (s.part p).quiesce = 2) : ∃ t, exec (.quiesceEnd p) s = .next t ∧ (t.part p).quiesce = 4 ∧
    t.frames p = 0 ∧ ∀ c, c < 8 → t.ctx p c = {} := by
  show ∃ t, execQuiesceEnd p s = .next t ∧ _
  unfold execQuiesceEnd
  extract_lets x m frames s1 s2 s3 m' frames' s4 s5 s6
  rw [if_neg (by simp [hst, hruns, hp]), if_neg (by simp [x, hq]), if_pos hq]
  clear_value s3
  refine ⟨_, rfl, by simp [s6, s5], by simp [s6, State.frames], fun c hc => ?_⟩
  have hc' : s4.ctx p c = {} := (tget_tclear ..).trans (if_pos (by omega))
  simp [s6, s5, hc']

end

section
variable (hp : p < 16) (hreset : (s.part p).reset = 0)
include hp hreset

theorem removeZeroingEnd_active (hq : (s.part p).quiesce = 3) : ∃ t : State, exec (.removeZeroingEnd p) s = .next t.pollAll ∧
    t.o (kPT_STATE p) = 2 ∧ (t.part p).quiesce = 0 ∧
    ∀ f ∈ maskFrames (s.part p).removing.toNat, tget 0xFF t.frameOwner f = 0xFF := by
  show ∃ t : State, execRemoveZeroingEnd p s = .next t.pollAll ∧ _
  unfold execRemoveZeroingEnd
  extract_lets x frames s1 s2
  rw [if_neg (by simp [x, hq, hreset, hp]), if_pos hq]
  exact ⟨_, rfl, by simp, by simp [s2], fun f hf => ownFrames_owner _ _ hf⟩

/-- With no enable held, the shut-down of a partition that was destroyed ends in NONE (R338, R455). -/
theorem removeZeroingEnd_none (hq : (s.part p).quiesce = 4) (hpend : ∀ e ∈ s.pend, ¬(e.kind = 1 ∧ e.inst = p)) :
    ∃ t, exec (.removeZeroingEnd p) s = .next t ∧ t.o (kPT_STATE p) = 0 ∧ (t.part p).quiesce = 0 ∧
      ∀ f ∈ maskFrames (s.part p).removing.toNat, tget 0xFF t.frameOwner f = 0xFF := by
  show ∃ t, execRemoveZeroingEnd p s = .next t ∧ _
  unfold execRemoveZeroingEnd
  extract_lets x frames s1 s2
  have hidle : (s2.setO (kPT_STATE p) 0).firePending 1 p (fun s => s.ptCreate p) = s2.setO (kPT_STATE p) 0 := by
    refine if_neg ?_
    simpa [s2, s1] using hpend
  rw [if_neg (by simp [x, hq, hreset, hp]), if_neg (by simp [x, hq]), hidle]
  exact ⟨_, rfl, by simp, by simp [s2], fun f hf => ownFrames_owner _ _ hf⟩

end

/-- Settles O37: the commands by what their checks answer in the path's turn, the ends of zeroing and of shut-downs by their
lemmas. -/
theorem partitionsAreCreatedAndDestroyed : Obligations.PartitionsAreCreatedAndDestroyed := by
  unfold Obligations.PartitionsAreCreatedAndDestroyed
  refine ⟨?_, ?_, fun p b m l s => addZeroingEnd_joins, fun p s hp hst hruns => ⟨quiesceEnd_remove hp hst hruns,
    quiesceEnd_destroy hp hst hruns⟩, fun p s hp hreset => ⟨removeZeroingEnd_active hp hreset, removeZeroingEnd_none hp hreset⟩⟩
  · intro path p s v hp hup hw
    have hcreate : exec (.ptCreate path p) s = .next (s.access path fun s => s.ptCreate p) := congrArg _ (if_pos hp)
    have hadd : exec (.ptAdd path p) s = .next (s.access path fun s => s.ptAdd p) := congrArg _ (if_pos hp)
    have hremove : exec (.ptRemove path p) s = .next (s.access path fun s => s.ptRemove p) := congrArg _ (if_pos hp)
    have hdestroy : exec (.ptDestroy path p) s = .next (s.access path fun s => s.ptDestroy p) := congrArg _ (if_pos hp)
    refine ⟨fun hgate h2 h4 => ⟨fun h => ?_, fun h0 h => ?_, fun h0 ht h => ?_, fun h0 ht h => ?_⟩, fun hst hfree hok => ?_,
      fun hst hfree hm hown hconn => ?_, fun i hi hbusy => ?_, fun h0 h2 h4 => ?_⟩
    · exact exec_refused hcreate hup hw (ptCreate_busy hgate h2 h4 h) (by decide)
    · exact exec_refused hcreate hup hw (ptCreate_noTenant hgate h2 h4 h0 h) (by decide)
    · exact exec_refused hcreate hup hw (ptCreate_badMask hgate h2 h4 h0 ht h) (by decide)
    · obtain ⟨t, heq, hst, hframes, hres, hown, hctx, hrods⟩ := ptCreate_creates hgate h2 h4 h0 ht h
      exact ⟨_, exec_accepted hcreate hup hw heq, hst, hframes, hres, hown, hctx, report_get .., hrods⟩
    · obtain ⟨t, heq, ho, hown, hadds, hrods⟩ := ptAdd_adds hst hfree hok
      exact ⟨_, exec_accepted hadd hup hw heq, ho _, (ho _).trans hst, hown, hadds, report_get .., hrods⟩
    · obtain ⟨t, heq, hst, hframes, hq, hrem, hctxs⟩ := ptRemove_quiesces hst hfree hm hown hconn
      exact ⟨_, exec_accepted hremove hup hw heq, hst, hframes, hq, hrem, report_get .., hctxs⟩
    · obtain ⟨hba, hbr⟩ := reshape_busy hbusy
      obtain rfl | rfl := hi
      · exact exec_refused hadd hup hw hba (by decide)
      · exact exec_refused hremove hup hw hbr (by decide)
    · obtain ⟨t, heq, hst, hq, hres, hrun⟩ := ptDestroy_quiesces h0 h2 h4
      exact ⟨_, exec_accepted hdestroy hup hw heq, hst, hq, hres, hrun, report_get ..⟩
  · intro p s hp hst
    exact ⟨_, exec_createZeroingEnd hp hst, by simp, fun f hf r hr => endZero_clears s hf hr⟩

end Sys2Proof.Machine
end

section
/-! RUN: what dispatching one does, and how it ends (R342, R364, R365, R391, R461). -/

namespace Sys2Proof.Machine

open Sys2Proof

variable {s : State} {p : Nat}

/-! The program's requests on the mesh (R24, R27). -/

/-- From `s` to `t`, packets have been sent, and no rod has ended, begun or left a wait. -/
structure Fetches (s t : State) : Prop where
  only : OnMesh s t
  ended : ∀ k, (t.rod k).ended = (s.rod k).ended
  wait : ∀ k, (t.rod k).wait = (s.rod k).wait

namespace Fetches

variable {t : State}

theorem refl : Fetches s s := ⟨.refl, fun _ => rfl, fun _ => rfl⟩

theorem mesh {m} (h : Fetches s t) : Fetches s { t with mesh := m } := ⟨h.only.update, h.ended, h.wait⟩

theorem countLost {e} (h : Fetches s t) : Fetches s (t.countLost e) := by
  cases e with
  | none => exact h
  | some r =>
    refine ⟨h.only.countLost, fun k => (?_ : _ = (t.rod k).ended).trans (h.ended k),
      fun k => (?_ : _ = (t.rod k).wait).trans (h.wait k)⟩ <;>
    · rw [State.countLost, rod_setRod]
      split
      · next e => rw [e]
      · rfl

theorem launch {r len} (h : Fetches s t) : Fetches s (t.launch r len).1 := by
  unfold State.launch
  split
  · exact h
  · split
    · exact h
    · exact h.countLost

theorem fetchProgram {p rods x} (h : Fetches s t) : Fetches s (t.fetchProgram p rods x) := by
  unfold State.fetchProgram
  split
  · exact h
  · exact List.foldlRecOn (motive := Fetches s) _ _ h fun _ h _ _ => h.mesh.launch.mesh

end Fetches

/-! The rods pass to the context (R344, R347, R351). -/

@[simp] theorem phaseTick_st (s : State) (p : Nat) : (s.phaseTick p).st = s.st := by rw [phaseTick_frame]
@[simp] theorem phaseTick_rods (s : State) (p : Nat) : (s.phaseTick p).rods = s.rods := by rw [phaseTick_frame]
@[simp] theorem phaseTick_decks (s : State) (p : Nat) : (s.phaseTick p).decks = s.decks := by rw [phaseTick_frame]

/-- A soft yield counts in the account of the context that gave way and in PT_SWITCH_NS alone. -/
theorem endYield_frame (s : State) (p c : Nat) : s.endYield p c =
    { s with parts := (s.endYield p c).parts, ctxs := (s.endYield p c).ctxs, objs := (s.endYield p c).objs } := by
  unfold State.endYield
  dsimp only
  split <;> rfl

theorem endYield_ctx (s : State) (p c k : Nat) : ∃ a, (s.endYield p c).ctx p k = { s.ctx p k with account := a } := by
  unfold State.endYield
  dsimp only
  split
  · exact ⟨_, rfl⟩
  · rw [ctx_setCtx]
    split
    · next e =>
      obtain rfl : k = (s.part p).yieldBy := by omega
      exact ⟨_, rfl⟩
    · exact ⟨_, rfl⟩

theorem holdOn_eq (s : State) (p c : Nat) : s.holdOn p c = { s with ctxs := (s.holdOn p c).ctxs } := by
  unfold State.holdOn
  split <;> rfl

@[simp] theorem run_holdOn (s : State) (p c k : Nat) : ((s.holdOn p c).ctx p k).run = (s.ctx p k).run := by
  unfold State.holdOn
  split
  · rw [ctx_setCtx]
    split
    · next e =>
      obtain rfl : k = c := by omega
      rfl
    · rfl
  · rfl

/-! Dispatch (R342, R364). -/

section
variable {c q : Nat} {h : BitVec 1024} {prog : ProgInfo}

theorem dispatch_fails (hcheck : s.runCheck p h prog ≠ 0) : s.dispatch p c q h prog =
    ((s.takeRun p c q).complete (mkCmd s (p + 1) q h) (s.runCheck p h prog) 0 0).afterRun p c := if_pos hcheck

/-- A RUN that passes its checks takes its debit and runs on its rods, none of which has ended or waits. -/
theorem dispatch_runs (hcheck : s.runCheck p h prog = 0) : ∃ (t : State) (r : RunCmd), s.dispatch p c q h prog = t.pollAll ∧
    (t.ctx p c).run = some r ∧ r.rods = prog.rods ∧ r.cmd.hdr = h ∧ r.cmd.debit = s.debit h ∧ r.cmd.status = 0 ∧
    r.ended = false ∧ t.st.balance = s.st.balance - (s.debit h : Nat) ∧ t.st.curDebit = s.st.curDebit + s.debit h ∧
    (p + 1, q) ∉ t.st.queue ∧ (∀ k ∈ prog.rods, (t.rod k).ended = false ∧ (t.rod k).wait = .none) ∧ t.decks = s.decks := by
  unfold State.dispatch
  extract_lets cmd d st s1 t s2 s3 x r s4 src s5 s6
  rw [if_neg (not_not.2 hcheck)]
  have hstart : OnMesh s5 s6 := List.foldlRecOn (motive := OnMesh s5) _ _ .refl fun _ h _ _ => h.setRod
  have hrods : ∀ k ∈ prog.rods, (s6.rod k).ended = false ∧ (s6.rod k).wait = .none := by
    refine fun k hk => foldl_of_mem (P := fun t : State => (t.rod k).ended = false ∧ (t.rod k).wait = .none) hk
      (fun t => ?_) (fun t x h => ?_) s5
    · simp
    · dsimp only
      rw [rod_setRod]
      split
      · exact ⟨rfl, rfl⟩
      · exact h
  clear_value s6
  obtain ⟨m, rs, rfl⟩ := hstart
  have hrun : (s5.ctx p c).run = some r := by
    have h5 : s5.ctx p c = s4.ctx p c := rfl
    simp [h5, s4]
  have hst : s5.st = s2.st := phaseTick_st s2 p
  have hdecks : s5.decks = s.decks := phaseTick_decks s2 p
  have hyield := endYield_frame { s5 with mesh := m, rods := rs } p c
  obtain ⟨a, hctx⟩ := endYield_ctx { s5 with mesh := m, rods := rs } p c c
  generalize State.endYield { s5 with mesh := m, rods := rs } p c = v at hyield hctx ⊢
  obtain ⟨hmesh, hended, hwait⟩ := Fetches.refl.fetchProgram (s := v) (p := p) (rods := prog.rods) (x := h)
  generalize v.fetchProgram p prog.rods h = w at hmesh hended hwait ⊢
  have hhold := holdOn_eq w p c
  have hrun' : ((w.holdOn p c).ctx p c).run = some r := by
    obtain ⟨_, _, rfl⟩ := hmesh
    exact (run_holdOn ..).trans ((congrArg Ctx.run hctx).trans hrun)
  generalize w.holdOn p c = t at hhold hrun' ⊢
  have hend : t.st = s2.st ∧ t.decks = s.decks ∧ ∀ k, t.rod k = w.rod k := by
    obtain ⟨_, _, rfl⟩ := hmesh
    rw [hhold, hyield]
    exact ⟨hst, hdecks, fun _ => rfl⟩
  obtain ⟨htst, htdecks, htrod⟩ := hend
  refine ⟨t, r, rfl, hrun', rfl, rfl, rfl, rfl, rfl, ?_, ?_, ?_, fun k hk => ?_, htdecks⟩
  · rw [htst]
    rfl
  · rw [htst]
    rfl
  · have hq : s2.st.queue = s.st.queue.filter (fun e => e != (p + 1, q)) := rfl
    rw [htst, hq]
    simp
  · obtain ⟨he, hw⟩ := hrods k hk
    have hv : v.rod k = State.rod { s5 with mesh := m, rods := rs } k := by rw [hyield]; rfl
    rw [htrod, hended, hwait, hv]
    exact ⟨he, hw⟩

end

/-! RUN at the head of a queue (R342, R365, R392). -/

section
variable {q : Nat} {h : BitVec 1024} {prog : ProgInfo} (hop : hcOpcode h = 1) (hfatal : s.fatal = false)
include hop hfatal

theorem execRun_physical (hready : s.headReady 0 q = some h) : execRun 0 q prog s
    = .next (((s.acceptHead 0 q).complete (mkCmd s 0 q h) stCMD_INVALID 0 0).flushQueue 0 q) := by
  unfold execRun
  rw [hready]
  dsimp only
  rw [if_neg (by simp [hop, hfatal]), if_pos rfl]

variable (hready : s.headReady (p + 1) q = some h)
include hready

theorem execRun_busy (hidle : s.pollAll.rodsIdle p = false) : execRun (p + 1) q prog s = .next s.pollAll := by
  unfold execRun
  rw [hready]
  dsimp only
  rw [if_neg (by simp [hop, hfatal]), if_neg (by omega), Nat.add_sub_cancel, if_pos (by simp [hidle])]

theorem execRun_dispatches (hopens : s.pollAll.opens p (q / 8) = true) (hheld : (s.pollAll.part p).held = false)
    (hidle : s.pollAll.rodsIdle p = true) (hnext : s.pollAll.nextRun p (q / 8) = some (q, h))
    (hres : (s.pollAll.decideIdle p).resident p = q / 8) (hstill : (s.pollAll.decideIdle p).rodsIdle p = true)
    (hmeets : (s.pollAll.decideIdle p).meets (p + 1) q h = true) : execRun (p + 1) q prog s
    = .next (((s.pollAll.decideIdle p).dispatch p (q / 8) q h prog).flushQueue (p + 1) q) := by
  unfold execRun
  rw [hready]
  dsimp only
  rw [if_neg (by simp [hop, hfatal]), if_neg (by omega), Nat.add_sub_cancel,
    if_neg (by simp [hopens, hheld, hidle, hnext]), if_neg (by simp [hres, hstill, hmeets])]

end

/-! The end of a command (R391, R461). -/

theorem ended_runClears (cycle : Nat) (go : Bool) (n : Nat) (r : Rod) : (Rod.runClears cycle go n r).ended = r.ended := by
  induction n generalizing r with
  | zero => rfl
  | succ n ih =>
    unfold Rod.runClears
    split
    · exact ih _
    · split
      · exact ih _
      · rfl

/-- What has become due on a rod does not begin or end its program. -/
@[simp] theorem ended_settleAt (r : Rod) (cycle : Nat) (go : Bool) : (r.settleAt cycle go).ended = r.ended :=
  ended_runClears ..

/-- A command whose rods have all ended, with its records published and its tiles taken, or which has a status, ends. -/
theorem exec_runComplete {r : RunCmd} (hrun : s.runCmd p = some r) (hswitch : (s.part p).switch = none)
    (hdone : r.cmd.status ≠ 0 ∨ ((∀ d ∈ r.rods, (s.rod d).ended = true) ∧ r.reserved = [] ∧
      ∀ x ∈ s.cy.tiles, x.part = p → x.rod ∉ r.rods)) : exec (.runComplete p) s = .next (s.completeRun p) := by
  show execRunComplete p s = _
  unfold execRunComplete
  rw [hrun]
  dsimp -zeta only
  extract_lets idle pending tiles
  refine congrArg _ (if_pos ?_)
  obtain hst | ⟨hended, hres, htiles⟩ := hdone
  · simp [hswitch, hst]
  · have hidle : ∀ d ∈ r.rods, idle d = true := fun d hd => by simp [idle, hended d hd]
    have hpending : pending = false := by
      unfold pending
      split <;> simp [hres]
    have htaken : tiles = false := by simpa [tiles] using htiles
    rw [hpending, htaken]
    simpa [hswitch] using .inr hidle

/-- With the decision that follows it, the context runs no command, and no grace time lasts (R344, R345). -/
theorem completeRun_spec (s : State) (p : Nat) : ((s.completeRun p).ctx p (s.resident p)).run = none ∧
    ((s.completeRun p).part p).graceAt = 0 := by
  unfold State.completeRun
  extract_lets c
  obtain ⟨-, hrun⟩ := endRun_noStart s p c 0
  generalize s.endRun p c 0 = u at hrun ⊢
  unfold State.afterRun
  extract_lets yielding src s1 src' s2 s3 nx
  have h3 : NoStart s2 s3 := NoStart.refl.pollLedger.decideIdle
  have hnone : (s2.ctx p c).run = none := by
    have hc : s2.ctx p c = s1.ctx p c := rfl
    simp [hc, s1, src, hrun]
  have hgrace : (s2.part p).graceAt = 0 := by simp [s2]
  clear_value s2 s3
  exact ⟨(h3.setPart (by rfl) (by exact id)).pollAll.run _ hnone, (h3.setPart (by rfl) (by exact id)).pollAll.grace p hgrace⟩

/-- Settles O46: RUN by what stands in the way of its dispatch, the checks by what dispatch does after them, and the end of a
command by its end and the decision that follows. -/
theorem runsAreDispatchedAndEnd : Obligations.RunsAreDispatchedAndEnd := by
  unfold Obligations.RunsAreDispatchedAndEnd
  refine ⟨fun q prog h s hready hop hfatal => execRun_physical hop hfatal hready, ?_,
    fun p q prog h s _ hready hop hfatal => execRun_busy hop hfatal hready, fun p r s _ hrun hswitch hdone => ?_⟩
  · intro p q prog h s _ _ hready hop hfatal hopens hheld hidle hnext hres hstill hmeets u
    have hexec : exec (.run (p + 1) q prog) s = .next ((u.dispatch p (q / 8) q h prog).flushQueue (p + 1) q) :=
      execRun_dispatches hop hfatal hready hopens hheld hidle hnext hres hstill hmeets
    rw [hexec]
    refine ⟨fun hcheck => by rw [dispatch_fails hcheck], fun hcheck => ?_⟩
    obtain ⟨t, r, heq, h⟩ := dispatch_runs (c := q / 8) (q := q) hcheck
    exact ⟨t, r, by rw [heq], h⟩
  · obtain ⟨hnone, hgrace⟩ := completeRun_spec s p
    exact ⟨_, exec_runComplete hrun hswitch hdone, hnone, hgrace⟩

end Sys2Proof.Machine
end

section
/-! What a decision takes into account: the shares in force and the contexts that are READY (R342, R344, R353). -/

namespace Sys2Proof.Machine

open Sys2Proof

/-- From `s` to `t`, shares have been latched, virtual times settled, and READY contexts noted: commands, requests to yield and switches
are as they were, and so are the times of the slices. -/
structure Noted (s t : State) : Prop where
  only : ∃ c q, t = { s with ctxs := c, parts := q }
  run : ∀ p k, (t.ctx p k).run = (s.ctx p k).run
  yieldReq : ∀ p k, (t.ctx p k).yieldReq = (s.ctx p k).yieldReq
  switch : ∀ p, (t.part p).switch = (s.part p).switch
  sliceAt : ∀ p, (t.part p).sliceAt = (s.part p).sliceAt
  graceAt : ∀ p, (t.part p).graceAt = (s.part p).graceAt

namespace Noted

variable {s t : State} {c : Prop} [Decidable c]

theorem refl : Noted s s := ⟨⟨_, _, rfl⟩, fun _ _ => rfl, fun _ _ => rfl, fun _ => rfl, fun _ => rfl, fun _ => rfl⟩

theorem ite {u : State} (ht : Noted s t) (hu : Noted s u) : Noted s (if c then t else u) := by
  split <;> assumption

theorem foldl {α : Type} {f : State → α → State} {l : List α} (h : Noted s t) (hf : ∀ t x, Noted s t → Noted s (f t x)) :
    Noted s (l.foldl f t) :=
  List.foldlRecOn l f h fun t h x _ => hf t x h

theorem setCtx {p c : Nat} {v : Ctx} (h : Noted s t) (hr : v.run = (t.ctx p c).run)
    (hy : v.yieldReq = (t.ctx p c).yieldReq) : Noted s (t.setCtx p c v) := by
  have hctx (q k : Nat) : ((t.setCtx p c v).ctx q k).run = (t.ctx q k).run ∧
      ((t.setCtx p c v).ctx q k).yieldReq = (t.ctx q k).yieldReq := by
    rw [ctx_setCtx]
    split
    · next e =>
      have he : t.ctx q k = t.ctx p c := by rw [State.ctx, e, State.ctx]
      rw [hr, hy, he]
      exact ⟨rfl, rfl⟩
    · exact ⟨rfl, rfl⟩
  obtain ⟨c, q, heq⟩ := h.only
  exact ⟨⟨_, q, by rw [heq]; rfl⟩, fun q k => (hctx q k).1.trans (h.run q k), fun q k => (hctx q k).2.trans (h.yieldReq q k),
    h.switch, h.sliceAt, h.graceAt⟩

theorem settleV {p c} (h : Noted s t) : Noted s (t.settleV p c) := .ite h (h.setCtx (by rfl) (by rfl))

theorem latchSched {p} (h : Noted s t) : Noted s (t.latchSched p) := by
  unfold State.latchSched
  extract_lets +onlyGivenNames u
  have hu : Noted s u := h.foldl fun _ _ h => h.settleV.setCtx (by rfl) (by rfl)
  clear_value u
  have hpart (q : Nat) (a b c : Nat) : let x := (u.setPart p { u.part p with sliceUs := a, graceUs := b, iiWindow := c }).part q
      x.switch = (u.part q).switch ∧ x.sliceAt = (u.part q).sliceAt ∧ x.graceAt = (u.part q).graceAt := by
    dsimp only
    rw [part_setPart]
    split
    · next e => exact e ▸ ⟨rfl, rfl, rfl⟩
    · exact ⟨rfl, rfl, rfl⟩
  obtain ⟨c, q, heq⟩ := hu.only
  exact ⟨⟨c, _, by rw [heq]; rfl⟩, hu.run, hu.yieldReq, fun q => (hpart q ..).1.trans (hu.switch q),
    fun q => (hpart q ..).2.1.trans (hu.sliceAt q), fun q => (hpart q ..).2.2.trans (hu.graceAt q)⟩

theorem noteReady {p} (h : Noted s t) : Noted s (t.noteReady p) := .foldl (.ite h.settleV h) fun _ _ h =>
  .ite h (h.setCtx (by rfl) (by rfl))

theorem resident (h : Noted s t) (p : Nat) : t.resident p = s.resident p := by
  obtain ⟨_, _, rfl⟩ := h.only
  rfl

theorem rods (h : Noted s t) : t.rods = s.rods := by
  obtain ⟨_, _, rfl⟩ := h.only
  rfl

theorem ns (h : Noted s t) : t.ns = s.ns := by
  obtain ⟨_, _, rfl⟩ := h.only
  rfl

theorem saveArea (h : Noted s t) (p c : Nat) : t.saveArea p c = s.saveArea p c := by
  obtain ⟨_, _, rfl⟩ := h.only
  rfl

end Noted

/-- What a decision takes into account. -/
theorem noted_decision (s : State) (p : Nat) : Noted s ((s.latchSched p).noteReady p) := Noted.refl.latchSched.noteReady

/-- A context that is passed over is not chosen (R343, R344). -/
theorem pickCtx_ne (s : State) (p c : Nat) : s.pickCtx p c ≠ some c := by
  refine List.foldlRecOn (motive := fun b => b ≠ some c) (upto 8) _ (by simp) fun b hb k _ => ?_
  split
  · exact hb
  · next hk =>
    have hne : k ≠ c := fun e => hk (by simp [e])
    split
    · simpa using hne
    · split
      · simpa using hne
      · exact hb

/-- A hard switch that begins (R348). -/
theorem startSwitch_spec (s : State) (p out inn : Nat) :
    ((s.startSwitch p out inn).part p).switch = some { out := out, inn := inn, at_ := s.ns, saved := false } ∧
    ((s.startSwitch p out inn).part p).graceAt = 0 ∧ ((s.startSwitch p out inn).ctx p out).run = (s.ctx p out).run ∧
    (s.startSwitch p out inn).rods = s.rods := by
  unfold State.startSwitch
  simp

end Sys2Proof.Machine
end

section
/-! The commands of contexts (R343, R350, R455, R457). -/

namespace Sys2Proof.Machine

open Sys2Proof

variable {s : State} {p c : Nat}

/-! ENABLE (R343). -/

theorem ctxEnable_held (h : (s.ctx p c).disabling = true) : s.ctxEnable p c = (s.pendEnable 2 (8 * p + c), 0) := if_pos h

section
variable (hdis : (s.ctx p c).disabling = false) (hen : (s.ctx p c).enabled = false)
include hdis hen

theorem ctxEnable_enables (hclear : ∀ k a b, k < 8 → k ≠ c → (s.ctx p k).enabled = true → s.saveArea p c = some a →
    s.saveArea p k = some b → a + saveBytes ≤ b ∨ b + saveBytes ≤ a) :
    s.ctxEnable p c = ((s.setCtx p c { s.ctx p c with enabled := true, ready := false }).pollAll, 0) := by
  unfold State.ctxEnable State.enableCtx
  extract_lets x clash
  have hclash : clash = false := by
    unfold clash
    split
    · rfl
    · next a ha =>
      rw [List.any_eq_false]
      intro k hk
      rw [mem_upto] at hk
      split
      · next b hb =>
        intro h
        simp only [Bool.and_eq_true, bne_iff_ne, decide_eq_true_eq] at h
        obtain ⟨⟨hne, henk⟩, hab, hba⟩ := h
        have := hclear k a b hk hne henk ha hb
        omega
      · simp
  rw [if_neg (by simp [hdis]), if_neg (by simp [x, hen]), if_neg (by simp [hclash])]

theorem ctxEnable_clashes {k a b : Nat} (hk : k < 8) (hne : k ≠ c) (henk : (s.ctx p k).enabled = true)
    (ha : s.saveArea p c = some a) (hb : s.saveArea p k = some b) (hab : a < b + saveBytes) (hba : b < a + saveBytes) :
    s.ctxEnable p c = (s, stPT_CONFIG) := by
  unfold State.ctxEnable State.enableCtx
  extract_lets x clash
  have hclash : clash = true := by
    unfold clash
    rw [ha]
    exact List.any_eq_true.2 ⟨k, mem_upto.2 hk, by simp [hne, henk, hb, hab, hba]⟩
  rw [if_neg (by simp [hdis]), if_neg (by simp [x, hen]), if_pos hclash]

end

/-! DISABLE (R343, R457). -/

section
variable (hen : (s.ctx p c).enabled = true)
include hen

/-- A context without a command is disabled at once, a held ENABLE of it taken back. -/
theorem ctxDisable_idle (hc : c < 8) (hrun : (s.ctx p c).run = none) : ∃ u : State, s.ctxDisable p c = (u.pollAll, 0) ∧
    (u.ctx p c).enabled = false ∧ u.resident p ≠ c ∧ (∀ e ∈ u.pend, ¬(e.kind = 2 ∧ e.inst = 8 * p + c)) ∧ u.rods = s.rods := by
  unfold State.ctxDisable
  extract_lets s1 x s2 s3 s4 s5
  have h1 : s1.ctx p c = s.ctx p c := rfl
  rw [if_neg (by simp [x, h1, hen]), if_neg (by simp [x, h1, hrun]), if_neg (by simp [x, h1, hrun])]
  have hpend : ∀ e ∈ s1.pend, ¬(e.kind = 2 ∧ e.inst = 8 * p + c) := fun e he => by
    obtain ⟨-, hkept⟩ := List.mem_filter.1 he
    rintro ⟨hkind, hinst⟩
    simp [hkind, hinst] at hkept
  refine ⟨s5, rfl, ?_⟩
  unfold s5
  split
  · next h => exact ⟨by simp [s4], by simp; omega, hpend, rfl⟩
  · next h => exact ⟨by simp [s4], h, hpend, rfl⟩

variable (hrun : (s.ctx p c).run.isSome = true)
include hrun

/-- With a command that is switched out, it is disabled at once, and that command ends. -/
theorem ctxDisable_switchedOut (hres : s.resident p ≠ c) (hnow : s.residentNow p ≠ c) : ∃ u : State,
    s.ctxDisable p c = (u.pollAll, 0) ∧ (u.ctx p c).enabled = false ∧ (u.ctx p c).run = none := by
  unfold State.ctxDisable
  extract_lets s1 x s2 s3 s4 s5
  have h1 : s1.ctx p c = s.ctx p c := rfl
  have hr : s1.resident p = s.resident p := rfl
  have hn : s1.residentNow p = s.residentNow p := rfl
  rw [if_neg (by simp [x, h1, hen]), if_pos (by simp [x, h1, hrun, hr, hn, hres, hnow])]
  have ⟨_, hnone⟩ := endRun_noStart (s1.setCtx p c { x with disabling := false }) p c stPT_CTX_DISABLED
  exact ⟨_, rfl, by simp, by simpa [s2] using hnone⟩

/-- With a command on the rods, it waits for the command's end. -/
theorem ctxDisable_waits (h : s.resident p = c ∨ s.residentNow p = c) : s.ctxDisable p c =
    ((s.dropPending 2 (8 * p + c)).setCtx p c { s.ctx p c with disabling := true }, 0) := by
  unfold State.ctxDisable
  extract_lets s1 x s2 s3 s4 s5
  have h1 : s1.ctx p c = s.ctx p c := rfl
  have hr : s1.resident p = s.resident p := rfl
  have hn : s1.residentNow p = s.residentNow p := rfl
  have hserved : ¬(x.run.isSome && decide (s1.resident p ≠ c) && decide (s1.residentNow p ≠ c)) = true := by
    obtain h | h := h <;> simp [hr, hn, h]
  rw [if_neg (by simp [x, h1, hen]), if_neg hserved, if_pos (by simp [x, h1, hrun])]
  rfl

end

/-! YIELD and EVICT (R343, R350). -/

theorem ctxYield_noted (h : s.resident p = c ∨ s.incoming p c = true) :
    s.ctxYield p c = (s.setCtx p c { s.ctx p c with yieldReq := 1 }, 0) := if_pos (by simpa using h)

theorem ctxEvict_incoming (h : s.incoming p c = true) :
    s.ctxEvict p c = (s.setCtx p c { s.ctx p c with yieldReq := 2 }, 0) := if_pos h

theorem yield_evict_elsewhere (hres : s.resident p ≠ c) (hinc : s.incoming p c = false) :
    s.ctxYield p c = (s, 0) ∧ s.ctxEvict p c = (s, 0) :=
  ⟨if_neg (by simp [hres, hinc]), (if_neg (by simp [hinc])).trans (if_pos hres)⟩

section
variable (hres : s.resident p = c) (hinc : s.incoming p c = false)
include hres hinc

theorem ctxEvict_yields (h : s.saveArea p c = none ∨ (s.ctx p c).run = none) :
    s.ctxEvict p c = (s.setCtx p c { s.ctx p c with yieldReq := 1 }, 0) := by
  refine (if_neg (by simp [hinc])).trans ((if_neg (not_not.2 hres)).trans (if_neg ?_))
  obtain h | h := h <;> simp [h]

/-- EVICT of a running command with a save area: a hard switch away from it begins (R343, R348). -/
theorem ctxEvict_switches (hc : c < 8) (harea : (s.saveArea p c).isSome = true) (hrun : (s.ctx p c).run.isSome = true)
    (hswitch : (s.part p).switch = none) : ∃ t w, s.ctxEvict p c = (t, 0) ∧ (t.part p).switch = some w ∧ w.out = c ∧ w.inn ≠ c ∧
    w.saved = false ∧ (t.ctx p c).run = (s.ctx p c).run ∧ t.rods = s.rods := by
  have hn := noted_decision s p
  have heq : s.ctxEvict p c = (s.evictNow p c, 0) :=
    (if_neg (by simp [hinc])).trans ((if_neg (not_not.2 hres)).trans (if_pos (by simp [harea, hrun, hswitch])))
  obtain ⟨hsw, -, hr, hrods⟩ :=
    startSwitch_spec ((s.latchSched p).noteReady p) p c ((((s.latchSched p).noteReady p).pickCtx p c).getD 8)
  refine ⟨_, _, heq, hsw, rfl, ?_, rfl, hr.trans (hn.run p c), hrods.trans hn.rods⟩
  cases hk : ((s.latchSched p).noteReady p).pickCtx p c with
  | none => exact fun e => absurd e (by simp; omega)
  | some k => exact fun e => pickCtx_ne _ _ _ (hk.trans (congrArg some e))

end

/-- Settles O38: each command by what it answers in the path's turn. -/
theorem contextsAreControlled : Obligations.ContextsAreControlled := by
  unfold Obligations.ContextsAreControlled
  intro path p c s v hp hc hup hw
  have turn (f : State → State × Nat) : (.next (if (decide (p < 16) && decide (c < 8)) = true then s.access path f else s) : Out)
      = .next (s.access path f) := congrArg _ (if_pos (by simp [hp, hc]))
  have henable : exec (.ctxEnable path p c) s = .next (s.access path fun s => s.ctxEnable p c) := turn _
  have hdisable : exec (.ctxDisable path p c) s = .next (s.access path fun s => s.ctxDisable p c) := turn _
  have hyield : exec (.ctxYield path p c) s = .next (s.access path fun s => s.ctxYield p c) := turn _
  have hevict : exec (.ctxEvict path p c) s = .next (s.access path fun s => s.ctxEvict p c) := turn _
  refine ⟨fun h => exec_accepted henable hup hw (ctxEnable_held h), fun hdis hen => ⟨fun hclear => ?_, fun k a b hk hne henk ha hb
    hab hba => ?_⟩, fun hen hrun => ?_, fun hen hrun hres hnow => ?_, fun hen hrun h => ?_, fun h => ?_, fun h => ?_,
    fun hres hinc => ⟨fun h => ?_, fun harea hrun hswitch => ?_⟩, fun hres hinc => ?_⟩
  · exact exec_accepted henable hup hw (ctxEnable_enables hdis hen hclear)
  · exact exec_refused henable hup hw (ctxEnable_clashes hdis hen hk hne henk ha hb hab hba) (by decide)
  · obtain ⟨u, heq, h⟩ := ctxDisable_idle hen hc hrun
    exact ⟨u, exec_accepted hdisable hup hw heq, h⟩
  · obtain ⟨u, heq, h⟩ := ctxDisable_switchedOut hen hrun hres hnow
    exact ⟨u, exec_accepted hdisable hup hw heq, h⟩
  · exact exec_accepted hdisable hup hw (ctxDisable_waits hen hrun h)
  · exact exec_accepted hyield hup hw (ctxYield_noted h)
  · exact exec_accepted hevict hup hw (ctxEvict_incoming h)
  · exact exec_accepted hevict hup hw (ctxEvict_yields hres hinc h)
  · obtain ⟨t, w, heq, h⟩ := ctxEvict_switches hres hinc hc harea hrun hswitch
    exact ⟨_, w, exec_accepted hevict hup hw heq, h⟩
  · obtain ⟨hy, he⟩ := yield_evict_elsewhere hres hinc
    exact ⟨exec_accepted hyield hup hw hy, exec_accepted hevict hup hw he⟩

end Sys2Proof.Machine
end

section
/-! Hard switches: the rods that take part, what is saved, and what the restoring of an idle context leaves (R348, R350). -/

namespace Sys2Proof.Machine

open Sys2Proof

/-! The rods of a partition, each once (R37). -/

theorem rodFrame_of_mem {f r : Nat} (h : r ∈ frameRods f) : rodFrame r = f := by
  obtain ⟨i, hi, rfl⟩ := List.mem_map.1 h
  rw [mem_upto] at hi
  unfold rodFrame rodY rodX rodAt
  omega

theorem nodup_frameRods (f : Nat) : (frameRods f).Nodup := by
  unfold frameRods
  rw [upto_eq_range]
  refine List.Nodup.map_on (fun i hi j hj h => ?_) List.nodup_range
  rw [List.mem_range] at hi hj
  unfold rodAt at h
  omega

theorem nodup_switchRods (s : State) (p : Nat) : (s.switchRods p).Nodup := by
  refine List.Nodup.filter _ (List.nodup_flatMap.2 ⟨fun f _ => nodup_frameRods f, ?_⟩)
  have hbits : (s.partFrames p).Nodup := by
    unfold State.partFrames setBits
    rw [upto_eq_range]
    exact List.nodup_range.filter _
  refine hbits.imp fun hne r hf hg => hne ?_
  rw [← rodFrame_of_mem hf, rodFrame_of_mem hg]

/-! The rods are saved (R348). -/

theorem rod_foldl_settle (s : State) {l : List Nat} (hl : l.Nodup) {r : Nat} (hr : r ∈ l) :
    (l.foldl (fun s r => s.setRod r ((s.rod r).settleAt s.cycle false)) s).rod r = (s.rod r).settleAt s.cycle false := by
  induction l generalizing s with
  | nil => exact absurd hr List.not_mem_nil
  | cons x l ih =>
    obtain ⟨hx, hl⟩ := List.nodup_cons.1 hl
    rw [List.foldl_cons]
    obtain rfl | hr := List.mem_cons.1 hr
    · refine (List.foldlRecOn (motive := fun t : State => t.rod r = (s.rod r).settleAt s.cycle false) l _ (by simp) fun t ht y hy => ?_)
      rw [rod_setRod, if_neg fun e : r = y => hx (e ▸ hy), ht]
    · rw [ih _ hl hr, rod_setRod, if_neg fun e : r = x => hx (e ▸ hr), setRod_cycle]

theorem NoStart.saveRod {s t : State} {r a : Nat} (h : NoStart s t) : NoStart s (t.saveRod r a) := h.frame rfl rfl rfl

theorem NoStart.saveOut {s t : State} {p out : Nat} (h : NoStart s t) : NoStart s (t.saveOut p out) := by
  unfold State.saveOut
  extract_lets rods a s1 s2 saved s3 s4 x s5
  have h2 : NoStart s s2 := h.phaseTick.foldl fun _ _ h => h.setRod
  have h4 : NoStart s s4 := (h2.foldl fun _ _ h => h.saveRod).holdOff
  have h5 : NoStart s s5 := h4.setCtx fun hr => by simp [x, hr]
  exact h5.foldl fun _ _ h => h.setRod

/-- The outgoing context holds the state of its rods, each with what had become due on it (R348, R349). -/
theorem saveOut_saves (s : State) (p out : Nat) : ((s.saveOut p out).ctx p out).savedRods =
    (s.switchRods p).map fun r => (r, (s.rod r).settleAt s.cycle false) := by
  unfold State.saveOut
  extract_lets rods a s1 s2 saved s3 s4 x s5
  have hsaved : saved = rods.map fun r => (r, (s.rod r).settleAt s.cycle false) := by
    refine List.map_congr_left fun r hr => congrArg (Prod.mk r) ((rod_foldl_settle s1 (nodup_switchRods s p) hr).trans ?_)
    unfold s1
    rw [phaseTick_frame]
    rfl
  obtain ⟨m, rs, heq⟩ : OnMesh s5 (rods.foldl (fun s r => s.setRod r
      { (s.rod r).stop with ended := false, stalled := false, waitStrokes := 0 }) s5) :=
    List.foldlRecOn (motive := OnMesh s5) _ _ .refl fun _ h _ _ => h.setRod
  rw [heq]
  exact (congrArg Ctx.savedRods ((ctx_setCtx ..).trans (if_pos rfl))).trans hsaved

/-- Where the incoming context has no command, or there is none, nothing is restored (R348). -/
theorem restoreIn_idle (s : State) (p inn out : Nat) (h : inn < 8 → (s.ctx p inn).run = none) :
    ((s.restoreIn p inn).ctx p out).savedRods = (s.ctx p out).savedRods := by
  have hctx (k : Nat) : ∃ a, (((s.phaseTick p).endYield p inn).ctx p k) = { s.ctx p k with account := a } := by
    obtain ⟨a, ha⟩ := endYield_ctx (s.phaseTick p) p inn k
    refine ⟨a, ha.trans ?_⟩
    rw [phaseTick_frame]
    rfl
  unfold State.restoreIn
  extract_lets +onlyGivenNames s1 x
  obtain ⟨a, ha⟩ := hctx out
  have hkept (c : Nat) : ((s1.setResident p c).ctx p out).savedRods = (s.ctx p out).savedRods :=
    (congrArg Ctx.savedRods ha :)
  split
  · exact hkept _
  · next hin =>
    have hx : x.run = none := by
      obtain ⟨b, hb⟩ := hctx inn
      exact (congrArg Ctx.run hb).trans (h (by omega))
    rw [hx]
    exact hkept _

end Sys2Proof.Machine
end

section
/-! Decisions while a command runs, and the steps of hard switches (R344 to R348, R350). -/

namespace Sys2Proof.Machine

open Sys2Proof

variable {s : State} {p : Nat}

section
variable (hp : p < 16) (hruns : s.runsNow p = true)
include hp hruns

/-- At the end of a slice a new one begins, or the grace time if another context is chosen (R344, R345). -/
theorem sliceExpiry_decides (hgrace : (s.part p).graceAt = 0) (hdue : (s.part p).sliceAt + 1000 * (s.part p).sliceUs ≤ s.ns) :
    ∃ t, exec (.sliceExpiry p) s = .next t ∧ t.resident p = s.resident p ∧ t.rods = s.rods ∧
      (((s.latchSched p).noteReady p).pickCtx p 8 = some (s.resident p) ∨ ((s.latchSched p).noteReady p).pickCtx p 8 = none →
        (t.part p).sliceAt = s.ns ∧ (t.part p).graceAt = 0) ∧
      ∀ k, ((s.latchSched p).noteReady p).pickCtx p 8 = some k → k ≠ s.resident p → (t.part p).graceAt = s.ns + 1 := by
  have hn := noted_decision s p
  have hexec : exec (.sliceExpiry p) s = (let n := (s.latchSched p).noteReady p
      if n.pickCtx p 8 = some (n.resident p) || n.pickCtx p 8 = none then .next (n.setPart p { n.part p with sliceAt := n.ns })
      else .next (n.setPart p { n.part p with graceAt := n.ns + 1 })) := if_neg (by simp [hp, hruns, hgrace, hdue])
  rw [hexec]
  generalize (s.latchSched p).noteReady p = n at hn ⊢
  dsimp only
  rw [hn.resident p]
  split
  · next hpick =>
    simp only [Bool.or_eq_true, decide_eq_true_eq] at hpick
    refine ⟨_, rfl, hn.resident p, hn.rods, fun _ => ?_, fun k hk hne => ?_⟩
    · simp [hn.ns, hn.graceAt, hgrace]
    · rw [hk] at hpick
      simp [hne] at hpick
  · next hpick =>
    simp only [Bool.or_eq_true, decide_eq_true_eq] at hpick
    exact ⟨_, rfl, hn.resident p, hn.rods, fun h => absurd h hpick, fun k _ _ => by simp [hn.ns]⟩

/-- At the end of the grace time a hard switch to the chosen context begins, or the grace ends (R345). -/
theorem yieldGraceExpiry_switches {k : Nat} (hgrace : (s.part p).graceAt ≠ 0)
    (hdue : (s.part p).graceAt + 1000 * (s.part p).graceUs ≤ s.ns + 1) (harea : (s.saveArea p (s.resident p)).isSome = true)
    (hpick : ((s.latchSched p).noteReady p).pickCtx p 8 = some k) : ∃ t, exec (.yieldGraceExpiry p) s = .next t ∧
      (t.part p).graceAt = 0 ∧ t.rods = s.rods ∧ (k = s.resident p → (t.part p).switch = none) ∧
      (k ≠ s.resident p → (t.part p).switch = some { out := s.resident p, inn := k, at_ := s.ns, saved := false }) := by
  have hn := noted_decision s p
  have hnone : (s.part p).switch = none := by
    have h := hruns
    simp only [State.runsNow, Bool.and_eq_true, Option.isNone_iff_eq_none] at h
    exact h.2
  have hexec : exec (.yieldGraceExpiry p) s = .next (let n := (s.latchSched p).noteReady p
      if k = s.resident p then n.setPart p { n.part p with graceAt := 0 } else n.startSwitch p (s.resident p) k) := by
    show execYieldGraceExpiry p s = _
    unfold execYieldGraceExpiry
    extract_lets x c n
    have harea' : (s.saveArea p c).isNone = false := Option.isNone_eq_false_iff.2 harea
    rw [if_neg (by simp [hp, hruns, x, hgrace, hdue, harea'])]
    have hpick' : n.pickCtx p 8 = some k := hpick
    rw [hpick']
  rw [hexec]
  generalize (s.latchSched p).noteReady p = n at hn ⊢
  obtain ⟨hsw, hg, -, hrods⟩ := startSwitch_spec n p (s.resident p) k
  refine ⟨_, rfl, ?_⟩
  dsimp only
  split
  · next hk => exact ⟨by simp, hn.rods, fun _ => by simp [hn.switch, hnone], fun h => absurd hk h⟩
  · next hk => exact ⟨hg, hrods.trans hn.rods, fun h => absurd h hk, fun _ => hn.ns ▸ hsw⟩

/-- A command that has waited long enough gives way to a READY context of lower virtual time (R347). -/
theorem waitSwitchTimeout_switches {k : Nat} (hus : s.o (kPT_WAIT_SWITCH_US p) ≠ 0xFFFFFFFF)
    (hwaited : s.hasWaited p (1000 * s.o (kPT_WAIT_SWITCH_US p)) = true) (harea : (s.saveArea p (s.resident p)).isSome = true)
    (hpick : ((s.latchSched p).noteReady p).pickCtx p (s.resident p) = some k)
    (hlow : (((s.latchSched p).noteReady p).ctx p k).vtime.lt (((s.latchSched p).noteReady p).ctx p (s.resident p)).vtime = true) :
    ∃ t, exec (.waitSwitchTimeout p) s = .next t ∧
      (t.part p).switch = some { out := s.resident p, inn := k, at_ := s.ns, saved := false } ∧ t.rods = s.rods := by
  have hn := noted_decision s p
  have harea' : (((s.latchSched p).noteReady p).saveArea p (s.resident p)).isSome = true := by rw [hn.saveArea, harea]
  have hexec : exec (.waitSwitchTimeout p) s = .next (((s.latchSched p).noteReady p).startSwitch p (s.resident p) k) := by
    show execWaitSwitchTimeout p s = _
    unfold execWaitSwitchTimeout
    extract_lets us c n
    have hpick' : n.pickCtx p c = some k := hpick
    rw [if_neg (by simp [hp, hruns, us, hus, hwaited]), hpick']
    exact congrArg (.next : State → Out) (if_pos (by simp [n, c, hlow, harea']))
  obtain ⟨hsw, -, -, hrods⟩ := startSwitch_spec ((s.latchSched p).noteReady p) p (s.resident p) k
  exact ⟨_, hexec, hn.ns ▸ hsw, hrods.trans hn.rods⟩

end

section
variable {w : Switch} (hp : p < 16) (hswitch : (s.part p).switch = some w)
include hp hswitch

/-- Once the work of the rods has ended, the outgoing context's are saved (R348). -/
theorem hardSwitchSave_saves (hsaved : w.saved = false) (hdrained : ∀ r ∈ s.switchRods p, s.rodDrained r = true) :
    ∃ t, exec (.hardSwitchSave p) s = .next t ∧ (t.part p).switch = some { w with saved := true } ∧
      (w.out < 8 → w.inn ≠ w.out → (w.inn < 8 → (s.ctx p w.inn).run = none) →
        (t.ctx p w.out).savedRods = (s.switchRods p).map (fun r => (r, (s.rod r).settleAt s.cycle false))) := by
  show ∃ t, execHardSwitchSave p s = .next t ∧ _
  unfold execHardSwitchSave
  rw [hswitch]
  dsimp only
  rw [if_neg (by simpa [hp, hsaved] using hdrained)]
  refine ⟨_, rfl, by simp, fun hout _ hidle => ?_⟩
  rw [if_pos hout, setPart_ctx, restoreIn_idle _ _ _ _ fun hin => NoStart.refl.saveOut.run _ (hidle hin), saveOut_saves]

/-- After the save the switch ends, and a new slice begins (R348). -/
theorem hardSwitchEnd_ends (hsaved : w.saved = true)
    (hevict : w.inn < 8 → s.resident p = w.inn → (s.ctx p w.inn).yieldReq ≠ 2) : ∃ t : State,
    exec (.hardSwitchEnd p) s = .next t.pollAll ∧ (t.part p).switch = none ∧ (t.part p).sliceAt = s.ns ∧
      (t.part p).graceAt = 0 ∧ t.resident p = s.resident p ∧ t.rods = s.rods := by
  show ∃ t : State, execHardSwitchEnd p s = .next t.pollAll ∧ _
  unfold execHardSwitchEnd
  rw [hswitch]
  dsimp only
  rw [if_neg (by simp [hp, hsaved])]
  generalize hu : s.setPart p { s.part p with switch := none, sliceAt := s.ns, graceAt := 0 } = u
  have hn : Noted (u.phaseTick p) ((u.phaseTick p).noteReady p) := Noted.refl.noteReady
  have htick := phaseTick_frame u p
  generalize (u.phaseTick p).noteReady p = n at hn ⊢
  rw [htick] at hn
  have hres : n.resident p = s.resident p := by
    rw [hn.resident, ← hu]
    rfl
  have hyield (k : Nat) : (n.ctx p k).yieldReq = (s.ctx p k).yieldReq := by
    rw [hn.yieldReq, ← hu]
    rfl
  have hpart : u.part p = { s.part p with switch := none, sliceAt := s.ns, graceAt := 0 } := by simp [← hu]
  rw [if_neg ?_]
  · refine ⟨n, rfl, (hn.switch p).trans (congrArg Part.switch hpart), (hn.sliceAt p).trans (congrArg Part.sliceAt hpart),
      (hn.graceAt p).trans (congrArg Part.graceAt hpart), hres, ?_⟩
    rw [hn.rods, ← hu]
    rfl
  · rw [hres, hyield]
    simp only [Bool.and_eq_true, decide_eq_true_eq]
    rintro ⟨⟨h8, hin⟩, h2⟩
    exact hevict h8 hin h2

end

/-! The interference index (R352). -/

/-- The cycles that the parts of the other partitions sum to: the model's lists are the statement's. -/
theorem interference_parts (p : Nat) (l : List (Nat × Nat)) :
    ((upto 16).map fun k => ((l.filter fun d => d.1 != p && decide (d.1 < 16)).filter (fun d => d.1 == k)).foldl
      (fun n d => n + d.2) 0) =
    (upto 16).map fun k => if k = p then 0 else ((l.filter fun d => d.1 == k).map (·.2)).sum := by
  refine List.map_congr_left fun k hk => ?_
  rw [mem_upto] at hk
  have hsum (m : List (Nat × Nat)) : m.foldl (fun n d => n + d.2) 0 = (m.map (·.2)).sum := by
    rw [List.sum_eq_foldl, List.foldl_map]
  rw [hsum, List.filter_filter]
  split
  · next e =>
    rw [List.filter_eq_nil_iff.2 (by simp +contextual [e])]
    rfl
  · next hne =>
    congr 2
    refine List.filter_congr fun d _ => ?_
    by_cases hd : d.1 = k
    · simp [hd, hne, hk]
    · simp [hd]

/-- Where some partition delayed the engines, the source is one whose part none exceeds. -/
theorem iiSource_spec {parts : List Nat} {j : Nat} (hj : j < 16) (hpos : 0 < parts.getD j 0) :
    iiSource parts < 16 ∧ 0 < parts.getD (iiSource parts) 0 ∧ ∀ k, k < 16 → parts.getD k 0 ≤ parts.getD (iiSource parts) 0 := by
  have hfold : ∀ n ≤ 16, let b := (upto n).foldl (fun b k =>
      if 0 < parts.getD k 0 && (b == 0xFF || decide (parts.getD b 0 < parts.getD k 0)) then k else b) 0xFF
      (b = 0xFF ∧ ∀ k, k < n → parts.getD k 0 = 0) ∨
        (b < n ∧ 0 < parts.getD b 0 ∧ ∀ k, k < n → parts.getD k 0 ≤ parts.getD b 0) := by
    intro n hn
    induction n with
    | zero => exact .inl ⟨rfl, fun k hk => absurd hk (Nat.not_lt_zero k)⟩
    | succ n ih =>
      have ih := ih (by omega)
      dsimp only at ih ⊢
      rw [upto, List.foldl_append, List.foldl_cons, List.foldl_nil]
      generalize (upto n).foldl _ 0xFF = b at ih ⊢
      have hlast (k : Nat) (hk : k < n + 1) : k < n ∨ k = n := by omega
      split
      · next hc =>
        simp only [Bool.and_eq_true, Bool.or_eq_true, decide_eq_true_eq, beq_iff_eq] at hc
        obtain ⟨hposn, hmore⟩ := hc
        refine .inr ⟨by omega, hposn, fun k hk => ?_⟩
        obtain hk | rfl := hlast k hk
        · obtain ⟨-, hzero⟩ | ⟨hb, -, hmax⟩ := ih
          · rw [hzero k hk]
            exact Nat.zero_le _
          · have := hmax k hk
            omega
        · exact le_rfl
      · next hc =>
        simp only [Bool.and_eq_true, Bool.or_eq_true, decide_eq_true_eq, beq_iff_eq, not_and_or, not_or] at hc
        obtain ⟨hb, hzero⟩ | ⟨hb, hposb, hmax⟩ := ih
        · refine .inl ⟨hb, fun k hk => ?_⟩
          obtain hk | rfl := hlast k hk
          · exact hzero k hk
          · omega
        · refine .inr ⟨by omega, hposb, fun k hk => ?_⟩
          obtain hk | rfl := hlast k hk
          · exact hmax k hk
          · omega
  obtain ⟨-, hzero⟩ | h := hfold 16 le_rfl
  · exact absurd (hzero j hj) hpos.ne'
  · exact h

/-- The statement's parts of the other partitions, in the cycles that the two lists give. -/
def iiParts (p : Nat) (l : List (Nat × Nat)) : List Nat :=
  (upto 16).map fun k => if k = p then 0 else ((l.filter fun d => d.1 == k).map (·.2)).sum

theorem getD_iiParts {p k : Nat} {l : List (Nat × Nat)} (hk : k < 16) :
    (iiParts p l).getD k 0 = if k = p then 0 else ((l.filter fun d => d.1 == k).map (·.2)).sum := by
  rw [iiParts, upto_eq_range, List.getD_eq_getElem?_getD, List.getElem?_map, List.getElem?_range hk]
  rfl

/-- A sum above 0 has a part above 0, and the source is another partition with the largest part (R352). -/
theorem iiSource_iiParts {p : Nat} {l : List (Nat × Nat)} (hpos : 0 < (iiParts p l).sum) : iiSource (iiParts p l) < 16 ∧
    iiSource (iiParts p l) ≠ p ∧ ∀ k, k < 16 → (iiParts p l).getD k 0 ≤ (iiParts p l).getD (iiSource (iiParts p l)) 0 := by
  obtain ⟨j, hj, hjpos⟩ : ∃ j < 16, 0 < (iiParts p l).getD j 0 := by
    by_contra! hall
    refine hpos.ne' (List.sum_eq_zero fun x hx => ?_)
    obtain ⟨k, hk, rfl⟩ := List.mem_map.1 hx
    have := hall k (mem_upto.1 hk)
    rw [getD_iiParts (mem_upto.1 hk)] at this
    omega
  obtain ⟨hlt, hsrc, hmax⟩ := iiSource_spec hj hjpos
  refine ⟨hlt, fun e => ?_, hmax⟩
  rw [getD_iiParts hlt, if_pos e] at hsrc
  exact hsrc.false

/-- At the end of a window the index and its source are written, both counts begin again, and an index above the warning is
recorded (R352). -/
theorem iiWindowEnd_writes {p twice : Nat} {routers grants : List (Nat × Nat)} {s : State} (hp : p < 16)
    (hdue : (s.part p).iiFrom + (s.part p).iiWindow ≤ s.stroke) :
    let x := (iiParts p (routers ++ grants)).sum - twice
    let c := (s.part p).iiRes + (if s.resident p < 8 then s.cycle - (s.part p).iiMark else 0)
    let i : F32 := if c = x then 0 else f32ofRat false x (c - x)
    let warn : F32 := BitVec.ofNat 32 (s.o (kPT_II_WARN p))
    x ≤ c → ∃ t, exec (.iiWindowEnd p routers grants twice) s = .next t ∧ (t.part p).iiFrom = s.stroke ∧
      (t.part p).iiRes = 0 ∧ (t.part p).iiMark = s.cycle ∧ t.o (kPT_II p) = i.toNat ∧
      t.o (kPT_II_SOURCE p) = (if x = 0 then 0xFF else iiSource (iiParts p (routers ++ grants))) ∧
      t.errs.seq = s.errs.seq + (if f32lt 0 warn && f32lt warn i then 1 else 0) ∧ t.rods = s.rods := by
  intro x c i warn hle
  show ∃ t, execIiWindowEnd p routers grants twice s = .next t ∧ _
  unfold execIiWindowEnd
  extract_lets q all parts' x' c' i' src u v warn'
  have hparts : parts' = iiParts p (routers ++ grants) := interference_parts p (routers ++ grants)
  have hx : x' = x := by
    unfold x' x
    rw [hparts, List.sum_eq_foldl]
  have hi : i' = i := by
    unfold i' i
    rw [hx]
  have hsrc : src = if x = 0 then 0xFF else iiSource (iiParts p (routers ++ grants)) := by
    unfold src
    rw [hx, hparts]
  have hwarn : warn' = warn := by
    unfold warn' warn v u
    simp
  rw [if_neg (by simp [hp, hx, q, hdue]; exact hle), hwarn, hi]
  have hv : (v.part p).iiFrom = s.stroke ∧ (v.part p).iiRes = 0 ∧ (v.part p).iiMark = s.cycle ∧ v.o (kPT_II p) = i.toNat ∧
      v.o (kPT_II_SOURCE p) = src ∧ v.errs = s.errs ∧ v.rods = s.rods := by
    unfold v u
    simp [hi]
  clear_value v
  obtain ⟨hfrom, hres, hmark, hii, hsource, herrs, hrods⟩ := hv
  rw [← hsrc]
  split
  · have ho (r : ErrRec) (hr : r.cls ≠ 3) (k : Nat) : (v.errRec r).o k = v.o k := by rw [State.o, errRec_objs v r hr, State.o]
    refine ⟨_, rfl, ?_⟩
    rw [errRec_part, errRec_seq, errRec_rods, ho _ (Nat.zero_ne_add_one 2), ho _ (Nat.zero_ne_add_one 2), herrs]
    exact ⟨hfrom, hres, hmark, hii, hsource, rfl, hrods⟩
  · exact ⟨v, rfl, hfrom, hres, hmark, hii, hsource, by rw [herrs, Nat.add_zero], hrods⟩

/-- Settles O39: each expiry by the decision that it takes, the steps of a switch by theirs, and the window's end by what it
writes. -/
theorem decisionsAndHardSwitches : Obligations.DecisionsAndHardSwitches := by
  unfold Obligations.DecisionsAndHardSwitches
  refine ⟨fun p s => sliceExpiry_decides, fun p k s hp hruns => yieldGraceExpiry_switches hp hruns,
    fun p k s hp hruns => waitSwitchTimeout_switches hp hruns, fun p w s => hardSwitchSave_saves,
    fun p w s => hardSwitchEnd_ends, ?_⟩
  intro p twice routers grants s hp hdue parts x c i warn hle
  obtain ⟨t, hexec, hfrom, hres, hmark, hii, hsource, hseq, hrods⟩ := iiWindowEnd_writes hp hdue hle
  refine ⟨t, _, hexec, hfrom, hres, hmark, hii, hsource, fun h0 => if_pos h0, fun hpos => ?_, hseq, hrods⟩
  have hx : 0 < (iiParts p (routers ++ grants)).sum - twice := hpos
  rw [if_neg hx.ne']
  exact iiSource_iiParts (Nat.lt_of_lt_of_le hx (Nat.sub_le _ _))

end Sys2Proof.Machine
end
